-- ==== Sys2Proof/Word.lean ====
section
/-! DEFINITION. The plain data types every other file is written in. -/

namespace Sys2Proof

/-- One byte. -/
abbrev Byte := BitVec 8

/-- The low 120 bits of a Ralmel instruction word; the opcode stands above them. -/
abbrev Body := BitVec 120

/-- A sparse table: keys strictly rising, and no entry that equals what an unlisted key reads as. -/
abbrev Tab (α : Type) := List (Nat × α)

end Sys2Proof
end

