-- ==== Sys2Proof/Syntax.lean ====
section
/-! DEFINITION. The command set: the one inductive of the block's commands, with the operand types
its constructors carry. -/

namespace Sys2Proof

/-- One request at a scratchpad bank (R275): its level 1 to 6, whether it is for the present iteration's line, its line, and
the bytes it writes (none: a read). -/
structure BankReq where
  level : Nat
  present : Bool
  line : Nat
  write : Option (List (Nat × Byte))
  deriving DecidableEq, Repr

/-- An engine operation that made an access (R594): the one at the head of the queue of engine `e` of context `c` of troupe
`g`. -/
structure OpRef where
  g : Nat
  c : Nat
  e : Nat
  deriving DecidableEq, Repr

/-- The header of a packet that arrives, but for the fields of its type (R441): the two device IDs, its class lane, whether it came on the
escape lane, the job's `GROUP` and `GEN`, and the stamp. -/
structure PktHead where
  dst : Nat
  src : Nat
  lane : Nat
  esc : Bool
  group : Nat
  gen : Nat
  stamp : Nat
  deriving DecidableEq, Repr

/-- How a Juggler transfer ends in one core (R316, R320): done, a `SPACE` 3 read that failed at an
address, or an uncorrectable memory error met on the way. -/
inductive DmaResult where
  | ok
  | hostFail (addr : Nat)
  | eccUncorr (island : Nat)
  deriving DecidableEq, Repr

/-- A configuration request of the host (R465): a read, or a write of one of the fields the model
holds of the configuration space (R462). -/
inductive ConfigReq where
  | read
  | busMaster (en : Bool)
  | msixControl (en mask : Bool)
  | powerState (d3hot : Bool)
  deriving DecidableEq, Repr

/-- The module of a DDR5 channel as its SPD hub and its training show it (R341, R342): the channel, whether it is an
MRDIMM, whether it is a supported kind with ECC and alone on its channel, its size in GiB, its highest rate in MT/s, and
whether training succeeds. -/
structure DdrModule where
  ch : Nat
  mrdimm : Bool
  supported : Bool
  gib : Nat
  rate : Nat
  trained : Bool
  deriving DecidableEq, Repr

/-- What a start-up step brings when it completes (R510), after its duration in µs: nothing more; which of the three
objects the flash gave (step 3); the cores that failed, the analogue checks that failed and whether any other signature
did (step 7); the stacks that failed training, the modules found and the frames the firmware reserves (step 8);
or a failure with a cause of R517. -/
inductive BootResult where
  | done (us : Nat)
  | read (us : Nat) (imageOk playbillOk testOk : Bool)
  | selfTest (us : Nat) (cores : List Nat) (analogue : Nat) (otherFail : Bool)
  | memory (us : Nat) (stacksLost : List Nat) (mods : List DdrModule) (tables : List Nat)
  | failed (us cause : Nat)
  deriving DecidableEq, Repr

/-- The instructions of the IEEE 1149.1 test port that R585 supports, and any other. -/
inductive JtagInstr where
  | bypass | idcode | samplePreload | extest | clamp | highz
  | other (code : Nat)
  deriving DecidableEq, Repr

/-- The commands of the block, one per row of the opcode table. A Ralmel instruction carries the troupe
`g`, the stream context `c` and the body of the word that the Ringmaster fetched at the context's
`CTX_PC`; an event carries what its environment decides. -/
inductive Instr where
  /-- LOOP, R97. The loop instruction pushes a program-loop level over the next LEN instructions, and the loop stack counts and pops that level at its back-edge. -/
  | loop (g c : Nat) (w : Body)
  /-- BR, R98. The br instruction transfers issue to pc + 16 × OFS when its flag condition holds, ending any active loop levels that it leaves. -/
  | br (g c : Nat) (w : Body)
  /-- FSET, R68. The fset instruction adds n to a flag at issue, saturating at 0xFFFF. -/
  | fset (g c : Nat) (w : Body)
  /-- FWAIT, R69. The fwait instruction blocks the context's issue until the flag is at least n, then subtracts n. -/
  | fwait (g c : Nat) (w : Body)
  /-- QWAIT, R65. The qwait instruction blocks the context's issue until the QDEPTH count of the named engine is at most n. -/
  | qwait (g c : Nat) (w : Body)
  /-- BEAT_WAIT, R100. The beat instruction with MODE 0 blocks the context's issue until the job's next beat release. -/
  | beatWait (g c : Nat) (w : Body)
  /-- BEAT_MARK, R100. The beat instruction with MODE 1 marks the end of the beat's must-work once every earlier engine operation of the context has retired. -/
  | beatMark (g c : Nat) (w : Body)
  /-- CURTAIN, R101. The curtain instruction is a curtain point: it completes at issue, or stops the context for a pending Curtain and copies LCNT loader records. -/
  | curtain (g c : Nat) (w : Body)
  /-- TSTAMP, R102. The tstamp instruction writes one trace record with EVENT 0x8000 + CODE to the job's trace stream. -/
  | tstamp (g c : Nat) (w : Body)
  /-- SCHED, R103. The sched instruction blocks until the schedule holds a token for one of its stages, then writes the token into three context flags. -/
  | sched (g c : Nat) (w : Body)
  /-- HALT, R76. The halt instruction stops the context's issue and moves the context to DRAIN. -/
  | halt (g c : Nat) (w : Body)
  /-- DMV, R105. The dmv instruction copies D0 to D1 element by element, converting formats and applying the destination's pad policy. -/
  | dmv (g c : Nat) (w : Body)
  /-- DTR, R106. The dtr instruction copies D0 to D1 with its dimensions permuted, out of place or in place, through the Hall of Mirrors where PERM[0] is nonzero. -/
  | dtr (g c : Nat) (w : Body)
  /-- DGAT, R107. The dgat instruction gathers slices of D0 along DIM, at the positions that the INT32 index tensor D2 gives, into D1. -/
  | dgat (g c : Nat) (w : Body)
  /-- DSCT, R107. The dsct instruction scatters slices of D0 into D1 along DIM, at the positions that D2 gives. -/
  | dsct (g c : Nat) (w : Body)
  /-- DFILL, R108. The dfill instruction writes VALUE to every valid element of D0. -/
  | dfill (g c : Nat) (w : Body)
  /-- MWL, R110. The mwl instruction loads the weight tile D0 into the array, or into the issuing context's half of a split array. -/
  | mwl (g c : Nat) (w : Body)
  /-- MMA, R111. The mma instruction streams the activation rows of D0 through the array into tile T, with optional weight load, cross mode and window placement. -/
  | mma (g c : Nat) (w : Body)
  /-- MMX, R112. The mmx instruction runs mma in maximum or minimum mode, writing winners to tile T and their K-indices to tile T + 1. -/
  | mmx (g c : Nat) (w : Body)
  /-- ACCP, R176. The accp instruction preloads tile T from D0 and places its window. -/
  | accp (g c : Nat) (w : Body)
  /-- ACCZ, R177. The accz instruction clears tile T and resets its window state. -/
  | accz (g c : Nat) (w : Body)
  /-- ACCD, R181. The accd instruction waits for tile T to have no product in flight, then drains it to D0 with one rounding and an optional clear. -/
  | accd (g c : Nat) (w : Body)
  /-- ASPLIT, R115. The asplit instruction divides the array of every enabled core into two 64 × 32 halves, or joins them again, once both contexts' arrays are idle. -/
  | asplit (g c : Nat) (w : Body)
  /-- SX_ADD, R116. The sx.add instruction writes A + B element-wise, memory to memory. -/
  | sxAdd (g c : Nat) (w : Body)
  /-- SX_SUB, R116. The sx.sub instruction writes A − B element-wise. -/
  | sxSub (g c : Nat) (w : Body)
  /-- SX_MUL, R116. The sx.mul instruction writes A × B element-wise. -/
  | sxMul (g c : Nat) (w : Body)
  /-- SX_FMA, R116. The sx.fma instruction writes A × B + C element-wise with one rounding. -/
  | sxFma (g c : Nat) (w : Body)
  /-- SX_MIN, R220. The sx.min instruction writes min(A, B) element-wise, with NaN propagated. -/
  | sxMin (g c : Nat) (w : Body)
  /-- SX_MAX, R220. The sx.max instruction writes max(A, B) element-wise, with NaN propagated. -/
  | sxMax (g c : Nat) (w : Body)
  /-- SX_CMP, R220. The sx.cmp instruction writes 1.0 or 0.0 by the comparison COND of A and B. -/
  | sxCmp (g c : Nat) (w : Body)
  /-- SX_SEL, R220. The sx.sel instruction writes A where C is nonzero and B otherwise. -/
  | sxSel (g c : Nat) (w : Body)
  /-- SX_ABS, R220. The sx.abs instruction writes |A| element-wise. -/
  | sxAbs (g c : Nat) (w : Body)
  /-- SX_CVT, R219. The sx.cvt instruction converts A to each output's format with one rounding. -/
  | sxCvt (g c : Nat) (w : Body)
  /-- SX_CLAMP, R220. The sx.clamp instruction writes min(max(A, B), C) element-wise. -/
  | sxClamp (g c : Nat) (w : Body)
  /-- SX_SFN, R222. The sx.sfn instruction writes f(A) from special-function slot SLOT, at 256 elements per clk. -/
  | sxSfn (g c : Nat) (w : Body)
  /-- LV_VL, R119. The lv.vl instruction sets the context's VL in the Lane queue. -/
  | lvVl (g c : Nat) (w : Body)
  /-- LV_LD, R227. The lv.ld instruction fills VL lanes of a register from D0's valid tile. -/
  | lvLd (g c : Nat) (w : Body)
  /-- LV_ST, R227. The lv.st instruction writes VL lanes of a register to D0, in whole blocks for MX formats. -/
  | lvSt (g c : Nat) (w : Body)
  /-- LV_ADD, R120. The lv.add instruction computes VD = VA + VB. -/
  | lvAdd (g c : Nat) (w : Body)
  /-- LV_MUL, R120. The lv.mul instruction computes VD = VA × VB. -/
  | lvMul (g c : Nat) (w : Body)
  /-- LV_FMA, R120. The lv.fma instruction computes VD = VA × VB + VC with one rounding. -/
  | lvFma (g c : Nat) (w : Body)
  /-- LV_MAX, R120. The lv.max instruction computes VD = max(VA, VB). -/
  | lvMax (g c : Nat) (w : Body)
  /-- LV_MIN, R120. The lv.min instruction computes VD = min(VA, VB). -/
  | lvMin (g c : Nat) (w : Body)
  /-- LV_RED, R229. The lv.red instruction reduces VA into lane 0 of VD by a fixed tree and clears the other lanes. -/
  | lvRed (g c : Nat) (w : Body)
  /-- LPERM, R230. The lperm instruction permutes the lanes of VA by the indices in VB, zeroing out-of-range lanes or trapping on them. -/
  | lperm (g c : Nat) (w : Body)
  /-- LSCAN, R232. The lscan instruction writes the inclusive scan of VA into VD, with its carry-in taken as CARRY selects. -/
  | lscan (g c : Nat) (w : Body)
  /-- LSTAT, R266. The lstat instruction forms or merges (count, mean, M2) triples, optionally along the Parade. -/
  | lstat (g c : Nat) (w : Body)
  /-- LSOFTMAX, R259. The lsoftmax instruction computes the soft maximum of VA in WF35, whole or in parts. -/
  | lsoftmax (g c : Nat) (w : Body)
  /-- SFN, R124. The sfn instruction computes VD = f(VA) with the function in SLOT. -/
  | sfn (g c : Nat) (w : Body)
  /-- TLOAD, R253. The tload instruction checks a table image and writes it into a shadow bank of a loadable slot in every enabled core. -/
  | tload (g c : Nat) (w : Body)
  /-- TSWAP, R125. The tswap instruction flips the live bank of a loadable slot. -/
  | tswap (g c : Nat) (w : Body)
  /-- UPD, R127. The upd instruction runs an update program over blocks of 32 elements once the step number matches. -/
  | upd (g c : Nat) (w : Body)
  /-- ENGINE_WAIT_SATISFIED, R68. The wait flag of an engine instruction at its queue head is found at least 1 and is decreased once, and the instruction starts in each enabled core. -/
  | engineWaitSatisfied (g c e : Nat)
  /-- ENGINE_WAIT_TIMEOUT, R69. An engine-side wait expires its CTX_CFG.WAIT_TMO limit and raises WAIT_TIMEOUT. -/
  | engineWaitTimeout (g c e : Nat)
  /-- FWAIT_TIMEOUT, R69. The timeout of an fwait expires and raises WAIT_TIMEOUT. -/
  | fwaitTimeout (g c : Nat)
  /-- ENGINE_OP_RETIRE, R62. An engine operation retires when its last iteration completes, freeing its queue entry and signalling its flag once retired in every enabled core. -/
  | engineOpRetire (g c e cx : Nat)
  /-- FLAG_SIGNAL_VISIBLE, R70. A signal to a job flag becomes visible to every Ringmaster of the job, and waits are tested afterwards. -/
  | flagSignalVisible (j f : Nat)
  /-- WAIT_CYCLE, R72. The wait monitor finds the job's waits circular for 65,536 clk, raises WAIT_CYCLE and writes one record for each blocked wait. -/
  | waitCycle (j : Nat)
  /-- JOB_STOP_IDLE, R73. Every engine of a HALTING job has become idle, and the job becomes HALTED. -/
  | jobStopIdle (j : Nat)
  /-- CONTEXT_DRAIN_DONE, R76. A DRAIN context's queues empty and it becomes DONE, and the job becomes DONE once every context is DONE. -/
  | contextDrainDone (g c : Nat)
  /-- JOB_CTX_MASK_BIND, R58. A nonzero write of JOB_CTX_MASK replaces the job's bound set of contexts. -/
  | jobCtxMaskBind (j mask : Nat)
  /-- JOB_CTX_MASK_UNBIND, R58. A zero write of JOB_CTX_MASK unbinds all contexts and returns the job to FREE. -/
  | jobCtxMaskUnbind (j : Nat)
  /-- START, R58. The START command starts every bound context at its CTX_PC and makes the job RUNNING. -/
  | start (j : Nat)
  /-- HALT_COMMAND, R73. The HALT command stops a RUNNING or RESTORING job with code 0x00. -/
  | haltCommand (j : Nat)
  /-- RELEASE, R593. The RELEASE command unbinds every context of the job and returns the job's registers, flags, queues and frames to reset. -/
  | release (j : Nat)
  /-- JOB_FLAG_ADD, R71. A host write of JOB_FLAG_ADD adds a value to a job flag that JOB_HOSTFLAGS declares. -/
  | jobFlagAdd (j idx add : Nat)
  /-- REGISTER_WRITE, R60. A write to a register that has no row of its own is checked and then applied, or rejected with no side effect. -/
  | registerWrite (off val : Nat)
  /-- W1C_CLEAR, R381. A write of 1 clears W1C event bits under the set-wins rule, and resends the vector's message if its summary stays 1. -/
  | w1cClear (off mask hw : Nat)
  /-- RC_READ, R10. A read of an RC field returns its value and clears it in the same access. -/
  | rcRead (off ev : Nat)
  /-- ST_SET_SEC, R38. A write of ST_SET_SEC on the System Master stages a forward seconds step for the next whole second. -/
  | stSetSec (val : Nat)
  /-- SECONDS_STEP_APPLY, R38. The seconds step is applied at the chosen whole second in every device, and STEP_DONE sets. -/
  | secondsStepApply (notice : Option (Nat × Nat))
  /-- ST_SNAP_ARM, R39. A write of 1 to ST_SNAP_CTRL.ARM arms a snapshot at ST_SNAP_T. -/
  | stSnapArm
  /-- SNAPSHOT_LATCH, R40. An island's replica reaches T and the island latches its counters into their shadows. -/
  | snapshotLatch (island : Nat)
  /-- SNAPSHOT_DONE, R41. Every island has reported its latch: DONE sets, ARMED clears and SEQ increments. -/
  | snapshotDone
  /-- SHOWTIME_ROOT_TICK, R27. The root advances by the rate word on each 100 MHz reference cycle. -/
  | showtimeRootTick
  /-- SYNC_WORD, R28. A sync word of the root's count arrives at an island replica, which corrects its increment for the next interval. -/
  | syncWord (island : Nat) (corr : Int)
  /-- REPLICA_FAULT, R30. An island misses four sync words, or is asked for a correction above 16 st, and sets REPLICA_FAULT and raises HW_TIMEOUT. -/
  | replicaFault (island : Nat) (missed : Bool)
  /-- TIME_EXCHANGE, R32. Every 2^20 st a parent and child exchange four stamps, and the child filters the offset and slews its root. -/
  | timeExchange (t1 t2 t3 t4 : Nat)
  /-- TIME_EXCHANGE_MISSED, R33. An exchange is missed or discarded, and three in a row while LOCKED set PARENT_LOST and enter HOLDOVER. -/
  | timeExchangeMissed
  /-- LOCK_ACQUIRED, R35. Sixteen consecutive filtered offsets lie within bounds, and the device enters LOCKED. -/
  | lockAcquired
  /-- PPS_IN_EDGE, R36. An accepted PPS_IN rising edge steers the System Master's seconds. -/
  | ppsInEdge (stamp : Nat)
  /-- PPS_LOST, R35. No PPS_IN edge arrives for 1.5 s, and PPS_LOST sets with entry into HOLDOVER. -/
  | ppsLost
  /-- TREF_LOST, R35. TREF_10M leaves the ±300 ppm window, and TREF_LOST sets with entry into HOLDOVER. -/
  | trefLost
  /-- PPS_OUT_HIGH, R37. The replica's bits [29:0] pass zero, and PPS_OUT is driven high. -/
  | ppsOutHigh
  /-- PPS_OUT_LOW, R37. PPS_OUT is driven low 2^27 st after it went high. -/
  | ppsOutLow
  /-- CROSSING_TIMEOUT, R19. A crossing word goes unacknowledged for 65,536 sender periods, raises HW_TIMEOUT and is discarded with the words behind it. -/
  | crossingTimeout (island : Nat) (job : Option Nat) (op : Option OpRef)
  /-- UCIE_MODULE_RETIRE, R12. A UCIe module loses more lanes than it can repair and is retired, as a corrected event 0x0124. -/
  | ucieModuleRetire (link mdl : Nat)
  /-- DIE_LINK_LOST, R15. A die-to-die link fails as a whole, jobs using it raise LINK_LOST, and traffic is routed the other way. -/
  | dieLinkLost (link jobs : Nat)
  /-- ITERATION_RETIRE, R133. An array iteration's last row has been added, and the iteration retires. -/
  | iterationRetire (g c cx : Nat)
  /-- ACC_OVERFLOW_REPLAY, R171. A row write overflows, entry stops, later rows are discarded, the tile is shifted by HSTEP and row m re-enters. -/
  | accOverflowReplay (g c cx : Nat)
  /-- WEIGHT_LOAD_DONE, R137. A weight load writes array row 63, and a waiting iteration may enter. -/
  | weightLoadDone (g c cx : Nat)
  /-- LATCH_REWRITE, R144. After every 64th cross-mode iteration, the latch array is rewritten from the active bank in 64 clk. -/
  | latchRewrite (g cx : Nat)
  /-- SHARED_MODE_COPY, R139. On entry into shared mode, the array copies the running context's last tile into its own bank in 64 clk. -/
  | sharedModeCopy (g cx : Nat)
  /-- DRUMROLL_RISE, R149. An array requesting RISE begins it at the troupe's next start slot. -/
  | drumrollRise (g h : Nat)
  /-- DRUMROLL_LEVEL_STEP, R149. Every 6 clk the Drumroll level rises or falls by one, entering ON at level 8 or OFF at level 0. -/
  | drumrollLevelStep (g cx h : Nat)
  /-- DRUMROLL_FALL, R151. No real row has entered for LINGER clk, and the array enters FALL. -/
  | drumrollFall (g cx h : Nat)
  /-- HALF_FENCE, R153. A half of a split array is fenced on its job halting or restoring, or on a LOGIC_PARITY fault. -/
  | halfFence (g h : Nat) (parity : Bool)
  /-- ARR_CFG_NARROW, R156. A write changing ARR_CFG.NARROW rearranges the array as 256 × 16 when it is OFF and the contexts are unbound or quiesced. -/
  | arrCfgNarrow (g cx val : Nat)
  /-- STREAM_CHUNK_ADVANCE, R216. A Stream chunk advances once every line it reads has been delivered. -/
  | streamChunkAdvance (g c cx stall raw : Nat)
  /-- PARADE_HOP, R238. A core's carry-out is ready and passes to the next core of the Parade. -/
  | paradeHop (g c : Nat)
  /-- CARRY_RECORD_PUSH, R239. The troupe carry-out is pushed as a carry record into the downstream context's ring, adding to UP_FLAG. -/
  | carryRecordPush (g c : Nat)
  /-- CARRY_RECORD_POP, R239. The first core of an lscan with CARRY 3, or of an lstat with POP, pops the oldest carry record. -/
  | carryRecordPop (g c : Nat)
  /-- CARRY_RING_TIMEOUT, R239. A push to a full ring, or a pop from an empty one, waits beyond WAIT_TMO and raises WAIT_TIMEOUT. -/
  | carryRingTimeout (g c : Nat)
  /-- TLOAD_IMAGE_ARRIVE, R254. A table image arrives in a core, and the core writes the named bank. -/
  | tloadImageArrive (g c cx : Nat)
  /-- BANK_GRANT, R275. A scratchpad bank grants the highest-level request on a clk. -/
  | bankGrant (g cx : Nat) (reqs : List BankReq)
  /-- ATOMIC_OP, R278. An atomic add or swap acts on the enabled elements of one line in one bank access. -/
  | atomicOp (g cx line kind : Nat) (els : List (Nat × Nat))
  /-- SP_ECC_CORRECT, R280. A single-bit scratchpad error is corrected in the data and the stored line. -/
  | spEccCorrect (g cx : Nat)
  /-- SP_ECC_UNCORR, R280. An uncorrectable scratchpad error raises ECC_UNCORR. -/
  | spEccUncorr (g cx : Nat) (job : Option Nat) (op : Option OpRef)
  /-- CORE_CLEAR, R281. A core island powered up from off clears its scratchpad, accumulators and Lane registers before accepting any access. -/
  | coreClear (g cx : Nat)
  /-- BT_REGION_START, R282. BT_INTERVAL × 4,096 idle clk have passed, and the background test starts the next region. -/
  | btRegionStart (g cx : Nat)
  /-- BT_REGION_DONE, R283. A region's save, test and restore complete. -/
  | btRegionDone (g cx : Nat) (bad : Option Nat)
  /-- HOM_TEST, R312. After every 256th region the Hall of Mirrors is tested for 256 clk. -/
  | homTest (g cx : Nat) (pass : Bool)
  /-- CQ_ADMIT, R287. A packet is admitted at a Carousel queue's producer port when there is room for MAXPKT + 8 bytes. -/
  | cqAdmit (q : Nat)
  /-- CQ_TRUNCATE, R288. A payload that would exceed MAXPKT is closed at MAXPKT with TRUNC set, and the rest is discarded. -/
  | cqTruncate (q tag : Nat) (data : List (BitVec 8))
  /-- CQ_CLOSE, R287. The producer closes a packet by writing CLOSED, TAG and LEN into its slot. -/
  | cqClose (q tag : Nat) (data : List (BitVec 8))
  /-- CQ_POP, R289. The consumer pops a whole closed packet and advances CQ_GET. -/
  | cqPop (q : Nat)
  /-- CQ_SPILL, R285. Tail positions leave for the backing area in aligned bursts of 512 bytes, or pass into the head. -/
  | cqSpill (q : Nat)
  /-- CQ_HEAD_FILL, R285. The head stage fills in order from the backing area. -/
  | cqHeadFill (q : Nat)
  /-- CQ_CFG_WRITE, R297. A write of CQ_CFG or CQ_BASE reconfigures an empty queue. -/
  | cqCfgWrite (q word val : Nat)
  /-- DMA_REQUEST_COMPLETE, R316. A DMA read or write completes, and once all its writes are visible the operation retires. -/
  | dmaRequestComplete (g c cx : Nat) (res : DmaResult)
  /-- TRANSLATION, R325. A job access is translated through the two-level page table, falling back to the secondary copy. -/
  | translation (j ring va len : Nat) (write bad : Bool)
  /-- MAP, R331. The MAP page operation writes a valid entry and gives its frames to the job. -/
  | map
  /-- UNMAP, R331. The UNMAP page operation clears V and releases the page's frames as DIRTY. -/
  | unmap
  /-- MIGRATE, R333. The MIGRATE page operation moves a live page to a new frame while the job runs. -/
  | migrate
  /-- MIGRATE_PHASE_DONE, R333. A migration phase of zero-fill, COPY, SETTLE or SWITCH completes, and the next begins. -/
  | migratePhaseDone
  /-- SET_MIRROR, R331. The SET_MIRROR page operation replaces a page's mirror frame. -/
  | setMirror
  /-- RETIRE_FRAME, R339. The RETIRE_FRAME page operation retires a frame by its owner. -/
  | retireFrame
  /-- RETIRE_STACK, R340. The RETIRE_STACK page operation takes a stack out of service as a lost stack. -/
  | retireStack
  /-- CTR_FLUSH, R335. The CTR_FLUSH page operation writes every cached ACC increment of the job into its entries. -/
  | ctrFlush
  /-- PAGE_OP_DONE, R332. A page operation completes once its entries are written and translations invalidated, sets DONE_EVT and releases old frames. -/
  | pageOpDone
  /-- ZERO_FILL, R330. The background zero-filler turns a DIRTY frame CLEAN. -/
  | zeroFill (dfn : Nat)
  /-- PATROL_SCRUB, R337. The patrol scrub reads and corrects a frame. -/
  | patrolScrub (dfn : Nat)
  /-- MEM_CORRECTED_ERROR, R338. A corrected HBM or DDR5 error is counted and traced. -/
  | memCorrectedError (dfn dev off : Nat)
  /-- MEM_UNCORRECTABLE, R339. An uncorrectable memory error raises ECC_UNCORR and retires its frame. -/
  | memUncorrectable (dfn dev off : Nat) (job : Option Nat) (op : Option OpRef)
  /-- STACK_LOST, R340. A stack is lost: its frames retire, jobs raise STACK_LOST and pages move to mirrors or spares. -/
  | stackLost (st : Nat)
  /-- DDR_ALERT_RETRY, R342. ALERT_n starts a retry of the failed DDR5 command, with ECC_UNCORR after 8 failures. -/
  | ddrAlertRetry (ch cmd dfn dev off : Nat) (job : Option Nat) (op : Option OpRef)
  /-- DDR_CHANNEL_LOST, R343. A DDR5 channel is lost, its frames retire and translation moves to the secondary copy. -/
  | ddrChannelLost (ch : Nat)
  /-- HBM_REFRESH, R336. A refresh interval expires and the stack is refreshed under JESD270-4. -/
  | hbmRefresh (st : Nat)
  /-- TOKEN_POST, R351. The PKTS-th packet of a micro-batch closes in a hand-off queue, and a token is posted. -/
  | tokenPost (j x : Nat)
  /-- SCHED_INJECT, R351. A write of SCHED_INJECT posts COUNT tokens to a token queue. -/
  | schedInject (j val : Nat)
  /-- TOKEN_COMPLETE, R354. A handed-out token's work retires, and its micro-batch's packets are popped. -/
  | tokenComplete (g c : Nat)
  /-- STEP_SEQ_WRITE, R356. A write of STEP_SEQ applies the staged step sizes and scales, clears STEP_NF and sets SEQ_NEW. -/
  | stepSeqWrite (j val : Nat)
  /-- SCALE_WRITE, R205. A write of SCALE[t] sets its fields, or stages NEXT and sets PEND. -/
  | scaleWrite (j t val : Nat)
  /-- UPD_STEP_STALE, R357. An upd's step timeout expires, or its step is overtaken, and it raises STEP_STALE. -/
  | updStepStale (g c : Nat)
  /-- UPD_NF_GATE_PASS, R363. DONE reaches NF_COLLS and a gated upd takes the decision bit, running or skipping. -/
  | updNfGatePass (g c : Nat)
  /-- BEAT_ARRIVAL, R365. A pacing context arrives at the end of its beat. -/
  | beatArrival (g c : Nat)
  /-- BEAT_RELEASE, R365. The next beat is released at max(B_(n+1), E_n), waking beat waits and writing trace 0x0130. -/
  | beatRelease (j : Nat)
  /-- BEAT_DEADLINE, R367. A waiting sched passes t + C > D_n, returns kind 3 and sets CLOSED. -/
  | beatDeadline (g c : Nat)
  /-- BEAT_OVERRUN, R369. Must-work exceeds P in three consecutive beats, and BEAT_OVERRUN is raised. -/
  | beatOverrun (j : Nat)
  /-- SN_REQ, R418. A write of SN_REQ requests a Curtain at T. -/
  | snReq (j tm : Nat)
  /-- CURTAIN_MAX_INTERVAL, R418. MAX_MS passes without a commit, and the Safety Net requests a Curtain itself. -/
  | curtainMaxInterval (j : Nat)
  /-- CURTAIN_ARM, R404. A Curtain begins: the coordinator sends ARM(T) and each part waits for T. -/
  | curtainArm (j : Nat)
  /-- CURTAIN_T_REACHED, R404. The replica reaches T, and each context stops at its next curtain point. -/
  | curtainTReached (j : Nat)
  /-- CURTAIN_READY, R404. The part is quiesced with drain markers on every port and reports READY. -/
  | curtainReady (j : Nat)
  /-- CURTAIN_COMMIT, R405. At T_c each part steps its epochs, writes its record and releases its contexts. -/
  | curtainCommit (j tc : Nat)
  /-- CURTAIN_ABANDON, R406. A Curtain is abandoned on quiesce timeout, lost lock, fault or ABORT. -/
  | curtainAbandon (j : Nat)
  /-- MIRROR_ENGINE_STEP, R410. The mirror engine takes a drain-log entry and copies its touched granules live to mirror. -/
  | mirrorEngineStep (j : Nat)
  /-- CURTAIN_SECURED, R410. The drain log is empty, the Curtain is secured and SECURED_EVT sets. -/
  | curtainSecured (j : Nat)
  /-- PROTECTED_WRITE, R400. A write to a protected page updates its entry and copies granules before it reaches the page. -/
  | protectedWrite (j va : Nat)
  /-- EPOCH_WALK, R412. Once in 16,384 epochs the mirror engine sets the EPOCH of every old page to BASE − 1. -/
  | epochWalk (j : Nat)
  /-- BUDDY_ACK, R413. The buddy device acknowledges a granule or record. -/
  | buddyAck (j : Nat)
  /-- FAULT_RESTORE, R414. A fault charged to a RUNNING job starts its restore from the last committed Curtain. -/
  | faultRestore (j code island : Nat)
  /-- RESTORE_COMPLETE, R414. The restore reloads the record, and the job returns to RUNNING with RESTART_EVT. -/
  | restoreComplete (j : Nat)
  /-- RESOLVE_PAGE, R416. The mirror engine copies a resolving page's touched granules mirror to live. -/
  | resolvePage (j : Nat)
  /-- LOCKSTEP, R424. The active Net Controller pair disagrees, and the standby pair takes over. -/
  | lockstep
  /-- NET_LOST, R425. Both control pairs fail, and the Net Keeper stops jobs, self-refreshes HBM and raises NET_LOST. -/
  | netLost
  /-- RELOAD, R426. The RCV_CMD RELOAD command fetches and verifies the firmware and restarts both control pairs. -/
  | reload (readOk : Bool)
  /-- RESUME, R426. The RCV_CMD RESUME command restores every RESTORING job from its last record. -/
  | resume
  /-- PORT_EN_WRITE, R433. A write of GL_PORT_CFG.EN moves a port to TRAINING or DOWN. -/
  | portEnWrite (p val : Nat)
  /-- PORT_TRAINING_DONE, R433. Training completes with UP or HALF and the two ends exchange device IDs. -/
  | portTrainingDone (p lanes peer : Nat)
  /-- PORT_LOST, R437. Training fails after 10 ms, or a link is lost, the port enters LOST and LINK_LOST is raised. -/
  | portLost (p jobs : Nat)
  /-- FLIT_RECEIVE, R435. A flit arrives and is accepted, or discarded with a NAK for a CRC or sequence failure. -/
  | flitReceive (p : Nat) (flit : List (BitVec 8))
  /-- NAK_REPLAY, R435. A NAK arrives, and the transmitter resends from the named SEQ. -/
  | nakReplay (p seq : Nat)
  /-- ACK_RECEIVE, R435. An ACK frees covered flits from the retry buffer. -/
  | ackReceive (p seq : Nat)
  /-- ACK_SEND, R435. The receiver sends an ACK after 64 flits or 100 ns. -/
  | ackSend (p : Nat)
  /-- PORT_RETRAIN, R436. Repeated NAKs, a bad ACK or 10 µs of silence make the port retrain. -/
  | portRetrain (p : Nat)
  /-- CREDIT_RETURN, R438. A freed receive buffer returns its credit within 60 ns. -/
  | creditReturn (p vl n : Nat)
  /-- MAC_FLIT_CHECK, R439. A MAC flit's GCM tag is checked over its flits, with a NAK or LOST on failure. -/
  | macFlitCheck (p : Nat) (ok : Bool) (keyId : Nat)
  /-- ENC_COUNTER_LIMIT, R439. The flit counter reaches 2^48 − 2^20 without a new key, and the port enters LOST. -/
  | encCounterLimit (p : Nat)
  /-- DATA_PACKET_RECEIVE, R443. A data packet arrives and is delivered to its job's queue or discarded. -/
  | dataPacketReceive (p : Nat) (h : PktHead) (q tag : Nat) (data : List (BitVec 8))
  /-- DELIVERY_ACK, R444. Coalesced delivery acknowledgements are sent and decrement GL_OUT. -/
  | deliveryAck (p : Nat) (h : PktHead) (acks : List (Nat × Nat)) (sent : Bool)
  /-- HEARTBEAT, R448. A master and its deputy exchange heartbeat packets every 10,737 st. -/
  | heartbeat (grp : Nat) (got : Bool)
  /-- DEPUTY_TAKEOVER, R448. A deputy misses three heartbeats and takes over as master. -/
  | deputyTakeover (grp : Nat)
  /-- TAKEOVER_RECEIVE, R448. A takeover packet makes each member name the new master, or demotes an old master. -/
  | takeoverReceive (p : Nat) (h : PktHead) (grp master : Nat)
  /-- SN_MESSAGE_RECEIVE, R449. A Safety Net packet ARM, READY, COMMIT, ABORT, RESTORE or NET_LOST arrives and is acted on or passed on. -/
  | snMessageReceive (p : Nat) (h : PktHead) (kind body : Nat)
  /-- DRAIN_MARKER_RECEIVE, R450. A drain marker arrives, and is counted or answered by a device without a part. -/
  | drainMarkerReceive (p : Nat) (h : PktHead)
  /-- REGISTER_ACCESS_PACKET, R451. A register-access packet from the System Master reads or writes one register. -/
  | registerAccessPacket (p : Nat) (h : PktHead) (write : Bool) (off val : Nat)
  /-- TIME_PARENT_CHANGE, R447. A change of route changes the time-tree parent and the lock state. -/
  | timeParentChange (parent : Option Nat)
  /-- COLLECTIVE_LAUNCH, R456. A collective engine's wait on LAUNCH is satisfied and launches one instance. -/
  | collectiveLaunch (j d : Nat)
  /-- COLLECTIVE_PACKET, R454. A collective packet arrives and is merged and forwarded round the ring. -/
  | collectivePacket (p : Nat) (h : PktHead) (d inst : Nat) (nf : Bool) (ofs : Nat) (data : List (BitVec 8))
  /-- COLLECTIVE_COMPLETE, R456. A collective instance completes, adds to DONEF and ORs its NF bit. -/
  | collectiveComplete (j d : Nat)
  /-- COLLECTIVE_TIMEOUT, R456. A collective's TMO expires and raises WAIT_TIMEOUT. -/
  | collectiveTimeout (j d : Nat)
  /-- GL_DEV_ID_WRITE, R457. A write of GL_DEV_ID sets the device ID and retrains every port. -/
  | glDevIdWrite (val : Nat)
  /-- GL_TOPO_WRITE, R445. A write of GL_TOPO changes the topology and routes. -/
  | glTopoWrite (val : Nat)
  /-- CONFIG_REQUEST, R465. A configuration request is completed, or retried with RRS until ready. -/
  | configRequest (req : ConfigReq)
  /-- WINDOW_READ, R468. A BAR2 read returns device memory bytes, with refused bytes as 0xFF. -/
  | windowRead (off n : Nat)
  /-- WINDOW_WRITE, R468. A BAR2 write writes permitted bytes and discards refused ones. -/
  | windowWrite (off : Nat) (data : List (BitVec 8))
  /-- HIF_WIN_WRITE, R469. A write of HIF_WIN sets the window base and mode. -/
  | hifWinWrite (val : Nat)
  /-- BAR2_RESIZE, R469. A change of BAR2 size returns HIF_WIN to reset. -/
  | bar2Resize (log2 : Nat)
  /-- DOORBELL_TAIL, R470. A doorbell write at offset 0x0 publishes a new command ring tail. -/
  | doorbellTail (q val : Nat)
  /-- DOORBELL_CPL_HEAD, R470. A doorbell write at offset 0x8 acknowledges completions. -/
  | doorbellCplHead (q val : Nat)
  /-- DOORBELL_FR_HEAD, R470. A doorbell write at offset 0x10 advances the frame ring's FR_HEAD. -/
  | doorbellFrHead (q val : Nat)
  /-- RING_ENTRY_FETCH, R474. The device fetches a command entry, or stops the ring on a failed fetch. -/
  | ringEntryFetch (q : Nat) (ok : Bool)
  /-- CMD_NOP, R471. The NOP ring command completes when fetched. -/
  | cmdNop (q : Nat)
  /-- REG_WRITE, R471. The REG_WRITE ring command writes a BAR0 register. -/
  | regWrite (q : Nat)
  /-- REG_READ, R471. The REG_READ ring command returns a register value in RESULT. -/
  | regRead (q : Nat)
  /-- COPY_TO_DEV, R472. The COPY_TO_DEV command copies host memory into a job's virtual space. -/
  | copyToDev (q : Nat) (hostOk : Bool)
  /-- COPY_FROM_DEV, R472. The COPY_FROM_DEV command copies a job's virtual space to host memory. -/
  | copyFromDev (q : Nat)
  /-- FLAG_ADD, R471. The FLAG_ADD ring command adds to a host-declared job flag. -/
  | flagAdd (q : Nat)
  /-- JOB_CMD, R471. The JOB_CMD admin command carries START, HALT or RELEASE. -/
  | jobCmd
  /-- PAGE_OP, R471. The PAGE_OP admin command carries a page operation, serialised with MEM_OP_CMD. -/
  | pageOp
  /-- COMMAND_COMPLETE, R473. A command's completion condition holds, its completion entry is written and its vector sent. -/
  | commandComplete (q idx : Nat)
  /-- RING_CFG_EN_WRITE, R474. A write of RING_CFG.EN enables a ring, setting HEAD to the tail, or disables it. -/
  | ringCfgEnWrite (q val : Nat)
  /-- MSIX_SEND, R390. A vector's message is sent within 5 µs, or held pending until it can be. -/
  | msixSend (v : Nat)
  /-- FLR, R521. A Function Level Reset halts and releases jobs and resets rings and windows. -/
  | flr
  /-- D3HOT_ENTRY, R464. Entry into D3hot halts every job that is neither FREE nor DONE. -/
  | d3hotEntry
  /-- DOE_OBJECT, R477. A DOE data object arrives in a mailbox and is served or discarded. -/
  | doeObject (mb : Nat) (obj : List (BitVec 8))
  /-- IDE_CHECK_FAIL, R478. A TLP fails its IDE check, is dropped and the stream goes Insecure. -/
  | ideCheckFail (stream : Nat)
  /-- CAP_LOOP, R488. Every 10 µs the cap loop measures power and updates each Ring's throttle level. -/
  | capLoop (pkg : Nat) (ring : List Nat)
  /-- THROTTLE_WINDOW, R489. Each 64-clk window begins with L frozen clk of cause THROT. -/
  | throttleWindow (g cx : Nat)
  /-- VF_CHANGE, R487. A Ring changes voltage–frequency point with a hold of at most 1 µs. -/
  | vfChange (r vf : Nat)
  /-- AVS_COMPLETION, R484. A regulator reports completion of a commanded voltage. -/
  | avsCompletion (r mv : Nat)
  /-- AVS_FAILURE, R485. Three failed AVSBus transactions or a missing completion freeze the Ring's point. -/
  | avsFailure (r : Nat)
  /-- THROTTLE_IN_ASSERT, R491. An accepted THROTTLE_IN# pulse sets every Ring's floor and the board cap. -/
  | throttleInAssert
  /-- THROTTLE_IN_DEASSERT, R491. Accepted deassertion of THROTTLE_IN# returns the floors to zero. -/
  | throttleInDeassert
  /-- PIN_GLITCH, R383. A level change shorter than the filter width is ignored and counted. -/
  | pinGlitch (pin : Nat)
  /-- SENSOR_UPDATE, R493. A junction sensor reading is applied against TJ_THROT, 110 °C and 115 °C. -/
  | sensorUpdate (n : Nat) (temp : Int)
  /-- HBM_HOT, R494. A stack above HBM_TLIMIT halves or quarters its admitted requests. -/
  | hbmHot (st temp : Nat)
  /-- THERMTRIP, R495. A sensor at 115 °C or an accepted THERMTRIP# shuts the device down. -/
  | thermtrip (sensor : Option Nat)
  /-- REF_CLOCK_SWITCH, R497. A bad reference source is replaced by the other good source. -/
  | refClockSwitch
  /-- REF_CLOCKS_BAD, R497. Both reference sources are bad, and HW_TIMEOUT is raised. -/
  | refClocksBad
  /-- CLOCK_LOCK_LOSS, R498. An island's generator loses lock and the island stops. -/
  | clockLockLoss (island : Nat)
  /-- SUPPLY_FAULT, R587. A rail out of range for 10 readings causes a shutdown without THERMTRIP#. -/
  | supplyFault (rail : Nat)
  /-- POWER_ON_RESET, R507. VDD_AON enters its range and everything resets. -/
  | powerOnReset
  /-- PERST_ASSERT, R507. Accepted PERST# assertion makes a cold reset, abandoning any start-up. -/
  | perstAssert
  /-- PERST_DEASSERT, R509. Accepted PERST# deassertion latches BOOT_MODE and begins start-up. -/
  | perstDeassert (straps : Nat)
  /-- DEV_RESET, R522. A write of DEV_RESET with 0xA5 starts a warm reset. -/
  | devReset (val straps : Nat)
  /-- BOOT_STEP_COMPLETE, R510. A start-up step completes and the next begins. -/
  | bootStepComplete (res : BootResult)
  /-- BOOT_STEP_TIMEOUT, R510. A start-up step exceeds its bound, with cause 1. -/
  | bootStepTimeout
  /-- HS_CMD, R535. A write of HS_CMD starts a self-test of one target. -/
  | hsCmd (val : Nat)
  /-- HS_PHASE_DONE, R527. A save, test or restore phase of a logic test completes. -/
  | hsPhaseDone
  /-- HS_ARRIVAL_ABANDON, R529. Work arriving at a target under test abandons the test at the next boundary. -/
  | hsArrivalAbandon
  /-- HS_WINDOW_EXIT, R530. The Ring leaves the test window, and the test restores with OUT_OF_WINDOW. -/
  | hsWindowExit
  /-- HS_RESULT, R535. A test result is written with DONE_EVT and trace event 0x0140. -/
  | hsResult (sig : Nat)
  /-- ANALOGUE_CHECK_DONE, R532. An analogue check completes against its limits. -/
  | analogueCheckDone (value : Int)
  /-- GET_NONCE, R555. The GET_NONCE mailbox command returns a new nonce. -/
  | getNonce
  /-- GET_IDENTITY, R540. The GET_IDENTITY mailbox command returns the public identity key. -/
  | getIdentity
  /-- VERIFY, R557. The VERIFY mailbox command verifies a policy module and extends measurement 8. -/
  | verify
  /-- SVN_COMMIT, R546. The SVN_COMMIT mailbox command raises a fused anti-rollback counter. -/
  | svnCommit (arg : Nat)
  /-- REVOKE, R548. The REVOKE mailbox command revokes a root slot. -/
  | revoke
  /-- DEBUG_OPEN, R556. The DEBUG_OPEN mailbox command opens the debug port on a valid token. -/
  | debugOpen
  /-- GET_VERSION, R551. The SPDM GET_VERSION request is answered. -/
  | getVersion (tr : Nat)
  /-- GET_CAPABILITIES, R551. The SPDM GET_CAPABILITIES request is answered. -/
  | getCapabilities (tr : Nat)
  /-- NEGOTIATE_ALGORITHMS, R551. The SPDM NEGOTIATE_ALGORITHMS request selects the algorithms. -/
  | negotiateAlgorithms (tr : Nat) (supported : Bool)
  /-- GET_DIGESTS, R551. The SPDM GET_DIGESTS request returns the certificate digests. -/
  | getDigests (tr : Nat)
  /-- GET_CERTIFICATE, R541. The SPDM GET_CERTIFICATE request returns slot 0's chain. -/
  | getCertificate (tr slot off len : Nat)
  /-- CHALLENGE, R541. The SPDM CHALLENGE request is answered with a signed response. -/
  | challenge (tr slot : Nat) (nonce : List (BitVec 8))
  /-- GET_MEASUREMENTS, R550. The SPDM GET_MEASUREMENTS request returns the measurements as they stood on acceptance. -/
  | getMeasurements (tr idx : Nat) (signed : Bool) (nonce : List (BitVec 8))
  /-- KEY_EXCHANGE, R551. The SPDM KEY_EXCHANGE request opens a session. -/
  | keyExchange (tr : Nat)
  /-- FINISH, R551. The SPDM FINISH request completes the session handshake. -/
  | finish (ses : Nat) (ok : Bool)
  /-- HEARTBEAT_SPDM, R551. The SPDM HEARTBEAT request is answered in a session. -/
  | heartbeatSpdm (ses : Nat)
  /-- KEY_UPDATE, R551. The SPDM KEY_UPDATE request updates the session keys. -/
  | keyUpdate (ses : Nat)
  /-- END_SESSION, R551. The SPDM END_SESSION request ends a session. -/
  | endSession (ses : Nat)
  /-- KEY_PROG, R552. The IDE_KM KEY_PROG request programs an IDE stream key inside a session. -/
  | keyProg (ses stream keySet : Nat) (key : List (BitVec 8))
  /-- K_SET_GO, R552. The IDE_KM K_SET_GO request starts a programmed key set. -/
  | kSetGo (ses stream keySet : Nat)
  /-- K_SET_STOP, R552. The IDE_KM K_SET_STOP request stops a key set. -/
  | kSetStop (ses stream keySet : Nat)
  /-- GL_KEY_PROG, R553. The vendor-defined GL_KEY_PROG request writes a Guyline key slot. -/
  | glKeyProg (ses port dir slot keyId : Nat) (key : List (BitVec 8))
  /-- GL_KEY_GO, R554. The vendor-defined GL_KEY_GO request switches a port to its other transmit slot at the next MAC boundary. -/
  | glKeyGo (ses port : Nat)
  /-- SET_ENDPOINT_ID, R567. The MCTP Set Endpoint ID command assigns the endpoint's EID. -/
  | setEndpointId (eid : Nat)
  /-- I3C_ADDRESS_ASSIGN, R568. ENTDAA or SETDASA moves the endpoint to the I3C binding. -/
  | i3cAddressAssign (addr : Nat)
  /-- RSTDAA, R568. RSTDAA returns the endpoint to SMBus. -/
  | rstdaa
  /-- GET_TID, R569. The PLDM GetTID command returns the terminus ID. -/
  | getTid
  /-- SET_TID, R569. The PLDM SetTID command sets the terminus ID. -/
  | setTid (tid : Nat)
  /-- GET_PLDM_VERSION, R569. The PLDM GetPLDMVersion command returns a type's version. -/
  | getPldmVersion (ty : Nat)
  /-- GET_PLDM_TYPES, R569. The PLDM GetPLDMTypes command returns the supported types. -/
  | getPldmTypes
  /-- GET_PLDM_COMMANDS, R569. The PLDM GetPLDMCommands command returns the supported commands. -/
  | getPldmCommands (ty : Nat)
  /-- GET_PDR_REPOSITORY_INFO, R569. The PLDM GetPDRRepositoryInfo command describes the repository. -/
  | getPdrRepositoryInfo
  /-- GET_PDR, R570. The PLDM GetPDR command returns a sensor record. -/
  | getPdr (rec : Nat)
  /-- GET_SENSOR_READING, R570. The PLDM GetSensorReading command returns a numeric reading at most 10 ms old. -/
  | getSensorReading (sensor : Nat)
  /-- GET_STATE_SENSOR_READINGS, R570. The PLDM GetStateSensorReadings command returns state sensors. -/
  | getStateSensorReadings (sensor : Nat)
  /-- SET_EVENT_RECEIVER, R569. The PLDM SetEventReceiver command names the event receiver. -/
  | setEventReceiver (addr : Nat)
  /-- POLL_FOR_PLATFORM_EVENT, R569. The PLDM PollForPlatformEventMessage command returns a waiting event. -/
  | pollForPlatformEvent
  /-- PLATFORM_EVENT_MESSAGE, R570. A fault, loss, HOT_EVT or NET_LOST is sent as a PlatformEventMessage. -/
  | platformEventMessage
  /-- QUERY_DEVICE_IDENTIFIERS, R569. The PLDM QueryDeviceIdentifiers command returns the identifiers. -/
  | queryDeviceIdentifiers
  /-- GET_FIRMWARE_PARAMETERS, R569. The PLDM GetFirmwareParameters command returns the component versions. -/
  | getFirmwareParameters
  /-- REQUEST_UPDATE, R571. The PLDM RequestUpdate command begins an update, one at a time. -/
  | requestUpdate
  /-- PASS_COMPONENT_TABLE, R569. The PLDM PassComponentTable command names the components. -/
  | passComponentTable (comps : List Nat)
  /-- UPDATE_COMPONENT, R571. The PLDM UpdateComponent command starts writing a component into its slot. -/
  | updateComponent (comp : Nat)
  /-- REQUEST_FIRMWARE_DATA, R571. The device requests a piece of firmware data of up to 4,096 bytes and writes it. -/
  | requestFirmwareData (off : Nat) (data : List (BitVec 8))
  /-- TRANSFER_COMPLETE, R569. The device reports the end of the component transfer. -/
  | transferComplete
  /-- VERIFY_COMPLETE, R572. The written object is verified, and the result is reported. -/
  | verifyComplete
  /-- APPLY_COMPLETE, R569. The device reports the component applied. -/
  | applyComplete
  /-- ACTIVATE_FIRMWARE, R573. The PLDM ActivateFirmware command writes the older directory copy with the new selectors. -/
  | activateFirmware
  /-- GET_STATUS, R569. The PLDM GetStatus command returns the update state. -/
  | getStatus
  /-- CANCEL_UPDATE_COMPONENT, R569. The PLDM CancelUpdateComponent command abandons the component's update. -/
  | cancelUpdateComponent
  /-- CANCEL_UPDATE, R574. The PLDM CancelUpdate command ends the update, leaving the slot unnamed. -/
  | cancelUpdate
  /-- TRC_POP, R388. A write of TRC_POP pops n records of a trace stream. -/
  | trcPop (q n : Nat)
  /-- PCIE_LINK_L0, R465. The host link finishes training and reaches L0, after which the function becomes ready for configuration within 100 ms. -/
  | pcieLinkL0 (rate width : Nat)
  /-- DDR5_REFRESH, R342. A DDR5 refresh interval, chosen from the SPD hub's temperature sensor, expires and the channel is refreshed under JESD79-5. -/
  | ddr5Refresh (ch : Nat)
  /-- TREF_10M_REGAINED, R35. TREF_10M returns within its window, and a System Master in HOLDOVER returns to ACQUIRE. -/
  | tref10mRegained (cycles : Nat)
  /-- REFERENCE_MEASUREMENT, R496. Every 2^20 cycles the always-on domain measures each reference source against the others and marks a source bad that is off by more than ±300 ppm or has no edge. -/
  | referenceMeasurement (badPcie badBref badGl : Bool)
  /-- JTAG_INSTRUCTION, R585. An instruction shifted in through the IEEE 1149.1 test port is accepted, or loaded as BYPASS when PERST# is deasserted and the debug port is not open. -/
  | jtagInstruction (ins : JtagInstr)
  deriving DecidableEq, Repr

end Sys2Proof
end

