-- ==== Sys2Proof/Config.lean ====
section
/-! DEFINITION. The free values: what the spec leaves open while the machine goes on. Each is a
constant without a body, so nothing can be proved of its value. Each is named in the assumption log. -/

namespace Sys2Proof

/-- The numbered unspecified value of width 64 (contents the spec calls unspecified, a nonce, a
result it does not state); the state's counter `fresh` numbers the uses (log 14). -/
opaque Config.freeWord : Nat → Nat → BitVec 64

/-- `SEC_ROMVER`, which the boot ROM's maker fixes (log 15). -/
opaque Config.romVersion : BitVec 64

/-- The device seed's 64 fused bytes (log 13). -/
opaque Config.deviceSeed : Nat → Byte

/-- The coefficients c0, c1 and c2 that a special-function ROM holds for a function number and a segment (R249; log 11). -/
opaque Config.sfuRom : Nat → Nat → BitVec 96

/-- c0 + c1·d + c2·d² as the special-function unit evaluates it, from coefficients and the bits of d, with 62 fraction bits: the
spec does not state the precision (R249; log 11). -/
opaque Config.sfuPoly : BitVec 96 → Nat → BitVec 64

/-- The WF35 code (sign, 11 exponent bits, 23 fraction bits) that the wide-range exponential gives
for an FP32 input (log 12). -/
opaque Config.wideExp : BitVec 32 → BitVec 35

/-- A hash of the security block over bytes: algorithm number, then the message (log 13). -/
opaque Config.hash : Nat → List Byte → Nat → Byte

/-- Whether a signature is valid: key, message, signature (log 13). -/
opaque Config.sigOk : List Byte → List Byte → List Byte → Bool

/-- A signature or key-derivation output of the security block: a purpose number, key material and
message give byte n (log 13). -/
opaque Config.kdf : Nat → List Byte → List Byte → Nat → Byte

/-- What the spec leaves open of the CRC-32 whose polynomial it gives (R434; log 49): the register's first value. -/
opaque Config.crcFirst : BitVec 32

/-- What is added to the register at the end of a CRC-32 (log 49). -/
opaque Config.crcLast : BitVec 32

/-- A CRC-32 takes the lowest bit of each byte first, in a register whose highest power is bit 0 (log 49). -/
opaque Config.crcLow : Bool

/-- The element code that stands for NaN in an MX format of a width without a NaN code; the block's scale 0xFF makes it NaN
(R197, R199; log 128). -/
opaque Config.mxNan : Nat → BitVec 8

/-- Byte n of the AES-GCM-256 ciphertext of a flit: key, IV, plain bytes (R439; log 13). -/
opaque Config.gcmText : List Byte → List Byte → List Byte → Nat → Byte

/-- Byte n of the GCM tag over the headers and ciphertext of a group of flits: key, bytes (R439; log 13). -/
opaque Config.gcmTag : List Byte → List Byte → Nat → Byte

/-- The adapter (0 to 23 of the islands 480 to 503 of R31) that reports an event of die-to-die link n: the spec numbers
the adapters of a die and does not say which link each serves (log 41). -/
opaque Config.linkAdapter : Nat → Fin 24

/-- The root slots that are fused with a hash (R542, log 15). -/
opaque Config.rootPresent : BitVec 4

/-- The root slots whose revoke fuse is blown before power-on (R542, log 15). -/
opaque Config.rootRevoked : BitVec 4

/-- Byte n of a root slot's fused hash (R542, log 15). -/
opaque Config.rootHash : Nat → Nat → Byte

/-- The fused anti-rollback counters: 0 FW, 1 PLAYBILL, 2 STB, 3 POLICY (R546, log 15). -/
opaque Config.svnFuse : Nat → Fin 65

/-- Whether the identity certificate in the identity area's bytes holds the derived key and chains to a usable root
slot of the mask (R541, log 13). -/
opaque Config.certOk : List Byte → Nat → Bool

end Sys2Proof
end

