-- ==== Sys2Proof/Machine/Bits.lean ====
section
/-! DEFINITION. Operations on sparse tables, and bit fields, two's complement and byte order of
natural numbers. -/

namespace Sys2Proof

/-- The value at a key, or the default where the key is not listed. -/
def Tab.get {α : Type} (d : α) : Tab α → Nat → α
  | [], _ => d
  | (k', v) :: t, k => if k = k' then v else get d t k

/-- Drop a key. -/
def Tab.erase {α : Type} : Tab α → Nat → Tab α
  | [], _ => []
  | (k', v) :: t, k => if k = k' then erase t k else (k', v) :: erase t k

/-- Place a key that is not listed, in rising order. -/
def Tab.place {α : Type} : Tab α → Nat → α → Tab α
  | [], k, v => [(k, v)]
  | (k', v') :: t, k, v => if k < k' then (k, v) :: (k', v') :: t else (k', v') :: place t k v

/-- Write a key. The value an unlisted key reads as removes the entry. -/
def Tab.set {α : Type} [DecidableEq α] (d : α) (t : Tab α) (k : Nat) (v : α) : Tab α :=
  if v = d then t.erase k else (t.erase k).place k v

/-- Keys strictly rise. -/
def Tab.rising {α : Type} : Tab α → Bool
  | [] => true
  | [_] => true
  | (a, _) :: (b, v) :: t => decide (a < b) && rising ((b, v) :: t)

/-- The canonical form: keys strictly rise and no entry equals the default. -/
def Tab.wf {α : Type} [DecidableEq α] (d : α) (t : Tab α) : Bool :=
  t.rising && t.all (fun e => decide (e.2 ≠ d))

/-- Drop every key in a range of `n` keys from `lo`. -/
def Tab.clearRange {α : Type} (t : Tab α) (lo n : Nat) : Tab α :=
  t.filter (fun e => e.1 < lo || lo + n ≤ e.1)

/-- The entries of a range of `n` keys from `lo`, keys counted from `lo`. -/
def Tab.slice {α : Type} (t : Tab α) (lo n : Nat) : Tab α :=
  (t.filter (fun e => decide (lo ≤ e.1 ∧ e.1 < lo + n))).map (fun e => (e.1 - lo, e.2))

/-- Replace a range of `n` keys from `lo` by the given entries, counted from `lo`. -/
def Tab.putSlice {α : Type} (t : Tab α) (lo n : Nat) (u : Tab α) : Tab α :=
  t.filter (fun e => decide (e.1 < lo)) ++
  (u.filter (fun e => decide (e.1 < n))).map (fun e => (e.1 + lo, e.2)) ++
  t.filter (fun e => decide (lo + n ≤ e.1))


/-- Bits `lo` to `lo + w - 1` of a number. -/
def bits (n lo w : Nat) : Nat := n / 2 ^ lo % 2 ^ w

/-- One bit of a number. -/
def bit (n i : Nat) : Bool := n / 2 ^ i % 2 = 1

/-- A Bool as a bit. -/
def ofBool (b : Bool) : Nat := if b then 1 else 0

/-- Set or clear one bit of a number. -/
def setBit (n i : Nat) (b : Bool) : Nat :=
  n - (n / 2 ^ i % 2) * 2 ^ i + ofBool b * 2 ^ i

/-- A w-bit number read as two's complement. -/
def signed (w n : Nat) : Int :=
  if n % 2 ^ w < 2 ^ (w - 1) then (n % 2 ^ w : Nat) else (n % 2 ^ w : Nat) - (2 ^ w : Nat)

/-- An integer as a w-bit two's complement number. -/
def unsigned (w : Nat) (i : Int) : Nat := (i % (2 ^ w : Nat)).toNat

/-- Saturating add at the width. -/
def satAdd (w a b : Nat) : Nat := min (a + b) (2 ^ w - 1)

/-- The little-endian number of a list of bytes. -/
def leNat : List Byte → Nat
  | [] => 0
  | b :: t => b.toNat + 256 * leNat t

/-- The `n` little-endian bytes of a number. -/
def leBytes : Nat → Nat → List Byte
  | 0, _ => []
  | n + 1, v => BitVec.ofNat 8 v :: leBytes n (v / 256)

/-- Round up to a multiple. -/
def roundUp (n m : Nat) : Nat := (n + m - 1) / m * m

/-- The number of set bits among the low `w`. -/
def popCount : Nat → Nat → Nat
  | 0, _ => 0
  | w + 1, n => n % 2 + popCount w (n / 2)

/-- Replace the entry at a position of a list. -/
def listSet {α : Type} : List α → Nat → α → List α
  | [], _, _ => []
  | _ :: t, 0, v => v :: t
  | a :: t, n + 1, v => a :: listSet t n v

end Sys2Proof
end

