-- ==== Sys2Proof/Machine/Numeric.lean ====
section
/-! DEFINITION. Numbers and formats: exact dyadic values, the formats of R188, one rounding in the
three modes of R195, FP32 and WF35 arithmetic, the Tombola of R200 and the encoding of MX blocks. -/

namespace Sys2Proof.Machine

/-- A value the block computes with: NaN, an infinity, or the finite number ±m × 2^e. -/
inductive Num where
  | nan
  | inf (neg : Bool)
  | fin (neg : Bool) (m : Nat) (e : Int)
  deriving DecidableEq, Repr

/-- Plus zero. -/
def Num.zero : Num := .fin false 0 0

/-- One. -/
def Num.one : Num := .fin false 1 0

/-- An integer as a value. -/
def Num.ofInt (i : Int) : Num := .fin (decide (i < 0)) i.natAbs 0

/-- ⌊log2 of a positive finite magnitude⌋. -/
def expOf (m : Nat) (e : Int) : Int := (Nat.log2 m : Nat) + e

/-- The value is finite and not zero. -/
def Num.isNonzeroFin : Num → Bool
  | .fin _ m _ => m ≠ 0
  | _ => false

/-- The value is a zero of either sign. -/
def Num.isZero : Num → Bool
  | .fin _ m _ => m = 0
  | _ => false

/-- The value is NaN. -/
def Num.isNan : Num → Bool
  | .nan => true
  | _ => false

/-- Multiply exactly by a power of two. -/
def Num.scale (k : Int) : Num → Num
  | .fin n m e => .fin n m (e + k)
  | x => x

/-- The sign bit. -/
def Num.sign : Num → Bool
  | .fin n _ _ => n
  | .inf n => n
  | .nan => false

/-- Change the sign. -/
def Num.neg : Num → Num
  | .fin n m e => .fin (!n) m e
  | .inf n => .inf (!n)
  | .nan => .nan

/-- Clear the sign (`sx.abs`, R220). -/
def Num.abs : Num → Num
  | .fin _ m e => .fin false m e
  | .inf _ => .inf false
  | .nan => .nan

/-- The signed integer m × 2^(e − f) of a finite value at an exponent f at or below its own. -/
def atExp (n : Bool) (m : Nat) (e f : Int) : Int :=
  let v : Int := (m * 2 ^ (e - f).toNat : Nat)
  if n then -v else v

/-- The exact sum. Opposite infinities give NaN; an exact cancellation gives +0. -/
def Num.add : Num → Num → Num
  | .nan, _ => .nan
  | _, .nan => .nan
  | .inf a, .inf b => if a = b then .inf a else .nan
  | .inf a, _ => .inf a
  | _, .inf b => .inf b
  | .fin n m e, .fin n' m' e' =>
    if m = 0 ∧ m' = 0 then .fin (n && n') 0 0
    else
      let f := min e e'
      let s := atExp n m e f + atExp n' m' e' f
      .fin (decide (s < 0)) s.natAbs f

/-- The exact product. Zero times an infinity is NaN. -/
def Num.mul : Num → Num → Num
  | .nan, _ => .nan
  | _, .nan => .nan
  | .inf a, .inf b => .inf (a != b)
  | .inf a, .fin n m _ => if m = 0 then .nan else .inf (a != n)
  | .fin n m _, .inf b => if m = 0 then .nan else .inf (b != n)
  | .fin n m e, .fin n' m' e' => .fin (n != n') (m * m') (e + e')

/-- A stand-in for the exact quotient that rounds as it does at any precision up to 30 bits. -/
def Num.div : Num → Num → Num
  | .nan, _ => .nan
  | _, .nan => .nan
  | .inf _, .inf _ => .nan
  | .inf a, .fin n _ _ => .inf (a != n)
  | .fin n _ _, .inf b => .fin (n != b) 0 0
  | .fin n m e, .fin n' m' e' =>
    if m' = 0 then (if m = 0 then .nan else .inf (n != n'))
    else if m = 0 then .fin (n != n') 0 0
    else
      let k := 34 + Nat.log2 m'
      let q := m * 2 ^ k / m'
      let st := if m * 2 ^ k % m' = 0 then 0 else 1
      .fin (n != n') (2 * q + st) (e - e' - (k : Int) - 1)

/-- Order of two non-NaN values, −0 below +0 (R220). -/
def Num.lt : Num → Num → Bool
  | .inf a, .inf b => a && !b
  | .inf a, _ => a
  | _, .inf b => !b
  | .fin n m e, .fin n' m' e' =>
    if m = 0 ∧ m' = 0 then n && !n'
    else decide (atExp n m e (min e e') < atExp n' m' e' (min e e'))
  | _, _ => false

/-- Equality of two values in a comparison: NaN equals nothing, −0 equals +0 (R220). -/
def Num.eqv : Num → Num → Bool
  | .inf a, .inf b => a = b
  | .fin n m e, .fin n' m' e' => decide (atExp n m e (min e e') = atExp n' m' e' (min e e'))
  | _, _ => false

/-- Minimum; NaN if either is NaN (R220). -/
def Num.min (a b : Num) : Num :=
  if a.isNan || b.isNan then .nan else if Num.lt b a then b else a

/-- Maximum; NaN if either is NaN (R220). -/
def Num.max (a b : Num) : Num :=
  if a.isNan || b.isNan then .nan else if Num.lt a b then b else a

/-- Rounding modes of R195. -/
inductive Rnd where
  | nearest | zero | stoch
  deriving DecidableEq, Repr

/-- The mode of a two-bit field; 0b11 is rejected before it is used. -/
def Rnd.of : Nat → Rnd
  | 0 => .nearest
  | 1 => .zero
  | _ => .stoch

/-- The integer that q plus the fraction r / 2^k rounds to. `draw` is the Tombola's 32-bit draw of
R196. The Bool says that nonzero bits were lost. -/
def roundInt (mode : Rnd) (draw q r k : Nat) : Nat × Bool :=
  if r = 0 then (q, false)
  else
    let up : Bool := match mode with
      | .nearest => decide (2 ^ k < 2 * r) || (decide (2 * r = 2 ^ k) && decide (q % 2 = 1))
      | .zero => false
      | .stoch => decide (2 ^ 24 ≤ draw / 256 + r * 2 ^ 24 / 2 ^ k)
    (if up then q + 1 else q, true)

/-- Round the magnitude m × 2^e to a multiple of 2^u. -/
def roundMag (mode : Rnd) (draw m : Nat) (e u : Int) : Nat × Bool :=
  if u ≤ e then (m * 2 ^ (e - u).toNat, false)
  else
    let k := (u - e).toNat
    roundInt mode draw (m / 2 ^ k) (m % 2 ^ k) k

/-- A number format of R188: width, exponent field, fraction field, bias, the exponent and
significand of the largest finite value, whether it has infinities, and its Spotter slot. An
integer format has `ebits` 0. -/
structure Fmt where
  code : Nat
  width : Nat
  ebits : Nat
  mbits : Nat
  bias : Int
  maxM : Nat
  maxE : Int
  hasInf : Bool
  hasNan : Bool
  mx : Bool
  slot : Nat
  deriving DecidableEq, Repr

/-- The format is an integer format. -/
def Fmt.isInt (f : Fmt) : Bool := f.ebits = 0

/-- The format of a descriptor's code, R188; none for any other code. -/
def fmtOf : Nat → Option Fmt
  | 0x01 => some ⟨1, 32, 8, 23, 127, 2 ^ 24 - 1, 104, true, true, false, 0⟩
  | 0x02 => some ⟨2, 16, 8, 7, 127, 255, 120, true, true, false, 1⟩
  | 0x03 => some ⟨3, 16, 5, 10, 15, 2047, 5, true, true, false, 2⟩
  | 0x04 => some ⟨4, 8, 0, 7, 0, 127, 0, false, false, false, 8⟩
  | 0x05 => some ⟨5, 32, 0, 31, 0, 2 ^ 31 - 1, 0, false, false, false, 9⟩
  | 0x08 => some ⟨8, 8, 4, 3, 7, 7, 6, false, true, false, 3⟩
  | 0x09 => some ⟨9, 8, 5, 2, 15, 7, 13, true, true, false, 4⟩
  | 0x0A => some ⟨10, 8, 4, 3, 7, 7, 6, false, true, true, 3⟩
  | 0x0B => some ⟨11, 8, 5, 2, 15, 7, 13, true, true, true, 4⟩
  | 0x0C => some ⟨12, 6, 3, 2, 3, 7, 2, false, false, true, 5⟩
  | 0x0D => some ⟨13, 6, 2, 3, 1, 15, -1, false, false, true, 6⟩
  | 0x0E => some ⟨14, 4, 2, 1, 1, 3, 1, false, false, true, 7⟩
  | _ => none

/-- FP32. -/
def fp32 : Fmt := ⟨1, 32, 8, 23, 127, 2 ^ 24 - 1, 104, true, true, false, 0⟩

/-- BF16. -/
def bf16 : Fmt := ⟨2, 16, 8, 7, 127, 255, 120, true, true, false, 1⟩

/-- The exponent of the least significant place of a format's subnormals. -/
def Fmt.subExp (f : Fmt) : Int := if f.isInt then 0 else 1 - f.bias - f.mbits

/-- The exponent of the smallest normal value. -/
def Fmt.emin (f : Fmt) : Int := if f.isInt then 0 else 1 - f.bias

/-- The exponent of the largest normal value; R207 gives the integer formats 7 and 31. -/
def Fmt.emax (f : Fmt) : Int := if f.isInt then f.mbits else expOf f.maxM f.maxE

/-- The value of an element code before any block scale (R188). -/
def Fmt.decode (f : Fmt) (c : Nat) : Num :=
  if f.isInt then Num.ofInt (signed f.width c)
  else
    let neg := bit c (f.width - 1)
    let ex := bits c f.mbits f.ebits
    let fr := bits c 0 f.mbits
    if f.hasInf && decide (ex = 2 ^ f.ebits - 1) then (if fr = 0 then .inf neg else .nan)
    else if f.hasNan && !f.hasInf && decide (ex = 2 ^ f.ebits - 1) && decide (fr = 2 ^ f.mbits - 1)
      then .nan
    else if ex = 0 then .fin neg fr f.subExp
    else .fin neg (fr + 2 ^ f.mbits) ((ex : Int) - 1 + f.subExp)

/-- The canonical NaN code (R189). -/
def Fmt.nanCode (f : Fmt) : Nat :=
  if f.hasInf then (2 ^ f.ebits - 1) * 2 ^ f.mbits + 2 ^ (f.mbits - 1) else 2 ^ (f.width - 1) - 1

/-- The sign bit of a code. -/
def Fmt.signBit (f : Fmt) (neg : Bool) : Nat := if neg then 2 ^ (f.width - 1) else 0

/-- The code of infinity. -/
def Fmt.infCode (f : Fmt) (neg : Bool) : Nat := f.signBit neg + (2 ^ f.ebits - 1) * 2 ^ f.mbits

/-- The code of a representable magnitude q × 2^u, with u the spacing it was rounded at. -/
def Fmt.codeOf (f : Fmt) (neg : Bool) (q : Nat) (u : Int) : Nat :=
  if q = 0 then f.signBit neg
  else
    let ex := expOf q u
    if ex < f.emin then f.signBit neg + (roundMag .zero 0 q u f.subExp).1
    else
      let sig := (roundMag .zero 0 q u (ex - f.mbits)).1
      f.signBit neg + (ex + f.bias).toNat * 2 ^ f.mbits + (sig - 2 ^ f.mbits)

/-- The code of the largest finite magnitude. -/
def Fmt.maxCode (f : Fmt) (neg : Bool) : Nat :=
  if f.isInt then (if neg then 2 ^ (f.width - 1) else 2 ^ (f.width - 1) - 1)
  else f.codeOf neg f.maxM f.maxE

/-- What one conversion gives: the code, and what the Spotter counts of it (R206, R207). -/
structure Conv where
  code : Nat
  ovf : Bool
  van : Bool
  bin : Option Nat
  isNan : Bool
  deriving DecidableEq, Repr

/-- The histogram bin of a nonzero finite result of exponent `ex` (R207). -/
def Fmt.bin (f : Fmt) (ex : Int) : Option Nat :=
  if ex < f.emin then some 0
  else
    let n1 := (f.emax - f.emin + 1).toNat
    let d := (ex - f.emin).toNat
    ((List.range 6).find? (fun k => k * n1 / 6 ≤ d && d < (k + 1) * n1 / 6)).map (· + 1)

/-- The spacing exponent of a format at a magnitude (R195). -/
def Fmt.spacing (f : Fmt) (m : Nat) (e : Int) : Int :=
  if f.isInt then 0 else max (expOf m e - f.mbits) f.subExp

/-- The one rounding of R194 to R198 of a scaled value into a format: rounding mode, `SAT`, draw. -/
def Fmt.encode (f : Fmt) (mode : Rnd) (sat : Bool) (draw : Nat) : Num → Conv
  | .nan =>
    if f.isInt then ⟨0, true, false, none, true⟩
    else if f.hasNan then ⟨f.nanCode, false, false, none, true⟩
    else ⟨(Config.mxNan f.width).toNat % 2 ^ f.width, false, false, none, true⟩
  | .inf neg =>
    if f.hasInf then ⟨f.infCode neg, false, false, some 7, false⟩
    else if f.hasNan then
      (if sat then ⟨f.maxCode neg, true, false, some 7, false⟩ else ⟨f.nanCode, true, false, some 7, true⟩)
    else ⟨f.maxCode neg, true, false, some 7, false⟩
  | .fin neg m e =>
    if m = 0 then ⟨if f.isInt then 0 else f.signBit neg, false, false, none, false⟩
    else
      let u := f.spacing m e
      let q := (roundMag mode draw m e u).1
      let tooBig : Bool :=
        if f.isInt then decide (2 ^ (f.width - 1) - (if neg then 0 else 1) < q)
        else decide (q ≠ 0 ∧ atExp false f.maxM f.maxE (min f.maxE u) < atExp false q u (min f.maxE u))
      if tooBig then
        if f.isInt || !f.hasNan || mode = .zero || sat then ⟨f.maxCode neg, true, false, some 7, false⟩
        else if f.hasInf then ⟨f.infCode neg, true, false, some 7, false⟩
        else ⟨f.nanCode, true, false, some 7, true⟩
      else if q = 0 then ⟨if f.isInt then 0 else f.signBit neg, false, true, none, false⟩
      else
        ⟨if f.isInt then unsigned f.width (if neg then -(q : Int) else q) else f.codeOf neg q u,
          false, false, f.bin (expOf q u), false⟩

/-- Round a value to FP32 by nearest-even and give it back as a value (R189). -/
def Num.r32 (x : Num) : Num := fp32.decode (fp32.encode .nearest false 0 x).code

/-- The FP32 code of a value, by nearest-even. -/
def Num.to32 (x : Num) : Nat := (fp32.encode .nearest false 0 x).code

/-- Round a value to BF16 by nearest-even and give its code. -/
def Num.toBf (x : Num) : Nat := (bf16.encode .nearest false 0 x).code

/-- FP32 addition. -/
def f32add (a b : Num) : Num := (Num.add a b).r32

/-- FP32 subtraction. -/
def f32sub (a b : Num) : Num := (Num.add a b.neg).r32

/-- FP32 multiplication. -/
def f32mul (a b : Num) : Num := (Num.mul a b).r32

/-- FP32 fused multiply-add: one rounding. -/
def f32fma (a b c : Num) : Num := (Num.add (Num.mul a b) c).r32

/-- FP32 division. -/
def f32div (a b : Num) : Num := (Num.div a b).r32

/-- Round to WF35 (R192). -/
def Num.wf35 : Num → Num
  | .fin neg m e =>
    if m = 0 then .fin neg 0 0
    else
      let u := expOf m e - 23
      let q := (roundMag .nearest 0 m e u).1
      if expOf q u < -1022 then .fin neg 0 0
      else if 1023 < expOf q u then .inf neg
      else .fin neg q u
  | x => x

/-- The value of a WF35 code. -/
def wf35Decode (c : Nat) : Num :=
  let neg := bit c 34
  let ex := bits c 23 11
  let fr := bits c 0 23
  if ex = 2047 then (if fr = 0 then .inf neg else .nan)
  else if ex = 0 then .fin neg 0 0
  else .fin neg (fr + 2 ^ 23) ((ex : Int) - 1046)

/-- The Tombola's draw (R200). -/
def tombola (k0 k1 tag step idx : Nat) : Nat :=
  let m := 2 ^ 64
  let rot (y : Nat) := (y * 2 ^ 17 % m) + y / 2 ^ 47
  let round (p : Nat × Nat) : Nat × Nat :=
    let x := (Nat.xor p.1 k0) * 0xD1B54A32D192ED03 % m
    (Nat.xor x (Nat.xor (x / 2 ^ 31) p.2), rot p.2)
  let p0 := (Nat.xor idx (tag * 2 ^ 56), Nat.xor step k1)
  (round (round (round (round p0)))).1 / 2 ^ 32 % 2 ^ 32

/-- The block scale that R199 chooses for the values of one MX block. -/
def mxScale (f : Fmt) (vals : List Num) : Nat :=
  if !f.hasNan && vals.any Num.isNan then 0xFF
  else
    let mags := vals.filterMap (fun v => match v with
      | .fin _ m e => if m = 0 then none else some (Num.fin false m e)
      | _ => none)
    match mags.foldl (fun (b : Option Num) v => match b with
        | none => some v
        | some a => some (if Num.lt a v then v else a)) none with
    | some (.fin _ m e) =>
      let s0 : Int := expOf m e - f.emax + 127
      -- rounded away from zero in the element format
      let e1 := e + 127 - s0
      let u := f.spacing m e1
      let t := roundMag .zero 0 m e1 u
      let q := if t.2 then t.1 + 1 else t.1
      let s1 := if atExp false f.maxM f.maxE (min f.maxE u) < atExp false q u (min f.maxE u)
        then s0 + 1 else s0
      (max 0 (min 254 s1)).toNat
    | _ => 127

/-- The value of an MX element code under its block's scale (R190). -/
def mxDecode (f : Fmt) (s c : Nat) : Num :=
  if s = 0xFF then .nan else (f.decode c).scale ((s : Int) - 127)

/-- `PADVAL` as a value (R309). -/
def padValue : Nat → Num
  | 0 => .zero
  | 1 => .inf true
  | 2 => .inf false
  | _ => .nan

/-- |y − 1/x| is at most 1.5 ulp of 1/x, for nonzero finite x (R250). -/
def recipNear (x y : Num) : Bool :=
  match x, y, Num.div .one x with
  | .fin nx mx ex, .fin ny my ey, .fin _ mq eq =>
    let ulp := if expOf mq eq < -126 then -149 else expOf mq eq - 23
    -- |x|·|y| − 1 against 1.5 · 2^ulp · |x|
    let f := min (ex + ey) (min 0 (ulp - 1 + ex))
    decide (nx = ny) &&
      decide (((mx * my * 2 ^ (ex + ey - f).toNat : Nat) - (2 ^ (-f).toNat : Nat) : Int).natAbs
        ≤ 3 * mx * 2 ^ (ulp - 1 + ex - f).toNat)
  | _, _, _ => false

/-- y is within 1.5 ulp of a value by the ulp of R250, whose exponent stops falling at `minE`; the value is
known to within 2^−77 of an ulp. -/
def nearUlp (minE : Int) : Num → Num → Bool
  | .fin n m e, .fin n' m' e' =>
    let u := (if m = 0 then minE else max (expOf m e) minE) - 23
    let f := min (min e e') (u - 77)
    decide ((atExp n m e f - atExp n' m' e' f).natAbs ≤ 3 * 2 ^ (u - 1 - f).toNat + 2 ^ (u - 77 - f).toNat)
  | _, _ => false

/-- One, in fixed point with 192 fraction bits. -/
def fixOne : Int := 2 ^ 192

/-- ln 2 in fixed point with 192 fraction bits. -/
def fixLn2 : Int := 0xb17217f7d1cf79abc9e3b39803f2f6af40f343267298b62d

/-- e^x of a finite FP32 value to far within an ulp: x = k ln 2 + r, and 48 terms of the series in r. From
|x| = 1024 on, a value beyond every range. -/
def expNum (n : Bool) (m : Nat) (e : Int) : Num :=
  if 10 ≤ expOf m e then .fin false 1 (if n then -2000 else 2000)
  else
    let x := atExp n m (e + 192) 0
    let k := (x + fixLn2 / 2) / fixLn2
    let r := x - k * fixLn2
    let t := (List.range 48).foldl (fun (p : Int) i => fixOne + r * p / ((48 - i : Nat) * fixOne)) fixOne
    .fin false t.toNat (k - 192)

/-- ln x of a positive finite value to far within an ulp: x = 2^k f with f from 0.75 to 1.5, and 48 terms of
the series of artanh. -/
def logNum (m : Nat) (e : Int) : Num :=
  let l := Nat.log2 m
  let h := if 3 * 2 ^ l ≤ 2 * m then l + 1 else l
  let z := ((m : Int) - 2 ^ h) * fixOne / ((m : Int) + 2 ^ h)
  let a := (List.range 48).foldl (fun (p : Int) i =>
    fixOne / (2 * (47 - i : Nat) + 1) + z * z / fixOne * p / fixOne) 0
  let v := 2 * z * a / fixOne + ((h : Int) + e) * fixLn2
  .fin (decide (v < 0)) v.natAbs (-192)

/-- The whole square root of a number below 2^320. -/
def sqrtNat (n : Nat) : Nat :=
  (List.range 160).foldl (fun r i => if (r + 2 ^ (159 - i)) ^ 2 ≤ n then r + 2 ^ (159 - i) else r) 0

/-- 1/√x of a positive finite FP32 value to far within an ulp. -/
def rsqrtNum (m : Nat) (e : Int) : Num :=
  let odd := e % 2 = 1
  .fin false (sqrtNat (2 ^ 300 / (if odd then 2 * m else m))) (-150 - (if odd then e - 1 else e) / 2)

/-- p of a built-in function (R249): c0 + c1·d + c2·d² with the ROM's coefficients of a segment. The coefficients and the
precision of the evaluation are free (log 11). -/
def sfuP (fn seg d : Nat) : Num := .fin false (Config.sfuPoly (Config.sfuRom fn seg) d).toNat (-62)

/-- The 23 fraction bits of the m in [1, 2) of a nonzero magnitude. -/
def sfuFrac (m : Nat) : Nat := m * 2 ^ (23 - Nat.log2 m) - 2 ^ 23

/-- A candidate result where it keeps the bound of R250 about the exact result, and else that result rounded;
+Inf where it exceeds the FP32 range. -/
def sfuNear (exact cand : Num) : Nat :=
  let q := exact.to32
  if q = fp32.infCode exact.sign then q
  else if nearUlp (-126) exact (fp32.decode cand.to32) then cand.to32 else q

/-- exp (R249): x·log2 e = n + f, segment ⌊256f⌋, result 2^n × p. -/
def sfuExp (n : Bool) (m : Nat) (e : Int) : Nat :=
  let x := atExp n m (e + 192) 0
  let f := (x % fixLn2 * fixOne / fixLn2).toNat * 256
  sfuNear (expNum n m e) ((sfuP 0 (f / 2 ^ 192) (f % 2 ^ 192)).scale (if 10 ≤ expOf m e then 0 else x / fixLn2))

/-- (e + p) × ln 2. -/
def logOf (e : Int) (p : Num) : Num :=
  match p with
  | .fin _ m k => Num.ofInt (e * 2 ^ (-k).toNat + m) |>.scale k |> (fun v => match v with
    | .fin s a b => .fin s (a * fixLn2.toNat) (b - 192)
    | v => v)
  | p => p

/-- p = log2 m of the logarithm for fraction bits: the ROM's, where it keeps the bound of R250 at every exponent of the FP32
range, and else log2 m to 62 fraction bits. -/
def sfuLogP (frac : Nat) : Num :=
  let m := 2 ^ 23 + frac
  let p := sfuP 1 (frac / 2 ^ 15) (frac % 2 ^ 15)
  if (List.range 277).all (fun i =>
      let e : Int := (i : Int) - 149
      nearUlp (-126) (logNum m (e - 23)) (fp32.decode (logOf e p).to32)) then p
  else match logNum m (-23) with
    | .fin _ v _ => .fin false (v * 2 ^ 62 / fixLn2.toNat) (-62)
    | v => v

/-- log (R249): x = 2^e × m, segment by the top 8 fraction bits of m. -/
def sfuLog (m : Nat) (e : Int) : Nat := sfuNear (logNum m e) (logOf (expOf m e) (sfuLogP (sfuFrac m)))

/-- p = 1/m of the reciprocal for fraction bits: the ROM's, where it keeps the bound of R250, and else 1/m rounded. -/
def sfuRecipP (frac : Nat) : Num :=
  let m : Num := .fin false (2 ^ 23 + frac) (-23)
  let p := sfuP 2 (frac / 2 ^ 15) (frac % 2 ^ 15)
  if recipNear m (fp32.decode p.to32) then p else fp32.decode (Num.div .one m).to32

/-- 1/x (R249): ±2^−e × p; an exact result beyond the FP32 range gives an infinity (R250). -/
def sfuRecip (n : Bool) (m : Nat) (e : Int) : Nat :=
  let q := Num.to32 (Num.div .one (.fin n m e))
  let c := ((sfuRecipP (sfuFrac m)).scale (-expOf m e)).to32
  let r := if n then fp32.signBit true + c else c
  if q = fp32.infCode n || r = fp32.infCode n then q else r

/-- p = 1/√m of the reciprocal root for fraction bits and the parity of the exponent: 128 segments over [1, 2), 128 over
[2, 4). -/
def sfuRootP (frac : Nat) (odd : Bool) : Num :=
  let x := rsqrtNum (2 ^ 23 + frac) (if odd then -22 else -23)
  let p := sfuP 3 (ofBool odd * 128 + frac / 2 ^ 16) (frac % 2 ^ 16)
  if nearUlp (-126) x (fp32.decode p.to32) then p else fp32.decode x.to32

/-- 1/√x (R249): x = 2^(2q) × m with m in [1, 4), result 2^−q × p. -/
def sfuRoot (m : Nat) (e : Int) : Nat :=
  let l := expOf m e
  ((sfuRootP (sfuFrac m) (l % 2 = 1)).scale (-(l / 2))).to32

/-- The FP32 code of a built-in function at an FP32 code (R249, R250): the special inputs of the table, and otherwise a
result assembled from the reduced input's p. -/
def sfuBuiltin (fn : Nat) (code : Nat) : Nat :=
  match fn, fp32.decode code with
  | _, .nan => fp32.nanCode
  | 0, .inf n => if n then 0 else fp32.infCode false
  | 1, .inf n => if n then fp32.nanCode else fp32.infCode false
  | 2, .inf n => fp32.signBit n
  | _, .inf n => if n then fp32.nanCode else 0
  | 0, .fin n m e => if m = 0 then Num.one.to32 else sfuExp n m e
  | 1, .fin n m e => if m = 0 then fp32.infCode true else if n then fp32.nanCode else sfuLog m e
  | 2, .fin n m e => if m = 0 then fp32.infCode n else sfuRecip n m e
  | _, .fin n m e => if m = 0 then fp32.infCode n else if n then fp32.nanCode else sfuRoot m e

/-- exp in WF35 (R259): the special inputs of R250, +Inf beyond the range and +0 below 2^−1022, and otherwise
the free value of log 12, within the bound of R250. -/
def expWide (x : Num) : Num :=
  match x with
  | .nan => .nan
  | .inf n => if n then .zero else .inf false
  | .fin n m e =>
    if m = 0 then .one
    else
      let y := wf35Decode (Config.wideExp (BitVec.ofNat 32 x.to32)).toNat
      match expNum n m e with
      | .fin n' m' e' =>
        if (Num.fin n' m' e').wf35 = .inf false then .inf false
        else if expOf m' e' < -1022 then .zero
        else if nearUlp (-1022) (.fin n' m' e') y then y else (Num.fin n' m' e').wf35
      | y' => y'

end Sys2Proof.Machine
end

