-- ==== Sys2Proof/Machine/State.lean ====
section
/-! DEFINITION. The state of the block as plain data: the register fields, the queue of waiting
commands, and every piece of state the spec gives the machine beside its registers; the reasons a
step can stop; and the state after reset. -/

namespace Sys2Proof.Machine

/-- One register field: the BAR0 offset of its register, its lowest bit, its width and the value it
holds at reset. -/
structure Fld where
  off : Nat
  lo : Nat
  w : Nat
  rst : Nat
  deriving DecidableEq, Repr

/-- One active program-loop level (R97): the addresses of the body's first instruction and of its
end, the count and the index. -/
structure LoopLevel where
  start : Nat
  stop : Nat
  count : Nat
  index : Nat
  deriving DecidableEq, Repr

/-- What a context's issue is blocked in (R81), with the operands the wait tests. -/
inductive Block where
  | fwait (flag n tmo : Nat)
  | qwait (eng n : Nat)
  | beat (n : Nat)
  | sched (fbase stages tmo : Nat)
  | barrier
  deriving DecidableEq, Repr

/-- A token handed out by `sched` (R353, R354): its index x, its micro-batch, the stamp of the
hand-out, the operations then queued in each engine that have not retired, and, once the context's next `sched`, `beat`
or `halt` has issued, the engine operations still ahead of its completion, by engine. -/
structure Token where
  x : Nat
  mb : Nat
  at_ : Nat
  older : List Nat := []
  left : Option (List Nat) := none
  deriving DecidableEq, Repr

/-- A context's hidden state: its loop stack, what it is blocked in and the stamp at which that began,
a pending mark of the beat (the engine operations still ahead of it, by engine) with the loop index it shows,
the tokens it has been
handed and not completed, oldest first, the operations ahead of its arrival at the beat's end, whether
`halt` was executed, and the curtain point it waits at. -/
structure CtxS where
  loops : List LoopLevel := []
  block : Option (Block × Nat) := none
  mark : Option (List Nat) := none
  markSlot : Nat := 0
  tokens : List Token := []
  arriveLeft : Option (List Nat) := none
  halted : Bool := false
  curtain : Option (Nat × Nat) := none
  rowCounted : Bool := false
  deriving DecidableEq, Repr

/-- One entry of an engine queue (R62): the opcode, the body of its word, its address, the captured
loop index of `PX`, the issue stamp and the issue number, the stamp at which it first stood at the head of its queue
in some core, whether its flag wait is over, the cores it has begun in and those it has retired in, whether it has no
effect, the storage exponents and rounding modes captured for D0 to D9 (R204), the captured step
(R201), the stamped table bank (R125), the value captured from `STEPF` (R127), whether the gate of R363 has let it
pass, progress counted per
core (keyed `cx` the array iterations retired or chunks advanced, 16 + `cx` the weight loads done, 32 + `cx` the
iterations begun), the cores whose outside part has ended, the cores in which an `lperm` has raised `PERM_RANGE`, the
image a `tload` captured (R254), the Parade position and the carry in flight on it. -/
structure QEntry where
  opc : Nat := 0
  word : Body := 0
  pc : Nat := 0
  px : Nat := 0
  issued : Nat := 0
  seq : Nat := 0
  since : Option Nat := none
  waited : Bool := false
  begun : Nat := 0
  noop : Bool := false
  retired : Nat := 0
  exps : List Int := []
  rnds : List Nat := []
  step : Nat := 0
  bank : Nat := 0
  flagVal : Nat := 0
  gated : Bool := false
  prog : Tab Nat := []
  done : Nat := 0
  perm : Nat := 0
  image : Option (List Byte) := none
  hop : Nat := 0
  popped : Bool := false
  pushed : Bool := false
  carry : List Nat := []
  deriving DecidableEq, Repr

/-- One weight tile held in an array bank (R136, R139): its class, the valid extents its descriptor
gave, and for each entry, keyed row × 64 + column of the tile by K-element, its exact value and the
block exponents. -/
structure WTile where
  cls : Nat := 0
  fmt : Nat := 0
  kValid : Nat := 0
  nValid : Nat := 0
  exp : Int := 0
  codes : Tab Nat := []
  scales : Tab Nat := []
  deriving DecidableEq, Repr

/-- What one iteration of `mma` or `mmx` works on: activations, weights, the valid extents, cross mode. -/
structure Step where
  aFmt : Nat := 0
  aExp : Int := 0
  aCodes : Tab Nat := []
  aScales : Tab Nat := []
  wt : WTile := {}
  m : Nat := 0
  kv : Nat := 0
  nv : Nat := 0
  cross : Bool := false
  deriving DecidableEq, Repr

/-- A tile step in progress, from the iteration's start until it retires (R162, R171 to R173): the issue number of its operation, its iteration, the
operands it read, its tiles, whether its window is placed, the next row to write, whether that row met an overflow and
waits for its replay, the bank of its weights with the loads made into that bank before it began, and the scratchpad
ranges it holds (first and last byte). -/
structure TileStep where
  seq : Nat := 0
  it : Nat := 0
  p : Step := {}
  tile : Nat := 0
  tile1 : Option Nat := none
  placed : Bool := false
  row : Nat := 0
  spilled : Bool := false
  bank : Nat := 0
  loads : Nat := 0
  ranges : List (Int × Int) := []
  deriving DecidableEq, Repr

/-- The row state of a soft maximum spread over registers (R262); `s` is a WF35 value as sign,
significand and exponent, or an infinity. -/
structure RowState where
  sInf : Bool := false
  sM : Nat := 0
  sE : Int := 0
  k : Nat := 0
  l : Nat := 0
  nan : Bool := false
  counted : Bool := false
  deriving DecidableEq, Repr

/-- A request that waits at a scratchpad bank, and the clk on which it has been denied in succession (R275). -/
structure BankWait where
  req : BankReq
  denied : Nat := 0
  deriving DecidableEq, Repr

/-- A core's stores: scratchpad, accumulator entries (keyed tile × 4096 + row × 64 + column), Lane
registers (keyed register × 256 + lane) with the free-value number of lanes not listed, weight
banks A and B of both halves (keys 0, 1 and 2, 3), which of them is active, which were loaded since
the last change, the loads made into each bank, the count of cross-mode iterations, the tile steps in progress of each
context, oldest first (key 2 and 3: of the second logical core under doubling), for each engine the context it served
last and how often in succession ahead of the other (R51, R52; 2 × times + context), table banks
(keyed slot × 8192 + bank × 4096 + byte), soft-maximum row state per context, the second set of carry
registers under doubling (keyed 4 × context + valid 0, kind 1, value 2), the special-function unit's last served
engine, the `LINGER` in force, and the requests that wait at its banks, oldest first. The bytes of a region under test stand in `sp`: the hidden buffer serves
them, so that a line reads as the program last wrote it (R283, log 35). -/
structure CoreS where
  sp : Tab Byte := []
  acc : Tab (Option (BitVec 64)) := []
  accFree : Tab Nat := []
  lane : Tab (Option (BitVec 32)) := []
  laneFree : Tab Nat := []
  weights : Tab WTile := []
  active : Tab Nat := []
  loaded : Tab Nat := []
  own : Tab Nat := []
  loads : Tab Nat := []
  crossIt : Nat := 0
  steps : Tab (List TileStep) := []
  turns : Tab Nat := []
  tables : Tab Byte := []
  rowState : Tab RowState := []
  carry2 : Tab Nat := []
  sfuStream : Bool := false
  linger : Nat := 256
  waits : List BankWait := []
  deriving DecidableEq, Repr

/-- One carry record (R240). -/
structure CarryRec where
  v0 : Nat := 0
  v1 : Nat := 0
  v2 : Nat := 0
  kind : Nat := 0
  src : Nat := 0
  seq : Nat := 0
  deriving DecidableEq, Repr

/-- A register access that waits in a crossing (R18): a write or a read, its offset, and the value written or the
events of the read's cycle. -/
structure XWord where
  write : Bool := true
  off : Nat := 0
  val : Nat := 0
  deriving DecidableEq, Repr

/-- Showtime beside its registers: the root's count and fraction; each island's deviation from the root, the correction
its replica is applying with the root's count at its sync word (R28), and a faulted replica's held value; the islands
with a faulted replica; for each island whose replica has reached T, the registers and Spotter counts as they then
stood (R40); the islands that have latched; the offset and delay filters (R32, R36) and the run of good offsets; a staged
seconds step with the count at its write and, once an edge was accepted, the count at the edge (R38); whether a replica
faulted between arm and T; the time-tree parent; and `PPS_OUT` with the stamp of its rise (R37). -/
structure TimeS where
  root : Nat := 0
  frac : Nat := 0
  dev : Tab Int := []
  slew : Tab (Int × Nat) := []
  held : Tab Nat := []
  faulted : List Nat := []
  frozen : Tab (Option (Tab Nat × Tab Nat)) := []
  latched : List Nat := []
  offsets : List Int := []
  delays : List Int := []
  missed : Nat := 0
  good : Nat := 0
  step : Option Nat := none
  stepPps : Bool := false
  stepStamp : Nat := 0
  stepEdge : Option Nat := none
  armFault : Bool := false
  parent : Option Nat := none
  ppsOut : Bool := false
  ppsRise : Nat := 0
  deriving DecidableEq, Repr

/-- A Carousel queue beside its registers: the bytes of positions from `CQ_GET` to `CQ_PUT` that a
stage holds, the first position held only in the tail, the end of the head stage, the ranges of positions of a stage that
stand in the backing area too, the open packet's first position, and the packets that wait while one is open (tag and
payload). -/
structure CqS where
  bytes : Tab Byte := []
  spilled : Nat := 0
  head : Nat := 0
  backed : List (Nat × Nat) := []
  opened : Option Nat := none
  waiting : List (Nat × List Byte) := []
  deriving DecidableEq, Repr

/-- A token handed out of a token queue: its micro-batch, whether `SCHED_INJECT` posted it, whether it is complete. -/
structure Handed where
  mb : Nat := 0
  injected : Bool := false
  complete : Bool := false
  deriving DecidableEq, Repr

/-- A job's state beside its registers: whether the present beat has been released, the contexts that have arrived at its
end and the stamp of the last arrival, its first mark, the packets closed of each hand-off queue's present
micro-batch, the token posts owed to each token queue and the tokens that stand in it (true: posted by `SCHED_INJECT`),
the tokens of each queue handed out, in order, the exact `PTR` and `REMAIN` of the schedule (their register fields show the
low bits), whether a
non-finite element was recorded in this step, and the beat at which three overran. -/
structure JobS where
  released : Bool := false
  arrived : List Nat := []
  ends : Nat := 0
  marked : Option Nat := none
  hoPkts : Tab Nat := []
  owed : Tab (List Bool) := []
  posted : Tab (List Bool) := []
  order : Tab (List Handed) := []
  ptr : Nat := 0
  remain : Nat := 0
  nfSeen : Bool := false
  overrun : Option Nat := none
  deriving DecidableEq, Repr

/-- One flit of the retry buffer or waiting for credit (R434): its `SEQ`, its lane (8 for a MAC flit),
its `DATA` bytes (of a MAC flit, the key identifier), and the group of the job whose packet it carries. -/
structure Flit where
  seq : Nat := 0
  lane : Nat := 0
  data : List Byte := []
  group : Nat := 0
  deriving DecidableEq, Repr

/-- A Guyline port beside its registers (R433 to R440): the next `SEQ` to send, the retry buffer, flits
waiting for room or credit, the next `SEQ` expected, the credits held by lane, the consecutive `NAK`s, flits received
since the last `ACK`, whether a `NAK` is outstanding, the last control flit sent (`ACK`, `NAK`, credits by lane), data
flits since the last MAC flit and their headers and ciphertext, the 256 bytes of the last flit sent, the `SEQ`s of flits
held for their tag, failures of the held flits, the key slots of R553 (keyed 2 × direction + slot), the transmit slot
in use, whether it changes at the next MAC flit, and the receive identifier last met. -/
structure PortS where
  txSeq : Nat := 0
  retry : List Flit := []
  waiting : List Flit := []
  rxSeq : Nat := 0
  credits : Tab Nat := []
  naks : Nat := 0
  sinceAck : Nat := 0
  nakOut : Bool := false
  ctl : Option (Nat × Bool × List Nat) := none
  txMac : Nat := 0
  macOver : List Byte := []
  out : List Byte := []
  rxHeld : List Nat := []
  macFails : Nat := 0
  keys : Tab (Option (Nat × List Byte)) := []
  txSlot : Nat := 0
  keyGo : Bool := false
  rxKey : Option Nat := none
  deriving DecidableEq, Repr

/-- A collective descriptor beside its table entry (R456): its launch count, whether an instance runs, the stamp at
which it launched, the OR of the non-finite bits, the working vector (the packet-format code words of every element,
in order), the stage and the step of its ring the instance stands in, the elements of the present step already
received, and packets that came ahead of their turn (launch count, non-finite bit, element offset, payload). -/
structure CollS where
  inst : Nat := 0
  running : Bool := false
  since : Nat := 0
  nf : Bool := false
  acc : List Nat := []
  stage : Nat := 0
  step : Nat := 0
  pos : Nat := 0
  early : List (Nat × Bool × Nat × List Byte) := []
  deriving DecidableEq, Repr

/-- A committed Curtain record of a job (R408): per context (keyed 2 × troupe + context) its hidden state, the
values of the registers saved, by field key, the job's hidden state, the carry rings, the Spotter totals, the banks
of the loaded slots of each core (keyed 64 × core + 2 × slot + bank), the `LCNT` and `LADDR` of each context's
`curtain` with the loader records, the put and get counts of the queues, and the draw count and captured step of
R203. -/
structure Record where
  ctxs : List (Nat × CtxS) := []
  fields : List (Nat × Nat) := []
  job : JobS := {}
  carry : List (Nat × List CarryRec) := []
  spotter : Tab Nat := []
  tables : List (Nat × Tab Byte) := []
  loaders : List (Nat × Nat × Nat) := []
  cqs : List (Nat × Nat) := []
  draws : Nat := 0
  step : Nat := 0
  deriving DecidableEq, Repr

/-- Where an error was raised, for the halt record and the trace record, whether it writes a trace record of
its own, whether an instruction or operation of a context raised it, and whether its job must stop even where
it could restore (R340). -/
structure ErrAt where
  code : Nat := 0
  island : Nat := 0
  payload : Nat := 0
  job : Option Nat := none
  unit : Nat := 5
  troupe : Nat := 0xFF
  ctxn : Nat := 0
  core : Nat := 0
  pc : Nat := 0
  traced : Bool := true
  ofOp : Bool := true
  noRestore : Bool := false
  deriving DecidableEq, Repr

/-- The Safety Net's state of a job beside its registers: a Curtain requested and not yet begun, the instant T of
the one in progress, T_c, the T of an ARM that a part defers, the stamp at which the device became READY, the ports
whose drain marker came, whether the device has sent its own, host adds held, the two record halves, the fill and the drain
log, which half of the log area is the fill log and how many entries the drain log has had, whether a securing copies
whole pages, whether it walks the page table, restarts of the present restore, the fault it began with, its stamp and the
root's count at its detection, the epoch the last wrap walk began in, what the buddy still owes, whether contexts blocked in `beat` stand at a release that
carries a Curtain, and whether such a release's Curtain is deferred. -/
structure SnS where
  req : Option Nat := none
  t : Nat := 0
  tc : Nat := 0
  armDue : Option Nat := none
  readyAt : Option Nat := none
  drained : List Nat := []
  sentMarkers : Bool := false
  heldAdds : List (Nat × Nat × Nat) := []
  recs : Tab (Option Record) := []
  fill : List Nat := []
  drain : List Nat := []
  half : Nat := 0
  drainLen : Nat := 0
  wholeCopy : Bool := false
  walking : Bool := false
  restarts : Nat := 0
  cause : ErrAt := {}
  causeAt : Nat := 0
  detected : Option Nat := none
  walkEpoch : Nat := 0
  owed : Nat := 0
  beatHold : Bool := false
  beatDue : Bool := false
  deriving DecidableEq, Repr

/-- A page operation in progress (R332, R333): its operands, the phase, the granules written since they were
copied, the passes that SETTLE has made, the old and the new frame, its entry if the admin ring carried it, and whether the old frame
retires. -/
structure PageOp where
  op : Nat := 0
  job : Nat := 0
  vpn : Nat := 0
  arg1 : Nat := 0
  phase : Nat := 0
  dirty : Nat := 0
  passes : Nat := 0
  oldDfn : Nat := 0
  newDfn : Nat := 0
  entry : Option Nat := none
  retire : Bool := false
  deriving DecidableEq, Repr

/-- A command a ring has fetched and not yet completed (R471): its index, its fields, whether it has started, the bytes a copy has moved, whether it
is done, its code and its result. -/
structure RingCmd where
  idx : Nat := 0
  opc : Nat := 0
  flg : Nat := 0
  cid : Nat := 0
  a0 : Nat := 0
  a1 : Nat := 0
  a2 : Nat := 0
  started : Bool := false
  moved : Nat := 0
  done : Bool := false
  code : Nat := 0
  result : Nat := 0
  deriving DecidableEq, Repr

/-- A command ring beside its registers (R470 to R475): the commands fetched and not completed, oldest first, the indices of
those that are done in the order in which they completed, the index of the next completion entry. -/
structure RingS where
  cmds : List RingCmd := []
  order : List Nat := []
  cplTail : Nat := 0
  deriving DecidableEq, Repr

/-- What the model holds of the configuration space and the link (R461, R462, R465, R467): the link's rate in GT/s and
its width once it is in L0, whether the function is ready for configuration. -/
structure PcieS where
  busMaster : Bool := false
  msixEnable : Bool := false
  functionMask : Bool := false
  d3hot : Bool := false
  linkL0 : Bool := false
  rate : Nat := 0
  width : Nat := 0
  ready : Bool := false
  bar2Log2 : Nat := 34
  deriving DecidableEq, Repr

/-- A DOE mailbox (R477): the request it is busy with, and the response that is ready. -/
structure DoeS where
  req : Option (List Byte) := none
  resp : Option (List Byte) := none
  deriving DecidableEq, Repr

/-- An IDE stream (R478, R552): its programmed key sets, the one in use, and whether it is Secure. -/
structure IdeS where
  keys : Tab (List Byte) := []
  active : Option Nat := none
  secure : Bool := false
  deriving DecidableEq, Repr

/-- The always-on domain (R495, R507, R520, R587): whether PERST# is asserted, whether step 1 is done and how long it
took in µs, the records of a THERMTRIP (sensor and stamp) and of a supply fault (rail and stamp),
whether the device drives THERMTRIP#, and whether it has shut down. -/
structure AonS where
  perst : Bool := true
  up : Bool := false
  upUs : Nat := 0
  trip : Option (Nat × Nat) := none
  supply : Option (Nat × Nat) := none
  tripLow : Bool := false
  down : Bool := false
  deriving DecidableEq, Repr

/-- Start-up (R509 to R517): whether it runs, the step in progress, whether it waits for a management load, whether
BAR0 is dark until step 2 of a warm reset completes, the objects read in step 3 (none where the read failed), the
reference block verified in step 4, the digests of the verified objects, and the depth of step 7. -/
structure BootS where
  running : Bool := false
  cur : Nat := 0
  waiting : Bool := false
  dark : Bool := false
  fw : Option (List Byte) := none
  pb : Option (List Byte) := none
  stb : Option (List Byte) := none
  refs : Option (List Byte) := none
  depth : Nat := 0
  ports : Nat := 0
  buddy : Nat := 0xFFFF
  deriving DecidableEq, Repr

/-- Power beside its registers (R485 to R494, R506): each Ring's hot floor, the Rings whose floor
rises, the Rings held hot at 110 °C, Rings whose
point is frozen, a rise that waits for its regulator, the cap-loop periods until a Ring's point may change again, the
periods its level has exceeded 32 or been 0, whether the HBM4 controllers are halved by the cap loop, each stack's
own admission (0 all, 1 half, 2 a quarter), remainders of the energy counters in units of 10 µJ, and the sensors read
since their `PEAK` was. -/
structure PowerS where
  hotFloor : Tab Nat := []
  warm : List Nat := []
  hot : List Nat := []
  frozen : List Nat := []
  rise : Tab (Option Nat) := []
  pace : Tab Nat := []
  high : Tab Nat := []
  zero : Tab Nat := []
  hbmHalf : Bool := false
  admits : Tab Nat := []
  pkgRem : Nat := 0
  ringRem : Tab Nat := []
  peaked : List Nat := []
  deriving DecidableEq, Repr

/-- The High Striker beside its registers (R527 to R533): the result it will report where a test was cut short (0 none),
an arrival during save, whether the restore is over, the port of a loop-back check in progress, and the sensors that
failed. -/
structure HsS where
  cut : Nat := 0
  early : Bool := false
  ended : Bool := false
  loop : Option Nat := none
  badSensors : List Nat := []
  deriving DecidableEq, Repr

/-- An SPDM session (R551): the transport of its messages, whether FINISH has completed it, and how often its keys were
updated. -/
structure SessS where
  tr : Nat := 0
  up : Bool := false
  updates : Nat := 0
  deriving DecidableEq, Repr

/-- An SPDM response: its transport, whether it is not ERROR, and the bytes the spec gives it. -/
structure Reply where
  tr : Nat := 0
  ok : Bool := false
  data : List Byte := []
  deriving DecidableEq, Repr

/-- The security block beside its registers (R545, R546, R551, R555): the nonce, the `SVN` of the object last verified
by counter, the enrolled keys (uses and key), the sessions, the debug level, and the last SPDM response. -/
structure SecS where
  nonce : Option (List Byte) := none
  last : Tab (Option Nat) := []
  enrolled : Tab (Nat × List Byte) := []
  sessions : Tab (Option SessS) := []
  level : Nat := 0
  reply : Reply := {}
  deriving DecidableEq, Repr

/-- The completion codes of MCTP control and PLDM that the spec names (R567, R569, R571), with success. -/
inductive PldmCode where
  | success | errorNotReady | alreadyInUpdateMode | error
  deriving DecidableEq, Repr

/-- The management endpoint beside its registers (R567 to R574): the terminus ID, the I3C address, the event
receiver, the events that wait for it, the components named, the component being written with its slot, whether a write
failed, the components applied, and the last response. -/
structure MgmtS where
  tid : Nat := 0
  i3c : Option Nat := none
  receiver : Option Nat := none
  events : List Nat := []
  named : List Nat := []
  comp : Nat := 0
  slot : Nat := 0
  bad : Bool := false
  applied : List (Nat × Nat) := []
  code : PldmCode := .success
  data : List Nat := []
  deriving DecidableEq, Repr

/-- The reasons a step stops with a fault. -/
inductive Fault where
  /-- A command names a unit the block does not have (a troupe above 23, a core above 15, a job above
  7, and so on). Raised by the meaning of a command whose operand is out of the unit's range; the
  spec gives such a command no effect. Safe: the machine stops where the hardware has no such
  command. -/
  | noSuchUnit
  deriving DecidableEq, Repr

/-- The reasons a step is refused. -/
inductive Refusal where
  /-- The command has no meaning yet. Raised by `exec` alone. Safe. -/
  | notModelled (mnemonic : String)
  deriving DecidableEq, Repr

/-- The whole state of the block. -/
structure State where
  pending : List Instr := []
  regs : Tab Nat := []
  time : TimeS := {}
  ctx : Tab CtxS := []
  queues : Tab (List QEntry) := []
  cores : Tab CoreS := []
  carry : Tab (List CarryRec) := []
  pushSeq : Tab Nat := []
  spotter : Tab Nat := []
  islSeq : Tab Nat := []
  cq : Tab CqS := []
  sn : Tab SnS := []
  job : Tab JobS := []
  ports : Tab PortS := []
  coll : Tab CollS := []
  issueSeq : Nat := 0
  glOut : Tab Nat := []
  barred : List Nat := []
  links : Tab Nat := []
  linksLost : List Nat := []
  relay : Tab (Nat × Nat) := []
  ackOwed : Tab Nat := []
  missedBeats : Tab Nat := []
  hbmSelf : Bool := false
  ddrSelf : Bool := false
  mem : Tab Byte := []
  host : Tab Byte := []
  owner : Tab Nat := []
  modules : Tab Nat := []
  tlb : Tab Nat := []
  pageOp : Option PageOp := none
  memErrs : List (Nat × Nat × Nat) := []
  alerts : Tab Nat := []
  retiring : List Nat := []
  rings : Tab RingS := []
  doubler : Tab (Option Nat) := []
  msgs : List Nat := []
  pcie : PcieS := {}
  doe : Tab DoeS := []
  ide : Tab IdeS := []
  aon : AonS := {}
  boot : BootS := {}
  power : PowerS := {}
  hs : HsS := {}
  sec : SecS := {}
  mgmt : MgmtS := {}
  flash : Tab Byte := []
  jtag : JtagInstr := .idcode
  stopped : List Nat := []
  crossings : Tab (List XWord) := []
  mmioData : Nat := 0
  rxStamp : Nat := 0
  cqFault : Option (Nat × Nat × Nat) := none
  committed : Bool := false
  fresh : Nat := 0
  deriving DecidableEq, Repr

/-- The state right after a power-on reset: every register field at its reset value, nothing listed
in any memory, no command waiting. -/
def State.reset : State := {}

end Sys2Proof.Machine
end

