-- ==== Sys2Proof/Machine/Regs.lean ====
section
/-! DEFINITION. The register map: every register of the spec's register tables, its BAR0 offset, its
fields with their access codes and reset values, one definition per field, and the row a BAR0 offset
falls in. A register that is repeated (per job, troupe, context, core, port, queue) is one row. -/

namespace Sys2Proof.Machine

/-- The registers by name. `JQ_` is a job Carousel queue's set (R348), `TQ_` a trace queue's (R387). -/
inductive RegId where
  | DEV_GRADE | DEV_TOPO | ST_NOW | ST_RATE | ST_SET_SEC | ST_SNAP_T | ST_CTRL | ST_STATUS
  | ST_OFS | ST_SNAP_CTRL | CTX_CFG | CTX_PC | CTX_STATUS | QDEPTH | CTX_ACC_MASK | CTX_WAIT
  | CTX_FLAG | DESC | NEST | ENG_IDLE | ENG_IDLE_SH | ENG_QOCC | JOB_CTRL | JOB_STATUS
  | JOB_CTX_MASK | JOB_HALT_INFO | JOB_HALT_PC | JOB_HALT_STAMP | JOB_ILLEGAL_CNT | JOB_FLAG_ADD | JOB_HOSTFLAGS | JOB_FLAG
  | ARR_CFG | ARR_STATUS | ARR_ROWS | ARR_FRZ_FEED | ARR_FRZ_WGHT | ARR_FRZ_DRAIN | ARR_FRZ_THROT | ARR_XREF
  | ARR_RISES | ARR_SH | RM_ARR | ACC_TILE | ACC_REPLAYS | ACC_REPLAY_CLK | ACC_RELOADS | ACC_VANISH
  | ACC_SPECIAL | ACC_HOLD_STALL | ACC_SH | SCALE | TB_KEY | TB_DRAWS | SPOT_RDLOSS | TB_DRAWS_SH
  | SPOT_RDLOSS_SH | SPOT_SH | LANE_STATUS | LANE_CARRY | SX_CHUNKS | SX_STALL | SX_RAW | LN_OPS
  | LN_RAW | SFU_CONTEND | PARADE_WAIT | PERM_LANES | VEC_SH | RM_PARADE | RM_SFN | SFM_ROWS
  | SFM_EMPTY | SFM_REPASS | SFM_RANGE | STAT_CLAMP | STAT_MERGES | SFM_SH | SP_CFG | SP_STATUS
  | SP_BT_FAIL | SP_ENG_LINES | SP_DMA_LINES | SP_DMA_STARVE | SP_ENG_CONFLICT | SP_ATOMICS | SP_CORR | SP_BT_REGIONS
  | SP_SH | DMA_OPS | DMA_RD_BYTES | DMA_WR_BYTES | DMA_IDX_SKIP | DMA_PAD_ELEMS | DMA_HOM_WAIT | DMA_HAZ_WAIT
  | DMA_ORDERED | DMA_SH | MEM_PT_ROOT | MEM_PT_ROOT2 | MEM_JOB_PAGES | MEM_OP_ARG0 | MEM_OP_ARG1 | MEM_OP_CMD
  | MEM_OP_STATUS | MEM_SPARE | MEM_HBM_STATUS | MEM_DDR_STATUS | HBM_RD | HBM_WR | HBM_CE | DDR_RD
  | DDR_WR | DDR_CE | HBM_RD_SH | HBM_WR_SH | HBM_CE_SH | DDR_RD_SH | DDR_WR_SH | DDR_CE_SH
  | STEP_SEQ | STEP_SIZE | STEP_STAGE | UPD_CFG | STEP_NF | NF_WATCH | UPD_ELEMS | UPD_NONFINITE
  | UPD_SKIPPED | UPD_SH | CAL_CFG | CAL_CTX_MASK | CAL_PERIOD | CAL_ORIGIN | CAL_WINDOW | CAL_BEAT
  | CAL_RELEASE | CAL_MARK | CAL_LATE | CAL_STATUS | CAL_COST | SCHED_CFG | SCHED_STATUS | SCHED_INJECT
  | MB_CNT | HO_CFG | JQ_CFG | JQ_BASE | JQ_PUT | JQ_GET | JQ_STATUS | JQ_DROPS
  | JQ_STALL_CLK | JQ_STALL_CLK_SH | SCHED_TAB | UPD_PROG | ERR_DEV_STATUS | ERR_INT_EN | ERR_LAST_FAULT | ERR_LAST_FAULT_T
  | ERR_LAST_POLICY | ERR_ILLEGAL_CNT | ERR_CORR | ERR_PIN_CNT | ERR_CNT | ERR_CNT_SH | TQ_CFG | TQ_BASE
  | TQ_PUT | TQ_GET | TQ_STATUS | TQ_DROPS | TQ_STALL_CLK | TQ_STALL_CLK_SH | TRC_REC | TRC_AVAIL
  | TRC_POP | SN_LDR | SN_EPOCH | SN_CFG | SN_REQ | SN_JOB_STATUS | SN_REC_BASE | SN_LOG_BASE
  | SN_LAST_T | SN_COST | SN_COMMITS | SN_ABANDONS | SN_RESTORES | SN_COW_GRANULES | SN_COW_STALL | SN_SH
  | SN_CLAMP | NC_STATUS | SN_CORE_RET | SN_DOUBLE | RCV_CMD | RCV_STATUS | GL_PORT_CFG | GL_PORT_STATUS
  | GL_VL_CRED | GL_ENC_CTR | GL_TX_FLITS | GL_RX_FLITS | GL_CRC_ERR | GL_REPLAYS | GL_FEC_CORR | GL_CRED_STALL
  | GL_RX_DISCARD | GL_SH | GL_DEV_ID | GL_TOPO | GL_MASTER | GL_HB_STATUS | GL_ROUTE_BASE | GL_OUT
  | GL_ROUTE_OVR | GRP_CFG | GRP_ROLES | GRP_LIST | GL_COLL_BASE | DEV_STATUS | MSIX_TABLE | MSIX_PBA
  | RING_BASE | RING_CFG | CPL_BASE | RING_STATUS | CPL_HEAD | FR_BASE | FR_CFG | FR_PTR
  | FR_DROPS | HIF_WIN | HIF_CFG | PWR_LIMIT | PWR_CAP | PWR_SHARE | PWR_STATUS | RING_PWR
  | CLK_STATUS | CLK_CFG | TS_TEMP | HBM_TEMP | PWR_ENERGY | RING_ENERGY | THROT_PERIODS | PWR_SH
  | DEV_RESET | DEV_BOOT | BOOT_LOG | HS_CMD | HS_STATUS | HS_SIG | HS_REF | HS_BOOT
  | HS_RUNS | HS_FAILS | HS_ABANDONS | HS_REFUSED | HS_SH | SEC_CMD | SEC_STATUS | SEC_ADDR
  | SEC_FUSE | SEC_SVN | SEC_ROMVER | SEC_DATA | SEC_MEAS | MGMT_STATUS | PB_INFO | FLASH_DIR
  | PB_MIRROR
  deriving DecidableEq, Repr

/-- Access codes of R7. -/
inductive Acc where
  | ro | rw | wo | w1c | rc | rwl
  deriving DecidableEq, Repr

/-- One field of a register row: its lowest bit, width, access code and reset value. -/
structure FieldRow where
  lo : Nat
  w : Nat
  acc : Acc
  rst : Nat
  deriving DecidableEq, Repr

/-- One row of the map: the register stands at `base` plus a multiple of each stride, each multiple
below its count. Strides fall from left to right. -/
structure RegRow where
  id : RegId
  base : Nat
  dims : List (Nat × Nat)
  fields : List FieldRow
  deriving DecidableEq, Repr

/-- `DEV_GRADE.PKG_CEIL_W`, R2, RO. -/
def Reg.DEV_GRADE.PKG_CEIL_W : Fld := ⟨0x8, 32, 16, 1800⟩
/-- `DEV_GRADE.GL_PORT_MASK`, R2, RO. -/
def Reg.DEV_GRADE.GL_PORT_MASK : Fld := ⟨0x8, 16, 16, 65535⟩
/-- `DEV_GRADE.CASCADE_LOG2`, R2, RO. -/
def Reg.DEV_GRADE.CASCADE_LOG2 : Fld := ⟨0x8, 11, 5, 16⟩
/-- `DEV_GRADE.GRADE`, R2, RO. -/
def Reg.DEV_GRADE.GRADE : Fld := ⟨0x8, 0, 8, 65⟩
/-- `DEV_TOPO.ISLANDS`, R24, RO. -/
def Reg.DEV_TOPO.ISLANDS : Fld := ⟨0x10, 48, 10, 0x21F⟩
/-- `DEV_TOPO.HBM_STACKS`, R24, RO. -/
def Reg.DEV_TOPO.HBM_STACKS : Fld := ⟨0x10, 40, 8, 0x18⟩
/-- `DEV_TOPO.DDR_CHANNELS`, R24, RO. -/
def Reg.DEV_TOPO.DDR_CHANNELS : Fld := ⟨0x10, 36, 4, 8⟩
/-- `DEV_TOPO.CORES_PER_TROUPE`, R24, RO. -/
def Reg.DEV_TOPO.CORES_PER_TROUPE : Fld := ⟨0x10, 24, 8, 0x10⟩
/-- `DEV_TOPO.TROUPES_PER_RING`, R24, RO. -/
def Reg.DEV_TOPO.TROUPES_PER_RING : Fld := ⟨0x10, 16, 8, 6⟩
/-- `DEV_TOPO.RINGS`, R24, RO. -/
def Reg.DEV_TOPO.RINGS : Fld := ⟨0x10, 8, 8, 4⟩
/-- `DEV_TOPO.TOPO_REV`, R24, RO. -/
def Reg.DEV_TOPO.TOPO_REV : Fld := ⟨0x10, 0, 8, 1⟩
/-- `ST_NOW.ST_NOW`, R44, RO. -/
def Reg.ST_NOW.ST_NOW : Fld := ⟨0x200000, 0, 64, 0⟩
/-- `ST_RATE.RATE`, R44, RO. -/
def Reg.ST_RATE.RATE : Fld := ⟨0x200018, 0, 48, 0xABCC77118⟩
/-- `ST_SET_SEC.SEC`, R44, WO. -/
def Reg.ST_SET_SEC.SEC : Fld := ⟨0x200020, 0, 34, 0⟩
/-- `ST_SNAP_T.T`, R44, RW. -/
def Reg.ST_SNAP_T.T : Fld := ⟨0x200040, 0, 64, 0⟩
/-- `ST_CTRL.PPS_OUT_EN`, R45, RW. -/
def Reg.ST_CTRL.PPS_OUT_EN : Fld := ⟨0x200008, 4, 1, 1⟩
/-- `ST_CTRL.TREF_EN`, R45, RW. -/
def Reg.ST_CTRL.TREF_EN : Fld := ⟨0x200008, 3, 1, 0⟩
/-- `ST_CTRL.PPS_EN`, R45, RW. -/
def Reg.ST_CTRL.PPS_EN : Fld := ⟨0x200008, 2, 1, 0⟩
/-- `ST_CTRL.ROLE`, R45, RO. -/
def Reg.ST_CTRL.ROLE : Fld := ⟨0x200008, 0, 2, 0⟩
/-- `ST_STATUS.EVT_CNT`, R46, RO. -/
def Reg.ST_STATUS.EVT_CNT : Fld := ⟨0x200010, 24, 8, 0⟩
/-- `ST_STATUS.STEP_DONE`, R46, W1C. -/
def Reg.ST_STATUS.STEP_DONE : Fld := ⟨0x200010, 15, 1, 0⟩
/-- `ST_STATUS.REPLICA_FAULT`, R46, W1C. -/
def Reg.ST_STATUS.REPLICA_FAULT : Fld := ⟨0x200010, 14, 1, 0⟩
/-- `ST_STATUS.PARENT_LOST`, R46, W1C. -/
def Reg.ST_STATUS.PARENT_LOST : Fld := ⟨0x200010, 13, 1, 0⟩
/-- `ST_STATUS.TREF_LOST`, R46, W1C. -/
def Reg.ST_STATUS.TREF_LOST : Fld := ⟨0x200010, 12, 1, 0⟩
/-- `ST_STATUS.PPS_LOST`, R46, W1C. -/
def Reg.ST_STATUS.PPS_LOST : Fld := ⟨0x200010, 11, 1, 0⟩
/-- `ST_STATUS.STATE`, R46, RO. -/
def Reg.ST_STATUS.STATE : Fld := ⟨0x200010, 0, 3, 0⟩
/-- `ST_OFS.DELAY`, R47, RO. -/
def Reg.ST_OFS.DELAY : Fld := ⟨0x200028, 32, 32, 0⟩
/-- `ST_OFS.OFFSET`, R47, RO. -/
def Reg.ST_OFS.OFFSET : Fld := ⟨0x200028, 0, 32, 0⟩
/-- `ST_SNAP_CTRL.SEQ`, R48, RO. -/
def Reg.ST_SNAP_CTRL.SEQ : Fld := ⟨0x200048, 32, 32, 0⟩
/-- `ST_SNAP_CTRL.INCOMPLETE`, R48, RO. -/
def Reg.ST_SNAP_CTRL.INCOMPLETE : Fld := ⟨0x200048, 3, 1, 0⟩
/-- `ST_SNAP_CTRL.DONE`, R48, RO. -/
def Reg.ST_SNAP_CTRL.DONE : Fld := ⟨0x200048, 2, 1, 0⟩
/-- `ST_SNAP_CTRL.ARMED`, R48, RO. -/
def Reg.ST_SNAP_CTRL.ARMED : Fld := ⟨0x200048, 1, 1, 0⟩
/-- `ST_SNAP_CTRL.ARM`, R48, WO. -/
def Reg.ST_SNAP_CTRL.ARM : Fld := ⟨0x200048, 0, 1, 0⟩
/-- `CTX_CFG.CORE_EN`, R78, RW. -/
def Reg.CTX_CFG.CORE_EN (g c : Nat) : Fld := ⟨0x1000000 + g * 0x200000 + c * 0x40000, 32, 16, 0xFFFF⟩
/-- `CTX_CFG.WAIT_TMO`, R78, RW. -/
def Reg.CTX_CFG.WAIT_TMO (g c : Nat) : Fld := ⟨0x1000000 + g * 0x200000 + c * 0x40000, 22, 6, 24⟩
/-- `CTX_CFG.PRIO`, R78, RW. -/
def Reg.CTX_CFG.PRIO (g c : Nat) : Fld := ⟨0x1000000 + g * 0x200000 + c * 0x40000, 21, 1, 0⟩
/-- `CTX_CFG.SPLIT`, R78, RO. -/
def Reg.CTX_CFG.SPLIT (g c : Nat) : Fld := ⟨0x1000000 + g * 0x200000 + c * 0x40000, 20, 1, 0⟩
/-- `CTX_CFG.BOUND`, R78, RO. -/
def Reg.CTX_CFG.BOUND (g c : Nat) : Fld := ⟨0x1000000 + g * 0x200000 + c * 0x40000, 11, 1, 0⟩
/-- `CTX_CFG.JOB`, R78, RO. -/
def Reg.CTX_CFG.JOB (g c : Nat) : Fld := ⟨0x1000000 + g * 0x200000 + c * 0x40000, 8, 3, 0⟩
/-- `CTX_PC.ADDR`, R79, RW. -/
def Reg.CTX_PC.ADDR (g c : Nat) : Fld := ⟨0x1000008 + g * 0x200000 + c * 0x40000, 4, 48, 0⟩
/-- `CTX_STATUS.EVT_CNT`, R80, RO. -/
def Reg.CTX_STATUS.EVT_CNT (g c : Nat) : Fld := ⟨0x1000010 + g * 0x200000 + c * 0x40000, 56, 8, 0⟩
/-- `CTX_STATUS.CODE`, R80, RO. -/
def Reg.CTX_STATUS.CODE (g c : Nat) : Fld := ⟨0x1000010 + g * 0x200000 + c * 0x40000, 48, 8, 0⟩
/-- `CTX_STATUS.FLAG_SAT`, R80, W1C. -/
def Reg.CTX_STATUS.FLAG_SAT (g c : Nat) : Fld := ⟨0x1000010 + g * 0x200000 + c * 0x40000, 32, 1, 0⟩
/-- `CTX_STATUS.BLOCK`, R80, RO. -/
def Reg.CTX_STATUS.BLOCK (g c : Nat) : Fld := ⟨0x1000010 + g * 0x200000 + c * 0x40000, 4, 4, 0⟩
/-- `CTX_STATUS.STATE`, R80, RO. -/
def Reg.CTX_STATUS.STATE (g c : Nat) : Fld := ⟨0x1000010 + g * 0x200000 + c * 0x40000, 0, 3, 0⟩
/-- `QDEPTH.DMA`, R82, RO. -/
def Reg.QDEPTH.DMA (g c : Nat) : Fld := ⟨0x1000018 + g * 0x200000 + c * 0x40000, 15, 5, 0⟩
/-- `QDEPTH.LANE`, R82, RO. -/
def Reg.QDEPTH.LANE (g c : Nat) : Fld := ⟨0x1000018 + g * 0x200000 + c * 0x40000, 10, 5, 0⟩
/-- `QDEPTH.STREAM`, R82, RO. -/
def Reg.QDEPTH.STREAM (g c : Nat) : Fld := ⟨0x1000018 + g * 0x200000 + c * 0x40000, 5, 5, 0⟩
/-- `QDEPTH.ARRAY`, R82, RO. -/
def Reg.QDEPTH.ARRAY (g c : Nat) : Fld := ⟨0x1000018 + g * 0x200000 + c * 0x40000, 0, 5, 0⟩
/-- `CTX_ACC_MASK.MASK`, R79, RW. -/
def Reg.CTX_ACC_MASK.MASK (g c : Nat) : Fld := ⟨0x1000020 + g * 0x200000 + c * 0x40000, 0, 32, if c = 0 then 0xFFFFFFFF else 0⟩
/-- `CTX_WAIT.FLAG`, R79, RO. -/
def Reg.CTX_WAIT.FLAG (g c : Nat) : Fld := ⟨0x1000028 + g * 0x200000 + c * 0x40000, 48, 9, 0⟩
/-- `CTX_WAIT.SINCE`, R79, RO. -/
def Reg.CTX_WAIT.SINCE (g c : Nat) : Fld := ⟨0x1000028 + g * 0x200000 + c * 0x40000, 0, 48, 0⟩
/-- `CTX_FLAG.COUNT`, R82, RW. -/
def Reg.CTX_FLAG.COUNT (g c i : Nat) : Fld := ⟨0x1000200 + g * 0x200000 + c * 0x40000 + i * 0x8, 0, 16, 0⟩
/-- `DESC.W`, R77, RW. -/
def Reg.DESC.W (g c i i2 : Nat) : Fld := ⟨0x1010000 + g * 0x200000 + c * 0x40000 + i * 0x40 + i2 * 0x8, 0, 64, 0⟩
/-- `NEST.W`, R77, RW. -/
def Reg.NEST.W (g c i i2 : Nat) : Fld := ⟨0x1014000 + g * 0x200000 + c * 0x40000 + i * 0x100 + i2 * 0x8, 0, 64, 0⟩
/-- `ENG_IDLE.N`, R83, RO. -/
def Reg.ENG_IDLE.N (g cx i : Nat) : Fld := ⟨0x1100100 + g * 0x200000 + cx * 0x10000 + i * 0x8, 0, 64, 0⟩
/-- `ENG_IDLE_SH.N`, R83, RO. -/
def Reg.ENG_IDLE_SH.N (g cx i : Nat) : Fld := ⟨0x1100120 + g * 0x200000 + cx * 0x10000 + i * 0x8, 0, 64, 0⟩
/-- `ENG_QOCC.OCC`, R83, RO. -/
def Reg.ENG_QOCC.OCC (g cx : Nat) : Fld := ⟨0x1100140 + g * 0x200000 + cx * 0x10000, 0, 40, 0⟩
/-- `JOB_CTRL.CMD`, R85, WO. -/
def Reg.JOB_CTRL.CMD (j : Nat) : Fld := ⟨0x300000 + j * 0x10000, 0, 4, 0⟩
/-- `JOB_STATUS.EVT_CNT`, R85, RO. -/
def Reg.JOB_STATUS.EVT_CNT (j : Nat) : Fld := ⟨0x300008 + j * 0x10000, 56, 8, 0⟩
/-- `JOB_STATUS.FLAG_SAT_EVT`, R85, W1C. -/
def Reg.JOB_STATUS.FLAG_SAT_EVT (j : Nat) : Fld := ⟨0x300008 + j * 0x10000, 35, 1, 0⟩
/-- `JOB_STATUS.DONE_EVT`, R85, W1C. -/
def Reg.JOB_STATUS.DONE_EVT (j : Nat) : Fld := ⟨0x300008 + j * 0x10000, 34, 1, 0⟩
/-- `JOB_STATUS.HALT_EVT`, R85, W1C. -/
def Reg.JOB_STATUS.HALT_EVT (j : Nat) : Fld := ⟨0x300008 + j * 0x10000, 33, 1, 0⟩
/-- `JOB_STATUS.RESTART_EVT`, R85, W1C. -/
def Reg.JOB_STATUS.RESTART_EVT (j : Nat) : Fld := ⟨0x300008 + j * 0x10000, 32, 1, 0⟩
/-- `JOB_STATUS.LAST_CODE`, R85, RO. -/
def Reg.JOB_STATUS.LAST_CODE (j : Nat) : Fld := ⟨0x300008 + j * 0x10000, 8, 8, 0⟩
/-- `JOB_STATUS.STATE`, R85, RO. -/
def Reg.JOB_STATUS.STATE (j : Nat) : Fld := ⟨0x300008 + j * 0x10000, 0, 3, 0⟩
/-- `JOB_CTX_MASK.MASK`, R85, RW. -/
def Reg.JOB_CTX_MASK.MASK (j : Nat) : Fld := ⟨0x300010 + j * 0x10000, 0, 48, 0⟩
/-- `JOB_HALT_INFO.EXTRA`, R86, RO. -/
def Reg.JOB_HALT_INFO.EXTRA (j : Nat) : Fld := ⟨0x300020 + j * 0x10000, 48, 16, 0⟩
/-- `JOB_HALT_INFO.WAITS`, R86, RO. -/
def Reg.JOB_HALT_INFO.WAITS (j : Nat) : Fld := ⟨0x300020 + j * 0x10000, 40, 8, 0⟩
/-- `JOB_HALT_INFO.UNIT`, R86, RO. -/
def Reg.JOB_HALT_INFO.UNIT (j : Nat) : Fld := ⟨0x300020 + j * 0x10000, 32, 4, 0⟩
/-- `JOB_HALT_INFO.CORE`, R86, RO. -/
def Reg.JOB_HALT_INFO.CORE (j : Nat) : Fld := ⟨0x300020 + j * 0x10000, 28, 4, 0⟩
/-- `JOB_HALT_INFO.CTX`, R86, RO. -/
def Reg.JOB_HALT_INFO.CTX (j : Nat) : Fld := ⟨0x300020 + j * 0x10000, 24, 1, 0⟩
/-- `JOB_HALT_INFO.TROUPE`, R86, RO. -/
def Reg.JOB_HALT_INFO.TROUPE (j : Nat) : Fld := ⟨0x300020 + j * 0x10000, 16, 8, 0⟩
/-- `JOB_HALT_INFO.CODE`, R86, RO. -/
def Reg.JOB_HALT_INFO.CODE (j : Nat) : Fld := ⟨0x300020 + j * 0x10000, 0, 8, 0⟩
/-- `JOB_HALT_PC.ADDR`, R86, RO. -/
def Reg.JOB_HALT_PC.ADDR (j : Nat) : Fld := ⟨0x300028 + j * 0x10000, 0, 52, 0⟩
/-- `JOB_HALT_STAMP.STAMP`, R86, RO. -/
def Reg.JOB_HALT_STAMP.STAMP (j : Nat) : Fld := ⟨0x300030 + j * 0x10000, 0, 64, 0⟩
/-- `JOB_ILLEGAL_CNT.COUNT`, R85, RC. -/
def Reg.JOB_ILLEGAL_CNT.COUNT (j : Nat) : Fld := ⟨0x300038 + j * 0x10000, 0, 32, 0⟩
/-- `JOB_FLAG_ADD.IDX`, R85, WO. -/
def Reg.JOB_FLAG_ADD.IDX (j : Nat) : Fld := ⟨0x300040 + j * 0x10000, 16, 8, 0⟩
/-- `JOB_FLAG_ADD.ADD`, R85, WO. -/
def Reg.JOB_FLAG_ADD.ADD (j : Nat) : Fld := ⟨0x300040 + j * 0x10000, 0, 16, 0⟩
/-- `JOB_HOSTFLAGS.MASK`, R85, RW. -/
def Reg.JOB_HOSTFLAGS.MASK (j i : Nat) : Fld := ⟨0x300080 + j * 0x10000 + i * 0x8, 0, 64, 0⟩
/-- `JOB_FLAG.COUNT`, R84, RW. -/
def Reg.JOB_FLAG.COUNT (j i : Nat) : Fld := ⟨0x301000 + j * 0x10000 + i * 0x8, 0, 16, 0⟩
/-- `ARR_CFG.NARROW`, R157, RW. -/
def Reg.ARR_CFG.NARROW (g cx : Nat) : Fld := ⟨0x1100200 + g * 0x200000 + cx * 0x10000, 16, 1, 0⟩
/-- `ARR_CFG.LINGER`, R157, RW. -/
def Reg.ARR_CFG.LINGER (g cx : Nat) : Fld := ⟨0x1100200 + g * 0x200000 + cx * 0x10000, 0, 16, 0x100⟩
/-- `ARR_STATUS.EVT_CNT`, R158, RO. -/
def Reg.ARR_STATUS.EVT_CNT (g cx : Nat) : Fld := ⟨0x1100208 + g * 0x200000 + cx * 0x10000, 56, 8, 0⟩
/-- `ARR_STATUS.FENCE_EVT`, R158, W1C. -/
def Reg.ARR_STATUS.FENCE_EVT (g cx : Nat) : Fld := ⟨0x1100208 + g * 0x200000 + cx * 0x10000, 32, 1, 0⟩
/-- `ARR_STATUS.NARROW`, R158, RO. -/
def Reg.ARR_STATUS.NARROW (g cx : Nat) : Fld := ⟨0x1100208 + g * 0x200000 + cx * 0x10000, 19, 1, 0⟩
/-- `ARR_STATUS.SPLIT`, R158, RO. -/
def Reg.ARR_STATUS.SPLIT (g cx : Nat) : Fld := ⟨0x1100208 + g * 0x200000 + cx * 0x10000, 18, 1, 0⟩
/-- `ARR_STATUS.FENCE1`, R158, RO. -/
def Reg.ARR_STATUS.FENCE1 (g cx : Nat) : Fld := ⟨0x1100208 + g * 0x200000 + cx * 0x10000, 17, 1, 0⟩
/-- `ARR_STATUS.FENCE0`, R158, RO. -/
def Reg.ARR_STATUS.FENCE0 (g cx : Nat) : Fld := ⟨0x1100208 + g * 0x200000 + cx * 0x10000, 16, 1, 0⟩
/-- `ARR_STATUS.LEVEL1`, R158, RO. -/
def Reg.ARR_STATUS.LEVEL1 (g cx : Nat) : Fld := ⟨0x1100208 + g * 0x200000 + cx * 0x10000, 12, 4, 0⟩
/-- `ARR_STATUS.LEVEL0`, R158, RO. -/
def Reg.ARR_STATUS.LEVEL0 (g cx : Nat) : Fld := ⟨0x1100208 + g * 0x200000 + cx * 0x10000, 8, 4, 0⟩
/-- `ARR_STATUS.STATE1`, R158, RO. -/
def Reg.ARR_STATUS.STATE1 (g cx : Nat) : Fld := ⟨0x1100208 + g * 0x200000 + cx * 0x10000, 2, 2, 0⟩
/-- `ARR_STATUS.STATE0`, R158, RO. -/
def Reg.ARR_STATUS.STATE0 (g cx : Nat) : Fld := ⟨0x1100208 + g * 0x200000 + cx * 0x10000, 0, 2, 0⟩
/-- `ARR_ROWS.N`, R159, RO. -/
def Reg.ARR_ROWS.N (g cx : Nat) : Fld := ⟨0x1100210 + g * 0x200000 + cx * 0x10000, 0, 64, 0⟩
/-- `ARR_FRZ_FEED.N`, R159, RO. -/
def Reg.ARR_FRZ_FEED.N (g cx : Nat) : Fld := ⟨0x1100218 + g * 0x200000 + cx * 0x10000, 0, 64, 0⟩
/-- `ARR_FRZ_WGHT.N`, R159, RO. -/
def Reg.ARR_FRZ_WGHT.N (g cx : Nat) : Fld := ⟨0x1100220 + g * 0x200000 + cx * 0x10000, 0, 64, 0⟩
/-- `ARR_FRZ_DRAIN.N`, R159, RO. -/
def Reg.ARR_FRZ_DRAIN.N (g cx : Nat) : Fld := ⟨0x1100228 + g * 0x200000 + cx * 0x10000, 0, 64, 0⟩
/-- `ARR_FRZ_THROT.N`, R159, RO. -/
def Reg.ARR_FRZ_THROT.N (g cx : Nat) : Fld := ⟨0x1100230 + g * 0x200000 + cx * 0x10000, 0, 64, 0⟩
/-- `ARR_XREF.N`, R159, RO. -/
def Reg.ARR_XREF.N (g cx : Nat) : Fld := ⟨0x1100238 + g * 0x200000 + cx * 0x10000, 0, 64, 0⟩
/-- `ARR_RISES.N`, R159, RO. -/
def Reg.ARR_RISES.N (g cx : Nat) : Fld := ⟨0x1100240 + g * 0x200000 + cx * 0x10000, 0, 64, 0⟩
/-- `ARR_SH.N`, R159, RO. -/
def Reg.ARR_SH.N (g cx i : Nat) : Fld := ⟨0x1100250 + g * 0x200000 + cx * 0x10000 + i * 0x8, 0, 64, 0⟩
/-- `RM_ARR.SLOT_WAITS`, R160, RC. -/
def Reg.RM_ARR.SLOT_WAITS (g : Nat) : Fld := ⟨0x1080000 + g * 0x200000, 32, 32, 0⟩
/-- `RM_ARR.CLASS1`, R160, RO. -/
def Reg.RM_ARR.CLASS1 (g : Nat) : Fld := ⟨0x1080000 + g * 0x200000, 12, 3, 0⟩
/-- `RM_ARR.CLASS0`, R160, RO. -/
def Reg.RM_ARR.CLASS0 (g : Nat) : Fld := ⟨0x1080000 + g * 0x200000, 8, 3, 0⟩
/-- `RM_ARR.SHARED`, R160, RO. -/
def Reg.RM_ARR.SHARED (g : Nat) : Fld := ⟨0x1080000 + g * 0x200000, 3, 1, 0⟩
/-- `RM_ARR.SPLIT`, R160, RO. -/
def Reg.RM_ARR.SPLIT (g : Nat) : Fld := ⟨0x1080000 + g * 0x200000, 2, 1, 0⟩
/-- `RM_ARR.WVALID1`, R160, RO. -/
def Reg.RM_ARR.WVALID1 (g : Nat) : Fld := ⟨0x1080000 + g * 0x200000, 1, 1, 0⟩
/-- `RM_ARR.WVALID0`, R160, RO. -/
def Reg.RM_ARR.WVALID0 (g : Nat) : Fld := ⟨0x1080000 + g * 0x200000, 0, 1, 0⟩
/-- `ACC_TILE.VANISH`, R186, RO. -/
def Reg.ACC_TILE.VANISH (g cx i : Nat) : Fld := ⟨0x1100400 + g * 0x200000 + cx * 0x10000 + i * 0x8, 32, 32, 0⟩
/-- `ACC_TILE.INFLIGHT`, R186, RO. -/
def Reg.ACC_TILE.INFLIGHT (g cx i : Nat) : Fld := ⟨0x1100400 + g * 0x200000 + cx * 0x10000 + i * 0x8, 24, 8, 0⟩
/-- `ACC_TILE.REPLAYS`, R186, RO. -/
def Reg.ACC_TILE.REPLAYS (g cx i : Nat) : Fld := ⟨0x1100400 + g * 0x200000 + cx * 0x10000 + i * 0x8, 21, 3, 0⟩
/-- `ACC_TILE.PLACED`, R186, RO. -/
def Reg.ACC_TILE.PLACED (g cx i : Nat) : Fld := ⟨0x1100400 + g * 0x200000 + cx * 0x10000 + i * 0x8, 20, 1, 0⟩
/-- `ACC_TILE.HSTEP`, R186, RO. -/
def Reg.ACC_TILE.HSTEP (g cx i : Nat) : Fld := ⟨0x1100400 + g * 0x200000 + cx * 0x10000 + i * 0x8, 16, 4, 8⟩
/-- `ACC_TILE.E`, R186, RO. -/
def Reg.ACC_TILE.E (g cx i : Nat) : Fld := ⟨0x1100400 + g * 0x200000 + cx * 0x10000 + i * 0x8, 0, 10, 0⟩
/-- `ACC_REPLAYS.N`, R187, RO. -/
def Reg.ACC_REPLAYS.N (g cx : Nat) : Fld := ⟨0x1100300 + g * 0x200000 + cx * 0x10000, 0, 64, 0⟩
/-- `ACC_REPLAY_CLK.N`, R187, RO. -/
def Reg.ACC_REPLAY_CLK.N (g cx : Nat) : Fld := ⟨0x1100308 + g * 0x200000 + cx * 0x10000, 0, 64, 0⟩
/-- `ACC_RELOADS.N`, R187, RO. -/
def Reg.ACC_RELOADS.N (g cx : Nat) : Fld := ⟨0x1100310 + g * 0x200000 + cx * 0x10000, 0, 64, 0⟩
/-- `ACC_VANISH.N`, R187, RO. -/
def Reg.ACC_VANISH.N (g cx : Nat) : Fld := ⟨0x1100318 + g * 0x200000 + cx * 0x10000, 0, 64, 0⟩
/-- `ACC_SPECIAL.N`, R187, RO. -/
def Reg.ACC_SPECIAL.N (g cx : Nat) : Fld := ⟨0x1100320 + g * 0x200000 + cx * 0x10000, 0, 64, 0⟩
/-- `ACC_HOLD_STALL.N`, R187, RO. -/
def Reg.ACC_HOLD_STALL.N (g cx : Nat) : Fld := ⟨0x1100328 + g * 0x200000 + cx * 0x10000, 0, 64, 0⟩
/-- `ACC_SH.N`, R187, RO. -/
def Reg.ACC_SH.N (g cx i : Nat) : Fld := ⟨0x1100340 + g * 0x200000 + cx * 0x10000 + i * 0x8, 0, 64, 0⟩
/-- `SCALE.NEXT`, R210, RW. -/
def Reg.SCALE.NEXT (j i : Nat) : Fld := ⟨0x600000 + j * 0x20000 + i * 0x8, 32, 8, 0⟩
/-- `SCALE.PEND`, R210, RO. -/
def Reg.SCALE.PEND (j i : Nat) : Fld := ⟨0x600000 + j * 0x20000 + i * 0x8, 27, 1, 0⟩
/-- `SCALE.RND`, R210, RW. -/
def Reg.SCALE.RND (j i : Nat) : Fld := ⟨0x600000 + j * 0x20000 + i * 0x8, 25, 2, 0⟩
/-- `SCALE.AUTO`, R210, RW. -/
def Reg.SCALE.AUTO (j i : Nat) : Fld := ⟨0x600000 + j * 0x20000 + i * 0x8, 24, 1, 0⟩
/-- `SCALE.SAT`, R210, RW. -/
def Reg.SCALE.SAT (j i : Nat) : Fld := ⟨0x600000 + j * 0x20000 + i * 0x8, 23, 1, 0⟩
/-- `SCALE.CLASS`, R210, RW. -/
def Reg.SCALE.CLASS (j i : Nat) : Fld := ⟨0x600000 + j * 0x20000 + i * 0x8, 16, 6, 0⟩
/-- `SCALE.EXP`, R210, RW. -/
def Reg.SCALE.EXP (j i : Nat) : Fld := ⟨0x600000 + j * 0x20000 + i * 0x8, 0, 8, 0⟩
/-- `TB_KEY.KEY`, R211, RW. -/
def Reg.TB_KEY.KEY (j i : Nat) : Fld := ⟨0x600800 + j * 0x20000 + i * 0x8, 0, 64, 0⟩
/-- `TB_DRAWS.COUNT`, R211, RO. -/
def Reg.TB_DRAWS.COUNT (j : Nat) : Fld := ⟨0x600810 + j * 0x20000, 0, 48, 0⟩
/-- `SPOT_RDLOSS.COUNT`, R211, RO. -/
def Reg.SPOT_RDLOSS.COUNT (j : Nat) : Fld := ⟨0x600818 + j * 0x20000, 0, 48, 0⟩
/-- `TB_DRAWS_SH.COUNT`, R209, RO. -/
def Reg.TB_DRAWS_SH.COUNT (j : Nat) : Fld := ⟨0x600850 + j * 0x20000, 0, 48, 0⟩
/-- `SPOT_RDLOSS_SH.COUNT`, R209, RO. -/
def Reg.SPOT_RDLOSS_SH.COUNT (j : Nat) : Fld := ⟨0x600858 + j * 0x20000, 0, 48, 0⟩
/-- `SPOT_SH.COUNT`, R212, RO. -/
def Reg.SPOT_SH.COUNT (j i i2 : Nat) : Fld := ⟨0x60c000 + j * 0x20000 + i * 0x80 + i2 * 0x8, 0, 48, 0⟩
/-- `LANE_STATUS.EVT_CNT`, R243, RO. -/
def Reg.LANE_STATUS.EVT_CNT (g cx : Nat) : Fld := ⟨0x1100600 + g * 0x200000 + cx * 0x10000, 56, 8, 0⟩
/-- `LANE_STATUS.PERM_RANGE1`, R243, W1C. -/
def Reg.LANE_STATUS.PERM_RANGE1 (g cx : Nat) : Fld := ⟨0x1100600 + g * 0x200000 + cx * 0x10000, 41, 1, 0⟩
/-- `LANE_STATUS.PERM_RANGE0`, R243, W1C. -/
def Reg.LANE_STATUS.PERM_RANGE0 (g cx : Nat) : Fld := ⟨0x1100600 + g * 0x200000 + cx * 0x10000, 40, 1, 0⟩
/-- `LANE_STATUS.KIND1`, R243, RO. -/
def Reg.LANE_STATUS.KIND1 (g cx : Nat) : Fld := ⟨0x1100600 + g * 0x200000 + cx * 0x10000, 28, 2, 0⟩
/-- `LANE_STATUS.CVALID1`, R243, RO. -/
def Reg.LANE_STATUS.CVALID1 (g cx : Nat) : Fld := ⟨0x1100600 + g * 0x200000 + cx * 0x10000, 27, 1, 0⟩
/-- `LANE_STATUS.KIND0`, R243, RO. -/
def Reg.LANE_STATUS.KIND0 (g cx : Nat) : Fld := ⟨0x1100600 + g * 0x200000 + cx * 0x10000, 25, 2, 0⟩
/-- `LANE_STATUS.CVALID0`, R243, RO. -/
def Reg.LANE_STATUS.CVALID0 (g cx : Nat) : Fld := ⟨0x1100600 + g * 0x200000 + cx * 0x10000, 24, 1, 0⟩
/-- `LANE_STATUS.VL1`, R243, RO. -/
def Reg.LANE_STATUS.VL1 (g cx : Nat) : Fld := ⟨0x1100600 + g * 0x200000 + cx * 0x10000, 9, 9, 0x100⟩
/-- `LANE_STATUS.VL0`, R243, RO. -/
def Reg.LANE_STATUS.VL0 (g cx : Nat) : Fld := ⟨0x1100600 + g * 0x200000 + cx * 0x10000, 0, 9, 0x100⟩
/-- `LANE_CARRY.VALUE`, R244, RO. -/
def Reg.LANE_CARRY.VALUE (g cx i : Nat) : Fld := ⟨0x1100608 + g * 0x200000 + cx * 0x10000 + i * 0x8, 0, 32, 0⟩
/-- `SX_CHUNKS.N`, R245, RO. -/
def Reg.SX_CHUNKS.N (g cx : Nat) : Fld := ⟨0x1100620 + g * 0x200000 + cx * 0x10000, 0, 64, 0⟩
/-- `SX_STALL.N`, R245, RO. -/
def Reg.SX_STALL.N (g cx : Nat) : Fld := ⟨0x1100628 + g * 0x200000 + cx * 0x10000, 0, 64, 0⟩
/-- `SX_RAW.N`, R245, RO. -/
def Reg.SX_RAW.N (g cx : Nat) : Fld := ⟨0x1100630 + g * 0x200000 + cx * 0x10000, 0, 64, 0⟩
/-- `LN_OPS.N`, R245, RO. -/
def Reg.LN_OPS.N (g cx : Nat) : Fld := ⟨0x1100638 + g * 0x200000 + cx * 0x10000, 0, 64, 0⟩
/-- `LN_RAW.N`, R245, RO. -/
def Reg.LN_RAW.N (g cx : Nat) : Fld := ⟨0x1100640 + g * 0x200000 + cx * 0x10000, 0, 64, 0⟩
/-- `SFU_CONTEND.N`, R245, RO. -/
def Reg.SFU_CONTEND.N (g cx : Nat) : Fld := ⟨0x1100648 + g * 0x200000 + cx * 0x10000, 0, 64, 0⟩
/-- `PARADE_WAIT.N`, R245, RO. -/
def Reg.PARADE_WAIT.N (g cx : Nat) : Fld := ⟨0x1100650 + g * 0x200000 + cx * 0x10000, 0, 64, 0⟩
/-- `PERM_LANES.N`, R245, RO. -/
def Reg.PERM_LANES.N (g cx : Nat) : Fld := ⟨0x1100658 + g * 0x200000 + cx * 0x10000, 0, 64, 0⟩
/-- `VEC_SH.N`, R245, RO. -/
def Reg.VEC_SH.N (g cx i : Nat) : Fld := ⟨0x1100660 + g * 0x200000 + cx * 0x10000 + i * 0x8, 0, 64, 0⟩
/-- `RM_PARADE.HIREG`, R246, RO. -/
def Reg.RM_PARADE.HIREG (g i : Nat) : Fld := ⟨0x1090000 + g * 0x200000 + i * 0x8, 47, 1, 0⟩
/-- `RM_PARADE.CVALID`, R246, RO. -/
def Reg.RM_PARADE.CVALID (g i : Nat) : Fld := ⟨0x1090000 + g * 0x200000 + i * 0x8, 46, 1, 0⟩
/-- `RM_PARADE.KIND`, R246, RO. -/
def Reg.RM_PARADE.KIND (g i : Nat) : Fld := ⟨0x1090000 + g * 0x200000 + i * 0x8, 44, 2, 0⟩
/-- `RM_PARADE.UP_EN`, R246, RW. -/
def Reg.RM_PARADE.UP_EN (g i : Nat) : Fld := ⟨0x1090000 + g * 0x200000 + i * 0x8, 40, 1, 0⟩
/-- `RM_PARADE.UP_FLAG`, R246, RW. -/
def Reg.RM_PARADE.UP_FLAG (g i : Nat) : Fld := ⟨0x1090000 + g * 0x200000 + i * 0x8, 31, 9, 0⟩
/-- `RM_PARADE.DN_EN`, R246, RW. -/
def Reg.RM_PARADE.DN_EN (g i : Nat) : Fld := ⟨0x1090000 + g * 0x200000 + i * 0x8, 24, 1, 0⟩
/-- `RM_PARADE.DN_TROUPE`, R246, RW. -/
def Reg.RM_PARADE.DN_TROUPE (g i : Nat) : Fld := ⟨0x1090000 + g * 0x200000 + i * 0x8, 19, 5, 0⟩
/-- `RM_PARADE.DN_CTX`, R246, RW. -/
def Reg.RM_PARADE.DN_CTX (g i : Nat) : Fld := ⟨0x1090000 + g * 0x200000 + i * 0x8, 18, 1, 0⟩
/-- `RM_PARADE.RING_OCC`, R246, RO. -/
def Reg.RM_PARADE.RING_OCC (g i : Nat) : Fld := ⟨0x1090000 + g * 0x200000 + i * 0x8, 0, 3, 0⟩
/-- `RM_SFN.SFM_OPEN1`, R271, RO. -/
def Reg.RM_SFN.SFM_OPEN1 (g : Nat) : Fld := ⟨0x10a0000 + g * 0x200000, 41, 1, 0⟩
/-- `RM_SFN.SFM_OPEN0`, R271, RO. -/
def Reg.RM_SFN.SFM_OPEN0 (g : Nat) : Fld := ⟨0x10a0000 + g * 0x200000, 40, 1, 0⟩
/-- `RM_SFN.HISLOT`, R271, RO. -/
def Reg.RM_SFN.HISLOT (g : Nat) : Fld := ⟨0x10a0000 + g * 0x200000, 32, 1, 0⟩
/-- `RM_SFN.LOADED1`, R271, RO. -/
def Reg.RM_SFN.LOADED1 (g : Nat) : Fld := ⟨0x10a0000 + g * 0x200000, 16, 8, 0⟩
/-- `RM_SFN.LOADED0`, R271, RO. -/
def Reg.RM_SFN.LOADED0 (g : Nat) : Fld := ⟨0x10a0000 + g * 0x200000, 8, 8, 0⟩
/-- `RM_SFN.LIVE`, R271, RO. -/
def Reg.RM_SFN.LIVE (g : Nat) : Fld := ⟨0x10a0000 + g * 0x200000, 0, 8, 0⟩
/-- `SFM_ROWS.N`, R272, RO. -/
def Reg.SFM_ROWS.N (g cx : Nat) : Fld := ⟨0x1100700 + g * 0x200000 + cx * 0x10000, 0, 64, 0⟩
/-- `SFM_EMPTY.N`, R272, RO. -/
def Reg.SFM_EMPTY.N (g cx : Nat) : Fld := ⟨0x1100708 + g * 0x200000 + cx * 0x10000, 0, 64, 0⟩
/-- `SFM_REPASS.N`, R272, RO. -/
def Reg.SFM_REPASS.N (g cx : Nat) : Fld := ⟨0x1100710 + g * 0x200000 + cx * 0x10000, 0, 64, 0⟩
/-- `SFM_RANGE.N`, R272, RO. -/
def Reg.SFM_RANGE.N (g cx : Nat) : Fld := ⟨0x1100718 + g * 0x200000 + cx * 0x10000, 0, 64, 0⟩
/-- `STAT_CLAMP.N`, R272, RO. -/
def Reg.STAT_CLAMP.N (g cx : Nat) : Fld := ⟨0x1100720 + g * 0x200000 + cx * 0x10000, 0, 64, 0⟩
/-- `STAT_MERGES.N`, R272, RO. -/
def Reg.STAT_MERGES.N (g cx : Nat) : Fld := ⟨0x1100728 + g * 0x200000 + cx * 0x10000, 0, 64, 0⟩
/-- `SFM_SH.N`, R272, RO. -/
def Reg.SFM_SH.N (g cx i : Nat) : Fld := ⟨0x1100740 + g * 0x200000 + cx * 0x10000 + i * 0x8, 0, 64, 0⟩
/-- `SP_CFG.BT_INTERVAL`, R293, RW. -/
def Reg.SP_CFG.BT_INTERVAL (g cx : Nat) : Fld := ⟨0x1100800 + g * 0x200000 + cx * 0x10000, 16, 10, 0x312⟩
/-- `SP_CFG.BT_EN`, R293, RW. -/
def Reg.SP_CFG.BT_EN (g cx : Nat) : Fld := ⟨0x1100800 + g * 0x200000 + cx * 0x10000, 0, 1, 1⟩
/-- `SP_STATUS.EVT_CNT`, R294, RO. -/
def Reg.SP_STATUS.EVT_CNT (g cx : Nat) : Fld := ⟨0x1100808 + g * 0x200000 + cx * 0x10000, 56, 8, 0⟩
/-- `SP_STATUS.BT_FAIL_EVT`, R294, W1C. -/
def Reg.SP_STATUS.BT_FAIL_EVT (g cx : Nat) : Fld := ⟨0x1100808 + g * 0x200000 + cx * 0x10000, 33, 1, 0⟩
/-- `SP_STATUS.CORR_EVT`, R294, W1C. -/
def Reg.SP_STATUS.CORR_EVT (g cx : Nat) : Fld := ⟨0x1100808 + g * 0x200000 + cx * 0x10000, 32, 1, 0⟩
/-- `SP_STATUS.CLEARING`, R294, RO. -/
def Reg.SP_STATUS.CLEARING (g cx : Nat) : Fld := ⟨0x1100808 + g * 0x200000 + cx * 0x10000, 17, 1, 0⟩
/-- `SP_STATUS.BT_ACTIVE`, R294, RO. -/
def Reg.SP_STATUS.BT_ACTIVE (g cx : Nat) : Fld := ⟨0x1100808 + g * 0x200000 + cx * 0x10000, 16, 1, 0⟩
/-- `SP_STATUS.BT_REGION`, R294, RO. -/
def Reg.SP_STATUS.BT_REGION (g cx : Nat) : Fld := ⟨0x1100808 + g * 0x200000 + cx * 0x10000, 0, 10, 0⟩
/-- `SP_BT_FAIL.LINE`, R295, RO. -/
def Reg.SP_BT_FAIL.LINE (g cx : Nat) : Fld := ⟨0x1100810 + g * 0x200000 + cx * 0x10000, 8, 14, 0⟩
/-- `SP_ENG_LINES.N`, R296, RO. -/
def Reg.SP_ENG_LINES.N (g cx : Nat) : Fld := ⟨0x1100820 + g * 0x200000 + cx * 0x10000, 0, 64, 0⟩
/-- `SP_DMA_LINES.N`, R296, RO. -/
def Reg.SP_DMA_LINES.N (g cx : Nat) : Fld := ⟨0x1100828 + g * 0x200000 + cx * 0x10000, 0, 64, 0⟩
/-- `SP_DMA_STARVE.N`, R296, RO. -/
def Reg.SP_DMA_STARVE.N (g cx : Nat) : Fld := ⟨0x1100830 + g * 0x200000 + cx * 0x10000, 0, 64, 0⟩
/-- `SP_ENG_CONFLICT.N`, R296, RO. -/
def Reg.SP_ENG_CONFLICT.N (g cx : Nat) : Fld := ⟨0x1100838 + g * 0x200000 + cx * 0x10000, 0, 64, 0⟩
/-- `SP_ATOMICS.N`, R296, RO. -/
def Reg.SP_ATOMICS.N (g cx : Nat) : Fld := ⟨0x1100840 + g * 0x200000 + cx * 0x10000, 0, 64, 0⟩
/-- `SP_CORR.N`, R296, RO. -/
def Reg.SP_CORR.N (g cx : Nat) : Fld := ⟨0x1100848 + g * 0x200000 + cx * 0x10000, 0, 64, 0⟩
/-- `SP_BT_REGIONS.N`, R296, RO. -/
def Reg.SP_BT_REGIONS.N (g cx : Nat) : Fld := ⟨0x1100850 + g * 0x200000 + cx * 0x10000, 0, 64, 0⟩
/-- `SP_SH.N`, R296, RO. -/
def Reg.SP_SH.N (g cx i : Nat) : Fld := ⟨0x1100860 + g * 0x200000 + cx * 0x10000 + i * 0x8, 0, 64, 0⟩
/-- `DMA_OPS.N`, R322, RO. -/
def Reg.DMA_OPS.N (g cx : Nat) : Fld := ⟨0x1100900 + g * 0x200000 + cx * 0x10000, 0, 64, 0⟩
/-- `DMA_RD_BYTES.N`, R322, RO. -/
def Reg.DMA_RD_BYTES.N (g cx : Nat) : Fld := ⟨0x1100908 + g * 0x200000 + cx * 0x10000, 0, 64, 0⟩
/-- `DMA_WR_BYTES.N`, R322, RO. -/
def Reg.DMA_WR_BYTES.N (g cx : Nat) : Fld := ⟨0x1100910 + g * 0x200000 + cx * 0x10000, 0, 64, 0⟩
/-- `DMA_IDX_SKIP.N`, R322, RO. -/
def Reg.DMA_IDX_SKIP.N (g cx : Nat) : Fld := ⟨0x1100918 + g * 0x200000 + cx * 0x10000, 0, 64, 0⟩
/-- `DMA_PAD_ELEMS.N`, R322, RO. -/
def Reg.DMA_PAD_ELEMS.N (g cx : Nat) : Fld := ⟨0x1100920 + g * 0x200000 + cx * 0x10000, 0, 64, 0⟩
/-- `DMA_HOM_WAIT.N`, R322, RO. -/
def Reg.DMA_HOM_WAIT.N (g cx : Nat) : Fld := ⟨0x1100928 + g * 0x200000 + cx * 0x10000, 0, 64, 0⟩
/-- `DMA_HAZ_WAIT.N`, R322, RO. -/
def Reg.DMA_HAZ_WAIT.N (g cx : Nat) : Fld := ⟨0x1100930 + g * 0x200000 + cx * 0x10000, 0, 64, 0⟩
/-- `DMA_ORDERED.N`, R322, RO. -/
def Reg.DMA_ORDERED.N (g cx : Nat) : Fld := ⟨0x1100938 + g * 0x200000 + cx * 0x10000, 0, 64, 0⟩
/-- `DMA_SH.N`, R322, RO. -/
def Reg.DMA_SH.N (g cx i : Nat) : Fld := ⟨0x1100940 + g * 0x200000 + cx * 0x10000 + i * 0x8, 0, 64, 0⟩
/-- `MEM_PT_ROOT.ADDR`, R344, RW. -/
def Reg.MEM_PT_ROOT.ADDR (j : Nat) : Fld := ⟨0x300100 + j * 0x10000, 18, 25, 0⟩
/-- `MEM_PT_ROOT2.ADDR`, R344, RW. -/
def Reg.MEM_PT_ROOT2.ADDR (j : Nat) : Fld := ⟨0x300108 + j * 0x10000, 18, 25, 0⟩
/-- `MEM_JOB_PAGES.DDR`, R344, RO. -/
def Reg.MEM_JOB_PAGES.DDR (j : Nat) : Fld := ⟨0x300110 + j * 0x10000, 32, 32, 0⟩
/-- `MEM_JOB_PAGES.HBM`, R344, RO. -/
def Reg.MEM_JOB_PAGES.HBM (j : Nat) : Fld := ⟨0x300110 + j * 0x10000, 0, 32, 0⟩
/-- `MEM_OP_ARG0.JOB`, R345, RW. -/
def Reg.MEM_OP_ARG0.JOB : Fld := ⟨0xc00000, 32, 3, 0⟩
/-- `MEM_OP_ARG0.VPN`, R345, RW. -/
def Reg.MEM_OP_ARG0.VPN : Fld := ⟨0xc00000, 0, 31, 0⟩
/-- `MEM_OP_ARG1.W`, R345, RW. -/
def Reg.MEM_OP_ARG1.W : Fld := ⟨0xc00008, 0, 64, 0⟩
/-- `MEM_OP_CMD.OP`, R345, WO. -/
def Reg.MEM_OP_CMD.OP : Fld := ⟨0xc00010, 0, 4, 0⟩
/-- `MEM_OP_STATUS.EVT_CNT`, R345, RO. -/
def Reg.MEM_OP_STATUS.EVT_CNT : Fld := ⟨0xc00018, 56, 8, 0⟩
/-- `MEM_OP_STATUS.DONE_EVT`, R345, W1C. -/
def Reg.MEM_OP_STATUS.DONE_EVT : Fld := ⟨0xc00018, 32, 1, 0⟩
/-- `MEM_OP_STATUS.CODE`, R345, RO. -/
def Reg.MEM_OP_STATUS.CODE : Fld := ⟨0xc00018, 8, 8, 0⟩
/-- `MEM_OP_STATUS.BUSY`, R345, RO. -/
def Reg.MEM_OP_STATUS.BUSY : Fld := ⟨0xc00018, 3, 1, 0⟩
/-- `MEM_OP_STATUS.PHASE`, R345, RO. -/
def Reg.MEM_OP_STATUS.PHASE : Fld := ⟨0xc00018, 0, 3, 0⟩
/-- `MEM_SPARE.CNT`, R346, RW. -/
def Reg.MEM_SPARE.CNT : Fld := ⟨0xc00020, 44, 20, 0⟩
/-- `MEM_SPARE.ADDR`, R346, RW. -/
def Reg.MEM_SPARE.ADDR : Fld := ⟨0xc00020, 3, 40, 0⟩
/-- `MEM_HBM_STATUS.EVT_CNT`, R346, RO. -/
def Reg.MEM_HBM_STATUS.EVT_CNT : Fld := ⟨0xc00028, 56, 8, 0⟩
/-- `MEM_HBM_STATUS.LOST_EVT`, R346, W1C. -/
def Reg.MEM_HBM_STATUS.LOST_EVT : Fld := ⟨0xc00028, 32, 1, 0⟩
/-- `MEM_HBM_STATUS.RETIRED`, R346, RO. -/
def Reg.MEM_HBM_STATUS.RETIRED : Fld := ⟨0xc00028, 0, 24, 0⟩
/-- `MEM_DDR_STATUS.EVT_CNT`, R346, RO. -/
def Reg.MEM_DDR_STATUS.EVT_CNT : Fld := ⟨0xc00030, 56, 8, 0⟩
/-- `MEM_DDR_STATUS.LOST_EVT`, R346, W1C. -/
def Reg.MEM_DDR_STATUS.LOST_EVT : Fld := ⟨0xc00030, 48, 1, 0⟩
/-- `MEM_DDR_STATUS.RATE`, R346, RO. -/
def Reg.MEM_DDR_STATUS.RATE : Fld := ⟨0xc00030, 32, 16, 0⟩
/-- `MEM_DDR_STATUS.MRDIMM`, R346, RO. -/
def Reg.MEM_DDR_STATUS.MRDIMM : Fld := ⟨0xc00030, 24, 8, 0⟩
/-- `MEM_DDR_STATUS.RETIRED`, R346, RO. -/
def Reg.MEM_DDR_STATUS.RETIRED : Fld := ⟨0xc00030, 16, 8, 0⟩
/-- `MEM_DDR_STATUS.UNUSED`, R346, RO. -/
def Reg.MEM_DDR_STATUS.UNUSED : Fld := ⟨0xc00030, 8, 8, 0⟩
/-- `MEM_DDR_STATUS.PRESENT`, R346, RO. -/
def Reg.MEM_DDR_STATUS.PRESENT : Fld := ⟨0xc00030, 0, 8, 0⟩
/-- `HBM_RD.N`, R347, RO. -/
def Reg.HBM_RD.N (i : Nat) : Fld := ⟨0xc01000 + i * 0x8, 0, 64, 0⟩
/-- `HBM_WR.N`, R347, RO. -/
def Reg.HBM_WR.N (i : Nat) : Fld := ⟨0xc01100 + i * 0x8, 0, 64, 0⟩
/-- `HBM_CE.N`, R347, RO. -/
def Reg.HBM_CE.N (i : Nat) : Fld := ⟨0xc01200 + i * 0x8, 0, 64, 0⟩
/-- `DDR_RD.N`, R347, RO. -/
def Reg.DDR_RD.N (i : Nat) : Fld := ⟨0xc01300 + i * 0x8, 0, 64, 0⟩
/-- `DDR_WR.N`, R347, RO. -/
def Reg.DDR_WR.N (i : Nat) : Fld := ⟨0xc01340 + i * 0x8, 0, 64, 0⟩
/-- `DDR_CE.N`, R347, RO. -/
def Reg.DDR_CE.N (i : Nat) : Fld := ⟨0xc01380 + i * 0x8, 0, 64, 0⟩
/-- `HBM_RD_SH.N`, R347, RO. -/
def Reg.HBM_RD_SH.N (i : Nat) : Fld := ⟨0xc01800 + i * 0x8, 0, 64, 0⟩
/-- `HBM_WR_SH.N`, R347, RO. -/
def Reg.HBM_WR_SH.N (i : Nat) : Fld := ⟨0xc01900 + i * 0x8, 0, 64, 0⟩
/-- `HBM_CE_SH.N`, R347, RO. -/
def Reg.HBM_CE_SH.N (i : Nat) : Fld := ⟨0xc01a00 + i * 0x8, 0, 64, 0⟩
/-- `DDR_RD_SH.N`, R347, RO. -/
def Reg.DDR_RD_SH.N (i : Nat) : Fld := ⟨0xc01b00 + i * 0x8, 0, 64, 0⟩
/-- `DDR_WR_SH.N`, R347, RO. -/
def Reg.DDR_WR_SH.N (i : Nat) : Fld := ⟨0xc01b40 + i * 0x8, 0, 64, 0⟩
/-- `DDR_CE_SH.N`, R347, RO. -/
def Reg.DDR_CE_SH.N (i : Nat) : Fld := ⟨0xc01b80 + i * 0x8, 0, 64, 0⟩
/-- `STEP_SEQ.SEQ`, R372, RW. -/
def Reg.STEP_SEQ.SEQ (j : Nat) : Fld := ⟨0x300200 + j * 0x10000, 0, 48, 0⟩
/-- `STEP_SIZE.HI`, R372, RO. -/
def Reg.STEP_SIZE.HI (j i : Nat) : Fld := ⟨0x300208 + j * 0x10000 + i * 0x8, 32, 32, 0⟩
/-- `STEP_SIZE.LO`, R372, RO. -/
def Reg.STEP_SIZE.LO (j i : Nat) : Fld := ⟨0x300208 + j * 0x10000 + i * 0x8, 0, 32, 0⟩
/-- `STEP_STAGE.HI`, R372, RW. -/
def Reg.STEP_STAGE.HI (j i : Nat) : Fld := ⟨0x300218 + j * 0x10000 + i * 0x8, 32, 32, 0⟩
/-- `STEP_STAGE.LO`, R372, RW. -/
def Reg.STEP_STAGE.LO (j i : Nat) : Fld := ⟨0x300218 + j * 0x10000 + i * 0x8, 0, 32, 0⟩
/-- `UPD_CFG.STEP_TMO`, R372, RW. -/
def Reg.UPD_CFG.STEP_TMO (j : Nat) : Fld := ⟨0x300228 + j * 0x10000, 22, 6, 24⟩
/-- `UPD_CFG.NF_COLLS`, R372, RW. -/
def Reg.UPD_CFG.NF_COLLS (j : Nat) : Fld := ⟨0x300228 + j * 0x10000, 8, 8, 0⟩
/-- `UPD_CFG.NF_STEP_SKIP`, R372, RW. -/
def Reg.UPD_CFG.NF_STEP_SKIP (j : Nat) : Fld := ⟨0x300228 + j * 0x10000, 4, 1, 0⟩
/-- `UPD_CFG.NF_GATE`, R372, RW. -/
def Reg.UPD_CFG.NF_GATE (j : Nat) : Fld := ⟨0x300228 + j * 0x10000, 3, 1, 0⟩
/-- `UPD_CFG.NF_MODE`, R372, RW. -/
def Reg.UPD_CFG.NF_MODE (j : Nat) : Fld := ⟨0x300228 + j * 0x10000, 0, 2, 0⟩
/-- `STEP_NF.EVT_CNT`, R372, RO. -/
def Reg.STEP_NF.EVT_CNT (j : Nat) : Fld := ⟨0x300230 + j * 0x10000, 56, 8, 0⟩
/-- `STEP_NF.SKIP_EVT`, R372, W1C. -/
def Reg.STEP_NF.SKIP_EVT (j : Nat) : Fld := ⟨0x300230 + j * 0x10000, 33, 1, 0⟩
/-- `STEP_NF.NF_EVT`, R372, W1C. -/
def Reg.STEP_NF.NF_EVT (j : Nat) : Fld := ⟨0x300230 + j * 0x10000, 32, 1, 0⟩
/-- `STEP_NF.DONE`, R372, RO. -/
def Reg.STEP_NF.DONE (j : Nat) : Fld := ⟨0x300230 + j * 0x10000, 8, 8, 0⟩
/-- `STEP_NF.SKIP`, R372, RO. -/
def Reg.STEP_NF.SKIP (j : Nat) : Fld := ⟨0x300230 + j * 0x10000, 2, 1, 0⟩
/-- `STEP_NF.GLOBAL`, R372, RO. -/
def Reg.STEP_NF.GLOBAL (j : Nat) : Fld := ⟨0x300230 + j * 0x10000, 1, 1, 0⟩
/-- `STEP_NF.LOCAL`, R372, RO. -/
def Reg.STEP_NF.LOCAL (j : Nat) : Fld := ⟨0x300230 + j * 0x10000, 0, 1, 0⟩
/-- `NF_WATCH.MASK`, R372, RW. -/
def Reg.NF_WATCH.MASK (j i : Nat) : Fld := ⟨0x300238 + j * 0x10000 + i * 0x8, 0, 64, 0⟩
/-- `UPD_ELEMS.N`, R373, RO. -/
def Reg.UPD_ELEMS.N (j : Nat) : Fld := ⟨0x300260 + j * 0x10000, 0, 64, 0⟩
/-- `UPD_NONFINITE.N`, R373, RO. -/
def Reg.UPD_NONFINITE.N (j : Nat) : Fld := ⟨0x300268 + j * 0x10000, 0, 64, 0⟩
/-- `UPD_SKIPPED.N`, R373, RO. -/
def Reg.UPD_SKIPPED.N (j : Nat) : Fld := ⟨0x300270 + j * 0x10000, 0, 64, 0⟩
/-- `UPD_SH.N`, R373, RO. -/
def Reg.UPD_SH.N (j i : Nat) : Fld := ⟨0x3002a0 + j * 0x10000 + i * 0x8, 0, 64, 0⟩
/-- `CAL_CFG.SHRINK`, R374, RW. -/
def Reg.CAL_CFG.SHRINK (j : Nat) : Fld := ⟨0x400000 + j * 0x20000, 8, 8, 64⟩
/-- `CAL_CFG.EN`, R374, RW. -/
def Reg.CAL_CFG.EN (j : Nat) : Fld := ⟨0x400000 + j * 0x20000, 0, 1, 0⟩
/-- `CAL_CTX_MASK.MASK`, R374, RW. -/
def Reg.CAL_CTX_MASK.MASK (j : Nat) : Fld := ⟨0x400008 + j * 0x20000, 0, 48, 0⟩
/-- `CAL_PERIOD.DEN`, R374, RW. -/
def Reg.CAL_PERIOD.DEN (j : Nat) : Fld := ⟨0x400010 + j * 0x20000, 48, 16, 0⟩
/-- `CAL_PERIOD.NUM`, R374, RW. -/
def Reg.CAL_PERIOD.NUM (j : Nat) : Fld := ⟨0x400010 + j * 0x20000, 0, 48, 0⟩
/-- `CAL_ORIGIN.T`, R374, RW. -/
def Reg.CAL_ORIGIN.T (j : Nat) : Fld := ⟨0x400018 + j * 0x20000, 0, 64, 0⟩
/-- `CAL_WINDOW.ST`, R374, RW. -/
def Reg.CAL_WINDOW.ST (j : Nat) : Fld := ⟨0x400020 + j * 0x20000, 0, 32, 0⟩
/-- `CAL_BEAT.N`, R374, RO. -/
def Reg.CAL_BEAT.N (j : Nat) : Fld := ⟨0x400028 + j * 0x20000, 0, 48, 0⟩
/-- `CAL_RELEASE.T`, R374, RO. -/
def Reg.CAL_RELEASE.T (j : Nat) : Fld := ⟨0x400030 + j * 0x20000, 0, 64, 0⟩
/-- `CAL_MARK.T`, R374, RO. -/
def Reg.CAL_MARK.T (j : Nat) : Fld := ⟨0x400038 + j * 0x20000, 0, 64, 0⟩
/-- `CAL_LATE.CUT`, R374, RO. -/
def Reg.CAL_LATE.CUT (j : Nat) : Fld := ⟨0x400040 + j * 0x20000, 32, 32, 0⟩
/-- `CAL_LATE.LATE`, R374, RO. -/
def Reg.CAL_LATE.LATE (j : Nat) : Fld := ⟨0x400040 + j * 0x20000, 0, 32, 0⟩
/-- `CAL_STATUS.EVT_CNT`, R374, RO. -/
def Reg.CAL_STATUS.EVT_CNT (j : Nat) : Fld := ⟨0x400048 + j * 0x20000, 56, 8, 0⟩
/-- `CAL_STATUS.OVERRUN_EVT`, R374, W1C. -/
def Reg.CAL_STATUS.OVERRUN_EVT (j : Nat) : Fld := ⟨0x400048 + j * 0x20000, 33, 1, 0⟩
/-- `CAL_STATUS.LATE_EVT`, R374, W1C. -/
def Reg.CAL_STATUS.LATE_EVT (j : Nat) : Fld := ⟨0x400048 + j * 0x20000, 32, 1, 0⟩
/-- `CAL_STATUS.OVR_RUN`, R374, RO. -/
def Reg.CAL_STATUS.OVR_RUN (j : Nat) : Fld := ⟨0x400048 + j * 0x20000, 2, 2, 0⟩
/-- `CAL_STATUS.CLOSED`, R374, RO. -/
def Reg.CAL_STATUS.CLOSED (j : Nat) : Fld := ⟨0x400048 + j * 0x20000, 1, 1, 0⟩
/-- `CAL_STATUS.ACTIVE`, R374, RO. -/
def Reg.CAL_STATUS.ACTIVE (j : Nat) : Fld := ⟨0x400048 + j * 0x20000, 0, 1, 0⟩
/-- `CAL_COST.AUTO`, R374, RW. -/
def Reg.CAL_COST.AUTO (j i : Nat) : Fld := ⟨0x400100 + j * 0x20000 + i * 0x8, 63, 1, 0⟩
/-- `CAL_COST.COST`, R374, RW. -/
def Reg.CAL_COST.COST (j i : Nat) : Fld := ⟨0x400100 + j * 0x20000 + i * 0x8, 0, 32, 0⟩
/-- `SCHED_CFG.LEN`, R374, RW. -/
def Reg.SCHED_CFG.LEN (j : Nat) : Fld := ⟨0x400200 + j * 0x20000, 0, 11, 0⟩
/-- `SCHED_STATUS.SEQ_NEW`, R374, RO. -/
def Reg.SCHED_STATUS.SEQ_NEW (j : Nat) : Fld := ⟨0x400208 + j * 0x20000, 31, 1, 0⟩
/-- `SCHED_STATUS.AT_END`, R374, RO. -/
def Reg.SCHED_STATUS.AT_END (j : Nat) : Fld := ⟨0x400208 + j * 0x20000, 30, 1, 0⟩
/-- `SCHED_STATUS.REMAIN`, R374, RO. -/
def Reg.SCHED_STATUS.REMAIN (j : Nat) : Fld := ⟨0x400208 + j * 0x20000, 16, 11, 0⟩
/-- `SCHED_STATUS.PTR`, R374, RO. -/
def Reg.SCHED_STATUS.PTR (j : Nat) : Fld := ⟨0x400208 + j * 0x20000, 0, 10, 0⟩
/-- `SCHED_INJECT.DIR`, R374, WO. -/
def Reg.SCHED_INJECT.DIR (j : Nat) : Fld := ⟨0x400210 + j * 0x20000, 19, 1, 0⟩
/-- `SCHED_INJECT.STAGE`, R374, WO. -/
def Reg.SCHED_INJECT.STAGE (j : Nat) : Fld := ⟨0x400210 + j * 0x20000, 16, 3, 0⟩
/-- `SCHED_INJECT.COUNT`, R374, WO. -/
def Reg.SCHED_INJECT.COUNT (j : Nat) : Fld := ⟨0x400210 + j * 0x20000, 0, 16, 0⟩
/-- `MB_CNT.TAKEN`, R374, RO. -/
def Reg.MB_CNT.TAKEN (j i : Nat) : Fld := ⟨0x400300 + j * 0x20000 + i * 0x8, 32, 32, 0⟩
/-- `MB_CNT.ARR`, R374, RO. -/
def Reg.MB_CNT.ARR (j i : Nat) : Fld := ⟨0x400300 + j * 0x20000 + i * 0x8, 0, 32, 0⟩
/-- `HO_CFG.PKTS`, R374, RW. -/
def Reg.HO_CFG.PKTS (j i : Nat) : Fld := ⟨0x400380 + j * 0x20000 + i * 0x8, 0, 16, 1⟩
/-- `JQ_CFG.MAXPKT`, R348, RW. -/
def Reg.JQ_CFG.MAXPKT (j i : Nat) : Fld := ⟨0x401000 + j * 0x20000 + i * 0x40, 24, 20, 0x1000⟩
/-- `JQ_CFG.SIZE_LOG2`, R348, RW. -/
def Reg.JQ_CFG.SIZE_LOG2 (j i : Nat) : Fld := ⟨0x401000 + j * 0x20000 + i * 0x40, 12, 6, 0x10⟩
/-- `JQ_CFG.ROLL`, R348, RW. -/
def Reg.JQ_CFG.ROLL (j i : Nat) : Fld := ⟨0x401000 + j * 0x20000 + i * 0x40, 2, 1, 1⟩
/-- `JQ_CFG.FULL`, R348, RW. -/
def Reg.JQ_CFG.FULL (j i : Nat) : Fld := ⟨0x401000 + j * 0x20000 + i * 0x40, 1, 1, 0⟩
/-- `JQ_CFG.EN`, R348, RW. -/
def Reg.JQ_CFG.EN (j i : Nat) : Fld := ⟨0x401000 + j * 0x20000 + i * 0x40, 0, 1, 0⟩
/-- `JQ_BASE.ADDR`, R348, RW. -/
def Reg.JQ_BASE.ADDR (j i : Nat) : Fld := ⟨0x401008 + j * 0x20000 + i * 0x40, 16, 36, 0⟩
/-- `JQ_PUT.COUNT`, R348, RO. -/
def Reg.JQ_PUT.COUNT (j i : Nat) : Fld := ⟨0x401010 + j * 0x20000 + i * 0x40, 0, 64, 0⟩
/-- `JQ_GET.COUNT`, R348, RO. -/
def Reg.JQ_GET.COUNT (j i : Nat) : Fld := ⟨0x401018 + j * 0x20000 + i * 0x40, 0, 64, 0⟩
/-- `JQ_STATUS.EVT_CNT`, R348, RO. -/
def Reg.JQ_STATUS.EVT_CNT (j i : Nat) : Fld := ⟨0x401020 + j * 0x20000 + i * 0x40, 56, 8, 0⟩
/-- `JQ_STATUS.TRUNC_EVT`, R348, W1C. -/
def Reg.JQ_STATUS.TRUNC_EVT (j i : Nat) : Fld := ⟨0x401020 + j * 0x20000 + i * 0x40, 33, 1, 0⟩
/-- `JQ_STATUS.DROP_EVT`, R348, W1C. -/
def Reg.JQ_STATUS.DROP_EVT (j i : Nat) : Fld := ⟨0x401020 + j * 0x20000 + i * 0x40, 32, 1, 0⟩
/-- `JQ_STATUS.OPEN`, R348, RO. -/
def Reg.JQ_STATUS.OPEN (j i : Nat) : Fld := ⟨0x401020 + j * 0x20000 + i * 0x40, 0, 1, 0⟩
/-- `JQ_DROPS.COUNT`, R348, RC. -/
def Reg.JQ_DROPS.COUNT (j i : Nat) : Fld := ⟨0x401028 + j * 0x20000 + i * 0x40, 0, 32, 0⟩
/-- `JQ_STALL_CLK.COUNT`, R348, RO. -/
def Reg.JQ_STALL_CLK.COUNT (j i : Nat) : Fld := ⟨0x401030 + j * 0x20000 + i * 0x40, 0, 64, 0⟩
/-- `JQ_STALL_CLK_SH.COUNT`, R348, RO. -/
def Reg.JQ_STALL_CLK_SH.COUNT (j i : Nat) : Fld := ⟨0x401038 + j * 0x20000 + i * 0x40, 0, 64, 0⟩
/-- `SCHED_TAB.W`, R374, RW. -/
def Reg.SCHED_TAB.W (j i : Nat) : Fld := ⟨0x402000 + j * 0x20000 + i * 0x8, 0, 64, 0⟩
/-- `UPD_PROG.W`, R374, RW. -/
def Reg.UPD_PROG.W (j i i2 : Nat) : Fld := ⟨0x404000 + j * 0x20000 + i * 0x100 + i2 * 0x8, 0, 64, 0⟩
/-- `ERR_DEV_STATUS.EVT_CNT`, R392, RO. -/
def Reg.ERR_DEV_STATUS.EVT_CNT : Fld := ⟨0x700000, 56, 8, 0⟩
/-- `ERR_DEV_STATUS.PIN_EVT`, R392, W1C. -/
def Reg.ERR_DEV_STATUS.PIN_EVT : Fld := ⟨0x700000, 37, 1, 0⟩
/-- `ERR_DEV_STATUS.TRC_EVT`, R392, W1C. -/
def Reg.ERR_DEV_STATUS.TRC_EVT : Fld := ⟨0x700000, 36, 1, 0⟩
/-- `ERR_DEV_STATUS.CORR_EVT`, R392, W1C. -/
def Reg.ERR_DEV_STATUS.CORR_EVT : Fld := ⟨0x700000, 35, 1, 0⟩
/-- `ERR_DEV_STATUS.NET_LOST_EVT`, R392, W1C. -/
def Reg.ERR_DEV_STATUS.NET_LOST_EVT : Fld := ⟨0x700000, 34, 1, 0⟩
/-- `ERR_DEV_STATUS.POLICY_EVT`, R392, W1C. -/
def Reg.ERR_DEV_STATUS.POLICY_EVT : Fld := ⟨0x700000, 33, 1, 0⟩
/-- `ERR_DEV_STATUS.FAULT_EVT`, R392, W1C. -/
def Reg.ERR_DEV_STATUS.FAULT_EVT : Fld := ⟨0x700000, 32, 1, 0⟩
/-- `ERR_INT_EN.EN`, R392, RW. -/
def Reg.ERR_INT_EN.EN : Fld := ⟨0x700008, 0, 6, 0x3F⟩
/-- `ERR_LAST_FAULT.ISLAND`, R393, RO. -/
def Reg.ERR_LAST_FAULT.ISLAND : Fld := ⟨0x700010, 48, 10, 0⟩
/-- `ERR_LAST_FAULT.JOBV`, R393, RO. -/
def Reg.ERR_LAST_FAULT.JOBV : Fld := ⟨0x700010, 11, 1, 0⟩
/-- `ERR_LAST_FAULT.JOB`, R393, RO. -/
def Reg.ERR_LAST_FAULT.JOB : Fld := ⟨0x700010, 8, 3, 0⟩
/-- `ERR_LAST_FAULT.CODE`, R393, RO. -/
def Reg.ERR_LAST_FAULT.CODE : Fld := ⟨0x700010, 0, 8, 0⟩
/-- `ERR_LAST_FAULT_T.STAMP`, R393, RO. -/
def Reg.ERR_LAST_FAULT_T.STAMP : Fld := ⟨0x700018, 0, 64, 0⟩
/-- `ERR_LAST_POLICY.ISLAND`, R393, RO. -/
def Reg.ERR_LAST_POLICY.ISLAND : Fld := ⟨0x700020, 48, 10, 0⟩
/-- `ERR_LAST_POLICY.JOBV`, R393, RO. -/
def Reg.ERR_LAST_POLICY.JOBV : Fld := ⟨0x700020, 11, 1, 0⟩
/-- `ERR_LAST_POLICY.JOB`, R393, RO. -/
def Reg.ERR_LAST_POLICY.JOB : Fld := ⟨0x700020, 8, 3, 0⟩
/-- `ERR_LAST_POLICY.CODE`, R393, RO. -/
def Reg.ERR_LAST_POLICY.CODE : Fld := ⟨0x700020, 0, 8, 0⟩
/-- `ERR_ILLEGAL_CNT.COUNT`, R393, RC. -/
def Reg.ERR_ILLEGAL_CNT.COUNT : Fld := ⟨0x700028, 0, 32, 0⟩
/-- `ERR_CORR.THRESH`, R393, RW. -/
def Reg.ERR_CORR.THRESH : Fld := ⟨0x700030, 48, 16, 0⟩
/-- `ERR_CORR.TOTAL`, R393, RO. -/
def Reg.ERR_CORR.TOTAL : Fld := ⟨0x700030, 0, 48, 0⟩
/-- `ERR_PIN_CNT.PPS`, R393, RC. -/
def Reg.ERR_PIN_CNT.PPS : Fld := ⟨0x700038, 48, 16, 0⟩
/-- `ERR_PIN_CNT.TRIP`, R393, RC. -/
def Reg.ERR_PIN_CNT.TRIP : Fld := ⟨0x700038, 32, 16, 0⟩
/-- `ERR_PIN_CNT.THROT`, R393, RC. -/
def Reg.ERR_PIN_CNT.THROT : Fld := ⟨0x700038, 16, 16, 0⟩
/-- `ERR_PIN_CNT.PERST`, R393, RC. -/
def Reg.ERR_PIN_CNT.PERST : Fld := ⟨0x700038, 0, 16, 0⟩
/-- `ERR_CNT.N`, R394, RO. -/
def Reg.ERR_CNT.N (i : Nat) : Fld := ⟨0x701000 + i * 0x8, 0, 48, 0⟩
/-- `ERR_CNT_SH.N`, R394, RO. -/
def Reg.ERR_CNT_SH.N (i : Nat) : Fld := ⟨0x701800 + i * 0x8, 0, 48, 0⟩
/-- `TQ_CFG.MAXPKT`, R395, RW. -/
def Reg.TQ_CFG.MAXPKT (i : Nat) : Fld := ⟨0x702000 + i * 0x40, 24, 20, 32⟩
/-- `TQ_CFG.SIZE_LOG2`, R395, RW. -/
def Reg.TQ_CFG.SIZE_LOG2 (i : Nat) : Fld := ⟨0x702000 + i * 0x40, 12, 6, 0x10⟩
/-- `TQ_CFG.ROLL`, R395, RW. -/
def Reg.TQ_CFG.ROLL (i : Nat) : Fld := ⟨0x702000 + i * 0x40, 2, 1, 0⟩
/-- `TQ_CFG.FULL`, R395, RW. -/
def Reg.TQ_CFG.FULL (i : Nat) : Fld := ⟨0x702000 + i * 0x40, 1, 1, 1⟩
/-- `TQ_CFG.EN`, R395, RW. -/
def Reg.TQ_CFG.EN (i : Nat) : Fld := ⟨0x702000 + i * 0x40, 0, 1, 1⟩
/-- `TQ_BASE.ADDR`, R395, RW. -/
def Reg.TQ_BASE.ADDR (i : Nat) : Fld := ⟨0x702008 + i * 0x40, 16, 36, 0⟩
/-- `TQ_PUT.COUNT`, R395, RO. -/
def Reg.TQ_PUT.COUNT (i : Nat) : Fld := ⟨0x702010 + i * 0x40, 0, 64, 0⟩
/-- `TQ_GET.COUNT`, R395, RO. -/
def Reg.TQ_GET.COUNT (i : Nat) : Fld := ⟨0x702018 + i * 0x40, 0, 64, 0⟩
/-- `TQ_STATUS.EVT_CNT`, R395, RO. -/
def Reg.TQ_STATUS.EVT_CNT (i : Nat) : Fld := ⟨0x702020 + i * 0x40, 56, 8, 0⟩
/-- `TQ_STATUS.TRUNC_EVT`, R395, W1C. -/
def Reg.TQ_STATUS.TRUNC_EVT (i : Nat) : Fld := ⟨0x702020 + i * 0x40, 33, 1, 0⟩
/-- `TQ_STATUS.DROP_EVT`, R395, W1C. -/
def Reg.TQ_STATUS.DROP_EVT (i : Nat) : Fld := ⟨0x702020 + i * 0x40, 32, 1, 0⟩
/-- `TQ_STATUS.OPEN`, R395, RO. -/
def Reg.TQ_STATUS.OPEN (i : Nat) : Fld := ⟨0x702020 + i * 0x40, 0, 1, 0⟩
/-- `TQ_DROPS.COUNT`, R395, RC. -/
def Reg.TQ_DROPS.COUNT (i : Nat) : Fld := ⟨0x702028 + i * 0x40, 0, 32, 0⟩
/-- `TQ_STALL_CLK.COUNT`, R395, RO. -/
def Reg.TQ_STALL_CLK.COUNT (i : Nat) : Fld := ⟨0x702030 + i * 0x40, 0, 64, 0⟩
/-- `TQ_STALL_CLK_SH.COUNT`, R395, RO. -/
def Reg.TQ_STALL_CLK_SH.COUNT (i : Nat) : Fld := ⟨0x702038 + i * 0x40, 0, 64, 0⟩
/-- `TRC_REC.W`, R395, RO. -/
def Reg.TRC_REC.W (i i2 : Nat) : Fld := ⟨0x703000 + i * 0x40 + i2 * 0x8, 0, 64, 0⟩
/-- `TRC_AVAIL.N`, R395, RO. -/
def Reg.TRC_AVAIL.N (i : Nat) : Fld := ⟨0x703020 + i * 0x40, 0, 32, 0⟩
/-- `TRC_POP.N`, R395, WO. -/
def Reg.TRC_POP.N (i : Nat) : Fld := ⟨0x703028 + i * 0x40, 0, 8, 0⟩
/-- `SN_LDR.REC`, R427, RO. -/
def Reg.SN_LDR.REC (j i : Nat) : Fld := ⟨0x300300 + j * 0x10000 + i * 0x8, 0, 64, 0⟩
/-- `SN_EPOCH.BASE`, R427, RO. -/
def Reg.SN_EPOCH.BASE (j : Nat) : Fld := ⟨0x300340 + j * 0x10000, 16, 16, 0⟩
/-- `SN_EPOCH.CUR`, R427, RO. -/
def Reg.SN_EPOCH.CUR (j : Nat) : Fld := ⟨0x300340 + j * 0x10000, 0, 16, 0⟩
/-- `SN_CFG.GROUP`, R428, RW. -/
def Reg.SN_CFG.GROUP (j : Nat) : Fld := ⟨0x500000 + j * 0x10000, 48, 16, 0⟩
/-- `SN_CFG.BEAT_EVERY`, R428, RW. -/
def Reg.SN_CFG.BEAT_EVERY (j : Nat) : Fld := ⟨0x500000 + j * 0x10000, 40, 8, 0⟩
/-- `SN_CFG.QUIESCE_TMO`, R428, RW. -/
def Reg.SN_CFG.QUIESCE_TMO (j : Nat) : Fld := ⟨0x500000 + j * 0x10000, 34, 6, 27⟩
/-- `SN_CFG.LOG2`, R428, RW. -/
def Reg.SN_CFG.LOG2 (j : Nat) : Fld := ⟨0x500000 + j * 0x10000, 27, 5, 16⟩
/-- `SN_CFG.BUDDY`, R428, RW. -/
def Reg.SN_CFG.BUDDY (j : Nat) : Fld := ⟨0x500000 + j * 0x10000, 2, 1, 0⟩
/-- `SN_CFG.DOUBLE`, R428, RW. -/
def Reg.SN_CFG.DOUBLE (j : Nat) : Fld := ⟨0x500000 + j * 0x10000, 1, 1, 0⟩
/-- `SN_CFG.EN`, R428, RW. -/
def Reg.SN_CFG.EN (j : Nat) : Fld := ⟨0x500000 + j * 0x10000, 0, 1, 0⟩
/-- `SN_REQ.T`, R428, WO. -/
def Reg.SN_REQ.T (j : Nat) : Fld := ⟨0x500008 + j * 0x10000, 0, 64, 0⟩
/-- `SN_JOB_STATUS.EVT_CNT`, R429, RO. -/
def Reg.SN_JOB_STATUS.EVT_CNT (j : Nat) : Fld := ⟨0x500010 + j * 0x10000, 56, 8, 0⟩
/-- `SN_JOB_STATUS.ABANDON_EVT`, R429, W1C. -/
def Reg.SN_JOB_STATUS.ABANDON_EVT (j : Nat) : Fld := ⟨0x500010 + j * 0x10000, 34, 1, 0⟩
/-- `SN_JOB_STATUS.SECURED_EVT`, R429, W1C. -/
def Reg.SN_JOB_STATUS.SECURED_EVT (j : Nat) : Fld := ⟨0x500010 + j * 0x10000, 33, 1, 0⟩
/-- `SN_JOB_STATUS.COMMIT_EVT`, R429, W1C. -/
def Reg.SN_JOB_STATUS.COMMIT_EVT (j : Nat) : Fld := ⟨0x500010 + j * 0x10000, 32, 1, 0⟩
/-- `SN_JOB_STATUS.GEN`, R429, RO. -/
def Reg.SN_JOB_STATUS.GEN (j : Nat) : Fld := ⟨0x500010 + j * 0x10000, 24, 8, 0⟩
/-- `SN_JOB_STATUS.REC`, R429, RO. -/
def Reg.SN_JOB_STATUS.REC (j : Nat) : Fld := ⟨0x500010 + j * 0x10000, 8, 1, 0⟩
/-- `SN_JOB_STATUS.LOG_OVF`, R429, RO. -/
def Reg.SN_JOB_STATUS.LOG_OVF (j : Nat) : Fld := ⟨0x500010 + j * 0x10000, 7, 1, 0⟩
/-- `SN_JOB_STATUS.NORESTORE`, R429, RO. -/
def Reg.SN_JOB_STATUS.NORESTORE (j : Nat) : Fld := ⟨0x500010 + j * 0x10000, 6, 1, 0⟩
/-- `SN_JOB_STATUS.INCOMPLETE`, R429, RO. -/
def Reg.SN_JOB_STATUS.INCOMPLETE (j : Nat) : Fld := ⟨0x500010 + j * 0x10000, 5, 1, 0⟩
/-- `SN_JOB_STATUS.RESOLVING`, R429, RO. -/
def Reg.SN_JOB_STATUS.RESOLVING (j : Nat) : Fld := ⟨0x500010 + j * 0x10000, 4, 1, 0⟩
/-- `SN_JOB_STATUS.PHASE`, R429, RO. -/
def Reg.SN_JOB_STATUS.PHASE (j : Nat) : Fld := ⟨0x500010 + j * 0x10000, 0, 3, 0⟩
/-- `SN_REC_BASE.ADDR`, R428, RW. -/
def Reg.SN_REC_BASE.ADDR (j : Nat) : Fld := ⟨0x500018 + j * 0x10000, 23, 20, 0⟩
/-- `SN_LOG_BASE.ADDR`, R428, RW. -/
def Reg.SN_LOG_BASE.ADDR (j : Nat) : Fld := ⟨0x500020 + j * 0x10000, 13, 30, 0⟩
/-- `SN_LAST_T.T`, R428, RO. -/
def Reg.SN_LAST_T.T (j : Nat) : Fld := ⟨0x500028 + j * 0x10000, 0, 64, 0⟩
/-- `SN_COST.QUIESCE`, R428, RO. -/
def Reg.SN_COST.QUIESCE (j : Nat) : Fld := ⟨0x500030 + j * 0x10000, 32, 32, 0⟩
/-- `SN_COST.SECURE`, R428, RO. -/
def Reg.SN_COST.SECURE (j : Nat) : Fld := ⟨0x500030 + j * 0x10000, 0, 32, 0⟩
/-- `SN_COMMITS.N`, R430, RO. -/
def Reg.SN_COMMITS.N (j : Nat) : Fld := ⟨0x500100 + j * 0x10000, 0, 64, 0⟩
/-- `SN_ABANDONS.N`, R430, RO. -/
def Reg.SN_ABANDONS.N (j : Nat) : Fld := ⟨0x500108 + j * 0x10000, 0, 64, 0⟩
/-- `SN_RESTORES.N`, R430, RO. -/
def Reg.SN_RESTORES.N (j : Nat) : Fld := ⟨0x500110 + j * 0x10000, 0, 64, 0⟩
/-- `SN_COW_GRANULES.N`, R430, RO. -/
def Reg.SN_COW_GRANULES.N (j : Nat) : Fld := ⟨0x500118 + j * 0x10000, 0, 64, 0⟩
/-- `SN_COW_STALL.N`, R430, RO. -/
def Reg.SN_COW_STALL.N (j : Nat) : Fld := ⟨0x500120 + j * 0x10000, 0, 64, 0⟩
/-- `SN_SH.N`, R430, RO. -/
def Reg.SN_SH.N (j i : Nat) : Fld := ⟨0x500140 + j * 0x10000 + i * 0x8, 0, 64, 0⟩
/-- `SN_CLAMP.MAX_MS`, R431, RWL. -/
def Reg.SN_CLAMP.MAX_MS : Fld := ⟨0x580000, 32, 32, 1800000⟩
/-- `SN_CLAMP.MIN_MS`, R431, RWL. -/
def Reg.SN_CLAMP.MIN_MS : Fld := ⟨0x580000, 0, 32, 1000⟩
/-- `NC_STATUS.EVT_CNT`, R431, RO. -/
def Reg.NC_STATUS.EVT_CNT : Fld := ⟨0x580008, 56, 8, 0⟩
/-- `NC_STATUS.LOCKSTEP_EVT`, R431, W1C. -/
def Reg.NC_STATUS.LOCKSTEP_EVT : Fld := ⟨0x580008, 32, 1, 0⟩
/-- `NC_STATUS.STANDBY_OK`, R431, RO. -/
def Reg.NC_STATUS.STANDBY_OK : Fld := ⟨0x580008, 2, 1, 1⟩
/-- `NC_STATUS.ACTIVE`, R431, RO. -/
def Reg.NC_STATUS.ACTIVE : Fld := ⟨0x580008, 0, 2, 0⟩
/-- `SN_CORE_RET.MASK`, R431, RO. -/
def Reg.SN_CORE_RET.MASK (i : Nat) : Fld := ⟨0x580010 + i * 0x8, 0, 64, 0⟩
/-- `SN_DOUBLE.DOUBLING`, R431, RO. -/
def Reg.SN_DOUBLE.DOUBLING (i : Nat) : Fld := ⟨0x580040 + i * 0x8, 16, 16, 0⟩
/-- `SN_DOUBLE.FAILED`, R431, RO. -/
def Reg.SN_DOUBLE.FAILED (i : Nat) : Fld := ⟨0x580040 + i * 0x8, 0, 16, 0⟩
/-- `RCV_CMD.CMD`, R431, WO. -/
def Reg.RCV_CMD.CMD : Fld := ⟨0x590000, 0, 4, 0⟩
/-- `RCV_STATUS.CODE`, R431, RO. -/
def Reg.RCV_STATUS.CODE : Fld := ⟨0x590008, 8, 8, 0⟩
/-- `RCV_STATUS.STATE`, R431, RO. -/
def Reg.RCV_STATUS.STATE : Fld := ⟨0x590008, 0, 3, 0⟩
/-- `GL_PORT_CFG.ROLE`, R458, RW. -/
def Reg.GL_PORT_CFG.ROLE (p : Nat) : Fld := ⟨0xb00000 + p * 0x10000, 4, 2, 0⟩
/-- `GL_PORT_CFG.HALF_OK`, R458, RW. -/
def Reg.GL_PORT_CFG.HALF_OK (p : Nat) : Fld := ⟨0xb00000 + p * 0x10000, 3, 1, 1⟩
/-- `GL_PORT_CFG.ENC_REQ`, R458, RWL. -/
def Reg.GL_PORT_CFG.ENC_REQ (p : Nat) : Fld := ⟨0xb00000 + p * 0x10000, 2, 1, 0⟩
/-- `GL_PORT_CFG.ENC`, R458, RW. -/
def Reg.GL_PORT_CFG.ENC (p : Nat) : Fld := ⟨0xb00000 + p * 0x10000, 1, 1, 0⟩
/-- `GL_PORT_CFG.EN`, R458, RW. -/
def Reg.GL_PORT_CFG.EN (p : Nat) : Fld := ⟨0xb00000 + p * 0x10000, 0, 1, 0⟩
/-- `GL_PORT_STATUS.EVT_CNT`, R458, RO. -/
def Reg.GL_PORT_STATUS.EVT_CNT (p : Nat) : Fld := ⟨0xb00008 + p * 0x10000, 56, 8, 0⟩
/-- `GL_PORT_STATUS.SEC_EVT`, R458, W1C. -/
def Reg.GL_PORT_STATUS.SEC_EVT (p : Nat) : Fld := ⟨0xb00008 + p * 0x10000, 35, 1, 0⟩
/-- `GL_PORT_STATUS.HALF_EVT`, R458, W1C. -/
def Reg.GL_PORT_STATUS.HALF_EVT (p : Nat) : Fld := ⟨0xb00008 + p * 0x10000, 34, 1, 0⟩
/-- `GL_PORT_STATUS.DOWN_EVT`, R458, W1C. -/
def Reg.GL_PORT_STATUS.DOWN_EVT (p : Nat) : Fld := ⟨0xb00008 + p * 0x10000, 33, 1, 0⟩
/-- `GL_PORT_STATUS.UP_EVT`, R458, W1C. -/
def Reg.GL_PORT_STATUS.UP_EVT (p : Nat) : Fld := ⟨0xb00008 + p * 0x10000, 32, 1, 0⟩
/-- `GL_PORT_STATUS.PEER`, R458, RO. -/
def Reg.GL_PORT_STATUS.PEER (p : Nat) : Fld := ⟨0xb00008 + p * 0x10000, 16, 16, 0⟩
/-- `GL_PORT_STATUS.STATE`, R458, RO. -/
def Reg.GL_PORT_STATUS.STATE (p : Nat) : Fld := ⟨0xb00008 + p * 0x10000, 0, 3, 0⟩
/-- `GL_VL_CRED.VL7`, R458, RW. -/
def Reg.GL_VL_CRED.VL7 (p : Nat) : Fld := ⟨0xb00010 + p * 0x10000, 56, 8, 32⟩
/-- `GL_VL_CRED.VL6`, R458, RW. -/
def Reg.GL_VL_CRED.VL6 (p : Nat) : Fld := ⟨0xb00010 + p * 0x10000, 48, 8, 0⟩
/-- `GL_VL_CRED.VL5`, R458, RW. -/
def Reg.GL_VL_CRED.VL5 (p : Nat) : Fld := ⟨0xb00010 + p * 0x10000, 40, 8, 32⟩
/-- `GL_VL_CRED.VL4`, R458, RW. -/
def Reg.GL_VL_CRED.VL4 (p : Nat) : Fld := ⟨0xb00010 + p * 0x10000, 32, 8, 32⟩
/-- `GL_VL_CRED.VL3`, R458, RW. -/
def Reg.GL_VL_CRED.VL3 (p : Nat) : Fld := ⟨0xb00010 + p * 0x10000, 24, 8, 32⟩
/-- `GL_VL_CRED.VL2`, R458, RW. -/
def Reg.GL_VL_CRED.VL2 (p : Nat) : Fld := ⟨0xb00010 + p * 0x10000, 16, 8, 32⟩
/-- `GL_VL_CRED.VL1`, R458, RW. -/
def Reg.GL_VL_CRED.VL1 (p : Nat) : Fld := ⟨0xb00010 + p * 0x10000, 8, 8, 32⟩
/-- `GL_VL_CRED.VL0`, R458, RW. -/
def Reg.GL_VL_CRED.VL0 (p : Nat) : Fld := ⟨0xb00010 + p * 0x10000, 0, 8, 32⟩
/-- `GL_ENC_CTR.FLITS`, R458, RO. -/
def Reg.GL_ENC_CTR.FLITS (p : Nat) : Fld := ⟨0xb00018 + p * 0x10000, 0, 64, 0⟩
/-- `GL_TX_FLITS.N`, R459, RO. -/
def Reg.GL_TX_FLITS.N (p : Nat) : Fld := ⟨0xb00100 + p * 0x10000, 0, 64, 0⟩
/-- `GL_RX_FLITS.N`, R459, RO. -/
def Reg.GL_RX_FLITS.N (p : Nat) : Fld := ⟨0xb00108 + p * 0x10000, 0, 64, 0⟩
/-- `GL_CRC_ERR.N`, R459, RO. -/
def Reg.GL_CRC_ERR.N (p : Nat) : Fld := ⟨0xb00110 + p * 0x10000, 0, 64, 0⟩
/-- `GL_REPLAYS.N`, R459, RO. -/
def Reg.GL_REPLAYS.N (p : Nat) : Fld := ⟨0xb00118 + p * 0x10000, 0, 64, 0⟩
/-- `GL_FEC_CORR.N`, R459, RO. -/
def Reg.GL_FEC_CORR.N (p : Nat) : Fld := ⟨0xb00120 + p * 0x10000, 0, 64, 0⟩
/-- `GL_CRED_STALL.N`, R459, RO. -/
def Reg.GL_CRED_STALL.N (p : Nat) : Fld := ⟨0xb00128 + p * 0x10000, 0, 64, 0⟩
/-- `GL_RX_DISCARD.N`, R459, RO. -/
def Reg.GL_RX_DISCARD.N (p : Nat) : Fld := ⟨0xb00130 + p * 0x10000, 0, 64, 0⟩
/-- `GL_SH.N`, R459, RO. -/
def Reg.GL_SH.N (p i : Nat) : Fld := ⟨0xb00140 + p * 0x10000 + i * 0x8, 0, 64, 0⟩
/-- `GL_DEV_ID.ID`, R460, RW. -/
def Reg.GL_DEV_ID.ID : Fld := ⟨0xb08000, 0, 16, 0⟩
/-- `GL_TOPO.MODE`, R460, RW. -/
def Reg.GL_TOPO.MODE : Fld := ⟨0xb08008, 16, 1, 0⟩
/-- `GL_TOPO.X3`, R460, RW. -/
def Reg.GL_TOPO.X3 : Fld := ⟨0xb08008, 12, 4, 0⟩
/-- `GL_TOPO.X2`, R460, RW. -/
def Reg.GL_TOPO.X2 : Fld := ⟨0xb08008, 8, 4, 0⟩
/-- `GL_TOPO.X1`, R460, RW. -/
def Reg.GL_TOPO.X1 : Fld := ⟨0xb08008, 4, 4, 0⟩
/-- `GL_TOPO.X0`, R460, RW. -/
def Reg.GL_TOPO.X0 : Fld := ⟨0xb08008, 0, 4, 0⟩
/-- `GL_MASTER.SYS`, R460, RW. -/
def Reg.GL_MASTER.SYS : Fld := ⟨0xb08010, 48, 16, 0⟩
/-- `GL_MASTER.DEPUTY`, R460, RW. -/
def Reg.GL_MASTER.DEPUTY : Fld := ⟨0xb08010, 32, 16, 65535⟩
/-- `GL_HB_STATUS.EVT_CNT`, R460, RO. -/
def Reg.GL_HB_STATUS.EVT_CNT : Fld := ⟨0xb08018, 56, 8, 0⟩
/-- `GL_HB_STATUS.MASTER_LOST_EVT`, R460, W1C. -/
def Reg.GL_HB_STATUS.MASTER_LOST_EVT : Fld := ⟨0xb08018, 33, 1, 0⟩
/-- `GL_HB_STATUS.TAKEOVER_EVT`, R460, W1C. -/
def Reg.GL_HB_STATUS.TAKEOVER_EVT : Fld := ⟨0xb08018, 32, 1, 0⟩
/-- `GL_ROUTE_BASE.ADDR`, R460, RW. -/
def Reg.GL_ROUTE_BASE.ADDR : Fld := ⟨0xb08020, 17, 26, 0⟩
/-- `GL_OUT.COUNT`, R460, RO. -/
def Reg.GL_OUT.COUNT : Fld := ⟨0xb08028, 0, 32, 0⟩
/-- `GL_ROUTE_OVR.V`, R460, RW. -/
def Reg.GL_ROUTE_OVR.V (i : Nat) : Fld := ⟨0xb08100 + i * 0x8, 31, 1, 0⟩
/-- `GL_ROUTE_OVR.PORT`, R460, RW. -/
def Reg.GL_ROUTE_OVR.PORT (i : Nat) : Fld := ⟨0xb08100 + i * 0x8, 16, 4, 0⟩
/-- `GL_ROUTE_OVR.DST`, R460, RW. -/
def Reg.GL_ROUTE_OVR.DST (i : Nat) : Fld := ⟨0xb08100 + i * 0x8, 0, 16, 0⟩
/-- `GRP_CFG.V`, R460, RW. -/
def Reg.GRP_CFG.V (i : Nat) : Fld := ⟨0xb08200 + i * 0x20, 63, 1, 0⟩
/-- `GRP_CFG.SIZE`, R460, RW. -/
def Reg.GRP_CFG.SIZE (i : Nat) : Fld := ⟨0xb08200 + i * 0x20, 32, 17, 0⟩
/-- `GRP_CFG.RANK`, R460, RW. -/
def Reg.GRP_CFG.RANK (i : Nat) : Fld := ⟨0xb08200 + i * 0x20, 0, 16, 0⟩
/-- `GRP_ROLES.MASTER`, R460, RW. -/
def Reg.GRP_ROLES.MASTER (i : Nat) : Fld := ⟨0xb08208 + i * 0x20, 16, 16, 0⟩
/-- `GRP_ROLES.DEPUTY`, R460, RW. -/
def Reg.GRP_ROLES.DEPUTY (i : Nat) : Fld := ⟨0xb08208 + i * 0x20, 0, 16, 0xFFFF⟩
/-- `GRP_LIST.ADDR`, R460, RW. -/
def Reg.GRP_LIST.ADDR (i : Nat) : Fld := ⟨0xb08210 + i * 0x20, 1, 42, 0⟩
/-- `GL_COLL_BASE.ADDR`, R460, RW. -/
def Reg.GL_COLL_BASE.ADDR (i : Nat) : Fld := ⟨0xb08400 + i * 0x8, 12, 31, 0⟩
/-- `DEV_STATUS.EVT_CNT`, R466, RO. -/
def Reg.DEV_STATUS.EVT_CNT : Fld := ⟨0x18, 56, 8, 0⟩
/-- `DEV_STATUS.READY_EVT`, R466, W1C. -/
def Reg.DEV_STATUS.READY_EVT : Fld := ⟨0x18, 32, 1, 0⟩
/-- `DEV_STATUS.BOOT_STEP`, R466, RO. -/
def Reg.DEV_STATUS.BOOT_STEP : Fld := ⟨0x18, 8, 8, 0⟩
/-- `DEV_STATUS.FAILED`, R466, RO. -/
def Reg.DEV_STATUS.FAILED : Fld := ⟨0x18, 1, 1, 0⟩
/-- `DEV_STATUS.READY`, R466, RO. -/
def Reg.DEV_STATUS.READY : Fld := ⟨0x18, 0, 1, 0⟩
/-- `MSIX_TABLE.W`, R479, RW. -/
def Reg.MSIX_TABLE.W (i i2 : Nat) : Fld := ⟨0x80000 + i * 0x10 + i2 * 0x8, 0, 64, if i2 = 1 then 0x100000000 else 0⟩
/-- `MSIX_PBA.PENDING`, R479, RO. -/
def Reg.MSIX_PBA.PENDING : Fld := ⟨0x80800, 0, 64, 0⟩
/-- `RING_BASE.ADDR`, R480, RW. -/
def Reg.RING_BASE.ADDR (i : Nat) : Fld := ⟨0x100000 + i * 0x100, 6, 58, 0⟩
/-- `RING_CFG.SIZE_LOG2`, R480, RW. -/
def Reg.RING_CFG.SIZE_LOG2 (i : Nat) : Fld := ⟨0x100008 + i * 0x100, 16, 4, 4⟩
/-- `RING_CFG.EN`, R480, RW. -/
def Reg.RING_CFG.EN (i : Nat) : Fld := ⟨0x100008 + i * 0x100, 0, 1, 0⟩
/-- `CPL_BASE.ADDR`, R480, RW. -/
def Reg.CPL_BASE.ADDR (i : Nat) : Fld := ⟨0x100010 + i * 0x100, 4, 60, 0⟩
/-- `RING_STATUS.EVT_CNT`, R480, RO. -/
def Reg.RING_STATUS.EVT_CNT (i : Nat) : Fld := ⟨0x100018 + i * 0x100, 56, 8, 0⟩
/-- `RING_STATUS.STOPPED`, R480, RO. -/
def Reg.RING_STATUS.STOPPED (i : Nat) : Fld := ⟨0x100018 + i * 0x100, 48, 1, 0⟩
/-- `RING_STATUS.CODE`, R480, RO. -/
def Reg.RING_STATUS.CODE (i : Nat) : Fld := ⟨0x100018 + i * 0x100, 40, 8, 0⟩
/-- `RING_STATUS.TAIL`, R480, RO. -/
def Reg.RING_STATUS.TAIL (i : Nat) : Fld := ⟨0x100018 + i * 0x100, 16, 16, 0⟩
/-- `RING_STATUS.HEAD`, R480, RO. -/
def Reg.RING_STATUS.HEAD (i : Nat) : Fld := ⟨0x100018 + i * 0x100, 0, 16, 0⟩
/-- `CPL_HEAD.IDX`, R480, RO. -/
def Reg.CPL_HEAD.IDX (i : Nat) : Fld := ⟨0x100020 + i * 0x100, 0, 16, 0⟩
/-- `FR_BASE.ADDR`, R481, RW. -/
def Reg.FR_BASE.ADDR (i : Nat) : Fld := ⟨0x101000 + i * 0x40, 5, 59, 0⟩
/-- `FR_CFG.SIZE_LOG2`, R481, RW. -/
def Reg.FR_CFG.SIZE_LOG2 (i : Nat) : Fld := ⟨0x101008 + i * 0x40, 16, 4, 4⟩
/-- `FR_CFG.EN`, R481, RW. -/
def Reg.FR_CFG.EN (i : Nat) : Fld := ⟨0x101008 + i * 0x40, 0, 1, 0⟩
/-- `FR_PTR.HEAD`, R481, RO. -/
def Reg.FR_PTR.HEAD (i : Nat) : Fld := ⟨0x101010 + i * 0x40, 32, 32, 0⟩
/-- `FR_PTR.TAIL`, R481, RO. -/
def Reg.FR_PTR.TAIL (i : Nat) : Fld := ⟨0x101010 + i * 0x40, 0, 32, 0⟩
/-- `FR_DROPS.COUNT`, R481, RC. -/
def Reg.FR_DROPS.COUNT (i : Nat) : Fld := ⟨0x101018 + i * 0x40, 0, 32, 0⟩
/-- `HIF_WIN.BASE`, R482, RW. -/
def Reg.HIF_WIN.BASE : Fld := ⟨0x102000, 34, 18, 0⟩
/-- `HIF_WIN.JOB`, R482, RW. -/
def Reg.HIF_WIN.JOB : Fld := ⟨0x102000, 4, 3, 0⟩
/-- `HIF_WIN.MODE`, R482, RW. -/
def Reg.HIF_WIN.MODE : Fld := ⟨0x102000, 0, 1, 0⟩
/-- `HIF_CFG.RO_EN`, R482, RW. -/
def Reg.HIF_CFG.RO_EN : Fld := ⟨0x102008, 0, 1, 0⟩
/-- `PWR_LIMIT.MAX_W`, R500, RWL. -/
def Reg.PWR_LIMIT.MAX_W : Fld := ⟨0x800000, 32, 16, 1800⟩
/-- `PWR_LIMIT.HBM_TLIMIT`, R500, RWL. -/
def Reg.PWR_LIMIT.HBM_TLIMIT : Fld := ⟨0x800000, 16, 8, 95⟩
/-- `PWR_LIMIT.TJ_THROT`, R500, RWL. -/
def Reg.PWR_LIMIT.TJ_THROT : Fld := ⟨0x800000, 0, 8, 100⟩
/-- `PWR_CAP.BOARD_W`, R501, RW. -/
def Reg.PWR_CAP.BOARD_W : Fld := ⟨0x800008, 32, 16, 600⟩
/-- `PWR_CAP.THROT_IN_LEVEL`, R501, RW. -/
def Reg.PWR_CAP.THROT_IN_LEVEL : Fld := ⟨0x800008, 16, 6, 32⟩
/-- `PWR_CAP.CAP_W`, R501, RW. -/
def Reg.PWR_CAP.CAP_W : Fld := ⟨0x800008, 0, 16, 1800⟩
/-- `PWR_SHARE.W3`, R501, RW. -/
def Reg.PWR_SHARE.W3 : Fld := ⟨0x800010, 24, 8, 0x40⟩
/-- `PWR_SHARE.W2`, R501, RW. -/
def Reg.PWR_SHARE.W2 : Fld := ⟨0x800010, 16, 8, 0x40⟩
/-- `PWR_SHARE.W1`, R501, RW. -/
def Reg.PWR_SHARE.W1 : Fld := ⟨0x800010, 8, 8, 0x40⟩
/-- `PWR_SHARE.W0`, R501, RW. -/
def Reg.PWR_SHARE.W0 : Fld := ⟨0x800010, 0, 8, 0x40⟩
/-- `PWR_STATUS.EVT_CNT`, R502, RO. -/
def Reg.PWR_STATUS.EVT_CNT : Fld := ⟨0x800018, 56, 8, 0⟩
/-- `PWR_STATUS.AVS_EVT`, R502, W1C. -/
def Reg.PWR_STATUS.AVS_EVT : Fld := ⟨0x800018, 36, 1, 0⟩
/-- `PWR_STATUS.REF_EVT`, R502, W1C. -/
def Reg.PWR_STATUS.REF_EVT : Fld := ⟨0x800018, 35, 1, 0⟩
/-- `PWR_STATUS.HBM_HOT_EVT`, R502, W1C. -/
def Reg.PWR_STATUS.HBM_HOT_EVT : Fld := ⟨0x800018, 34, 1, 0⟩
/-- `PWR_STATUS.HOT_EVT`, R502, W1C. -/
def Reg.PWR_STATUS.HOT_EVT : Fld := ⟨0x800018, 33, 1, 0⟩
/-- `PWR_STATUS.THROT_IN_EVT`, R502, W1C. -/
def Reg.PWR_STATUS.THROT_IN_EVT : Fld := ⟨0x800018, 32, 1, 0⟩
/-- `PWR_STATUS.THROT_IN`, R502, RO. -/
def Reg.PWR_STATUS.THROT_IN : Fld := ⟨0x800018, 16, 1, 0⟩
/-- `PWR_STATUS.PKG_W`, R502, RO. -/
def Reg.PWR_STATUS.PKG_W : Fld := ⟨0x800018, 0, 16, 0⟩
/-- `RING_PWR.MV`, R503, RO. -/
def Reg.RING_PWR.MV (i : Nat) : Fld := ⟨0x800020 + i * 0x8, 32, 16, 0⟩
/-- `RING_PWR.RING_W`, R503, RO. -/
def Reg.RING_PWR.RING_W (i : Nat) : Fld := ⟨0x800020 + i * 0x8, 16, 16, 0⟩
/-- `RING_PWR.VF`, R503, RO. -/
def Reg.RING_PWR.VF (i : Nat) : Fld := ⟨0x800020 + i * 0x8, 8, 2, 0⟩
/-- `RING_PWR.LEVEL`, R503, RO. -/
def Reg.RING_PWR.LEVEL (i : Nat) : Fld := ⟨0x800020 + i * 0x8, 0, 6, 0⟩
/-- `CLK_STATUS.BAD_GL`, R504, RO. -/
def Reg.CLK_STATUS.BAD_GL : Fld := ⟨0x800040, 6, 1, 0⟩
/-- `CLK_STATUS.BAD_BREF`, R504, RO. -/
def Reg.CLK_STATUS.BAD_BREF : Fld := ⟨0x800040, 5, 1, 0⟩
/-- `CLK_STATUS.BAD_PCIE`, R504, RO. -/
def Reg.CLK_STATUS.BAD_PCIE : Fld := ⟨0x800040, 4, 1, 0⟩
/-- `CLK_STATUS.SRC`, R504, RO. -/
def Reg.CLK_STATUS.SRC : Fld := ⟨0x800040, 0, 1, 0⟩
/-- `CLK_CFG.PRIMARY`, R504, RWL. -/
def Reg.CLK_CFG.PRIMARY : Fld := ⟨0x800048, 0, 1, 0⟩
/-- `TS_TEMP.PEAK`, R505, RC. -/
def Reg.TS_TEMP.PEAK (i : Nat) : Fld := ⟨0x800100 + i * 0x8, 16, 16, 0⟩
/-- `TS_TEMP.TEMP`, R505, RO. -/
def Reg.TS_TEMP.TEMP (i : Nat) : Fld := ⟨0x800100 + i * 0x8, 0, 16, 0⟩
/-- `HBM_TEMP.T`, R505, RO. -/
def Reg.HBM_TEMP.T (i : Nat) : Fld := ⟨0x800300 + i * 0x8, 0, 8, 0⟩
/-- `PWR_ENERGY.N`, R506, RO. -/
def Reg.PWR_ENERGY.N : Fld := ⟨0x800400, 0, 64, 0⟩
/-- `RING_ENERGY.N`, R506, RO. -/
def Reg.RING_ENERGY.N (i : Nat) : Fld := ⟨0x800408 + i * 0x8, 0, 64, 0⟩
/-- `THROT_PERIODS.N`, R506, RO. -/
def Reg.THROT_PERIODS.N : Fld := ⟨0x800428, 0, 64, 0⟩
/-- `PWR_SH.N`, R506, RO. -/
def Reg.PWR_SH.N (i : Nat) : Fld := ⟨0x800440 + i * 0x8, 0, 64, 0⟩
/-- `DEV_RESET.CONFIRM`, R522, WO. -/
def Reg.DEV_RESET.CONFIRM : Fld := ⟨0x20, 0, 8, 0⟩
/-- `DEV_BOOT.LOG_CNT`, R523, RO. -/
def Reg.DEV_BOOT.LOG_CNT : Fld := ⟨0x28, 40, 8, 0⟩
/-- `DEV_BOOT.DROPPED`, R523, RO. -/
def Reg.DEV_BOOT.DROPPED : Fld := ⟨0x28, 32, 8, 0⟩
/-- `DEV_BOOT.FAIL_CAUSE`, R523, RO. -/
def Reg.DEV_BOOT.FAIL_CAUSE : Fld := ⟨0x28, 16, 8, 0⟩
/-- `DEV_BOOT.FAIL_STEP`, R523, RO. -/
def Reg.DEV_BOOT.FAIL_STEP : Fld := ⟨0x28, 12, 4, 0⟩
/-- `DEV_BOOT.ST_DEPTH`, R523, RO. -/
def Reg.DEV_BOOT.ST_DEPTH : Fld := ⟨0x28, 10, 2, 0⟩
/-- `DEV_BOOT.IMAGE`, R523, RO. -/
def Reg.DEV_BOOT.IMAGE : Fld := ⟨0x28, 9, 1, 0⟩
/-- `DEV_BOOT.FALLBACK`, R523, RO. -/
def Reg.DEV_BOOT.FALLBACK : Fld := ⟨0x28, 8, 1, 0⟩
/-- `DEV_BOOT.RESET_KIND`, R523, RO. -/
def Reg.DEV_BOOT.RESET_KIND : Fld := ⟨0x28, 4, 2, 0⟩
/-- `DEV_BOOT.BOOT_MODE`, R523, RO. -/
def Reg.DEV_BOOT.BOOT_MODE : Fld := ⟨0x28, 0, 3, 0⟩
/-- `BOOT_LOG.W`, R524, RO. -/
def Reg.BOOT_LOG.W (i i2 : Nat) : Fld := ⟨0x1000 + i * 0x20 + i2 * 0x8, 0, 64, 0⟩
/-- `HS_CMD.DEPTH`, R536, WO. -/
def Reg.HS_CMD.DEPTH : Fld := ⟨0xd00000, 16, 2, 0⟩
/-- `HS_CMD.CLASS`, R536, WO. -/
def Reg.HS_CMD.CLASS : Fld := ⟨0xd00000, 12, 4, 0⟩
/-- `HS_CMD.INDEX`, R536, WO. -/
def Reg.HS_CMD.INDEX : Fld := ⟨0xd00000, 0, 12, 0⟩
/-- `HS_STATUS.EVT_CNT`, R537, RO. -/
def Reg.HS_STATUS.EVT_CNT : Fld := ⟨0xd00008, 56, 8, 0⟩
/-- `HS_STATUS.FAIL_EVT`, R537, W1C. -/
def Reg.HS_STATUS.FAIL_EVT : Fld := ⟨0xd00008, 33, 1, 0⟩
/-- `HS_STATUS.DONE_EVT`, R537, W1C. -/
def Reg.HS_STATUS.DONE_EVT : Fld := ⟨0xd00008, 32, 1, 0⟩
/-- `HS_STATUS.TARGET`, R537, RO. -/
def Reg.HS_STATUS.TARGET : Fld := ⟨0xd00008, 16, 16, 0⟩
/-- `HS_STATUS.DEPTH`, R537, RO. -/
def Reg.HS_STATUS.DEPTH : Fld := ⟨0xd00008, 14, 2, 0⟩
/-- `HS_STATUS.PHASE`, R537, RO. -/
def Reg.HS_STATUS.PHASE : Fld := ⟨0xd00008, 9, 3, 0⟩
/-- `HS_STATUS.BUSY`, R537, RO. -/
def Reg.HS_STATUS.BUSY : Fld := ⟨0xd00008, 8, 1, 0⟩
/-- `HS_STATUS.RESULT`, R537, RO. -/
def Reg.HS_STATUS.RESULT : Fld := ⟨0xd00008, 0, 3, 0⟩
/-- `HS_SIG.V`, R538, RO. -/
def Reg.HS_SIG.V : Fld := ⟨0xd00010, 0, 64, 0⟩
/-- `HS_REF.V`, R538, RO. -/
def Reg.HS_REF.V : Fld := ⟨0xd00018, 0, 64, 0⟩
/-- `HS_BOOT.CORES`, R538, RO. -/
def Reg.HS_BOOT.CORES : Fld := ⟨0xd00020, 32, 9, 0⟩
/-- `HS_BOOT.ANALOGUE`, R538, RO. -/
def Reg.HS_BOOT.ANALOGUE : Fld := ⟨0xd00020, 16, 8, 0⟩
/-- `HS_BOOT.DEPTH`, R538, RO. -/
def Reg.HS_BOOT.DEPTH : Fld := ⟨0xd00020, 0, 2, 0⟩
/-- `HS_RUNS.N`, R539, RO. -/
def Reg.HS_RUNS.N : Fld := ⟨0xd00100, 0, 64, 0⟩
/-- `HS_FAILS.N`, R539, RO. -/
def Reg.HS_FAILS.N : Fld := ⟨0xd00108, 0, 64, 0⟩
/-- `HS_ABANDONS.N`, R539, RO. -/
def Reg.HS_ABANDONS.N : Fld := ⟨0xd00110, 0, 64, 0⟩
/-- `HS_REFUSED.N`, R539, RO. -/
def Reg.HS_REFUSED.N : Fld := ⟨0xd00118, 0, 64, 0⟩
/-- `HS_SH.N`, R539, RO. -/
def Reg.HS_SH.N (i : Nat) : Fld := ⟨0xd00140 + i * 0x8, 0, 64, 0⟩
/-- `SEC_CMD.ARG`, R558, WO. -/
def Reg.SEC_CMD.ARG : Fld := ⟨0x900000, 8, 8, 0⟩
/-- `SEC_CMD.OP`, R558, WO. -/
def Reg.SEC_CMD.OP : Fld := ⟨0x900000, 0, 8, 0⟩
/-- `SEC_STATUS.EVT_CNT`, R559, RO. -/
def Reg.SEC_STATUS.EVT_CNT : Fld := ⟨0x900008, 56, 8, 0⟩
/-- `SEC_STATUS.DONE_EVT`, R559, W1C. -/
def Reg.SEC_STATUS.DONE_EVT : Fld := ⟨0x900008, 32, 1, 0⟩
/-- `SEC_STATUS.CODE`, R559, RO. -/
def Reg.SEC_STATUS.CODE : Fld := ⟨0x900008, 8, 8, 0⟩
/-- `SEC_STATUS.DEBUG`, R559, RO. -/
def Reg.SEC_STATUS.DEBUG : Fld := ⟨0x900008, 2, 1, 0⟩
/-- `SEC_STATUS.CERT_OK`, R559, RO. -/
def Reg.SEC_STATUS.CERT_OK : Fld := ⟨0x900008, 1, 1, 0⟩
/-- `SEC_STATUS.BUSY`, R559, RO. -/
def Reg.SEC_STATUS.BUSY : Fld := ⟨0x900008, 0, 1, 0⟩
/-- `SEC_ADDR.ADDR`, R558, RW. -/
def Reg.SEC_ADDR.ADDR : Fld := ⟨0x900010, 3, 40, 0⟩
/-- `SEC_FUSE.REVOKED`, R560, RO. -/
def Reg.SEC_FUSE.REVOKED : Fld := ⟨0x900018, 4, 4, Config.rootRevoked.toNat⟩
/-- `SEC_FUSE.PRESENT`, R560, RO. -/
def Reg.SEC_FUSE.PRESENT : Fld := ⟨0x900018, 0, 4, Config.rootPresent.toNat⟩
/-- `SEC_SVN.POLICY`, R560, RO. -/
def Reg.SEC_SVN.POLICY : Fld := ⟨0x900020, 24, 8, (Config.svnFuse 3).val⟩
/-- `SEC_SVN.STB`, R560, RO. -/
def Reg.SEC_SVN.STB : Fld := ⟨0x900020, 16, 8, (Config.svnFuse 2).val⟩
/-- `SEC_SVN.PLAYBILL`, R560, RO. -/
def Reg.SEC_SVN.PLAYBILL : Fld := ⟨0x900020, 8, 8, (Config.svnFuse 1).val⟩
/-- `SEC_SVN.FW`, R560, RO. -/
def Reg.SEC_SVN.FW : Fld := ⟨0x900020, 0, 8, (Config.svnFuse 0).val⟩
/-- `SEC_ROMVER.V`, R560, RO. -/
def Reg.SEC_ROMVER.V : Fld := ⟨0x900028, 0, 64, Config.romVersion.toNat⟩
/-- `SEC_DATA.W`, R560, RO. -/
def Reg.SEC_DATA.W (i : Nat) : Fld := ⟨0x900100 + i * 0x8, 0, 64, 0⟩
/-- `SEC_MEAS.W`, R560, RO. -/
def Reg.SEC_MEAS.W (i i2 : Nat) : Fld := ⟨0x900400 + i * 0x40 + i2 * 0x8, 0, 64, 0⟩
/-- `MGMT_STATUS.EVT_CNT`, R576, RO. -/
def Reg.MGMT_STATUS.EVT_CNT : Fld := ⟨0xa00000, 56, 8, 0⟩
/-- `MGMT_STATUS.ACT_EVT`, R576, W1C. -/
def Reg.MGMT_STATUS.ACT_EVT : Fld := ⟨0xa00000, 33, 1, 0⟩
/-- `MGMT_STATUS.VFY_EVT`, R576, W1C. -/
def Reg.MGMT_STATUS.VFY_EVT : Fld := ⟨0xa00000, 32, 1, 0⟩
/-- `MGMT_STATUS.EID`, R576, RO. -/
def Reg.MGMT_STATUS.EID : Fld := ⟨0xa00000, 24, 8, 0⟩
/-- `MGMT_STATUS.SMB_ADDR`, R576, RO. -/
def Reg.MGMT_STATUS.SMB_ADDR : Fld := ⟨0xa00000, 16, 7, 0x52⟩
/-- `MGMT_STATUS.I3C`, R576, RO. -/
def Reg.MGMT_STATUS.I3C : Fld := ⟨0xa00000, 8, 1, 0⟩
/-- `MGMT_STATUS.UPD_STATE`, R576, RO. -/
def Reg.MGMT_STATUS.UPD_STATE : Fld := ⟨0xa00000, 0, 3, 0⟩
/-- `PB_INFO.SVN`, R577, RO. -/
def Reg.PB_INFO.SVN : Fld := ⟨0xa00008, 32, 32, 0⟩
/-- `PB_INFO.SIGNER`, R577, RO. -/
def Reg.PB_INFO.SIGNER : Fld := ⟨0xa00008, 24, 8, 0⟩
/-- `PB_INFO.ENROLLED`, R577, RO. -/
def Reg.PB_INFO.ENROLLED : Fld := ⟨0xa00008, 20, 4, 0⟩
/-- `PB_INFO.SOURCE`, R577, RO. -/
def Reg.PB_INFO.SOURCE : Fld := ⟨0xa00008, 16, 2, 0⟩
/-- `PB_INFO.REPLACED`, R577, RO. -/
def Reg.PB_INFO.REPLACED : Fld := ⟨0xa00008, 0, 16, 0⟩
/-- `FLASH_DIR.SEQ`, R577, RO. -/
def Reg.FLASH_DIR.SEQ : Fld := ⟨0xa00010, 32, 32, 0⟩
/-- `FLASH_DIR.FW_READ`, R577, RO. -/
def Reg.FLASH_DIR.FW_READ : Fld := ⟨0xa00010, 10, 1, 0⟩
/-- `FLASH_DIR.ST_ACTIVE`, R577, RO. -/
def Reg.FLASH_DIR.ST_ACTIVE : Fld := ⟨0xa00010, 9, 1, 0⟩
/-- `FLASH_DIR.PB_ACTIVE`, R577, RO. -/
def Reg.FLASH_DIR.PB_ACTIVE : Fld := ⟨0xa00010, 8, 1, 0⟩
/-- `FLASH_DIR.FW_SWAP`, R577, RO. -/
def Reg.FLASH_DIR.FW_SWAP : Fld := ⟨0xa00010, 0, 1, 0⟩
/-- `PB_MIRROR.W`, R578, RO. -/
def Reg.PB_MIRROR.W (i : Nat) : Fld := ⟨0xa01000 + i * 0x8, 0, 64, 0⟩

/-- Rows of the register map, part 0. -/
def regMap0 : List RegRow := [
  ⟨.DEV_GRADE, 0x8, [], [⟨32, 16, .ro, 1800⟩, ⟨16, 16, .ro, 65535⟩, ⟨11, 5, .ro, 16⟩, ⟨0, 8, .ro, 65⟩]⟩,
  ⟨.DEV_TOPO, 0x10, [], [⟨48, 10, .ro, 0x21F⟩, ⟨40, 8, .ro, 0x18⟩, ⟨36, 4, .ro, 8⟩, ⟨24, 8, .ro, 0x10⟩, ⟨16, 8, .ro, 6⟩, ⟨8, 8, .ro, 4⟩, ⟨0, 8, .ro, 1⟩]⟩,
  ⟨.ST_NOW, 0x200000, [], [⟨0, 64, .ro, 0⟩]⟩,
  ⟨.ST_RATE, 0x200018, [], [⟨0, 48, .ro, 0xABCC77118⟩]⟩,
  ⟨.ST_SET_SEC, 0x200020, [], [⟨0, 34, .wo, 0⟩]⟩,
  ⟨.ST_SNAP_T, 0x200040, [], [⟨0, 64, .rw, 0⟩]⟩,
  ⟨.ST_CTRL, 0x200008, [], [⟨4, 1, .rw, 1⟩, ⟨3, 1, .rw, 0⟩, ⟨2, 1, .rw, 0⟩, ⟨0, 2, .ro, 0⟩]⟩,
  ⟨.ST_STATUS, 0x200010, [], [⟨24, 8, .ro, 0⟩, ⟨15, 1, .w1c, 0⟩, ⟨14, 1, .w1c, 0⟩, ⟨13, 1, .w1c, 0⟩, ⟨12, 1, .w1c, 0⟩, ⟨11, 1, .w1c, 0⟩, ⟨0, 3, .ro, 0⟩]⟩,
  ⟨.ST_OFS, 0x200028, [], [⟨32, 32, .ro, 0⟩, ⟨0, 32, .ro, 0⟩]⟩,
  ⟨.ST_SNAP_CTRL, 0x200048, [], [⟨32, 32, .ro, 0⟩, ⟨3, 1, .ro, 0⟩, ⟨2, 1, .ro, 0⟩, ⟨1, 1, .ro, 0⟩, ⟨0, 1, .wo, 0⟩]⟩,
  ⟨.CTX_CFG, 0x1000000, [(24, 0x200000), (2, 0x40000)], [⟨32, 16, .rw, 0xFFFF⟩, ⟨22, 6, .rw, 24⟩, ⟨21, 1, .rw, 0⟩, ⟨20, 1, .ro, 0⟩, ⟨11, 1, .ro, 0⟩, ⟨8, 3, .ro, 0⟩]⟩,
  ⟨.CTX_PC, 0x1000008, [(24, 0x200000), (2, 0x40000)], [⟨4, 48, .rw, 0⟩]⟩,
  ⟨.CTX_STATUS, 0x1000010, [(24, 0x200000), (2, 0x40000)], [⟨56, 8, .ro, 0⟩, ⟨48, 8, .ro, 0⟩, ⟨32, 1, .w1c, 0⟩, ⟨4, 4, .ro, 0⟩, ⟨0, 3, .ro, 0⟩]⟩,
  ⟨.QDEPTH, 0x1000018, [(24, 0x200000), (2, 0x40000)], [⟨15, 5, .ro, 0⟩, ⟨10, 5, .ro, 0⟩, ⟨5, 5, .ro, 0⟩, ⟨0, 5, .ro, 0⟩]⟩,
  ⟨.CTX_ACC_MASK, 0x1000020, [(24, 0x200000), (2, 0x40000)], [⟨0, 32, .rw, 0⟩]⟩,
  ⟨.CTX_WAIT, 0x1000028, [(24, 0x200000), (2, 0x40000)], [⟨48, 9, .ro, 0⟩, ⟨0, 48, .ro, 0⟩]⟩,
  ⟨.CTX_FLAG, 0x1000200, [(24, 0x200000), (2, 0x40000), (64, 0x8)], [⟨0, 16, .rw, 0⟩]⟩,
  ⟨.DESC, 0x1010000, [(24, 0x200000), (2, 0x40000), (256, 0x40), (8, 0x8)], [⟨0, 64, .rw, 0⟩]⟩,
  ⟨.NEST, 0x1014000, [(24, 0x200000), (2, 0x40000), (16, 0x100), (32, 0x8)], [⟨0, 64, .rw, 0⟩]⟩,
  ⟨.ENG_IDLE, 0x1100100, [(24, 0x200000), (16, 0x10000), (4, 0x8)], [⟨0, 64, .ro, 0⟩]⟩,
  ⟨.ENG_IDLE_SH, 0x1100120, [(24, 0x200000), (16, 0x10000), (4, 0x8)], [⟨0, 64, .ro, 0⟩]⟩,
  ⟨.ENG_QOCC, 0x1100140, [(24, 0x200000), (16, 0x10000)], [⟨0, 40, .ro, 0⟩]⟩,
  ⟨.JOB_CTRL, 0x300000, [(8, 0x10000)], [⟨0, 4, .wo, 0⟩]⟩,
  ⟨.JOB_STATUS, 0x300008, [(8, 0x10000)], [⟨56, 8, .ro, 0⟩, ⟨35, 1, .w1c, 0⟩, ⟨34, 1, .w1c, 0⟩, ⟨33, 1, .w1c, 0⟩, ⟨32, 1, .w1c, 0⟩, ⟨8, 8, .ro, 0⟩, ⟨0, 3, .ro, 0⟩]⟩,
  ⟨.JOB_CTX_MASK, 0x300010, [(8, 0x10000)], [⟨0, 48, .rw, 0⟩]⟩,
  ⟨.JOB_HALT_INFO, 0x300020, [(8, 0x10000)], [⟨48, 16, .ro, 0⟩, ⟨40, 8, .ro, 0⟩, ⟨32, 4, .ro, 0⟩, ⟨28, 4, .ro, 0⟩, ⟨24, 1, .ro, 0⟩, ⟨16, 8, .ro, 0⟩, ⟨0, 8, .ro, 0⟩]⟩,
  ⟨.JOB_HALT_PC, 0x300028, [(8, 0x10000)], [⟨0, 52, .ro, 0⟩]⟩,
  ⟨.JOB_HALT_STAMP, 0x300030, [(8, 0x10000)], [⟨0, 64, .ro, 0⟩]⟩,
  ⟨.JOB_ILLEGAL_CNT, 0x300038, [(8, 0x10000)], [⟨0, 32, .rc, 0⟩]⟩,
  ⟨.JOB_FLAG_ADD, 0x300040, [(8, 0x10000)], [⟨16, 8, .wo, 0⟩, ⟨0, 16, .wo, 0⟩]⟩]

/-- Rows of the register map, part 1. -/
def regMap1 : List RegRow := [
  ⟨.JOB_HOSTFLAGS, 0x300080, [(8, 0x10000), (4, 0x8)], [⟨0, 64, .rw, 0⟩]⟩,
  ⟨.JOB_FLAG, 0x301000, [(8, 0x10000), (256, 0x8)], [⟨0, 16, .rw, 0⟩]⟩,
  ⟨.ARR_CFG, 0x1100200, [(24, 0x200000), (16, 0x10000)], [⟨16, 1, .rw, 0⟩, ⟨0, 16, .rw, 0x100⟩]⟩,
  ⟨.ARR_STATUS, 0x1100208, [(24, 0x200000), (16, 0x10000)], [⟨56, 8, .ro, 0⟩, ⟨32, 1, .w1c, 0⟩, ⟨19, 1, .ro, 0⟩, ⟨18, 1, .ro, 0⟩, ⟨17, 1, .ro, 0⟩, ⟨16, 1, .ro, 0⟩, ⟨12, 4, .ro, 0⟩, ⟨8, 4, .ro, 0⟩, ⟨2, 2, .ro, 0⟩, ⟨0, 2, .ro, 0⟩]⟩,
  ⟨.ARR_ROWS, 0x1100210, [(24, 0x200000), (16, 0x10000)], [⟨0, 64, .ro, 0⟩]⟩,
  ⟨.ARR_FRZ_FEED, 0x1100218, [(24, 0x200000), (16, 0x10000)], [⟨0, 64, .ro, 0⟩]⟩,
  ⟨.ARR_FRZ_WGHT, 0x1100220, [(24, 0x200000), (16, 0x10000)], [⟨0, 64, .ro, 0⟩]⟩,
  ⟨.ARR_FRZ_DRAIN, 0x1100228, [(24, 0x200000), (16, 0x10000)], [⟨0, 64, .ro, 0⟩]⟩,
  ⟨.ARR_FRZ_THROT, 0x1100230, [(24, 0x200000), (16, 0x10000)], [⟨0, 64, .ro, 0⟩]⟩,
  ⟨.ARR_XREF, 0x1100238, [(24, 0x200000), (16, 0x10000)], [⟨0, 64, .ro, 0⟩]⟩,
  ⟨.ARR_RISES, 0x1100240, [(24, 0x200000), (16, 0x10000)], [⟨0, 64, .ro, 0⟩]⟩,
  ⟨.ARR_SH, 0x1100250, [(24, 0x200000), (16, 0x10000), (7, 0x8)], [⟨0, 64, .ro, 0⟩]⟩,
  ⟨.RM_ARR, 0x1080000, [(24, 0x200000)], [⟨32, 32, .rc, 0⟩, ⟨12, 3, .ro, 0⟩, ⟨8, 3, .ro, 0⟩, ⟨3, 1, .ro, 0⟩, ⟨2, 1, .ro, 0⟩, ⟨1, 1, .ro, 0⟩, ⟨0, 1, .ro, 0⟩]⟩,
  ⟨.ACC_TILE, 0x1100400, [(24, 0x200000), (16, 0x10000), (32, 0x8)], [⟨32, 32, .ro, 0⟩, ⟨24, 8, .ro, 0⟩, ⟨21, 3, .ro, 0⟩, ⟨20, 1, .ro, 0⟩, ⟨16, 4, .ro, 8⟩, ⟨0, 10, .ro, 0⟩]⟩,
  ⟨.ACC_REPLAYS, 0x1100300, [(24, 0x200000), (16, 0x10000)], [⟨0, 64, .ro, 0⟩]⟩,
  ⟨.ACC_REPLAY_CLK, 0x1100308, [(24, 0x200000), (16, 0x10000)], [⟨0, 64, .ro, 0⟩]⟩,
  ⟨.ACC_RELOADS, 0x1100310, [(24, 0x200000), (16, 0x10000)], [⟨0, 64, .ro, 0⟩]⟩,
  ⟨.ACC_VANISH, 0x1100318, [(24, 0x200000), (16, 0x10000)], [⟨0, 64, .ro, 0⟩]⟩,
  ⟨.ACC_SPECIAL, 0x1100320, [(24, 0x200000), (16, 0x10000)], [⟨0, 64, .ro, 0⟩]⟩,
  ⟨.ACC_HOLD_STALL, 0x1100328, [(24, 0x200000), (16, 0x10000)], [⟨0, 64, .ro, 0⟩]⟩,
  ⟨.ACC_SH, 0x1100340, [(24, 0x200000), (16, 0x10000), (6, 0x8)], [⟨0, 64, .ro, 0⟩]⟩,
  ⟨.SCALE, 0x600000, [(8, 0x20000), (256, 0x8)], [⟨32, 8, .rw, 0⟩, ⟨27, 1, .ro, 0⟩, ⟨25, 2, .rw, 0⟩, ⟨24, 1, .rw, 0⟩, ⟨23, 1, .rw, 0⟩, ⟨16, 6, .rw, 0⟩, ⟨0, 8, .rw, 0⟩]⟩,
  ⟨.TB_KEY, 0x600800, [(8, 0x20000), (2, 0x8)], [⟨0, 64, .rw, 0⟩]⟩,
  ⟨.TB_DRAWS, 0x600810, [(8, 0x20000)], [⟨0, 48, .ro, 0⟩]⟩,
  ⟨.SPOT_RDLOSS, 0x600818, [(8, 0x20000)], [⟨0, 48, .ro, 0⟩]⟩,
  ⟨.TB_DRAWS_SH, 0x600850, [(8, 0x20000)], [⟨0, 48, .ro, 0⟩]⟩,
  ⟨.SPOT_RDLOSS_SH, 0x600858, [(8, 0x20000)], [⟨0, 48, .ro, 0⟩]⟩,
  ⟨.SPOT_SH, 0x60c000, [(8, 0x20000), (640, 0x80), (11, 0x8)], [⟨0, 48, .ro, 0⟩]⟩,
  ⟨.LANE_STATUS, 0x1100600, [(24, 0x200000), (16, 0x10000)], [⟨56, 8, .ro, 0⟩, ⟨41, 1, .w1c, 0⟩, ⟨40, 1, .w1c, 0⟩, ⟨28, 2, .ro, 0⟩, ⟨27, 1, .ro, 0⟩, ⟨25, 2, .ro, 0⟩, ⟨24, 1, .ro, 0⟩, ⟨9, 9, .ro, 0x100⟩, ⟨0, 9, .ro, 0x100⟩]⟩,
  ⟨.LANE_CARRY, 0x1100608, [(24, 0x200000), (16, 0x10000), (2, 0x8)], [⟨0, 32, .ro, 0⟩]⟩]

/-- Rows of the register map, part 2. -/
def regMap2 : List RegRow := [
  ⟨.SX_CHUNKS, 0x1100620, [(24, 0x200000), (16, 0x10000)], [⟨0, 64, .ro, 0⟩]⟩,
  ⟨.SX_STALL, 0x1100628, [(24, 0x200000), (16, 0x10000)], [⟨0, 64, .ro, 0⟩]⟩,
  ⟨.SX_RAW, 0x1100630, [(24, 0x200000), (16, 0x10000)], [⟨0, 64, .ro, 0⟩]⟩,
  ⟨.LN_OPS, 0x1100638, [(24, 0x200000), (16, 0x10000)], [⟨0, 64, .ro, 0⟩]⟩,
  ⟨.LN_RAW, 0x1100640, [(24, 0x200000), (16, 0x10000)], [⟨0, 64, .ro, 0⟩]⟩,
  ⟨.SFU_CONTEND, 0x1100648, [(24, 0x200000), (16, 0x10000)], [⟨0, 64, .ro, 0⟩]⟩,
  ⟨.PARADE_WAIT, 0x1100650, [(24, 0x200000), (16, 0x10000)], [⟨0, 64, .ro, 0⟩]⟩,
  ⟨.PERM_LANES, 0x1100658, [(24, 0x200000), (16, 0x10000)], [⟨0, 64, .ro, 0⟩]⟩,
  ⟨.VEC_SH, 0x1100660, [(24, 0x200000), (16, 0x10000), (8, 0x8)], [⟨0, 64, .ro, 0⟩]⟩,
  ⟨.RM_PARADE, 0x1090000, [(24, 0x200000), (2, 0x8)], [⟨47, 1, .ro, 0⟩, ⟨46, 1, .ro, 0⟩, ⟨44, 2, .ro, 0⟩, ⟨40, 1, .rw, 0⟩, ⟨31, 9, .rw, 0⟩, ⟨24, 1, .rw, 0⟩, ⟨19, 5, .rw, 0⟩, ⟨18, 1, .rw, 0⟩, ⟨0, 3, .ro, 0⟩]⟩,
  ⟨.RM_SFN, 0x10a0000, [(24, 0x200000)], [⟨41, 1, .ro, 0⟩, ⟨40, 1, .ro, 0⟩, ⟨32, 1, .ro, 0⟩, ⟨16, 8, .ro, 0⟩, ⟨8, 8, .ro, 0⟩, ⟨0, 8, .ro, 0⟩]⟩,
  ⟨.SFM_ROWS, 0x1100700, [(24, 0x200000), (16, 0x10000)], [⟨0, 64, .ro, 0⟩]⟩,
  ⟨.SFM_EMPTY, 0x1100708, [(24, 0x200000), (16, 0x10000)], [⟨0, 64, .ro, 0⟩]⟩,
  ⟨.SFM_REPASS, 0x1100710, [(24, 0x200000), (16, 0x10000)], [⟨0, 64, .ro, 0⟩]⟩,
  ⟨.SFM_RANGE, 0x1100718, [(24, 0x200000), (16, 0x10000)], [⟨0, 64, .ro, 0⟩]⟩,
  ⟨.STAT_CLAMP, 0x1100720, [(24, 0x200000), (16, 0x10000)], [⟨0, 64, .ro, 0⟩]⟩,
  ⟨.STAT_MERGES, 0x1100728, [(24, 0x200000), (16, 0x10000)], [⟨0, 64, .ro, 0⟩]⟩,
  ⟨.SFM_SH, 0x1100740, [(24, 0x200000), (16, 0x10000), (6, 0x8)], [⟨0, 64, .ro, 0⟩]⟩,
  ⟨.SP_CFG, 0x1100800, [(24, 0x200000), (16, 0x10000)], [⟨16, 10, .rw, 0x312⟩, ⟨0, 1, .rw, 1⟩]⟩,
  ⟨.SP_STATUS, 0x1100808, [(24, 0x200000), (16, 0x10000)], [⟨56, 8, .ro, 0⟩, ⟨33, 1, .w1c, 0⟩, ⟨32, 1, .w1c, 0⟩, ⟨17, 1, .ro, 0⟩, ⟨16, 1, .ro, 0⟩, ⟨0, 10, .ro, 0⟩]⟩,
  ⟨.SP_BT_FAIL, 0x1100810, [(24, 0x200000), (16, 0x10000)], [⟨8, 14, .ro, 0⟩]⟩,
  ⟨.SP_ENG_LINES, 0x1100820, [(24, 0x200000), (16, 0x10000)], [⟨0, 64, .ro, 0⟩]⟩,
  ⟨.SP_DMA_LINES, 0x1100828, [(24, 0x200000), (16, 0x10000)], [⟨0, 64, .ro, 0⟩]⟩,
  ⟨.SP_DMA_STARVE, 0x1100830, [(24, 0x200000), (16, 0x10000)], [⟨0, 64, .ro, 0⟩]⟩,
  ⟨.SP_ENG_CONFLICT, 0x1100838, [(24, 0x200000), (16, 0x10000)], [⟨0, 64, .ro, 0⟩]⟩,
  ⟨.SP_ATOMICS, 0x1100840, [(24, 0x200000), (16, 0x10000)], [⟨0, 64, .ro, 0⟩]⟩,
  ⟨.SP_CORR, 0x1100848, [(24, 0x200000), (16, 0x10000)], [⟨0, 64, .ro, 0⟩]⟩,
  ⟨.SP_BT_REGIONS, 0x1100850, [(24, 0x200000), (16, 0x10000)], [⟨0, 64, .ro, 0⟩]⟩,
  ⟨.SP_SH, 0x1100860, [(24, 0x200000), (16, 0x10000), (7, 0x8)], [⟨0, 64, .ro, 0⟩]⟩,
  ⟨.DMA_OPS, 0x1100900, [(24, 0x200000), (16, 0x10000)], [⟨0, 64, .ro, 0⟩]⟩]

/-- Rows of the register map, part 3. -/
def regMap3 : List RegRow := [
  ⟨.DMA_RD_BYTES, 0x1100908, [(24, 0x200000), (16, 0x10000)], [⟨0, 64, .ro, 0⟩]⟩,
  ⟨.DMA_WR_BYTES, 0x1100910, [(24, 0x200000), (16, 0x10000)], [⟨0, 64, .ro, 0⟩]⟩,
  ⟨.DMA_IDX_SKIP, 0x1100918, [(24, 0x200000), (16, 0x10000)], [⟨0, 64, .ro, 0⟩]⟩,
  ⟨.DMA_PAD_ELEMS, 0x1100920, [(24, 0x200000), (16, 0x10000)], [⟨0, 64, .ro, 0⟩]⟩,
  ⟨.DMA_HOM_WAIT, 0x1100928, [(24, 0x200000), (16, 0x10000)], [⟨0, 64, .ro, 0⟩]⟩,
  ⟨.DMA_HAZ_WAIT, 0x1100930, [(24, 0x200000), (16, 0x10000)], [⟨0, 64, .ro, 0⟩]⟩,
  ⟨.DMA_ORDERED, 0x1100938, [(24, 0x200000), (16, 0x10000)], [⟨0, 64, .ro, 0⟩]⟩,
  ⟨.DMA_SH, 0x1100940, [(24, 0x200000), (16, 0x10000), (8, 0x8)], [⟨0, 64, .ro, 0⟩]⟩,
  ⟨.MEM_PT_ROOT, 0x300100, [(8, 0x10000)], [⟨18, 25, .rw, 0⟩]⟩,
  ⟨.MEM_PT_ROOT2, 0x300108, [(8, 0x10000)], [⟨18, 25, .rw, 0⟩]⟩,
  ⟨.MEM_JOB_PAGES, 0x300110, [(8, 0x10000)], [⟨32, 32, .ro, 0⟩, ⟨0, 32, .ro, 0⟩]⟩,
  ⟨.MEM_OP_ARG0, 0xc00000, [], [⟨32, 3, .rw, 0⟩, ⟨0, 31, .rw, 0⟩]⟩,
  ⟨.MEM_OP_ARG1, 0xc00008, [], [⟨0, 64, .rw, 0⟩]⟩,
  ⟨.MEM_OP_CMD, 0xc00010, [], [⟨0, 4, .wo, 0⟩]⟩,
  ⟨.MEM_OP_STATUS, 0xc00018, [], [⟨56, 8, .ro, 0⟩, ⟨32, 1, .w1c, 0⟩, ⟨8, 8, .ro, 0⟩, ⟨3, 1, .ro, 0⟩, ⟨0, 3, .ro, 0⟩]⟩,
  ⟨.MEM_SPARE, 0xc00020, [], [⟨44, 20, .rw, 0⟩, ⟨3, 40, .rw, 0⟩]⟩,
  ⟨.MEM_HBM_STATUS, 0xc00028, [], [⟨56, 8, .ro, 0⟩, ⟨32, 1, .w1c, 0⟩, ⟨0, 24, .ro, 0⟩]⟩,
  ⟨.MEM_DDR_STATUS, 0xc00030, [], [⟨56, 8, .ro, 0⟩, ⟨48, 1, .w1c, 0⟩, ⟨32, 16, .ro, 0⟩, ⟨24, 8, .ro, 0⟩, ⟨16, 8, .ro, 0⟩, ⟨8, 8, .ro, 0⟩, ⟨0, 8, .ro, 0⟩]⟩,
  ⟨.HBM_RD, 0xc01000, [(24, 0x8)], [⟨0, 64, .ro, 0⟩]⟩,
  ⟨.HBM_WR, 0xc01100, [(24, 0x8)], [⟨0, 64, .ro, 0⟩]⟩,
  ⟨.HBM_CE, 0xc01200, [(24, 0x8)], [⟨0, 64, .ro, 0⟩]⟩,
  ⟨.DDR_RD, 0xc01300, [(8, 0x8)], [⟨0, 64, .ro, 0⟩]⟩,
  ⟨.DDR_WR, 0xc01340, [(8, 0x8)], [⟨0, 64, .ro, 0⟩]⟩,
  ⟨.DDR_CE, 0xc01380, [(8, 0x8)], [⟨0, 64, .ro, 0⟩]⟩,
  ⟨.HBM_RD_SH, 0xc01800, [(24, 0x8)], [⟨0, 64, .ro, 0⟩]⟩,
  ⟨.HBM_WR_SH, 0xc01900, [(24, 0x8)], [⟨0, 64, .ro, 0⟩]⟩,
  ⟨.HBM_CE_SH, 0xc01a00, [(24, 0x8)], [⟨0, 64, .ro, 0⟩]⟩,
  ⟨.DDR_RD_SH, 0xc01b00, [(8, 0x8)], [⟨0, 64, .ro, 0⟩]⟩,
  ⟨.DDR_WR_SH, 0xc01b40, [(8, 0x8)], [⟨0, 64, .ro, 0⟩]⟩,
  ⟨.DDR_CE_SH, 0xc01b80, [(8, 0x8)], [⟨0, 64, .ro, 0⟩]⟩]

/-- Rows of the register map, part 4. -/
def regMap4 : List RegRow := [
  ⟨.STEP_SEQ, 0x300200, [(8, 0x10000)], [⟨0, 48, .rw, 0⟩]⟩,
  ⟨.STEP_SIZE, 0x300208, [(8, 0x10000), (2, 0x8)], [⟨32, 32, .ro, 0⟩, ⟨0, 32, .ro, 0⟩]⟩,
  ⟨.STEP_STAGE, 0x300218, [(8, 0x10000), (2, 0x8)], [⟨32, 32, .rw, 0⟩, ⟨0, 32, .rw, 0⟩]⟩,
  ⟨.UPD_CFG, 0x300228, [(8, 0x10000)], [⟨22, 6, .rw, 24⟩, ⟨8, 8, .rw, 0⟩, ⟨4, 1, .rw, 0⟩, ⟨3, 1, .rw, 0⟩, ⟨0, 2, .rw, 0⟩]⟩,
  ⟨.STEP_NF, 0x300230, [(8, 0x10000)], [⟨56, 8, .ro, 0⟩, ⟨33, 1, .w1c, 0⟩, ⟨32, 1, .w1c, 0⟩, ⟨8, 8, .ro, 0⟩, ⟨2, 1, .ro, 0⟩, ⟨1, 1, .ro, 0⟩, ⟨0, 1, .ro, 0⟩]⟩,
  ⟨.NF_WATCH, 0x300238, [(8, 0x10000), (4, 0x8)], [⟨0, 64, .rw, 0⟩]⟩,
  ⟨.UPD_ELEMS, 0x300260, [(8, 0x10000)], [⟨0, 64, .ro, 0⟩]⟩,
  ⟨.UPD_NONFINITE, 0x300268, [(8, 0x10000)], [⟨0, 64, .ro, 0⟩]⟩,
  ⟨.UPD_SKIPPED, 0x300270, [(8, 0x10000)], [⟨0, 64, .ro, 0⟩]⟩,
  ⟨.UPD_SH, 0x3002a0, [(8, 0x10000), (3, 0x8)], [⟨0, 64, .ro, 0⟩]⟩,
  ⟨.CAL_CFG, 0x400000, [(8, 0x20000)], [⟨8, 8, .rw, 64⟩, ⟨0, 1, .rw, 0⟩]⟩,
  ⟨.CAL_CTX_MASK, 0x400008, [(8, 0x20000)], [⟨0, 48, .rw, 0⟩]⟩,
  ⟨.CAL_PERIOD, 0x400010, [(8, 0x20000)], [⟨48, 16, .rw, 0⟩, ⟨0, 48, .rw, 0⟩]⟩,
  ⟨.CAL_ORIGIN, 0x400018, [(8, 0x20000)], [⟨0, 64, .rw, 0⟩]⟩,
  ⟨.CAL_WINDOW, 0x400020, [(8, 0x20000)], [⟨0, 32, .rw, 0⟩]⟩,
  ⟨.CAL_BEAT, 0x400028, [(8, 0x20000)], [⟨0, 48, .ro, 0⟩]⟩,
  ⟨.CAL_RELEASE, 0x400030, [(8, 0x20000)], [⟨0, 64, .ro, 0⟩]⟩,
  ⟨.CAL_MARK, 0x400038, [(8, 0x20000)], [⟨0, 64, .ro, 0⟩]⟩,
  ⟨.CAL_LATE, 0x400040, [(8, 0x20000)], [⟨32, 32, .ro, 0⟩, ⟨0, 32, .ro, 0⟩]⟩,
  ⟨.CAL_STATUS, 0x400048, [(8, 0x20000)], [⟨56, 8, .ro, 0⟩, ⟨33, 1, .w1c, 0⟩, ⟨32, 1, .w1c, 0⟩, ⟨2, 2, .ro, 0⟩, ⟨1, 1, .ro, 0⟩, ⟨0, 1, .ro, 0⟩]⟩,
  ⟨.CAL_COST, 0x400100, [(8, 0x20000), (16, 0x8)], [⟨63, 1, .rw, 0⟩, ⟨0, 32, .rw, 0⟩]⟩,
  ⟨.SCHED_CFG, 0x400200, [(8, 0x20000)], [⟨0, 11, .rw, 0⟩]⟩,
  ⟨.SCHED_STATUS, 0x400208, [(8, 0x20000)], [⟨31, 1, .ro, 0⟩, ⟨30, 1, .ro, 0⟩, ⟨16, 11, .ro, 0⟩, ⟨0, 10, .ro, 0⟩]⟩,
  ⟨.SCHED_INJECT, 0x400210, [(8, 0x20000)], [⟨19, 1, .wo, 0⟩, ⟨16, 3, .wo, 0⟩, ⟨0, 16, .wo, 0⟩]⟩,
  ⟨.MB_CNT, 0x400300, [(8, 0x20000), (16, 0x8)], [⟨32, 32, .ro, 0⟩, ⟨0, 32, .ro, 0⟩]⟩,
  ⟨.HO_CFG, 0x400380, [(8, 0x20000), (16, 0x8)], [⟨0, 16, .rw, 1⟩]⟩,
  ⟨.JQ_CFG, 0x401000, [(8, 0x20000), (32, 0x40)], [⟨24, 20, .rw, 0x1000⟩, ⟨12, 6, .rw, 0x10⟩, ⟨2, 1, .rw, 1⟩, ⟨1, 1, .rw, 0⟩, ⟨0, 1, .rw, 0⟩]⟩,
  ⟨.JQ_BASE, 0x401008, [(8, 0x20000), (32, 0x40)], [⟨16, 36, .rw, 0⟩]⟩,
  ⟨.JQ_PUT, 0x401010, [(8, 0x20000), (32, 0x40)], [⟨0, 64, .ro, 0⟩]⟩,
  ⟨.JQ_GET, 0x401018, [(8, 0x20000), (32, 0x40)], [⟨0, 64, .ro, 0⟩]⟩]

/-- Rows of the register map, part 5. -/
def regMap5 : List RegRow := [
  ⟨.JQ_STATUS, 0x401020, [(8, 0x20000), (32, 0x40)], [⟨56, 8, .ro, 0⟩, ⟨33, 1, .w1c, 0⟩, ⟨32, 1, .w1c, 0⟩, ⟨0, 1, .ro, 0⟩]⟩,
  ⟨.JQ_DROPS, 0x401028, [(8, 0x20000), (32, 0x40)], [⟨0, 32, .rc, 0⟩]⟩,
  ⟨.JQ_STALL_CLK, 0x401030, [(8, 0x20000), (32, 0x40)], [⟨0, 64, .ro, 0⟩]⟩,
  ⟨.JQ_STALL_CLK_SH, 0x401038, [(8, 0x20000), (32, 0x40)], [⟨0, 64, .ro, 0⟩]⟩,
  ⟨.SCHED_TAB, 0x402000, [(8, 0x20000), (256, 0x8)], [⟨0, 64, .rw, 0⟩]⟩,
  ⟨.UPD_PROG, 0x404000, [(8, 0x20000), (8, 0x100), (32, 0x8)], [⟨0, 64, .rw, 0⟩]⟩,
  ⟨.ERR_DEV_STATUS, 0x700000, [], [⟨56, 8, .ro, 0⟩, ⟨37, 1, .w1c, 0⟩, ⟨36, 1, .w1c, 0⟩, ⟨35, 1, .w1c, 0⟩, ⟨34, 1, .w1c, 0⟩, ⟨33, 1, .w1c, 0⟩, ⟨32, 1, .w1c, 0⟩]⟩,
  ⟨.ERR_INT_EN, 0x700008, [], [⟨0, 6, .rw, 0x3F⟩]⟩,
  ⟨.ERR_LAST_FAULT, 0x700010, [], [⟨48, 10, .ro, 0⟩, ⟨11, 1, .ro, 0⟩, ⟨8, 3, .ro, 0⟩, ⟨0, 8, .ro, 0⟩]⟩,
  ⟨.ERR_LAST_FAULT_T, 0x700018, [], [⟨0, 64, .ro, 0⟩]⟩,
  ⟨.ERR_LAST_POLICY, 0x700020, [], [⟨48, 10, .ro, 0⟩, ⟨11, 1, .ro, 0⟩, ⟨8, 3, .ro, 0⟩, ⟨0, 8, .ro, 0⟩]⟩,
  ⟨.ERR_ILLEGAL_CNT, 0x700028, [], [⟨0, 32, .rc, 0⟩]⟩,
  ⟨.ERR_CORR, 0x700030, [], [⟨48, 16, .rw, 0⟩, ⟨0, 48, .ro, 0⟩]⟩,
  ⟨.ERR_PIN_CNT, 0x700038, [], [⟨48, 16, .rc, 0⟩, ⟨32, 16, .rc, 0⟩, ⟨16, 16, .rc, 0⟩, ⟨0, 16, .rc, 0⟩]⟩,
  ⟨.ERR_CNT, 0x701000, [(256, 0x8)], [⟨0, 48, .ro, 0⟩]⟩,
  ⟨.ERR_CNT_SH, 0x701800, [(256, 0x8)], [⟨0, 48, .ro, 0⟩]⟩,
  ⟨.TQ_CFG, 0x702000, [(9, 0x40)], [⟨24, 20, .rw, 32⟩, ⟨12, 6, .rw, 0x10⟩, ⟨2, 1, .rw, 0⟩, ⟨1, 1, .rw, 1⟩, ⟨0, 1, .rw, 1⟩]⟩,
  ⟨.TQ_BASE, 0x702008, [(9, 0x40)], [⟨16, 36, .rw, 0⟩]⟩,
  ⟨.TQ_PUT, 0x702010, [(9, 0x40)], [⟨0, 64, .ro, 0⟩]⟩,
  ⟨.TQ_GET, 0x702018, [(9, 0x40)], [⟨0, 64, .ro, 0⟩]⟩,
  ⟨.TQ_STATUS, 0x702020, [(9, 0x40)], [⟨56, 8, .ro, 0⟩, ⟨33, 1, .w1c, 0⟩, ⟨32, 1, .w1c, 0⟩, ⟨0, 1, .ro, 0⟩]⟩,
  ⟨.TQ_DROPS, 0x702028, [(9, 0x40)], [⟨0, 32, .rc, 0⟩]⟩,
  ⟨.TQ_STALL_CLK, 0x702030, [(9, 0x40)], [⟨0, 64, .ro, 0⟩]⟩,
  ⟨.TQ_STALL_CLK_SH, 0x702038, [(9, 0x40)], [⟨0, 64, .ro, 0⟩]⟩,
  ⟨.TRC_REC, 0x703000, [(9, 0x40), (4, 0x8)], [⟨0, 64, .ro, 0⟩]⟩,
  ⟨.TRC_AVAIL, 0x703020, [(9, 0x40)], [⟨0, 32, .ro, 0⟩]⟩,
  ⟨.TRC_POP, 0x703028, [(9, 0x40)], [⟨0, 8, .wo, 0⟩]⟩,
  ⟨.SN_LDR, 0x300300, [(8, 0x10000), (8, 0x8)], [⟨0, 64, .ro, 0⟩]⟩,
  ⟨.SN_EPOCH, 0x300340, [(8, 0x10000)], [⟨16, 16, .ro, 0⟩, ⟨0, 16, .ro, 0⟩]⟩,
  ⟨.SN_CFG, 0x500000, [(8, 0x10000)], [⟨48, 16, .rw, 0⟩, ⟨40, 8, .rw, 0⟩, ⟨34, 6, .rw, 27⟩, ⟨27, 5, .rw, 16⟩, ⟨2, 1, .rw, 0⟩, ⟨1, 1, .rw, 0⟩, ⟨0, 1, .rw, 0⟩]⟩]

/-- Rows of the register map, part 6. -/
def regMap6 : List RegRow := [
  ⟨.SN_REQ, 0x500008, [(8, 0x10000)], [⟨0, 64, .wo, 0⟩]⟩,
  ⟨.SN_JOB_STATUS, 0x500010, [(8, 0x10000)], [⟨56, 8, .ro, 0⟩, ⟨34, 1, .w1c, 0⟩, ⟨33, 1, .w1c, 0⟩, ⟨32, 1, .w1c, 0⟩, ⟨24, 8, .ro, 0⟩, ⟨8, 1, .ro, 0⟩, ⟨7, 1, .ro, 0⟩, ⟨6, 1, .ro, 0⟩, ⟨5, 1, .ro, 0⟩, ⟨4, 1, .ro, 0⟩, ⟨0, 3, .ro, 0⟩]⟩,
  ⟨.SN_REC_BASE, 0x500018, [(8, 0x10000)], [⟨23, 20, .rw, 0⟩]⟩,
  ⟨.SN_LOG_BASE, 0x500020, [(8, 0x10000)], [⟨13, 30, .rw, 0⟩]⟩,
  ⟨.SN_LAST_T, 0x500028, [(8, 0x10000)], [⟨0, 64, .ro, 0⟩]⟩,
  ⟨.SN_COST, 0x500030, [(8, 0x10000)], [⟨32, 32, .ro, 0⟩, ⟨0, 32, .ro, 0⟩]⟩,
  ⟨.SN_COMMITS, 0x500100, [(8, 0x10000)], [⟨0, 64, .ro, 0⟩]⟩,
  ⟨.SN_ABANDONS, 0x500108, [(8, 0x10000)], [⟨0, 64, .ro, 0⟩]⟩,
  ⟨.SN_RESTORES, 0x500110, [(8, 0x10000)], [⟨0, 64, .ro, 0⟩]⟩,
  ⟨.SN_COW_GRANULES, 0x500118, [(8, 0x10000)], [⟨0, 64, .ro, 0⟩]⟩,
  ⟨.SN_COW_STALL, 0x500120, [(8, 0x10000)], [⟨0, 64, .ro, 0⟩]⟩,
  ⟨.SN_SH, 0x500140, [(8, 0x10000), (5, 0x8)], [⟨0, 64, .ro, 0⟩]⟩,
  ⟨.SN_CLAMP, 0x580000, [], [⟨32, 32, .rwl, 1800000⟩, ⟨0, 32, .rwl, 1000⟩]⟩,
  ⟨.NC_STATUS, 0x580008, [], [⟨56, 8, .ro, 0⟩, ⟨32, 1, .w1c, 0⟩, ⟨2, 1, .ro, 1⟩, ⟨0, 2, .ro, 0⟩]⟩,
  ⟨.SN_CORE_RET, 0x580010, [(6, 0x8)], [⟨0, 64, .ro, 0⟩]⟩,
  ⟨.SN_DOUBLE, 0x580040, [(24, 0x8)], [⟨16, 16, .ro, 0⟩, ⟨0, 16, .ro, 0⟩]⟩,
  ⟨.RCV_CMD, 0x590000, [], [⟨0, 4, .wo, 0⟩]⟩,
  ⟨.RCV_STATUS, 0x590008, [], [⟨8, 8, .ro, 0⟩, ⟨0, 3, .ro, 0⟩]⟩,
  ⟨.GL_PORT_CFG, 0xb00000, [(16, 0x10000)], [⟨4, 2, .rw, 0⟩, ⟨3, 1, .rw, 1⟩, ⟨2, 1, .rwl, 0⟩, ⟨1, 1, .rw, 0⟩, ⟨0, 1, .rw, 0⟩]⟩,
  ⟨.GL_PORT_STATUS, 0xb00008, [(16, 0x10000)], [⟨56, 8, .ro, 0⟩, ⟨35, 1, .w1c, 0⟩, ⟨34, 1, .w1c, 0⟩, ⟨33, 1, .w1c, 0⟩, ⟨32, 1, .w1c, 0⟩, ⟨16, 16, .ro, 0⟩, ⟨0, 3, .ro, 0⟩]⟩,
  ⟨.GL_VL_CRED, 0xb00010, [(16, 0x10000)], [⟨56, 8, .rw, 32⟩, ⟨48, 8, .rw, 0⟩, ⟨40, 8, .rw, 32⟩, ⟨32, 8, .rw, 32⟩, ⟨24, 8, .rw, 32⟩, ⟨16, 8, .rw, 32⟩, ⟨8, 8, .rw, 32⟩, ⟨0, 8, .rw, 32⟩]⟩,
  ⟨.GL_ENC_CTR, 0xb00018, [(16, 0x10000)], [⟨0, 64, .ro, 0⟩]⟩,
  ⟨.GL_TX_FLITS, 0xb00100, [(16, 0x10000)], [⟨0, 64, .ro, 0⟩]⟩,
  ⟨.GL_RX_FLITS, 0xb00108, [(16, 0x10000)], [⟨0, 64, .ro, 0⟩]⟩,
  ⟨.GL_CRC_ERR, 0xb00110, [(16, 0x10000)], [⟨0, 64, .ro, 0⟩]⟩,
  ⟨.GL_REPLAYS, 0xb00118, [(16, 0x10000)], [⟨0, 64, .ro, 0⟩]⟩,
  ⟨.GL_FEC_CORR, 0xb00120, [(16, 0x10000)], [⟨0, 64, .ro, 0⟩]⟩,
  ⟨.GL_CRED_STALL, 0xb00128, [(16, 0x10000)], [⟨0, 64, .ro, 0⟩]⟩,
  ⟨.GL_RX_DISCARD, 0xb00130, [(16, 0x10000)], [⟨0, 64, .ro, 0⟩]⟩,
  ⟨.GL_SH, 0xb00140, [(16, 0x10000), (7, 0x8)], [⟨0, 64, .ro, 0⟩]⟩]

/-- Rows of the register map, part 7. -/
def regMap7 : List RegRow := [
  ⟨.GL_DEV_ID, 0xb08000, [], [⟨0, 16, .rw, 0⟩]⟩,
  ⟨.GL_TOPO, 0xb08008, [], [⟨16, 1, .rw, 0⟩, ⟨12, 4, .rw, 0⟩, ⟨8, 4, .rw, 0⟩, ⟨4, 4, .rw, 0⟩, ⟨0, 4, .rw, 0⟩]⟩,
  ⟨.GL_MASTER, 0xb08010, [], [⟨48, 16, .rw, 0⟩, ⟨32, 16, .rw, 65535⟩]⟩,
  ⟨.GL_HB_STATUS, 0xb08018, [], [⟨56, 8, .ro, 0⟩, ⟨33, 1, .w1c, 0⟩, ⟨32, 1, .w1c, 0⟩]⟩,
  ⟨.GL_ROUTE_BASE, 0xb08020, [], [⟨17, 26, .rw, 0⟩]⟩,
  ⟨.GL_OUT, 0xb08028, [], [⟨0, 32, .ro, 0⟩]⟩,
  ⟨.GL_ROUTE_OVR, 0xb08100, [(16, 0x8)], [⟨31, 1, .rw, 0⟩, ⟨16, 4, .rw, 0⟩, ⟨0, 16, .rw, 0⟩]⟩,
  ⟨.GRP_CFG, 0xb08200, [(16, 0x20)], [⟨63, 1, .rw, 0⟩, ⟨32, 17, .rw, 0⟩, ⟨0, 16, .rw, 0⟩]⟩,
  ⟨.GRP_ROLES, 0xb08208, [(16, 0x20)], [⟨16, 16, .rw, 0⟩, ⟨0, 16, .rw, 0xFFFF⟩]⟩,
  ⟨.GRP_LIST, 0xb08210, [(16, 0x20)], [⟨1, 42, .rw, 0⟩]⟩,
  ⟨.GL_COLL_BASE, 0xb08400, [(8, 0x8)], [⟨12, 31, .rw, 0⟩]⟩,
  ⟨.DEV_STATUS, 0x18, [], [⟨56, 8, .ro, 0⟩, ⟨32, 1, .w1c, 0⟩, ⟨8, 8, .ro, 0⟩, ⟨1, 1, .ro, 0⟩, ⟨0, 1, .ro, 0⟩]⟩,
  ⟨.MSIX_TABLE, 0x80000, [(64, 0x10), (2, 0x8)], [⟨0, 64, .rw, 0⟩]⟩,
  ⟨.MSIX_PBA, 0x80800, [], [⟨0, 64, .ro, 0⟩]⟩,
  ⟨.RING_BASE, 0x100000, [(9, 0x100)], [⟨6, 58, .rw, 0⟩]⟩,
  ⟨.RING_CFG, 0x100008, [(9, 0x100)], [⟨16, 4, .rw, 4⟩, ⟨0, 1, .rw, 0⟩]⟩,
  ⟨.CPL_BASE, 0x100010, [(9, 0x100)], [⟨4, 60, .rw, 0⟩]⟩,
  ⟨.RING_STATUS, 0x100018, [(9, 0x100)], [⟨56, 8, .ro, 0⟩, ⟨48, 1, .ro, 0⟩, ⟨40, 8, .ro, 0⟩, ⟨16, 16, .ro, 0⟩, ⟨0, 16, .ro, 0⟩]⟩,
  ⟨.CPL_HEAD, 0x100020, [(9, 0x100)], [⟨0, 16, .ro, 0⟩]⟩,
  ⟨.FR_BASE, 0x101000, [(8, 0x40)], [⟨5, 59, .rw, 0⟩]⟩,
  ⟨.FR_CFG, 0x101008, [(8, 0x40)], [⟨16, 4, .rw, 4⟩, ⟨0, 1, .rw, 0⟩]⟩,
  ⟨.FR_PTR, 0x101010, [(8, 0x40)], [⟨32, 32, .ro, 0⟩, ⟨0, 32, .ro, 0⟩]⟩,
  ⟨.FR_DROPS, 0x101018, [(8, 0x40)], [⟨0, 32, .rc, 0⟩]⟩,
  ⟨.HIF_WIN, 0x102000, [], [⟨34, 18, .rw, 0⟩, ⟨4, 3, .rw, 0⟩, ⟨0, 1, .rw, 0⟩]⟩,
  ⟨.HIF_CFG, 0x102008, [], [⟨0, 1, .rw, 0⟩]⟩,
  ⟨.PWR_LIMIT, 0x800000, [], [⟨32, 16, .rwl, 1800⟩, ⟨16, 8, .rwl, 95⟩, ⟨0, 8, .rwl, 100⟩]⟩,
  ⟨.PWR_CAP, 0x800008, [], [⟨32, 16, .rw, 600⟩, ⟨16, 6, .rw, 32⟩, ⟨0, 16, .rw, 1800⟩]⟩,
  ⟨.PWR_SHARE, 0x800010, [], [⟨24, 8, .rw, 0x40⟩, ⟨16, 8, .rw, 0x40⟩, ⟨8, 8, .rw, 0x40⟩, ⟨0, 8, .rw, 0x40⟩]⟩,
  ⟨.PWR_STATUS, 0x800018, [], [⟨56, 8, .ro, 0⟩, ⟨36, 1, .w1c, 0⟩, ⟨35, 1, .w1c, 0⟩, ⟨34, 1, .w1c, 0⟩, ⟨33, 1, .w1c, 0⟩, ⟨32, 1, .w1c, 0⟩, ⟨16, 1, .ro, 0⟩, ⟨0, 16, .ro, 0⟩]⟩,
  ⟨.RING_PWR, 0x800020, [(4, 0x8)], [⟨32, 16, .ro, 0⟩, ⟨16, 16, .ro, 0⟩, ⟨8, 2, .ro, 0⟩, ⟨0, 6, .ro, 0⟩]⟩]

/-- Rows of the register map, part 8. -/
def regMap8 : List RegRow := [
  ⟨.CLK_STATUS, 0x800040, [], [⟨6, 1, .ro, 0⟩, ⟨5, 1, .ro, 0⟩, ⟨4, 1, .ro, 0⟩, ⟨0, 1, .ro, 0⟩]⟩,
  ⟨.CLK_CFG, 0x800048, [], [⟨0, 1, .rwl, 0⟩]⟩,
  ⟨.TS_TEMP, 0x800100, [(64, 0x8)], [⟨16, 16, .rc, 0⟩, ⟨0, 16, .ro, 0⟩]⟩,
  ⟨.HBM_TEMP, 0x800300, [(24, 0x8)], [⟨0, 8, .ro, 0⟩]⟩,
  ⟨.PWR_ENERGY, 0x800400, [], [⟨0, 64, .ro, 0⟩]⟩,
  ⟨.RING_ENERGY, 0x800408, [(4, 0x8)], [⟨0, 64, .ro, 0⟩]⟩,
  ⟨.THROT_PERIODS, 0x800428, [], [⟨0, 64, .ro, 0⟩]⟩,
  ⟨.PWR_SH, 0x800440, [(6, 0x8)], [⟨0, 64, .ro, 0⟩]⟩,
  ⟨.DEV_RESET, 0x20, [], [⟨0, 8, .wo, 0⟩]⟩,
  ⟨.DEV_BOOT, 0x28, [], [⟨40, 8, .ro, 0⟩, ⟨32, 8, .ro, 0⟩, ⟨16, 8, .ro, 0⟩, ⟨12, 4, .ro, 0⟩, ⟨10, 2, .ro, 0⟩, ⟨9, 1, .ro, 0⟩, ⟨8, 1, .ro, 0⟩, ⟨4, 2, .ro, 0⟩, ⟨0, 3, .ro, 0⟩]⟩,
  ⟨.BOOT_LOG, 0x1000, [(128, 0x20), (4, 0x8)], [⟨0, 64, .ro, 0⟩]⟩,
  ⟨.HS_CMD, 0xd00000, [], [⟨16, 2, .wo, 0⟩, ⟨12, 4, .wo, 0⟩, ⟨0, 12, .wo, 0⟩]⟩,
  ⟨.HS_STATUS, 0xd00008, [], [⟨56, 8, .ro, 0⟩, ⟨33, 1, .w1c, 0⟩, ⟨32, 1, .w1c, 0⟩, ⟨16, 16, .ro, 0⟩, ⟨14, 2, .ro, 0⟩, ⟨9, 3, .ro, 0⟩, ⟨8, 1, .ro, 0⟩, ⟨0, 3, .ro, 0⟩]⟩,
  ⟨.HS_SIG, 0xd00010, [], [⟨0, 64, .ro, 0⟩]⟩,
  ⟨.HS_REF, 0xd00018, [], [⟨0, 64, .ro, 0⟩]⟩,
  ⟨.HS_BOOT, 0xd00020, [], [⟨32, 9, .ro, 0⟩, ⟨16, 8, .ro, 0⟩, ⟨0, 2, .ro, 0⟩]⟩,
  ⟨.HS_RUNS, 0xd00100, [], [⟨0, 64, .ro, 0⟩]⟩,
  ⟨.HS_FAILS, 0xd00108, [], [⟨0, 64, .ro, 0⟩]⟩,
  ⟨.HS_ABANDONS, 0xd00110, [], [⟨0, 64, .ro, 0⟩]⟩,
  ⟨.HS_REFUSED, 0xd00118, [], [⟨0, 64, .ro, 0⟩]⟩,
  ⟨.HS_SH, 0xd00140, [(4, 0x8)], [⟨0, 64, .ro, 0⟩]⟩,
  ⟨.SEC_CMD, 0x900000, [], [⟨8, 8, .wo, 0⟩, ⟨0, 8, .wo, 0⟩]⟩,
  ⟨.SEC_STATUS, 0x900008, [], [⟨56, 8, .ro, 0⟩, ⟨32, 1, .w1c, 0⟩, ⟨8, 8, .ro, 0⟩, ⟨2, 1, .ro, 0⟩, ⟨1, 1, .ro, 0⟩, ⟨0, 1, .ro, 0⟩]⟩,
  ⟨.SEC_ADDR, 0x900010, [], [⟨3, 40, .rw, 0⟩]⟩,
  ⟨.SEC_FUSE, 0x900018, [], [⟨4, 4, .ro, Config.rootRevoked.toNat⟩, ⟨0, 4, .ro, Config.rootPresent.toNat⟩]⟩,
  ⟨.SEC_SVN, 0x900020, [], [⟨24, 8, .ro, (Config.svnFuse 3).val⟩, ⟨16, 8, .ro, (Config.svnFuse 2).val⟩, ⟨8, 8, .ro, (Config.svnFuse 1).val⟩, ⟨0, 8, .ro, (Config.svnFuse 0).val⟩]⟩,
  ⟨.SEC_ROMVER, 0x900028, [], [⟨0, 64, .ro, Config.romVersion.toNat⟩]⟩,
  ⟨.SEC_DATA, 0x900100, [(32, 0x8)], [⟨0, 64, .ro, 0⟩]⟩,
  ⟨.SEC_MEAS, 0x900400, [(8, 0x40), (8, 0x8)], [⟨0, 64, .ro, 0⟩]⟩,
  ⟨.MGMT_STATUS, 0xa00000, [], [⟨56, 8, .ro, 0⟩, ⟨33, 1, .w1c, 0⟩, ⟨32, 1, .w1c, 0⟩, ⟨24, 8, .ro, 0⟩, ⟨16, 7, .ro, 0x52⟩, ⟨8, 1, .ro, 0⟩, ⟨0, 3, .ro, 0⟩]⟩]

/-- Rows of the register map, part 9. -/
def regMap9 : List RegRow := [
  ⟨.PB_INFO, 0xa00008, [], [⟨32, 32, .ro, 0⟩, ⟨24, 8, .ro, 0⟩, ⟨20, 4, .ro, 0⟩, ⟨16, 2, .ro, 0⟩, ⟨0, 16, .ro, 0⟩]⟩,
  ⟨.FLASH_DIR, 0xa00010, [], [⟨32, 32, .ro, 0⟩, ⟨10, 1, .ro, 0⟩, ⟨9, 1, .ro, 0⟩, ⟨8, 1, .ro, 0⟩, ⟨0, 1, .ro, 0⟩]⟩,
  ⟨.PB_MIRROR, 0xa01000, [(320, 0x8)], [⟨0, 64, .ro, 0⟩]⟩]

/-- Every row of the register map. -/
def regMap : List RegRow :=
  regMap0 ++ regMap1 ++ regMap2 ++ regMap3 ++ regMap4 ++ regMap5 ++ regMap6 ++ regMap7 ++ regMap8 ++ regMap9

/-- The multiples a remainder of an offset spells, each below its count; none if it spells none. -/
def dimIndex : List (Nat × Nat) → Nat → Option (List Nat)
  | [], r => if r = 0 then some [] else none
  | (cnt, stride) :: t, r =>
    if r / stride < cnt then (dimIndex t (r % stride)).map (r / stride :: ·) else none

/-- The first row an offset falls in, with its indices. -/
def findRow : List RegRow → Nat → Option (RegRow × List Nat)
  | [], _ => none
  | row :: t, off =>
    match if row.base ≤ off then dimIndex row.dims (off - row.base) else none with
    | some ix => some (row, ix)
    | none => findRow t off

/-- The register row and indices of a BAR0 offset; none where no chapter assigns one (R23). -/
def regAt (off : Nat) : Option (RegRow × List Nat) := findRow regMap off

/-- The reset value of a field of a row: `CTX_ACC_MASK` resets by context (R79), and the
MSI-X table's vector control words with their mask bit set (log 16). -/
def fieldReset (id : RegId) (ix : List Nat) (f : FieldRow) : Nat :=
  if id = .CTX_ACC_MASK then (if ix.getD 1 0 = 0 then 0xFFFFFFFF else 0)
  else if id = .MSIX_TABLE then (if ix.getD 1 0 = 1 then 0x100000000 else 0) else f.rst

/-- The field of a row as one addressable field. -/
def rowFld (id : RegId) (ix : List Nat) (off : Nat) (f : FieldRow) : Fld :=
  ⟨off, f.lo, f.w, fieldReset id ix f⟩

end Sys2Proof.Machine
end

