-- ==== Sys2Proof/Machine/Ops.lean ====
section
/-! DEFINITION. The named operations over registers and memories: reading and writing a register
field, the hidden state of a context, core and queue, stamps, device memory with its page tables
and first-touch copies, scratchpads, host memory. Nothing here raises an error. -/

namespace Sys2Proof.Machine

/-- The answer type of every meaning. -/
abbrev Ans := Host.Outcome State Fault Refusal

/-- The key a field stands under. -/
def Fld.key (f : Fld) : Nat := f.off * 64 + f.lo

/-- The value of a register field. -/
def State.get (s : State) (f : Fld) : Nat := Tab.get f.rst s.regs f.key

/-- Write a register field; the value is cut to the field's width. -/
def State.put (s : State) (f : Fld) (v : Nat) : State :=
  { s with regs := Tab.set f.rst s.regs f.key (v % 2 ^ f.w) }

/-- Add to a field, wrapping at its width. -/
def State.inc (s : State) (f : Fld) (n : Nat) : State := s.put f (s.get f + n)

/-- Add to a field, saturating at its width. -/
def State.incSat (s : State) (f : Fld) (n : Nat) : State := s.put f (min (s.get f + n) (2 ^ f.w - 1))

/-- A one-bit field as a Bool. -/
def State.flag (s : State) (f : Fld) : Bool := s.get f ≠ 0

/-- Return every register of a BAR0 range to its reset value. -/
def State.clearRegs (s : State) (off bytes : Nat) : State :=
  { s with regs := Tab.clearRange s.regs (off * 64) (bytes * 64) }

/-- Return one field to its reset value. -/
def State.clearFld (s : State) (f : Fld) : State := s.put f f.rst

/-- The hidden state of context c of troupe g. -/
def State.ctxOf (s : State) (g c : Nat) : CtxS := Tab.get {} s.ctx (2 * g + c)

/-- Write the hidden state of a context. -/
def State.setCtx (s : State) (g c : Nat) (x : CtxS) : State :=
  { s with ctx := Tab.set {} s.ctx (2 * g + c) x }

/-- The stores of core `cx` of troupe g. -/
def State.core (s : State) (g cx : Nat) : CoreS := Tab.get {} s.cores (16 * g + cx)

/-- Write the stores of a core. -/
def State.setCore (s : State) (g cx : Nat) (x : CoreS) : State :=
  { s with cores := Tab.set {} s.cores (16 * g + cx) x }

/-- The queue of engine e for context c of troupe g, oldest entry first. -/
def State.queue (s : State) (g c e : Nat) : List QEntry := Tab.get [] s.queues (4 * (2 * g + c) + e)

/-- Write an engine queue. -/
def State.setQueue (s : State) (g c e : Nat) (q : List QEntry) : State :=
  { s with queues := Tab.set [] s.queues (4 * (2 * g + c) + e) q }

/-- The Safety Net's hidden state of a job. -/
def State.snOf (s : State) (j : Nat) : SnS := Tab.get {} s.sn j

/-- Write the Safety Net's hidden state of a job. -/
def State.setSn (s : State) (j : Nat) (x : SnS) : State := { s with sn := Tab.set {} s.sn j x }

/-- The inbound carry ring of a context (R239). -/
def State.ring (s : State) (g c : Nat) : List CarryRec := Tab.get [] s.carry (2 * g + c)

/-- Write a carry ring, with its occupancy register. -/
def State.setRing (s : State) (g c : Nat) (r : List CarryRec) : State :=
  { s with carry := Tab.set [] s.carry (2 * g + c) r }.put (Reg.RM_PARADE.RING_OCC g c) r.length

/-- A free value of the counter's number, and the counter advanced. -/
def State.takeFree (s : State) (k : Nat) : Nat := (Config.freeWord s.fresh k).toNat

/-- Advance the free-value counter. -/
def State.bumpFree (s : State) : State := { s with fresh := s.fresh + 1 }

/-! ## Showtime (R26, R28, R30, R31) -/

/-- The deviation of an island's replica from the root: a correction of c st is spread evenly over the sync interval of
1,024 st after its sync word (R28, log 112). -/
def TimeS.effDev (t : TimeS) (island : Nat) : Int :=
  let c := Tab.get (0, 0) t.slew island
  Tab.get 0 t.dev island + c.1 * (min (t.root - c.2) 1024 : Nat) / 1024

/-- The value of an island's replica: the root's count with the island's deviation, or the value it
holds until the root has passed it. -/
def State.stamp (s : State) (island : Nat) : Nat :=
  let v := ((s.time.root : Int) + s.time.effDev island).toNat % 2 ^ 64
  max v (Tab.get 0 s.time.held island)

/-- The island of a troupe's Ringmaster. -/
def rmIsland (g : Nat) : Nat := 384 + g

/-- The island of a core. -/
def coreIsland (g cx : Nat) : Nat := 16 * g + cx

/-- The Ring of a troupe. -/
def ringOf (g : Nat) : Nat := g / 6

/-! ## Device memory (R323 to R330) -/

/-- The frame of a device physical address. -/
def dfnOf (a : Nat) : Nat := a / 2 ^ 21

/-- The frame lies in the DDR5 tier. -/
def isDdr (dfn : Nat) : Bool := 0x200000 ≤ dfn && dfn < 0x400000

/-- The DDR5 channel of a frame. -/
def ddrChannel (dfn : Nat) : Nat := bits dfn 18 3

/-- The HBM4 stack of a frame. -/
def stackOf (dfn : Nat) : Nat := dfn / 36864

/-- The frame exists (R323): an HBM4 frame, or a DDR5 frame inside its module. -/
def State.frameExists (s : State) (dfn : Nat) : Bool :=
  dfn < 0xD8000 || (isDdr dfn && bits dfn 0 18 < Tab.get 0 s.modules (ddrChannel dfn) * 512)

/-- The pseudo-channel of a byte offset of an HBM4 frame (R324). -/
def pseudoChannel (o : Nat) : Nat := Nat.xor (bits o 9 6) (bits o 15 6)

/-- The frame lies in a lost stack or on a lost channel, whose frames are all `RETIRED` (R340, R343). -/
def State.frameLost (s : State) (dfn : Nat) : Bool :=
  if isDdr dfn then bit (s.get Reg.MEM_DDR_STATUS.RETIRED) (ddrChannel dfn)
  else bit (s.get Reg.MEM_HBM_STATUS.RETIRED) (stackOf dfn)

/-- The owner of a frame; a frame not listed is `DIRTY` (R330). -/
def State.ownerOf (s : State) (dfn : Nat) : Nat := if s.frameLost dfn then 0xC else Tab.get 0xE s.owner dfn

/-- Set the owner of a frame. -/
def State.setOwner (s : State) (dfn o : Nat) : State := { s with owner := Tab.set 0xE s.owner dfn o }

/-- One byte of device memory; a byte nothing has written reads as 0 (log 4). -/
def State.memByte (s : State) (a : Nat) : Byte := Tab.get 0 s.mem a

/-- Write one byte of device memory. -/
def State.setMemByte (s : State) (a : Nat) (b : Byte) : State := { s with mem := Tab.set 0 s.mem a b }

/-- The `n` bytes from an address. -/
def State.memBytes (s : State) (a n : Nat) : List Byte := (List.range n).map (fun i => s.memByte (a + i))

/-- A little-endian number of `n` bytes of device memory. -/
def State.memNat (s : State) (a n : Nat) : Nat := leNat (s.memBytes a n)

/-- Write a list of bytes from an address. -/
def State.setMemBytes (s : State) (a : Nat) : List Byte → State
  | [] => s
  | b :: t => State.setMemBytes (s.setMemByte a b) (a + 1) t

/-- Write a little-endian number of `n` bytes. -/
def State.setMemNat (s : State) (a n v : Nat) : State := s.setMemBytes a (leBytes n v)

/-- Count the bytes an access moved at its stack or channel (R347). -/
def State.countMem (s : State) (a n : Nat) (write : Bool) : State :=
  let d := dfnOf a
  if isDdr d then
    s.inc (if write then Reg.DDR_WR.N (ddrChannel d) else Reg.DDR_RD.N (ddrChannel d)) n
  else s.inc (if write then Reg.HBM_WR.N (stackOf d) else Reg.HBM_RD.N (stackOf d)) n

/-- Copy a range of device memory, which both its stacks or channels count (R347). -/
def State.copyMem (s : State) (src dst n : Nat) : State :=
  ({ s with mem := Tab.putSlice s.mem dst n (Tab.slice s.mem src n) }.countMem src n false).countMem dst n true

/-- Zero-fill a frame (R330). -/
def State.zeroFrame (s : State) (dfn : Nat) : State :=
  { s with mem := Tab.clearRange s.mem (2 ^ 21 * dfn) (2 ^ 21) }.countMem (2 ^ 21 * dfn) (2 ^ 21) true

/-- The channel of a table address is out of service. -/
def State.chanLost (s : State) (a : Nat) : Bool :=
  isDdr (dfnOf a) && bit (s.get Reg.MEM_DDR_STATUS.RETIRED) (ddrChannel (dfnOf a))

/-- The address of a page's entry under one level-1 table; none where there is no table (a root of 0, R327) or the level-1
entry has `V` clear (R325). -/
def State.entryAt (s : State) (root vpn : Nat) : Option Nat :=
  let e := s.memNat (root + 8 * bits vpn 16 15) 8
  if root ≠ 0 && bit e 63 then some (2 ^ 20 * bits e 20 23 + 16 * bits vpn 0 16) else none

/-- The base of a job's primary level-1 table. -/
def State.root1 (s : State) (j : Nat) : Nat := 2 ^ 18 * s.get (Reg.MEM_PT_ROOT.ADDR j)

/-- The base of a job's secondary level-1 table. -/
def State.root2 (s : State) (j : Nat) : Nat := 2 ^ 18 * s.get (Reg.MEM_PT_ROOT2.ADDR j)

/-- The entry address translation reads: the primary's, or the secondary's where a primary table's
channel is out of service or its read was uncorrectable (R327). -/
def State.entryAddr (s : State) (j vpn : Nat) (bad : Bool) : Option Nat :=
  if bad || s.chanLost (s.root1 j) then s.entryAt (s.root2 j) vpn
  else match s.entryAt (s.root1 j) vpn with
    | some a => if s.chanLost a then s.entryAt (s.root2 j) vpn else some a
    | none => none

/-- A page entry's two words (R326). -/
structure Pte where
  w0 : Nat
  w1 : Nat
  deriving DecidableEq, Repr

/-- `V`. -/
def Pte.v (p : Pte) : Bool := bit p.w0 63
/-- `PROT`. -/
def Pte.prot (p : Pte) : Bool := bit p.w0 62
/-- `RO`. -/
def Pte.ro (p : Pte) : Bool := bit p.w0 61
/-- `MV`. -/
def Pte.mv (p : Pte) : Bool := bit p.w0 60
/-- `LIVE`. -/
def Pte.live (p : Pte) : Nat := bits p.w0 26 22
/-- `MIRROR`. -/
def Pte.mirror (p : Pte) : Nat := bits p.w0 0 22
/-- `EPOCH`. -/
def Pte.epoch (p : Pte) : Nat := bits p.w1 48 16
/-- `ACC`. -/
def Pte.acc (p : Pte) : Nat := bits p.w1 32 16
/-- `TOUCH`. -/
def Pte.touch (p : Pte) : Nat := bits p.w1 0 32

/-- Word 0 from its fields. -/
def mkW0 (v prot ro mv : Bool) (live mirror : Nat) : Nat :=
  ofBool v * 2 ^ 63 + 2 ^ 62 * ofBool prot + 2 ^ 61 * ofBool ro + 2 ^ 60 * ofBool mv +
    live % 2 ^ 22 * 2 ^ 26 + mirror % 2 ^ 22

/-- Word 1 from its fields. -/
def mkW1 (epoch acc touch : Nat) : Nat :=
  epoch % 2 ^ 16 * 2 ^ 48 + acc % 2 ^ 16 * 2 ^ 32 + touch % 2 ^ 32

/-- The page entry that translation finds; none where the level-1 entry is not valid. -/
def State.pte (s : State) (j vpn : Nat) (bad : Bool := false) : Option Pte :=
  (s.entryAddr j vpn bad).map (fun a => ⟨s.memNat a 8, s.memNat (a + 8) 8⟩)

/-- Write a page entry in both copies (R327), which their channels count (R347). -/
def State.setPte (s : State) (j vpn : Nat) (p : Pte) : State :=
  let put (t : State) (root : Nat) : State := match t.entryAt root vpn with
    | some a => ((t.setMemNat a 8 p.w0).setMemNat (a + 8) 8 p.w1).countMem a 16 true
    | none => t
  put (put s (s.root1 j)) (s.root2 j)

/-- The state of a protected page (R398). -/
inductive PageState where
  | current | resolving | secured | pending
  deriving DecidableEq, Repr

/-- The state that a page's epoch and touch bits spell (R398). -/
def State.pageState (s : State) (j : Nat) (p : Pte) : PageState :=
  let cur := s.get (Reg.SN_EPOCH.CUR j)
  let base := s.get (Reg.SN_EPOCH.BASE j)
  if p.epoch = cur then .current
  else if (p.epoch + 2 ^ 16 - base) % 2 ^ 16 < (cur + 2 ^ 16 - base) % 2 ^ 16 then .resolving
  else if p.touch = 0 then .secured else .pending

/-! ## The pages of a job -/

/-- The valid level-1 entries of a table; an unlisted byte reads as zero, so a valid entry is listed. -/
def State.level1 (s : State) (root : Nat) : List Nat :=
  ((((s.mem.filter (fun e => decide (root ≤ e.1 ∧ e.1 < root + 2 ^ 18))).map (fun e => (e.1 - root) / 8)).eraseDups).filter
    (fun i => bit (s.memNat (root + 8 * i) 8) 63))

/-- The page numbers whose entries stand in the tables under a root, valid or not; a root of 0 names no table (R327). -/
def State.vpnsUnder (s : State) (root : Nat) : List Nat :=
  if root = 0 then [] else (s.level1 root).flatMap (fun i =>
    let base := 2 ^ 20 * bits (s.memNat (root + 8 * i) 8) 20 23
    ((s.mem.filter (fun e => decide (base ≤ e.1 ∧ e.1 < base + 2 ^ 20))).map
      (fun e => i * 65536 + (e.1 - base) / 16)).eraseDups)

/-- The pages of a job whose entries are valid. -/
def State.jobPages (s : State) (j : Nat) : List Nat :=
  (s.vpnsUnder (if s.chanLost (s.root1 j) then s.root2 j else s.root1 j)).filter (fun v =>
    match s.pte j v with
    | some p => p.v
    | none => false)

/-- The pages of a job whose entries meet a test. -/
def State.pagesWith (s : State) (j : Nat) (f : Pte → Bool) : List Nat :=
  (s.jobPages j).filter (fun v => (s.pte j v).any f)

/-- Copy every granule of a bit set from one frame to another. -/
def State.copyGranules (s : State) (src dst set : Nat) : State :=
  (List.range 32).foldl (fun t g => if bit set g then
    t.copyMem (2 ^ 21 * src + g * 65536) (2 ^ 21 * dst + g * 65536) 65536 else t) s

/-- Write entry i of a half of a job's log area: four bytes of a VPN (R410). A base of 0 names no area, and nothing is
written (log 43). -/
def State.writeLog (s : State) (j half i vpn : Nat) : State :=
  let base := 2 ^ 13 * s.get (Reg.SN_LOG_BASE.ADDR j)
  if base = 0 then s
  else
    let a := base + 4 * (2 ^ s.get (Reg.SN_CFG.LOG2 j) * half + i)
    (s.setMemNat a 4 vpn).countMem a 4 true

/-- Append a page to a job's fill log; a full log sets `LOG_OVF` (R410). -/
def State.logFill (s : State) (j vpn : Nat) : State :=
  let x := s.snOf j
  if x.fill.length < 2 ^ s.get (Reg.SN_CFG.LOG2 j) then
    (s.writeLog j x.half x.fill.length vpn).setSn j { x with fill := x.fill ++ [vpn] }
  else s.put (Reg.SN_JOB_STATUS.LOG_OVF j) 1

/-- Append a page to a job's drain log (R401). -/
def State.logDrain (s : State) (j vpn : Nat) : State :=
  let x := s.snOf j
  if x.drainLen < 2 ^ s.get (Reg.SN_CFG.LOG2 j) then
    (s.writeLog j (1 - x.half) x.drainLen vpn).setSn j { x with drain := x.drain ++ [vpn], drainLen := x.drainLen + 1 }
  else s.put (Reg.SN_JOB_STATUS.LOG_OVF j) 1

/-- A granule that a running migration has already copied and that is written again is marked dirty
(R333). -/
def State.noteMigration (s : State) (j vpn g : Nat) : State :=
  match s.pageOp with
  | some o =>
    if o.op = 3 ∧ o.job = j ∧ o.vpn = vpn ∧ 2 ≤ o.phase then
      { s with pageOp := some { o with dirty := setBit o.dirty g true } }
    else s
  | none => s

/-- The granules of a set that the mirror is copied into count as written for a running migration. -/
def State.noteCopied (s : State) (j vpn set : Nat) : State :=
  (List.range 32).foldl (fun (t : State) g => if bit set g then t.noteMigration j vpn g else t) s

/-- What the Stolern does to a page before a write reaches granule g of it (R400). -/
def State.firstTouch (s : State) (j vpn g : Nat) : State :=
  match s.pte j vpn with
  | none => s
  | some p =>
    if !p.prot then s
    else
      let cur := s.get (Reg.SN_EPOCH.CUR j)
      let st := s.pageState j p
      let s := if p.mv then s else s.put (Reg.SN_JOB_STATUS.INCOMPLETE j) 1
      let count (t : State) : State :=
        if p.mv then t.inc (Reg.SN_COW_GRANULES.N j) (popCount 32 p.touch) else t
      match st with
      | .current => if bit p.touch g then s
          else s.setPte j vpn ⟨p.w0, mkW1 p.epoch p.acc (setBit p.touch g true)⟩
      | .secured => (s.setPte j vpn ⟨p.w0, mkW1 cur p.acc (2 ^ g)⟩).logFill j vpn
      | .pending =>
        let s := if p.mv then s.copyGranules p.live p.mirror p.touch else s
        ((count s).setPte j vpn ⟨p.w0, mkW1 cur p.acc (2 ^ g)⟩).logFill j vpn
      | .resolving =>
        let s := if p.mv then (s.copyGranules p.mirror p.live p.touch).noteCopied j vpn p.touch else s
        ((count s).setPte j vpn ⟨p.w0, mkW1 cur p.acc (setBit p.touch g true)⟩).logFill j vpn

/-- The code with which a job's access to a byte is refused; 0 where it is not: `PAGE_FAULT` (R329), or `FIELD_RANGE` where
the frame does not exist (R323). `bad` says that the read of the primary table is uncorrectable. -/
def State.accessCode (s : State) (j va : Nat) (write : Bool) (bad : Bool := false) : Nat :=
  match s.pte j (bits va 21 31) bad with
  | none => 0x0A
  | some p =>
    if !p.v || (write && p.ro) || decide (2 ^ 52 ≤ va) then 0x0A
    else if s.frameExists p.live then 0 else 0x06

/-- The device physical address a read of a job's virtual address goes to (R399); none where it is refused. -/
def State.readAddr (s : State) (j va : Nat) (bad : Bool := false) : Option Nat :=
  match s.pte j (bits va 21 31) bad with
  | none => none
  | some p =>
    let o := bits va 0 21
    if s.accessCode j va false bad ≠ 0 then none
    else if p.prot && p.mv && decide (s.pageState j p = .resolving) && bit p.touch (o / 65536) then
      some (2 ^ 21 * p.mirror + o)
    else some (2 ^ 21 * p.live + o)

/-- A job's write of a byte of its virtual space, with its first-touch copies; none where it is refused. -/
def State.devWrite (s : State) (j va : Nat) (b : Byte) : Option State :=
  match s.pte j (bits va 21 31) with
  | none => none
  | some p =>
    let o := bits va 0 21
    if s.accessCode j va true ≠ 0 then none
    else
      let s := (s.firstTouch j (bits va 21 31) (o / 65536)).noteMigration j (bits va 21 31) (o / 65536)
      some (s.setMemByte (2 ^ 21 * p.live + o) b)

/-- A job's read of a byte of its virtual space; none where it is refused. -/
def State.devRead (s : State) (j va : Nat) : Option Byte := (s.readAddr j va).map s.memByte

/-- The key of a Ring's cached count for a job's page. -/
def tlbKey (r j vpn : Nat) : Nat := 2 ^ 31 * (8 * r + j) + vpn

/-- Count the 512-byte granules of an access through a Ring's cached translation (R335). -/
def State.countAccess (s : State) (r j va n : Nat) : State :=
  let k := tlbKey r j (bits va 21 31)
  let gs := (va + n - 1) / 512 + 1 - va / 512
  { s with tlb := Tab.set 0 s.tlb k (Tab.get 0 s.tlb k + gs) }

/-- Add whole units to the `ACC` of a page's entry, which saturates (R335). -/
def State.addUnits (s : State) (j vpn n : Nat) : State :=
  match s.pte j vpn with
  | some p => if p.v && n ≠ 0 then s.setPte j vpn ⟨p.w0, mkW1 p.epoch (min (p.acc + n) 0xFFFF) p.touch⟩ else s
  | none => s

/-- Add every Ring's whole units for a job's pages to the entries and keep the remainders (R335). -/
def State.flushAccess (s : State) (j : Nat) : State :=
  (s.tlb.filter (fun e => e.1 / 2 ^ 31 % 8 = j)).foldl (fun (t : State) e =>
    ({ t with tlb := Tab.set 0 t.tlb e.1 (e.2 % 1024) } : State).addUnits j (e.1 % 2 ^ 31) (e.2 / 1024)) s

/-! ## Host memory (R319, R469) -/

/-- One byte of host memory; a byte nothing has written reads as 0 (log 6). -/
def State.hostByte (s : State) (a : Nat) : Byte := Tab.get 0 s.host (a % 2 ^ 64)

/-- Write one byte of host memory. -/
def State.setHostByte (s : State) (a : Nat) (b : Byte) : State :=
  { s with host := Tab.set 0 s.host (a % 2 ^ 64) b }

/-- The `n` bytes of host memory from an address. -/
def State.hostBytes (s : State) (a n : Nat) : List Byte := (List.range n).map (fun i => s.hostByte (a + i))

/-- Write bytes of host memory from an address. -/
def State.setHostBytes (s : State) (a : Nat) : List Byte → State
  | [] => s
  | b :: t => State.setHostBytes (s.setHostByte a b) (a + 1) t

/-! ## Scratchpads, and the core that holds a logical core's work (R420) -/

/-- Where a logical core's work stands: the physical core, the offset of its scratchpad bytes, whether
it is the second of two logical cores there. -/
structure View where
  cx : Nat
  spOff : Nat
  second : Bool
  deriving DecidableEq, Repr

/-- The view of logical core `cx` of troupe g: itself, or the core that doubles for it (R420). -/
def State.view (s : State) (g cx : Nat) : View :=
  match Tab.get none s.doubler (16 * g + cx) with
  | some d => ⟨d, 0x200000, true⟩
  | none => ⟨cx, 0, false⟩

/-- One byte of a logical core's scratchpad. -/
def State.spByte (s : State) (g cx a : Nat) : Byte :=
  let v := s.view g cx
  Tab.get 0 (s.core g v.cx).sp (a + v.spOff)

/-- Write one byte of a logical core's scratchpad. -/
def State.setSpByte (s : State) (g cx a : Nat) (b : Byte) : State :=
  let v := s.view g cx
  let k := s.core g v.cx
  s.setCore g v.cx { k with sp := Tab.set 0 k.sp (a + v.spOff) b }

/-- A little-endian number of `n` bytes of a scratchpad. -/
def State.spNat (s : State) (g cx a n : Nat) : Nat :=
  leNat ((List.range n).map (fun i => s.spByte g cx (a + i)))

/-- Write a list of bytes to a scratchpad. -/
def State.setSpBytes (s : State) (g cx a : Nat) : List Byte → State
  | [] => s
  | b :: t => State.setSpBytes (s.setSpByte g cx a b) g cx (a + 1) t

/-- The accumulator tiles of a context: its mask, forced to a half while the array is split (R79). -/
def State.accMask (s : State) (g c : Nat) : Nat :=
  if s.flag (Reg.RM_ARR.SPLIT g) then (if c = 0 then 0x0000FFFF else 0xFFFF0000)
  else s.get (Reg.CTX_ACC_MASK.MASK g c)

/-- The physical accumulator tile of a logical core's tile: under doubling, the tile n/2 places on
along the set bits of the context's mask (R420). -/
def State.tileOf (s : State) (g c cx t : Nat) : Nat :=
  if (s.view g cx).second then
    let m := s.accMask g c
    let ts := (List.range 32).filter (fun i => bit m i)
    match ts.findIdx? (· = t) with
    | some i => ts.getD (i + ts.length / 2) t
    | none => t
  else t

/-! ## Jobs and contexts -/

/-- `JOB_STATUS.STATE` (R57). -/
def State.jobState (s : State) (j : Nat) : Nat := s.get (Reg.JOB_STATUS.STATE j)

/-- The job is FREE or LOADED. -/
def State.jobIdle (s : State) (j : Nat) : Bool := s.jobState j = 0 || s.jobState j = 1

/-- The contexts bound to a job, as pairs, lower troupe and then lower context first. -/
def State.jobCtxs (s : State) (j : Nat) : List (Nat × Nat) :=
  ((List.range 48).filter (fun i => bit (s.get (Reg.JOB_CTX_MASK.MASK j)) i)).map (fun i => (i / 2, i % 2))

/-- The job a context is bound to. -/
def State.ctxJob (s : State) (g c : Nat) : Option Nat :=
  if s.flag (Reg.CTX_CFG.BOUND g c) then some (s.get (Reg.CTX_CFG.JOB g c)) else none

/-- A core is retired (R420). -/
def State.coreRetired (s : State) (g cx : Nat) : Bool :=
  bit (s.get (Reg.SN_CORE_RET.MASK ((16 * g + cx) / 64))) ((16 * g + cx) % 64)

/-- The cores that `CORE_EN` of a context names, in ascending `cx`. -/
def State.coresNamed (s : State) (g c : Nat) : List Nat :=
  (List.range 16).filter (fun i => bit (s.get (Reg.CTX_CFG.CORE_EN g c)) i)

/-- The logical cores that receive a context's operations (R50): a retired core's bit is ignored (R78)
unless another core doubles for it (R420). -/
def State.coresOf (s : State) (g c : Nat) : List Nat :=
  (s.coresNamed g c).filter (fun i => !s.coreRetired g i || (Tab.get none s.doubler (16 * g + i)).isSome)

/-- The QDEPTH field of an engine (R82). -/
def qdepthFld (g c e : Nat) : Fld :=
  match e with
  | 0 => Reg.QDEPTH.ARRAY g c
  | 1 => Reg.QDEPTH.STREAM g c
  | 2 => Reg.QDEPTH.LANE g c
  | _ => Reg.QDEPTH.DMA g c

/-- The value of a register's readable fields. -/
def State.fieldsValue (s : State) (row : RegRow) (ix : List Nat) (off : Nat) : Nat :=
  row.fields.foldl (fun a f => if f.acc = .wo then a else a + 2 ^ f.lo * s.get (rowFld row.id ix off f)) 0

/-- The address of the operation that an access is made for, the oldest of its queue that has begun; 0 for none. -/
def State.opPc (s : State) (op : Option OpRef) : Nat :=
  match op with
  | some o => (((s.queue o.g o.c o.e).find? (fun q => q.begun ≠ 0)).map (·.pc)).getD 0
  | none => 0

/-- Every engine queue of a context is empty. -/
def State.ctxDrained (s : State) (g c : Nat) : Bool :=
  (List.range 4).all (fun e => (s.queue g c e).isEmpty)

end Sys2Proof.Machine
end

