-- ==== Sys2Proof/Machine/Ports.lean ====
section
/-! DEFINITION. Guyline ports: routing over the cascade (R445), the sending of a packet through a port's flits,
credits and retry buffer (R434 to R441), and the Safety Net messages of the time tree (R447, R449). -/

namespace Sys2Proof.Machine

/-- The hidden state of a port. -/
def State.port (s : State) (p : Nat) : PortS := Tab.get {} s.ports p

/-- Write a port's hidden state. -/
def State.setPort (s : State) (p : Nat) (x : PortS) : State := { s with ports := Tab.set {} s.ports p x }

/-! ## Routing (R445) -/

/-- X_d of the torus. -/
def State.torus (s : State) (d : Nat) : Nat :=
  1 + s.get (match d with
    | 0 => Reg.GL_TOPO.X0
    | 1 => Reg.GL_TOPO.X1
    | 2 => Reg.GL_TOPO.X2
    | _ => Reg.GL_TOPO.X3)

/-- Coordinate d of a device ID. -/
def State.devCoord (s : State) (id d : Nat) : Nat :=
  id / ((List.range d).map s.torus).foldl (· * ·) 1 % s.torus d

/-- A port exists on this grade. -/
def State.portPresent (s : State) (p : Nat) : Bool := bit (s.get Reg.DEV_GRADE.GL_PORT_MASK) p

/-- `GL_PORT_STATUS.STATE`: 0 DOWN, 1 TRAINING, 2 UP, 3 HALF, 4 LOST. -/
def State.portState (s : State) (p : Nat) : Nat := s.get (Reg.GL_PORT_STATUS.STATE p)

/-- The port is UP or HALF. -/
def State.portUp (s : State) (p : Nat) : Bool := s.portState p = 2 || s.portState p = 3

/-- The link group of a torus direction, in ascending port order. -/
def State.linkGroup (s : State) (d : Nat) (minus : Bool) : List Nat :=
  let b := 2 * d + ofBool minus
  ([b] ++ (if b < 4 then [b + 8] ++ (if s.get (Reg.GL_PORT_CFG.ROLE (b + 12)) = 2 then [b + 12] else [])
    else [])).filter s.portPresent

/-- The ports of the first hop to a device: in a torus the one port that an override names, or the link group that R445
corrects along; otherwise the port of the routing table. -/
def State.hopGroup (s : State) (dst : Nat) : List Nat :=
  if s.flag Reg.GL_TOPO.MODE then
    let e := s.memNat (2 ^ 17 * s.get Reg.GL_ROUTE_BASE.ADDR + 2 * dst) 2
    if bit e 15 then [bits e 0 4].filter s.portPresent else []
  else match (List.range 16).find? (fun i =>
      s.flag (Reg.GL_ROUTE_OVR.V i) && s.get (Reg.GL_ROUTE_OVR.DST i) = dst) with
  | some i => [s.get (Reg.GL_ROUTE_OVR.PORT i)].filter s.portPresent
  | none =>
    let me := s.get Reg.GL_DEV_ID.ID
    match (List.range 4).find? (fun d => s.devCoord me d ≠ s.devCoord dst d) with
      | none => []
      | some d =>
        let x := s.torus d
        let up := (s.devCoord dst d + x - s.devCoord me d) % x
        let minus := decide (x - up < up)
        let g := s.linkGroup d minus
        if g.all (fun p => s.portState p = 4) then s.linkGroup d (!minus) else g

/-- The port a packet leaves by: among the members that are UP or HALF, by (`SRC` XOR `DST`). -/
def State.hopPort (s : State) (src dst : Nat) : Option Nat :=
  let up := (s.hopGroup dst).filter s.portUp
  up[Nat.xor src dst % up.length]?

/-- The dimension of a port in a torus: ports 8 to 11 are second links of ports 0 to 3, and ports 12 to 15 third links
with `ROLE` 2; none for an external port. -/
def torusDim (p role : Nat) : Option Nat :=
  if p < 8 then some (p / 2) else if p < 12 then some ((p - 8) / 2) else if role = 2 then some ((p - 12) / 2) else none

/-- The lane a packet takes on the link it leaves by: 7 at a dateline or an `ESC` entry (R445 item 3). -/
def State.hopEscapes (s : State) (dst p : Nat) : Bool :=
  if s.flag Reg.GL_TOPO.MODE then bit (s.memNat (2 ^ 17 * s.get Reg.GL_ROUTE_BASE.ADDR + 2 * dst) 2) 14
  else match torusDim p (s.get (Reg.GL_PORT_CFG.ROLE p)) with
    | none => false
    | some d =>
      let me := s.devCoord (s.get Reg.GL_DEV_ID.ID) d
      if p % 2 = 0 then me + 1 = s.torus d else me = 0

/-! ## Sending over a port -/

/-- The credit allocation of a lane. -/
def vlCred (p v : Nat) : Fld :=
  match v with
  | 0 => Reg.GL_VL_CRED.VL0 p
  | 1 => Reg.GL_VL_CRED.VL1 p
  | 2 => Reg.GL_VL_CRED.VL2 p
  | 3 => Reg.GL_VL_CRED.VL3 p
  | 4 => Reg.GL_VL_CRED.VL4 p
  | 5 => Reg.GL_VL_CRED.VL5 p
  | 6 => Reg.GL_VL_CRED.VL6 p
  | _ => Reg.GL_VL_CRED.VL7 p

/-- A payload padded with zero bytes to whole words (R286, R440). -/
def padded (data : List Byte) : List Byte :=
  data ++ List.replicate (roundUp data.length 8 - data.length) 0

/-- A packet header and payload (R440, R441). -/
structure Packet where
  dst : Nat := 0
  src : Nat := 0
  type : Nat := 0
  lane : Nat := 0
  esc : Bool := false
  group : Nat := 0
  gen : Nat := 0
  qci : Nat := 0
  inst : Nat := 0
  nf : Bool := false
  stamp : Nat := 0
  ofs : Nat := 0
  tag : Nat := 0
  data : List Byte := []
  deriving DecidableEq, Repr

/-- The bytes of a packet: the header of R441, then the padded payload. -/
def Packet.bytes (k : Packet) : List Byte :=
  leBytes 2 k.dst ++ leBytes 2 k.src ++ leBytes 1 k.type ++ leBytes 1 (k.lane + 8 * ofBool k.esc) ++
    leBytes 2 k.group ++ leBytes 1 k.gen ++ leBytes 1 k.qci ++ leBytes 1 k.inst ++ leBytes 1 (ofBool k.nf) ++
    leBytes 4 k.data.length ++ leBytes 3 k.stamp ++ leBytes 1 0 ++ leBytes 8 k.ofs ++ leBytes 4 k.tag ++
    padded k.data

/-- Cut bytes into the 248-byte `DATA` parts of flits. -/
def cutFlits : Nat → List Byte → List (List Byte)
  | 0, _ => []
  | n + 1, d => (d.take 248 ++ List.replicate (248 - min 248 d.length) 0) :: cutFlits n (d.drop 248)

/-- One bit of a CRC-32 of polynomial 0x04C1_1DB7, in the bit order of `Config.crcLow` (R434, log 49). -/
def crcBit (c : BitVec 32) : BitVec 32 :=
  if Config.crcLow then (if c.getLsbD 0 then (c >>> 1) ^^^ 0xEDB88320#32 else c >>> 1)
  else if c.getLsbD 31 then (c <<< 1) ^^^ 0x04C11DB7#32 else c <<< 1

/-- One byte of it. -/
def crcByte (c : BitVec 32) (b : Byte) : BitVec 32 :=
  let v := b.setWidth 32
  (List.range 8).foldl (fun c _ => crcBit c) (c ^^^ (if Config.crcLow then v else v <<< 24))

/-- The CRC-32 of bytes. -/
def crc32 (l : List Byte) : BitVec 32 := l.foldl crcByte Config.crcFirst ^^^ Config.crcLast

/-- The 256 bytes of a flit: its first word, bytes 4 to 251, and the CRC (R434). -/
def flitBytes (ft seq cvl cred : Nat) (body : List Byte) : List Byte :=
  let b := leBytes 4 (ft * 2 ^ 30 + seq * 2 ^ 18 + cvl * 2 ^ 15 + cred * 2 ^ 8) ++
    (body ++ List.replicate (248 - body.length) 0).take 248
  b ++ leBytes 4 (crc32 b).toNat

/-- A data or MAC flit as it goes out; its credits go in control flits of their own. -/
def Flit.bytes (f : Flit) : List Byte := flitBytes (if f.lane = 8 then 3 else 1) f.seq 0 0 f.data

/-- A control flit: the next `SEQ` expected, the `NAK` bit, and a credit count for each lane (R434). -/
def ctlBytes (ack : Nat) (nak : Bool) (cred : List Nat) : List Byte :=
  flitBytes 2 0 0 0 (leBytes 2 (ack + ofBool nak * 2 ^ 15) ++ leBytes 2 0 ++
    (List.range 8).flatMap (fun v => leBytes 1 (cred.getD v 0)))

/-- Put one flit on the link and in the retry buffer. -/
def State.sendFlit (s : State) (p : Nat) (f : Flit) : State :=
  let x := s.port p
  let f := { f with seq := x.txSeq }
  let s := s.setPort p { x with txSeq := (x.txSeq + 1) % 4096, retry := x.retry ++ [f], out := f.bytes }
  s.inc (Reg.GL_TX_FLITS.N p) 1

/-- The key of the transmit slot in use: its identifier and its bytes. -/
def PortS.txKey (x : PortS) : Nat × List Byte := (Tab.get none x.keys x.txSlot).getD (0, [])

/-- Send a MAC flit over the data flits since the last one: bytes 4 to 19 hold their tag and bytes 20 to 23 the identifier of
their key. A key change takes effect there, and the flit counter starts again (R439, R554). -/
def State.sendMac (s : State) (p : Nat) : State :=
  let x := s.port p
  let tag := (List.range 16).map (Config.gcmTag x.txKey.2 x.macOver)
  let s := (s.setPort p { x with txMac := 0, macOver := [] }).sendFlit p
    { lane := 8, data := tag ++ leBytes 4 x.txKey.1, group := ((x.retry.getLast?).map (·.group)).getD 0 }
  let x := s.port p
  if x.keyGo then (s.setPort p { x with txSlot := 1 - x.txSlot, keyGo := false }).put (Reg.GL_ENC_CTR.FLITS p) 0
  else s

/-- Encrypt a flit's bytes under the transmit key: the IV is the key identifier, then the flit counter (R439). -/
def State.encrypt (s : State) (p : Nat) (data : List Byte) : List Byte :=
  let k := (s.port p).txKey
  (List.range 248).map (Config.gcmText k.2 (leBytes 4 k.1 ++ leBytes 8 (s.get (Reg.GL_ENC_CTR.FLITS p))) data)

/-- Send a data flit: it uses a credit of its lane, and with `ENC` set it goes out encrypted and steps the flit counter
(R438, R439). -/
def State.sendData (s : State) (p : Nat) (f : Flit) : State :=
  let x := s.port p
  let s := s.setPort p { x with credits := Tab.set 0 x.credits f.lane (Tab.get 0 x.credits f.lane - 1) }
  if s.flag (Reg.GL_PORT_CFG.ENC p) then
    let s := s.sendFlit p { f with data := s.encrypt p f.data }
    let x := s.port p
    (s.setPort p { x with txMac := x.txMac + 1, macOver := x.macOver ++ x.out.take 252 }).inc (Reg.GL_ENC_CTR.FLITS p) 1
  else s.sendFlit p f

/-- The flit counter at which a port stops sending (R439). -/
def encLimit : Nat := 2 ^ 48 - 2 ^ 20

/-- The port may send data and MAC flits: it is UP or HALF and its retry buffer has room (R435). -/
def State.hasRoom (s : State) (p : Nat) : Bool := s.portUp p && decide ((s.port p).retry.length < 512)

/-- The port's key is used up (R439). -/
def State.keySpent (s : State) (p : Nat) : Bool :=
  s.flag (Reg.GL_PORT_CFG.ENC p) && decide (encLimit ≤ s.get (Reg.GL_ENC_CTR.FLITS p))

/-- The place of the flit that goes out next: the first whose lane has credit; none after 64 data flits without a MAC flit, or
where the key is used up (R438, R439). -/
def State.nextFlit (s : State) (p : Nat) : Option Nat :=
  let x := s.port p
  if x.txMac ≥ 64 || s.keySpent p then none else x.waiting.findIdx? (fun f => 0 < Tab.get 0 x.credits f.lane)

/-- Send the flits that wait, in order within a lane, while the port may send and the lane has credit (R435, R438); where none
follows, a MAC flit covers what was sent since the last one (R439, log 98). -/
def State.pumpPort (s : State) (p : Nat) : Nat → State
  | 0 => s
  | n + 1 =>
    let x := s.port p
    if !s.hasRoom p then s
    else match s.nextFlit p with
      | some i => State.pumpPort ((s.setPort p { x with waiting := x.waiting.eraseIdx i }).sendData p (x.waiting.getD i {})) p n
      | none => if x.txMac = 0 then s else State.pumpPort (s.sendMac p) p n

/-- Send what a port can send now. -/
def State.pumpOut (s : State) (p : Nat) : State := s.pumpPort p (2 * (s.port p).waiting.length + 2)

/-- Give a packet to a port; it moves to the escape lane where R445 says so, and one that came on it stays. -/
def State.sendOn (s : State) (p : Nat) (k : Packet) : State :=
  let k := { k with esc := k.esc || s.hopEscapes k.dst p }
  let b := k.bytes
  let fs := (cutFlits ((b.length + 247) / 248) b).map (fun d =>
    ({ lane := if k.esc then 7 else k.lane, data := d, group := k.group } : Flit))
  let x := s.port p
  (s.setPort p { x with waiting := x.waiting ++ fs }).pumpOut p

/-- Send a packet of this device toward its destination; none where no port leads there. -/
def State.sendPacket (s : State) (k : Packet) : Option State :=
  let k := { k with src := s.get Reg.GL_DEV_ID.ID }
  (s.hopPort k.src k.dst).map (fun p => s.sendOn p k)

/-- A packet in transit leaves by the port that its route gives; one that came on the escape lane keeps it with a table and
within a dimension. Where no port leads on it is discarded and counted at the port it came by (R445). -/
def State.forward (s : State) (p : Nat) (k : Packet) : State :=
  match s.hopPort k.src k.dst with
  | none => s.inc (Reg.GL_RX_DISCARD.N p) 1
  | some q =>
    let dim (i : Nat) : Option Nat := torusDim i (s.get (Reg.GL_PORT_CFG.ROLE i))
    s.sendOn q { k with esc := k.esc && (s.flag Reg.GL_TOPO.MODE || dim p = dim q) }

/-- A 24-bit stamp p of a packet, extended from the receiver's replica value n: n − ((n[23:0] − p) mod 2^24) (R33). -/
def extendStamp (n p : Nat) : Nat := (n + 2 ^ 64 - (n % 2 ^ 24 + 2 ^ 24 - p % 2 ^ 24) % 2 ^ 24) % 2 ^ 64

/-- The fields that a header gives a packet (R441). -/
def headPacket (h : PktHead) (type : Nat) : Packet :=
  { dst := h.dst, src := h.src, type := type, lane := h.lane, esc := h.esc, group := h.group, gen := h.gen, stamp := h.stamp }

/-- A header's fields fit their widths (R441). -/
def headOk (h : PktHead) : Bool :=
  h.dst < 65536 && h.src < 65536 && h.lane < 8 && h.group < 65536 && h.gen < 256 && h.stamp < 2 ^ 24

/-- The control pairs have failed and are not restarted (R391, R424, R426). -/
def State.pairsFailed (s : State) : Bool := s.get Reg.RCV_STATUS.STATE = 1 || s.get Reg.RCV_STATUS.STATE = 2

/-- A packet arrives at a port: one for this device is delivered, its stamp extended at the port's replica; any other goes on
toward its destination (R33, R445). From the loss of the control pairs only register access goes on (R425, R426, log 121). -/
def State.arrive (s : State) (p : Nat) (k : Packet) (deliver : State → State) : State :=
  if !s.portUp p || (s.pairsFailed && k.type ≠ 5) then s
  else if k.dst = s.get Reg.GL_DEV_ID.ID then deliver { s with rxStamp := extendStamp (s.stamp (504 + p)) k.stamp }
  else s.forward p k

/-- The fields of a packet of a job (R441). -/
def State.jobPacket (s : State) (j type lane dst island : Nat) : Packet :=
  { dst := dst, type := type, lane := lane, group := s.get (Reg.SN_CFG.GROUP j),
    gen := s.get (Reg.SN_JOB_STATUS.GEN j), stamp := s.stamp island % 2 ^ 24 }

/-! ## The time tree (R447, R449) -/

/-- The device is the System Master. -/
def State.isSystemMaster (s : State) : Bool := s.get Reg.ST_CTRL.ROLE = 2

/-- The device ID one step from coordinate to coordinate along dimension d of the torus. -/
def State.torusStep (s : State) (id d : Nat) (minus : Bool) : Nat :=
  let w := ((List.range d).map s.torus).foldl (· * ·) 1
  let x := s.torus d
  let c := s.devCoord id d
  let n := if minus then (c + x - 1) % x else (c + 1) % x
  id - c * w + n * w

/-- The first hop of a device's route to another on the torus: the lowest dimension in which they differ, the
shorter way, a tie in the + direction (R445). -/
def State.torusHop (s : State) (src dst : Nat) : Option Nat :=
  match (List.range 4).find? (fun d => s.devCoord src d ≠ s.devCoord dst d) with
  | none => none
  | some d =>
    let x := s.torus d
    let up := (s.devCoord dst d + x - s.devCoord src d) % x
    some (s.torusStep src d (decide (x - up < up)))

/-- The lowest port that is UP or HALF to a neighbour. -/
def State.portTo (s : State) (id : Nat) : Option Nat :=
  (List.range 16).find? (fun p => s.portUp p && s.get (Reg.GL_PORT_STATUS.PEER p) = id)

/-- The neighbours, each once. -/
def State.neighbours (s : State) : List Nat :=
  (((List.range 16).filter s.portUp).map (fun p => s.get (Reg.GL_PORT_STATUS.PEER p))).eraseDups

/-- The children of the device in the time tree: the neighbours whose parent it is (R447). With a routing table
it does not know its neighbours' tables, and every neighbour but its own parent counts (log 46). -/
def State.timeKids (s : State) : List Nat :=
  let me := s.get Reg.GL_DEV_ID.ID
  let sys := s.get Reg.GL_MASTER.SYS
  s.neighbours.filter (fun q => q ≠ me && (
    if s.flag Reg.GL_TOPO.MODE then s.time.parent ≠ some q
    else q ≠ sys && s.torusHop q sys = some me))

/-- Send a packet to a neighbour over the lowest port to it. -/
def State.sendTo (s : State) (q : Nat) (k : Packet) : State :=
  match s.portTo q with
  | some p => s.sendOn p { k with src := s.get Reg.GL_DEV_ID.ID, dst := q }
  | none => s

/-- A Safety Net packet (R449): the message in `OFS`[7:0], what it carries in the bits above and in `TAG`. -/
def State.snPacket (s : State) (group gen kind body : Nat) : Packet :=
  { type := 2, group := group, gen := gen, stamp := s.stamp 536 % 2 ^ 24,
    ofs := kind + body % 2 ^ 56 * 256, tag := body / 2 ^ 56 }

/-- Send a Safety Net message to every child in the time tree. -/
def State.sendDown (s : State) (group gen kind body : Nat) : State :=
  s.timeKids.foldl (fun (t : State) q => t.sendTo q (t.snPacket group gen kind body)) s

/-- Send a Safety Net message to the parent in the time tree. -/
def State.sendUp (s : State) (group gen kind body : Nat) : State :=
  match s.time.parent with
  | some q => s.sendTo q (s.snPacket group gen kind body)
  | none => s

end Sys2Proof.Machine
end

