-- ==== Sys2Proof/Machine/Events.lean ====
section
/-! DEFINITION. Carousel stages, trace records, event bits, interrupt messages, rejections, and the noting of an error:
each once, for every meaning to call. -/

namespace Sys2Proof.Machine

/-! ## Carousel queues (R285 to R291). Queue q below 9 is trace queue q; 9 + 32j + x is queue x of job j. -/

/-- The register fields of one Carousel queue (R297). -/
structure CqFlds where
  maxpkt : Fld
  sizeLog2 : Fld
  roll : Fld
  full : Fld
  en : Fld
  base : Fld
  put : Fld
  get : Fld
  trunc : Fld
  drop : Fld
  evtCnt : Fld
  opened : Fld
  drops : Fld
  stall : Fld

/-- The number of queue x of job j. -/
def jobQueue (j x : Nat) : Nat := 9 + 32 * j + x

/-- The fields of queue q. -/
def cqFlds (q : Nat) : CqFlds :=
  if q < 9 then
    ⟨Reg.TQ_CFG.MAXPKT q, Reg.TQ_CFG.SIZE_LOG2 q, Reg.TQ_CFG.ROLL q, Reg.TQ_CFG.FULL q, Reg.TQ_CFG.EN q,
      Reg.TQ_BASE.ADDR q, Reg.TQ_PUT.COUNT q, Reg.TQ_GET.COUNT q, Reg.TQ_STATUS.TRUNC_EVT q,
      Reg.TQ_STATUS.DROP_EVT q, Reg.TQ_STATUS.EVT_CNT q, Reg.TQ_STATUS.OPEN q, Reg.TQ_DROPS.COUNT q,
      Reg.TQ_STALL_CLK.COUNT q⟩
  else
    let j := (q - 9) / 32
    let x := (q - 9) % 32
    ⟨Reg.JQ_CFG.MAXPKT j x, Reg.JQ_CFG.SIZE_LOG2 j x, Reg.JQ_CFG.ROLL j x, Reg.JQ_CFG.FULL j x,
      Reg.JQ_CFG.EN j x, Reg.JQ_BASE.ADDR j x, Reg.JQ_PUT.COUNT j x, Reg.JQ_GET.COUNT j x,
      Reg.JQ_STATUS.TRUNC_EVT j x, Reg.JQ_STATUS.DROP_EVT j x, Reg.JQ_STATUS.EVT_CNT j x,
      Reg.JQ_STATUS.OPEN j x, Reg.JQ_DROPS.COUNT j x, Reg.JQ_STALL_CLK.COUNT j x⟩

/-- The job that owns a queue; none for a trace queue. -/
def cqJob (q : Nat) : Option Nat := if q < 9 then none else some ((q - 9) / 32)

/-- The stages of a queue. -/
def State.cqOf (s : State) (q : Nat) : CqS := Tab.get {} s.cq q

/-- Write the stages of a queue. -/
def State.setCq (s : State) (q : Nat) (x : CqS) : State := { s with cq := Tab.set {} s.cq q x }

/-- A trace queue without a backing area (R387). -/
def State.cqNoBack (s : State) (q : Nat) : Bool := q < 9 && s.get (cqFlds q).base = 0

/-- The backing address of a position: device physical for a trace queue, job virtual otherwise. -/
def State.cqAddr (s : State) (q p : Nat) : Nat :=
  s.get (cqFlds q).base * 2 ^ 16 + p % 2 ^ s.get (cqFlds q).sizeLog2

/-- Read a backing byte; an address that does not translate reads as 0. -/
def State.cqBackByte (s : State) (q p : Nat) : Byte :=
  match cqJob q with
  | none => s.memByte (s.cqAddr q p)
  | some j => (s.devRead j (s.cqAddr q p)).getD 0

/-- The access to a backing byte: its stack or channel counts it (R347); one that a job's translation refuses is noted with
the job, its code and its address, to be raised where the command that made it ends (R329). -/
def State.noteBack (s : State) (q : Nat) (write : Bool) (p : Nat) : State :=
  let a := s.cqAddr q p
  match cqJob q with
  | none => s.countMem a 1 write
  | some j =>
    match s.accessCode j a write, s.readAddr j a with
    | 0, some d => s.countMem d 1 write
    | code, _ => if s.cqFault.isSome then s else { s with cqFault := some (j, code, a) }

/-- Write a backing byte; an address that does not translate drops it. -/
def State.setCqBackByte (s : State) (q p : Nat) (b : Byte) : State :=
  let s := s.noteBack q true p
  match cqJob q with
  | none => s.setMemByte (s.cqAddr q p) b
  | some j => (s.devWrite j (s.cqAddr q p) b).getD s

/-- A stage holds a position. -/
def CqS.inStage (x : CqS) (p : Nat) : Bool := p < x.head || x.spilled ≤ p

/-- The backing area holds a position of a stage too. -/
def CqS.isBacked (x : CqS) (p : Nat) : Bool := x.backed.any (fun r => r.1 ≤ p && decide (p < r.2))

/-- The byte at a position, wherever it lies (R285). -/
def State.cqByte (s : State) (q p : Nat) : Byte :=
  if (s.cqOf q).inStage p then Tab.get 0 (s.cqOf q).bytes p else s.cqBackByte q p

/-- Write the byte at a position, wherever it lies. -/
def State.setCqByte (s : State) (q p : Nat) (b : Byte) : State :=
  let x := s.cqOf q
  if x.inStage p then
    let s := if x.isBacked p then s.setCqBackByte q p b else s
    s.setCq q { x with bytes := Tab.set 0 x.bytes p b }
  else s.setCqBackByte q p b

/-- Write the positions from one on that only a stage holds to their backing addresses (R285, R292). -/
def State.cqFlushFrom (s : State) (q p0 : Nat) : State :=
  let x := s.cqOf q
  let put := s.get (cqFlds q).put
  if s.cqNoBack q || put ≤ p0 then s
  else
    let s := (List.range (put - p0)).foldl (fun (t : State) i =>
      if x.inStage (p0 + i) && !x.isBacked (p0 + i) then t.setCqBackByte q (p0 + i) (Tab.get 0 x.bytes (p0 + i)) else t) s
    s.setCq q { x with backed := x.backed ++ [(p0, put)] }

/-- Write every position that only a stage holds to its backing address (R292). -/
def State.cqFlush (s : State) (q : Nat) : State := s.cqFlushFrom q (s.get (cqFlds q).get)

/-- Send the oldest positions of the tail to the backing area, up to the end of their aligned burst
of 512 bytes or the last position (R285). -/
def State.cqSpillBurst (s : State) (q : Nat) : State :=
  let x := s.cqOf q
  let stop := min ((x.spilled / 512 + 1) * 512) (s.get (cqFlds q).put)
  let t := (List.range (stop - x.spilled)).foldl
    (fun t i => if x.isBacked (x.spilled + i) then t
      else t.setCqBackByte q (x.spilled + i) (Tab.get 0 x.bytes (x.spilled + i))) s
  t.setCq q { x with spilled := stop, bytes := Tab.clearRange x.bytes x.spilled (stop - x.spilled) }

/-- Move positions into the head as far as it has room: from the backing area in order, or directly
from the tail where nothing lies between the stages (R285). -/
def State.cqFill (s : State) (q : Nat) : State :=
  let x := s.cqOf q
  let room := s.get (cqFlds q).get + 4096 - x.head
  if x.head < x.spilled then
    let n := min room (x.spilled - x.head)
    let bytes := (List.range n).foldl
      (fun b i => Tab.set 0 b (x.head + i) (s.cqBackByte q (x.head + i))) x.bytes
    let s := (List.range n).foldl (fun (t : State) i => t.noteBack q false (x.head + i)) s
    s.setCq q { x with head := x.head + n, bytes := bytes, backed := x.backed ++ [(x.head, x.head + n)] }
  else
    let n := min room (s.get (cqFlds q).put - x.spilled)
    s.setCq q { x with head := x.head + n, spilled := x.spilled + n }

/-- Make room in a full tail stage: into the head if nothing lies between the stages and it has room,
otherwise the oldest burst goes to the backing area (R285). -/
def State.cqMakeRoom (s : State) (q : Nat) : State :=
  let x := s.cqOf q
  if s.get (cqFlds q).put - x.spilled < 4096 then s
  else if x.head = x.spilled ∧ x.head < s.get (cqFlds q).get + 4096 then s.cqFill q
  else if s.cqNoBack q then s
  else s.cqSpillBurst q

/-- Write bytes at the end of a queue's stream. -/
def State.cqAppend (s : State) (q : Nat) : List Byte → State
  | [] => s
  | b :: t =>
    let s := s.cqMakeRoom q
    let p := s.get (cqFlds q).put
    let x := s.cqOf q
    State.cqAppend ((s.setCq q { x with bytes := Tab.set 0 x.bytes p b }).put (cqFlds q).put (p + 1)) q t

/-- The capacity that admission counts (R287, R387). -/
def State.cqCap (s : State) (q : Nat) : Nat :=
  if s.cqNoBack q then 8192 else 2 ^ s.get (cqFlds q).sizeLog2

/-- A packet is admitted (R287). -/
def State.cqRoom (s : State) (q : Nat) : Bool :=
  s.get (cqFlds q).maxpkt + 8 ≤ s.cqCap q - (s.get (cqFlds q).put - s.get (cqFlds q).get)

/-- The length word of R286. -/
def lenWord (closed trunc : Bool) (tag len : Nat) : Nat :=
  ofBool closed * 2 ^ 63 + 2 ^ 62 * ofBool trunc + tag % 2 ^ 16 * 2 ^ 32 + len % 2 ^ 20

/-- Take n bytes from the front of a queue (R289). -/
def State.cqAdvance (s : State) (q n : Nat) : State :=
  let g := s.get (cqFlds q).get + n
  let x := s.cqOf q
  (s.setCq q { x with
    head := max x.head g, spilled := max x.spilled g, backed := x.backed.filter (fun r => decide (g < r.2)),
    bytes := Tab.clearRange x.bytes 0 g }).put (cqFlds q).get g

/-- The length word at the front of a queue. -/
def State.cqFront (s : State) (q : Nat) : Nat :=
  leNat ((List.range 8).map (fun i => s.cqByte q (s.get (cqFlds q).get + i)))

/-- A closed packet stands at the front (R289). -/
def State.cqReady (s : State) (q : Nat) : Bool :=
  s.get (cqFlds q).get < s.get (cqFlds q).put && bit (s.cqFront q) 63

/-- Pop the packet at the front. -/
def State.cqPopOne (s : State) (q : Nat) : State :=
  if s.cqReady q then s.cqAdvance q (8 + roundUp (bits (s.cqFront q) 0 20) 8) else s

/-- Empty a queue and set its counts to zero (R291). -/
def State.cqReset (s : State) (q : Nat) : State :=
  (((s.setCq q {}).put (cqFlds q).put 0).put (cqFlds q).get 0).put (cqFlds q).opened 0

/-! ## Interrupt messages (R389, R390) -/

/-- A vector's message can be sent: MSI-X enabled, and neither the function nor the vector masked. -/
def State.sendable (s : State) (v : Nat) : Bool :=
  s.pcie.msixEnable && !s.pcie.functionMask && !bit (s.get (Reg.MSIX_TABLE.W v 1)) 32

/-- Send a vector's message, or hold it in the pending-bit array while it is unsendable. -/
def State.sendVector (s : State) (v : Nat) : State :=
  if s.sendable v then { s with msgs := s.msgs ++ [v] }
  else s.put Reg.MSIX_PBA.PENDING (setBit (s.get Reg.MSIX_PBA.PENDING) v true)

/-- The enabled event bits of a vector's summary (R389). -/
def State.vecSummary (s : State) (v : Nat) : Bool :=
  let en (k : Nat) : Bool := bit (s.get Reg.ERR_INT_EN.EN) k
  if v < 8 then
    s.flag (Reg.JOB_STATUS.HALT_EVT v) || s.flag (Reg.JOB_STATUS.DONE_EVT v) ||
      s.flag (Reg.JOB_STATUS.RESTART_EVT v)
  else match v with
    | 8 => s.flag Reg.ERR_DEV_STATUS.FAULT_EVT && en 0
    | 9 => s.flag Reg.ERR_DEV_STATUS.POLICY_EVT && en 1
    | 10 => s.flag Reg.ERR_DEV_STATUS.NET_LOST_EVT && en 2
    | 11 => (s.flag Reg.ERR_DEV_STATUS.CORR_EVT && en 3) || (s.flag Reg.ERR_DEV_STATUS.TRC_EVT && en 4) ||
        (s.flag Reg.ERR_DEV_STATUS.PIN_EVT && en 5)
    | 29 => s.flag Reg.DEV_STATUS.READY_EVT
    | _ => false

/-- Set an event bit whose vector's message goes out when its summary becomes 1 (R390). While the control pairs have
failed, `NET_LOST_EVT` is the only bit of `ERR_DEV_STATUS` that is still set (R391). -/
def State.setEvent (s : State) (f : Fld) (v : Nat) : State :=
  let quiet := s.pairsFailed && f.off = 0x700000 && f.lo ≠ 34
  let t := if quiet then s else s.put f 1
  if !s.vecSummary v && t.vecSummary v then t.sendVector v else t

/-! ## Trace records (R42, R379, R385) -/

/-- The 32 bytes of a trace record. -/
def traceBytes (stamp island event job device payload seq : Nat) : List Byte :=
  leBytes 8 stamp ++ leBytes 2 (island % 1024) ++ leBytes 2 event ++ leBytes 1 job ++ leBytes 1 0 ++
    leBytes 2 device ++ leBytes 8 payload ++ leBytes 4 seq ++ leBytes 4 0

/-- Drop a packet: `CQ_DROPS`, `DROP_EVT`, and `TRC_EVT` for a trace queue (R290, R391). -/
def State.cqDropFull (s : State) (q : Nat) : State :=
  let s := (s.incSat (cqFlds q).drops 1).put (cqFlds q).drop 1
  if q < 9 then s.setEvent Reg.ERR_DEV_STATUS.TRC_EVT 11 else s

/-- Put one whole packet in a queue that drops when full: the trace queues (R385 to R387). It waits while another is open
(R287). -/
def State.cqPush (s : State) (q tag : Nat) (data : List Byte) : State :=
  if !s.flag (cqFlds q).en then s.incSat (cqFlds q).drops 1
  else if (s.cqOf q).opened.isSome then s.setCq q { s.cqOf q with waiting := (s.cqOf q).waiting ++ [(tag, data)] }
  else if !s.cqRoom q then s.cqDropFull q
  else s.cqAppend q (leBytes 8 (lenWord true false tag data.length) ++ padded data)

/-- The packets that waited while one was open are admitted in the order in which they came (R287). -/
def State.cqAdmitWaiting (s : State) (q : Nat) : State :=
  let x := s.cqOf q
  x.waiting.foldl (fun (t : State) k => t.cqPush q k.1 k.2) (s.setCq q { x with waiting := [] })

/-- The device's identifier in a record: zero when stand-alone. -/
def State.deviceId (s : State) : Nat :=
  if s.get Reg.ST_CTRL.ROLE = 0 then 0 else s.get Reg.GL_DEV_ID.ID

/-- Emit one trace record of an island to the stream of a job, or of the device. -/
def State.trace (s : State) (island event : Nat) (job : Option Nat) (payload : Nat) : State :=
  let seq := Tab.get 0 s.islSeq island
  let jb := match job with
    | some j => 0x80 + j
    | none => 0
  let data := traceBytes (s.stamp island) island event jb s.deviceId payload seq
  let s := { s with islSeq := Tab.set 0 s.islSeq island ((seq + 1) % 2 ^ 32) }
  s.cqPush (match job with
    | some j => 1 + j
    | none => 0) event data

/-- Add to a job flag, saturating at 0xFFFF (R68). A saturating add sets `FLAG_SAT_EVT` and writes
trace record 0x0150 with the flag and the source (0 context, 1 host, 2 collective engine, 3 carry
record), from the source's island. -/
def State.addJobFlag (s : State) (j idx n src island : Nat) : State :=
  let v := s.get (Reg.JOB_FLAG.COUNT j idx) + n
  if v ≤ 0xFFFF then s.put (Reg.JOB_FLAG.COUNT j idx) v
  else
    let s := (s.put (Reg.JOB_FLAG.COUNT j idx) 0xFFFF).put (Reg.JOB_STATUS.FLAG_SAT_EVT j) 1
    s.trace island 0x0150 (some j) (idx + src * 256)

/-- A corrected event: its record, `ERR_CORR.TOTAL`, and `CORR_EVT` at the threshold (R380, R391). -/
def State.corrected (s : State) (island event payload : Nat) : State :=
  let s := (s.trace island event none payload).inc Reg.ERR_CORR.TOTAL 1
  let th := s.get Reg.ERR_CORR.THRESH
  if th ≠ 0 ∧ s.get Reg.ERR_CORR.TOTAL % th = 0 then s.setEvent Reg.ERR_DEV_STATUS.CORR_EVT 11 else s

/-! ## Rejections (R60, R61, R379) -/

/-- Count a raise of a code (R379). -/
def State.countErr (s : State) (code : Nat) : State := s.inc (Reg.ERR_CNT.N code) 1

/-- A rejected host command or register write: counted, traced with its offset or entry index, and
charged to the job it names or to the device; no other effect (R60, R61). -/
def State.reject (s : State) (code off : Nat) (job : Option Nat) : State :=
  let s := (s.countErr code).trace 523 code none (off % 2 ^ 32)
  match job with
  | some j => s.incSat (Reg.JOB_ILLEGAL_CNT.COUNT j) 1
  | none => s.incSat Reg.ERR_ILLEGAL_CNT.COUNT 1

/-- A write of the host reaches the device: not until step 2 of a warm reset's start-up completes (R522), and not where the
device has shut down (R495). -/
def State.hostReaches (s : State) (f : State → State) : State := if s.boot.dark || s.aon.down then s else f s

/-- A write of the host to a register outside the Recovery window: while the control pairs have failed nothing else in the
device changes state (R425, log 121). -/
def State.barWrite (s : State) (f : State → State) : State := if s.pairsFailed then s else s.hostReaches f

/-- End whatever a context is blocked in: `BLOCK` and `CTX_WAIT` read zero. -/
def State.unblock (s : State) (g c : Nat) : State :=
  (((s.setCtx g c { s.ctxOf g c with block := none, curtain := none }).put (Reg.CTX_STATUS.BLOCK g c) 0).put
    (Reg.CTX_WAIT.FLAG g c) 0).put (Reg.CTX_WAIT.SINCE g c) 0

/-- The command rings. -/
def State.ringOfNum (s : State) (q : Nat) : RingS := Tab.get {} s.rings q

/-- Write a command ring. -/
def State.setRingNum (s : State) (q : Nat) (r : RingS) : State := { s with rings := Tab.set {} s.rings q r }

/-- A ring's command is done: its completion entry may be written, after those of the commands that were done before it
(R475). -/
def State.ringDone (s : State) (q idx code result : Nat) : State :=
  let r := s.ringOfNum q
  if r.cmds.any (fun c => c.idx = idx && !c.done) then
    s.setRingNum q { r with
      cmds := r.cmds.map (fun c =>
        if c.idx = idx then { c with started := true, done := true, code := code, result := result } else c)
      order := r.order ++ [idx] }
  else s

/-! ## Noting an error (R374 to R379, R391) -/

/-- The class of a code (R375). -/
inductive ErrClass where
  | stops | fault | policy | counted | external
  deriving DecidableEq, Repr

/-- The class of a code; `PERM_RANGE` with `TRAP` is raised as 0x24 with a program's consequence by
its caller. -/
def errClass (code : Nat) : ErrClass :=
  if code ≤ 0x0B then .stops
  else if 0x10 ≤ code ∧ code ≤ 0x16 then .fault
  else if 0x20 ≤ code ∧ code ≤ 0x22 then .policy
  else if code = 0x30 then .external
  else .counted

/-- An event waits for the event receiver (R570): a fault 0, the loss of a stack or channel 1, `HOT_EVT` 2, `NET_LOST`
3. -/
def State.pldmEvent (s : State) (kind : Nat) : State :=
  { s with mgmt := { s.mgmt with events := s.mgmt.events ++ [kind] } }

/-- Record a fault in `ERR_LAST_FAULT` and its stamp. -/
def State.recordFault (s : State) (e : ErrAt) (charged : Option Nat) : State :=
  ((((s.put Reg.ERR_LAST_FAULT.ISLAND e.island).put Reg.ERR_LAST_FAULT.JOBV (ofBool charged.isSome)).put
    Reg.ERR_LAST_FAULT.JOB (charged.getD 0)).put Reg.ERR_LAST_FAULT.CODE e.code).put
    Reg.ERR_LAST_FAULT_T.STAMP (s.stamp e.island)

/-- Record a fault and set `FAULT_EVT`, or a policy code in its registers. -/
def State.noteDevice (s : State) (e : ErrAt) (charged : Option Nat) : State :=
  let jv := ofBool charged.isSome
  let jn := charged.getD 0
  match errClass e.code with
  | .fault => ((s.recordFault e charged).setEvent Reg.ERR_DEV_STATUS.FAULT_EVT 8).pldmEvent 0
  | .policy =>
    (((s.put Reg.ERR_LAST_POLICY.ISLAND e.island).put Reg.ERR_LAST_POLICY.JOBV jv).put
      Reg.ERR_LAST_POLICY.JOB jn).put Reg.ERR_LAST_POLICY.CODE e.code |>.setEvent
      Reg.ERR_DEV_STATUS.POLICY_EVT 9
  | _ => s

/-- The job an error is charged to (R377): the one it names, while that is RUNNING or RESTORING. -/
def State.chargedTo (s : State) (e : ErrAt) : Option Nat :=
  match e.job with
  | some j => if s.jobState j = 2 ∨ s.jobState j = 3 then some j else none
  | none => none

/-- The job an error is only attributed to (R74): the one it names, while that is HALTING or HALTED. -/
def State.attributedTo (s : State) (e : ErrAt) : Option Nat :=
  match e.job with
  | some j => if s.jobState j = 4 ∨ s.jobState j = 5 then some j else none
  | none => none

/-- Note an error: count it, trace it to the stream of whoever it is charged or attributed to, and record it (R74,
R377 to R379). What it makes of its job is `State.raiseErr`'s. -/
def State.noteErr (s : State) (e : ErrAt) : State :=
  let charged := s.chargedTo e
  let attributed := s.attributedTo e
  let s := s.countErr e.code
  let s := if e.traced then s.trace e.island e.code (charged.or attributed) e.payload else s
  let s := if e.troupe = 0xFF || !e.ofOp then s else s.put (Reg.CTX_STATUS.CODE e.troupe e.ctxn) e.code
  let s := match attributed with
    | some j => s.incSat (Reg.JOB_HALT_INFO.EXTRA j) 1
    | none => s
  let s := s.noteDevice e charged
  match charged with
  | some j => if errClass e.code = .external then s else s.put (Reg.JOB_STATUS.LAST_CODE j) e.code
  | none => s

/-- An error of an engine operation in a core (R594). -/
def State.errOfCore (s : State) (g c cx eng code pc payload : Nat) : ErrAt :=
  { code := code, island := coreIsland g cx, payload := payload, job := s.ctxJob g c,
    unit := eng + 1, troupe := g, ctxn := c, core := cx, pc := pc }

/-- Note an error of an engine operation whose code stops no job: a policy or a counted code (R376). -/
def State.coreNote (s : State) (g c cx eng code pc payload : Nat) : State :=
  s.noteErr (s.errOfCore g c cx eng code pc payload)

end Sys2Proof.Machine
end

