-- ==== Sys2Proof/Machine/Crossings.lean ====
section
/-! DEFINITION. The words that wait at an island that does not acknowledge them (R18, R487, R498, R529). -/

namespace Sys2Proof.Machine

/-- The words that wait in an island's inbound crossings, oldest first. -/
def State.crossing (s : State) (i : Nat) : List XWord := Tab.get [] s.crossings i

/-- Write an island's waiting words. -/
def State.setCrossing (s : State) (i : Nat) (l : List XWord) : State :=
  { s with crossings := Tab.set [] s.crossings i l }

/-- The island that holds the registers of a BAR0 offset, of the islands that can be held (R22): a Guyline port, a
Ringmaster or a core. -/
def islandOfOff (off : Nat) : Option Nat :=
  if 0xB00000 ≤ off ∧ off < 0xC00000 then some (504 + (off - 0xB00000) / 0x10000)
  else if 0x1000000 ≤ off ∧ off < 0x4000000 then
    let g := (off - 0x1000000) / 0x200000
    let o := off % 0x200000
    some (if o < 0x100000 then rmIsland g else coreIsland g ((o - 0x100000) / 0x10000))
  else none

/-- The island that a logic test holds from save to the end of restore (R529). -/
def State.testIsland (s : State) : Option Nat :=
  let t := s.get Reg.HS_STATUS.TARGET
  if s.flag Reg.HS_STATUS.BUSY && s.get Reg.HS_STATUS.PHASE ≠ 0 && t / 4096 ≤ 1 then
    some (if t / 4096 = 0 then t % 4096 else rmIsland (t % 4096)) else none

/-- An island does not acknowledge what arrives: its clock has stopped (R498), or a test holds it (R529). -/
def State.islandHeld (s : State) (i : Nat) : Bool :=
  s.stopped.contains i || s.testIsland = some i || (i < 384 && s.flag (Reg.SP_STATUS.CLEARING (i / 16) (i % 16)))

/-- A register access waits at the island that holds its register. -/
def State.accessHeld (s : State) (off : Nat) : Bool := (islandOfOff off).any s.islandHeld

/-- A word joins the end of an island's crossing (R18). -/
def State.pushWord (s : State) (off : Nat) (w : XWord) : State :=
  match islandOfOff off with
  | some i => s.setCrossing i (s.crossing i ++ [w])
  | none => s

/-- A register write reaches its island, or waits at one that is held (R18). -/
def State.atIsland (s : State) (off val : Nat) (f : State → State) : State :=
  if s.accessHeld off then s.pushWord off { off := off, val := val } else f s

end Sys2Proof.Machine
end

