-- ==== Sys2Proof/Machine/Flags.lean ====
section
/-! DEFINITION. Flags and waits (R67 to R70): the counts, saturating adds, who waits on a flag, the
order in which waits are served, and the words of engine instructions that name flags. -/

namespace Sys2Proof.Machine

/-- Bits of an instruction body. -/
def fbits (w : Body) (lo n : Nat) : Nat := bits w.toNat lo n

/-- `NV`: a nest is named (R90). -/
def wNV (w : Body) : Bool := fbits w 119 1 = 1
/-- `NEST`. -/
def wNest (w : Body) : Nat := fbits w 115 4
/-- `PX`. -/
def wPX (w : Body) : Bool := fbits w 114 1 = 1
/-- `WV`: the instruction waits on `WFLAG`. -/
def wWV (w : Body) : Bool := fbits w 113 1 = 1
/-- `WFLAG`. -/
def wWFlag (w : Body) : Nat := fbits w 104 9
/-- `SV`: the instruction signals `SFLAG`. -/
def wSV (w : Body) : Bool := fbits w 103 1 = 1
/-- `SFLAG`. -/
def wSFlag (w : Body) : Nat := fbits w 94 9
/-- `MOD`, bits [93:88]. -/
def wMod (w : Body) : Nat := fbits w 88 6
/-- Descriptor field Dk (R90, R126): D0 to D5 from bit 80 down, D6 to D9 below them. -/
def wD (w : Body) (k : Nat) : Nat := fbits w (80 - 8 * k) 8

/-- The count of a flag as a context names it: its own, or its job's (R67). -/
def State.flagGet (s : State) (g c f : Nat) : Nat :=
  if f < 64 then s.get (Reg.CTX_FLAG.COUNT g c f)
  else s.get (Reg.JOB_FLAG.COUNT ((s.ctxJob g c).getD 0) (f - 64))

/-- Write the count of a flag as a context names it. -/
def State.flagPut (s : State) (g c f v : Nat) : State :=
  if f < 64 then s.put (Reg.CTX_FLAG.COUNT g c f) v
  else s.put (Reg.JOB_FLAG.COUNT ((s.ctxJob g c).getD 0) (f - 64)) v

/-- Add to a flag that a context names: `fset`, or the signal of a retired instruction (R68). -/
def State.addFlag (s : State) (g c f n : Nat) : State :=
  let v := s.flagGet g c f + n
  let s := if v ≤ 0xFFFF then s else s.put (Reg.CTX_STATUS.FLAG_SAT g c) 1
  if f < 64 then s.put (Reg.CTX_FLAG.COUNT g c f) (min v 0xFFFF)
  else match s.ctxJob g c with
    | some j => s.addJobFlag j (f - 64) n 0 (rmIsland g)
    | none => s

/-- One wait on a flag: when it began, its troupe, context, order place (0 Ringmaster, 1 to 4
engines) and the count it needs. -/
structure Waiter where
  since : Nat
  g : Nat
  c : Nat
  place : Nat
  need : Nat
  deriving DecidableEq, Repr

/-- The operation of a queue that waits to begin: the first that has begun in no core. -/
def State.frontier (s : State) (g c e : Nat) : Option QEntry := (s.queue g c e).find? (fun q => q.begun = 0)

/-- The flag wait of a queue, if it makes one, and the stamp at which it began (R68): that of the operation that waits to
begin, from when it first stood at a core's head until the wait is served. -/
def State.engineWait (s : State) (g c e : Nat) : Option (Nat × Nat) :=
  match s.frontier g c e with
  | some q => match q.since with
    | some t => if wWV q.word && !q.waited then some (wWFlag q.word, t) else none
    | none => none
  | none => none

/-- The waits of one context on a flag. -/
def State.ctxWaiters (s : State) (g c f : Nat) : List Waiter :=
  (match (s.ctxOf g c).block with
    | some (.fwait f' n _, t) => if f' = f then [⟨t, g, c, 0, n⟩] else []
    | _ => []) ++
  (List.range 4).filterMap (fun e => match s.engineWait g c e with
    | some (f', t) => if f' = f then some ⟨t, g, c, e + 1, 1⟩ else none
    | none => none)

/-- Every wait on the flag that a context names f: its own context's, or those of its job (R67). -/
def State.waiters (s : State) (g c f : Nat) : List Waiter :=
  if f < 64 then s.ctxWaiters g c f
  else match s.ctxJob g c with
    | some j => (s.jobCtxs j).flatMap (fun p => s.ctxWaiters p.1 p.2 f)
    | none => []

/-- One wait is served before another (R70). -/
def Waiter.before (a b : Waiter) : Bool :=
  if a.since ≠ b.since then a.since < b.since
  else if a.g ≠ b.g then a.g < b.g
  else if a.c ≠ b.c then a.c < b.c
  else a.place < b.place

/-- The first, in the order of R70, of the waits that a count satisfies. -/
def firstWaiter (ws : List Waiter) (count : Nat) : Option Waiter :=
  (ws.filter (fun w => w.need ≤ count)).foldl (fun b w => match b with
    | none => some w
    | some a => some (if w.before a then w else a)) none

/-! ## The program counter (R97) -/

/-- `CTX_PC` as a byte address. -/
def State.pc (s : State) (g c : Nat) : Nat := s.get (Reg.CTX_PC.ADDR g c) * 16

/-- Set `CTX_PC`. -/
def State.setPc (s : State) (g c a : Nat) : State := s.put (Reg.CTX_PC.ADDR g c) (a / 16)

/-- The back-edge (R97): levels whose body ends at the next address count, innermost first, until one
goes round again. -/
def loopBack : Nat → Nat → List LoopLevel → Nat × List LoopLevel
  | 0, pc, ls => (pc, ls)
  | _ + 1, pc, [] => (pc, [])
  | n + 1, pc, l :: t =>
    if pc ≠ l.stop then (pc, l :: t)
    else if l.index + 1 < l.count then (l.start, { l with index := l.index + 1 } :: t)
    else loopBack n pc t

/-- The instruction at `CTX_PC` has completed: go to the next one. -/
def State.advance (s : State) (g c : Nat) : State :=
  let x := s.ctxOf g c
  let r := loopBack 4 (s.pc g c + 16) x.loops
  (s.setCtx g c { x with loops := r.2 }).setPc g c r.1

/-- A wait of a context's issue ends and its instruction completes (R81). -/
def State.wake (s : State) (g c : Nat) : State :=
  ((s.unblock g c).put (Reg.CTX_STATUS.STATE g c) 1).advance g c

/-- Serve the waits of Ringmasters on a flag in the order of R70, up to the first wait of an engine,
which `ENGINE_WAIT_SATISFIED` serves. -/
def State.serveFlag (s : State) (g c f : Nat) : Nat → State
  | 0 => s
  | fuel + 1 =>
    match firstWaiter (s.waiters g c f) (s.flagGet g c f) with
    | some w =>
      if w.place = 0 then
        let s := s.flagPut g c f (s.flagGet g c f - w.need)
        State.serveFlag (s.wake w.g w.c) g c f fuel
      else s
    | none => s

/-- An add to a flag followed by the test of the waits on it, where the flag is the context's own; the
waits on a job flag are tested when the add becomes visible (R70). -/
def State.signalFlag (s : State) (g c f n : Nat) : State :=
  let s := s.addFlag g c f n
  if f < 64 then s.serveFlag g c f 48 else s

/-- The limit of a wait in clk (R69): none for 0. -/
def waitLimit (t : Nat) : Option Nat := if t = 0 then none else some (2 ^ t)

/-- A timeout field holds a value of R69. -/
def tmoOk (t : Nat) : Bool := t = 0 || (10 ≤ t && t ≤ 34)

end Sys2Proof.Machine
end

