-- ==== Sys2Proof/Machine/Operands.lean ====
section
/-! DEFINITION. Operand forms: loop nests (R54 to R56), tensor descriptors (R299 to R308), their
validation, the coordinates and addresses of their elements and block scales, and the reading and
writing of tiles with the conversion, rounding, padding and counting every writer shares. -/

namespace Sys2Proof.Machine

/-- A step of a computation on operands: an answer, or an error code with its payload. -/
abbrev Run (α : Type) := Except (Nat × Nat) α

/-! ## Loop nests -/

/-- The 256 bytes of nest k of a context as one number. -/
def State.nestNat (s : State) (g c k : Nat) : Nat :=
  (List.range 32).foldl (fun a i => a + 2 ^ (64 * i) * s.get (Reg.NEST.W g c k i)) 0

/-- A loop nest as one instruction uses it: iteration counts of levels 0 to 3, increments by level and
slot, increments per unit of `cx`, and the index of `PX` if i3 is taken from the program loop. -/
structure Nest where
  counts : List Nat
  inc : List (List Int)
  cxInc : List Int
  i3 : Option Nat
  deriving DecidableEq, Repr

/-- The nest of an instruction that names none: one iteration, no displacement (R55). -/
def Nest.none : Nest := ⟨[1, 1, 1, 1], [], [], .none⟩

/-- The levels field of a nest. -/
def nestLevels (n : Nat) : Nat := bits n 64 8

/-- The reserved bytes of a nest are zero (R54). -/
def nestZeros (n : Nat) : Bool := bits n 72 56 = 0 && bits n 448 64 = 0 && bits n 1792 256 = 0

/-- Decode a nest; `px` is the captured loop index of an instruction with `PX` 1. -/
def mkNest (n : Nat) (px : Option Nat) : Nest :=
  let lv := nestLevels n
  { counts := (List.range 4).map (fun l => if l < lv then bits n (16 * l) 16 + 1 else 1)
    inc := (List.range 4).map (fun l => (List.range 10).map (fun s => signed 32 (bits n (512 + 320 * l + 32 * s) 32)))
    cxInc := (List.range 10).map (fun s => signed 32 (bits n (128 + 32 * s) 32))
    i3 := px }

/-- The increment of a slot at a level. -/
def Nest.incAt (n : Nest) (l s : Nat) : Int := (n.inc.getD l []).getD s 0

/-- The increment of a slot per unit of `cx`. -/
def Nest.cxAt (n : Nest) (s : Nat) : Int := n.cxInc.getD s 0

/-- The number of iterations. -/
def Nest.total (n : Nest) : Nat := n.counts.foldl (· * ·) 1

/-- The index tuple of iteration number i, i0 varying fastest; i3 is the program loop's under `PX`. -/
def Nest.tuple (n : Nest) (i : Nat) : List Nat :=
  let c k := n.counts.getD k 1
  let i3 := match n.i3 with
    | some x => x
    | .none => i / (c 0 * c 1 * c 2) % c 3
  [i % c 0, i / c 0 % c 1, i / (c 0 * c 1) % c 2, i3]

/-- The displacement of a slot in iteration i on core `cx` (R55). -/
def Nest.off (n : Nest) (i s cx : Nat) : Int :=
  let t := n.tuple i
  n.incAt 0 s * (t.getD 0 0 : Nat) + n.incAt 1 s * (t.getD 1 0 : Nat) + n.incAt 2 s * (t.getD 2 0 : Nat) +
    n.incAt 3 s * (t.getD 3 0 : Nat) + n.cxAt s * (cx : Nat)

/-- The nest of an instruction: the one it names, or none. -/
def State.nestOf (s : State) (g c : Nat) (w : Body) (px : Nat) : Nest :=
  if wNV w then mkNest (s.nestNat g c (wNest w)) (if wPX w then some px else .none) else Nest.none

/-- The checks of R56 and R93 on a named nest: levels, reserved bytes, and for each used slot whose
format is narrower than a byte, increments that are multiples of 32. -/
def nestOk (n : Nat) (px : Bool) (narrow : List Nat) : Bool :=
  let lv := nestLevels n
  let x := mkNest n .none
  let used (l : Nat) : Bool := l < lv || (px && l = 3)
  (1 ≤ lv && lv ≤ (if px then 3 else 4)) && nestZeros n &&
  narrow.all (fun sl => x.cxAt sl % 32 = 0 &&
    (List.range 4).all (fun l => !used l || decide (x.incAt l sl % 32 = 0)))

/-! ## Descriptors -/

/-- A tensor descriptor (R299, R300) in its decoded form. -/
structure Desc where
  base : Nat
  sofs : Int
  fmt : Nat
  space : Nat
  keep : Bool
  layout : Nat
  wmode : Bool
  resv : Nat
  dims : Nat
  nimg : Nat
  padval : Nat
  tag : Nat
  stride : List Int
  dimw : List Nat
  deriving DecidableEq, Repr

/-- The 64 bytes of descriptor d of a context as one number. -/
def State.descNat (s : State) (g c d : Nat) : Nat :=
  (List.range 8).foldl (fun a i => a + 2 ^ (64 * i) * s.get (Reg.DESC.W g c d i)) 0

/-- Decode a descriptor. -/
def mkDesc (n : Nat) : Desc :=
  { base := bits n 0 64
    sofs := signed 32 (bits n 64 32)
    fmt := bits n 96 8
    space := bits n 104 3
    keep := bit n 107
    layout := bits n 108 2
    wmode := bit n 110
    resv := bits n 111 1
    dims := bits n 112 3
    nimg := bits n 115 3
    padval := bits n 118 2
    tag := bits n 120 8
    stride := (List.range 6).map (fun i => signed 32 (bits n (128 + 32 * i) 32))
    dimw := (List.range 6).map (fun i => bits n (320 + 32 * i) 32) }

/-- Descriptor d of a context. -/
def State.desc (s : State) (g c d : Nat) : Desc := mkDesc (s.descNat g c d)

/-- `STRIDE[k]`. -/
def Desc.str (d : Desc) (k : Nat) : Int := d.stride.getD k 0
/-- `EXT[k]`, decoded. -/
def Desc.ext (d : Desc) (k : Nat) : Nat := bits (d.dimw.getD k 0) 0 16 + 1
/-- `TILE[k]`, decoded. -/
def Desc.tile (d : Desc) (k : Nat) : Nat := bits (d.dimw.getD k 0) 16 12 + 1
/-- `PADLO[k]`. -/
def Desc.padlo (d : Desc) (k : Nat) : Nat := bits (d.dimw.getD k 0) 28 4

/-- The set N of R301: the dimensions in use with a nonzero stride, ascending. -/
def Desc.nset (d : Desc) : List Nat := (List.range 6).filter (fun k => k < d.dims && d.str k ≠ 0)

/-- The format of a descriptor; FP32 stands for a code that is none, which validation refuses. -/
def Desc.f (d : Desc) : Fmt := (fmtOf d.fmt).getD fp32

/-- The number of elements of a tile. -/
def Desc.tileSize (d : Desc) : Nat := (List.range 6).foldl (fun a k => a * d.tile k) 1

/-- The tile coordinate of element number n in element order, dimension 0 fastest. -/
def Desc.coord (d : Desc) (n : Nat) : List Nat :=
  ((List.range 6).foldl (fun (a : List Nat × Nat) k => (a.1 ++ [a.2 % d.tile k], a.2 / d.tile k)) ([], n)).1

/-- The tile origin of a displacement (R302); none where it is not on an element. -/
def Desc.origin (d : Desc) (off : Int) : Option (List Int) :=
  let ns := d.nset
  let r := ns.reverse.foldl (fun (a : List (Nat × Int) × Int) k =>
    let l : Int := ns.foldl (fun x e => if e < k ∧ d.str e < 0 then x + ((d.ext e : Int) - 1) * d.str e else x) 0
    let st := d.str k
    let q := if 0 < st then (a.2 - l) / st else -((a.2 - l) / (-st))
    ((k, q) :: a.1, a.2 - q * st)) ([], off)
  if r.2 = 0 then
    some ((List.range 6).map (fun k => ((r.1.find? (fun p => p.1 = k)).map (·.2)).getD 0))
  else none

/-- An operand placed for one iteration: its descriptor, displacement, origin, and the captured
storage exponent of its tag. -/
structure Opnd where
  d : Desc
  off : Int
  org : List Int
  exp : Int
  deriving DecidableEq, Repr

/-- The absolute coordinate of dimension k at tile coordinate t (R303). -/
def Opnd.abs (o : Opnd) (t : List Nat) (k : Nat) : Int :=
  o.org.getD k 0 + (t.getD k 0 : Nat) - (o.d.padlo k : Nat)

/-- The element at t is valid (R303). -/
def Opnd.valid (o : Opnd) (t : List Nat) : Bool :=
  o.d.nset.all (fun k => 0 ≤ o.abs t k && decide (o.abs t k < (o.d.ext k : Nat)))

/-- The element offset at t (R303). -/
def Opnd.offset (o : Opnd) (t : List Nat) : Int :=
  (List.range 6).foldl (fun a k => a + ((t.getD k 0 : Int) - (o.d.padlo k : Int)) * o.d.str k) o.off

/-- The valid extent of dimension k of a tile with `PADLO` 0. -/
def Opnd.validExt (o : Opnd) (k : Nat) : Nat :=
  (min (o.d.tile k : Int) ((o.d.ext k : Int) - o.org.getD k 0)).toNat

/-- The array class of a format (R129); 0 for none. -/
def classOf : Nat → Nat
  | 0x02 => 1
  | 0x03 => 2
  | 0x08 => 3
  | 0x09 => 3
  | 0x0A => 3
  | 0x0B => 3
  | 0x04 => 4
  | 0x0C => 5
  | 0x0D => 5
  | 0x0E => 5
  | _ => 0

/-- The K-elements per cell of a class (R129). -/
def groupOf : Nat → Nat
  | 3 => 4
  | 4 => 4
  | 5 => 8
  | _ => 1

/-- p of a descriptor's format. -/
def Desc.p (d : Desc) : Nat := groupOf (classOf d.fmt)

/-- q of R306: lines per feed line. -/
def Desc.q (d : Desc) : Nat := if d.fmt = 0x0C ∨ d.fmt = 0x0D then 2 else 1

/-- The bytes of a slot of layout 1 or 2 (R306, R307). -/
def Desc.slotSize (d : Desc) : Nat :=
  (if d.layout = 1 then d.tile 1 + 63 else 64) * d.q * 256

/-- The bytes of a scale slot of layout 1 or 2. -/
def Desc.scaleSlot (d : Desc) : Nat :=
  if d.layout = 1 then (d.tile 1 + 63 + 15) / 16 * 256 else d.p / 2 * 256

/-- The slot of the tile at an origin (R308). -/
def Opnd.slot (o : Opnd) : Nat :=
  let n := ((List.range 6).foldl (fun (a : Int × Int) k =>
    (a.1 + o.org.getD k 0 / (o.d.tile k : Nat) * a.2,
      a.2 * (((o.d.ext k + o.d.tile k - 1) / o.d.tile k : Nat) : Int))) (0, 1)).1
  (n % (2 ^ o.d.nimg : Nat)).toNat

/-- Where an element's code lies: byte address and bit within it, by layout (R303, R306, R307). -/
def Opnd.addr (o : Opnd) (t : List Nat) : Int × Nat :=
  let w := o.d.f.width
  if o.d.layout = 0 then
    let bo := o.offset t * (w : Nat)
    ((o.d.base : Nat) + bo / 8, (bo % 8).toNat)
  else
    let p := o.d.p
    let k := t.getD 0 0 / p
    let i := t.getD 0 0 % p
    let line := if o.d.layout = 1 then t.getD 1 0 + k else k
    let pos := if o.d.layout = 1 then k else t.getD 1 0
    let bitOff := (pos * p + i) * w
    (((o.d.base + o.slot * o.d.slotSize + line * o.d.q * 256 + bitOff / 8 : Nat) : Int), bitOff % 8)

/-- Where an element's block scale lies (R304, R306, R307). -/
def Opnd.scaleAddr (o : Opnd) (t : List Nat) : Int :=
  if o.d.layout = 0 then
    (o.d.base : Nat) + o.d.sofs + o.abs t 0 / 32 +
      (List.range 6).foldl (fun a k => if 1 ≤ k ∧ k ∈ o.d.nset then a + o.abs t k * (o.d.str k / 32) else a) 0
  else
    let b := t.getD 0 0 / 32
    let inSlot := if o.d.layout = 1 then 16 * (t.getD 1 0 + 32 / o.d.p * b) + b else 64 * b + t.getD 1 0
    (o.d.base : Nat) + o.d.sofs + ((o.slot * o.d.scaleSlot + inSlot : Nat) : Int)

/-- The bits of `BASE` that each space leaves (R298). -/
def baseOk (space base : Nat) : Bool :=
  match space with
  | 0 => base < 2 ^ 52
  | 1 => base < 2 ^ 22
  | 2 => bits base 22 10 = 0 && bits base 41 23 = 0 && bits base 32 9 < 384
  | 3 => true
  | 4 => base < 2 ^ 8
  | 5 => bits base 4 12 = 0 && bits base 40 24 = 0
  | _ => false

/-- The part an instruction gives a descriptor (R305, R315): allowed spaces and layouts, and whether
it writes, may use atomic mode, or may send packets. -/
structure Role where
  spaces : List Nat
  layouts : List Nat
  writes : Bool := false
  atomic : Bool := false
  packets : Bool := false
  deriving DecidableEq, Repr

/-- Rules 1 and 2 to 8 of R301, in order; 0 passes. `portOk` is the named port's `GL_PORT_MASK` bit. -/
def Desc.check (d : Desc) (r : Role) (portOk : Bool) : Nat :=
  let f := d.f
  let unusedOk := (List.range 6).all (fun k => k < d.dims || (d.str k = 0 && d.dimw.getD k 0 = 0))
  let rule1 := (fmtOf d.fmt).isSome && d.space ≤ 5 && 1 ≤ d.dims && d.dims ≤ 6 && d.resv = 0 &&
    unusedOk && baseOk d.space d.base
  let unit := if f.width < 8 then 8 else f.width / 8
  let rule2 := d.space = 4 || d.space = 5 || d.base % unit = 0
  let ns := d.nset
  let rule3 := (List.zip ns ns.tail).all (fun p => (d.str p.1).natAbs * d.ext p.1 ≤ (d.str p.2).natAbs)
  let rule4 := (List.range 6).all (fun k => ns.contains k || d.padlo k = 0)
  let rule5 := (d.nimg = 0 || d.layout ≠ 0) && d.layout ≠ 3
  let arrayOk := classOf d.fmt ≠ 0 && d.tile 0 = 64 * d.p &&
    (if d.layout = 2 then d.tile 1 = 64 else d.tile 1 ≤ 64) &&
    (List.range 6).all (fun k => k < 2 || d.tile k = 1) &&
    (List.range 6).all (fun k => d.padlo k = 0) && d.base % 256 = 0
  let rule6 := (if f.mx then
      ns.contains 0 && d.str 0 = 1 && ns.all (fun k => k = 0 || decide (d.str k % 32 = 0)) && d.padlo 0 = 0
    else d.sofs = 0) && (d.layout = 0 || arrayOk)
  let packet := d.space = 4 || d.space = 5
  let rule7 := !d.wmode || (r.atomic && (d.space = 1 || d.space = 2) && d.layout = 0 &&
    [1, 2, 5].contains d.fmt)
  let rule8 := if packet then
      r.packets && d.layout = 0 && d.dims = 1 && d.stride.all (· = 0) && d.dimw.all (· = 0) && !f.mx &&
        8 ≤ f.width && (if d.space = 5 then bits d.base 32 8 < 16 else d.base < 16)
    else r.spaces.contains d.space && r.layouts.contains d.layout && (d.layout = 0 || d.space = 1)
  if !rule1 then 0x06
  else if d.space = 5 && !portOk then 0x05
  else if rule2 && rule3 && rule4 && rule5 && rule6 && rule7 && rule8 then 0 else 0x06

/-- The byte that holds an element's last bit. -/
def Opnd.lastByte (o : Opnd) (t : List Nat) : Int := let p := o.addr t; p.1 + (((p.2 + o.d.f.width - 1) / 8 : Nat) : Int)

/-- The range of tile coordinates of dimension k whose elements are valid. -/
def Opnd.validSpan (o : Opnd) (k : Nat) : Int × Int :=
  let c : Int := (o.d.padlo k : Int) - o.org.getD k 0
  (max 0 c, min ((o.d.tile k : Int) - 1) ((o.d.ext k : Int) - 1 + c))

/-- The range of tile coordinates of dimension k that an iteration writes where it writes padding: the tile, or of an MX tensor
the blocks that hold a valid element (R309, R310). -/
def Opnd.padSpan (o : Opnd) (k : Nat) : Int × Int :=
  let v := o.validSpan k
  if !o.d.f.mx then (0, (o.d.tile k : Int) - 1)
  else if k ≠ 0 then v
  else (max 0 (v.1 - (o.org.getD 0 0 + v.1) % 32), min ((o.d.tile 0 : Int) - 1) (v.2 + 31 - (o.org.getD 0 0 + v.2) % 32))

/-- The ends of a box of tile coordinates in address order, given the range of each dimension of N. -/
def Opnd.corners (o : Opnd) (rng : Nat → Int × Int) : List Nat × List Nat :=
  let at_ (up : Bool) : List Nat := (List.range 6).map (fun k =>
    if o.d.nset.contains k then (if (o.d.str k < 0) != up then (rng k).1 else (rng k).2).toNat else 0)
  (at_ false, at_ true)

/-- The lowest and highest byte that an iteration touches of a descriptor of layout 0: its valid elements, and its padding
where it is written; of an MX tensor also the scales of its valid elements. -/
def Opnd.hull (o : Opnd) (pads : Bool) : List Int :=
  let ns := o.d.nset
  let empty (rng : Nat → Int × Int) : Bool := ns.any (fun k => (rng k).2 < (rng k).1)
  let none_ := empty o.validSpan
  if none_ && (!pads || o.d.f.mx) then []
  else
    let c := o.corners (if pads then o.padSpan else o.validSpan)
    let v := o.corners o.validSpan
    [(o.addr c.1).1, o.lastByte c.2] ++ (if o.d.f.mx then [o.scaleAddr v.1, o.scaleAddr v.2] else [])

/-- The lowest and the highest byte of any tile element, valid or padding (R313). -/
def Opnd.tileSpan (o : Opnd) : Int × Int :=
  let top (k : Nat) : Int := (o.d.tile k : Int) - 1
  if o.d.layout = 0 then
    let c := o.corners (fun k => (0, top k))
    ((o.addr c.1).1, o.lastByte c.2)
  else ((o.addr [0, 0, 0, 0, 0, 0]).1, o.lastByte [(top 0).toNat, (top 1).toNat, 0, 0, 0, 0])

/-- Rule 9 of R301 for one iteration on one core. -/
def Opnd.inSpace (o : Opnd) (pads : Bool) (limit : Int) : Bool :=
  if o.d.layout = 0 then (o.hull pads).all (fun a => 0 ≤ a && decide (a < limit))
  else
    let n := 2 ^ o.d.nimg
    let top : Int := ((o.d.base + n * o.d.slotSize : Nat) : Int)
    let sc : Int := (o.d.base : Nat) + o.d.sofs
    decide (top ≤ limit) &&
      (!o.d.f.mx || (0 ≤ sc && decide (sc + (n * o.d.scaleSlot : Nat) ≤ limit)))

/-! ## Bytes of the spaces -/

/-- Where an operation runs: troupe, context, logical core, job. -/
structure At where
  g : Nat
  c : Nat
  cx : Nat
  j : Nat
  deriving DecidableEq, Repr

/-- The scratchpad address part of `BASE` in space 2, and the core it names. -/
def spaceCore (base : Nat) : Nat × Nat := (bits base 32 9 / 16, bits base 32 9 % 16)

/-- The payload of a transfer fault (R320). -/
def faultPayload (space : Nat) (a : Int) : Nat := 2 ^ 61 * space + unsigned 61 a

/-- The code and payload with which a job's access to a virtual address fails (R323, R329). -/
def State.accessFail (s : State) (j : Nat) (a : Int) (write : Bool) : Nat × Nat :=
  if 0 ≤ a && s.accessCode j a.toNat write = 0x06 then (0x06, 0) else (0x0A, faultPayload 0 a)

/-- Read one byte of a descriptor's space. -/
def State.spaceRead (s : State) (x : At) (space base : Nat) (a : Int) : Run Byte :=
  match space with
  | 0 => match if 0 ≤ a then s.devRead x.j a.toNat else none with
    | some b => .ok b
    | none => .error (s.accessFail x.j a false)
  | 1 => .ok (s.spByte x.g x.cx (a.toNat % 2 ^ 22))
  | 2 => let k := spaceCore base; .ok (s.spByte k.1 k.2 (a.toNat % 2 ^ 22))
  | _ => .ok (s.hostByte (unsigned 64 a))

/-- Write one byte of a descriptor's space. -/
def State.spaceWrite (s : State) (x : At) (space base : Nat) (a : Int) (b : Byte) : Run State :=
  match space with
  | 0 => match if 0 ≤ a then s.devWrite x.j a.toNat b else none with
    | some t => .ok t
    | none => .error (s.accessFail x.j a true)
  | 1 => .ok (s.setSpByte x.g x.cx (a.toNat % 2 ^ 22) b)
  | 2 => let k := spaceCore base; .ok (s.setSpByte k.1 k.2 (a.toNat % 2 ^ 22) b)
  | _ => .ok (s.setHostByte (unsigned 64 a) b)

/-- The address within the space: space 2 keeps the core in `BASE`. -/
def Opnd.local (o : Opnd) (a : Int) : Int :=
  if o.d.space = 2 then a - ((o.d.base - o.d.base % 2 ^ 22 : Nat) : Int) else a

/-- Read a number of `n` bytes. -/
def State.spaceNat (s : State) (x : At) (o : Opnd) (a : Int) : Nat → Run Nat
  | 0 => .ok 0
  | n + 1 => do
    let b ← s.spaceRead x o.d.space o.d.base (o.local a)
    let r ← s.spaceNat x o (a + 1) n
    return b.toNat + 256 * r

/-- Write a number of `n` bytes. -/
def State.setSpaceNat (s : State) (x : At) (o : Opnd) (a : Int) (v : Nat) : Nat → Run State
  | 0 => .ok s
  | n + 1 => do
    let t ← s.spaceWrite x o.d.space o.d.base (o.local a) (BitVec.ofNat 8 v)
    State.setSpaceNat t x o (a + 1) (v / 256) n

/-- Read an element's code. Codes narrower than a byte lie from the low bits up (log 20). -/
def State.readCode (s : State) (x : At) (o : Opnd) (t : List Nat) : Run Nat := do
  let p := o.addr t
  let n := (p.2 + o.d.f.width + 7) / 8
  let v ← s.spaceNat x o p.1 n
  return bits v p.2 o.d.f.width

/-- Write an element's code, leaving the other bits of its bytes. -/
def State.writeCode (s : State) (x : At) (o : Opnd) (t : List Nat) (code : Nat) : Run State := do
  let p := o.addr t
  let w := o.d.f.width
  let n := (p.2 + w + 7) / 8
  if w % 8 = 0 then s.setSpaceNat x o p.1 code n
  else do
    let v ← s.spaceNat x o p.1 n
    let v' := v - bits v p.2 w * 2 ^ p.2 + code % 2 ^ w * 2 ^ p.2
    s.setSpaceNat x o p.1 v' n

/-- The exact value of a valid element, with its block scale, before its storage exponent (R190). -/
def State.readVal (s : State) (x : At) (o : Opnd) (t : List Nat) : Run Num := do
  let code ← s.readCode x o t
  if o.d.f.mx then do
    let sc ← s.spaceNat x o (o.scaleAddr t) 1
    return mxDecode o.d.f sc code
  else return o.d.f.decode code

/-- The true value of an element: its storage exponent removed (R193). -/
def State.readTrue (s : State) (x : At) (o : Opnd) (t : List Nat) : Run Num := do
  let v ← s.readVal x o t
  return v.scale (-o.exp)

/-- An element widened to FP32 (R194), and whether the read lost bits or overflowed. -/
def State.readWide (s : State) (x : At) (o : Opnd) (t : List Nat) : Run (Num × Bool) := do
  let v ← s.readTrue x o t
  let r := v.r32
  let lossy : Bool := match v, r with
    | .fin _ _ _, .fin _ _ _ => !Num.eqv v r
    | .fin _ _ _, _ => true
    | _, _ => false
  return (r, lossy)

/-! ## Counting and converting (R195 to R207) -/

/-- The storage exponent of a tag as the registers hold it. -/
def State.tagExp (s : State) (j t : Nat) : Int := signed 8 (s.get (Reg.SCALE.EXP j t))

/-- The key of a live Spotter counter. -/
def spotKey (j cls slot w : Nat) : Nat := ((j * 64 + cls) * 10 + slot) * 11 + w

/-- Add one to a live Spotter counter, 48 bits wide, wrapping (R208). -/
def State.spotInc (s : State) (j cls slot w : Nat) : State :=
  let k := spotKey j cls slot w
  { s with spotter := Tab.set 0 s.spotter k ((Tab.get 0 s.spotter k + 1) % 2 ^ 48) }

/-- Count one conversion under a tag's class and a format's slot (R206, R207). -/
def State.spotCount (s : State) (j tag : Nat) (f : Fmt) (r : Conv) : State :=
  let cls := s.get (Reg.SCALE.CLASS j tag)
  let s := s.spotInc j cls f.slot 0
  let s := if r.ovf then s.spotInc j cls f.slot 1 else s
  let s := if r.van then s.spotInc j cls f.slot 2 else s
  match r.bin with
  | some b => s.spotInc j cls f.slot (3 + b)
  | none => s

/-- Who writes: the job, the destination's tag, the rounding mode, the captured step, and whether the
Spotter counts. -/
structure Writer where
  j : Nat
  tag : Nat
  mode : Rnd
  step : Nat
  count : Bool
  deriving DecidableEq, Repr

/-- The draw of an element (R200, R201). -/
def State.drawOf (s : State) (wr : Writer) (idx : Int) : Nat :=
  tombola (s.get (Reg.TB_KEY.KEY wr.j 0)) (s.get (Reg.TB_KEY.KEY wr.j 1)) wr.tag wr.step (unsigned 52 idx)

/-- Set `STEP_NF.LOCAL` where a watched tag was written with a NaN, an infinity or an overflow (R363). -/
def State.watchNF (s : State) (j tag : Nat) (bad : Bool) : State :=
  if bad && bit (s.get (Reg.NF_WATCH.MASK j (tag / 64))) (tag % 64) then s.put (Reg.STEP_NF.LOCAL j) 1 else s

/-- A value is NaN or an infinity. -/
def Num.nonFinite : Num → Bool
  | .fin _ _ _ => false
  | _ => true

/-- Convert a scaled value to a format for the element at an offset, counting the draw and the
conversion. -/
def State.convert (s : State) (wr : Writer) (f : Fmt) (idx : Int) (v : Num) : State × Conv :=
  let r := f.encode wr.mode (s.flag (Reg.SCALE.SAT wr.j wr.tag))
    (if wr.mode = .stoch then s.drawOf wr idx else 0) v
  let s := if wr.mode = .stoch ∧ wr.step = s.get (Reg.STEP_SEQ.SEQ wr.j) then
    s.inc (Reg.TB_DRAWS.COUNT wr.j) 1 else s
  let s := s.watchNF wr.j wr.tag (r.ovf || (f.decode r.code).nonFinite || (f.mx && v.isNan))
  (if wr.count then s.spotCount wr.j wr.tag f r else s, r)

/-- Write one true value to a valid element of a format without block scales. -/
def State.writeVal (s : State) (x : At) (o : Opnd) (wr : Writer) (t : List Nat) (v : Num) : Run State :=
  let r := s.convert wr o.d.f (o.offset t) (v.scale o.exp)
  r.1.writeCode x o t r.2.code

/-- The code of `PADVAL` in a format (R309). -/
def State.padCode (s : State) (wr : Writer) (o : Opnd) : Nat :=
  (o.d.f.encode .nearest (s.flag (Reg.SCALE.SAT wr.j wr.tag)) 0 (padValue o.d.padval)).code

/-- The key of an element's MX block: its coordinates with dimension 0 divided by 32. -/
def Opnd.blockKey (o : Opnd) (t : List Nat) : List Int :=
  (List.range 6).map (fun k => if k = 0 then (if o.d.layout = 0 then o.abs t 0 else (t.getD 0 0 : Nat)) / 32
    else o.abs t k)

/-- Group values by MX block, blocks in the order of their first element. -/
def groupBlocks (o : Opnd) (vs : List (List Nat × Num)) : List (List Int × List (List Nat × Num)) :=
  (vs.foldl (fun acc v =>
    let k := o.blockKey v.1
    match acc.findIdx? (fun b => b.1 = k) with
    | some i => listSet acc i (k, ((acc.getD i (k, [])).2 ++ [v]))
    | none => acc ++ [(k, [v])]) [])

/-- The scale of an MX block, each value with whether it is masked: amax is taken over those that are not, and any NaN makes it
0xFF in a format without one (R199). -/
def blockScale (f : Fmt) (vs : List (Num × Bool)) : Nat :=
  if !f.hasNan && vs.any (fun v => v.1.isNan) then 0xFF else mxScale f ((vs.filter (fun v => !v.2)).map (·.1))

/-- Write the values of one MX block, each with whether it is masked: its scale is chosen, then codes and scale are written
(R199); masked elements are not counted (R206). -/
def State.writeBlockMasked (s : State) (x : At) (o : Opnd) (wr : Writer) (vs : List (List Nat × Num × Bool)) :
    Run State := do
  let f := o.d.f
  let scaled := vs.map (fun v => (v.1, v.2.1.scale o.exp, v.2.2))
  let sc := blockScale f (scaled.map (·.2))
  let s ← scaled.foldlM (fun (t : State) v =>
    let r := t.convert { wr with count := wr.count && !v.2.2 } f (o.offset v.1) (v.2.1.scale (127 - (sc : Int)))
    r.1.writeCode x o v.1 r.2.code) s
  match vs with
  | v :: _ => s.setSpaceNat x o (o.scaleAddr v.1) sc 1
  | [] => return s

/-- Write the values of one MX block (R199). -/
def State.writeBlock (s : State) (x : At) (o : Opnd) (wr : Writer) (vs : List (List Nat × Num)) : Run State :=
  s.writeBlockMasked x o wr (vs.map (fun v => (v.1, v.2, false)))

/-- The valid elements of a tile begin and end on block boundaries, as R310 and R227 require of an MX
destination: every block touched has all its valid elements among those given. -/
def Opnd.blocksWhole (o : Opnd) (ts : List (List Nat)) : Bool :=
  ts.all (fun t =>
    let b := o.abs t 0 / 32
    (List.range 32).all (fun i =>
      let a := b * 32 + (i : Nat)
      !decide (a < (o.d.ext 0 : Nat)) ||
        (let t0 := a - o.org.getD 0 0 + (o.d.padlo 0 : Nat)
         decide (0 ≤ t0) && ts.contains (listSet t 0 t0.toNat))))

/-- Write true values to valid elements of a tile, in the order given (R193 to R199). -/
def State.writeTile (s : State) (x : At) (o : Opnd) (wr : Writer) (vs : List (List Nat × Num)) : Run State :=
  if o.d.f.mx then (groupBlocks o vs).foldlM (fun t b => t.writeBlock x o wr b.2) s
  else vs.foldlM (fun (t : State) v => t.writeVal x o wr v.1 v.2) s

/-- Every tile coordinate of a descriptor in element order. -/
def Desc.coords (d : Desc) : List (List Nat) := (List.range d.tileSize).map d.coord

/-- The padding positions of a tile that R309 writes: none under KEEP; under WRITE all, for an MX
tensor those in blocks that hold a valid element. -/
def Opnd.padsToWrite (o : Opnd) : List (List Nat) :=
  if o.d.keep || o.d.layout ≠ 0 then []
  else
    let ts := o.d.coords
    let pads := ts.filter (fun t => !o.valid t)
    if o.d.f.mx then
      let bs := (ts.filter o.valid).map o.blockKey
      pads.filter (fun t => bs.contains (o.blockKey t))
    else pads

/-- Write `PADVAL` at padding positions; its code does not depend on a block's scale. -/
def State.writePads (s : State) (x : At) (o : Opnd) (wr : Writer) (ts : List (List Nat)) : Run State :=
  ts.foldlM (fun (t : State) p => t.writeCode x o p (t.padCode wr o)) s

/-- Place an operand for an iteration; a displacement not on an element is an error with code 0x06. -/
def placeOpnd (d : Desc) (n : Nest) (i sl cx : Nat) (exp : Int) : Run Opnd :=
  let off := n.off i sl cx
  match d.origin off with
  | some org => .ok ⟨d, off, org, exp⟩
  | none => .error (0x06, 0)

/-! ## Operands of a queued operation -/

/-- The job a context works for; 0 stands where it is not bound. -/
def State.jobOf (s : State) (g c : Nat) : Nat := (s.ctxJob g c).getD 0

/-- The nest of a queued operation. -/
def State.qNest (s : State) (g c : Nat) (q : QEntry) : Nest := s.nestOf g c q.word q.px

/-- Descriptor k of a queued operation. -/
def State.qDesc (s : State) (g c : Nat) (q : QEntry) (k : Nat) : Desc := s.desc g c (wD q.word k)

/-- Operand k of a queued operation, placed for iteration i. -/
def State.qOpnd (s : State) (x : At) (q : QEntry) (k i : Nat) : Run Opnd :=
  placeOpnd (s.qDesc x.g x.c q k) (s.qNest x.g x.c q) i k x.cx (q.exps.getD k 0)

/-- The writer of operand k with the rounding mode of its tag (R195). -/
def State.qWriter (s : State) (x : At) (q : QEntry) (k : Nat) : Writer :=
  ⟨x.j, (s.qDesc x.g x.c q k).tag, Rnd.of (q.rnds.getD k 0), q.step, true⟩

/-- What follows a computation that may fail: one thing on its error, another on its result. -/
def Run.either {α β : Type} (r : Run α) (onErr : Nat × Nat → β) (onOk : α → β) : β :=
  match r with
  | .error e => onErr e
  | .ok a => onOk a

/-- Run a list of steps over a state, stopping at the first error; an erring step has no effect. -/
def runList {α : Type} (f : State → α → Run State) : State → List α → State × Option (Nat × Nat)
  | s, [] => (s, none)
  | s, a :: t => match f s a with
    | .ok s' => runList f s' t
    | .error e => (s, some e)

end Sys2Proof.Machine
end

