-- ==== Sys2Proof/Machine/Array.lean ====
section
/-! DEFINITION. The matrix array and the window accumulators: weight tiles and banks (R136 to R139),
window placement and alignment (R163 to R169), rows, overflow and replay (R170 to R175), maximum mode
(R178 to R180), preload, clear and drain (R176, R177, R181, R182). -/

namespace Sys2Proof.Machine

/-! ## Entries and tiles (R161, R162) -/

/-- An accumulator entry: NaN, an infinity, or a finite integer at the tile's window. -/
inductive Entry where
  | nan
  | inf (neg : Bool)
  | fin (v : Int)
  deriving DecidableEq, Repr

/-- The value of an entry code (R161). -/
def entryOf (b : BitVec 64) : Entry :=
  if b = 0x8000000000000000#64 then .nan
  else if b = 0x8000000000000001#64 then .inf true
  else if b = 0x7FFFFFFFFFFFFFFF#64 then .inf false
  else .fin b.toInt

/-- The code of an entry. -/
def Entry.code : Entry → BitVec 64
  | .nan => 0x8000000000000000#64
  | .inf true => 0x8000000000000001#64
  | .inf false => 0x7FFFFFFFFFFFFFFF#64
  | .fin v => BitVec.ofInt 64 v

/-- The largest finite entry. -/
def entryMax : Int := 2 ^ 63 - 2

/-- The integer lies in the finite range of R161. -/
def entryFits (v : Int) : Bool := -entryMax ≤ v && v ≤ entryMax

/-- One entry of a physical tile; an entry not listed is zero, or a free value where the tile's
contents are unspecified (log 14). -/
def State.accGet (s : State) (g cx t r j : Nat) : BitVec 64 :=
  let k := s.core g cx
  match Tab.get none k.acc (t * 4096 + r * 64 + j) with
  | some b => b
  | none => match Tab.get 0 k.accFree t with
    | 0 => 0
    | n => Config.freeWord n (r * 64 + j)

/-- Write one entry of a physical tile. -/
def State.accSet (s : State) (g cx t r j : Nat) (b : BitVec 64) : State :=
  let k := s.core g cx
  let v := if Tab.get 0 k.accFree t = 0 ∧ b = 0 then none else some b
  s.setCore g cx { k with acc := Tab.set none k.acc (t * 4096 + r * 64 + j) v }

/-- Make every entry of a tile zero. -/
def State.accZero (s : State) (g cx t : Nat) : State :=
  let k := s.core g cx
  s.setCore g cx { k with acc := Tab.clearRange k.acc (t * 4096) 4096, accFree := Tab.set 0 k.accFree t 0 }

/-- Make a tile's contents unspecified (R154). -/
def State.accUnspec (s : State) (g cx t : Nat) : State :=
  let k := s.core g cx
  let s := s.bumpFree
  s.setCore g cx { k with acc := Tab.clearRange k.acc (t * 4096) 4096, accFree := Tab.set 0 k.accFree t s.fresh }

/-- The window exponent of a tile. -/
def State.tileE (s : State) (g cx t : Nat) : Int := signed 10 (s.get (Reg.ACC_TILE.E g cx t))

/-- Set the window exponent of a tile. -/
def State.setTileE (s : State) (g cx t : Nat) (e : Int) : State := s.put (Reg.ACC_TILE.E g cx t) (unsigned 10 e)

/-- Count products or entries that lost nonzero bits: the tile's saturating count and the core's. -/
def State.vanish (s : State) (g cx t n : Nat) : State :=
  (s.incSat (Reg.ACC_TILE.VANISH g cx t) n).inc (Reg.ACC_VANISH.N g cx) n

/-- Round v / 2^n to nearest-even; whether nonzero bits were lost. -/
def shiftRound (v : Int) (n : Nat) : Int × Bool :=
  let r := roundInt .nearest 0 (v.natAbs / 2 ^ n) (v.natAbs % 2 ^ n) n
  (if v < 0 then -(r.1 : Int) else r.1, r.2)

/-- Shift every finite entry of a tile right by n with rounding, counting lost bits (R166, R171). -/
def State.accShift (s : State) (g cx t n : Nat) : State :=
  (List.range 4096).foldl (fun s i =>
    match entryOf (s.accGet g cx t (i / 64) (i % 64)) with
    | .fin v =>
      if v = 0 then s
      else
        let r := shiftRound v n
        let s := s.accSet g cx t (i / 64) (i % 64) (Entry.fin r.1).code
        if r.2 then s.vanish g cx t 1 else s
    | _ => s) s

/-! ## Weight banks (R136, R138, R139, R152) -/

/-- The array of a troupe is split. -/
def State.isSplit (s : State) (g : Nat) : Bool := s.flag (Reg.RM_ARR.SPLIT g)

/-- A core's array stands in the narrow arrangement of 256 rows by 16 columns (R155). -/
def State.isNarrow (s : State) (g cx : Nat) : Bool := s.flag (Reg.ARR_STATUS.NARROW g cx)

/-- The output columns of a core's array, or of a half of it (R152, R155). -/
def State.arrCols (s : State) (g cx : Nat) : Nat :=
  if s.isNarrow g cx then 16 else if s.isSplit g then 32 else 64

/-- The rows of a core's array: a slab is p times as deep (R129, R155). -/
def State.arrRows (s : State) (g cx : Nat) : Nat := if s.isNarrow g cx then 256 else 64

/-- The array of a troupe is in shared mode. -/
def State.isShared (s : State) (g : Nat) : Bool := s.flag (Reg.RM_ARR.SHARED g)

/-- A core's weight banks are each context's own (R139): shared mode, and the copy that its entry makes is
done. -/
def State.banksShared (s : State) (x : At) : Bool :=
  s.isShared x.g && Tab.get 0 (s.core x.g (s.view x.g x.cx).cx).own 0 = 0

/-- The set of banks a context's logical core uses: its own half's in a split array, the whole array's (0)
otherwise; under doubling the second logical core has banks of its own (log 22). -/
def State.halfOf (s : State) (x : At) : Nat :=
  (if s.isSplit x.g then x.c else 0) + (if (s.view x.g x.cx).second then 2 else 0)

/-- The bank of a context in shared mode (R139). -/
def State.ownBank (s : State) (x : At) : Nat := x.c + (if (s.view x.g x.cx).second then 4 else 0)

/-- The bank that a context's iterations use: its own in shared mode, the active one otherwise. -/
def State.useBank (s : State) (x : At) : Nat :=
  if s.banksShared x then s.ownBank x
  else 2 * s.halfOf x + Tab.get 0 (s.core x.g (s.view x.g x.cx).cx).active (s.halfOf x)

/-- The bank that a context's next load writes: its own in shared mode, the shadow otherwise (R136, R139). -/
def State.loadBank (s : State) (x : At) : Nat :=
  if s.banksShared x then s.ownBank x
  else 2 * s.halfOf x + (1 - Tab.get 0 (s.core x.g (s.view x.g x.cx).cx).active (s.halfOf x))

/-- Load a weight tile, and count the load. -/
def State.loadWeights (s : State) (x : At) (t : WTile) : State :=
  let cx := (s.view x.g x.cx).cx
  let k := s.core x.g cx
  let b := s.loadBank x
  let k := { k with weights := Tab.set {} k.weights b t, loads := Tab.set 0 k.loads b (Tab.get 0 k.loads b + 1) }
  s.setCore x.g cx (if s.banksShared x then k else { k with loaded := Tab.set 0 k.loaded (s.halfOf x) 1 })

/-- Change banks at the start of an iteration if a load has completed since the last change. -/
def State.changeBank (s : State) (x : At) : State :=
  let cx := (s.view x.g x.cx).cx
  let k := s.core x.g cx
  if s.banksShared x then s
  else
    let h := s.halfOf x
    if Tab.get 0 k.loaded h = 0 then s
    else s.setCore x.g cx { k with active := Tab.set 0 k.active h (1 - Tab.get 0 k.active h),
                                   loaded := Tab.set 0 k.loaded h 0 }

/-- The weight tile an iteration uses. -/
def State.activeTile (s : State) (x : At) : WTile :=
  Tab.get {} (s.core x.g (s.view x.g x.cx).cx).weights (s.useBank x)

/-- Read the elements of an array operand into a table keyed a × 64 + b, with a the K-element and b
the column (weights) or the row (activations); and its block scales keyed block × 64 + b. -/
def State.readArray (s : State) (x : At) (o : Opnd) : Run (Tab Nat × Tab Nat) := do
  let kv := o.validExt 0
  let nv := o.validExt 1
  let ks := (List.range (kv * nv)).map (fun i => (i / nv, i % nv))
  let codes ← ks.mapM (fun p => do
    let v ← s.readCode x o [p.1, p.2, 0, 0, 0, 0]
    return (p.1 * 64 + p.2, v))
  if o.d.f.mx then do
    let bs := (List.range ((kv + 31) / 32 * nv)).map (fun i => (i / nv, i % nv))
    let scs ← bs.mapM (fun p => do
      let v ← s.spaceNat x o (o.scaleAddr [32 * p.1, p.2, 0, 0, 0, 0]) 1
      return (p.1 * 64 + p.2, v))
    return (codes.filter (fun e => e.2 ≠ 0), scs.filter (fun e => e.2 ≠ 0))
  else return (codes.filter (fun e => e.2 ≠ 0), [])

/-- Read a weight tile (R110). -/
def State.readWeights (s : State) (x : At) (o : Opnd) : Run WTile := do
  let r ← s.readArray x o
  return { cls := classOf o.d.fmt, fmt := o.d.fmt, kValid := o.validExt 0, nValid := o.validExt 1,
           exp := o.exp, codes := r.1, scales := r.2 }

/-! ## One operand element inside the array -/

/-- The true value of an element of an array operand (R131, R204). -/
def arrVal (fmt : Nat) (exp : Int) (codes scales : Tab Nat) (k b : Nat) : Num :=
  let f := (fmtOf fmt).getD fp32
  let code := Tab.get 0 codes (k * 64 + b)
  let v := if f.mx then mxDecode f (Tab.get 0 scales (k / 32 * 64 + b)) code else f.decode code
  v.scale (-exp)

/-- The block exponent that one nonzero finite element gives its block (R163, R191, R204). -/
def blockExp (fmt : Nat) (exp : Int) (scales : Tab Nat) (k b : Nat) (v : Num) : Option Int :=
  let f := (fmtOf fmt).getD fp32
  match v with
  | .fin _ m e =>
    if m = 0 then none
    else if f.isInt then some (7 - exp)
    else if classOf fmt ≤ 2 then some (expOf m e)
    else
      let sc : Nat := if f.mx then Tab.get 0 scales (k / 32 * 64 + b) else 0x7F
      if sc = 0xFF then none else some ((sc : Int) - 127 + f.emax - exp)
  | _ => none

/-- The larger of two optional exponents. -/
def maxOpt : Option Int → Option Int → Option Int
  | some a, some b => some (max a b)
  | some a, none => some a
  | none, b => b

/-! ## Iterations -/

/-- The activation at row r and K-element k. -/
def Step.act (p : Step) (r k : Nat) : Num := arrVal p.aFmt p.aExp p.aCodes p.aScales k r

/-- The weight that K-element k of column j meets: the tile read along its other axis under `CROSS`
(R143). -/
def Step.wgt (p : Step) (k j : Nat) : Num :=
  if p.cross then arrVal p.wt.fmt p.wt.exp p.wt.codes p.wt.scales j k
  else arrVal p.wt.fmt p.wt.exp p.wt.codes p.wt.scales k j

/-- The product bound P of an iteration (R164). -/
def Step.bound (p : Step) : Option Int :=
  let xa := (List.range (p.kv * p.m)).foldl (fun b i =>
    maxOpt b (blockExp p.aFmt p.aExp p.aScales (i / p.m) (i % p.m) (p.act (i % p.m) (i / p.m)))) none
  let xw := (List.range (p.kv * p.nv)).foldl (fun b i =>
    let k := i / p.nv
    let j := i % p.nv
    maxOpt b (blockExp p.wt.fmt p.wt.exp p.wt.scales (if p.cross then j else k) (if p.cross then k else j)
      (p.wgt k j))) none
  match xa, xw with
  | some a, some b => some (a + b + 2)
  | _, _ => none

/-- A product aligned into a window (R167): the integer or special, and whether bits were lost. -/
def alignProd (v : Num) (e : Int) : Entry × Bool :=
  match v with
  | .nan => (.nan, false)
  | .inf n => (.inf n, false)
  | .fin n m ex =>
    let r := roundMag .nearest 0 m (ex + 62 - e) 0
    (.fin (if n then -(r.1 : Int) else r.1), r.2)

/-- Sum of two row contributions (R168, R169). -/
def Entry.add : Entry → Entry → Entry
  | .nan, _ => .nan
  | _, .nan => .nan
  | .inf a, .inf b => if a = b then .inf a else .nan
  | .inf a, .fin _ => .inf a
  | .fin _, .inf b => .inf b
  | .fin a, .fin b => .fin (a + b)

/-- One column's sum of a row: the sum, whether the range bit sets, lost products, special products. -/
structure ColSum where
  sum : Entry := .fin 0
  range : Bool := false
  lost : Nat := 0
  special : Nat := 0
  deriving DecidableEq, Repr

/-- The sum of row r in column j at window E (R168). -/
def Step.colSum (p : Step) (r j : Nat) (e : Int) : ColSum :=
  (List.range p.kv).foldl (fun a k =>
    let q := alignProd (Num.mul (p.act r k) (p.wgt k j)) e
    { sum := a.sum.add q.1
      range := a.range || (match q.1 with
        | .fin v => !entryFits v
        | _ => false)
      lost := a.lost + ofBool q.2
      special := a.special + (match q.1 with
        | .fin _ => 0
        | _ => 1) }) {}

/-- The result of trying to write a row: the new state, or the lowest overflowing column. -/
abbrev RowTry := Except Nat State

/-- Add row r of an iteration into tile t (R168, R170). -/
def State.addRow (s : State) (p : Step) (g cx t r : Nat) : RowTry :=
  let e := s.tileE g cx t
  let cols := (List.range p.nv).map (fun j =>
    let cs := p.colSum r j e
    (j, cs, (entryOf (s.accGet g cx t r j)).add cs.sum))
  match cols.find? (fun q => match q.2.2 with
      | .fin v => !entryFits v || q.2.1.range
      | _ => false) with
  | some q => .error q.1
  | none =>
    .ok (cols.foldl (fun s q =>
      let s := s.accSet g cx t r q.1 q.2.2.code
      let s := if q.2.1.lost = 0 then s else s.vanish g cx t q.2.1.lost
      if q.2.1.special = 0 then s else s.inc (Reg.ACC_SPECIAL.N g cx) q.2.1.special) s)

/-! ## Maximum mode (R178 to R180) -/

/-- A candidate beats the stored winner: `mn` selects the minimum, `nanp` lets NaN win, `empty` says
the stored column holds no winner. Between equals the stored one, of lower K-index, keeps its place. -/
def candWins (mn nanp empty : Bool) (c w : Entry) : Bool :=
  match c, w with
  | .nan, .nan => nanp && empty
  | .nan, _ => nanp
  | _, .nan => empty
  | c, w =>
    if empty then true
    else
      let key : Entry → Int × Int
        | .inf n => (if n then -1 else 1, 0)
        | .fin v => (0, v)
        | .nan => (0, 0)
      let lt (a b : Int × Int) : Bool := a.1 < b.1 || (a.1 = b.1 && a.2 < b.2)
      if mn then lt (key c) (key w) else lt (key w) (key c)

/-- One column's winner over a row's candidates: value, K-index, lost bits, empty, special products. -/
structure Winner where
  val : Entry
  idx : Int
  lost : Bool := false
  empty : Bool
  fresh : Bool := false
  special : Nat := 0
  deriving DecidableEq, Repr

/-- Write row r of a selection into tiles t and t1; `kBase` is the K-index of the slab's first element. -/
def State.maxRow (s : State) (p : Step) (mn nanp : Bool) (g cx t t1 r kBase : Nat) : RowTry :=
  let e := s.tileE g cx t
  let cols := (List.range p.nv).map (fun j =>
    let i0 := (s.accGet g cx t1 r j).toInt
    let w0 : Winner := { val := entryOf (s.accGet g cx t r j), idx := i0, empty := i0 = -1 }
    (j, (List.range p.kv).foldl (fun (w : Winner) k =>
      let q := alignProd (Num.mul (p.act r k) (p.wgt k j)) e
      let sp := w.special + (match q.1 with
        | .fin _ => 0
        | _ => 1)
      if candWins mn nanp w.empty q.1 w.val then
        { val := q.1, idx := ((kBase + k : Nat) : Int), lost := q.2, empty := false, fresh := true, special := sp }
      else { w with special := sp }) w0))
  match cols.find? (fun q => match q.2.val with
      | .fin v => q.2.fresh && !entryFits v
      | _ => false) with
  | some q => .error q.1
  | none =>
    .ok (cols.foldl (fun s q =>
      let s := if q.2.special = 0 then s else s.inc (Reg.ACC_SPECIAL.N g cx) q.2.special
      if q.2.fresh then
        let s := (s.accSet g cx t r q.1 q.2.val.code).accSet g cx t1 r q.1 (BitVec.ofInt 64 q.2.idx)
        if q.2.lost then s.vanish g cx t 1 else s
      else s) s)

/-- Start a selection in tiles t and t1 (R178). Where the first iteration has no product bound the tile stands unplaced
with E 0 and the `HSTEP` it had; the spec gives neither (DESIGN CHOICE, log 117). -/
def State.startSelect (s : State) (mn : Bool) (g cx t t1 : Nat) : State :=
  let s := (s.accZero g cx t).accZero g cx t1
  let s := (((s.setTileE g cx t 0).put (Reg.ACC_TILE.PLACED g cx t) 0).put (Reg.ACC_TILE.VANISH g cx t) 0).put
    (Reg.ACC_TILE.REPLAYS g cx t) 0
  let s := ((s.setTileE g cx t1 62).put (Reg.ACC_TILE.PLACED g cx t1) 1).put (Reg.ACC_TILE.HSTEP g cx t1) 8
  (List.range 4096).foldl (fun s i =>
    (s.accSet g cx t (i / 64) (i % 64) (Entry.inf (!mn)).code).accSet g cx t1 (i / 64) (i % 64)
      0xFFFFFFFFFFFFFFFF#64) s

/-! ## Window placement (R165, R166, R174) -/

/-- Place or raise the window of tile t for an iteration with product bound `p`; none means that E
would go above 511. -/
def State.placeWindow (s : State) (newwin : Bool) (h : Nat) (g cx t : Nat) (p : Option Int) : Option State :=
  let placed := s.flag (Reg.ACC_TILE.PLACED g cx t)
  match placed, p with
  | false, some p =>
    let e := max (-512) (p + h - 1)
    if 511 < e then none
    else some (((s.setTileE g cx t e).put (Reg.ACC_TILE.HSTEP g cx t) h).put (Reg.ACC_TILE.PLACED g cx t) 1)
  | true, some p =>
    if newwin then
      let e0 := s.tileE g cx t
      let e := max e0 (p + h - 1)
      if 511 < e then none
      else
        let s := if e0 < e then
            ((s.accShift g cx t (e - e0).toNat).setTileE g cx t e).inc (Reg.ARR_FRZ_DRAIN.N g cx) 8
          else s
        some (s.put (Reg.ACC_TILE.HSTEP g cx t) h)
    else some s
  | _, none => some s

/-- The payload of an `ACC_RANGE` record (R174). A placement or a raise that would pass 511 has no overflowing row or
column: both fields are 0, which the spec does not say (DESIGN CHOICE, log 117). -/
def accRangePayload (e : Int) (t m col it : Nat) : Nat :=
  unsigned 10 e * 2 ^ 33 + 2 ^ 28 * t + 2 ^ 22 * m + 2 ^ 16 * col + it % 2 ^ 16

/-! ## Preload, clear, drain -/

/-- Clear a tile as `accz` does (R177). -/
def State.tileClear (s : State) (g cx t : Nat) : State :=
  (((((s.accZero g cx t).put (Reg.ACC_TILE.PLACED g cx t) 0).setTileE g cx t 0).put
    (Reg.ACC_TILE.HSTEP g cx t) 8).put (Reg.ACC_TILE.VANISH g cx t) 0).put (Reg.ACC_TILE.REPLAYS g cx t) 0

/-- Preload a tile from D0 (R176). An unplaced tile gets E 0 and `HSTEP` 8, which the spec does not give, and a D0 of
more than one valid row under `BCAST` 1 is taken: the last row stands in all 64 rows, and Xmax is over all of D0
(DESIGN CHOICE, log 117). -/
def State.tilePreload (s : State) (x : At) (o : Opnd) (bcast : Bool) (cx t : Nat) : Run State := do
  let g := x.g
  let ts := (o.d.coords.filter o.valid).filter (fun q => q.getD 0 0 < 64 && q.getD 1 0 < 64)
  let vals ← ts.mapM (fun q => do
    let v ← s.readWide x o q
    return (q, v))
  let s := (vals.filter (fun v => v.2.2)).foldl (fun s _ => s.inc (Reg.SPOT_RDLOSS.COUNT x.j) 1) s
  let s := ((s.accZero g cx t).put (Reg.ACC_TILE.VANISH g cx t) 0).put (Reg.ACC_TILE.REPLAYS g cx t) 0
  let xm := vals.foldl (fun b v => match v.2.1 with
    | .fin _ m e => if m = 0 then b else maxOpt b (some (expOf m e))
    | _ => b) none
  let e : Int := match xm with
    | some m => m + 8
    | none => 0
  let s := match xm with
    | some _ => ((s.setTileE g cx t e).put (Reg.ACC_TILE.HSTEP g cx t) 8).put (Reg.ACC_TILE.PLACED g cx t) 1
    | none => ((s.setTileE g cx t 0).put (Reg.ACC_TILE.HSTEP g cx t) 8).put (Reg.ACC_TILE.PLACED g cx t) 0
  return vals.foldl (fun s v =>
    let q := alignProd v.2.1 e
    let rows := if bcast then List.range 64 else [v.1.getD 1 0]
    rows.foldl (fun s r =>
      let s := s.accSet g cx t r (v.1.getD 0 0) q.1.code
      if q.2 then s.vanish g cx t 1 else s) s) s

/-- The value of an entry in a window. -/
def Entry.value (e : Int) : Entry → Num
  | .nan => .nan
  | .inf n => .inf n
  | .fin v => .fin (decide (v < 0)) v.natAbs (e - 62)

/-- Drain a tile to D0 and its padding (R181); `cols` is 32 for a half of a split array. -/
def State.tileDrain (s : State) (x : At) (o : Opnd) (wr : Writer) (cx t : Nat) : Run State := do
  let e := s.tileE x.g cx t
  let ts := (o.d.coords.filter o.valid).filter (fun q => q.getD 0 0 < 64 && q.getD 1 0 < 64)
  let vals := ts.map (fun q => (q, (entryOf (s.accGet x.g cx t (q.getD 1 0) (q.getD 0 0))).value e))
  let s ← s.writeTile x o wr vals
  s.writePads x o wr o.padsToWrite

end Sys2Proof.Machine
end

