-- ==== Sys2Proof/Machine/Vector.lean ====
section
/-! DEFINITION. What the Lane unit, the special-function unit and the Stream unit compute: lane
registers (R223, R225), arithmetic (R219, R220, R226), reductions (R229), permutes (R230), scans
(R232, R233), loadable tables (R252 to R257), soft maximum (R259 to R262) and statistics (R265 to R268). -/

namespace Sys2Proof.Machine

/-! ## Lane registers -/

/-- Context 1 of the troupe is bound (R223, R247). -/
def State.ctx1Bound (s : State) (g : Nat) : Bool := s.flag (Reg.CTX_CFG.BOUND g 1)

/-- The physical register of a context's Vn on a logical core (R223, R420). -/
def State.vreg (s : State) (x : At) (v : Nat) : Nat :=
  let b := s.ctx1Bound x.g
  (if b then 16 * x.c + v else v) + (if (s.view x.g x.cx).second then (if b then 8 else 16) else 0)

/-- One lane of a physical register; a lane not listed is zero, or a free value (log 14). -/
def State.laneRaw (s : State) (g cx r k : Nat) : BitVec 32 :=
  let u := s.core g cx
  match Tab.get none u.lane (r * 256 + k) with
  | some b => b
  | none => match Tab.get 0 u.laneFree r with
    | 0 => 0
    | n => BitVec.ofNat 32 (Config.freeWord n k).toNat

/-- Write one lane of a physical register. -/
def State.setLaneRaw (s : State) (g cx r k : Nat) (b : BitVec 32) : State :=
  let u := s.core g cx
  let v := if Tab.get 0 u.laneFree r = 0 ∧ b = 0 then none else some b
  s.setCore g cx { u with lane := Tab.set none u.lane (r * 256 + k) v }

/-- Lane k of a context's Vn. -/
def State.lane (s : State) (x : At) (v k : Nat) : Nat :=
  (s.laneRaw x.g (s.view x.g x.cx).cx (s.vreg x v) k).toNat

/-- Write lane k of a context's Vn. -/
def State.setLane (s : State) (x : At) (v k n : Nat) : State :=
  s.setLaneRaw x.g (s.view x.g x.cx).cx (s.vreg x v) k (BitVec.ofNat 32 n)

/-- The context's `VL` in a core (R225). -/
def State.vl (s : State) (x : At) : Nat :=
  let cx := (s.view x.g x.cx).cx
  if x.c = 0 then s.get (Reg.LANE_STATUS.VL0 x.g cx) else s.get (Reg.LANE_STATUS.VL1 x.g cx)

/-- The number of active elements. -/
def State.nElems (s : State) (x : At) (h : Bool) : Nat := if h then 2 * s.vl x else s.vl x

/-- Element i of a register as a value. -/
def State.elem (s : State) (x : At) (h : Bool) (v i : Nat) : Num :=
  if h then bf16.decode (bits (s.lane x v (i / 2)) (16 * (i % 2)) 16) else fp32.decode (s.lane x v i)

/-- The active elements of a register. -/
def State.elems (s : State) (x : At) (h : Bool) (v : Nat) : List Num :=
  (List.range (s.nElems x h)).map (s.elem x h v)

/-- Write active elements to a register, each rounded to its lane format (R226). -/
def State.setElems (s : State) (x : At) (h : Bool) (v : Nat) (es : List Num) : State :=
  if h then
    (List.range ((es.length + 1) / 2)).foldl (fun s k =>
      s.setLane x v k ((es.getD (2 * k) .zero).toBf + (es.getD (2 * k + 1) .zero).toBf * 2 ^ 16)) s
  else (List.zip (List.range es.length) es).foldl (fun s p => s.setLane x v p.1 p.2.to32) s

/-- Lane 0 holds a number, lanes 1 to 255 zero. -/
def State.setLane0 (s : State) (x : At) (v n : Nat) : State :=
  (List.range 255).foldl (fun s k => s.setLane x v (k + 1) 0) (s.setLane x v 0 n)

/-! ## Reductions (R229) -/

/-- One level of the fixed tree. -/
def treeLevel {α : Type} (f : α → α → α) : List α → List α
  | a :: b :: t => f a b :: treeLevel f t
  | l => l

/-- The fixed tree over a list, by levels. -/
def tree {α : Type} (f : α → α → α) (d : α) : Nat → List α → α
  | 0, l => l.headD d
  | _ + 1, [] => d
  | _ + 1, [a] => a
  | n + 1, l => tree f d n (treeLevel f l)

/-- `lv.red`: 0 sum, 1 maximum, 2 minimum. -/
def reduce (kind : Nat) (es : List Num) : Num :=
  tree (match kind with
    | 0 => f32add
    | 1 => Num.max
    | _ => Num.min) .zero 10 es

/-! ## Scans (R232, R233) -/

/-- The scan's combining operation for `KIND` 0 to 2. -/
def scanOp : Nat → Num → Num → Num
  | 0 => f32add
  | 1 => Num.max
  | _ => Num.min

/-- The doubling steps of R233 for `KIND` 0 to 2. -/
def scanS (kind n : Nat) : Nat → Nat → List Num → List Num
  | 0, _, s => s
  | fuel + 1, d, s =>
    if n ≤ d then s
    else scanS kind n fuel (2 * d) ((List.range n).map (fun k =>
      if d ≤ k then scanOp kind (s.getD k .zero) (s.getD (k - d) .zero) else s.getD k .zero))

/-- The doubling steps of R233 for the recurrence. -/
def scanAB (n : Nat) : Nat → Nat → List Num → List Num → List Num × List Num
  | 0, _, a, b => (a, b)
  | fuel + 1, d, a, b =>
    if n ≤ d then (a, b)
    else scanAB n fuel (2 * d)
      ((List.range n).map (fun k =>
        if d ≤ k then f32mul (a.getD k .zero) (a.getD (k - d) .zero) else a.getD k .zero))
      ((List.range n).map (fun k =>
        if d ≤ k then f32fma (a.getD k .zero) (b.getD (k - d) .zero) (b.getD k .zero) else b.getD k .zero))

/-- The elements of a scan in FP32, before any rounding to BF16; the last is the carry-out. -/
def scanOut (kind : Nat) (xs ys : List Num) (carry : Option Num) : List Num :=
  let n := xs.length
  if kind < 3 then
    let s := scanS kind n 10 1 xs
    match carry with
    | some c => s.map (fun v => scanOp kind c v)
    | none => s
  else
    let r := scanAB n 10 1 xs ys
    match carry with
    | some c => (List.zip r.1 r.2).map (fun p => f32fma p.1 c p.2)
    | none => r.2

/-- The carry register of a context in a core: valid, kind, FP32 bits (R234, R420). -/
def State.carryReg (s : State) (x : At) : Bool × Nat × Nat :=
  let w := s.view x.g x.cx
  if w.second then
    let t := (s.core x.g w.cx).carry2
    (Tab.get 0 t (4 * x.c) ≠ 0, Tab.get 0 t (4 * x.c + 1), Tab.get 0 t (4 * x.c + 2))
  else if x.c = 0 then
    (s.flag (Reg.LANE_STATUS.CVALID0 x.g w.cx), s.get (Reg.LANE_STATUS.KIND0 x.g w.cx),
      s.get (Reg.LANE_CARRY.VALUE x.g w.cx 0))
  else
    (s.flag (Reg.LANE_STATUS.CVALID1 x.g w.cx), s.get (Reg.LANE_STATUS.KIND1 x.g w.cx),
      s.get (Reg.LANE_CARRY.VALUE x.g w.cx 1))

/-- Write the carry register of a context in a core. -/
def State.setCarryReg (s : State) (x : At) (valid : Bool) (kind v : Nat) : State :=
  let w := s.view x.g x.cx
  if w.second then
    let u := s.core x.g w.cx
    let t := Tab.set 0 (Tab.set 0 u.carry2 (4 * x.c) (ofBool valid)) (4 * x.c + 1) kind
    s.setCore x.g w.cx { u with carry2 := Tab.set 0 t (4 * x.c + 2) v }
  else if x.c = 0 then
    ((s.put (Reg.LANE_STATUS.CVALID0 x.g w.cx) (ofBool valid)).put (Reg.LANE_STATUS.KIND0 x.g w.cx) kind).put
      (Reg.LANE_CARRY.VALUE x.g w.cx 0) v
  else
    ((s.put (Reg.LANE_STATUS.CVALID1 x.g w.cx) (ofBool valid)).put (Reg.LANE_STATUS.KIND1 x.g w.cx) kind).put
      (Reg.LANE_CARRY.VALUE x.g w.cx 1) v

/-! ## Loadable tables (R247, R252 to R257) -/

/-- The physical slot of a context's loadable slot n (R247). -/
def State.physSlot (s : State) (g c n : Nat) : Nat := if s.ctx1Bound g then 4 * c + n else n

/-- One byte of a table bank in a physical core. -/
def State.tableByte (s : State) (g cx slot bank a : Nat) : Byte :=
  Tab.get 0 (s.core g cx).tables (slot * 8192 + bank * 4096 + a)

/-- A table bank as the bytes of its image. -/
def State.tableImage (s : State) (g cx slot bank : Nat) : List Byte :=
  (List.range 3136).map (s.tableByte g cx slot bank)

/-- Write the bytes of an image to a table bank. -/
def State.setTable (s : State) (g cx slot bank : Nat) (img : List Byte) : State :=
  let k := s.core g cx
  let es := ((List.zip (List.range img.length) img).filter (fun e => e.2 ≠ 0))
  s.setCore g cx { k with tables := Tab.putSlice k.tables (slot * 8192 + bank * 4096) 4096 es }

/-- `n` little-endian bytes of an image. -/
def imgNat (img : List Byte) (a n : Nat) : Nat := leNat ((img.drop a).take n)

/-- An FP32 value of an image. -/
def imgF (img : List Byte) (a : Nat) : Num := fp32.decode (imgNat img a 4)

/-- Coefficient k of segment i. -/
def imgCoef (img : List Byte) (i k : Nat) : Num := imgF img (64 + 12 * i + 4 * k)

/-- The value is finite. -/
def Num.finite : Num → Bool
  | .fin _ _ _ => true
  | _ => false

/-- The checks of R253 on an image. -/
def imageOk (img : List Byte) : Bool :=
  let lo := imgF img 4
  let hi := imgF img 8
  let inv := imgF img 12
  let sym := imgNat img 2 1
  let order := imgNat img 1 1
  let zeros (a n : Nat) : Bool := ((img.drop a).take n).all (· = 0)
  imgNat img 0 1 = 1 && (order = 1 || order = 2) && sym ≤ 4 && imgNat img 3 1 % 16 ≤ 3 &&
    imgNat img 3 1 / 16 ≤ 3 && lo.finite && hi.finite && Num.lt lo hi && !Num.eqv lo hi && inv.finite &&
    Num.lt .zero inv && !inv.isZero && (sym = 0 || !Num.lt lo (.fin true 0 0)) && zeros 26 6 && zeros 40 24 &&
    (List.range 256).all (fun i => (imgCoef img i 0).finite && (imgCoef img i 1).finite &&
      (imgCoef img i 2).finite && (order = 2 || (imgCoef img i 2).isZero))

/-- ⌊v⌋ of a finite nonnegative value. -/
def Num.floorNat : Num → Nat
  | .fin false m e => (roundMag .zero 0 m e 0).1
  | _ => 0

/-- What a table gives outside its domain (R257): `hi` selects the upper end. -/
def tableEnd (img : List Byte) (hi : Bool) (y : Num) : Num :=
  let code := if hi then imgNat img 3 1 / 16 else imgNat img 3 1 % 16
  let c (i k : Nat) := imgCoef img i k
  let e := if hi then f32add (f32add (c 255 0) (c 255 1)) (c 255 2) else c 0 0
  let sl := if hi then f32add (c 255 1) (f32mul (Num.ofInt 2) (c 255 2)) else c 0 1
  match code with
  | 0 => e
  | 1 => match y with
    | .inf n =>
      if sl.isZero then e else .inf (n != sl.sign)
    | _ =>
      let u := f32mul (f32sub y (imgF img 4)) (imgF img 12)
      if hi then f32fma sl (f32sub u (Num.ofInt 256)) e else f32fma sl u e
  | 2 => imgF img (if hi then 20 else 16)
  | _ => y

/-- A loadable table's value at an FP32 input (R256). -/
def tableEval (img : List Byte) (x : Num) : Num :=
  if x.isNan then .nan
  else
    let sym := imgNat img 2 1
    let neg := decide (sym ≠ 0) && x.sign
    let y := if sym ≠ 0 then x.abs else x
    let lo := imgF img 4
    let lt (a b : Num) : Bool := Num.lt a b && !Num.eqv a b
    let p :=
      if lt y lo then tableEnd img false y
      else if !lt y (imgF img 8) then tableEnd img true y
      else
        let u := f32mul (f32sub y lo) (imgF img 12)
        let sg : Nat := match u with
          | .inf false => 255
          | _ => min u.floorNat 255
        let d := f32sub u (Num.ofInt sg)
        f32fma (f32fma (imgCoef img sg 2) d (imgCoef img sg 1)) d (imgCoef img sg 0)
    if !neg then p
    else match sym with
      | 1 => p.neg
      | 2 => p
      | 3 => f32sub .one p
      | _ => f32sub p y

/-- A special function at an FP32 value: built-in slots 0 to 3, loadable slots 4 to 11 by the stamped
bank (R249, R256). -/
def State.sfuEval (s : State) (x : At) (slot bank : Nat) (v : Num) : Num :=
  if slot < 4 then fp32.decode (sfuBuiltin slot v.to32)
  else
    let w := s.view x.g x.cx
    (tableEval (s.tableImage x.g w.cx (s.physSlot x.g x.c (slot - 4)) bank) v).r32

/-! ## Soft maximum (R259 to R262) -/

/-- The row state's sum as a value. -/
def RowState.sum (r : RowState) : Num := if r.sInf then .inf false else .fin false r.sM r.sE

/-- Put a WF35 value into a row state's sum. -/
def RowState.withSum (r : RowState) : Num → RowState
  | .fin _ m e => { r with sInf := false, sM := m, sE := if m = 0 then 0 else e }
  | _ => { r with sInf := true, sM := 0, sE := 0 }

/-- One register's contribution to a row: unmasked values with their wide exponentials. -/
def rowPart (vals : List (Num × Bool)) : RowState :=
  let live := vals.filter (fun v => !v.2)
  let es := vals.map (fun v => if v.2 then Num.zero else match expWide v.1 with
    | .fin _ m e => .fin false m e
    | _ => .zero)
  let r : RowState :=
    { k := (live.filter (fun v => !v.1.isNan && expWide v.1 = .inf false)).length
      l := (live.filter (fun v => v.1 ≠ .inf true)).length
      nan := live.any (fun v => v.1.isNan) }
  r.withSum (tree (fun a b => (Num.add a b).wf35) .zero 10 es)

/-- The outputs of a row by the table of R260, with the row's S, k, L and NaN bit; none where it asks
for a repeat pass. -/
def rowOut (r : RowState) (vals : List (Num × Bool)) : Option (List Num) :=
  if r.nan then some (vals.map (fun _ => .nan))
  else if r.l = 0 then some (vals.map (fun _ => .zero))
  else if 0 < r.k then
    some (vals.map (fun v => if !v.2 && expWide v.1 = .inf false then f32div .one (Num.ofInt r.k) else .zero))
  else match r.sum with
    | .fin _ m _ =>
      if m = 0 then none
      else some (vals.map (fun v =>
        if v.2 || v.1 = .inf true then .zero else ((Num.div (expWide v.1) r.sum).wf35).r32))
    | _ => none

/-- The repeat pass of R261. -/
def repass (vals : List (Num × Bool)) : List Num :=
  let m := (vals.filter (fun v => !v.2 && v.1.finite)).foldl (fun (b : Option Num) v => match b with
    | none => some v.1
    | some a => some (Num.max a v.1)) none
  let sh := vals.map (fun v => (match v.1, m with
    | .fin _ _ _, some a => f32sub v.1 a
    | w, _ => w, v.2))
  let r := rowPart sh
  sh.map (fun v => if v.2 || v.1 = .inf true then .zero else ((Num.div (expWide v.1) r.sum).wf35).r32)

/-! ## Statistics (R265 to R268) -/

/-- A triple (count, mean, M2) with the clamps that its merges made. -/
structure Triple where
  n : Num
  mu : Num
  m2 : Num
  clamps : Nat := 0
  deriving DecidableEq, Repr

/-- The value is below zero. -/
def Num.negative : Num → Bool
  | .fin n m _ => n && m ≠ 0
  | .inf n => n
  | .nan => false

/-- The merge of R265. -/
def Triple.merge (a b : Triple) : Triple :=
  let cl := a.clamps + b.clamps
  if a.n.isZero then { b with clamps := cl }
  else if b.n.isZero then { a with clamps := cl }
  else
    let n := f32add a.n b.n
    let w := f32div b.n n
    let dl := f32sub b.mu a.mu
    let mu := f32fma dl w a.mu
    let t := f32mul (f32mul dl (f32mul dl w)) a.n
    let clamp (v : Num) : Num := if v.negative then .zero else v
    let cnt (v : Num) : Nat := ofBool v.negative
    { n := n, mu := mu, m2 := f32add (f32add (clamp a.m2) (clamp b.m2)) (clamp t)
      clamps := cl + cnt t + cnt a.m2 + cnt b.m2 }

/-- The triple of a register's elements (R266, R267). -/
def statOf (es : List Num) : Triple :=
  let k := es.headD .zero
  let leaves := es.map (fun e => (⟨.one, f32sub e k, .zero, 0⟩ : Triple))
  let t := tree Triple.merge ⟨.zero, .zero, .zero, 0⟩ 10 leaves
  if es.any (fun e => !e.finite) then { t with n := (Num.ofInt es.length).r32, mu := .nan, m2 := .nan }
  else { t with mu := f32add k t.mu }

/-! ## Stream arithmetic (R219, R220) -/

/-- The comparison of `sx.cmp`. -/
def cmpHolds (cond : Nat) (a b : Num) : Bool :=
  let un := a.isNan || b.isNan
  let eq := Num.eqv a b
  let lt := !un && Num.lt a b && !eq
  match cond with
  | 0 => eq
  | 1 => un || !eq
  | 2 => lt
  | 3 => !un && (lt || eq)
  | 4 => !un && !lt && !eq
  | _ => !un && !lt

/-- The FP32 result of a Stream operation other than `sx.sfn`. -/
def sxResult (opc cond : Nat) (a b c : Num) : Num :=
  match opc with
  | 0x40 => f32add a b
  | 0x41 => f32sub a b
  | 0x42 => f32mul a b
  | 0x43 => f32fma a b c
  | 0x44 => Num.min a b
  | 0x45 => Num.max a b
  | 0x46 => if cmpHolds cond a b then .one else .zero
  | 0x47 => if c.isZero then b else a
  | 0x48 => a.abs
  | 0x4A => Num.min (Num.max a b) c
  | _ => a

end Sys2Proof.Machine
end

