-- ==== Sys2Proof/Machine/Link.lean ====
section
/-! DEFINITION. A job's hidden state, and whole packets put into a Carousel queue with the admission, truncation
and hand-off rules (R286 to R290, R349, R351). -/

namespace Sys2Proof.Machine

/-- The hidden state of a job beside its registers. -/
def State.jobS (s : State) (j : Nat) : JobS := Tab.get {} s.job j

/-- Write a job's hidden state. -/
def State.setJobS (s : State) (j : Nat) (x : JobS) : State := { s with job := Tab.set {} s.job j x }

/-! ## Whole packets into Carousel queues -/

/-- The hand-off queue's job and index, if queue q is one (R348). -/
def handOff (q : Nat) : Option (Nat × Nat) :=
  if 9 ≤ q ∧ (q - 9) % 32 < 16 then some ((q - 9) / 32, (q - 9) % 32) else none

/-- The token posts of an index that wait: each says whether `SCHED_INJECT` made it. -/
def State.owedOf (s : State) (j x : Nat) : List Bool := Tab.get [] (s.jobS j).owed x

/-- Owe a token queue further posts, after those it is owed already (R351). -/
def State.owe (s : State) (j x : Nat) (l : List Bool) : State :=
  s.setJobS j { s.jobS j with owed := Tab.set [] (s.jobS j).owed x (s.owedOf j x ++ l) }

/-- A packet of some length has closed in a queue. In a hand-off queue its slot is written to the backing area, where the
program reads it (R350; log 122), and it counts toward its micro-batch, whose last packet owes a token (R351). -/
def State.cqClosed (s : State) (q len : Nat) : State :=
  match handOff q with
  | none => s
  | some (j, x) =>
    let s := s.cqFlushFrom q (s.get (cqFlds q).put - (8 + roundUp len 8))
    let u := s.jobS j
    let n := Tab.get 0 u.hoPkts x + 1
    if n < s.get (Reg.HO_CFG.PKTS j x) then s.setJobS j { u with hoPkts := Tab.set 0 u.hoPkts x n }
    else (s.setJobS j { u with hoPkts := Tab.set 0 u.hoPkts x 0 }).owe j x [false]

/-- A closed hand-off packet has the one length R349 allows. -/
def State.hoLenOk (s : State) (q len : Nat) : Bool :=
  (handOff q).isNone || len = s.get (cqFlds q).maxpkt

/-- The queue holds its producer: a packet is open, or there is no room and `FULL` is 0 (R287, R290). -/
def State.cqHolds (s : State) (q : Nat) : Bool :=
  s.flag (cqFlds q).en && ((s.cqOf q).opened.isSome || (!s.cqRoom q && !s.flag (cqFlds q).full))

/-- What became of a packet offered to a queue. -/
inductive Sent where
  | held | dropped | closed (len : Nat)
  deriving DecidableEq, Repr

/-- Offer one whole packet to a queue (R287, R288, R290). -/
def State.cqOffer (s : State) (q tag : Nat) (data : List Byte) : State × Sent :=
  if !s.flag (cqFlds q).en then (s.incSat (cqFlds q).drops 1, .dropped)
  else if s.cqHolds q then (s, .held)
  else if !s.cqRoom q then (s.cqDropFull q, .dropped)
  else
    let mx := s.get (cqFlds q).maxpkt
    let cut := mx < data.length
    let d := data.take mx
    let s := s.cqAppend q (leBytes 8 (lenWord true cut tag d.length) ++ padded d)
    let s := if cut then (s.incSat (cqFlds q).drops 1).put (cqFlds q).trunc 1 else s
    (s.cqClosed q d.length, .closed d.length)

end Sys2Proof.Machine
end

