-- ==== Sys2Proof/Machine/Dma.lean ====
section
/-! DEFINITION. The Juggler: what one iteration of `dmv`, `dtr`, `dgat`, `dsct` and `dfill` moves (R309 to
R315), its packets (R310), its byte ranges (R313) and its counters (R322). -/

namespace Sys2Proof.Machine

/-! ## Byte ranges (R313) -/

/-- The interval of bytes that a descriptor spans over a core's iterations, padding included. -/
def State.descRange (s : State) (x : At) (q : QEntry) (k : Nat) : Option (Int × Int) :=
  (List.range (s.qNest x.g x.c q).total).foldl (fun r i => match s.qOpnd x q k i, r with
    | .ok o, none => some o.tileSpan
    | .ok o, some (lo, hi) => some (min lo o.tileSpan.1, max hi o.tileSpan.2)
    | .error _, r => r) none

/-- The memories a descriptor may touch: a space number, and for scratchpads the cores. -/
def State.descCores (s : State) (x : At) (d : Desc) : List Nat :=
  match d.space with
  | 1 => (s.coresOf x.g x.c).map (coreIsland x.g)
  | 2 => [bits d.base 32 9]
  | _ => []

/-- An interval within its space. -/
def localRange (d : Desc) (r : Int × Int) : Int × Int :=
  let b : Int := if d.space = 2 then ((d.base - d.base % 2 ^ 22 : Nat) : Int) else 0
  (r.1 - b, r.2 - b)

/-- The ranges of descriptor fields k and l overlap on some pair of enabled cores (R313). -/
def State.rangesMeet (s : State) (x : At) (q : QEntry) (k l : Nat) : Bool :=
  let d := s.qDesc x.g x.c q k
  let e := s.qDesc x.g x.c q l
  let sp (z : Nat) : Nat := if z = 2 then 1 else z
  let hull (z : Nat) : Option (Int × Int) := (s.coresOf x.g x.c).foldl (fun r cx =>
    match s.descRange { x with cx := cx } q z, r with
    | some (a, b), some (lo, hi) => some (min lo a, max hi b)
    | some p, none => some p
    | none, r => r) none
  sp d.space = sp e.space && d.space < 4 &&
    (sp d.space ≠ 1 || (s.descCores x d).any (fun c => (s.descCores x e).contains c)) &&
    (match hull k, hull l with
      | some a, some b =>
        let a := localRange d a
        let b := localRange e b
        decide (a.1 ≤ b.2 ∧ b.1 ≤ a.2)
      | _, _ => false)

/-! ## Moves -/

/-- One destination element and the source element it takes, if a source gives one. -/
structure Mv where
  src : Opnd
  st : List Nat
  dst : Opnd
  t : List Nat
  deriving DecidableEq, Repr

/-- The source element is valid. -/
def Mv.sv (m : Mv) : Bool := m.src.valid m.st

/-- The destination element is valid. -/
def Mv.dv (m : Mv) : Bool := m.dst.valid m.t

/-- The destination takes its source's value. -/
def Mv.taken (m : Mv) : Bool := m.dv && m.sv

/-- The destination takes `PADVAL` (R309, R308, R315). -/
def Mv.padded (m : Mv) : Bool := !m.taken && !m.dst.d.keep && m.dst.d.layout = 0 && !m.dst.d.wmode

/-- The source coordinate of a destination element: one element along a zero stride (R309). -/
def Desc.srcCoord (d : Desc) (t : List Nat) : List Nat :=
  (List.range 6).map (fun k => if d.str k = 0 then 0 else t.getD k 0)

/-- An operand with dimension `dim` placed at an absolute coordinate, its tile coordinate there being 0
(R314). -/
def Opnd.atAbs (o : Opnd) (dim : Nat) (a : Int) : Opnd :=
  { o with off := o.off + (a + (o.d.padlo dim : Nat) - o.org.getD dim 0) * o.d.str dim,
           org := listSet o.org dim (a + (o.d.padlo dim : Nat)) }

/-- The bytes that elements of an operand occupy, each once, block scales among them. -/
def touched (ms : List (Opnd × List Nat)) : List Int :=
  (ms.flatMap (fun m =>
    let p := m.1.addr m.2
    (List.range ((p.2 + m.1.d.f.width + 7) / 8)).map (fun (i : Nat) => p.1 + (i : Int)) ++
      (if m.1.d.f.mx then [m.1.scaleAddr m.2] else []))).eraseDups

/-- Count an iteration's traffic in device memory: bytes at the stack or channel (R347) and 512-byte
granules at the Ring (R335). -/
def State.countTraffic (s : State) (x : At) (space : Nat) (bytes : List Int) (write : Bool) : State :=
  if space ≠ 0 then s
  else
    let s := bytes.foldl (fun (t : State) a => match t.pte x.j (bits a.toNat 21 31) with
      | some p =>
        let live := 2 ^ 21 * p.live + bits a.toNat 0 21
        t.countMem (if write then live else (t.readAddr x.j a.toNat).getD live) 1 write
      | none => t) s
    ((bytes.map (fun a => a / 512)).eraseDups).foldl (fun t a => t.countAccess (ringOf x.g) x.j (a.toNat * 512) 1) s

/-- A move that copies bits: one non-MX format and one storage exponent (R193). -/
def Mv.copies (m : Mv) : Bool := m.src.d.fmt = m.dst.d.fmt && m.src.exp = m.dst.exp

/-- Copy an element's code unchanged. -/
def State.moveBits (s : State) (x : At) (wr : Writer) (m : Mv) : Run State := do
  let code ← s.readCode x m.src m.st
  let s := s.watchNF wr.j wr.tag (!m.dst.d.f.mx && (m.dst.d.f.decode code).nonFinite)
  s.writeCode x m.dst m.t code

/-- Add the source value to a destination element (R279, R315). -/
def State.moveAtomic (s : State) (x : At) (wr : Writer) (m : Mv) : Run State := do
  let v ← s.readTrue x m.src m.st
  let cur ← s.readCode x m.dst m.t
  let v := v.scale m.dst.exp
  if m.dst.d.fmt = 5 then do
    let r := s.convert { wr with count := false } m.dst.d.f (m.dst.offset m.t) v
    r.1.writeCode x m.dst m.t ((cur + r.2.code) % 2 ^ 32)
  else do
    let w := v.r32
    let lossy : Bool := match v, w with
      | .fin _ _ _, .fin _ _ _ => !Num.eqv v w
      | .fin _ _ _, _ => true
      | _, _ => false
    let s := if lossy then s.inc (Reg.SPOT_RDLOSS.COUNT x.j) 1 else s
    let sum := Num.add (m.dst.d.f.decode cur) w
    let code := if m.dst.d.fmt = 1 then sum.to32 else sum.toBf
    let s := s.watchNF wr.j wr.tag (m.dst.d.f.decode code).nonFinite
    s.writeCode x m.dst m.t code

/-- One move to a destination without block scales. -/
def State.moveOne (s : State) (x : At) (wr : Writer) (raw : Bool) (m : Mv) : Run State :=
  if m.taken then
    if m.dst.d.wmode then s.moveAtomic x wr m
    else if raw || m.copies then s.moveBits x wr m
    else do
      let v ← s.readTrue x m.src m.st
      s.writeVal x m.dst wr m.t v
  else if m.padded then s.writeCode x m.dst m.t (s.padCode wr m.dst)
  else .ok s

/-- A destination block is copied unchanged from one source block (R193). -/
def blockCopies (ms : List Mv) : Bool :=
  match ms.find? Mv.dv with
  | none => false
  | some m0 =>
    let vs := ms.filter Mv.dv
    let b (o : Opnd) (t : List Nat) : Int := o.abs t 0 / 32
    let left (o : Opnd) (t : List Nat) : Int := min 32 ((o.d.ext 0 : Nat) - 32 * b o t)
    m0.copies && vs.all (fun m => m.sv && m.src.blockKey m.st = m0.src.blockKey m0.st &&
      m.src.abs m.st 0 % 32 = m.dst.abs m.t 0 % 32) &&
      left m0.src m0.st = left m0.dst m0.t && ((vs.length : Nat) : Int) = left m0.dst m0.t

/-- The moves into one MX block: the block is encoded from what it receives, or copied, then its
padding is written (R193, R199, R309, R310). -/
def State.moveBlock (s : State) (x : At) (wr : Writer) (ms : List Mv) : Run State :=
  match ms.find? Mv.dv with
  | none => .ok s
  | some m0 => do
    let s ←
      if blockCopies ms then do
        -- every source is read before a code or the scale is written (R313)
        let sc ← s.spaceNat x m0.src (m0.src.scaleAddr m0.st) 1
        let codes ← (ms.filter Mv.dv).mapM (fun m => do
          let c ← s.readCode x m.src m.st
          return (m.t, c))
        let s ← codes.foldlM (fun (t : State) e => t.writeCode x m0.dst e.1 e.2) s
        s.setSpaceNat x m0.dst (m0.dst.scaleAddr m0.t) sc 1
      else do
        let vs ← (ms.filter Mv.taken).mapM (fun m => do
          let v ← s.readTrue x m.src m.st
          return (m.t, v))
        if vs.isEmpty then
          if ms.any Mv.padded then s.setSpaceNat x m0.dst (m0.dst.scaleAddr m0.t) (mxScale m0.dst.d.f []) 1
          else return s
        else s.writeBlock x m0.dst wr vs
    s.writePads x m0.dst wr ((ms.filter Mv.padded).map Mv.t)

/-- Moves grouped by destination block, blocks in the order of their first element. -/
def moveBlocks (ms : List Mv) : List (List Mv) :=
  (ms.foldl (fun (acc : List (List Int × List Mv)) m =>
    let k := m.dst.blockKey m.t
    match acc.findIdx? (fun b => b.1 = k) with
    | some i => listSet acc i (k, (acc.getD i (k, [])).2 ++ [m])
    | none => acc ++ [(k, [m])]) []).map (·.2)

/-- The lines that the atomic operations of a list of moves act on, runs within one line together. -/
def atomicLines : List Mv → Option Int → Nat
  | [], _ => 0
  | m :: t, last =>
    if m.taken && m.dst.d.wmode then
      let l := (m.dst.addr m.t).1 / 256
      (if last = some l then 0 else 1) + atomicLines t (some l)
    else atomicLines t last

/-- Run a list of moves in order, and count its traffic (R309, R313, R322). `raw` copies bits; `tile` are the valid elements of
the destination tile, which in an MX tensor begin and end on block boundaries (R310). -/
def State.runMoves (s : State) (x : At) (wr : Writer) (raw : Bool) (tile : List (List Nat)) (ms : List Mv) : Run State := do
  let m0 ← match ms with
    | m :: _ => pure m
    | [] => Except.error (0, 0)
  let mx := m0.dst.d.f.mx
  let tk := ms.filter Mv.taken
  let blocks := moveBlocks ms
  let pads := if mx then (blocks.filter (fun b => b.any Mv.dv)).flatMap (fun b => b.filter Mv.padded)
    else ms.filter Mv.padded
  if mx && m0.dst.d.layout = 0 && !m0.dst.blocksWhole tile then .error (0x06, 0)
  else do
    let rd := touched (tk.map (fun m => (m.src, m.st)))
    let s := s.countTraffic x m0.src.d.space rd false
    let s ← if mx then blocks.foldlM (fun (t : State) b => t.moveBlock x wr b) s
      else ms.foldlM (fun (t : State) m => t.moveOne x wr raw m) s
    let wrs := (tk ++ pads).map (fun m => (m.dst, m.t))
    let s := s.countTraffic x m0.dst.d.space (touched wrs) true
    let cx := (s.view x.g x.cx).cx
    let s := s.inc (Reg.DMA_RD_BYTES.N x.g cx)
      (((tk.map (fun m => (m.src, m.st))).eraseDups.length * m0.src.d.f.width + 7) / 8)
    let s := s.inc (Reg.DMA_WR_BYTES.N x.g cx) ((wrs.length * m0.dst.d.f.width + 7) / 8)
    let s := s.inc (Reg.DMA_PAD_ELEMS.N x.g cx) pads.length
    let dc := if m0.dst.d.space = 2 then spaceCore m0.dst.d.base else (x.g, cx)
    return s.inc (Reg.SP_ATOMICS.N dc.1 dc.2) (atomicLines ms none)

/-- Run moves; an empty list moves nothing. -/
def State.moves (s : State) (x : At) (wr : Writer) (raw : Bool) (tile : List (List Nat)) (ms : List Mv) : Run State :=
  if ms.isEmpty then .ok s else s.runMoves x wr raw tile ms

/-! ## The iterations -/

/-- The writer of a copy: it is counted where format or storage exponent differs (R206). -/
def State.copyWriter (s : State) (x : At) (q : QEntry) (o0 o1 : Opnd) : Writer :=
  { s.qWriter x q 1 with count := o0.d.fmt ≠ o1.d.fmt || o0.exp ≠ o1.exp }

/-- One iteration of `dmv` to memory (R309). -/
def State.iterDmv (s : State) (x : At) (q : QEntry) (i : Nat) : Run State := do
  let o0 ← s.qOpnd x q 0 i
  let o1 ← s.qOpnd x q 1 i
  s.moves x (s.copyWriter x q o0 o1) false (o1.d.coords.filter o1.valid)
    (o1.d.coords.map (fun t => ⟨o0, o0.d.srcCoord t, o1, t⟩))

/-- `PERM[k]` of a `dtr` (R104). -/
def permOf (w : Body) (k : Nat) : Nat := fbits w (22 + 3 * k) 3

/-- The source coordinate of destination t under `PERM` (R311). -/
def permCoord (w : Body) (t : List Nat) : List Nat :=
  (List.range 6).foldl (fun a k => listSet a (permOf w k) (t.getD k 0)) [0, 0, 0, 0, 0, 0]

/-- One iteration of `dtr` (R311, R313): in place, every source code is read before any is written. -/
def State.iterDtr (s : State) (x : At) (q : QEntry) (i : Nat) : Run State := do
  let o0 ← s.qOpnd x q 0 i
  let o1 ← s.qOpnd x q 1 i
  let ms := o1.d.coords.map (fun t => (⟨o0, permCoord q.word t, o1, t⟩ : Mv))
  let wr := { s.qWriter x q 1 with count := false }
  if wMod q.word / 32 = 1 then do
    let codes ← (ms.filter Mv.taken).mapM (fun m => do
      let c ← s.readCode x m.src m.st
      return (m, c))
    let s ← s.moves x wr true [] ms
    codes.foldlM (fun (t : State) p => t.writeCode x p.1.dst p.1.t p.2) s
  else s.moves x wr true [] ms

/-- The index that element n of D2 gives: none for padding (R314). -/
def State.dmaIndex (s : State) (x : At) (o2 : Opnd) (n : Nat) : Run (Option Nat) :=
  if o2.valid [n] then do
    let v ← s.readCode x o2 [n]
    return some v
  else return none

/-- `DIM` of `dgat` and `dsct`. -/
def dimOf (w : Body) : Nat := fbits w 37 3

/-- Count the index elements read and those skipped. -/
def State.countIndex (s : State) (x : At) (o2 : Opnd) (ns : List Nat) (skipped : Nat) : State :=
  let cx := (s.view x.g x.cx).cx
  let vs := ns.filter (fun n => o2.valid [n])
  let s := s.countTraffic x o2.d.space (touched (vs.map (fun n => (o2, [n])))) false
  (s.inc (Reg.DMA_RD_BYTES.N x.g cx) (4 * vs.length)).inc (Reg.DMA_IDX_SKIP.N x.g cx) skipped

/-- One iteration of `dgat` (R314). -/
def State.iterDgat (s : State) (x : At) (q : QEntry) (i : Nat) : Run State := do
  let o0 ← s.qOpnd x q 0 i
  let o1 ← s.qOpnd x q 1 i
  let o2 ← s.qOpnd x q 2 i
  let dim := dimOf q.word
  let ns := List.range (o2.d.tile 0)
  let idx ← ns.mapM (fun n => s.dmaIndex x o2 n)
  let ms := o1.d.coords.filterMap (fun t =>
    match idx.getD (t.getD dim 0) none with
    | some a => if a < o0.d.ext dim then
        some (⟨o0.atAbs dim a, listSet (o0.d.srcCoord t) dim 0, o1, t⟩ : Mv) else none
    | none => none)
  let skipped := (idx.filter (fun a => match a with
    | some a => decide (o0.d.ext dim ≤ a)
    | none => false)).length
  let s := s.countIndex x o2 ns skipped
  s.moves x (s.copyWriter x q o0 o1) false (o1.d.coords.filter o1.valid) ms

/-- One iteration of `dsct` (R314): slices in D2's element order. -/
def State.iterDsct (s : State) (x : At) (q : QEntry) (i : Nat) : Run State := do
  let o0 ← s.qOpnd x q 0 i
  let o1 ← s.qOpnd x q 1 i
  let o2 ← s.qOpnd x q 2 i
  let dim := dimOf q.word
  (List.range (o2.d.tile 0)).foldlM (fun (s : State) n => do
    let a ← s.dmaIndex x o2 n
    match a with
    | none => return s
    | some a =>
      if o1.d.ext dim ≤ a then return s.countIndex x o2 [n] 1
      else
        let o := o1.atAbs dim a
        let ms := (o1.d.coords.filter (fun t => t.getD dim 0 = 0)).filterMap (fun t =>
          if n < o0.d.tile dim then some (⟨o0, listSet (o0.d.srcCoord t) dim n, o, t⟩ : Mv) else none)
        let s := s.countIndex x o2 [n] 0
        s.moves x (s.copyWriter x q o0 o1) false ((ms.filter Mv.dv).map Mv.t) ms) s

/-- `VALUE` of a `dfill` (R104). -/
def fillValue (w : Body) : Nat := fbits w 8 32

/-- One iteration of `dfill` (R108, R309). -/
def State.iterDfill (s : State) (x : At) (q : QEntry) (i : Nat) : Run State := do
  let o ← s.qOpnd x q 0 i
  let wr := { s.qWriter x q 0 with count := false }
  let f := o.d.f
  let vs := o.d.coords.filter o.valid
  let pads := o.padsToWrite
  let code := fillValue q.word % 2 ^ f.width
  if f.mx && !o.blocksWhole vs then .error (0x06, 0)
  else do
    let s := s.watchNF x.j wr.tag (!vs.isEmpty && (f.decode code).nonFinite)
    let s ← vs.foldlM (fun (t : State) p => t.writeCode x o p code) s
    let s ← if f.width < 8 then
        vs.foldlM (fun (t : State) p => t.setSpaceNat x o (o.scaleAddr p) 0x7F 1) s
      else pure s
    let s ← s.writePads x o wr pads
    let s := s.countTraffic x o.d.space (touched ((vs ++ pads).map (fun t => (o, t)))) true
    let cx := (s.view x.g x.cx).cx
    let s := s.inc (Reg.DMA_WR_BYTES.N x.g cx) (((vs.length + pads.length) * f.width + 7) / 8)
    return s.inc (Reg.DMA_PAD_ELEMS.N x.g cx) pads.length

/-! ## Packets (R310, R443) -/

/-- The payload of a packet: D0's valid elements, converted to D1's format and packed. -/
def State.packetData (s : State) (x : At) (wr : Writer) (o0 o1 : Opnd) : Run (State × List Byte) :=
  (o0.d.coords.filter o0.valid).foldlM (fun (a : State × List Byte) t => do
    let n := o1.d.f.width / 8
    if !o0.d.f.mx && o0.d.fmt = o1.d.fmt && o0.exp = o1.exp then do
      let c ← a.1.readCode x o0 t
      return (a.1.watchNF wr.j wr.tag (o1.d.f.decode c).nonFinite, a.2 ++ leBytes n c)
    else do
      let v ← a.1.readTrue x o0 t
      let r := a.1.convert wr o1.d.f o1.off (v.scale o1.exp)
      return (r.1, a.2 ++ leBytes n r.2.code)) (s, [])

/-- Send one iteration's packet; the Bool is false where the queue holds the producer and nothing
happened. -/
def State.iterPacket (s : State) (x : At) (q : QEntry) (i : Nat) : Run (State × Bool) := do
  let o0 ← s.qOpnd x q 0 i
  let o1 ← s.qOpnd x q 1 i
  let wr := s.copyWriter x q o0 o1
  let ts := o0.d.coords.filter o0.valid
  let cx := (s.view x.g x.cx).cx
  let count (s : State) (len : Nat) : State :=
    let s := s.countTraffic x o0.d.space (touched (ts.map (fun t => (o0, t)))) false
    (s.inc (Reg.DMA_RD_BYTES.N x.g cx) ((ts.length * o0.d.f.width + 7) / 8)).inc
      (Reg.DMA_WR_BYTES.N x.g cx) len
  if o1.d.space = 4 then
    let cq := jobQueue x.j (o1.d.base % 256)
    if s.cqHolds cq then return (s, false)
    else do
      let r ← s.packetData x wr o0 o1
      let u := r.1.cqOffer cq o1.d.tag r.2
      match u.1.cqFault, u.2 with
      | some f, _ => .error (f.2.1, if f.2.1 = 0x0A then faultPayload 0 f.2.2 else 0)
      | none, .closed n => if u.1.hoLenOk cq n then return (count u.1 r.2.length, true) else .error (0x06, 0)
      | none, _ => return (count u.1 r.2.length, true)
  else do
    let r ← s.packetData x wr o0 o1
    let p := bits o1.d.base 0 4
    let dst := bits o1.d.base 16 16
    let k := { r.1.jobPacket x.j 0 3 dst (504 + p) with
      src := r.1.get Reg.GL_DEV_ID.ID, qci := bits o1.d.base 32 8, tag := o1.d.tag, data := r.2 }
    let s := r.1.sendOn p k
    let s := { s with glOut := Tab.set 0 s.glOut x.j (Tab.get 0 s.glOut x.j + 1) }
    return (count (s.inc Reg.GL_OUT.COUNT 1) r.2.length, true)

/-! ## Whole operations -/

/-- D1 of a `dmv` is a packet destination. -/
def State.isPacket (s : State) (g c : Nat) (q : QEntry) : Bool :=
  q.opc = 0x20 && 4 ≤ (s.qDesc g c q 1).space

/-- One iteration of a DMA operation; the Bool is false where a packet is held. -/
def State.iterDma (s : State) (x : At) (q : QEntry) (i : Nat) : Run (State × Bool) :=
  if s.isPacket x.g x.c q then s.iterPacket x q i
  else do
    let s ← match q.opc with
      | 0x20 => s.iterDmv x q i
      | 0x21 => s.iterDtr x q i
      | 0x22 => s.iterDgat x q i
      | 0x23 => s.iterDsct x q i
      | _ => s.iterDfill x q i
    return (s, true)

/-- Where a core's iterations stopped: the next one, and an error met there. -/
structure DmaEnd where
  next : Nat
  err : Option (Nat × Nat) := none
  deriving DecidableEq, Repr

/-- Run a core's iterations from number i until a packet is held or an error is met. -/
def State.runDma (s : State) (x : At) (q : QEntry) : Nat → Nat → State × DmaEnd
  | 0, i => (s, ⟨i, none⟩)
  | n + 1, i => match s.iterDma x q i with
    | .ok (t, true) => State.runDma t x q n (i + 1)
    | .ok (t, false) => (t, ⟨i, none⟩)
    | .error e => (s, ⟨i, some e⟩)

/-- The operation runs ordered (R313). -/
def State.runsOrdered (s : State) (x : At) (q : QEntry) : Bool :=
  (q.opc = 0x20 || q.opc = 0x22 || q.opc = 0x23) && !s.isPacket x.g x.c q &&
    (s.rangesMeet x q 0 1 || (q.opc = 0x23 && s.rangesMeet x q 2 1))

end Sys2Proof.Machine
end

