-- ==== Sys2Proof/Machine/Matrix.lean ====
section
/-! DEFINITION. The iterations of array operations on one core: the weight loads and tile steps of `mwl`, `mma` and
`mmx`, with window placement, overflow and replay, and the iterations of `accp`, `accz` and `accd` (R110 to R114, R133
to R182). -/

namespace Sys2Proof.Machine

/-- The tile an iteration names (R91): field `T` displaced by slot 8. -/
def tileIdx (w : Body) (n : Nest) (i cx : Nat) : Int := (fbits w 35 5 : Nat) + n.off i 8 cx

/-- The physical tile of an iteration on a logical core. -/
def State.opTile (s : State) (x : At) (q : QEntry) (i : Nat) : Nat :=
  s.tileOf x.g x.c x.cx (tileIdx q.word (s.qNest x.g x.c q) i x.cx).toNat

/-- The physical tile of an `mmx` iteration's indices: that of `T` + 1. -/
def State.opTile1 (s : State) (x : At) (q : QEntry) (i : Nat) : Nat :=
  s.tileOf x.g x.c x.cx ((tileIdx q.word (s.qNest x.g x.c q) i x.cx).toNat + 1)

/-- The iterations before i that name its tile. -/
def State.priorNamings (s : State) (x : At) (q : QEntry) (i : Nat) : Nat :=
  let n := s.qNest x.g x.c q
  ((List.range i).filter (fun k => tileIdx q.word n k x.cx = tileIdx q.word n i x.cx)).length

/-- `CROSS`, `NEWWIN` or `MIN`, `WL` and `NANP` of `mma` and `mmx` (R109). -/
def mCross (w : Body) : Bool := bit (wMod w) 5
/-- `NEWWIN` of `mma`, `MIN` of `mmx`. -/
def mNewwin (w : Body) : Bool := bit (wMod w) 4
/-- `WL`. -/
def mWL (w : Body) : Bool := bit (wMod w) 3
/-- `NANP`. -/
def mNanp (w : Body) : Bool := bit (wMod w) 2

/-- The headroom H of an `mma` (R165); 8 for an `mmx` (R178). -/
def headOf (opc : Nat) (w : Body) : Nat :=
  if opc = 0x32 ∨ fbits w 31 4 = 0 then 8 else fbits w 31 4

/-- The rows of an iteration's activation tile (R140). -/
def State.iterRows (s : State) (x : At) (q : QEntry) (i : Nat) : Nat :=
  match s.qOpnd x q 0 i with
  | .ok o => o.validExt 1
  | .error _ => 0

/-! ## The tile steps in progress on a core (R162, R173) -/

/-- The key of a logical core's tile steps of a context. -/
def State.stepKey (s : State) (x : At) : Nat := x.c + (if (s.view x.g x.cx).second then 2 else 0)

/-- The tile steps in progress of a context on a logical core, oldest first. -/
def State.stepsOf (s : State) (x : At) : List TileStep :=
  Tab.get [] (s.core x.g (s.view x.g x.cx).cx).steps (s.stepKey x)

/-- Write them. -/
def State.setSteps (s : State) (x : At) (l : List TileStep) : State :=
  let v := s.view x.g x.cx
  let k := s.core x.g v.cx
  s.setCore x.g v.cx { k with steps := Tab.set [] k.steps (s.stepKey x) l }

/-- Every tile step in progress on a physical core. -/
def CoreS.allSteps (k : CoreS) : List TileStep := k.steps.flatMap (·.2)

/-- `INFLIGHT` of a tile: the rows of its tile steps that are not written, those that wait to re-enter among them
(R162). -/
def State.refreshTile (s : State) (g cx t : Nat) : State :=
  s.put (Reg.ACC_TILE.INFLIGHT g cx t) (min 255 ((((s.core g cx).allSteps).filter (fun st =>
    st.tile = t || st.tile1 = some t)).foldl (fun a st => a + (st.p.m - st.row)) 0))

/-- Refresh `INFLIGHT` of the tiles of a tile step. -/
def State.refreshStep (s : State) (x : At) (st : TileStep) : State :=
  let cx := (s.view x.g x.cx).cx
  let s := s.refreshTile x.g cx st.tile
  match st.tile1 with
  | some t => s.refreshTile x.g cx t
  | none => s

/-- The hold entries of a core's array, or of a half of it, that tile steps take (R173). -/
def State.holdsUsed (s : State) (x : At) : Nat :=
  let k := s.core x.g (s.view x.g x.cx).cx
  ((k.steps.filter (fun e => !s.isSplit x.g || e.1 % 2 = x.c)).flatMap (·.2)).countP (fun st => st.p.m ≠ 0)

/-- A hold entry is free: an array has 8, a half 4 (R173). -/
def State.holdFree (s : State) (x : At) : Bool := s.holdsUsed x < (if s.isSplit x.g then 4 else 8)

/-- A range of a core's scratchpad meets one that a tile step holds (R173). -/
def State.rangeHeld (s : State) (g cx : Nat) (lo hi : Int) : Bool :=
  ((s.core g cx).allSteps).any (fun st => st.ranges.any (fun r => decide (r.1 ≤ hi ∧ lo ≤ r.2)))

/-- A line of a core's scratchpad is held. -/
def State.lineHeld (s : State) (g cx line : Nat) : Bool :=
  s.rangeHeld g cx ((256 * line : Nat) : Int) ((256 * line + 255 : Nat) : Int)

/-- The first and last byte of a list of addresses. -/
def spanOf : List Int → Option (Int × Int)
  | [] => none
  | a :: t => some (t.foldl (fun r b => (min r.1 b, max r.2 b)) (a, a))

/-- The bytes that the valid elements of an operand span, and those of its block scales (R173, R306, R307). -/
def Opnd.spans (o : Opnd) : List (Int × Int) :=
  let ts := o.d.coords.filter o.valid
  let w : Int := ((o.d.f.width + 7) / 8 : Nat)
  ((spanOf (ts.map (fun t => (o.addr t).1))).toList.map (fun r => (r.1, r.2 + w - 1))) ++
    (if o.d.f.mx then (spanOf (ts.map o.scaleAddr)).toList else [])

/-- The scratchpad of an operand in space 1 or 2: its physical core, and where the operand's bytes begin there. -/
def State.opndCore (s : State) (x : At) (o : Opnd) : Option (Nat × Nat × Nat) :=
  if o.d.space = 1 then some (x.g, (s.view x.g x.cx).cx, (s.view x.g x.cx).spOff)
  else if o.d.space = 2 then
    let k := spaceCore o.d.base
    some (k.1, (s.view k.1 k.2).cx, (s.view k.1 k.2).spOff)
  else none

/-- The scratchpad ranges that an operand of a core spans, as its physical core numbers them. -/
def State.opndRanges (s : State) (x : At) (o : Opnd) : List (Int × Int) :=
  o.spans.map (fun r => (r.1 + ((s.view x.g x.cx).spOff : Nat), r.2 + ((s.view x.g x.cx).spOff : Nat)))

/-- An operand's bytes meet a held range of its core (R173). -/
def State.opndHeld (s : State) (x : At) (o : Opnd) : Bool :=
  match s.opndCore x o with
  | none => false
  | some (g, cx, off) =>
    let m : Int := if o.d.space = 2 then ((o.d.base - o.d.base % 2 ^ 22 : Nat) : Int) else 0
    o.spans.any (fun r => s.rangeHeld g cx (r.1 - m + (off : Nat)) (r.2 - m + (off : Nat)))

/-! ## Loads and the beginning of an iteration -/

/-- Load the weights of an iteration from operand k. -/
def State.loadIter (s : State) (x : At) (q : QEntry) (k i : Nat) : Run State := do
  let o ← s.qOpnd x q k i
  let t ← s.readWeights x o
  return s.loadWeights x t

/-- The step that an iteration runs, from the weights in place: its extents by R140, R143, R152 and R155. -/
def State.stepOf (s : State) (x : At) (q : QEntry) (o0 : Opnd) (codes scales : Tab Nat) : Step :=
  let wt := s.activeTile x
  let cross := mCross q.word
  let kw := if cross then wt.nValid else wt.kValid
  let nw := if cross then wt.kValid else wt.nValid
  { aFmt := o0.d.fmt, aExp := o0.exp, aCodes := codes, aScales := scales, wt := wt, m := o0.validExt 1
    kv := min (o0.validExt 0) kw, nv := min nw (s.arrCols x.g (s.view x.g x.cx).cx), cross := cross }

/-- Begin an iteration (R111, R136, R173, R178): the change of bank, the selection of an `mmx`, and the tile step with the
operands it reads and the ranges it holds. An iteration without rows places no window and writes no row (R133); where it is the
first of an `mmx` to name its tiles, the selection begins all the same (R178; DESIGN CHOICE, log 117). -/
def State.beginIter (s : State) (x : At) (q : QEntry) (i : Nat) : Run State := do
  let cx := (s.view x.g x.cx).cx
  let s := s.changeBank x
  let o0 ← s.qOpnd x q 0 i
  let t := s.opTile x q i
  let t1 := s.opTile1 x q i
  let s := if q.opc = 0x32 && s.priorNamings x q i = 0 then s.startSelect (mNewwin q.word) x.g cx t t1 else s
  let r ← s.readArray x o0
  let p := s.stepOf x q o0 r.1 r.2
  let ws ← if mWL q.word then do
      let o1 ← s.qOpnd x q 1 i
      pure (s.opndRanges x o1)
    else pure []
  let b := s.useBank x
  let st : TileStep :=
    { seq := q.seq, it := i, p := p, tile := t, tile1 := if q.opc = 0x32 then some t1 else none, bank := b
      loads := Tab.get 0 (s.core x.g cx).loads b, ranges := if p.m = 0 then [] else s.opndRanges x o0 ++ ws }
  let s := s.inc (Reg.ARR_ROWS.N x.g cx) p.m
  let k := s.core x.g cx
  let s := s.setCore x.g cx { k with crossIt := k.crossIt + (if p.cross && p.m ≠ 0 then 1 else 0) }
  return (s.setSteps x (s.stepsOf x ++ [st])).refreshStep x st

/-! ## Rows, overflow and replay -/

/-- How the writing of a tile step's rows ended: done, at an overflowing row, or with `ACC_RANGE`'s payload. -/
inductive RowsEnd where
  | done
  | spill (col : Nat)
  | err (code payload : Nat)
  deriving DecidableEq, Repr

/-- Write row r of a tile step. -/
def State.rowTry (s : State) (x : At) (q : QEntry) (st : TileStep) (r : Nat) : RowTry :=
  let cx := (s.view x.g x.cx).cx
  match st.tile1 with
  | some t1 => s.maxRow st.p (mNewwin q.word) (mNanp q.word) x.g cx st.tile t1 r
      (s.priorNamings x q st.it * s.arrRows x.g cx * groupOf (classOf st.p.aFmt))
  | none => s.addRow st.p x.g cx st.tile r

/-- Write n rows of a tile step from row r on, up to its first overflow (R170). -/
def State.rowsFrom (s : State) (x : At) (q : QEntry) (st : TileStep) : Nat → Nat → State × Nat × RowsEnd
  | 0, r => (s, r, .done)
  | n + 1, r => match s.rowTry x q st r with
    | .ok t => State.rowsFrom t x q st n (r + 1)
    | .error col => (s, r, .spill col)

/-- The `ACC_RANGE` error of a tile step at a row and column (R174). -/
def State.accRange (s : State) (x : At) (st : TileStep) (r col : Nat) : RowsEnd :=
  .err 0x08 (accRangePayload (s.tileE x.g (s.view x.g x.cx).cx st.tile) st.tile r col st.it)

/-- Place a tile step's window before its first row is written (R165, R178): none where E would pass 511. -/
def State.placeStep (s : State) (x : At) (q : QEntry) (st : TileStep) : Option State :=
  let cx := (s.view x.g x.cx).cx
  if st.placed || st.p.m = 0 then some s
  else
    (s.put (Reg.ACC_TILE.REPLAYS x.g cx st.tile) 0).placeWindow
      (q.opc = 0x31 && s.priorNamings x q st.it = 0 && mNewwin q.word) (headOf q.opc q.word) x.g cx st.tile st.p.bound

/-- A replay of the tile step would be the fifth, or would take E above 511 (R174). -/
def State.replayBarred (s : State) (x : At) (st : TileStep) : Bool :=
  let cx := (s.view x.g x.cx).cx
  s.get (Reg.ACC_TILE.REPLAYS x.g cx st.tile) = 4 ||
    decide (511 < s.tileE x.g cx st.tile + (s.get (Reg.ACC_TILE.HSTEP x.g cx st.tile) : Nat))

/-- The tile step's rows are written as far as they go (R170, R174): the step as it stands then, and how that ended. -/
def State.writeStep (s : State) (x : At) (q : QEntry) (st : TileStep) : State × TileStep × RowsEnd :=
  match s.placeStep x q st with
  | none => (s, st, s.accRange x st 0 0)
  | some s =>
    let r := s.rowsFrom x q st (st.p.m - st.row) st.row
    let st' := { st with placed := true, row := r.2.1, spilled := false }
    match r.2.2 with
    | .spill col =>
      if r.1.replayBarred x st then (r.1, st', r.1.accRange x st r.2.1 col)
      else (r.1, { st' with spilled := true }, .spill col)
    | e => (r.1, st', e)

/-- A later load has begun into the bank of a tile step since the step began (R172): one was made there, or the context's
next load, which has begun, writes there. -/
def State.bankTouched (s : State) (x : At) (st : TileStep) (next : Bool) : Bool :=
  Tab.get 0 (s.core x.g (s.view x.g x.cx).cx).loads st.bank ≠ st.loads || (next && s.loadBank x = st.bank)

/-- What a replay counts and shifts before its rows enter again (R171, R172): `REPLAYS`, the counters (the rows enter the
array again, R159, log 107), the reload of a weight tile that a later load has replaced, and the tile by `HSTEP`. The reload
writes the latch array too, whose words are the bank's own. -/
def State.replayShift (s : State) (x : At) (st : TileStep) (next : Bool) : State :=
  let cx := (s.view x.g x.cx).cx
  let t := st.tile
  let rows := st.p.m - st.row
  let step := s.get (Reg.ACC_TILE.HSTEP x.g cx t)
  let s' := (s.inc (Reg.ACC_TILE.REPLAYS x.g cx t) 1).inc (Reg.ACC_REPLAYS.N x.g cx) 1
  let s' := (s'.inc (Reg.ACC_REPLAY_CLK.N x.g cx) (rows + 8)).inc (Reg.ARR_ROWS.N x.g cx) rows
  let s' := if s.bankTouched x st next then s'.inc (Reg.ACC_RELOADS.N x.g cx) 1 else s'
  (s'.accShift x.g cx t step).setTileE x.g cx t (s'.tileE x.g cx t + (step : Nat))

/-- Replay a spilled tile step: shift by `HSTEP`, then enter row m and the rows after it again (R171). -/
def State.replayStep (s : State) (x : At) (q : QEntry) (st : TileStep) (next : Bool) : State × TileStep × RowsEnd :=
  (s.replayShift x st next).writeStep x q { st with spilled := false }

/-- The oldest tile step of a context on a core replaced by what became of it. -/
def State.setOldest (s : State) (x : At) (st : TileStep) : State :=
  (match s.stepsOf x with
    | _ :: l => s.setSteps x (st :: l)
    | [] => s).refreshStep x st

/-- The oldest tile step retires. -/
def State.popStep (s : State) (x : At) (st : TileStep) : State :=
  (s.setSteps x (s.stepsOf x).tail).refreshStep x st

/-- Finish a tile step at a stop, replays included (R73): `n` bounds its replays. -/
def State.finishStep (s : State) (x : At) (q : QEntry) : Nat → TileStep → State
  | 0, _ => s
  | n + 1, st =>
    let r := if st.spilled then s.replayStep x q st false else s.writeStep x q st
    match r.2.2 with
    | .spill _ => State.finishStep r.1 x q n r.2.1
    | _ => r.1

/-! ## Preload, clear, drain -/

/-- One iteration of `accp`. -/
def State.iterAccp (s : State) (x : At) (q : QEntry) (i : Nat) : Run State := do
  let o ← s.qOpnd x q 0 i
  s.tilePreload x o (bit (wMod q.word) 5) (s.view x.g x.cx).cx (s.opTile x q i)

/-- One iteration of `accz`. -/
def State.iterAccz (s : State) (x : At) (q : QEntry) (i : Nat) : Run State :=
  .ok (s.tileClear x.g (s.view x.g x.cx).cx (s.opTile x q i))

/-- One iteration of `accd` (R114, R181, R182). -/
def State.iterAccd (s : State) (x : At) (q : QEntry) (i : Nat) : Run State := do
  let o ← s.qOpnd x q 0 i
  let cx := (s.view x.g x.cx).cx
  let t := s.opTile x q i
  if o.d.f.mx && !o.blocksWhole (o.d.coords.filter o.valid) then .error (0x06, 0)
  else do
    let wr := { s.qWriter x q 0 with mode := Rnd.of (wMod q.word / 16) }
    let s ← s.tileDrain x o wr cx t
    return if bit (wMod q.word) 3 then s.tileClear x.g cx t else s

/-- `accp`, `accz` and `accd` wait until no row of their tile is in flight (R181, R183). -/
def State.tileQuiet (s : State) (x : At) (q : QEntry) (i : Nat) : Bool :=
  s.get (Reg.ACC_TILE.INFLIGHT x.g (s.view x.g x.cx).cx (s.opTile x q i)) = 0

end Sys2Proof.Machine
end

