-- ==== Sys2Proof/Machine/Lanes.lean ====
section
/-! DEFINITION. The iterations of Stream, update and Lane operations on one core (R213 to R235, R253 to
R269, R358 to R363). -/

namespace Sys2Proof.Machine

/-- Count a core counter. -/
def State.coreInc (s : State) (x : At) (f : Nat → Nat → Fld) (n : Nat) : State :=
  s.inc (f x.g (s.view x.g x.cx).cx) n

/-! ## Stream operations -/

/-- The inputs a Stream operation reads, as descriptor fields (R116). -/
def sxInputs (opc : Nat) : List Nat :=
  match opc with
  | 0x43 => [0, 1, 2]
  | 0x47 => [0, 1, 2]
  | 0x4A => [0, 1, 2]
  | 0x48 => [0]
  | 0x49 => [0]
  | 0x4B => [0]
  | _ => [0, 1]

/-- `O1`: D4 is written too. -/
def sxO1 (w : Body) : Bool := bit (wMod w) 3

/-- The outputs of a Stream operation. -/
def sxOutputs (w : Body) : List Nat := if sxO1 w then [3, 4] else [3]

/-- The first tile coordinate of dimension k that can be valid. -/
def Opnd.firstValid (o : Opnd) (k : Nat) : Nat :=
  if o.d.nset.contains k then (max 0 ((o.d.padlo k : Int) - o.org.getD k 0)).toNat else 0

/-- The number of valid tile coordinates of dimension k (R303). -/
def Opnd.validLen (o : Opnd) (k : Nat) : Nat :=
  ((List.range (o.d.tile k)).filter (fun t =>
    let a := o.org.getD k 0 + (t : Nat) - (o.d.padlo k : Nat)
    !o.d.nset.contains k || (0 ≤ a && decide (a < (o.d.ext k : Nat))))).length

/-- The coordinate at which an operand presents element t of the output `o3` (R213, R214). -/
def Opnd.at (o o3 : Opnd) (t : List Nat) : List Nat :=
  (List.range 6).map (fun k =>
    if o.d.str k = 0 then 0 else o.firstValid k + (t.getD k 0 - o3.firstValid k))

/-- W of R215. -/
def State.sxChunk (s : State) (g c : Nat) (q : QEntry) : Nat :=
  if (sxInputs q.opc ++ sxOutputs q.word).all (fun k => (s.qDesc g c q k).f.width ≤ 16) then 1024 else 512

/-- The chunks of an iteration. -/
def State.sxChunks (s : State) (x : At) (q : QEntry) (i : Nat) : Nat :=
  match s.qOpnd x q 3 i with
  | .ok o =>
    let w := s.sxChunk x.g x.c q
    ((o.d.coords.filter o.valid).length + w - 1) / w
  | .error _ => 0

/-- Read an input element widened to FP32, counting a lossy read (R194). -/
def State.readIn (s : State) (x : At) (o : Opnd) (t : List Nat) : Run (State × Num) := do
  let r ← s.readWide x o t
  return (if r.2 then s.inc (Reg.SPOT_RDLOSS.COUNT x.j) 1 else s, r.1)

/-- Read the inputs of a chunk and compute its results (R219). -/
def State.sxCompute (s : State) (x : At) (q : QEntry) (ins : List Opnd) (o3 : Opnd) (ts : List (List Nat)) :
    Run (State × List (List Nat × Num)) :=
  ts.foldlM (fun (a : State × List (List Nat × Num)) t => do
    let r ← ins.foldlM (fun (b : State × List Num) o => do
      let v ← b.1.readIn x o (o.at o3 t)
      return (v.1, b.2 ++ [v.2])) (a.1, [])
    let v (k : Nat) : Num := r.2.getD ((sxInputs q.opc).findIdx (· = k)) .zero
    let res := if q.opc = 0x4B then r.1.sfuEval x (fbits q.word 36 4) q.bank (v 0)
      else sxResult q.opc (fbits q.word 37 3) (v 0) (v 1) (v 2)
    return (r.1, a.2 ++ [(t, res)])) (s, [])

/-- Write an output of a chunk: elements `lo` to `hi` − 1 of the results so far; MX blocks whose last
element lies among them (R221). -/
def State.sxWrite (s : State) (x : At) (wr : Writer) (o o3 : Opnd) (res : List (List Nat × Num)) (lo hi total : Nat) :
    Run State := do
  let vs := res.map (fun v => (o.at o3 v.1, v.2))
  if o.d.f.mx then
    let key (v : List Nat × Num) := o.blockKey v.1
    let now := (vs.drop lo).take (hi - lo)
    let later := fun (k : List Int) => hi < total && ((o3.d.coords.filter o3.valid).drop hi).any
      (fun t => o.blockKey (o.at o3 t) = k)
    let keys := ((now.map key).eraseDups).filter (fun k => !later k)
    keys.foldlM (fun (t : State) k => t.writeBlock x o wr (vs.filter (fun v => key v = k))) s
  else ((vs.drop lo).take (hi - lo)).foldlM (fun (t : State) v => t.writeVal x o wr v.1 v.2) s

/-- Run the chunks of an iteration from element `lo` on. -/
def State.sxRun (s : State) (x : At) (q : QEntry) (ins outs : List Opnd) (wrs : List Writer) (o3 : Opnd)
    (ts : List (List Nat)) (w : Nat) : Nat → Nat → List (List Nat × Num) → Run State
  | 0, _, _ => .ok s
  | n + 1, lo, done => do
    let hi := min (lo + w) ts.length
    let r ← s.sxCompute x q ins o3 ((ts.drop lo).take (hi - lo))
    let res := done ++ r.2
    let t ← (List.zip outs wrs).foldlM (fun (t : State) p => t.sxWrite x p.2 p.1 o3 res lo hi ts.length) r.1
    State.sxRun t x q ins outs wrs o3 ts w n hi res

/-- One iteration of a Stream operation (R213 to R221, R309). -/
def State.iterSx (s : State) (x : At) (q : QEntry) (i : Nat) : Run State := do
  let ins ← (sxInputs q.opc).mapM (fun k => s.qOpnd x q k i)
  let outs ← (sxOutputs q.word).mapM (fun k => s.qOpnd x q k i)
  let o3 ← s.qOpnd x q 3 i
  let wrs := (sxOutputs q.word).map (fun k => { s.qWriter x q k with mode := Rnd.of (wMod q.word / 16) })
  let ts := o3.d.coords.filter o3.valid
  if outs.any (fun o => o.d.f.mx && !o.blocksWhole (ts.map (o.at o3))) then .error (0x06, 0)
  else do
    let w := s.sxChunk x.g x.c q
    let s ← s.sxRun x q ins outs wrs o3 ts w ((ts.length + w - 1) / w) 0 []
    (List.zip outs wrs).foldlM (fun (t : State) p => t.writePads x p.1 p.2 p.1.padsToWrite) s

/-! ## Update programs -/

/-- The 256 bytes of update program p of a job as one number. -/
def State.progNat (s : State) (j p : Nat) : Nat :=
  (List.range 32).foldl (fun a i => a + 2 ^ (64 * i) * s.get (Reg.UPD_PROG.W j p i)) 0

/-- Operation k of a program: its five fields (R359). -/
structure UpdOp where
  op : Nat
  d : Nat
  a : Nat
  b : Nat
  c : Nat
  deriving DecidableEq, Repr

/-- Decode operation k. -/
def updOp (n k : Nat) : UpdOp :=
  let v := bits n (8 * (16 + 4 * k)) 32
  ⟨bits v 27 5, bits v 23 4, bits v 17 6, bits v 11 6, bits v 5 6⟩

/-- `NOPS`, `IN` and `OUT` of a program. -/
def updNops (n : Nat) : Nat := bits n 0 8
/-- `IN`. -/
def updIn (n : Nat) : Nat := bits n 8 8
/-- `OUT`. -/
def updOut (n : Nat) : Nat := bits n 16 8

/-- How many operands an operation uses, A first (R359); `bsenc`'s B is an output number. -/
def UpdOp.arity (u : UpdOp) : Nat :=
  if [0x05, 0x06, 0x07, 0x08, 0x09, 0x0E, 0x10, 0x11].contains u.op then 1
  else if [0x04, 0x0C, 0x0D, 0x0F].contains u.op then 3 else 2

/-- An operand code names something (R359). -/
def operandOk (code : Nat) : Bool :=
  code < 22 || (24 ≤ code && code < 28) || (32 ≤ code && code < 48)

/-- Operation k of a program has no fault of R358; `written` is the temporaries written before it. -/
def updOpOk (n k : Nat) (written : List Nat) : Bool :=
  let u := updOp n k
  let us := [u.a, u.b, u.c].take u.arity
  bits (bits n (8 * (16 + 4 * k)) 32) 0 5 = 0 && 1 ≤ u.op && u.op ≤ 0x11 &&
    us.all (fun c => operandOk c && (16 ≤ c || written.contains c)) &&
    (u.op = 0x11 || (([u.a, u.b, u.c].drop u.arity).all (· = 0))) &&
    (u.op ≠ 0x10 || (16 ≤ u.a && u.a < 22)) && (u.op ≠ 0x11 || (u.a < 16 && u.b < 4 && u.c = 0))

/-- Check the operations of a program in order, and answer the temporaries written (R358). -/
def updOpsOk (n : Nat) : Nat → Nat → List Nat → Option (List Nat)
  | 0, _, w => some w
  | m + 1, k, w => if updOpOk n k w then updOpsOk n m (k + 1) ((updOp n k).d :: w) else none

/-- The temporary that output j writes (`OUTSRC`). -/
def updSrc (n j : Nat) : Nat := bits n (32 + 4 * j) 4

/-- A present program has none of the faults of R358. -/
def progOk (n : Nat) : Bool :=
  let zeros := bits n 24 8 = 0 && bits n 48 80 = 0 && bits n 1152 896 = 0 &&
    bits (updIn n) 6 2 = 0 && bits (updOut n) 4 4 = 0 &&
    bits n (8 * (16 + 4 * updNops n)) (32 * (16 - updNops n)) = 0 &&
    (List.range 4).all (fun j => bit (updOut n) j || updSrc n j = 0)
  updNops n ≤ 16 && zeros &&
    (match updOpsOk n (updNops n) 0 [] with
      | none => false
      | some w => (List.range 4).all (fun j => !bit (updOut n) j || w.contains (updSrc n j))) &&
    (!bit (updIn n) 5 || (List.range 4).all (fun j =>
      !bit (updOut n) j || bit (updIn n) (if j = 0 then 0 else j + 1)))

/-- The descriptor fields a program uses: inputs 0 to 5, then outputs 6 to 9. -/
def updFields (n : Nat) : List Nat :=
  (List.range 6).filter (fun k => bit (updIn n) k) ++
    ((List.range 4).filter (fun j => bit (updOut n) j)).map (· + 6)

/-- What a block of an update holds: coordinates in the reference operand, the inputs' values and block
scales, and the temporaries, one list over the block each. -/
structure UpdBlock where
  n : Nat
  ins : Tab (List Num) := []
  scs : Tab Nat := []
  temps : Tab (List Num) := []

/-- The FP32 value of a sign function (R359). -/
def Num.signOf (v : Num) : Num := if v.isNan || v.isZero then v else if v.sign then .fin true 1 0 else .one

/-- The square root as R359 gives it. -/
def Num.sqrt32 (v : Num) : Num :=
  if v.isZero || v = .inf false then v else f32mul v (fp32.decode (sfuBuiltin 3 v.to32))

/-- An element-wise operation of R359. -/
def updEl (op : Nat) (a b c : Num) : Num :=
  match op with
  | 0x01 => f32add a b
  | 0x02 => f32sub a b
  | 0x03 => f32mul a b
  | 0x04 => f32fma a b c
  | 0x05 => fp32.decode (sfuBuiltin 2 a.to32)
  | 0x06 => fp32.decode (sfuBuiltin 3 a.to32)
  | 0x07 => a.sqrt32
  | 0x08 => a.abs
  | 0x09 => a.signOf
  | 0x0A => Num.min a b
  | 0x0B => Num.max a b
  | 0x0C => Num.min (Num.max a b) c
  | 0x0D => if c.isZero then b else a
  | 0x0E => f32mul a a
  | _ => f32fma c (f32sub b a) a

/-- 2^(s − 127) of a block scale. -/
def scaleVal (sc : Nat) : Num := if sc = 0xFF then .nan else .fin false 1 ((sc : Int) - 127)

/-- An operand of a program over the block; an input that `IN` does not name is a free value (log 14). -/
def State.updOperand (s : State) (n : Nat) (sizes : List Nat) (b : UpdBlock) (code : Nat) : List Num :=
  if code < 16 then Tab.get [] b.temps code
  else if code < 22 then
    (if bit (updIn n) (code - 16) then Tab.get [] b.ins (code - 16)
      else (List.range b.n).map (fun e => fp32.decode (s.takeFree (32 * code + e) % 2 ^ 32)))
  else if code < 28 then List.replicate b.n (fp32.decode (sizes.getD (code - 24) 0))
  else List.replicate b.n (fp32.decode (bits n (8 * (80 + 4 * (code - 32))) 32))
/-- Run one operation over a block. -/
def State.updStep (s : State) (n : Nat) (sizes : List Nat) (masked : List Bool)
    (outFmt : Nat → Fmt × Int) (b : UpdBlock) (k : Nat) : UpdBlock :=
  let u := updOp n k
  let v (c : Nat) := s.updOperand n sizes b c
  let res : List Num :=
    if u.op = 0x10 then
      List.replicate b.n (match b.scs.find? (fun e => e.1 = u.a - 16) with
        | some e => scaleVal e.2
        | none => .one)
    else if u.op = 0x11 then
      let f := outFmt u.b
      let vals := ((List.zip (v u.a) masked).filter (fun p => !p.2)).map (fun p => p.1.scale f.2)
      List.replicate b.n (if f.1.mx then scaleVal (mxScale f.1 vals) else .one)
    else (List.range b.n).map (fun e =>
      updEl u.op ((v u.a).getD e .zero) ((v u.b).getD e .zero) ((v u.c).getD e .zero))
  { b with temps := Tab.set [] b.temps u.d res }

/-- Read the inputs of a block. -/
def State.updRead (s : State) (x : At) (ins : List (Nat × Opnd)) (ref : Opnd) (ts : List (List Nat)) :
    Run (State × UpdBlock) :=
  ins.foldlM (fun (a : State × UpdBlock) p => do
    let r ← ts.foldlM (fun (b : State × List Num) t => do
      let v ← b.1.readIn x p.2 (p.2.at ref t)
      return (v.1, b.2 ++ [v.2])) (a.1, [])
    let blk := { a.2 with ins := Tab.set [] a.2.ins p.1 r.2 }
    match ts with
    | t :: _ =>
      if p.2.d.f.mx then do
        let sc ← r.1.spaceNat x p.2 (p.2.scaleAddr (p.2.at ref t)) 1
        return (r.1, { blk with scs := blk.scs ++ [(p.1, sc)] })
      else return (r.1, blk)
    | [] => return (r.1, blk)) (s, { n := ts.length })

/-- ±(2^128 − 2^104), the largest FP32 magnitude. -/
def maxF32 (neg : Bool) : Num := .fin neg (2 ^ 24 - 1) 104

/-- The value and mask of element e of output j under R361 and R362; `ms` tells a masked element, `bad` a
non-finite one. -/
def updOut1 (n mode : Nat) (b : UpdBlock) (j e : Nat) (ms bad : Bool) : Num × Bool :=
  let v := (Tab.get [] b.temps (updSrc n j)).getD e .zero
  let k := if j = 0 then 0 else j + 1
  let old := if bit (updIn n) k then (Tab.get [] b.ins k).getD e .zero else v
  if ms then (old, true)
  else if bad && mode = 1 then (old, true)
  else if bad && mode = 2 then
    (match v with
      | .inf neg => (maxF32 neg, false)
      | .nan => (old, true)
      | _ => (v, false))
  else (v, false)

/-- Record the first non-finite element of a step (R362). -/
def State.noteNonFinite (s : State) (x : At) (q : QEntry) : State :=
  let u := s.jobS x.j
  if u.nfSeen then s
  else
    let s := (s.setJobS x.j { u with nfSeen := true }).put (Reg.STEP_NF.NF_EVT x.j) 1
    s.coreNote x.g x.c x.cx 1 0x20 q.pc (wMod q.word % 8 * 2 ^ 56 + s.get (Reg.STEP_SEQ.SEQ x.j))

/-- Run an update program over one block (R360 to R362). -/
def State.updBlock (s : State) (x : At) (q : QEntry) (n : Nat) (ins outs : List (Nat × Opnd)) (ref : Opnd)
    (ts : List (List Nat)) : Run State := do
  let r ← s.updRead x ins ref ts
  let s := r.1
  let masked := (List.range ts.length).map (fun e =>
    bit (updIn n) 5 && ((Tab.get [] r.2.ins 5).getD e .one).isZero)
  let outFmt (j : Nat) : Fmt × Int := match outs.find? (fun p => p.1 = j + 6) with
    | some p => (p.2.d.f, p.2.exp)
    | none => (fp32, 0)
  let b := (List.range (updNops n)).foldl (s.updStep n q.carry masked outFmt) r.2
  let used := (List.range 4).filter (fun j => bit (updOut n) j)
  let bads := (List.range ts.length).map (fun e => !(masked.getD e false) && used.any (fun j =>
    ((Tab.get [] b.temps (updSrc n j)).getD e .zero).nonFinite))
  let nbad := (bads.filter id).length
  let s := (s.inc (Reg.UPD_ELEMS.N x.j) ts.length).inc (Reg.UPD_NONFINITE.N x.j) nbad
  let s := if nbad = 0 then s else s.noteNonFinite x q
  let mode := s.get (Reg.UPD_CFG.NF_MODE x.j)
  outs.foldlM (fun (t : State) p => do
    let vs := (List.zip (List.range ts.length) ts).map (fun et =>
      (p.2.at ref et.2, updOut1 n mode b (p.1 - 6) et.1 (masked.getD et.1 false) (bads.getD et.1 false)))
    let wr := t.qWriter x q p.1
    if p.2.d.f.mx then t.writeBlockMasked x p.2 wr vs
    else vs.foldlM (fun (t : State) v =>
      t.writeVal x p.2 { wr with count := !v.2.2 } v.1 v.2.1) t) s

/-- One iteration of `upd`. -/
def State.iterUpd (s : State) (x : At) (q : QEntry) (i : Nat) : Run State := do
  let n := s.progNat x.j (wMod q.word % 8)
  let os ← (updFields n).mapM (fun k => do
    let o ← s.qOpnd x q k i
    return (k, o))
  match os with
  | [] => return s
  | (_, ref) :: _ =>
    let outs := os.filter (fun p => 6 ≤ p.1)
    let ts := ref.d.coords.filter ref.valid
    if outs.any (fun p => p.2.d.f.mx && !p.2.blocksWhole (ts.map (p.2.at ref))) then .error (0x06, 0)
    else do
      let key (t : List Nat) : List Nat := listSet t 0 (t.getD 0 0 / 32)
      let s := s.bumpFree
      let s ← ((ts.map key).eraseDups).foldlM (fun (t : State) k =>
        t.updBlock x q n (os.filter (fun p => p.1 < 6)) outs ref (ts.filter (fun e => key e = k))) s
      outs.foldlM (fun (t : State) p => t.writePads x p.2 (t.qWriter x q p.1) p.2.padsToWrite) s

/-! ## Lane operations -/

/-- `H`: BF16 lanes. -/
def lvH (w : Body) : Bool := wMod w % 2 = 1
/-- `VD`. -/
def lvD (w : Body) : Nat := fbits w 35 5
/-- `VA`. -/
def lvA (w : Body) : Nat := fbits w 30 5
/-- `VB`. -/
def lvB (w : Body) : Nat := fbits w 25 5
/-- `VC`. -/
def lvC (w : Body) : Nat := fbits w 20 5

/-- One iteration of `lv.ld` (R227). -/
def State.iterLd (s : State) (x : At) (q : QEntry) (i : Nat) : Run State := do
  let o ← s.qOpnd x q 0 i
  let h := lvH q.word
  let ts := (o.d.coords.filter o.valid).take (s.nElems x h)
  let r ← ts.foldlM (fun (a : State × List Num) t => do
    if h then do
      let v ← a.1.readTrue x o t
      let b := bf16.decode v.toBf
      let lossy : Bool := match v, b with
        | .fin _ _ _, .fin _ _ _ => !Num.eqv v b
        | .fin _ _ _, _ => true
        | _, _ => false
      return (if lossy then a.1.inc (Reg.SPOT_RDLOSS.COUNT x.j) 1 else a.1, a.2 ++ [b])
    else do
      let v ← a.1.readIn x o t
      return (v.1, a.2 ++ [v.2])) (s, [])
  return r.1.setElems x h (lvD q.word) (r.2 ++ List.replicate (s.nElems x h - r.2.length) .zero)

/-- One iteration of `lv.st` (R227). -/
def State.iterSt (s : State) (x : At) (q : QEntry) (i : Nat) : Run State := do
  let o ← s.qOpnd x q 0 i
  let h := lvH q.word
  let ts := (o.d.coords.filter o.valid).take (s.nElems x h)
  if o.d.f.mx && !o.blocksWhole ts then .error (0x06, 0)
  else s.writeTile x o (s.qWriter x q 0) (List.zip ts (s.elems x h (lvA q.word)))

/-- The element-wise Lane operations on FP32 values: `lv.add`, `lv.mul`, `lv.fma`, `lv.max`, `lv.min`; the
last rounding to BF16 is the register's (R226). -/
def lvEl (opc : Nat) (h : Bool) (a b c : Num) : Num :=
  match opc with
  | 0x53 => if h then Num.add a b else f32add a b
  | 0x54 => if h then Num.mul a b else f32mul a b
  | 0x55 => if h then Num.add (Num.mul a b) c else f32fma a b c
  | 0x56 => Num.max a b
  | _ => Num.min a b

/-- `lv.add` to `lv.min`. -/
def State.laneArith (s : State) (x : At) (q : QEntry) : State :=
  let h := lvH q.word
  let w := q.word
  let a := s.elems x h (lvA w)
  let b := s.elems x h (lvB w)
  let c := s.elems x h (lvC w)
  s.setElems x h (lvD w) ((List.range (s.nElems x h)).map (fun i =>
    lvEl q.opc h (a.getD i .zero) (b.getD i .zero) (c.getD i .zero)))

/-- `lv.red` (R229). -/
def State.laneRed (s : State) (x : At) (q : QEntry) : State :=
  let h := lvH q.word
  let r := reduce (wMod q.word / 2 % 4) (s.elems x h (lvA q.word))
  s.setLane0 x (lvD q.word) (if h then r.toBf else r.to32)

/-- `lperm`: the out-of-range lanes (R230). -/
def State.permBad (s : State) (x : At) (q : QEntry) : List Nat :=
  (List.range (s.vl x)).filter (fun k => s.vl x ≤ s.lane x (lvB q.word) k)

/-- `lperm` in one core (R230, R231). -/
def State.lanePerm (s : State) (x : At) (q : QEntry) : State :=
  let bad := s.permBad x q
  let vals := (List.range (s.vl x)).map (fun k =>
    let i := s.lane x (lvB q.word) k
    if i < s.vl x then s.lane x (lvA q.word) i else 0)
  let cx := (s.view x.g x.cx).cx
  let s := if bad.isEmpty then s
    else (s.coreInc x Reg.PERM_LANES.N bad.length).put
      (if x.c = 0 then Reg.LANE_STATUS.PERM_RANGE0 x.g cx else Reg.LANE_STATUS.PERM_RANGE1 x.g cx) 1
  if bit (wMod q.word) 1 && !bad.isEmpty then s
  else (List.zip (List.range vals.length) vals).foldl (fun t p => t.setLane x (lvD q.word) p.1 p.2) s

/-- `KIND` and `CARRY` of an `lscan` (R122). -/
def scanKind (w : Body) : Nat := wMod w / 16
/-- `CARRY`. -/
def scanCarry (w : Body) : Nat := wMod w / 4 % 4

/-- The elements of a scan of a core with a carry-in, and its carry-out. -/
def State.laneScan (s : State) (x : At) (q : QEntry) (carry : Option Num) : List Num :=
  let h := lvH q.word
  scanOut (scanKind q.word) (s.elems x h (lvA q.word)) (s.elems x h (lvB q.word)) carry

/-- Run a scan in one core and write VD; answer the carry-out as FP32 bits (R232, R233). -/
def State.scanCore (s : State) (x : At) (q : QEntry) (carry : Option Num) : State × Nat :=
  let out := s.laneScan x q carry
  (s.setElems x (lvH q.word) (lvD q.word) out, (out.getLastD .zero).to32)

/-- The carry-in of `CARRY` 1: the carry register if it holds a carry (R234). -/
def State.carryIn (s : State) (x : At) : Option Num :=
  let r := s.carryReg x
  if r.1 then some (fp32.decode r.2.2) else none

/-- `lscan` with `CARRY` 0 or 1 in one core. -/
def State.laneScanLocal (s : State) (x : At) (q : QEntry) : State :=
  let r := s.scanCore x q (if scanCarry q.word = 1 then s.carryIn x else none)
  r.1.setCarryReg x true (scanKind q.word) r.2

/-- The triple of a core's VA (R266), counting clamps. -/
def State.laneTriple (s : State) (x : At) (q : QEntry) : State × Triple :=
  let t := statOf (s.elems x (lvH q.word) (lvA q.word))
  (s.coreInc x Reg.STAT_CLAMP.N t.clamps, t)

/-- Write a triple to lane 0 of VD, VD + 1 and VD + 2. -/
def State.putTriple (s : State) (x : At) (q : QEntry) (t : List Nat) : State :=
  (List.range 3).foldl (fun s k => s.setLane0 x (lvD q.word + k) (t.getD k 0)) s

/-- The FP32 bits of a triple. -/
def Triple.bits (t : Triple) : List Nat := [t.n.to32, t.mu.to32, t.m2.to32]

/-- The triple that FP32 bits hold. -/
def tripleOf (l : List Nat) : Triple :=
  ⟨fp32.decode (l.getD 0 0), fp32.decode (l.getD 1 0), fp32.decode (l.getD 2 0), 0⟩

/-- `lstat` without `PARADE` in one core (R266, R268). -/
def State.laneStat (s : State) (x : At) (q : QEntry) : State :=
  let w := q.word
  if bit (wMod w) 5 then
    let vl := s.vl x
    let ms := (List.range vl).map (fun k =>
      let at3 (v : Nat) := tripleOf ((List.range 3).map (fun i => s.lane x (v + i) k))
      (k, (at3 (lvD w)).merge (at3 (lvA w))))
    let s := (s.coreInc x Reg.STAT_MERGES.N vl).coreInc x Reg.STAT_CLAMP.N
      (ms.foldl (fun a m => a + m.2.clamps) 0)
    ms.foldl (fun t m => (List.range 3).foldl (fun t i => t.setLane x (lvD w + i) m.1 (m.2.bits.getD i 0)) t) s
  else
    let r := s.laneTriple x q
    r.1.putTriple x q r.2.bits

/-- The row state of a context in a core. -/
def State.rowOf (s : State) (x : At) : RowState :=
  let v := s.view x.g x.cx
  Tab.get {} (s.core x.g v.cx).rowState (x.c + (if v.second then 2 else 0))

/-- Write the row state of a context in a core. -/
def State.setRow (s : State) (x : At) (r : RowState) : State :=
  let v := s.view x.g x.cx
  let k := s.core x.g v.cx
  s.setCore x.g v.cx { k with rowState := Tab.set {} k.rowState (x.c + (if v.second then 2 else 0)) r }

/-- `PART` of an `lsoftmax` (R259). -/
def sfmPart (w : Body) : Nat := wMod w / 8 % 4

/-- VA's elements, each with whether it is masked (R259). -/
def State.sfmVals (s : State) (x : At) (q : QEntry) : List (Num × Bool) :=
  let h := lvH q.word
  let a := s.elems x h (lvA q.word)
  let m := if bit (wMod q.word) 5 then (s.elems x h (lvC q.word)).map Num.isZero else a.map (fun _ => false)
  List.zip a m

/-- A counted `ROW_EMPTY` (R272). -/
def State.rowEmpty (s : State) (x : At) (q : QEntry) : State :=
  (s.coreInc x Reg.SFM_EMPTY.N 1).coreNote x.g x.c x.cx 2 0x23 q.pc 0

/-- Add a register's part to a row state (R262). -/
def RowState.join (r p : RowState) : RowState :=
  let t : RowState := { k := r.k + p.k, l := r.l + p.l, nan := r.nan || p.nan, counted := r.counted }
  t.withSum ((Num.add r.sum p.sum).wf35)

/-- `lsoftmax` in one core (R259 to R264). -/
def State.laneSoftmax (s : State) (x : At) (q : QEntry) : State :=
  let h := lvH q.word
  let vals := s.sfmVals x q
  match sfmPart q.word with
  | 0 =>
    let r := rowPart vals
    let s := s.coreInc x Reg.SFM_ROWS.N 1
    let s := if !r.nan && r.l = 0 then s.rowEmpty x q else s
    match rowOut r vals with
    | some out => s.setElems x h (lvD q.word) out
    | none => (s.coreInc x Reg.SFM_REPASS.N 1).setElems x h (lvD q.word) (repass vals)
  | 3 =>
    let r := s.rowOf x
    let first := !r.counted
    let s := s.setRow x { r with counted := true }
    let s := if first then s.coreInc x Reg.SFM_ROWS.N 1 else s
    let s := if first && !r.nan && r.l = 0 then s.rowEmpty x q else s
    match rowOut r vals with
    | some out => s.setElems x h (lvD q.word) out
    | none =>
      let s := if first then s.coreInc x Reg.SFM_RANGE.N 1 else s
      s.setElems x h (lvD q.word) (vals.map (fun _ => .nan))
  | 1 => s.setRow x (({} : RowState).join (rowPart vals))
  | _ => s.setRow x ((s.rowOf x).join (rowPart vals))

/-- `sfn` in one core (R124, R251). -/
def State.laneSfn (s : State) (x : At) (q : QEntry) : State :=
  let h := lvH q.word
  s.setElems x h (lvD q.word) ((s.elems x h (lvA q.word)).map (s.sfuEval x (fbits q.word 16 4) q.bank))

/-- `lv.vl` in one core (R119). -/
def State.laneVl (s : State) (x : At) (q : QEntry) : State :=
  let cx := (s.view x.g x.cx).cx
  s.put (if x.c = 0 then Reg.LANE_STATUS.VL0 x.g cx else Reg.LANE_STATUS.VL1 x.g cx) (fbits q.word 0 16)

/-- The image that a `tload` reads: from the lowest-numbered enabled core's scratchpad (R254). -/
def State.tloadImage (s : State) (g c : Nat) (q : QEntry) (i : Nat) : Run (List Byte) := do
  let x : At := ⟨g, c, (s.coresOf g c).headD 0, s.jobOf g c⟩
  let o ← s.qOpnd x q 0 i
  (List.range 3136).mapM (fun k => s.spaceRead x o.d.space o.d.base (o.local (o.addr ((List.range 6).map o.firstValid)).1 + (k : Nat)))

/-- Every image that the iterations of a `tload` read passes the checks of R253. -/
def State.tloadOk (s : State) (g c : Nat) (q : QEntry) : Bool :=
  (List.range (s.qNest g c q).total).all (fun i => match s.tloadImage g c q i with
    | .ok img => imageOk img
    | .error _ => false)

/-- One iteration of a Lane operation that is neither a Parade operation, a table load nor a table swap. -/
def State.iterLane (s : State) (x : At) (q : QEntry) (i : Nat) : Run State := do
  let s := s.coreInc x Reg.LN_OPS.N 1
  match q.opc with
  | 0x50 => .ok (s.laneVl x q)
  | 0x51 => s.iterLd x q i
  | 0x52 => s.iterSt x q i
  | 0x58 => .ok (s.laneRed x q)
  | 0x59 => .ok (s.lanePerm x q)
  | 0x5A => .ok (s.laneScanLocal x q)
  | 0x5B => .ok (s.laneStat x q)
  | 0x5C => .ok (s.laneSoftmax x q)
  | 0x60 => .ok (s.laneSfn x q)
  | 0x62 => .ok s
  | _ => .ok (s.laneArith x q)

/-- The operation runs along the Parade: `lscan` with `CARRY` 2 or 3, `lstat` with `PARADE` (R236). -/
def isParade (q : QEntry) : Bool :=
  (q.opc = 0x5A && 2 ≤ scanCarry q.word) || (q.opc = 0x5B && bit (wMod q.word) 4)

end Sys2Proof.Machine
end

