-- ==== Sys2Proof/Machine/Engine.lean ====
section
/-! DEFINITION. The engine queues as each core works through them: when an operation stands at the head of a core's queue
and begins there, the iterations it runs, the turns of two contexts at one engine, what a stop lets an executing
operation finish, and retirement (R51, R52, R62 to R70, R73, R94, R95, R115, R125, R139, R173, R183, R254). -/

namespace Sys2Proof.Machine

/-- The place of a logical core of a context. -/
def State.at (s : State) (g c cx : Nat) : At := ⟨g, c, cx, s.jobOf g c⟩

/-- The engine that an opcode's operations queue at (R50). -/
def engineOf (opc : Nat) : Nat :=
  if 0x20 ≤ opc ∧ opc < 0x30 then 3
  else if 0x30 ≤ opc ∧ opc < 0x40 then 0
  else if (0x40 ≤ opc ∧ opc < 0x50) ∨ opc = 0x70 then 1
  else 2

/-! ## A queue as a core sees it -/

/-- An operation has begun in a logical core. -/
def QEntry.begunIn (q : QEntry) (cx : Nat) : Bool := bit q.begun cx

/-- An operation has retired in a logical core. -/
def QEntry.retiredIn (q : QEntry) (cx : Nat) : Bool := bit q.retired cx

/-- Replace the entry of a queue that has the same issue number. -/
def State.setEntry (s : State) (g c e : Nat) (q : QEntry) : State :=
  s.setQueue g c e ((s.queue g c e).map (fun p => if p.seq = q.seq then q else p))

/-- The iterations of an operation. -/
def State.itersOf (s : State) (g c : Nat) (q : QEntry) : Nat := (s.qNest g c q).total

/-- The iterations of an operation that have begun in a core where it has begun: of an `mwl` those whose load has, of a
Parade operation the rounds that have reached the core. -/
def State.itersBegun (s : State) (x : At) (q : QEntry) : Nat :=
  let total := s.itersOf x.g x.c q
  match q.opc with
  | 0x30 => min total (Tab.get 0 q.prog (16 + x.cx) + 1)
  | 0x36 => total
  | 0x61 => if bit q.done x.cx then total else 0
  | _ =>
    if isParade q then
      let cs := s.coresOf x.g x.c
      (q.hop + cs.length - 1 - cs.findIdx (· = x.cx)) / cs.length
    else Tab.get 0 q.prog (32 + x.cx)

/-- An operation has begun its last iteration in a core (R95). -/
def State.lastBegun (s : State) (x : At) (q : QEntry) : Bool :=
  q.begunIn x.cx && decide (s.itersOf x.g x.c q ≤ s.itersBegun x q)

/-- The logical cores whose work one physical core does: itself, and the one it doubles for (R420). -/
def State.mates (s : State) (g c cx : Nat) : List Nat :=
  (s.coresOf g c).filter (fun i => (s.view g i).cx = (s.view g cx).cx)

/-- An operation stands at the head of a logical core's queue: every operation before it has begun its last iteration
there or retired (R62, R95; log 118). A doubling core runs its own execution first (R139). -/
def State.atHead (s : State) (g c e : Nat) (q : QEntry) (cx : Nat) : Bool :=
  ((s.queue g c e).takeWhile (fun p => p.seq ≠ q.seq)).all (fun p =>
    (s.mates g c cx).all (fun m => p.retiredIn m || s.lastBegun (s.at g c m) p)) &&
    (!(s.view g cx).second || (s.mates g c cx).all (fun m => m = cx || q.retiredIn m))

/-- The oldest operation of a queue that a logical core has not retired. -/
def State.oldestIn (s : State) (g c e cx : Nat) : Option QEntry :=
  if (s.coresOf g c).contains cx then (s.queue g c e).find? (fun q => !q.retiredIn cx) else none

/-- The oldest operation of some opcodes that a logical core has begun and not retired. -/
def State.begunOf (s : State) (g c e cx : Nat) (opcs : List Nat) : Option QEntry :=
  if (s.coresOf g c).contains cx then
    (s.queue g c e).find? (fun q => q.begunIn cx && !q.retiredIn cx && opcs.contains q.opc) else none

/-- A context has an operation of an engine that a physical core has begun and not retired. -/
def State.engineBusy (s : State) (g c e cx : Nat) : Bool :=
  (s.coresOf g c).any (fun i => (s.view g i).cx = cx && (s.queue g c e).any (fun q => q.begunIn i && !q.retiredIn i))

/-! ## Turns (R51, R52) -/

/-- The context that an engine of a core serves first where both can be: the one alone in having `PRIO`, but at least
every sixteenth time the other; else they take turns. -/
def State.turnOf (s : State) (g cx e : Nat) : Nat :=
  let v := Tab.get 0 (s.core g cx).turns e
  match s.flag (Reg.CTX_CFG.PRIO g 0), s.flag (Reg.CTX_CFG.PRIO g 1) with
  | true, false => if v % 2 = 0 ∧ 15 ≤ v / 2 then 1 else 0
  | false, true => if v % 2 = 1 ∧ 15 ≤ v / 2 then 0 else 1
  | _, _ => 1 - v % 2

/-- An engine of a core has served a context, with the other waiting or not. -/
def State.noteTurn (s : State) (g cx e c : Nat) (both : Bool) : State :=
  let k := s.core g cx
  let v := Tab.get 0 k.turns e
  let n := if !both then 0 else if v % 2 = c then v / 2 + 1 else 1
  s.setCore g cx { k with turns := Tab.set 0 k.turns e (2 * n + c) }

/-! ## When an operation begins -/

/-- `asplit` takes effect (R115, R154). Half 0 keeps the Drumroll state and level of the whole array, as the whole array keeps
half 0's on joining; half 1 begins OFF at level 0 (DESIGN CHOICE, log 117: the spec does not state them). -/
def State.doSplit (s : State) (g : Nat) (on : Bool) : State :=
  let b := ofBool on
  let s := ((s.put (Reg.CTX_CFG.SPLIT g 0) b).put (Reg.CTX_CFG.SPLIT g 1) b).put (Reg.RM_ARR.SPLIT g) b
  let s := s.put (Reg.RM_ARR.SHARED g)
    (ofBool (!on && s.flag (Reg.CTX_CFG.BOUND g 0) && s.flag (Reg.CTX_CFG.BOUND g 1)))
  (List.range 16).foldl (fun (t : State) cx =>
    let k := t.core g cx
    let t := t.setCore g cx { k with weights := [], active := [], loaded := [], own := [] }
    let t := t.put (Reg.ARR_STATUS.SPLIT g cx) b
    if on then t
    else ((((t.put (Reg.ARR_STATUS.FENCE0 g cx) 0).put (Reg.ARR_STATUS.FENCE1 g cx) 0).put
      (Reg.ARR_STATUS.STATE1 g cx) 0).put (Reg.ARR_STATUS.LEVEL1 g cx) 0)) s

/-- An `asplit` that changes the mode, of the other context, stands ahead of an operation (R115 step 1). -/
def State.behindSplit (s : State) (g c : Nat) (q : QEntry) : Bool :=
  (s.queue g (1 - c) 0).any (fun p => p.opc = 0x36 && !p.noop && p.seq < q.seq)

/-- A shared-mode copy waits in a core (R139). -/
def State.copyDue (s : State) (g cx : Nat) : Bool := Tab.get 0 (s.core g cx).own 0 ≠ 0

/-- Both contexts' arrays are idle in every core (R115). -/
def State.arraysIdle (s : State) (g : Nat) : Bool :=
  (List.range 16).all (fun cx => !s.engineBusy g 0 0 cx && !s.engineBusy g 1 0 cx)

/-- The loadable slot an operation names: of `sfn`, `sx.sfn`, `tload` and `tswap`. -/
def slotNamed (q : QEntry) : Option Nat :=
  match q.opc with
  | 0x4B => if 4 ≤ fbits q.word 36 4 then some (fbits q.word 36 4 - 4) else none
  | 0x60 => if 4 ≤ fbits q.word 16 4 then some (fbits q.word 16 4 - 4) else none
  | 0x61 => some (fbits q.word 37 3)
  | 0x62 => some (fbits q.word 37 3)
  | _ => none

/-- A core takes no operation: its island has stopped (R498), it clears (R281), or a High Striker test holds what arrives
(R529). -/
def State.coreHeld (s : State) (g cx : Nat) : Bool :=
  s.stopped.contains (coreIsland g cx) || s.flag (Reg.SP_STATUS.CLEARING g cx) ||
    (s.flag Reg.HS_STATUS.BUSY && s.get Reg.HS_STATUS.PHASE ≠ 0 && s.get Reg.HS_STATUS.TARGET = 16 * g + cx)

/-- An operation may begin in a logical core, its flag wait and the turns of the contexts apart. An array operation never
reaches a narrow array (R155); of an unsplit array, the other context's operation has retired there (R52). -/
def State.mayBegin (s : State) (g c e : Nat) (q : QEntry) (cx : Nat) : Bool :=
  let p := (s.view g cx).cx
  if s.coreHeld g p || q.begunIn cx || !s.atHead g c e q cx then false
  else if e = 0 then
    if q.opc = 0x36 then q.noop || s.arraysIdle g
    else !s.isNarrow g p && !s.behindSplit g c q && (s.isSplit g || !s.engineBusy g (1 - c) 0 p) && !s.copyDue g p
  else if q.opc = 0x4B then
    -- the core's `tswap` of the slot has completed (R125)
    !(s.queue g c 2).any (fun p => p.opc = 0x62 && slotNamed p = slotNamed q && (slotNamed q).isSome && p.seq < q.seq &&
      !p.retiredIn cx)
  else if q.opc = 0x61 then
    -- no operation stamped with the bank is in flight in the core (R125)
    !((s.queue g c 1).any (fun p => p.opc = 0x4B && slotNamed p = slotNamed q &&
      p.bank = fbits q.word 36 1 && p.seq < q.seq && !p.retiredIn cx))
  else if q.opc = 0x70 then !q.carry.isEmpty && (q.gated || !s.flag (Reg.UPD_CFG.NF_GATE (s.jobOf g c)))
  else true

/-- The live step sizes s0 to s3. -/
def State.stepSizes (s : State) (j : Nat) : List Nat :=
  [s.get (Reg.STEP_SIZE.LO j 0), s.get (Reg.STEP_SIZE.HI j 0), s.get (Reg.STEP_SIZE.LO j 1),
    s.get (Reg.STEP_SIZE.HI j 1)]

/-- An `upd` at its queue head reads the step sizes when its step matches (R127, R357). -/
def State.matchStep (s : State) (g c : Nat) (q : QEntry) : QEntry :=
  let j := s.jobOf g c
  if q.opc = 0x70 && q.carry.isEmpty && s.get (Reg.STEP_SEQ.SEQ j) % 2 ^ 16 = q.flagVal then
    { q with carry := s.stepSizes j }
  else q

/-- The flag wait of an operation is over, or it has none (R68). -/
def QEntry.served (q : QEntry) : Bool := q.waited || !wWV q.word

/-- A core could begin an array operation of a context now. -/
def State.arrayReady (s : State) (g c p : Nat) : Bool :=
  (s.queue g c 0).any (fun q => q.served &&
    (s.coresOf g c).any (fun cx => (s.view g cx).cx = p && s.mayBegin g c 0 q cx))

/-- Where both contexts could begin an operation in an unsplit array, it is this one's turn (R51, R52). -/
def State.turnOk (s : State) (g c e p : Nat) : Bool :=
  e ≠ 0 || s.isSplit g || !s.arrayReady g (1 - c) p || s.turnOf g p 0 = c

/-- The operation begins in a core, which is also where its request for RISE counts from (R149). -/
def State.beginIn (s : State) (g c e : Nat) (q : QEntry) (cx : Nat) : State :=
  let x := s.at g c cx
  let p := (s.view g cx).cx
  let q := { q with begun := setBit q.begun cx true, since := if q.begun = 0 then some (s.stamp (rmIsland g)) else q.since }
  let s' := s.setEntry g c e q
  if e = 0 then s'.noteTurn g p 0 c (s.arrayReady g (1 - c) p)
  else if e = 3 then (if s.runsOrdered x q then s'.coreInc x Reg.DMA_ORDERED.N 1 else s')
  else if isParade q || q.opc = 0x61 then s'.coreInc x Reg.LN_OPS.N (s.itersOf g c q)
  else s'

/-- The entry of a queue with an issue number. -/
def State.entrySeq (s : State) (g c e seq : Nat) : Option QEntry := (s.queue g c e).find? (fun q => q.seq = seq)

/-- An `asplit` at the head of every core's queue takes effect in all of them at once (R115). -/
def State.beginSplit (s : State) (g c : Nat) (q : QEntry) : State :=
  let cs := s.coresOf g c
  if cs.all (fun cx => s.mayBegin g c 0 q cx) then
    let s := s.setEntry g c 0 { q with begun := cs.foldl (fun b i => setBit b i true) 0 }
    if q.noop then s else s.doSplit g (bit (wMod q.word) 5)
  else s

/-- Begin an operation in a core if it may begin there. -/
def State.tryBegin (s : State) (g c e seq cx : Nat) : State :=
  match s.entrySeq g c e seq with
  | some q => if s.mayBegin g c e q cx && s.turnOk g c e (s.view g cx).cx then s.beginIn g c e q cx else s
  | none => s

/-- Look at one entry of a queue: note when it first stood at the head of a core's queue, and begin it in every core where
it may begin. An operation that waits on a flag begins once `ENGINE_WAIT_SATISFIED` has served the wait (R68). -/
def State.pumpEntry (s : State) (g c e : Nat) (q : QEntry) : State :=
  let cs := s.coresOf g c
  if cs.all (fun i => q.begunIn i) || !cs.any (fun cx => s.atHead g c e q cx) then s
  else
    let q := if q.since.isSome then q else { q with since := some (s.stamp (rmIsland g)) }
    let q := if q.served then s.matchStep g c q else q
    let s := s.setEntry g c e q
    if !q.served then s
    else if q.opc = 0x36 then (if q.begun = 0 then s.beginSplit g c q else s)
    else cs.foldl (fun t cx => t.tryBegin g c e q.seq cx) s

/-- Look at every entry of one queue. -/
def State.pumpQueue (s : State) (g c e : Nat) : State :=
  ((s.queue g c e).map (·.seq)).foldl (fun t seq => match t.entrySeq g c e seq with
    | some q => t.pumpEntry g c e q
    | none => t) s

/-- Look at every queue of a troupe. -/
def State.pump (s : State) (g : Nat) : State :=
  [0, 1].foldl (fun t c => (List.range 4).foldl (fun t e => t.pumpQueue g c e) t) s

/-! ## The iterations that an operation runs -/

/-- The operation's iterations run when it retires, or for the Juggler when its transfers complete: all but those of `mwl`,
`mma`, `mmx`, `asplit`, the Stream operations, the Parade and `tload`, which have events of their own. -/
def runsAtEnd (q : QEntry) : Bool :=
  engineOf q.opc = 3 || (0x33 ≤ q.opc && q.opc ≤ 0x35) || q.opc = 0x70 ||
    (engineOf q.opc = 2 && q.opc ≠ 0x61 && !isParade q)

/-- The operands that an iteration writes, for the Stream unit, the Lane unit and the Juggler (R173). -/
def State.outsOf (s : State) (x : At) (q : QEntry) (i : Nat) : Run (List Opnd) :=
  match q.opc with
  | 0x24 => (s.qOpnd x q 0 i).map (fun o => [o])
  | 0x23 => do
    let o1 ← s.qOpnd x q 1 i
    let o2 ← s.qOpnd x q 2 i
    let idx ← (List.range (o2.d.tile 0)).mapM (fun n => s.dmaIndex x o2 n)
    return (idx.filterMap id).filterMap (fun a =>
      if a < o1.d.ext (dimOf q.word) then some (o1.atAbs (dimOf q.word) a) else none)
  | 0x52 => (s.qOpnd x q 0 i).map (fun o => [o])
  | 0x70 => ((updFields (s.progNat x.j (wMod q.word % 8))).filter (6 ≤ ·)).mapM (fun k => s.qOpnd x q k i)
  | o =>
    if o = 0x20 && s.isPacket x.g x.c q then .ok []
    else if engineOf o = 3 then (s.qOpnd x q 1 i).map (fun o => [o])
    else if engineOf o = 1 then (sxOutputs q.word).mapM (fun k => s.qOpnd x q k i)
    else .ok []

/-- An iteration writes to a scratchpad range that a tile step holds, and so waits (R173). -/
def State.iterHeld (s : State) (x : At) (q : QEntry) (i : Nat) : Bool :=
  match s.outsOf x q i with
  | .ok os => os.any (fun o => s.opndHeld x o)
  | .error _ => false

/-- How the attempt to run one iteration ended: it ran, it waits, or it met an error. -/
inductive IterEnd where
  | ran | waits
  | err (code payload : Nat)
  deriving DecidableEq, Repr

/-- The answer of a run as a state and an end. -/
def ranOr (s : State) : Run State → State × IterEnd
  | .ok t => (t, .ran)
  | .error e => (s, .err e.1 e.2)

/-- Run iteration i of an operation on a core. -/
def State.runIter (s : State) (x : At) (q : QEntry) (i : Nat) : State × IterEnd :=
  if s.iterHeld x q i then (s.coreInc x Reg.ACC_HOLD_STALL.N 1, .waits)
  else match q.opc with
  | 0x33 => if s.tileQuiet x q i then ranOr s (s.iterAccp x q i) else (s, .waits)
  | 0x34 => if s.tileQuiet x q i then ranOr s (s.iterAccz x q i) else (s, .waits)
  | 0x35 => if s.tileQuiet x q i then ranOr s (s.iterAccd x q i) else (s, .waits)
  | 0x70 => if q.noop then (s, .ran) else ranOr s (s.iterUpd x q i)
  | o =>
    if engineOf o = 3 then
      match s.iterDma x q i with
      | .ok (t, true) => (t, .ran)
      | .ok (t, false) => (t, .waits)
      | .error e => (s, .err e.1 e.2)
    else if engineOf o = 1 then ranOr s (s.iterSx x q i)
    else ranOr s (s.iterLane x q i)

/-- The operation of a context whose iterations an engine of a core runs next. -/
def State.runEntry (s : State) (g c e cx : Nat) : Option QEntry :=
  if (s.coresOf g c).contains cx then (s.queue g c e).find? (fun q => q.begunIn cx && !q.retiredIn cx && runsAtEnd q &&
    decide (Tab.get 0 q.prog (32 + cx) < s.itersOf g c q)) else none

/-- Iteration `prog` of an operation has begun on a core. -/
def QEntry.stepped (q : QEntry) (cx : Nat) : QEntry :=
  { q with prog := Tab.set 0 q.prog (32 + cx) (Tab.get 0 q.prog (32 + cx) + 1) }

/-- An iteration of an `lperm` meets an out-of-range index in a core (R230). -/
def State.permMeets (s : State) (x : At) (q : QEntry) : Bool := q.opc = 0x59 && !(s.permBad x q).isEmpty

/-- Run the next iteration of a context's operation on a core. An `lperm` that meets an out-of-range index ends there with
`TRAP`; without, it raises `PERM_RANGE` once in the core (R230, R231). -/
def State.runNext (s : State) (g c e cx : Nat) (q : QEntry) : State × IterEnd :=
  let x := s.at g c cx
  let r := s.runIter x q (Tab.get 0 q.prog (32 + cx))
  let bad := s.permMeets x q
  match r.2 with
  | .ran =>
    if bad && bit (wMod q.word) 1 then (r.1, .err 0x24 0)
    else
      let t := if bad && !bit q.perm cx then r.1.coreNote g c cx 2 0x24 q.pc 0 else r.1
      (t.setEntry g c e { q.stepped cx with perm := setBit q.perm cx (bit q.perm cx || bad) }, .ran)
  | _ => r

/-- The opcodes of the Stream operations. -/
def sxOpcs : List Nat := [0x40, 0x41, 0x42, 0x43, 0x44, 0x45, 0x46, 0x47, 0x48, 0x49, 0x4A, 0x4B]

/-- A Stream operation of a context stands between two chunks of one iteration in a core: the engine is its (R52, R215). -/
def State.midIter (s : State) (g c p : Nat) : Bool :=
  (s.coresOf g c).any (fun cx => (s.view g cx).cx = p && (match s.begunOf g c 1 cx sxOpcs with
    | some q => let n := Tab.get 0 q.prog (32 + cx)
        n ≠ 0 && decide (Tab.get 0 q.prog cx < (List.range n).foldl (fun a i => a + s.sxChunks (s.at g c cx) q i) 0)
    | none => false))

/-- The other context's operation that takes turns with a context's at an engine of a core (R52): the logical core it runs
on with the operation. -/
def State.rival (s : State) (g c e p : Nat) : Option (Nat × QEntry) :=
  if e = 0 then none
  else (s.coresOf g (1 - c)).findSome? (fun cx =>
    if (s.view g cx).cx = p then (s.runEntry g (1 - c) e cx).map (fun q => (cx, q)) else none)

/-- How far an engine went: the context's operation has begun all its iterations or waits, or an operation met an error. -/
inductive ServeEnd where
  | done | waits
  | err (c cx : Nat) (q : QEntry) (code payload : Nat)
  deriving DecidableEq, Repr

/-- An engine of a core runs iterations until those of context c's operation are done: at each iteration boundary the
contexts take turns (R51, R52). -/
def State.serveTo (s : State) (g c e cx : Nat) : Nat → State × ServeEnd
  | 0 => (s, .waits)
  | n + 1 =>
    let p := (s.view g cx).cx
    match s.runEntry g c e cx with
    | none => (s, .done)
    | some q =>
      if e = 1 && s.midIter g (1 - c) p then (s, .waits)
      else
        let own (s : State) (both : Bool) : State × ServeEnd :=
          let r := (s.noteTurn g p e c both).runNext g c e cx q
          match r.2 with
          | .ran => State.serveTo r.1 g c e cx n
          | .waits => (r.1, .waits)
          | .err k v => (r.1, .err c cx q k v)
        match s.rival g c e p with
        | none => own s false
        | some (cx', q') =>
          if s.turnOf g p e = c then own s true
          else
            let r := (s.noteTurn g p e (1 - c) true).runNext g (1 - c) e cx' q'
            match r.2 with
            | .ran => State.serveTo r.1 g c e cx n
            | .waits => own r.1 false
            | .err k v => (r.1, .err (1 - c) cx' q' k v)

/-- The iterations that are still to run at an engine of a core. -/
def State.workLeft (s : State) (g e cx : Nat) : Nat :=
  [0, 1].foldl (fun a c => (s.coresOf g c).foldl (fun a i =>
    if (s.view g i).cx = (s.view g cx).cx then (match s.runEntry g c e i with
      | some q => a + (s.itersOf g c q - Tab.get 0 q.prog (32 + i))
      | none => a) else a) a) 1

/-- Run what an engine of a core must run before a context's operation can end there. -/
def State.serve (s : State) (g c e cx : Nat) : State × ServeEnd := s.serveTo g c e cx (s.workLeft g e cx + 1)

/-! ## A stop (R73) -/

/-- Run at most n further iterations of an operation on a core; an iteration that meets an error is not run. -/
def State.runSome (s : State) (g c e cx : Nat) : Nat → State
  | 0 => s
  | n + 1 => match s.runEntry g c e cx with
    | none => s
    | some q =>
      let r := s.runNext g c e cx q
      match r.2 with
      | .ran => State.runSome r.1 g c e cx n
      | _ => s

/-- Executing operations of a context stop at their next iteration boundary: its tile steps are finished, unless its half
is fenced, and of an operation whose iterations have no event of their own as many have run as the stop left time for, which is a
free value (R73, R153; log 118). -/
def State.endExec (s : State) (g c : Nat) : State :=
  let s := s.bumpFree
  (s.coresOf g c).foldl (fun (t : State) cx =>
    let x := t.at g c cx
    let fenced := t.isSplit g && t.flag (if c = 0 then Reg.ARR_STATUS.FENCE0 g (t.view g cx).cx else
      Reg.ARR_STATUS.FENCE1 g (t.view g cx).cx)
    let t := if fenced then t else (t.stepsOf x).foldl (fun (u : State) st => match u.entrySeq g c 0 st.seq with
      | some q => u.finishStep x q 6 st
      | none => u) t
    (List.range 4).foldl (fun (t : State) e =>
      if (t.runEntry g c e cx).isNone then t else t.runSome g c e cx (s.takeFree (4 * cx + e))) t) s

/-! ## Progress and retirement -/

/-- Everything a core must do before its part of an operation can retire is done. -/
def State.coreDone (s : State) (g c : Nat) (q : QEntry) (cx : Nat) : Bool :=
  let x := s.at g c cx
  let total := s.itersOf g c q
  let n := (s.coresOf g c).length
  match q.opc with
  | 0x30 => Tab.get 0 q.prog (16 + cx) = total
  | 0x31 => Tab.get 0 q.prog cx = total
  | 0x32 => Tab.get 0 q.prog cx = total
  | 0x36 => true
  | 0x61 => bit q.done cx
  | o =>
    if engineOf o = 3 then bit q.done cx
    else if isParade q then q.hop = total * n && (!s.flag (Reg.RM_PARADE.DN_EN g c) || q.pushed)
    else if engineOf o = 1 && o ≠ 0x70 then
      Tab.get 0 q.prog (32 + cx) = total &&
        Tab.get 0 q.prog cx = ((List.range total).foldl (fun a i => a + s.sxChunks x q i) 0)
    else Tab.get 0 q.prog (32 + cx) = total

/-- A queue entry of engine e has been freed: what waits for operations to retire counts one down (R100,
R354, R365). -/
def countDown (e : Nat) (l : List Nat) : List Nat := listSet l e (l.getD e 0 - 1)

/-- The frame entry of the first mark of a beat (R476): discarded where the ring is full. -/
def State.writeFrame (s : State) (j slot : Nat) (now : Nat) : State :=
  if !s.flag (Reg.FR_CFG.EN j) then s
  else
    let n := s.get (Reg.FR_CFG.SIZE_LOG2 j)
    let tail := s.get (Reg.FR_PTR.TAIL j)
    if (tail + 2 ^ 32 - s.get (Reg.FR_PTR.HEAD j)) % 2 ^ 32 = 2 ^ n then s.incSat (Reg.FR_DROPS.COUNT j) 1
    else
      let ph := ofBool (tail / 2 ^ n % 2 = 0)
      let late := ofBool (s.get (Reg.CAL_LATE.LATE j) ≠ 0)
      let bs := leBytes 6 (s.get (Reg.CAL_BEAT.N j)) ++ leBytes 1 (s.get (Reg.SN_JOB_STATUS.GEN j)) ++
        leBytes 1 (ph + 2 * late) ++ leBytes 8 now ++ leBytes 8 (s.get (Reg.CAL_RELEASE.T j)) ++
        leBytes 2 slot ++ leBytes 6 0
      let s := s.setHostBytes (s.get (Reg.FR_BASE.ADDR j) * 32 + 32 * (tail % 2 ^ n)) bs
      (s.inc (Reg.FR_PTR.TAIL j) 1).sendVector (20 + j)

/-- A Curtain of the job is at the phase in which contexts stop at their curtain points (R404). -/
def State.curtainStops (s : State) (j : Nat) : Bool := s.get (Reg.SN_JOB_STATUS.PHASE j) = 2

/-- A context is blocked in `beat` at a release that carries a Curtain (R402, R419). -/
def State.heldBeat (s : State) (j g c : Nat) : Bool :=
  (s.snOf j).beatHold && (match (s.ctxOf g c).block with
    | some (.beat n, _) => n ≤ s.get (Reg.CAL_BEAT.N j)
    | _ => false)

/-- A context is at its curtain point (R402). -/
def State.atCurtain (s : State) (j g c : Nat) : Bool :=
  s.ctxDrained g c && ((s.ctxOf g c).curtain.isSome || s.get (Reg.CTX_STATUS.STATE g c) = 4 || s.heldBeat j g c)

/-- A context that has come to its curtain point while the job quiesces is QUIESCED; a DONE one stays DONE (R81, R402). -/
def State.noteCurtain (s : State) (g c : Nat) : State :=
  match s.ctxJob g c with
  | some j =>
    if s.jobState j = 2 && s.curtainStops j && s.get (Reg.CTX_STATUS.STATE g c) ≠ 4 && s.atCurtain j g c then
      s.put (Reg.CTX_STATUS.STATE g c) 6
    else s
  | none => s

/-- Test what of a context depends on its queues: `qwait`, a pending mark of the beat, and its curtain point (R65, R100,
R402). -/
def State.testCtx (s : State) (g c : Nat) : State :=
  let x := s.ctxOf g c
  let s := match x.block with
    | some (.qwait e n, _) =>
      if s.get (qdepthFld g c e) ≤ n then s.wake g c else s
    | _ => s
  match (s.ctxOf g c).mark with
  | some l =>
    if l.all (· = 0) then
      let s := s.setCtx g c { s.ctxOf g c with mark := none }
      let j := s.jobOf g c
      let u := s.jobS j
      if u.marked.isNone then
        let now := s.stamp (rmIsland g)
        ((s.setJobS j { u with marked := some now }).writeFrame j x.markSlot now).noteCurtain g c
      else s.noteCurtain g c
    else s.noteCurtain g c
  | none => s.noteCurtain g c

/-- The last enabled core has retired the head of a queue: free the entry, count `QDEPTH` down, signal its
flag (R62, R63, R68). -/
def State.retireHead (s : State) (g c e : Nat) (q : QEntry) : State :=
  let s := s.setQueue g c e (s.queue g c e).tail
  let s := s.put (qdepthFld g c e) (s.get (qdepthFld g c e) - 1)
  let x := s.ctxOf g c
  let s := s.setCtx g c { x with
    mark := x.mark.map (countDown e), arriveLeft := x.arriveLeft.map (countDown e)
    tokens := x.tokens.map (fun t => { t with older := countDown e t.older, left := t.left.map (countDown e) }) }
  let s := s.testCtx g c
  if wSV q.word then s.signalFlag g c (wSFlag q.word) 1 else s

/-- A core retires its part of its oldest operation. -/
def State.retireCore (s : State) (g c e cx : Nat) (q : QEntry) : State :=
  let q := { q with retired := setBit q.retired cx true }
  let s := if e = 3 then s.coreInc (s.at g c cx) Reg.DMA_OPS.N 1 else s
  let s := s.setEntry g c e q
  (if (s.coresOf g c).all (fun i => q.retiredIn i) then s.retireHead g c e q else s).pump g

/-- The counts of the operations ahead in each queue of a context, which a mark, a token or an arrival
waits for. -/
def State.queued (s : State) (g c : Nat) : List Nat :=
  (List.range 4).map (fun e => (s.queue g c e).length)

end Sys2Proof.Machine
end

