-- ==== Sys2Proof/Machine/Stop.lean ====
section
/-! DEFINITION. The stop of a job, the beginning of a restore, and raising an error: each once, for every meaning to
call (R73 to R75, R374 to R379, R414, R415). -/

namespace Sys2Proof.Machine

/-! ## Stopping a job (R73, R74, R86, R594) -/

/-- No row of a context's tiles is in flight, and no tile step is held for it. -/
def State.clearInflight (s : State) (g c : Nat) : State :=
  let m := s.accMask g c
  -- the fields `ACC_TILE.INFLIGHT` of the troupe's cores and the context's tiles, whose reset value is 0
  let hit (k : Nat) : Bool :=
    let off := k / 64 - 0x1100000
    0x1100000 * 64 ≤ k && k % 64 = 24 && off / 0x200000 = g && off % 0x200000 < 0x100000 &&
      off % 0x10000 / 0x100 = 4 && bit m (off % 0x100 / 8)
  let s := { s with regs := s.regs.filter (fun e => !hit e.1) }
  (List.range 16).foldl (fun (t : State) cx =>
    let k := t.core g cx
    t.setCore g cx { k with steps := Tab.set [] (Tab.set [] k.steps c []) (c + 2) [] }) s

/-- Discard the queued operations of a context; its counts read zero (R63, R73). -/
def State.dropQueues (s : State) (g c : Nat) : State :=
  ((List.range 4).foldl (fun t e => (t.setQueue g c e []).put (qdepthFld g c e) 0) s).clearInflight g c

/-- A context stops issuing, its executing operations end and its queued ones are discarded (R73). -/
def State.haltCtx (s : State) (g c : Nat) : State := ((s.unblock g c).endExec g c).dropQueues g c

/-- A context stops: STOPPED, unless it is DONE, which it stays until RELEASE (R73, R81). -/
def State.stopCtx (s : State) (g c : Nat) : State :=
  if s.get (Reg.CTX_STATUS.STATE g c) = 4 then s else (s.haltCtx g c).put (Reg.CTX_STATUS.STATE g c) 5

/-- What the end of a job's operations lets begin in its troupes: the other context of a shared troupe goes on (R73). -/
def State.pumpJob (s : State) (j : Nat) : State :=
  (((s.jobCtxs j).map (·.1)).eraseDups).foldl (fun (t : State) g => t.pump g) s

/-- Write the halt record of a job (R86, R594). -/
def State.haltRecord (s : State) (j : Nat) (e : ErrAt) : State :=
  ((((((((s.put (Reg.JOB_HALT_INFO.EXTRA j) 0).put (Reg.JOB_HALT_INFO.WAITS j) 0).put
    (Reg.JOB_HALT_INFO.UNIT j) e.unit).put (Reg.JOB_HALT_INFO.CORE j) e.core).put
    (Reg.JOB_HALT_INFO.CTX j) e.ctxn).put (Reg.JOB_HALT_INFO.TROUPE j) e.troupe).put
    (Reg.JOB_HALT_INFO.CODE j) e.code).put (Reg.JOB_HALT_PC.ADDR j) e.pc).put
    (Reg.JOB_HALT_STAMP.STAMP j) (s.stamp e.island)

/-- A host add that a Curtain held takes effect (R404); one that a ring's command made (its index and one in the third
place) is then done. -/
def State.applyHeld (s : State) (j : Nat) (a : Nat × Nat × Nat) : State :=
  let s := s.addJobFlag j (a.1 % 256) a.2.1 1 523
  if a.2.2 = 0 then s else s.ringDone j (a.2.2 - 1) 0 0

/-- A Curtain of the job in progress is abandoned (R406); the host adds it held are applied. -/
def State.abandonCurtain (s : State) (j : Nat) : State :=
  let ph := s.get (Reg.SN_JOB_STATUS.PHASE j)
  if 1 ≤ ph ∧ ph ≤ 4 then
    let x := s.snOf j
    let s := x.heldAdds.foldl (fun (t : State) a => t.applyHeld j a) s
    let s := s.setSn j { x with heldAdds := [], drained := [], sentMarkers := false, beatHold := false, readyAt := none }
    let s := { s with relay := Tab.set (0, 0) s.relay (s.get (Reg.SN_CFG.GROUP j)) (0, 0) }
    let s := (s.put (Reg.SN_JOB_STATUS.PHASE j) 0).put (Reg.SN_JOB_STATUS.ABANDON_EVT j) 1
    s.inc (Reg.SN_ABANDONS.N j) 1
  else s

/-- The collective instances of a job in progress are discarded with its queued work; the launch counts stay. -/
def State.dropColl (s : State) (j : Nat) : State :=
  s.coll.foldl (fun (t : State) e => if e.1 / 64 = j && e.2.running then
    { t with coll := Tab.set {} t.coll e.1 { inst := e.2.inst } } else t) s

/-- The job stops (R73 steps 1 and 2): HALTING, every context STOPPED, queues discarded, the record
written, `HALT_EVT` and its message. -/
def State.stopJob (s : State) (j : Nat) (e : ErrAt) : State :=
  let s := (s.abandonCurtain j).dropColl j
  let s := ((s.haltRecord j e).put (Reg.JOB_STATUS.STATE j) 4).put (Reg.CAL_STATUS.ACTIVE j) 0
  let s := (s.jobCtxs j).foldl (fun t p => t.stopCtx p.1 p.2) s
  let s := s.setSn j { s.snOf j with armDue := none }
  (s.setEvent (Reg.JOB_STATUS.HALT_EVT j) j).pumpJob j

/-! ## The beginning of a restore (R75, R414 steps 1 and 2, R415) -/

/-- The core that would double for a failed core: the next of its troupe, ascending and wrapping, that
is neither retired nor doubling (R420). -/
def State.doubleFor (s : State) (g cx : Nat) : Option Nat :=
  ((List.range 15).map (fun i => (cx + 1 + i) % 16)).find? (fun d =>
    !s.coreRetired g d && !bit (s.get (Reg.SN_DOUBLE.DOUBLING g)) d)

/-- A core doubles for a logical core and is not itself retired. -/
def State.doubled (s : State) (g cx : Nat) : Bool :=
  match Tab.get none s.doubler (16 * g + cx) with
  | some d => !s.coreRetired g d
  | none => false

/-- A retired core that a context enables gets a core that doubles for it; one whose doubling core has been lost in its
turn gets another (R420). -/
def State.doubleUp (s : State) (g cx : Nat) : State :=
  if !s.coreRetired g cx || s.doubled g cx then s
  else match s.doubleFor g cx with
    | some d =>
      let on := s.get (Reg.SN_DOUBLE.DOUBLING g)
      let on := match Tab.get none s.doubler (16 * g + cx) with
        | some old => setBit on old false
        | none => on
      let s := { s with doubler := Tab.set none s.doubler (16 * g + cx) (some d) }
      (s.put (Reg.SN_DOUBLE.DOUBLING g) (setBit on d true)).put
        (Reg.SN_DOUBLE.FAILED g) (setBit (s.get (Reg.SN_DOUBLE.FAILED g)) cx true)
    | none => s

/-- Core doubling for the retired cores that a job's contexts enable (R420). -/
def State.applyDoubling (s : State) (j : Nat) : State :=
  (s.jobCtxs j).foldl (fun (t : State) p => (t.coresNamed p.1 p.2).foldl (fun (t : State) cx => t.doubleUp p.1 cx) t) s

/-- Some enabled core of the job is retired, and the job does not double or no core is left for it (R415). -/
def State.coreBars (s : State) (j : Nat) : Bool :=
  let t := s.applyDoubling j
  (s.jobCtxs j).any (fun p => (s.coresNamed p.1 p.2).any (fun cx =>
    s.coreRetired p.1 cx && (!s.flag (Reg.SN_CFG.DOUBLE j) || !t.doubled p.1 cx)))

/-- The page operation in progress ends with a code (R332). -/
def State.endPageOp (s : State) (o : PageOp) (code : Nat) : State :=
  let s := { s with pageOp := none }
  let s := (((s.put Reg.MEM_OP_STATUS.CODE code).put Reg.MEM_OP_STATUS.BUSY 0).put
    Reg.MEM_OP_STATUS.PHASE 0).put Reg.MEM_OP_STATUS.DONE_EVT 1
  match o.entry with
  | some i => s.ringDone 8 i code 0
  | none => s

/-- A running migration of the job is abandoned unless it is in SWITCH (R334). -/
def State.abandonMigration (s : State) (j : Nat) : State :=
  match s.pageOp with
  | some o =>
    if o.op = 3 ∧ o.job = j ∧ (o.phase = 2 ∨ o.phase = 3) then (s.endPageOp o 4).setOwner o.newDfn 0xE else s
  | none => s

/-- Every context of a job stops, QUIESCED, with its queued work discarded (R414 step 1). -/
def State.quiesceCtxs (s : State) (j : Nat) : State :=
  (s.jobCtxs j).foldl (fun t p =>
    (t.haltCtx p.1 p.2).put (Reg.CTX_STATUS.STATE p.1 p.2) 6) s

/-- The coordinator of a cascade job sends RESTORE to the other parts (R417); another part sends it up the time tree, so that it
reaches the coordinator (DESIGN CHOICE, log 97: the spec gives no other message that could tell it). -/
def State.announceRestore (s : State) (j : Nat) : State :=
  let gr := s.get (Reg.SN_CFG.GROUP j)
  let gen := s.get (Reg.SN_JOB_STATUS.GEN j)
  if gr = 0 then s else if s.isSystemMaster then s.sendDown gr gen 5 gen else s.sendUp gr gen 5 gen

/-- The copies of a job's ring that run stop at the boundary they have reached, with the bytes moved (R472). -/
def State.stopCopies (s : State) (j : Nat) : State :=
  ((s.ringOfNum j).cmds.filter (fun c => (c.opc = 4 || c.opc = 5) && c.started && !c.done)).foldl
    (fun (t : State) c => t.ringDone j c.idx 0x04 c.moved) s

/-- Steps 1 and 2 of a restore: quiesce, abandon, step the epoch and the generation. -/
def State.beginRestore (s : State) (j : Nat) : State :=
  let s := ((s.abandonCurtain j).abandonMigration j).stopCopies j
  let s := ((s.quiesceCtxs j).dropColl j).put (Reg.JOB_STATUS.STATE j) 3
  let s := (s.inc (Reg.SN_EPOCH.CUR j) 1).inc (Reg.SN_JOB_STATUS.GEN j) 1
  let s := s.setSn j { s.snOf j with armDue := none }
  (if (s.snOf j).fill.isEmpty && !s.flag (Reg.SN_JOB_STATUS.LOG_OVF j) then s
    else s.put (Reg.SN_JOB_STATUS.RESOLVING j) 1).pumpJob j

/-- `CUR` − `BASE` would reach 255 (R415). -/
def State.epochsFull (s : State) (j : Nat) : Bool :=
  255 ≤ (s.get (Reg.SN_EPOCH.CUR j) + 2 ^ 16 - s.get (Reg.SN_EPOCH.BASE j)) % 2 ^ 16 + 1

/-- The job stops, not restored (R415). -/
def State.stopUnrestored (s : State) (j : Nat) (e : ErrAt) : State :=
  ((s.put (Reg.JOB_STATUS.LAST_CODE j) e.code).put (Reg.SN_JOB_STATUS.NORESTORE j) 1).stopJob j e

/-- Restore a job from its last record, or stop it where R415 says so; `spent` says that a restore already restarted twice
is met by a further fault. -/
def State.restoreOr (s : State) (j : Nat) (e : ErrAt) (spent : Bool) (go : State → State) : State :=
  if s.coreBars j then s.stopUnrestored j { e with code := 0x15 }
  else if s.flag (Reg.SN_JOB_STATUS.INCOMPLETE j) || s.epochsFull j || spent then s.stopUnrestored j e
  else go s

/-- A fault charged to a job that is RUNNING or RESTORING: restore it, or stop it where R396, R340 or R415 says so. Where the
spare list has run out the job stops with 0x16 (R340). Nothing restores while the control pairs have failed (R425). -/
def State.faultJob (s : State) (j : Nat) (e : ErrAt) : State :=
  let again : Bool := s.jobState j = 3
  let x := s.snOf j
  if s.pairsFailed then s
  else if e.noRestore then (s.put (Reg.JOB_STATUS.LAST_CODE j) 0x16).stopJob j { e with code := 0x16 }
  else if !s.flag (Reg.SN_CFG.EN j) then (s.put (Reg.JOB_STATUS.LAST_CODE j) e.code).stopJob j e
  else (s.put (Reg.JOB_STATUS.LAST_CODE j) e.code).restoreOr j e (again && decide (2 ≤ x.restarts)) (fun t =>
    (t.setSn j { t.snOf j with
      restarts := if again then x.restarts + 1 else 0, cause := e, causeAt := s.stamp e.island
      detected := some s.time.root }).beginRestore j |>.announceRestore j)

/-- An error comes before another in the order of R74: by stamp, then lower troupe, context and core. -/
def ErrAt.before (e : ErrAt) (t : Nat) (f : ErrAt) (u : Nat) : Bool :=
  let a := [t, e.troupe, e.ctxn, e.core]
  let b := [u, f.troupe, f.ctxn, f.core]
  match (List.range 4).find? (fun i => a.getD i 0 ≠ b.getD i 0) with
  | some i => a.getD i 0 < b.getD i 0
  | none => false

/-- A fault is detected together with the one that began the restore in progress: at the same count of the root (R378,
log 119). -/
def State.together (s : State) (j : Nat) (e : ErrAt) : Bool :=
  errClass e.code = .fault && s.jobState j = 3 && (s.snOf j).detected = some s.time.root

/-- A further fault detected together with the first: one restore serves both, the earliest stands in the records, and the
other is a trace record only (R378). What bars the restore now still bars it (R415). -/
def State.joinFault (s : State) (j : Nat) (e : ErrAt) : State :=
  let x := s.snOf j
  let at_ := s.stamp e.island
  let s := (s.countErr e.code).trace e.island e.code (some j) e.payload
  let first := e.before at_ x.cause x.causeAt
  let c := if first then e else x.cause
  let s := if first then
      ((s.recordFault e (some j)).put (Reg.JOB_STATUS.LAST_CODE j) e.code).setSn j { x with cause := e, causeAt := at_ }
    else s
  if s.pairsFailed then s
  else if e.noRestore then (s.put (Reg.JOB_STATUS.LAST_CODE j) 0x16).stopJob j { e with code := 0x16 }
  else if s.coreBars j then s.stopUnrestored j { c with code := 0x15 }
  else if s.flag (Reg.SN_JOB_STATUS.INCOMPLETE j) then s.stopUnrestored j c
  else s

/-! ## Raising an error (R374 to R379, R391) -/

/-- Raise an error: note it, and take its class's consequence for the job it is charged to (R377). `trap` gives a
counted code the program path. -/
def State.raiseErr (s : State) (e : ErrAt) (trap : Bool := false) : State :=
  match s.chargedTo e with
  | none => s.noteErr e
  | some j =>
    if s.together j e then s.joinFault j e
    else
    let s := s.noteErr e
    match errClass e.code with
    | .stops => s.stopJob j e
    | .fault => s.faultJob j e
    | .counted => if trap then s.stopJob j e else s
    | .policy => s
    | .external => s

/-- An access that the command made to a job queue's backing area and that was refused is raised, from the crossbar's island
(R329, R348; log 45). -/
def State.settleCq (s : State) : State :=
  match s.cqFault with
  | none => s
  | some (j, code, va) =>
    let s := { s with cqFault := none }
    s.raiseErr { code := code, island := 522, payload := if code = 0x0A then faultPayload 0 va else 0, job := some j }

/-- The error of a context at decode or in its Ringmaster (R594): unit 0, the instruction's address. -/
def State.ctxErr (s : State) (g c code pc payload : Nat) : State :=
  s.raiseErr { code := code, island := rmIsland g, payload := payload, job := s.ctxJob g c, unit := 0,
               troupe := g, ctxn := c, pc := pc }

/-- Raise the error of an engine operation in a core (R594). -/
def State.coreErr (s : State) (g c cx eng code pc payload : Nat) (trap : Bool := false) : State :=
  s.raiseErr (s.errOfCore g c cx eng code pc payload) trap

/-- Raise an error of a core's operation. -/
def State.opErr (s : State) (x : At) (q : QEntry) (code payload : Nat) : State :=
  s.coreErr x.g x.c x.cx (engineOf q.opc) code q.pc payload

/-- Insert into a list in ascending order of a key. -/
def insertBy (key : Nat × Nat) (a : Nat) : List ((Nat × Nat) × Nat) → List ((Nat × Nat) × Nat)
  | [] => [(key, a)]
  | b :: t => if key.1 < b.1.1 ∨ (key.1 = b.1.1 ∧ key.2 ≤ b.1.2) then (key, a) :: b :: t else b :: insertBy key a t

/-- Cores of a troupe in the order in which errors of one instant are recorded: by their islands' stamps, then by `cx`
(R74). -/
def State.stampOrder (s : State) (g : Nat) (cs : List Nat) : List Nat :=
  (cs.foldl (fun l cx => insertBy (s.stamp (coreIsland g cx), cx) cx l) []).map (·.2)

/-- The cores that a trapping `lperm` stops in: the one that met an out-of-range index, and those that meet one in the same
iteration (R231). -/
def State.trapCores (s : State) (g c cx : Nat) (q : QEntry) : List Nat :=
  (s.coresOf g c).filter (fun i => i = cx || (q.begunIn i && !q.retiredIn i &&
    Tab.get 0 q.prog (32 + i) = Tab.get 0 q.prog (32 + cx) && !(s.permBad (s.at g c i) q).isEmpty))

/-- A trapping `lperm` stops its job: the sticky bits and counts of every core that met an index, and the error of the
lowest (R231). -/
def State.permTrap (s : State) (g c cx : Nat) (q : QEntry) : State :=
  let cs := s.trapCores g c cx q
  let s := (cs.filter (· ≠ cx)).foldl (fun (t : State) i => t.lanePerm (t.at g c i) q) s
  (s.stampOrder g cs).foldl (fun (t : State) i => t.coreErr g c i 2 0x24 q.pc 0 true) s

/-- Raise the error that an engine's iteration met. -/
def State.raiseEnd (s : State) (g c cx : Nat) (q : QEntry) (code payload : Nat) : State :=
  if code = 0x24 then s.permTrap g c cx q else s.opErr (s.at g c cx) q code payload

end Sys2Proof.Machine
end

