-- ==== Sys2Proof/Machine/Issue.lean ====
section
/-! DEFINITION. Issue: the fetch of an instruction (R49), the checks of decode in the order of R89, the
rejection of an instruction (R61), and the enqueue of an engine instruction with what it captures. -/

namespace Sys2Proof.Machine

/-! ## Fetch and rejection -/

/-- The units that a command names exist; otherwise the machine stops (log 18). -/
def inUnits (ok : Bool) (a : Ans) : Ans := if ok then a else .fault .noSuchUnit

/-- The context may issue: it is RUN, it does not stand at a `curtain`, its job is RUNNING, and its Ringmaster's clock runs
(R57, R81, R101, R498). -/
def State.mayIssue (s : State) (g c : Nat) : Bool :=
  !s.stopped.contains (rmIsland g) && (s.ctxOf g c).curtain.isNone && s.get (Reg.CTX_STATUS.STATE g c) = 1 && (match s.ctxJob g c with
    | some j => s.jobState j = 2
    | none => false)

/-- Issue an instruction of a context: the fetch at `CTX_PC` translates, or raises `PAGE_FAULT` (R49). A
context that may not issue does nothing (log 2). -/
def State.issue (s : State) (g c : Nat) (k : State → State) : Ans :=
  inUnits (g < 24 && c < 2) (.next (
    if !s.mayIssue g c then s
    else match s.readAddr (s.jobOf g c) (s.pc g c) with
      | none =>
        let e := s.accessFail (s.jobOf g c) (s.pc g c) false
        s.ctxErr g c e.1 (s.pc g c) e.2
      | some _ => k s))

/-- Reject an instruction with a code (R60, R61): nothing is enqueued, the context's job stops through the
program-error path, and the job's count of illegal commands gains one for codes 0x04 to 0x07. -/
def State.rejectInstr (s : State) (g c code : Nat) : State :=
  let s := if 4 ≤ code ∧ code ≤ 7 then s.incSat (Reg.JOB_ILLEGAL_CNT.COUNT (s.jobOf g c)) 1 else s
  s.ctxErr g c code (s.pc g c) 0

/-- The first code whose check failed; 0 where all passed. -/
def firstCode : List (Bool × Nat) → Nat
  | [] => 0
  | (ok, code) :: t => if ok then firstCode t else code

/-- The first nonzero code. -/
def firstNonzero : List Nat → Nat
  | [] => 0
  | a :: t => if a = 0 then firstNonzero t else a

/-- Only the bits of the given fields (lowest bit, width) are set. -/
def onlyBits (w : Nat) (fields : List (Nat × Nat)) : Bool :=
  Nat.land w (2 ^ 120 - 1 - fields.foldl (fun a f => Nat.lor a ((2 ^ f.2 - 1) * 2 ^ f.1)) 0) = 0

/-- Innermost active loop index (R93, R102). -/
def State.loopIndex (s : State) (g c : Nat) : Option Nat := (s.ctxOf g c).loops.head?.map (·.index)

/-! ## Engine instructions -/

/-- One descriptor an instruction uses: its field, the part it plays, and whether its padding is written
(R309). -/
structure Use where
  k : Nat
  role : Role
  pads : Bool := false

/-- The part of a scratchpad operand of layout 0 (R305). -/
def spRole (writes : Bool := false) : Role := { spaces := [1], layouts := [0], writes := writes }

/-- The part of a Juggler operand. -/
def memRole (writes : Bool := false) (atomic : Bool := false) (packets : Bool := false)
    (layouts : List Nat := [0]) : Role :=
  { spaces := [0, 1, 2, 3], layouts := layouts, writes := writes, atomic := atomic, packets := packets }

/-- What an engine instruction is checked by and what its issue does besides entering its queue. The
checks see the state with the entry that would be queued. -/
structure Shape where
  opc : Nat
  fields : List (Nat × Nat)
  uses : List Use
  tile : Bool := false
  pair : Bool := false
  /-- Field ranges of check 1. -/
  fieldOk : State → Bool := fun _ => true
  /-- `FIELD_RANGE` conditions on descriptors, after their validation. -/
  descOk : State → QEntry → Bool := fun _ _ => true
  /-- The overlap check of `dtr`. -/
  overlapOk : State → QEntry → Bool := fun _ _ => true
  /-- The conditions of check 5. -/
  stateOk : State → QEntry → Bool := fun _ _ => true
  /-- Vector registers named. -/
  vregs : List Nat := []
  /-- What issue captures and records. -/
  effect : State → QEntry → State × QEntry := fun s q => (s, q)

/-- The header is well formed (R90, R93). -/
def headerOk (w : Body) : Bool :=
  (wNV w || (wNest w = 0 && !wPX w)) && (if wWV w then wWFlag w < 320 else wWFlag w = 0) &&
    (if wSV w then wSFlag w < 320 else wSFlag w = 0)

/-- The entry that an instruction would make: with the loop index and everything R201 and R204 capture. -/
def State.entryOf (s : State) (g c : Nat) (w : Body) (sh : Shape) : QEntry :=
  let j := s.jobOf g c
  let used (k : Nat) : Bool := sh.uses.any (fun u => u.k = k)
  let tag (k : Nat) : Nat := (s.desc g c (wD w k)).tag
  { opc := sh.opc, word := w, pc := s.pc g c, px := (s.loopIndex g c).getD 0, issued := s.stamp (rmIsland g)
    seq := s.issueSeq, step := s.get (Reg.STEP_SEQ.SEQ j)
    exps := (List.range 10).map (fun k => if used k then s.tagExp j (tag k) else 0)
    rnds := (List.range 10).map (fun k => if used k then s.get (Reg.SCALE.RND j (tag k)) else 0) }

/-- The nest checks of R56, R91 and R93. -/
def State.nestFits (s : State) (g c : Nat) (w : Body) (sh : Shape) : Bool :=
  !wNV w ||
    (let n := s.nestNat g c (wNest w)
     let narrow := (sh.uses.filter (fun u => (s.desc g c (wD w u.k)).f.width < 8)).map (·.k)
     nestOk n (wPX w) narrow && (!(sh.tile || sh.pair) || (mkNest n .none).cxAt 8 = 0))

/-- The descriptor as it lies within its space. -/
def Desc.inside (d : Desc) : Desc := if d.space = 2 then { d with base := d.base % 2 ^ 22 } else d

/-- The first byte beyond a space (R301 rule 9); half a scratchpad while the job doubles (R421). -/
def State.spaceLimit (s : State) (j space : Nat) : Int :=
  if space = 0 then 2 ^ 52 else if s.flag (Reg.SN_CFG.DOUBLE j) then 0x200000 else 2 ^ 22

/-- Validate one used descriptor: R301. -/
def State.useCode (s : State) (g c : Nat) (q : QEntry) (u : Use) : Nat :=
  let d := s.qDesc g c q u.k
  let r := d.check u.role (bit (s.get Reg.DEV_GRADE.GL_PORT_MASK) (bits d.base 0 4))
  if r ≠ 0 then r
  else if 3 ≤ d.space then 0
  else
    let n := s.qNest g c q
    let ok := (List.range n.total).all (fun i => (s.coresOf g c).all (fun cx =>
      match placeOpnd d.inside n i u.k cx 0 with
      | .ok o => o.inSpace (u.pads && !d.keep && !d.wmode) (s.spaceLimit (s.jobOf g c) d.space)
      | .error _ => true))
    if ok then 0 else 0x06

/-- The tiles an instruction names, over its iterations and enabled cores (R92). -/
def State.tilesNamed (s : State) (g c : Nat) (q : QEntry) (sh : Shape) : List Int :=
  if !(sh.tile || sh.pair) then []
  else
    let n := s.qNest g c q
    let ts := ((List.range n.total).map (fun i => tileIdx q.word n i 0)).eraseDups
    if sh.pair then ts ++ ts.map (· + 1) else ts

/-- A tile lies in the lower half of a mask's set bits (R421). -/
def lowerHalf (m t : Nat) : Bool := 2 * popCount t m < popCount 32 m

/-- A register lies in the half a doubling job may use (R421). -/
def State.vregsOk (s : State) (g : Nat) (j : Nat) (vs : List Nat) : Bool :=
  !s.flag (Reg.SN_CFG.DOUBLE j) || vs.all (fun v => v < if s.ctx1Bound g then 8 else 16)

/-- The state checks that hold for every engine instruction: `PX` needs an active loop (R93), `SPACE` 2 a
core of a troupe with a context of the job (R298), `SPACE` 3 the Bus Master Enable (R319), and V16 to V31
an unbound context 1 (R223). -/
def State.commonState (s : State) (g c : Nat) (q : QEntry) (sh : Shape) : Bool :=
  (!wPX q.word || (s.loopIndex g c).isSome) &&
  sh.uses.all (fun u =>
    let d := s.qDesc g c q u.k
    (d.space ≠ 2 || (s.jobCtxs (s.jobOf g c)).any (fun p => p.1 = bits d.base 32 9 / 16)) &&
    (d.space ≠ 3 || s.pcie.busMaster)) &&
  (!s.ctx1Bound g || sh.vregs.all (· < 16))

/-- The rejection code of an engine instruction, in the order of R89; 0 where it may be enqueued. -/
def State.engineCode (s : State) (g c : Nat) (w : Body) (sh : Shape) : Nat :=
  let q := s.entryOf g c w sh
  let j := s.jobOf g c
  let ts := s.tilesNamed g c q sh
  let m := s.accMask g c
  if !(onlyBits w.toNat (sh.fields ++ [(94, 26)]) && headerOk w && sh.fieldOk s && s.nestFits g c w sh &&
    s.vregsOk g j sh.vregs && ts.all (fun t => 0 ≤ t && decide (t < 32)) &&
    (!s.flag (Reg.SN_CFG.DOUBLE j) || ts.all (fun t => !bit m t.toNat || lowerHalf m t.toNat))) then 0x06
  else
    let dc := firstNonzero (sh.uses.map (s.useCode g c q))
    if dc ≠ 0 then dc
    else firstCode [
      (sh.descOk s q, 0x06),
      (ts.all (fun t => bit m t.toNat), 0x09),
      (sh.overlapOk s q, 0x07),
      (s.commonState g c q sh && sh.stateOk s q, 0x04),
      (s.get (qdepthFld g c (engineOf sh.opc)) ≠ 16, 0x01)]

/-- Context 0 names V16 to V31: `HIREG` sets (R224). -/
def State.noteHireg (s : State) (g c : Nat) (vs : List Nat) : State :=
  if c = 0 && vs.any (16 ≤ ·) then s.put (Reg.RM_PARADE.HIREG g 0) 1 else s

/-- Enqueue an engine instruction that passed its checks (R50, R62, R63). -/
def State.enqueued (s : State) (g c : Nat) (w : Body) (sh : Shape) : State :=
  let e := engineOf sh.opc
  let r := sh.effect s (s.entryOf g c w sh)
  let s := r.1.noteHireg g c sh.vregs
  let s := s.setQueue g c e (s.queue g c e ++ [r.2])
  let s := s.inc (qdepthFld g c e) 1
  ({ s with issueSeq := s.issueSeq + 1 }).advance g c

/-- Enqueue it, and look at the troupe's queue heads. -/
def State.enqueue (s : State) (g c : Nat) (w : Body) (sh : Shape) : State := (s.enqueued g c w sh).pump g

/-- Issue an engine instruction. -/
def State.issueEngine (s : State) (g c : Nat) (w : Body) (sh : Shape) : Ans :=
  s.issue g c (fun s =>
    let code := s.engineCode g c w sh
    if code ≠ 0 then s.rejectInstr g c code else s.enqueue g c w sh)

/-- The fields of descriptors D0 to D(n − 1). -/
def dFields (ks : List Nat) : List (Nat × Nat) := ks.map (fun k => (80 - 8 * k, 8))

end Sys2Proof.Machine
end

