-- ==== Sys2Proof/Machine/Sched.lean ====
section
/-! DEFINITION. The schedule and the beat (R348 to R371): handing out tokens, serving waiting contexts,
posting and completing tokens, arrivals, releases. -/

namespace Sys2Proof.Machine

/-! ## The schedule table (R352, R353, R355) -/

/-- Entry i of a job's schedule table. -/
def State.schedEntry (s : State) (j i : Nat) : Nat := bits (s.get (Reg.SCHED_TAB.W j (i / 4))) (16 * (i % 4)) 16

/-- `KIND` of a table entry. -/
def entryKind (e : Nat) : Nat := bits e 14 2
/-- `STAGE` of a table entry. -/
def entryStage (e : Nat) : Nat := bits e 11 3
/-- Tokens that a table entry hands out. -/
def entryCount (e : Nat) : Nat := bits e 0 11 + 1
/-- The index x = 8d + v of a table entry. -/
def entryX (e : Nat) : Nat := 8 * (entryKind e - 1) + entryStage e

/-- Set the walk of the table to entry i, with its registers. -/
def State.setPtr (s : State) (j i remain : Nat) : State :=
  let s := s.setJobS j { s.jobS j with ptr := i, remain := remain }
  ((s.put (Reg.SCHED_STATUS.PTR j) i).put (Reg.SCHED_STATUS.REMAIN j) remain).put (Reg.SCHED_STATUS.AT_END j)
    (ofBool (i = s.get (Reg.SCHED_CFG.LEN j)))

/-- Go to entry i and load its count. -/
def State.loadPtr (s : State) (j i : Nat) : State :=
  s.setPtr j i (if i < s.get (Reg.SCHED_CFG.LEN j) then entryCount (s.schedEntry j i) else 0)

/-- The walk is at the end of the table. -/
def State.atEnd (s : State) (j : Nat) : Bool := (s.jobS j).ptr = s.get (Reg.SCHED_CFG.LEN j)

/-- At the end of the table with `SEQ_NEW` set, the walk starts again (R355). -/
def State.schedWrap (s : State) (j : Nat) : State :=
  if s.atEnd j && s.flag (Reg.SCHED_STATUS.SEQ_NEW j) then (s.put (Reg.SCHED_STATUS.SEQ_NEW j) 0).loadPtr j 0 else s

/-- The job has a beat (R364). -/
def State.hasBeat (s : State) (j : Nat) : Bool := s.flag (Reg.CAL_CFG.EN j)

/-- The deadline D_n of the present beat (R366). -/
def State.beatDeadline (s : State) (j : Nat) : Nat :=
  s.get (Reg.CAL_RELEASE.T j) + (s.get (Reg.CAL_WINDOW.ST j) - s.get (Reg.CAL_LATE.CUT j))

/-- What a `sched` finds (R353, R367): a token of index x, the end of elastic work, or nothing yet. -/
inductive Grant where
  | token (x : Nat)
  | closed
  | none
  deriving DecidableEq, Repr

/-- What a `sched` with the given stages finds at an instant. -/
def State.schedFind (s : State) (j stages now : Nat) : Grant :=
  let beat := s.hasBeat j
  if beat && s.flag (Reg.CAL_STATUS.CLOSED j) then .closed
  else if s.atEnd j then (if beat && !s.flag (Reg.SCHED_STATUS.SEQ_NEW j) then .closed else .none)
  else
    let e := s.schedEntry j (s.jobS j).ptr
    let x := entryX e
    if beat && decide (s.beatDeadline j < now + s.get (Reg.CAL_COST.COST j x)) then .closed
    else if !bit stages (entryStage e) || !s.cqReady (jobQueue j (16 + x)) then .none
    else .token x

/-- Replace the three flags of a `sched` (R103). -/
def State.schedFlags (s : State) (g c fbase kind stage mb : Nat) : State :=
  ((s.put (Reg.CTX_FLAG.COUNT g c fbase) kind).put (Reg.CTX_FLAG.COUNT g c (fbase + 1)) stage).put
    (Reg.CTX_FLAG.COUNT g c (fbase + 2)) mb

/-- The oldest token of a token queue has left it. -/
def State.dropPosted (s : State) (j x : Nat) : State :=
  let u := s.jobS j
  s.setJobS j { u with posted := Tab.set [] u.posted x (Tab.get [] u.posted x).tail }

/-- Hand a context the oldest token of index x (R353 step 4). -/
def State.handOut (s : State) (g c fbase x : Nat) : State :=
  let j := s.jobOf g c
  let q := jobQueue j (16 + x)
  let mb := bits (s.cqFront q) 32 16
  let injected := (Tab.get [] (s.jobS j).posted x).headD false
  let s := (s.cqPopOne q).dropPosted j x
  let s := s.schedFlags g c fbase (x / 8 + 1) (x % 8) mb
  let s := s.inc (Reg.MB_CNT.TAKEN j x) 1
  let u := s.jobS j
  let s := s.setJobS j { u with order := Tab.set [] u.order x (Tab.get [] u.order x ++ [{ mb := mb, injected := injected }]) }
  let y := s.ctxOf g c
  let s := s.setCtx g c { y with tokens := y.tokens ++
    [{ x := x, mb := mb, at_ := s.stamp (rmIsland g), older := s.queued g c }] }
  let u := s.jobS j
  let s := if u.remain ≤ 1 then s.loadPtr j (u.ptr + 1) else s.setPtr j u.ptr (u.remain - 1)
  s.schedWrap j

/-- Give a context kind 3 (R367). -/
def State.closeElastic (s : State) (g c fbase : Nat) : State :=
  (s.schedFlags g c fbase 3 0 0).put (Reg.CAL_STATUS.CLOSED (s.jobOf g c)) 1

/-- Serve one context's `sched`: none where it must wait. -/
def State.schedServe (s : State) (g c fbase stages : Nat) : Option State :=
  match s.schedFind (s.jobOf g c) stages (s.stamp (rmIsland g)) with
  | .token x => some (s.handOut g c fbase x)
  | .closed => some (s.closeElastic g c fbase)
  | .none => none

/-- The contexts of a job that wait in `sched`, in the order of R70. -/
def State.schedWaiters (s : State) (j : Nat) : List (Waiter × Nat × Nat) :=
  (s.jobCtxs j).filterMap (fun p => match (s.ctxOf p.1 p.2).block with
    | some (.sched f st _, t) => some (⟨t, p.1, p.2, 0, 0⟩, f, st)
    | _ => none)

/-- The first of two waits. -/
def firstSched (l : List (Waiter × Nat × Nat)) : Option (Waiter × Nat × Nat) :=
  l.foldl (fun b w => match b with
    | none => some w
    | some a => some (if w.1.before a.1 then w else a)) none

/-- Serve the waiting contexts of a job one at a time, each against the state the one before left (R353). -/
def State.serveSched (s : State) (j : Nat) : Nat → State
  | 0 => s
  | n + 1 =>
    let ready := (s.schedWaiters j).filter (fun w => (s.schedServe w.1.g w.1.c w.2.1 w.2.2).isSome)
    match firstSched ready with
    | none => s
    | some w => match s.schedServe w.1.g w.1.c w.2.1 w.2.2 with
      | some t => State.serveSched (t.wake w.1.g w.1.c) j n
      | none => s

/-- What of each queue's operations was issued after the older ones: all that is queued up to the last, where there is
more than the older. -/
def sinceOlder (now older : List Nat) : List Nat :=
  (List.range 4).map (fun e => if older.getD e 0 < now.getD e 0 then now.getD e 0 else 0)

/-- Close the tokens a context holds: what must retire for them is what was issued since each was handed out (R354). -/
def State.closeTokens (s : State) (g c : Nat) : State :=
  let x := s.ctxOf g c
  s.setCtx g c { x with tokens := x.tokens.map (fun t =>
    if t.left.isNone then { t with left := some (sinceOlder (s.queued g c) t.older) } else t) }

/-! ## Posting and completing tokens (R351, R354, R368) -/

/-- Make the oldest post owed to token queue 16 + x, unless the queue holds it for want of room (R287, R351): the token takes
its number, and a queue whose `EN` is clear discards it and counts it in `CQ_DROPS`. -/
def State.postToken (s : State) (j x : Nat) : State :=
  let q := jobQueue j (16 + x)
  match s.owedOf j x with
  | [] => s
  | inj :: rest =>
    if s.cqHolds q then s
    else
      let b := s.get (Reg.MB_CNT.ARR j x)
      let u := s.jobS j
      let s := (s.setJobS j { u with owed := Tab.set [] u.owed x rest }).inc (Reg.MB_CNT.ARR j x) 1
      if !s.flag (cqFlds q).en then s.incSat (cqFlds q).drops 1
      else
        let u := s.jobS j
        (s.setJobS j { u with posted := Tab.set [] u.posted x (Tab.get [] u.posted x ++ [inj]) }).cqAppend q
          (leBytes 8 (lenWord true false b 0))

/-- Pop n packets of a queue. -/
def State.popMany (s : State) (q : Nat) : Nat → State
  | 0 => s
  | n + 1 => State.popMany (s.cqPopOne q) q n

/-- Pop the packets of the tokens of a queue that are complete, oldest first; a token from `SCHED_INJECT` pops nothing
(R354). -/
def State.popComplete (s : State) (j x : Nat) : Nat → State
  | 0 => s
  | n + 1 =>
    let u := s.jobS j
    match Tab.get [] u.order x with
    | h :: t =>
      if !h.complete then s
      else
        let s := s.setJobS j { u with order := Tab.set [] u.order x t }
        State.popComplete (if h.injected then s else s.popMany (jobQueue j x) (s.get (Reg.HO_CFG.PKTS j x))) j x n
    | [] => s

/-- Mark the oldest token of a micro-batch complete. -/
def markToken (mb : Nat) : List Handed → List Handed
  | [] => []
  | h :: t => if h.mb = mb ∧ !h.complete then { h with complete := true } :: t else h :: markToken mb t

/-- A token of a context is complete (R354, R368). -/
def State.completeToken (s : State) (g c : Nat) (t : Token) : State :=
  let j := s.jobOf g c
  let u := s.jobS j
  let s := s.setJobS j { u with order := Tab.set [] u.order t.x (markToken t.mb (Tab.get [] u.order t.x)) }
  let s := if s.flag (Reg.CAL_COST.AUTO j t.x) then
      let cost : Int := (s.get (Reg.CAL_COST.COST j t.x) : Nat)
      let dur : Int := ((s.stamp (rmIsland g) - t.at_ : Nat) : Int)
      s.put (Reg.CAL_COST.COST j t.x) (cost + (dur - cost) / 8).toNat
    else s
  s.popComplete j t.x (Tab.get [] (s.jobS j).order t.x).length

/-! ## Beats (R364 to R370) -/

/-- B_n of a job (the nominal grid). -/
def State.gridAt (s : State) (j n : Nat) : Nat :=
  s.get (Reg.CAL_ORIGIN.T j) + n * s.get (Reg.CAL_PERIOD.NUM j) / s.get (Reg.CAL_PERIOD.DEN j)

/-- The contexts that pace the beat. -/
def State.calCtxs (s : State) (j : Nat) : List Nat :=
  (List.range 48).filter (fun i => bit (s.get (Reg.CAL_CTX_MASK.MASK j)) i)

/-- The cut c_n for a lateness (R366). -/
def State.beatCut (s : State) (j late : Nat) : Nat :=
  min late (s.get (Reg.CAL_CFG.SHRINK j) * s.get (Reg.CAL_PERIOD.NUM j) / (256 * s.get (Reg.CAL_PERIOD.DEN j)))

/-- Begin beat n at release instant a, which has come: its lateness and cut, `CLOSED` clear, no arrival yet (R365 to
R367). -/
def State.openBeat (s : State) (j n a : Nat) : State :=
  let late := a - s.gridAt j n
  let s := ((s.put (Reg.CAL_BEAT.N j) n).put (Reg.CAL_RELEASE.T j) a).put (Reg.CAL_LATE.LATE j)
    (min late (2 ^ 32 - 1))
  let s := ((s.put (Reg.CAL_LATE.CUT j) (s.beatCut j late)).put (Reg.CAL_STATUS.CLOSED j) 0).put
    (Reg.CAL_STATUS.ACTIVE j) 1
  s.setJobS j { s.jobS j with released := true, arrived := [], ends := 0, marked := none }

/-- The number of the release at which a context blocked in `beat` now goes on: the present beat's where it is still to come,
otherwise the next one's (R365; log 123). -/
def State.nextBoundary (s : State) (j : Nat) : Nat :=
  s.get (Reg.CAL_BEAT.N j) + ofBool (s.jobS j).released

/-- The contexts blocked in `beat` go on. -/
def State.wakeBeat (s : State) (j : Nat) : State :=
  (s.jobCtxs j).foldl (fun (t : State) p => match (t.ctxOf p.1 p.2).block with
    | some (.beat _, _) => t.wake p.1 p.2
    | _ => t) s

/-- The smallest beat n, from n0 on, whose grid instant is not before t. -/
def State.firstBeat (s : State) (j t : Nat) : Nat → Nat → Nat
  | 0, n => n
  | f + 1, n => if t ≤ s.gridAt j n then n else State.firstBeat s j t f (n + 1)

end Sys2Proof.Machine
end

