-- ==== Sys2Proof/Machine/Control.lean ====
section
/-! DEFINITION. The control instructions (R68, R69, R76, R96 to R103): each runs in the Ringmaster at issue. -/

namespace Sys2Proof.Machine

/-- Issue a control instruction that checks itself and completes or blocks: the checks in order, then the
effect. -/
def State.issueControl (s : State) (g c : Nat) (checks : State → List (Bool × Nat)) (run : State → State) : Ans :=
  s.issue g c (fun s =>
    let code := firstCode (checks s)
    if code ≠ 0 then s.rejectInstr g c code else run s)

/-- Block a context's issue: WAIT, with `BLOCK` (R81). -/
def State.blockIn (s : State) (g c : Nat) (b : Block) (code : Nat) : State :=
  let x := s.ctxOf g c
  ((s.setCtx g c { x with block := some (b, s.stamp (rmIsland g)) }).put (Reg.CTX_STATUS.STATE g c) 2).put
    (Reg.CTX_STATUS.BLOCK g c) code

/-- `loop` (R97). -/
def execLoop (g c : Nat) (w : Body) (s : State) : Ans :=
  let len := fbits w 92 12
  s.issueControl g c
    (fun s =>
      let stop := s.pc g c + 16 + 16 * len
      let ls := (s.ctxOf g c).loops
      [(onlyBits w.toNat [(92, 28)] && len ≠ 0, 0x06),
       (ls.length < 4 && (match ls with
          | l :: _ => decide (stop ≤ l.stop)
          | [] => true), 0x04)])
    (fun s =>
      let pc := s.pc g c
      let x := s.ctxOf g c
      let l : LoopLevel := ⟨pc + 16, pc + 16 + 16 * len, fbits w 104 16 + 1, 0⟩
      (s.setCtx g c { x with loops := l :: x.loops }).setPc g c (pc + 16))

/-- The levels that remain when issue goes to an address: an address outside a body ends that level and
every level inside it (R98). -/
def leaveLoops (a : Nat) (ls : List LoopLevel) : List LoopLevel :=
  (ls.reverse.takeWhile (fun l => decide (l.start ≤ a) && decide (a < l.stop))).reverse

/-- The condition of `br` (R98). -/
def brTaken (cond v n : Nat) : Bool :=
  match cond with
  | 0 => true
  | 1 => n ≤ v
  | 2 => v < n
  | _ => v = n

/-- `br` (R98). The target is taken modulo the 2^52-byte address space, and a taken branch at the last place of a body runs no
back-edge: its target alone decides which levels end (DESIGN CHOICE, log 124: the spec states neither). -/
def execBr (g c : Nat) (w : Body) (s : State) : Ans :=
  let cond := fbits w 118 2
  let f := fbits w 109 9
  s.issueControl g c
    (fun _ => [(onlyBits w.toNat [(93, 27), (0, 32)] && f < 320 && (cond ≠ 0 || (f = 0 && fbits w 93 16 = 0)), 0x06)])
    (fun s =>
      if brTaken cond (s.flagGet g c f) (fbits w 93 16) then
        let a := unsigned 52 ((s.pc g c : Int) + 16 * signed 32 (fbits w 0 32))
        let x := s.ctxOf g c
        (s.setCtx g c { x with loops := leaveLoops a x.loops }).setPc g c a
      else s.advance g c)

/-- `fset` (R68). -/
def execFset (g c : Nat) (w : Body) (s : State) : Ans :=
  let f := fbits w 111 9
  s.issueControl g c (fun _ => [(onlyBits w.toNat [(95, 25)] && f < 320, 0x06)])
    (fun s => (s.advance g c).signalFlag g c f (fbits w 95 16))

/-- A flag is a Guyline barrier of the job: a collective descriptor names it as `DONEF` (R456). -/
def State.isBarrier (s : State) (j f : Nat) : Bool :=
  64 ≤ f && s.get (Reg.GL_COLL_BASE.ADDR j) ≠ 0 && (List.range 64).any (fun d =>
    s.memNat (2 ^ 12 * s.get (Reg.GL_COLL_BASE.ADDR j) + 64 * d + 29) 1 = f - 64 &&
      s.memNat (2 ^ 12 * s.get (Reg.GL_COLL_BASE.ADDR j) + 64 * d + 24) 1 ≠ 0)

/-- `fwait` (R69, R70): it completes where no earlier wait is served first and the count suffices. -/
def execFwait (g c : Nat) (w : Body) (s : State) : Ans :=
  let f := fbits w 111 9
  let n := fbits w 95 16
  let t := fbits w 89 6
  s.issueControl g c (fun _ => [(onlyBits w.toNat [(89, 31)] && f < 320 && n ≠ 0 && tmoOk t, 0x06)])
    (fun s =>
      let others := (s.waiters g c f).filter (fun o => o.need ≤ s.flagGet g c f)
      if n ≤ s.flagGet g c f && others.isEmpty then (s.flagPut g c f (s.flagGet g c f - n)).advance g c
      else
        let s := s.blockIn g c (.fwait f n t) (if s.isBarrier (s.jobOf g c) f then 5 else 1)
        (s.put (Reg.CTX_WAIT.FLAG g c) f).put (Reg.CTX_WAIT.SINCE g c) (s.stamp (rmIsland g)))

/-- `qwait` (R65). -/
def execQwait (g c : Nat) (w : Body) (s : State) : Ans :=
  let e := fbits w 118 2
  let n := fbits w 113 5
  s.issueControl g c (fun _ => [(onlyBits w.toNat [(113, 7)] && n ≤ 16, 0x06)])
    (fun s => if s.get (qdepthFld g c e) ≤ n then s.advance g c else s.blockIn g c (.qwait e n) 2)

/-- `beat`, by its `MODE` (R88, R96, R100, R365): 0 blocks until the next boundary, 1 marks the end of the must-work. -/
def State.beatInstr (s : State) (g c : Nat) (w : Body) : Ans :=
  let mode := fbits w 118 2
  s.issueControl g c (fun s => [(onlyBits w.toNat [(118, 2)] && mode ≤ 1, 0x06), (s.hasBeat (s.jobOf g c), 0x04)])
    (fun s =>
      if mode = 0 then
        let j := s.jobOf g c
        let s := s.closeTokens g c
        let s := s.setCtx g c { s.ctxOf g c with arriveLeft := some (s.queued g c) }
        (s.blockIn g c (.beat (s.nextBoundary j)) 3).noteCurtain g c
      else
        let x := s.ctxOf g c
        let slot := (s.loopIndex g c).getD 0
        let s := (s.closeTokens g c).advance g c
        let s := if x.mark.isSome then s
          else s.setCtx g c { s.ctxOf g c with mark := some (s.queued g c), markSlot := slot }
        s.testCtx g c)

/-- `beat` `MODE` 0. -/
def execBeatWait (g c : Nat) (w : Body) (s : State) : Ans := s.beatInstr g c w

/-- `beat` `MODE` 1. -/
def execBeatMark (g c : Nat) (w : Body) (s : State) : Ans := s.beatInstr g c w

/-- `curtain` (R101): it completes at issue, or stops the context for a pending Curtain. A job that doubles has half the
scratchpad (R421). -/
def execCurtain (g c : Nat) (w : Body) (s : State) : Ans :=
  let lcnt := fbits w 116 4
  let laddr := fbits w 94 22
  s.issueControl g c
    (fun s => [(onlyBits w.toNat [(94, 26)] && lcnt ≤ 8 && laddr % 8 = 0 &&
      laddr + 8 * lcnt ≤ (if s.flag (Reg.SN_CFG.DOUBLE (s.jobOf g c)) then 2 ^ 21 else 2 ^ 22), 0x06)])
    (fun s =>
      if s.curtainStops (s.jobOf g c) then (s.setCtx g c { s.ctxOf g c with curtain := some (lcnt, laddr) }).noteCurtain g c
      else s.advance g c)

/-- `tstamp` (R102). -/
def execTstamp (g c : Nat) (w : Body) (s : State) : Ans :=
  s.issueControl g c (fun _ => [(onlyBits w.toNat [(64, 56)], 0x06)])
    (fun s =>
      let i := (s.loopIndex g c).getD 0 % 2 ^ 16
      (s.trace (rmIsland g) (0x8000 + fbits w 112 8) (s.ctxJob g c) (2 ^ 48 * i + fbits w 64 48)).advance g c)

/-- `sched` (R103, R353); a token handed out may let a waiting context have the next one. -/
def execSched (g c : Nat) (w : Body) (s : State) : Ans :=
  let fb := fbits w 114 6
  let st := fbits w 106 8
  let t := fbits w 100 6
  s.issueControl g c
    (fun s => [(onlyBits w.toNat [(100, 20)] && fb ≤ 61 && st ≠ 0 && tmoOk t, 0x06),
      (s.get (Reg.SCHED_CFG.LEN (s.jobOf g c)) ≠ 0, 0x04)])
    (fun s =>
      let s := (s.closeTokens g c).schedWrap (s.jobOf g c)
      match s.schedServe g c fb st with
      | some t => (t.advance g c).serveSched (s.jobOf g c) 48
      | none => s.blockIn g c (.sched fb st t) 4)

/-- `halt` (R76). -/
def execHalt (g c : Nat) (w : Body) (s : State) : Ans :=
  s.issueControl g c (fun _ => [(w = 0, 0x06)])
    (fun s =>
      let s := s.closeTokens g c
      let s := s.setCtx g c { s.ctxOf g c with halted := true, arriveLeft := some (s.queued g c) }
      (s.put (Reg.CTX_STATUS.STATE g c) 3).advance g c)

end Sys2Proof.Machine
end

