-- ==== Sys2Proof/Machine/InsDma.lean ====
section
/-! DEFINITION. The engine instructions `dmv`, `dtr`, `dgat`, `dsct` and `dfill` (R104 to R108, R305, R309 to
R315): what each is checked by at decode. What they do when they start is in `Dma.lean`. -/

namespace Sys2Proof.Machine

/-- The operands of an instruction placed in every iteration on every core satisfy a condition; an operand
that cannot be placed is not judged here. -/
def State.opndsOk (s : State) (g c : Nat) (q : QEntry) (ks : List Nat) (f : List Opnd → Bool) : Bool :=
  (List.range (s.qNest g c q).total).all (fun i => (s.coresOf g c).all (fun cx =>
    match ks.mapM (fun k => s.qOpnd (s.at g c cx) q k i) with
    | .ok os => f os
    | .error _ => true))

/-- The tiles of a source and a destination correspond in a dimension (R309). -/
def dimMatches (d0 d1 : Desc) (k : Nat) : Bool :=
  if d0.str k = 0 then d0.tile k = 1 else d0.tile k = d1.tile k

/-- A destination has no zero stride in a dimension of `TILE` above 1 (R309). -/
def Desc.noFold (d : Desc) : Bool := (List.range 6).all (fun k => d.str k ≠ 0 || d.tile k = 1)

/-- The packets of a `dmv` into `SPACE` 5 hold at most 65,536 bytes, and it names a port of the first hop (R442, R443). -/
def State.packetsOk (s : State) (g c : Nat) (q : QEntry) : Bool :=
  let d1 := s.qDesc g c q 1
  d1.space ≠ 5 || (s.opndsOk g c q [0] (fun os => match os with
    | [o] => decide ((o.d.coords.filter o.valid).length * (d1.f.width / 8) ≤ 65536)
    | _ => true) &&
  (s.hopGroup (bits d1.base 16 16)).contains (bits d1.base 0 4))

/-- `dmv` (R105, R309, R310, R443). -/
def dmvShape (g c : Nat) : Shape where
  opc := 0x20
  fields := dFields [0, 1]
  uses := [⟨0, memRole, false⟩, ⟨1, memRole true true true [0, 1, 2], true⟩]
  descOk := fun s q =>
    let d1 := s.qDesc g c q 1
    if 4 ≤ d1.space then s.packetsOk g c q
    else (List.range 6).all (dimMatches (s.qDesc g c q 0) d1) && d1.noFold
  stateOk := fun s q => (s.qDesc g c q 1).space ≠ 5 || s.get (Reg.SN_CFG.GROUP (s.jobOf g c)) ≠ 0

/-- `dmv`. -/
def execDmv (g c : Nat) (w : Body) (s : State) : Ans := s.issueEngine g c w (dmvShape g c)

/-- `PERM` is a permutation of 0 to 5 (R106). -/
def isPerm (w : Body) : Bool := (List.range 6).all (fun k => ((List.range 6).map (permOf w)).contains k)

/-- `PERM` maps a dimension beyond either descriptor's count to itself (R106). -/
def permFits (w : Body) (d0 d1 : Desc) : Bool :=
  (List.range 6).all (fun k => (k < d0.dims && k < d1.dims) || permOf w k = k)

/-- `PERM` swaps the two innermost dimensions and nothing else. -/
def permSwap (w : Body) : Bool := (List.range 6).map (permOf w) = [1, 0, 2, 3, 4, 5]

/-- Two descriptors have equal base and shape (R106). -/
def sameShape (a b : Desc) : Bool :=
  a.base = b.base && a.space = b.space && a.fmt = b.fmt && a.dims = b.dims && a.layout = b.layout &&
    a.sofs = b.sofs && a.stride = b.stride && a.dimw = b.dimw

/-- `dtr` (R106, R311, R313). -/
def dtrShape (g c : Nat) (w : Body) : Shape where
  opc := 0x21
  fields := dFields [0, 1] ++ [(93, 1), (22, 18)]
  uses := [⟨0, memRole, false⟩, ⟨1, memRole true, true⟩]
  fieldOk := fun _ => isPerm w
  descOk := fun s q =>
    let d0 := s.qDesc g c q 0
    let d1 := s.qDesc g c q 1
    permFits q.word d0 d1 && d0.fmt = d1.fmt && q.exps.getD 0 0 = q.exps.getD 1 0 && !d0.f.mx &&
      (List.range 6).all (fun k => d1.tile k = d0.tile (permOf q.word k)) &&
      (!bit (wMod q.word) 5 || (sameShape d0 d1 && d0.tile 0 = d0.tile 1 && permSwap q.word))
  overlapOk := fun s q => bit (wMod q.word) 5 || !s.rangesMeet (s.at g c 0) q 0 1

/-- `dtr`. -/
def execDtr (g c : Nat) (w : Body) (s : State) : Ans := s.issueEngine g c w (dtrShape g c w)

/-- The conditions of R314; `k` names the descriptor that `DIM` indexes. -/
def State.indexOk (s : State) (g c k : Nat) (q : QEntry) : Bool :=
  let d0 := s.qDesc g c q 0
  let d1 := s.qDesc g c q 1
  let d2 := s.qDesc g c q 2
  let dk := s.qDesc g c q k
  let dim := dimOf q.word
  d2.fmt = 5 && d2.dims = 1 && d2.tile 0 = dk.tile dim && dim < d0.dims && dim < d1.dims && dk.str dim ≠ 0 &&
    (List.range 6).all (fun n => n = dim || (dimMatches d0 d1 n && (d1.str n ≠ 0 || d1.tile n = 1)))

/-- `dgat` and `dsct` (R107, R314); `k` names the indexed descriptor. -/
def indexShape (opc g c k : Nat) (w : Body) : Shape where
  opc := opc
  fields := dFields [0, 1, 2] ++ [(37, 3)]
  uses := [⟨0, memRole, false⟩, ⟨1, memRole true (opc = 0x23), true⟩, ⟨2, memRole, false⟩]
  fieldOk := fun _ => dimOf w ≤ 5
  descOk := fun s q => s.indexOk g c k q

/-- `dgat`. -/
def execDgat (g c : Nat) (w : Body) (s : State) : Ans := s.issueEngine g c w (indexShape 0x22 g c 0 w)

/-- `dsct`. -/
def execDsct (g c : Nat) (w : Body) (s : State) : Ans := s.issueEngine g c w (indexShape 0x23 g c 1 w)

/-- `dfill` (R108, R309). -/
def dfillShape (g c : Nat) : Shape where
  opc := 0x24
  fields := dFields [0] ++ [(8, 32)]
  uses := [⟨0, memRole true, true⟩]
  descOk := fun s q => (s.qDesc g c q 0).noFold

/-- `dfill`. -/
def execDfill (g c : Nat) (w : Body) (s : State) : Ans := s.issueEngine g c w (dfillShape g c)

end Sys2Proof.Machine
end

