-- ==== Sys2Proof/Machine/InsArray.lean ====
section
/-! DEFINITION. The array instructions `mwl`, `mma`, `mmx`, `accp`, `accz`, `accd` and `asplit` (R109 to R115,
R130, R138, R143, R176, R181): what each is checked by at decode, and what its issue records in `RM_ARR`. -/

namespace Sys2Proof.Machine

/-- `RM_ARR.WVALID` of a context. -/
def wvalidFld (g c : Nat) : Fld := if c = 0 then Reg.RM_ARR.WVALID0 g else Reg.RM_ARR.WVALID1 g

/-- `RM_ARR.CLASS` of a context. -/
def classFld (g c : Nat) : Fld := if c = 0 then Reg.RM_ARR.CLASS0 g else Reg.RM_ARR.CLASS1 g

/-- The class of the tensor of a descriptor field (R129); 0 outside the table. -/
def State.qClass (s : State) (g c : Nat) (q : QEntry) (k : Nat) : Nat := classOf (s.qDesc g c q k).fmt

/-- Record a weight load of a class (R138). -/
def State.noteLoad (s : State) (g c cls : Nat) : State := (s.put (wvalidFld g c) 1).put (classFld g c) cls

/-- The part of an activation operand and of a weight operand (R305). -/
def actRole : Role := { spaces := [1], layouts := [1] }
/-- The part of a weight operand. -/
def weightRole : Role := { spaces := [1], layouts := [2] }

/-- `mwl` (R110, R130). -/
def mwlShape (g c : Nat) : Shape where
  opc := 0x30
  fields := dFields [0]
  uses := [⟨0, weightRole, false⟩]
  descOk := fun s q => s.qClass g c q 0 ≠ 0
  effect := fun s q => (s.noteLoad g c (s.qClass g c q 0), q)

/-- `mwl`. -/
def execMwl (g c : Nat) (w : Body) (s : State) : Ans := s.issueEngine g c w (mwlShape g c)

/-- The class checks of R130 and R143. -/
def State.classesOk (s : State) (g c : Nat) (q : QEntry) : Bool :=
  let a := s.qClass g c q 0
  let known := mWL q.word || s.flag (wvalidFld g c)
  let b := if mWL q.word then s.qClass g c q 1 else s.get (classFld g c)
  a ≠ 0 && (!mWL q.word || b ≠ 0) &&
    (!known || (a = b && (!mCross q.word || b = 1 || b = 2)))

/-- `mma` and `mmx` (R111, R112, R130, R138, R143). -/
def mmaShape (opc g c : Nat) (w : Body) : Shape where
  opc := opc
  fields := dFields [0, 1] ++ (if opc = 0x32 then [(90, 4), (35, 5)] else [(91, 3), (31, 9)])
  uses := ⟨0, actRole, false⟩ :: (if mWL w then [⟨1, weightRole, false⟩] else [])
  tile := opc = 0x31
  pair := opc = 0x32
  fieldOk := fun _ => (mWL w || wD w 1 = 0) && (opc = 0x31 || fbits w 35 5 % 2 = 0)
  descOk := fun s q => s.classesOk g c q
  stateOk := fun s q => mWL q.word || s.flag (wvalidFld g c)
  effect := fun s q => (if mWL q.word then s.noteLoad g c (s.qClass g c q 1) else s, q)

/-- `mma`. -/
def execMma (g c : Nat) (w : Body) (s : State) : Ans := s.issueEngine g c w (mmaShape 0x31 g c w)

/-- `mmx`. -/
def execMmx (g c : Nat) (w : Body) (s : State) : Ans := s.issueEngine g c w (mmaShape 0x32 g c w)

/-- `accp` (R176). -/
def accpShape (g c : Nat) : Shape where
  opc := 0x33
  fields := dFields [0] ++ [(93, 1), (35, 5)]
  uses := [⟨0, spRole, false⟩]
  tile := true
  descOk := fun s q => [0x01, 0x02, 0x03].contains (s.qDesc g c q 0).fmt

/-- `accp`. -/
def execAccp (g c : Nat) (w : Body) (s : State) : Ans := s.issueEngine g c w (accpShape g c)

/-- `accz` (R177). -/
def acczShape : Shape where
  opc := 0x34
  fields := [(35, 5)]
  uses := []
  tile := true

/-- `accz`. -/
def execAccz (g c : Nat) (w : Body) (s : State) : Ans := s.issueEngine g c w acczShape

/-- The formats that `accd` drains to (R181). -/
def drainFmt (f : Nat) : Bool := [0x01, 0x02, 0x03, 0x08, 0x09, 0x0A, 0x0B, 0x05].contains f

/-- `accd` (R114, R181). -/
def accdShape (g c : Nat) (w : Body) : Shape where
  opc := 0x35
  fields := dFields [0] ++ [(91, 3), (35, 5)]
  uses := [⟨0, spRole true, true⟩]
  tile := true
  fieldOk := fun _ => wMod w / 16 ≠ 3
  descOk := fun s q => drainFmt (s.qDesc g c q 0).fmt

/-- `accd`. -/
def execAccd (g c : Nat) (w : Body) (s : State) : Ans := s.issueEngine g c w (accdShape g c w)

/-- The `asplit` entries of a troupe that have effect and have not retired, of either context. -/
def State.splitsQueued (s : State) (g : Nat) : List QEntry :=
  (s.queue g 0 0 ++ s.queue g 1 0).filter (fun q => q.opc = 0x36 && !q.noop)

/-- The mode that the array will have once every earlier `asplit` has taken effect (R115 step 3). -/
def State.splitPlanned (s : State) (g : Nat) : Bool :=
  match (s.splitsQueued g).foldl (fun (a : Option QEntry) q => match a with
      | some b => if b.seq < q.seq then some q else a
      | none => some q) none with
  | some q => bit (wMod q.word) 5
  | none => s.flag (Reg.RM_ARR.SPLIT g)

/-- `asplit` (R115, R138). -/
def asplitShape (g : Nat) : Shape where
  opc := 0x36
  fields := [(93, 1)]
  uses := []
  effect := fun s q =>
    if bit (wMod q.word) 5 = s.splitPlanned g then (s, { q with noop := true })
    else ((s.put (wvalidFld g 0) 0).put (wvalidFld g 1) 0, q)

/-- `asplit`. -/
def execAsplit (g c : Nat) (w : Body) (s : State) : Ans := s.issueEngine g c w (asplitShape g)

end Sys2Proof.Machine
end

