-- ==== Sys2Proof/Machine/InsStream.lean ====
section
/-! DEFINITION. The Stream instructions `sx.*` and the update instruction `upd` (R116, R126, R127, R213, R214,
R222, R255, R305, R358): what each is checked by at decode and what its issue captures. -/

namespace Sys2Proof.Machine

/-! ## Loadable slots at issue (R125, R247, R248, R255) -/

/-- The live bank of a context's loadable slot n. -/
def State.liveBank (s : State) (g c n : Nat) : Nat := bits (s.get (Reg.RM_SFN.LIVE g)) (s.physSlot g c n) 1

/-- `LOADED` of a bank. -/
def loadedFld (g bank : Nat) : Fld := if bank = 0 then Reg.RM_SFN.LOADED0 g else Reg.RM_SFN.LOADED1 g

/-- A bank of a context's loadable slot n is loaded. -/
def State.isLoaded (s : State) (g c n bank : Nat) : Bool := bit (s.get (loadedFld g bank)) (s.physSlot g c n)

/-- A context may name loadable slot n: all of 0 to 7 while context 1 is unbound, 0 to 3 otherwise (R247). -/
def State.slotOk (s : State) (g n : Nat) : Bool := !s.ctx1Bound g || n < 4

/-- A special-function slot may be named: built in, or loadable with its live bank loaded (R255). -/
def State.sfnOk (s : State) (g c slot : Nat) : Bool :=
  slot < 4 || (s.slotOk g (slot - 4) && s.isLoaded g c (slot - 4) (s.liveBank g c (slot - 4)))

/-- Context 0 names physical slots 4 to 7: `HISLOT` sets (R248). -/
def State.noteSlot (s : State) (g c n : Nat) : State :=
  if c = 0 && 4 ≤ n then s.put (Reg.RM_SFN.HISLOT g) 1 else s

/-- What the issue of an operation that evaluates a slot records: the stamped bank, and `HISLOT`. -/
def State.stampSlot (s : State) (g c slot : Nat) (q : QEntry) : State × QEntry :=
  if slot < 4 then (s, q)
  else (s.noteSlot g c (slot - 4), { q with bank := s.liveBank g c (slot - 4) })

/-! ## `sx.*` -/

/-- In every dimension where an operand strides, its valid extent is that of D3 (R213, R214). -/
def extentsOk (o3 : Opnd) (o : Opnd) : Bool :=
  (List.range 6).all (fun k => o.d.str k = 0 || o.validLen k = o3.validLen k)

/-- An output has no zero stride along a dimension in which D3 has more than one valid element. -/
def outputOk (o3 : Opnd) (o : Opnd) : Bool :=
  (List.range 6).all (fun k => o.d.str k ≠ 0 || o3.validLen k ≤ 1)

/-- The descriptor conditions of a Stream operation (R213, R214). -/
def State.sxOk (s : State) (g c : Nat) (q : QEntry) : Bool :=
  let outs := sxOutputs q.word
  s.opndsOk g c q (outs ++ sxInputs q.opc) (fun os => match os with
    | o3 :: rest =>
      rest.all (extentsOk o3) && ((o3 :: rest).take outs.length).all (fun o => extentsOk o3 o && outputOk o3 o)
    | [] => true)

/-- A Stream operation (R116). -/
def sxShape (opc g c : Nat) (w : Body) : Shape where
  opc := opc
  fields := dFields (sxInputs opc ++ sxOutputs w) ++ [(91, 3)] ++
    (if opc = 0x46 then [(37, 3)] else if opc = 0x4B then [(36, 4)] else [])
  uses := (sxInputs opc).map (fun k => ⟨k, spRole, false⟩) ++ (sxOutputs w).map (fun k => ⟨k, spRole true, true⟩)
  fieldOk := fun _ => wMod w / 16 ≠ 3 && (opc ≠ 0x46 || fbits w 37 3 ≤ 5) && (opc ≠ 0x4B || fbits w 36 4 ≤ 11)
  descOk := fun s q => s.sxOk g c q
  stateOk := fun s _ => opc ≠ 0x4B || s.sfnOk g c (fbits w 36 4)
  effect := fun s q => if opc = 0x4B then s.stampSlot g c (fbits w 36 4) q else (s, q)

/-- `sx.add`. -/
def execSxAdd (g c : Nat) (w : Body) (s : State) : Ans := s.issueEngine g c w (sxShape 0x40 g c w)

/-- `sx.sub`. -/
def execSxSub (g c : Nat) (w : Body) (s : State) : Ans := s.issueEngine g c w (sxShape 0x41 g c w)

/-- `sx.mul`. -/
def execSxMul (g c : Nat) (w : Body) (s : State) : Ans := s.issueEngine g c w (sxShape 0x42 g c w)

/-- `sx.fma`. -/
def execSxFma (g c : Nat) (w : Body) (s : State) : Ans := s.issueEngine g c w (sxShape 0x43 g c w)

/-- `sx.min`. -/
def execSxMin (g c : Nat) (w : Body) (s : State) : Ans := s.issueEngine g c w (sxShape 0x44 g c w)

/-- `sx.max`. -/
def execSxMax (g c : Nat) (w : Body) (s : State) : Ans := s.issueEngine g c w (sxShape 0x45 g c w)

/-- `sx.cmp`. -/
def execSxCmp (g c : Nat) (w : Body) (s : State) : Ans := s.issueEngine g c w (sxShape 0x46 g c w)

/-- `sx.sel`. -/
def execSxSel (g c : Nat) (w : Body) (s : State) : Ans := s.issueEngine g c w (sxShape 0x47 g c w)

/-- `sx.abs`. -/
def execSxAbs (g c : Nat) (w : Body) (s : State) : Ans := s.issueEngine g c w (sxShape 0x48 g c w)

/-- `sx.cvt`. -/
def execSxCvt (g c : Nat) (w : Body) (s : State) : Ans := s.issueEngine g c w (sxShape 0x49 g c w)

/-- `sx.clamp`. -/
def execSxClamp (g c : Nat) (w : Body) (s : State) : Ans := s.issueEngine g c w (sxShape 0x4A g c w)

/-- `sx.sfn`. -/
def execSxSfn (g c : Nat) (w : Body) (s : State) : Ans := s.issueEngine g c w (sxShape 0x4B g c w)

/-! ## `upd` -/

/-- The context flag that `STEPF` names. -/
def stepFlag (w : Body) : Nat := fbits w 2 6

/-- The flag of `STEPF` is not behind `STEP_SEQ` (R127). -/
def State.stepAhead (s : State) (g c : Nat) (w : Body) : Bool :=
  0 ≤ signed 16 (unsigned 16 ((s.flagGet g c (stepFlag w) : Int) - (s.get (Reg.STEP_SEQ.SEQ (s.jobOf g c)) : Int)))

/-- The used operands of an `upd` have the valid tile extent of the first of them, a `TILE[0]` that is a
multiple of 32, and no low padding in dimension 0 (R358). -/
def State.updDescs (s : State) (g c : Nat) (ks : List Nat) (q : QEntry) : Bool :=
  ks.all (fun k => (s.qDesc g c q k).tile 0 % 32 = 0 && (s.qDesc g c q k).padlo 0 = 0) &&
  s.opndsOk g c q ks (fun os => match os with
    | o :: rest => rest.all (fun p => (List.range 6).all (fun k => p.validLen k = o.validLen k))
    | [] => true)

/-- `upd` with the job's program n (R126, R127, R358). -/
def updShape (n g c : Nat) (w : Body) : Shape where
  opc := 0x70
  fields := dFields (List.range 10) ++ [(88, 3), (2, 6)]
  uses := (updFields n).map (fun k => ⟨k, spRole (6 ≤ k), 6 ≤ k⟩)
  fieldOk := fun _ => updNops n ≠ 0 &&
    (List.range 10).all (fun k => (updFields n).contains k = decide (wD w k ≠ 0))
  descOk := fun s q => s.updDescs g c (updFields n) q
  stateOk := fun s _ => s.stepAhead g c w
  effect := fun s q => (s, { q with flagVal := s.flagGet g c (stepFlag w) })

/-- `upd`. -/
def execUpd (g c : Nat) (w : Body) (s : State) : Ans :=
  s.issueEngine g c w (updShape (s.progNat (s.jobOf g c) (wMod w % 8)) g c w)

end Sys2Proof.Machine
end

