-- ==== Sys2Proof/Machine/InsLane.lean ====
section
/-! DEFINITION. The Lane and special-function instructions (R117 to R125, R223, R224, R230, R235, R247, R253,
R255, R259, R266 to R269): what each is checked by at decode and what its issue records. -/

namespace Sys2Proof.Machine

/-- A Lane instruction of one or more registers: `H` and the fields given beside it. -/
def laneShape (opc : Nat) (fields : List (Nat × Nat)) (vregs : List Nat) : Shape where
  opc := opc
  fields := (88, 1) :: fields
  uses := []
  vregs := vregs

/-- `lv.vl` (R119). -/
def lvVlShape (w : Body) : Shape :=
  { laneShape 0x50 [(0, 16)] [] with
    fieldOk := fun _ => 1 ≤ fbits w 0 16 && fbits w 0 16 ≤ 256 }

/-- `lv.vl`. -/
def execLvVl (g c : Nat) (w : Body) (s : State) : Ans := s.issueEngine g c w (lvVlShape w)

/-- `lv.ld` (R227). -/
def lvLdShape (w : Body) : Shape :=
  { laneShape 0x51 ((35, 5) :: dFields [0]) [lvD w] with uses := [⟨0, spRole, false⟩] }

/-- `lv.ld`. -/
def execLvLd (g c : Nat) (w : Body) (s : State) : Ans := s.issueEngine g c w (lvLdShape w)

/-- `lv.st` (R227). -/
def lvStShape (w : Body) : Shape :=
  { laneShape 0x52 ((30, 5) :: dFields [0]) [lvA w] with uses := [⟨0, spRole true, false⟩] }

/-- `lv.st`. -/
def execLvSt (g c : Nat) (w : Body) (s : State) : Ans := s.issueEngine g c w (lvStShape w)

/-- `lv.add` (R120). -/
def lvAddShape (w : Body) : Shape :=
  laneShape 0x53 [(25, 15)] [lvD w, lvA w, lvB w]

/-- `lv.add`. -/
def execLvAdd (g c : Nat) (w : Body) (s : State) : Ans := s.issueEngine g c w (lvAddShape w)

/-- `lv.mul` (R120). -/
def lvMulShape (w : Body) : Shape :=
  laneShape 0x54 [(25, 15)] [lvD w, lvA w, lvB w]

/-- `lv.mul`. -/
def execLvMul (g c : Nat) (w : Body) (s : State) : Ans := s.issueEngine g c w (lvMulShape w)

/-- `lv.fma` (R120). -/
def lvFmaShape (w : Body) : Shape :=
  laneShape 0x55 [(20, 20)] [lvD w, lvA w, lvB w, lvC w]

/-- `lv.fma`. -/
def execLvFma (g c : Nat) (w : Body) (s : State) : Ans := s.issueEngine g c w (lvFmaShape w)

/-- `lv.max` (R120). -/
def lvMaxShape (w : Body) : Shape :=
  laneShape 0x56 [(25, 15)] [lvD w, lvA w, lvB w]

/-- `lv.max`. -/
def execLvMax (g c : Nat) (w : Body) (s : State) : Ans := s.issueEngine g c w (lvMaxShape w)

/-- `lv.min` (R120). -/
def lvMinShape (w : Body) : Shape :=
  laneShape 0x57 [(25, 15)] [lvD w, lvA w, lvB w]

/-- `lv.min`. -/
def execLvMin (g c : Nat) (w : Body) (s : State) : Ans := s.issueEngine g c w (lvMinShape w)

/-- `lv.red` (R120). -/
def lvRedShape (w : Body) : Shape :=
  { laneShape 0x58 [(89, 2), (30, 10)] [lvD w, lvA w] with
    fieldOk := fun _ => fbits w 89 2 ≤ 2 }

/-- `lv.red`. -/
def execLvRed (g c : Nat) (w : Body) (s : State) : Ans := s.issueEngine g c w (lvRedShape w)

/-- `lperm` (R121). -/
def lpermShape (w : Body) : Shape :=
  laneShape 0x59 [(89, 1), (25, 15)] [lvD w, lvA w, lvB w]

/-- `lperm`. -/
def execLperm (g c : Nat) (w : Body) (s : State) : Ans := s.issueEngine g c w (lpermShape w)

/-- `RM_PARADE.CVALID` and `KIND` record an `lscan` at its issue (R235). -/
def State.noteScan (s : State) (g c : Nat) (w : Body) : State :=
  (s.put (Reg.RM_PARADE.CVALID g c) 1).put (Reg.RM_PARADE.KIND g c) (scanKind w)

/-- `lscan` (R122, R235). -/
def lscanShape (g c : Nat) (w : Body) : Shape :=
  { laneShape 0x5A [(90, 4), (25, 15)] [lvD w, lvA w, lvB w] with
    stateOk := fun s _ =>
      (scanCarry w = 0 || scanCarry w = 3 || !s.flag (Reg.RM_PARADE.CVALID g c) ||
        s.get (Reg.RM_PARADE.KIND g c) = scanKind w) &&
      (scanCarry w ≠ 3 || s.flag (Reg.RM_PARADE.UP_EN g c))
    effect := fun s q => (s.noteScan g c w, q) }

/-- `lscan`. -/
def execLscan (g c : Nat) (w : Body) (s : State) : Ans := s.issueEngine g c w (lscanShape g c w)

/-- `MERGE`, `PARADE` and `POP` of `lstat`. -/
def statMerge (w : Body) : Bool := bit (wMod w) 5
/-- `PARADE`. -/
def statParade (w : Body) : Bool := bit (wMod w) 4
/-- `POP`. -/
def statPop (w : Body) : Bool := bit (wMod w) 3

/-- `lstat` (R123, R268, R269). `POP` without `PARADE` has no first core that could pop (DEDUCED, log 30). -/
def lstatShape (g c : Nat) (w : Body) : Shape :=
  { laneShape 0x5B [(91, 3), (30, 10)]
      ([lvD w, lvD w + 1, lvD w + 2, lvA w] ++ (if statMerge w then [lvA w + 1, lvA w + 2] else [])) with
    fieldOk := fun _ => lvD w ≤ 29 && (!statMerge w || (lvA w ≤ 29 && !statParade w && !lvH w)) &&
      (!statPop w || statParade w)
    stateOk := fun s _ => !statPop w || s.flag (Reg.RM_PARADE.UP_EN g c) }

/-- `lstat`. -/
def execLstat (g c : Nat) (w : Body) (s : State) : Ans := s.issueEngine g c w (lstatShape g c w)

/-- `SFM_OPEN` of a context. -/
def sfmOpenFld (g c : Nat) : Fld := if c = 0 then Reg.RM_SFN.SFM_OPEN0 g else Reg.RM_SFN.SFM_OPEN1 g

/-- `lsoftmax` (R123, R259, R262). -/
def lsoftmaxShape (g c : Nat) (w : Body) : Shape :=
  let part := sfmPart w
  { laneShape 0x5C [(91, 3), (30, 10), (20, 5)] [lvD w, lvA w, lvC w] with
    fieldOk := fun _ => (part ≠ 1 && part ≠ 2) || lvD w = 0
    stateOk := fun s _ => (part ≠ 2 && part ≠ 3) || s.flag (sfmOpenFld g c)
    effect := fun s q => (if part = 1 then s.put (sfmOpenFld g c) 1 else s, q) }

/-- `lsoftmax`. -/
def execLsoftmax (g c : Nat) (w : Body) (s : State) : Ans := s.issueEngine g c w (lsoftmaxShape g c w)

/-- `sfn` (R124, R125, R255). -/
def sfnShape (g c : Nat) (w : Body) : Shape :=
  let slot := fbits w 16 4
  { laneShape 0x60 [(30, 10), (16, 4)] [lvD w, lvA w] with
    fieldOk := fun _ => slot ≤ 11
    stateOk := fun s _ => s.sfnOk g c slot
    effect := fun s q => s.stampSlot g c slot q }

/-- `sfn`. -/
def execSfn (g c : Nat) (w : Body) (s : State) : Ans := s.issueEngine g c w (sfnShape g c w)

/-- `TSLOT`. -/
def tSlot (w : Body) : Nat := fbits w 37 3
/-- `BANK`. -/
def tBank (w : Body) : Nat := fbits w 36 1

/-- D0 of a `tload` in one iteration (R253). -/
def imageOpnd (o : Opnd) : Bool :=
  o.d.fmt = 1 && o.d.space = 1 && o.d.str 0 = 1 && o.validLen 0 = 784 &&
    (List.range 6).all (fun k => k = 0 || o.d.ext k = 1)

/-- `tload` (R125, R253, R255). -/
def tloadShape (g c : Nat) (w : Body) : Shape :=
  { laneShape 0x61 ((36, 4) :: dFields [0]) [] with
    uses := [⟨0, spRole, false⟩]
    descOk := fun s q => s.opndsOk g c q [0] (fun os => os.all imageOpnd) && (s.qNest g c q).cxAt 0 = 0
    stateOk := fun s _ => s.slotOk g (tSlot w) && s.liveBank g c (tSlot w) ≠ tBank w
    effect := fun s q =>
      let f := loadedFld g (tBank w)
      ((s.put f (setBit (s.get f) (s.physSlot g c (tSlot w)) true)).noteSlot g c (tSlot w), { q with bank := tBank w }) }

/-- `tload`. -/
def execTload (g c : Nat) (w : Body) (s : State) : Ans := s.issueEngine g c w (tloadShape g c w)

/-- `tswap` (R125, R255). -/
def tswapShape (g c : Nat) (w : Body) : Shape :=
  { laneShape 0x62 [(37, 3)] [] with
    stateOk := fun s _ => s.slotOk g (tSlot w) && s.isLoaded g c (tSlot w) (1 - s.liveBank g c (tSlot w))
    effect := fun s q =>
      let live := 1 - s.liveBank g c (tSlot w)
      ((s.put (Reg.RM_SFN.LIVE g) (setBit (s.get (Reg.RM_SFN.LIVE g)) (s.physSlot g c (tSlot w)) (live = 1))).noteSlot
        g c (tSlot w), { q with bank := live }) }

/-- `tswap`. -/
def execTswap (g c : Nat) (w : Body) (s : State) : Ans := s.issueEngine g c w (tswapShape g c w)

end Sys2Proof.Machine
end

