-- ==== Sys2Proof/Machine/Jobs.lean ====
section
/-! DEFINITION. Jobs: binding and unbinding contexts, START, HALT and RELEASE with their checks and
everything each returns to reset, and host adds to job flags (R57 to R59, R71, R73, R86, R592, R593). -/

namespace Sys2Proof.Machine

/-! ## Binding and unbinding -/

/-- Both contexts of a troupe are bound. -/
def State.bothBound (s : State) (g : Nat) : Bool :=
  s.flag (Reg.CTX_CFG.BOUND g 0) && s.flag (Reg.CTX_CFG.BOUND g 1)

/-- Shared mode begins (R139): a context c that ran alone before has its last tile copied to its bank at
its next instruction boundary, in every core. -/
def State.beginShared (s : State) (g : Nat) (alone : Option Nat) : State :=
  let s := s.put (Reg.RM_ARR.SHARED g) 1
  match alone with
  | none => s
  | some c => (List.range 16).foldl (fun (t : State) cx =>
      t.setCore g cx { t.core g cx with own := [(0, c + 1)] }) s

/-- Shared mode ends (R139): the remaining context's bank is active, and the other is its shadow. -/
def State.endShared (s : State) (g : Nat) (rest : Option Nat) : State :=
  let s := s.put (Reg.RM_ARR.SHARED g) 0
  (List.range 16).foldl (fun (t : State) cx =>
    let k := t.core g cx
    match rest with
    | none => t.setCore g cx { k with own := [] }
    | some c =>
      if Tab.get 0 k.own 0 = c + 1 then t.setCore g cx { k with own := [] }
      else t.setCore g cx { k with own := [], loaded := [],
                                   active := Tab.set 0 (Tab.set 0 k.active 0 c) 2 c }) s

/-- Bring the array's mode into line with the contexts bound: the sole context bound before, if any. -/
def State.noteBinding (s : State) (g : Nat) (alone : Option Nat) : State :=
  if s.isSplit g then s
  else if s.bothBound g then (if s.isShared g then s else s.beginShared g alone)
  else if s.isShared g then
    s.endShared g (if s.flag (Reg.CTX_CFG.BOUND g 0) then some 0
      else if s.flag (Reg.CTX_CFG.BOUND g 1) then some 1 else none)
  else s

/-- The sole bound context of a troupe. -/
def State.aloneIn (s : State) (g : Nat) : Option Nat :=
  match s.flag (Reg.CTX_CFG.BOUND g 0), s.flag (Reg.CTX_CFG.BOUND g 1) with
  | true, false => some 0
  | false, true => some 1
  | _, _ => none

/-- Clear the `LOADED` bits of some physical slots, and make bank 0 their live bank (R248, R255). -/
def State.clearSlots (s : State) (g : Nat) (slots : List Nat) : State :=
  let off (v : Nat) : Nat := slots.foldl (fun a n => setBit a n false) v
  let upd (s : State) (f : Fld) : State := s.put f (off (s.get f))
  upd (upd (upd s (Reg.RM_SFN.LIVE g)) (Reg.RM_SFN.LOADED0 g)) (Reg.RM_SFN.LOADED1 g)

/-- `FENCE` of a half of a core. -/
def fenceFld (g cx c : Nat) : Fld := if c = 0 then Reg.ARR_STATUS.FENCE0 g cx else Reg.ARR_STATUS.FENCE1 g cx

/-- End a context's fence in every core (R154). -/
def State.endFence (s : State) (g c : Nat) : State :=
  (List.range 16).foldl (fun (t : State) cx => t.put (fenceFld g cx c) 0) s

/-- Empty a context's inbound ring. -/
def State.emptyRing (s : State) (g c : Nat) : State := (s.setRing g c []).put (Reg.RM_PARADE.RING_OCC g c) 0

/-- Unbind a context (R592). An array that no context is bound to any more joins (DESIGN CHOICE, log 31). -/
def State.unbindCtx (s : State) (g c : Nat) : State :=
  let alone := s.aloneIn g
  let base := 0x1000000 + g * 0x200000 + c * 0x40000
  -- CTX_CFG to CTX_WAIT, the flags, the descriptor and nest tables
  let s := ((s.clearRegs base 0x30).clearRegs (base + 0x200) 0x200).clearRegs (base + 0x10000) 0x5000
  let s := s.clearRegs (0x1000000 + g * 0x200000 + 0x90000 + 8 * c) 8
  let s := ((s.emptyRing g c).setCtx g c {}).dropQueues g c
  let s := s.endFence g c
  let s := if s.isSplit g && !s.flag (Reg.CTX_CFG.BOUND g 0) && !s.flag (Reg.CTX_CFG.BOUND g 1) then s.doSplit g false else s
  let s := if c = 1 then s.clearSlots g [4, 5, 6, 7] else s
  s.noteBinding g alone

/-- Bind a context to a job. Its `SPLIT` shows the array as it stands (log 31). -/
def State.bindCtx (s : State) (g c j : Nat) : State :=
  let alone := s.aloneIn g
  let s := ((s.put (Reg.CTX_CFG.BOUND g c) 1).put (Reg.CTX_CFG.JOB g c) j).put (Reg.CTX_CFG.SPLIT g c) (s.get (Reg.RM_ARR.SPLIT g))
  let s := if c = 1 then s.clearSlots g [4, 5, 6, 7] else s
  s.noteBinding g alone

/-- The contexts of a mask. -/
def maskCtxs (m : Nat) : List (Nat × Nat) := ((List.range 48).filter (bit m)).map (fun i => (i / 2, i % 2))

/-- A binding is barred (R59, R224, R248, R531): the context belongs to another job, context 0's queued
operations may still use what context 1 would own, or the troupe failed its self-test. -/
def State.bindBarred (s : State) (j g c : Nat) : Bool :=
  match s.ctxJob g c with
  | some k => k ≠ j
  | none => s.barred.contains g ||
      (c = 1 && (match s.ctxJob g 0 with
        | some k => (s.jobState k = 2 || s.jobState k = 3) &&
            (s.flag (Reg.RM_PARADE.HIREG g 0) || s.flag (Reg.RM_SFN.HISLOT g))
        | none => false))

/-- The code of a `JOB_CTX_MASK` write; 0 where it is accepted (R58, R59). The commands of R58 need compute and are
rejected before `READY` (R465, log 54). -/
def State.maskCode (s : State) (j m : Nat) : Nat :=
  if !s.flag Reg.DEV_STATUS.READY then 0x04
  else if m = 0 then (if s.jobState j = 1 then 0 else 0x04)
  else if s.jobIdle j && (maskCtxs m).all (fun p => !s.bindBarred j p.1 p.2) then 0 else 0x04

/-- Replace a job's bound set (R58). -/
def State.setMask (s : State) (j m : Nat) : State :=
  let old := s.jobCtxs j
  let new := maskCtxs m
  let s := (old.filter (fun p => !new.contains p)).foldl (fun t p => t.unbindCtx p.1 p.2) s
  let s := (new.filter (fun p => !old.contains p)).foldl (fun t p => t.bindCtx p.1 p.2 j) s
  (s.put (Reg.JOB_CTX_MASK.MASK j) m).put (Reg.JOB_STATUS.STATE j) (if m = 0 then 0 else 1)

/-- The BAR0 offset of a register of a job's block. -/
def jobOff (j off : Nat) : Nat := 0x300000 + j * 0x10000 + off

/-- A write of `JOB_CTX_MASK`; bits [63:48] are reserved. -/
def State.writeMask (s : State) (j m : Nat) : State :=
  let code := s.maskCode j (m % 2 ^ 48)
  if code = 0 then s.setMask j (m % 2 ^ 48) else s.reject code (jobOff j 0x10) (some j)

/-- `JOB_CTX_MASK_BIND` (R58, R59). -/
def execJobCtxMaskBind (j mask : Nat) (s : State) : Ans :=
  inUnits (j < 8) (.next (s.barWrite (fun t => t.writeMask j mask)))

/-- `JOB_CTX_MASK_UNBIND` (R58). -/
def execJobCtxMaskUnbind (j : Nat) (s : State) : Ans :=
  inUnits (j < 8) (.next (s.barWrite (fun t => t.writeMask j 0)))

/-! ## START -/

/-- A page-table root lies in a DDR5 frame. -/
def rootOk (a : Nat) : Bool := a ≠ 0 && isDdr (dfnOf a)

/-- A context's carry link is good (R241). -/
def State.linkOk (s : State) (j g c : Nat) : Bool :=
  !s.flag (Reg.RM_PARADE.DN_EN g c) ||
    (let dn (g c : Nat) : Nat × Nat := (s.get (Reg.RM_PARADE.DN_TROUPE g c), s.get (Reg.RM_PARADE.DN_CTX g c))
     let d := dn g c
     (s.jobCtxs j).contains d && s.flag (Reg.RM_PARADE.UP_EN d.1 d.2) &&
       ((s.jobCtxs j).filter (fun p => s.flag (Reg.RM_PARADE.DN_EN p.1 p.2) && dn p.1 p.2 = d)).length = 1)

/-- The entries of a job's schedule table up to `LEN` have valid kinds (R352). -/
def State.tableOk (s : State) (j : Nat) : Bool :=
  (List.range (s.get (Reg.SCHED_CFG.LEN j))).all (fun i =>
    let k := entryKind (s.schedEntry j i)
    k = 1 || k = 2)

/-- Every program of a job that is present has no fault (R358). -/
def State.programsOk (s : State) (j : Nat) : Bool :=
  (List.range 8).all (fun p => let n := s.progNat j p
    updNops n = 0 || progOk n)

/-- The code of a START; 0 where it is accepted: field checks before state checks (R60). -/
def State.startCode (s : State) (j : Nat) : Nat :=
  let cs := s.jobCtxs j
  let r1 := s.root1 j
  let r2 := s.root2 j
  let m := s.get (Reg.CAL_CTX_MASK.MASK j)
  firstCode [
    (s.tableOk j && s.programsOk j, 0x06),
    (s.flag Reg.DEV_STATUS.READY && s.jobState j = 1, 0x04),
    (cs.all (fun p => s.get (Reg.CTX_CFG.CORE_EN p.1 p.2) ≠ 0), 0x04),
    (cs.all (fun p => !s.bothBound p.1 || Nat.land (s.accMask p.1 0) (s.accMask p.1 1) = 0), 0x04),
    (cs.all (fun p => s.linkOk j p.1 p.2), 0x04),
    (rootOk r1 && rootOk r2 && ddrChannel (dfnOf r1) ≠ ddrChannel (dfnOf r2), 0x04),
    (!s.hasBeat j || (m ≠ 0 && Nat.land m (s.get (Reg.JOB_CTX_MASK.MASK j)) = m), 0x04),
    (!s.flag (Reg.SN_CFG.DOUBLE j) || cs.all (fun p => popCount 32 (s.accMask p.1 p.2) % 2 = 0), 0x04)]

/-- Reset a context's Lane state in every core: `VL` 256, `CVALID` and `PERM_RANGE` clear, the row state
clear, and the registers' contents unspecified (R242, R262). -/
def State.resetLane (s : State) (g c : Nat) : State :=
  let vs := if s.ctx1Bound g then (List.range 16).map (· + 16 * c) else List.range 32
  let s := s.bumpFree
  (List.range 16).foldl (fun (t : State) cx =>
    let k := t.core g cx
    let t := t.setCore g cx { k with
      lane := vs.foldl (fun l v => Tab.clearRange l (256 * v) 256) k.lane
      laneFree := vs.foldl (fun l v => Tab.set 0 l v t.fresh) k.laneFree
      rowState := Tab.set {} (Tab.set {} k.rowState c {}) (c + 2) {}
      carry2 := Tab.clearRange k.carry2 (4 * c) 4 }
    if c = 0 then
      (((t.put (Reg.LANE_STATUS.VL0 g cx) 256).put (Reg.LANE_STATUS.CVALID0 g cx) 0).put
        (Reg.LANE_STATUS.PERM_RANGE0 g cx) 0)
    else
      (((t.put (Reg.LANE_STATUS.VL1 g cx) 256).put (Reg.LANE_STATUS.CVALID1 g cx) 0).put
        (Reg.LANE_STATUS.PERM_RANGE1 g cx) 0)) s

/-- What START and the end of a restore both reset of a context: its Lane state, `WVALID`, its fence, the
open soft maximum, and context 0's `HIREG` and `HISLOT` (R138, R154, R224, R242, R248, R263). -/
def State.freshCtx (s : State) (g c : Nat) : State :=
  let s := (s.resetLane g c).endFence g c
  let s := ((s.put (wvalidFld g c) 0).put (sfmOpenFld g c) 0).put (Reg.RM_PARADE.CVALID g c) 0
  if c = 0 then (s.put (Reg.RM_PARADE.HIREG g 0) 0).put (Reg.RM_SFN.HISLOT g) 0 else s

/-- The physical slots a context owns (R247). -/
def State.slotsOf (s : State) (g c : Nat) : List Nat :=
  if s.ctx1Bound g then (List.range 4).map (· + 4 * c) else List.range 8

/-- START, accepted: every bound context begins at its `CTX_PC` (R58), with what other rules reset. -/
def State.startJob (s : State) (j : Nat) : State :=
  let s := (s.jobCtxs j).foldl (fun (t : State) p =>
    let t := (t.freshCtx p.1 p.2).clearSlots p.1 (t.slotsOf p.1 p.2)
    let t := { t with pushSeq := Tab.set 0 t.pushSeq (2 * p.1 + p.2) 0 }
    (t.setCtx p.1 p.2 {}).put (Reg.CTX_STATUS.STATE p.1 p.2) 1) s
  let s := s.put (Reg.JOB_STATUS.STATE j) 2
  -- the Safety Net: both epochs 0, the whole image to copy (R397, R411)
  let s := (s.put (Reg.SN_EPOCH.CUR j) 0).put (Reg.SN_EPOCH.BASE j) 0
  let s := (s.put (Reg.SN_JOB_STATUS.INCOMPLETE j) 1).put (Reg.SN_JOB_STATUS.PHASE j) 5
  let s := s.setSn j { wholeCopy := true, drain := s.pagesWith j (fun p => p.prot && p.mv) }
  -- the schedule (R353, R355) and the first beat (R364)
  let s := (s.put (Reg.SCHED_STATUS.SEQ_NEW j) 0).loadPtr j 0
  if s.hasBeat j then
    let t := s.stamp 532
    let o := s.get (Reg.CAL_ORIGIN.T j)
    let num := s.get (Reg.CAL_PERIOD.NUM j)
    let n0 := if num = 0 then 0 else (t - o) * s.get (Reg.CAL_PERIOD.DEN j) / num
    let n := s.firstBeat j t 2 n0
    let a := s.gridAt j n
    let s := s.openBeat j n a
    s.setJobS j { s.jobS j with released := decide (a ≤ t) }
  else s

/-! ## HALT and RELEASE -/

/-- The job may be halted or released, and so on: the code of a job command (R58). -/
def State.jobCmdCode (s : State) (j cmd : Nat) : Nat :=
  match cmd with
  | 1 => s.startCode j
  | 2 => if s.jobState j = 2 ∨ s.jobState j = 3 then 0 else 0x04
  | 3 => if s.jobState j = 5 ∨ s.jobState j = 6 then 0 else 0x04
  | _ => 0x06

/-- HALT, accepted (R58, R73, R594). -/
def State.haltJob (s : State) (j : Nat) : State :=
  s.stopJob j { code := 0, island := 523, job := some j, unit := 6 }

/-- Every frame that a job owns becomes `DIRTY` (R332). -/
def State.freeFrames (s : State) (j : Nat) : State := { s with owner := s.owner.filter (fun e => e.2 ≠ j) }

/-- The doubling of a troupe's cores ends when no context of it is bound (log 32). -/
def State.endDoubling (s : State) (g : Nat) : State :=
  if s.flag (Reg.CTX_CFG.BOUND g 0) || s.flag (Reg.CTX_CFG.BOUND g 1) then s
  else
    let s := { s with doubler := Tab.clearRange s.doubler (16 * g) 16 }
    (s.put (Reg.SN_DOUBLE.DOUBLING g) 0).put (Reg.SN_DOUBLE.FAILED g) 0

/-- The Playbill's reset value of every job's `CAL_CFG.SHRINK` (R564). -/
def State.shrinkReset (s : State) : Nat :=
  if s.committed then bits (s.get (Reg.PB_MIRROR.W 16)) 48 8 else (Reg.CAL_CFG.SHRINK 0).rst

/-- RELEASE, accepted (R58, R592, R593). -/
def State.releaseJob (s : State) (j : Nat) : State :=
  let cs := s.jobCtxs j
  let s := cs.foldl (fun (t : State) p => t.clearSlots p.1 (t.slotsOf p.1 p.2)) s
  let s := cs.foldl (fun t p => t.unbindCtx p.1 p.2) s
  let s := cs.foldl (fun t p => t.endDoubling p.1) s
  -- the job's block, its Spotter and scales area, its Calliope area, its Safety Net area
  let s := ((((s.clearRegs (jobOff j 0) 0x10000).clearRegs (0x600000 + j * 0x20000) 0x20000).clearRegs
    (0x400000 + j * 0x20000) 0x20000).clearRegs (0x500000 + j * 0x10000) 0x10000)
  let s := s.put (Reg.CAL_CFG.SHRINK j) s.shrinkReset
  let s := { s with
    spotter := Tab.clearRange s.spotter (spotKey j 0 0 0) (64 * 110)
    cq := Tab.clearRange s.cq (jobQueue j 0) 32
    tlb := s.tlb.filter (fun e => e.1 / 2 ^ 31 % 8 ≠ j)
    coll := Tab.clearRange s.coll (64 * j) 64 }
  let s := ((s.setSn j {}).setJobS j {}).freeFrames j
  -- the job's trace queue, but for CQ_CFG and CQ_BASE (R387)
  let f := cqFlds (1 + j)
  let s := s.cqReset (1 + j)
  (((((s.put f.trunc 0).put f.drop 0).put f.evtCnt 0).put f.drops 0).put f.stall 0).put
    (Reg.TQ_STALL_CLK_SH.COUNT (1 + j)) 0

/-- Run a job command that its checks accept. -/
def State.runJobCmd (s : State) (j cmd : Nat) : State :=
  match cmd with
  | 1 => s.startJob j
  | 2 => s.haltJob j
  | _ => s.releaseJob j

/-- A write of `JOB_CTRL` (R58). -/
def State.writeJobCtrl (s : State) (j cmd : Nat) : State :=
  let code := s.jobCmdCode j cmd
  if code = 0 then s.runJobCmd j cmd else s.reject code (jobOff j 0) (some j)

/-- `START` (R58). -/
def execStart (j : Nat) (s : State) : Ans :=
  inUnits (j < 8) (.next (s.barWrite (fun t => t.writeJobCtrl j 1)))

/-- `HALT_COMMAND` (R58, R73). -/
def execHaltCommand (j : Nat) (s : State) : Ans :=
  inUnits (j < 8) (.next (s.barWrite (fun t => t.writeJobCtrl j 2)))

/-- `RELEASE` (R58, R593). -/
def execRelease (j : Nat) (s : State) : Ans :=
  inUnits (j < 8) (.next (s.barWrite (fun t => t.writeJobCtrl j 3)))

/-! ## Host adds to job flags (R71, R404) -/

/-- A job flag is declared for host adds. -/
def State.hostFlag (s : State) (j n : Nat) : Bool := bit (s.get (Reg.JOB_HOSTFLAGS.MASK j (n / 64))) (n % 64)

/-- A Curtain of the job holds host adds: from QUIESCING until it commits or is abandoned (R404, R405). -/
def State.holdsAdds (s : State) (j : Nat) : Bool :=
  let ph := s.get (Reg.SN_JOB_STATUS.PHASE j)
  2 ≤ ph && ph ≤ 4

/-- A host add to a declared flag: applied, or held by a Curtain with the ring command it stands for. -/
def State.hostAdd (s : State) (j idx n : Nat) (ring : Option Nat) : State :=
  let a : Nat × Nat × Nat := (idx, n, match ring with
    | some i => i + 1
    | none => 0)
  if s.holdsAdds j then
    let x := s.snOf j
    s.setSn j { x with heldAdds := x.heldAdds ++ [a] }
  else s.applyHeld j a

/-- The code of a host add (R71). -/
def State.flagAddCode (s : State) (j idx : Nat) : Nat := if s.hostFlag j idx then 0 else 0x04

/-- `JOB_FLAG_ADD` (R71). -/
def State.writeFlagAdd (s : State) (j idx n : Nat) : State :=
  if s.flagAddCode j idx = 0 then s.hostAdd j idx n none else s.reject 0x04 (jobOff j 0x40) (some j)

/-- `JOB_FLAG_ADD`: the register's fields are 8 and 16 bits wide. -/
def execJobFlagAdd (j idx add : Nat) (s : State) : Ans :=
  inUnits (j < 8) (.next (s.barWrite (fun t => t.writeFlagAdd j (idx % 256) (add % 65536))))

end Sys2Proof.Machine
end

