-- ==== Sys2Proof/Machine/ArrayEvents.lean ====
section
/-! DEFINITION. Events of the array: iterations beginning and retiring, weight loads, replays, the latch rewrite, shared
mode's copy, the Drumroll, fences and the narrow arrangement (R133 to R160, R171, R175). -/

namespace Sys2Proof.Machine

/-! ## Iterations and loads -/

/-- The half a context's operations use, for the Drumroll: 0 in an unsplit array (R158). -/
def State.drumHalf (s : State) (g c : Nat) : Nat := if s.isSplit g then c else 0

/-- `STATE` of a half of a core. -/
def drumState (g cx h : Nat) : Fld := if h = 0 then Reg.ARR_STATUS.STATE0 g cx else Reg.ARR_STATUS.STATE1 g cx

/-- `LEVEL` of a half of a core. -/
def drumLevel (g cx h : Nat) : Fld := if h = 0 then Reg.ARR_STATUS.LEVEL0 g cx else Reg.ARR_STATUS.LEVEL1 g cx

/-- A core's half is ON, so that rows enter (R149). -/
def State.drumOn (s : State) (x : At) : Bool :=
  s.get (drumState x.g (s.view x.g x.cx).cx (s.drumHalf x.g x.c)) = 2

/-- The array operation whose next iteration a core begins: the first it has begun that has iterations left. -/
def State.feedEntry (s : State) (x : At) : Option QEntry :=
  if (s.coresOf x.g x.c).contains x.cx then
    (s.queue x.g x.c 0).find? (fun q => q.begunIn x.cx && !q.retiredIn x.cx && (q.opc = 0x31 || q.opc = 0x32) &&
      decide (Tab.get 0 q.prog (32 + x.cx) < s.itersOf x.g x.c q))
  else none

/-- The loads of every `mwl` ahead of an operation are done in a core. -/
def State.mwlsDone (s : State) (x : At) (q : QEntry) : Bool :=
  ((s.queue x.g x.c 0).takeWhile (fun p => p.seq ≠ q.seq)).all (fun p => p.opc ≠ 0x30 || p.retiredIn x.cx ||
    Tab.get 0 p.prog (16 + x.cx) = s.itersOf x.g x.c p)

/-- Iteration i of an operation may begin on a core: its weights are loaded (R137), the array is ON if it has rows (R149), a
hold entry is free (R173), no latch rewrite is due (R144), no tile step waits for its replay (R171), and a selection's tiles
are quiet (R183). -/
def State.mayFeed (s : State) (x : At) (q : QEntry) (i : Nat) : Bool :=
  let cx := (s.view x.g x.cx).cx
  let rows := s.iterRows x q i
  (s.stepsOf x).all (fun st => !st.spilled) && decide ((s.core x.g cx).crossIt < 64) &&
    (if mWL q.word then decide (i < Tab.get 0 q.prog (16 + x.cx)) else i ≠ 0 || s.mwlsDone x q) &&
    (rows = 0 || (s.drumOn x && s.holdFree x)) &&
    (q.opc ≠ 0x32 || s.priorNamings x q i ≠ 0 || (s.get (Reg.ACC_TILE.INFLIGHT x.g cx (s.opTile x q i)) = 0 &&
      s.get (Reg.ACC_TILE.INFLIGHT x.g cx (s.opTile1 x q i)) = 0))

/-- Begin iterations of array operations on a core while they may begin: each as soon as its conditions hold (log 118). -/
def State.feedCore (s : State) (x : At) : Nat → State
  | 0 => s
  | n + 1 => match s.feedEntry x with
    | none => s
    | some q =>
      let i := Tab.get 0 q.prog (32 + x.cx)
      if s.mayFeed x q i then
        match s.beginIter x q i with
        | .ok t => State.feedCore (t.setEntry x.g x.c 0 (q.stepped x.cx)) x n
        | .error e => s.opErr x q e.1 e.2
      else s

/-- Begin what may begin in a troupe's arrays: operations, and their iterations. -/
def State.feed (s : State) (g : Nat) : State :=
  ([0, 1].foldl (fun (t : State) c => (t.coresOf g c).foldl (fun t cx => t.feedCore (t.at g c cx) 16) t) (s.pump g)).pump g

/-- What became of a tile step's rows: the step stays, or its error is raised. -/
def rowsEnded (x : At) (q : QEntry) (r : State × TileStep × RowsEnd) : State :=
  let t := r.1.setOldest x r.2.1
  match r.2.2 with
  | .err code payload => t.opErr x q code payload
  | .spill _ => t
  | .done => t

/-- The oldest tile step of a context on a core, with its operation. -/
def State.oldestStep (s : State) (x : At) : Option (TileStep × QEntry) :=
  match s.stepsOf x with
  | st :: _ => (s.entrySeq x.g x.c 0 st.seq).map (fun q => (st, q))
  | [] => none

/-- An iteration retires: its tile step ends and frees its hold entry. -/
def State.stepRetires (s : State) (x : At) (st : TileStep) (q : QEntry) : State :=
  ((s.popStep x st).setEntry x.g x.c 0 { q with prog := Tab.set 0 q.prog x.cx (Tab.get 0 q.prog x.cx + 1) }).feed x.g

/-- `ITERATION_RETIRE` (R133): the rows of the oldest tile step are written, and it retires unless one overflows. -/
def State.iterRetire (s : State) (x : At) : State :=
  let s := s.feed x.g
  match s.oldestStep x with
  | none => s
  | some (st, q) =>
    if st.spilled || !(st.p.m = 0 || s.drumOn x) then s
    else
      let r := s.writeStep x q st
      match r.2.2 with
      | .done => r.1.stepRetires x r.2.1 q
      | _ => rowsEnded x q r

/-- `ITERATION_RETIRE`. -/
def execIterationRetire (g c cx : Nat) (s : State) : Ans :=
  inUnits (g < 24 && c < 2 && cx < 16) (.next (s.iterRetire (s.at g c cx)))

/-- The next load of a context on a core that may have begun (R137, R139): its operation, the operand's field and the
iteration. The load of an iteration begins once the iteration before it has. -/
def State.nextLoad (s : State) (x : At) : Option (QEntry × Nat × Nat) :=
  match (s.queue x.g x.c 0).find? (fun q => q.begunIn x.cx && !q.retiredIn x.cx &&
      (q.opc = 0x30 || ((q.opc = 0x31 || q.opc = 0x32) && mWL q.word)) &&
      decide (Tab.get 0 q.prog (16 + x.cx) < s.itersOf x.g x.c q)) with
  | some q =>
    let n := Tab.get 0 q.prog (16 + x.cx)
    if q.opc = 0x30 then some (q, 0, n) else if n ≤ Tab.get 0 q.prog (32 + x.cx) then some (q, 1, n) else none
  | none => none

/-- The oldest tile step with its rows written up to an overflow, if it meets one. -/
def State.spillOf (s : State) (x : At) (st : TileStep) (q : QEntry) : State × TileStep × RowsEnd :=
  if st.spilled then (s, st, .spill 0)
  else if st.p.m = 0 || s.drumOn x then s.writeStep x q st
  else (s, st, .done)

/-- `ACC_OVERFLOW_REPLAY` (R171 to R174): the oldest tile step meets its overflow, if it has not, and is replayed. -/
def State.overflowReplay (s : State) (x : At) : State :=
  let s := s.feed x.g
  match s.oldestStep x with
  | none => s
  | some (st, q) =>
    let w := s.spillOf x st q
    match w.2.2 with
    | .done => s
    | .err _ _ => rowsEnded x q w
    | .spill _ => rowsEnded x q (w.1.replayStep x q w.2.1 (s.nextLoad x).isSome)

/-- `ACC_OVERFLOW_REPLAY`. -/
def execAccOverflowReplay (g c cx : Nat) (s : State) : Ans :=
  inUnits (g < 24 && c < 2 && cx < 16) (.next (s.overflowReplay (s.at g c cx)))

/-- `WEIGHT_LOAD_DONE` (R136, R137): a load writes its bank. -/
def State.loadDone (s : State) (x : At) : State :=
  let s := s.feed x.g
  match s.nextLoad x with
  | none => s
  | some (q, k, n) => match s.loadIter x q k n with
    | .error e => s.opErr x q e.1 e.2
    | .ok t => (t.setEntry x.g x.c 0 { q with prog := Tab.set 0 q.prog (16 + x.cx) (n + 1) }).feed x.g

/-- `WEIGHT_LOAD_DONE`. -/
def execWeightLoadDone (g c cx : Nat) (s : State) : Ans :=
  inUnits (g < 24 && c < 2 && cx < 16) (.next (s.loadDone (s.at g c cx)))

/-- `LATCH_REWRITE`: after every 64th iteration in cross mode (R144). -/
def execLatchRewrite (g cx : Nat) (s : State) : Ans :=
  inUnits (g < 24 && cx < 16) (.next (
    let k := s.core g cx
    if k.crossIt < 64 then s
    else ((s.setCore g cx { k with crossIt := k.crossIt - 64 }).inc (Reg.ARR_XREF.N g cx) 1).feed g))

/-- The tile loaded last into a half's pair of banks. -/
def lastLoaded (k : CoreS) (h : Nat) : WTile :=
  let a := Tab.get 0 k.active h
  Tab.get {} k.weights (2 * h + (if Tab.get 0 k.loaded h = 0 then a else 1 - a))

/-- Copy a context's last tile into its own bank, for each logical core a core holds (R139). -/
def copyOwn (k : CoreS) (c : Nat) : CoreS :=
  let t0 := lastLoaded k 0
  let t1 := lastLoaded k 2
  { k with weights := Tab.set {} (Tab.set {} k.weights c t0) (4 + c) t1, own := [] }

/-- `SHARED_MODE_COPY` (R139). -/
def execSharedModeCopy (g cx : Nat) (s : State) : Ans :=
  inUnits (g < 24 && cx < 16) (.next (
    let k := s.core g cx
    let o := Tab.get 0 k.own 0
    if o = 0 || s.engineBusy g 0 0 cx || s.engineBusy g 1 0 cx then s
    else (s.setCore g cx (copyOwn k (o - 1))).feed g))

/-! ## The Drumroll (R148 to R151) -/

/-- The context whose operation asks a half of a troupe's arrays to rise: an `mma` or `mmx` that has begun. -/
def State.riseFor (s : State) (g h : Nat) : Option (Nat × QEntry) :=
  (if s.isSplit g then [h] else [0, 1]).findSome? (fun c =>
    ((s.queue g c 0).find? (fun q => q.begun ≠ 0 && (q.opc = 0x31 || q.opc = 0x32))).map (fun q => (c, q)))

/-- The stamp lies in a start slot of troupe g (R150). -/
def inSlot (g now : Nat) : Bool := now % 288 / 12 = g

/-- A request for RISE waited for its slot: it was made outside it (R150, R160). -/
def slotWaited (g since now : Nat) : Bool := !inSlot g since || 12 ≤ now - since

/-- One core's half begins RISE from OFF or FALL: one level more at once (R148, R149). -/
def State.beginRise (s : State) (g cx h : Nat) : State :=
  let st := s.get (drumState g cx h)
  if st = 0 || st = 3 then
    ((s.put (drumState g cx h) 1).put (drumLevel g cx h) (min 8 (s.get (drumLevel g cx h) + 1))).inc
      (Reg.ARR_RISES.N g cx) 1
  else s

/-- `DRUMROLL_RISE` (R149, R150): RISE begins in a start slot of the troupe, in all its enabled cores together. -/
def State.drumRise (s : State) (g h : Nat) : State :=
  match s.riseFor g h with
  | none => s
  | some (c, q) =>
    let cs := (s.coresOf g c).map (fun cx => (s.view g cx).cx)
    let down (cx : Nat) : Bool := s.get (drumState g cx h) = 0 || s.get (drumState g cx h) = 3
    if cs.any down && inSlot g (s.stamp (rmIsland g)) then
      let s := if slotWaited g (q.since.getD 0) (s.stamp (rmIsland g)) then
        s.incSat (Reg.RM_ARR.SLOT_WAITS g) 1 else s
      cs.foldl (fun t cx => t.beginRise g cx h) s
    else s

/-- `DRUMROLL_RISE`. -/
def execDrumrollRise (g h : Nat) (s : State) : Ans :=
  inUnits (g < 24 && h < 2) (.next (if h = 1 && !s.isSplit g then s else s.drumRise g h))

/-- One level up in RISE, ON after level 8; one level down in FALL, OFF at level 0 (R148, R149, R151). -/
def State.drumStep (s : State) (g cx h : Nat) : State :=
  let l := s.get (drumLevel g cx h)
  match s.get (drumState g cx h) with
  | 1 =>
    if l < 8 then s.put (drumLevel g cx h) (l + 1)
    else (s.put (drumState g cx h) 2).setCore g cx { s.core g cx with linger := s.get (Reg.ARR_CFG.LINGER g cx) }
  | 3 =>
    let s := s.put (drumLevel g cx h) (l - 1)
    if l ≤ 1 then s.put (drumState g cx h) 0 else s
  | _ => s

/-- `DRUMROLL_LEVEL_STEP`. -/
def execDrumrollLevelStep (g cx h : Nat) (s : State) : Ans :=
  inUnits (g < 24 && cx < 16 && h < 2) (.next ((s.drumStep g cx h).feed g))

/-- `DRUMROLL_FALL` (R151). -/
def execDrumrollFall (g cx h : Nat) (s : State) : Ans :=
  inUnits (g < 24 && cx < 16 && h < 2) (.next (
    if s.get (drumState g cx h) = 2 then s.put (drumState g cx h) 3 else s))

/-! ## Fences and the narrow arrangement (R153 to R157) -/

/-- Fence a half of every enabled core: the event, `WVALID` clear, replays abandoned and the context's tiles
unspecified (R153, R154, R175). -/
def State.fence (s : State) (g h : Nat) : State :=
  let m := s.accMask g h
  let s := s.clearInflight g h
  let s := (s.coresOf g h).foldl (fun (t : State) i =>
    let cx := (t.view g i).cx
    let t := (t.put (fenceFld g cx h) 1).put (Reg.ARR_STATUS.FENCE_EVT g cx) 1
    ((List.range 32).filter (bit m)).foldl (fun t k => t.accUnspec g cx k) t) s
  s.put (wvalidFld g h) 0

/-- `HALF_FENCE` (R153): where the job of the half's context stops or restores, or on a parity fault in the
half, which is charged to that context's job (from its lowest enabled core, log 34). -/
def State.halfFence (s : State) (g h : Nat) (parity : Bool) : State :=
  let st := match s.ctxJob g h with
    | some j => s.jobState j
    | none => 0
  if !s.isSplit g then s
  else if parity then
    let pc := (((s.queue g h 0).find? (fun q => q.begun ≠ 0)).map (·.pc)).getD 0
    (s.fence g h).coreErr g h ((s.coresOf g h).headD 0) 0 0x13 pc 0
  else if st = 3 || st = 4 then s.fence g h
  else s

/-- `HALF_FENCE`. -/
def execHalfFence (g h : Nat) (parity : Bool) (s : State) : Ans :=
  inUnits (g < 24 && h < 2) (.next (s.halfFence g h parity))

/-- The BAR0 offset of a register of a core's window. -/
def coreOff (g cx off : Nat) : Nat := 0x1100000 + g * 0x200000 + cx * 0x10000 + off

/-- A context is unbound or QUIESCED. -/
def State.ctxAside (s : State) (g c : Nat) : Bool :=
  !s.flag (Reg.CTX_CFG.BOUND g c) || s.get (Reg.CTX_STATUS.STATE g c) = 6

/-- The code of a write of `ARR_CFG` (R156, R157). -/
def State.arrCfgCode (s : State) (g cx val : Nat) : Nat :=
  firstCode [
    (64 ≤ bits val 0 16 && bits val 0 16 ≤ 4096, 0x06),
    (bits val 16 1 = s.get (Reg.ARR_CFG.NARROW g cx) ||
      (s.get (drumState g cx 0) = 0 && s.get (drumState g cx 1) = 0 && s.ctxAside g 0 && s.ctxAside g 1), 0x04)]

/-- A write of `ARR_CFG`. -/
def State.writeArrCfg (s : State) (g cx val : Nat) : State :=
  let code := s.arrCfgCode g cx val
  if code ≠ 0 then s.reject code (coreOff g cx 0x200) none
  else
    ((s.put (Reg.ARR_CFG.LINGER g cx) (bits val 0 16)).put (Reg.ARR_CFG.NARROW g cx) (bits val 16 1)).put
      (Reg.ARR_STATUS.NARROW g cx) (bits val 16 1)

/-- `ARR_CFG_NARROW`. -/
def execArrCfgNarrow (g cx val : Nat) (s : State) : Ans :=
  inUnits (g < 24 && cx < 16) (.next (s.barWrite (fun t =>
    t.atIsland (coreOff g cx 0x200) val (fun u => u.writeArrCfg g cx val))))

end Sys2Proof.Machine
end

