-- ==== Sys2Proof/Machine/EngineEvents.lean ====
section
/-! DEFINITION. Events of the engine queues and of jobs: a wait served or expired, an operation retired, a
signal made visible, the wait monitor, the end of a stop, a drained context (R62, R68 to R73, R76, R86). -/

namespace Sys2Proof.Machine

/-- The wait of a queue is the one that its flag serves next (R70). -/
def State.servesNext (s : State) (g c e f : Nat) : Bool :=
  match firstWaiter (s.waiters g c f) (s.flagGet g c f) with
  | some w => w.g = g && w.c = c && w.place = e + 1
  | none => false

/-- `ENGINE_WAIT_SATISFIED` (R68, R70). -/
def State.waitDone (s : State) (g c e : Nat) : State :=
  match s.frontier g c e, s.engineWait g c e with
  | some q, some (f, _) =>
    if s.servesNext g c e f then
      let s := s.flagPut g c f (s.flagGet g c f - 1)
      let s := s.setEntry g c e { q with waited := true }
      (s.pump g).serveFlag g c f 48
    else s
  | _, _ => s

/-- `ENGINE_WAIT_SATISFIED`. -/
def execEngineWaitSatisfied (g c e : Nat) (s : State) : Ans :=
  inUnits (g < 24 && c < 2 && e < 4) (.next (s.waitDone g c e))

/-- The operation of a queue that waits under `CTX_CFG.WAIT_TMO`: on its flag, or an `asplit` at the head for both arrays
to be idle (R69, R115). -/
def State.bounded (s : State) (g c e : Nat) : Option QEntry :=
  match s.frontier g c e with
  | some q => if (s.engineWait g c e).isSome || (q.opc = 0x36 && q.since.isSome && !q.noop) then some q else none
  | none => none

/-- `ENGINE_WAIT_TIMEOUT` (R69, R115). -/
def execEngineWaitTimeout (g c e : Nat) (s : State) : Ans :=
  inUnits (g < 24 && c < 2 && e < 4) (.next (match s.bounded g c e with
    | some q => if s.get (Reg.CTX_CFG.WAIT_TMO g c) ≠ 0 then s.ctxErr g c 0x02 q.pc 0 else s
    | none => s))

/-- The timeout of what a context is blocked in; 0 for none (R69, R103). -/
def blockTmo : Option (Block × Nat) → Nat
  | some (.fwait _ _ t, _) => t
  | some (.sched _ _ t, _) => t
  | _ => 0

/-- `FWAIT_TIMEOUT` (R69); the expiry of a `sched`'s `TMO` too (R103, log 33). -/
def execFwaitTimeout (g c : Nat) (s : State) : Ans :=
  inUnits (g < 24 && c < 2) (.next (
    if blockTmo (s.ctxOf g c).block = 0 then s else s.ctxErr g c 0x02 (s.pc g c) 0))

/-- Iterations of a Stream operation that have no chunk run at their turn without one (R216). -/
def State.sxSkip (s : State) (g c cx : Nat) : Nat → State × ServeEnd
  | 0 => (s, .waits)
  | n + 1 => match s.begunOf g c 1 cx sxOpcs with
    | none => (s, .done)
    | some q =>
      let x := s.at g c cx
      let i := Tab.get 0 q.prog (32 + cx)
      if s.itersOf g c q ≤ i || s.sxChunks x q i ≠ 0 || s.midIter g c (s.view g cx).cx || s.midIter g (1 - c) (s.view g cx).cx then
        (s, .done)
      else
        let r := s.runNext g c 1 cx q
        match r.2 with
        | .ran => State.sxSkip r.1 g c cx n
        | .waits => (r.1, .waits)
        | .err k v => (r.1, .err c cx q k v)

/-- What an engine of a core has left of a context's oldest operation is run, as far as no event of its own does (R62). -/
def State.runOut (s : State) (g c e cx : Nat) (q : QEntry) : State × ServeEnd :=
  if runsAtEnd q && engineOf q.opc ≠ 3 then s.serve g c e cx
  else if sxOpcs.contains q.opc then s.sxSkip g c cx (s.itersOf g c q)
  else (s, .done)

/-- A core's oldest operation of a context retires there if everything of it is done. -/
def State.endOldest (s : State) (g c e cx : Nat) : State :=
  match s.oldestIn g c e cx with
  | some q => if q.begunIn cx && s.coreDone g c q cx then (s.retireCore g c e cx q).feed g else s
  | none => s

/-- `ENGINE_OP_RETIRE` (R62, R63, R68). -/
def State.opRetire (s : State) (g c e cx : Nat) : State :=
  match s.oldestIn g c e cx with
  | some q =>
    if q.begunIn cx then
      let r := s.runOut g c e cx q
      match r.2 with
      | .err c' cx' q' k v => r.1.raiseEnd g c' cx' q' k v
      | _ => r.1.endOldest g c e cx
    else s
  | none => s

/-- `ENGINE_OP_RETIRE`. -/
def execEngineOpRetire (g c e cx : Nat) (s : State) : Ans :=
  inUnits (g < 24 && c < 2 && e < 4 && cx < 16) (.next (s.opRetire g c e cx))

/-- `FLAG_SIGNAL_VISIBLE`: the waits of Ringmasters on a job flag are tested (R70). -/
def execFlagSignalVisible (j f : Nat) (s : State) : Ans :=
  inUnits (j < 8 && f < 256) (.next (match s.jobCtxs j with
    | p :: _ => s.serveFlag p.1 p.2 (f + 64) 48
    | [] => s))

/-! ## The wait monitor (R72) -/

/-- A blocked wait of R72: troupe, context, waiter, whether it is a `qwait`, its flag or engine, and the
stamp at which it began. -/
structure BlockedWait where
  g : Nat
  c : Nat
  waiter : Nat
  qw : Bool
  what : Nat
  since : Nat
  deriving DecidableEq, Repr

/-- The blocked waits of a context. -/
def State.blockedWaits (s : State) (g c : Nat) : List BlockedWait :=
  (match (s.ctxOf g c).block with
    | some (.fwait f _ _, t) => [⟨g, c, 0, false, f, t⟩]
    | some (.qwait e _, t) => [⟨g, c, 0, true, e, t⟩]
    | _ => []) ++
  (List.range 4).filterMap (fun e => (s.engineWait g c e).map (fun f => ⟨g, c, e + 1, false, f.1, f.2⟩))

/-- The payload of a blocked wait's record. -/
def BlockedWait.payload (b : BlockedWait) : Nat :=
  ofBool b.qw * 2 ^ 61 + b.c * 2 ^ 60 + b.waiter * 2 ^ 57 + b.what * 2 ^ 48 + b.since % 2 ^ 48

/-- A context takes part in a wait cycle: it is not DONE, and blocked in `fwait` or `qwait`, or halted with
entries queued. -/
def State.ctxStuck (s : State) (g c : Nat) : Bool :=
  let st := s.get (Reg.CTX_STATUS.STATE g c)
  st = 4 || (st = 3 && !s.ctxDrained g c) || (st = 2 && (match (s.ctxOf g c).block with
    | some (.fwait _ _ _, _) => true
    | some (.qwait _ _, _) => true
    | _ => false))

/-- No operation of a context executes, and every engine queue of it that is not empty has its head waiting on a flag. -/
def State.headsWait (s : State) (g c : Nat) : Bool :=
  (List.range 4).all (fun e => match s.queue g c e with
    | q :: _ => q.begun = 0 && (s.engineWait g c e).isSome
    | [] => true)

/-- A wait is of an excluded kind: on a flag that the host may add to, or on a Guyline barrier. -/
def State.waitExcluded (s : State) (j : Nat) (b : BlockedWait) : Bool :=
  !b.qw && 64 ≤ b.what && (s.hostFlag j (b.what - 64) || s.isBarrier j b.what)

/-- The wait of a context or queue head that its flag's count would satisfy is no cycle. -/
def State.waitReady (s : State) (b : BlockedWait) : Bool :=
  !b.qw && (match firstWaiter (s.waiters b.g b.c b.what) (s.flagGet b.g b.c b.what) with
    | some _ => true
    | none => false)

/-- A collective of the job runs, which counts as an executing operation (R456). -/
def State.collRunning (s : State) (j : Nat) : Bool := (Tab.slice s.coll (64 * j) 64).any (fun e => e.2.running)

/-- The conditions of R72 but for their duration. -/
def State.isCycle (s : State) (j : Nat) : Bool :=
  let cs := s.jobCtxs j
  let ws := cs.flatMap (fun p => s.blockedWaits p.1 p.2)
  s.jobState j = 2 && !ws.isEmpty && cs.all (fun p => s.ctxStuck p.1 p.2 && s.headsWait p.1 p.2) &&
    !s.collRunning j && ws.all (fun b => !s.waitExcluded j b && !s.waitReady b)

/-- `WAIT_CYCLE`: one record for each blocked wait, the count, and the stop (R72, R86, R594). -/
def State.raiseCycle (s : State) (j : Nat) : State :=
  let ws := (s.jobCtxs j).flatMap (fun p => s.blockedWaits p.1 p.2)
  let s := ws.foldl (fun (t : State) b => t.trace (rmIsland b.g) 0x0003 (some j) b.payload) s
  let s := s.raiseErr { code := 0x03, island := 522, job := some j, unit := 5, traced := false }
  s.put (Reg.JOB_HALT_INFO.WAITS j) (min ws.length 255)

/-- `WAIT_CYCLE`. -/
def execWaitCycle (j : Nat) (s : State) : Ans :=
  inUnits (j < 8) (.next (if s.isCycle j then s.raiseCycle j else s))

/-! ## The end of a stop, and a drained context -/

/-- `JOB_STOP_IDLE` (R73): the stop has discarded and ended every operation of the job. -/
def execJobStopIdle (j : Nat) (s : State) : Ans :=
  inUnits (j < 8) (.next (if s.jobState j = 4 then s.put (Reg.JOB_STATUS.STATE j) 5 else s))

/-- A context becomes DONE, and its job too once every context of it is (R76). -/
def State.ctxDone (s : State) (g c : Nat) : State :=
  let s := s.put (Reg.CTX_STATUS.STATE g c) 4
  let j := s.jobOf g c
  if (s.jobCtxs j).all (fun p => s.get (Reg.CTX_STATUS.STATE p.1 p.2) = 4) then
    ((s.put (Reg.JOB_STATUS.STATE j) 6).put (Reg.CAL_STATUS.ACTIVE j) 0).setEvent (Reg.JOB_STATUS.DONE_EVT j) j
  else s

/-- `CONTEXT_DRAIN_DONE` (R76). -/
def execContextDrainDone (g c : Nat) (s : State) : Ans :=
  inUnits (g < 24 && c < 2) (.next (
    if s.get (Reg.CTX_STATUS.STATE g c) = 3 && s.ctxDrained g c then s.ctxDone g c else s))

end Sys2Proof.Machine
end

