-- ==== Sys2Proof/Machine/VectorEvents.lean ====
section
/-! DEFINITION. Events of the Stream, Lane and DMA engines: a chunk advances, a carry passes along the
Parade or through a ring, a table image arrives, a transfer completes (R216, R234 to R240, R254, R269, R316,
R320). -/

namespace Sys2Proof.Machine

/-! ## Stream chunks -/

/-- The Stream operation whose next chunk may advance in a core: the oldest begun there that has chunks left. -/
def State.sxEntry (s : State) (x : At) : Option QEntry :=
  if (s.coresOf x.g x.c).contains x.cx then
    (s.queue x.g x.c 1).find? (fun q => q.begunIn x.cx && !q.retiredIn x.cx && sxOpcs.contains q.opc &&
      decide (Tab.get 0 q.prog x.cx < (List.range (s.itersOf x.g x.c q)).foldl (fun a i => a + s.sxChunks x q i) 0))
  else none

/-- The other context's Stream or update operation could run its next iteration in the core (R52). -/
def State.streamRival (s : State) (g c p : Nat) : Bool :=
  (s.rival g c 1 p).isSome || (s.coresOf g (1 - c)).any (fun i => (s.view g i).cx = p &&
    (match s.sxEntry (s.at g (1 - c) i) with
      | some q => !s.iterHeld (s.at g (1 - c) i) q (Tab.get 0 q.prog (32 + i))
      | none => false))

/-- The next iteration of a Stream operation begins in a core, at an iteration boundary and in its turn (R51, R52, R173). -/
def State.sxBegin (s : State) (x : At) (q : QEntry) : State × IterEnd :=
  let p := (s.view x.g x.cx).cx
  if s.midIter x.g (1 - x.c) p then (s, .waits)
  else
    let both := s.streamRival x.g x.c p
    if both && s.turnOf x.g p 1 ≠ x.c then (s, .waits)
    else (s.noteTurn x.g p 1 x.c both).runNext x.g x.c 1 x.cx q

/-- A chunk has advanced, with the clk that it waited for lines and behind writes. -/
def State.countChunk (s : State) (x : At) (q : QEntry) (stall raw : Nat) : State :=
  let s := s.setEntry x.g x.c 1 { q with prog := Tab.set 0 q.prog x.cx (Tab.get 0 q.prog x.cx + 1) }
  ((s.coreInc x Reg.SX_CHUNKS.N 1).coreInc x Reg.SX_STALL.N stall).coreInc x Reg.SX_RAW.N raw

/-- `STREAM_CHUNK_ADVANCE` (R216): an iteration's data move when its first chunk advances (log 118). -/
def State.chunkAdvance (s : State) (x : At) (stall raw : Nat) : State :=
  match s.sxEntry x with
  | none => s
  | some q =>
    if s.midIter x.g x.c (s.view x.g x.cx).cx then s.countChunk x q stall raw
    else
      let k := s.sxSkip x.g x.c x.cx (s.itersOf x.g x.c q)
      match k.2 with
      | .err c cx q k' v => k.1.raiseEnd x.g c cx q k' v
      | _ => match k.1.sxEntry x with
        | none => k.1
        | some q =>
          let r := k.1.sxBegin x q
          match r.2 with
          | .waits => r.1
          | .err k' v => r.1.raiseEnd x.g x.c x.cx q k' v
          | .ran => match r.1.sxEntry x with
            | some q => (r.1.countChunk x q stall raw).pump x.g
            | none => r.1

/-- `STREAM_CHUNK_ADVANCE`. -/
def execStreamChunkAdvance (g c cx stall raw : Nat) (s : State) : Ans :=
  inUnits (g < 24 && c < 2 && cx < 16) (.next (s.chunkAdvance (s.at g c cx) stall raw))

/-! ## The Parade -/

/-- Everything of a Parade operation is done: its rounds, and the push of the last (R236, R237). -/
def State.paradeOver (s : State) (g c : Nat) (q : QEntry) : Bool :=
  q.hop = s.itersOf g c q * (s.coresOf g c).length && (!s.flag (Reg.RM_PARADE.DN_EN g c) || q.pushed)

/-- The Parade operation of a context that is under way. -/
def State.paradeHead (s : State) (g c : Nat) : Option QEntry :=
  (s.queue g c 2).find? (fun q => q.begun ≠ 0 && isParade q && !s.paradeOver g c q)

/-- The operation takes a carry record in its first core: `lscan` with `CARRY` 3, `lstat` with `POP`. -/
def takesRecord (q : QEntry) : Bool := (q.opc = 0x5A && scanCarry q.word = 3) || (q.opc = 0x5B && statPop q.word)

/-- The troupe carry-out of the last round waits for its push (R237, R239). -/
def State.pushDue (s : State) (g c : Nat) (q : QEntry) : Bool :=
  let n := (s.coresOf g c).length
  0 < q.hop && q.hop % n = 0 && s.flag (Reg.RM_PARADE.DN_EN g c) && !q.pushed

/-- The next round's first core waits for a record (R239). -/
def State.popDue (s : State) (g c : Nat) (q : QEntry) : Bool :=
  let n := (s.coresOf g c).length
  takesRecord q && q.hop % n = 0 && q.hop < (s.qNest g c q).total * n && !q.popped && !s.pushDue g c q

/-- One core of an `lscan` round: its carry-in, the scan, and the carry-out (R234). -/
def State.hopScan (s : State) (x : At) (q : QEntry) (first : Bool) : State × List Nat :=
  let cin := if first && scanCarry q.word = 2 then s.carryIn x else some (fp32.decode (q.carry.getD 0 0))
  let r := s.scanCore x q cin
  (r.1, [r.2])

/-- One core of an `lstat` round: its own triple, merged after the one before it (R269). -/
def State.hopStat (s : State) (x : At) (q : QEntry) (first : Bool) : State × List Nat :=
  let r := s.laneTriple x q
  if first && !statPop q.word then (r.1, r.2.bits)
  else
    let m := (tripleOf q.carry).merge { r.2 with clamps := 0 }
    ((r.1.coreInc x Reg.STAT_MERGES.N 1).coreInc x Reg.STAT_CLAMP.N m.clamps, m.bits)

/-- The end of a round: the troupe carry-out in every enabled core (R237, R269). -/
def State.roundEnd (s : State) (g c : Nat) (q : QEntry) (carry : List Nat) : State :=
  (s.coresOf g c).foldl (fun (t : State) cx =>
    let x := t.at g c cx
    if q.opc = 0x5A then t.setCarryReg x true (scanKind q.word) (carry.getD 0 0) else t.putTriple x q carry) s

/-- `PARADE_HOP` (R236 to R238, R269). -/
def State.paradeHop (s : State) (g c : Nat) : State :=
  match s.paradeHead g c with
  | none => s
  | some q =>
    let cs := s.coresOf g c
    let n := cs.length
    let k := q.hop % n
    if s.itersOf g c q * n ≤ q.hop || s.pushDue g c q || s.popDue g c q || !q.begunIn (cs.getD k 0) then s
    else
      let x := s.at g c (cs.getD k 0)
      let r := if q.opc = 0x5A then s.hopScan x q (k = 0) else s.hopStat x q (k = 0)
      let q := { q with hop := q.hop + 1, carry := r.2, popped := false, pushed := false }
      let s := r.1.setEntry g c 2 q
      (if k + 1 = n then s.roundEnd g c q r.2 else s).pump g

/-- `PARADE_HOP`. -/
def execParadeHop (g c : Nat) (s : State) : Ans := inUnits (g < 24 && c < 2) (.next (s.paradeHop g c))

/-- The downstream context of a context. -/
def State.downOf (s : State) (g c : Nat) : Nat × Nat :=
  (s.get (Reg.RM_PARADE.DN_TROUPE g c), s.get (Reg.RM_PARADE.DN_CTX g c))

/-- The record that a finished round pushes (R240). -/
def State.carryRecord (s : State) (g c : Nat) (q : QEntry) : CarryRec :=
  { v0 := q.carry.getD 0 0, v1 := q.carry.getD 1 0, v2 := q.carry.getD 2 0
    kind := if q.opc = 0x5A then scanKind q.word else 4
    src := g, seq := Tab.get 0 s.pushSeq (2 * g + c) }

/-- `CARRY_RECORD_PUSH` (R237, R239, R240). -/
def State.carryPush (s : State) (g c : Nat) : State :=
  match s.paradeHead g c with
  | none => s
  | some q =>
    let d := s.downOf g c
    let ring := s.ring d.1 d.2
    if s.pushDue g c q && ring.length < 4 then
      let r := s.carryRecord g c q
      let s := (s.setRing d.1 d.2 (ring ++ [r])).put (Reg.RM_PARADE.RING_OCC d.1 d.2) (ring.length + 1)
      let s := { s with pushSeq := Tab.set 0 s.pushSeq (2 * g + c) ((r.seq + 1) % 2 ^ 16) }
      let s := s.setEntry g c 2 { q with pushed := true }
      let f := s.get (Reg.RM_PARADE.UP_FLAG d.1 d.2)
      if f = 0 then s else s.addJobFlag (s.jobOf g c) (f - 64) 1 3 (rmIsland g)
    else s

/-- `CARRY_RECORD_PUSH`. -/
def execCarryRecordPush (g c : Nat) (s : State) : Ans := inUnits (g < 24 && c < 2) (.next (s.carryPush g c))

/-- The `KIND` a record must have for an operation (R235, R269). -/
def wantedKind (q : QEntry) : Nat := if q.opc = 0x5A then scanKind q.word else 4

/-- `CARRY_RECORD_POP` (R235, R239, R269). -/
def State.carryPop (s : State) (g c : Nat) : State :=
  match s.paradeHead g c, s.ring g c with
  | some q, r :: rest =>
    if s.popDue g c q then
      let x := s.at g c ((s.coresOf g c).headD 0)
      let s := (s.setRing g c rest).put (Reg.RM_PARADE.RING_OCC g c) rest.length
      if r.kind ≠ wantedKind q then s.coreErr g c x.cx 2 0x04 q.pc 0
      else s.setEntry g c 2 { q with popped := true, carry := [r.v0, r.v1, r.v2] }
    else s
  | _, _ => s

/-- `CARRY_RECORD_POP`. -/
def execCarryRecordPop (g c : Nat) (s : State) : Ans := inUnits (g < 24 && c < 2) (.next (s.carryPop g c))

/-- The core that waits at a ring: the last for a push to a full ring, the first for a pop from an empty
one (R239). -/
def State.ringWait (s : State) (g c : Nat) (q : QEntry) : Option Nat :=
  let d := s.downOf g c
  if s.pushDue g c q then (if 4 ≤ (s.ring d.1 d.2).length then (s.coresOf g c).getLast? else none)
  else if s.popDue g c q && (s.ring g c).isEmpty then (s.coresOf g c).head? else none

/-- `CARRY_RING_TIMEOUT` (R239). -/
def execCarryRingTimeout (g c : Nat) (s : State) : Ans :=
  inUnits (g < 24 && c < 2) (.next (match s.paradeHead g c with
    | some q => match s.ringWait g c q with
      | some cx => if s.get (Reg.CTX_CFG.WAIT_TMO g c) = 0 then s else s.coreErr g c cx 2 0x02 q.pc 0
      | none => s
    | none => s))

/-! ## Table images -/

/-- A core writes an image into the bank that a `tload` names. -/
def State.writeImage (s : State) (x : At) (q : QEntry) (img : List Byte) : State :=
  let slot := s.physSlot x.g x.c (tSlot q.word)
  let s := s.setTable x.g (s.view x.g x.cx).cx slot (tBank q.word) img
  (s.setEntry x.g x.c 2 { q with image := some img, done := setBit q.done x.cx true }).pump x.g

/-- The image of a `tload`: captured, from the lowest-numbered enabled core's scratchpad, when it first arrives at a core, and
checked there; every core writes that one image (R253, R254). None where a check fails. -/
def State.captured (s : State) (g c : Nat) (q : QEntry) : Option (List Byte) :=
  match q.image with
  | some img => some img
  | none =>
    if s.tloadOk g c q then (match s.tloadImage g c q (s.itersOf g c q - 1) with
      | .ok img => some img
      | .error _ => none)
    else none

/-- `TLOAD_IMAGE_ARRIVE` (R253, R254): a core writes the named bank. -/
def State.imageArrive (s : State) (x : At) : State :=
  match s.begunOf x.g x.c 2 x.cx [0x61] with
  | some q =>
    if bit q.done x.cx then s
    else match s.captured x.g x.c q with
      | some img => s.writeImage x q img
      | none => s.coreErr x.g x.c ((s.coresOf x.g x.c).headD 0) 2 0x06 q.pc 0
  | none => s

/-- `TLOAD_IMAGE_ARRIVE`. -/
def execTloadImageArrive (g c cx : Nat) (s : State) : Ans :=
  inUnits (g < 24 && c < 2 && cx < 16) (.next (s.imageArrive (s.at g c cx)))

/-! ## Transfers -/

/-- A source of the operation is in host memory. -/
def State.readsHost (s : State) (g c : Nat) (q : QEntry) : Bool :=
  ((if q.opc = 0x24 then [] else [0]) ++ (if q.opc = 0x22 || q.opc = 0x23 then [2] else [])).any
    (fun k => (s.qDesc g c q k).space = 3)

/-- A core's part of a Juggler operation is done once all its iterations have run. -/
def State.dmaEnded (s : State) (x : At) (seq : Nat) : State :=
  match s.entrySeq x.g x.c 3 seq with
  | some q =>
    if s.itersOf x.g x.c q ≤ Tab.get 0 q.prog (32 + x.cx) then
      (s.setEntry x.g x.c 3 { q with done := setBit q.done x.cx true }).pump x.g
    else s
  | none => s

/-- The transfers of a core's operation are complete: what is left of its iterations runs, up to a packet that its queue
holds (R52, R316, R320). -/
def State.transferDone (s : State) (x : At) (q : QEntry) : State :=
  let r := s.serve x.g x.c 3 x.cx
  match r.2 with
  | .err c cx q' k v => r.1.raiseEnd x.g c cx q' k v
  | _ => r.1.dmaEnded x q.seq

/-- The Juggler operation whose transfers complete next in a core. -/
def State.dmaEntry (s : State) (x : At) : Option QEntry :=
  if (s.coresOf x.g x.c).contains x.cx then
    (s.queue x.g x.c 3).find? (fun q => q.begunIn x.cx && !q.retiredIn x.cx && !bit q.done x.cx)
  else none

/-- `DMA_REQUEST_COMPLETE` (R316, R320). -/
def State.dmaComplete (s : State) (x : At) (res : DmaResult) : State :=
  match s.dmaEntry x with
  | some q =>
    match res with
      | .ok => s.transferDone x q
      | .hostFail a => if s.readsHost x.g x.c q then s.opErr x q 0x0A (faultPayload 3 a) else s
      | .eccUncorr isl => s.raiseErr { code := 0x10, island := isl, job := s.ctxJob x.g x.c, pc := q.pc }
  | none => s

/-- `DMA_REQUEST_COMPLETE`. -/
def execDmaRequestComplete (g c cx : Nat) (res : DmaResult) (s : State) : Ans :=
  inUnits (g < 24 && c < 2 && cx < 16) (.next (s.dmaComplete (s.at g c cx) res))

end Sys2Proof.Machine
end

