-- ==== Sys2Proof/Machine/Scratch.lean ====
section
/-! DEFINITION. The scratchpad's own events, and Carousel queues: a bank's grant, atomic operations, errors,
clearing and the background test (R275 to R284, R312); admission, closing, popping and the stages of a queue, and its
configuration (R285 to R291, R297, R348, R349, R386, R387). -/

namespace Sys2Proof.Machine

/-! ## Banks -/

/-- The bytes of a line of a core's scratchpad. -/
def State.spLine (s : State) (g cx line : Nat) : List Byte :=
  (List.range 256).map (fun i => Tab.get 0 (s.core g cx).sp (256 * line + i))

/-- Write bytes of a line of a core's scratchpad. -/
def State.setSpLine (s : State) (g cx line : Nat) (bs : List (Nat × Nat)) : State :=
  let k := s.core g cx
  let sp := bs.foldl (fun t b => Tab.set 0 t (256 * line + b.1 % 256) (BitVec.ofNat 8 b.2)) k.sp
  s.setCore g cx { k with sp := sp }

/-- The level a request stands at: levels 2 to 4 rise to 1 after 8 denials (R275). -/
def bankLevel (r : BankWait) : Nat := if 2 ≤ r.req.level ∧ r.req.level ≤ 4 ∧ 8 ≤ r.denied then 1 else r.req.level

/-- A later request goes before an earlier one at a bank (R275): it is of a higher level, or of level 1 and for the present
iteration's line where the earlier is not. Otherwise the older one goes first, as R275 says of level 5; of the other
levels it does not say (DESIGN CHOICE, log 116). -/
def bankBefore (a b : BankWait) : Bool :=
  if bankLevel a ≠ bankLevel b then bankLevel a < bankLevel b
  else bankLevel a = 1 && a.req.present && !b.req.present

/-- The request a bank grants among those that wait at it, oldest first. -/
def bankPick (rs : List BankWait) : Option BankWait :=
  rs.foldl (fun b r => match b with
    | none => some r
    | some a => some (if bankBefore r a then r else a)) none

/-- A request is one that a core's banks take: its level is of R275 and its line lies in the scratchpad. -/
def bankReqOk (r : BankReq) : Bool := 1 ≤ r.level && r.level ≤ 6 && r.line < 16384

/-- A core accepts no access while it clears (R281). -/
def State.clearing (s : State) (g cx : Nat) : Bool := s.flag (Reg.SP_STATUS.CLEARING g cx)

/-- A request may be granted: a write does not wait on a hold (R173). -/
def State.bankFree (s : State) (g cx : Nat) (r : BankReq) : Bool := r.write.isNone || !s.lineHeld g cx r.line

/-- The requests that the banks of a core grant on one clk, at most one a bank, in bank order. -/
def State.bankGranted (s : State) (g cx : Nat) (ws : List BankWait) : List BankWait :=
  (List.range 32).filterMap (fun bank =>
    bankPick (ws.filter (fun w => w.req.line % 32 = bank && s.bankFree g cx w.req)))

/-- A granted request is served: a write changes its line. -/
def State.serveBank (s : State) (g cx : Nat) (r : BankReq) : State :=
  match r.write with
  | some bs => s.setSpLine g cx r.line (bs.map (fun b => (b.1, b.2.toNat)))
  | none => s

/-- Some engine request was denied at its bank by a request of a higher level. -/
def engDenied (granted denied : List BankWait) : Bool :=
  denied.any (fun d => d.req.level ≤ 4 && granted.any (fun a => a.req.line % 32 = d.req.line % 32 && bankLevel a < bankLevel d))

/-- Count a clk of a core's banks (R277, R296), by the requests granted and denied on it. -/
def State.countBanks (s : State) (g cx : Nat) (granted denied : List BankWait) : State :=
  let n (l : List BankWait) (p : Nat → Bool) : Nat := (l.filter (fun w => p w.req.level)).length
  let s := (s.inc (Reg.SP_ENG_LINES.N g cx) (n granted (· ≤ 4))).inc (Reg.SP_DMA_LINES.N g cx) (n granted (· = 5))
  let s := if engDenied granted denied then s.inc (Reg.SP_ENG_CONFLICT.N g cx) 1 else s
  let s := if denied.all (fun w => s.bankFree g cx w.req) then s else s.inc (Reg.ACC_HOLD_STALL.N g cx) 1
  if n denied (· = 5) ≠ 0 && n granted (· = 5) = 0 then s.inc (Reg.SP_DMA_STARVE.N g cx) 1 else s

/-- `BANK_GRANT` (R274 to R277, R281, R296): the banks of a core on one clk, with the requests that come on it. A denied request
stays at its bank. The lines read stand in `mmioData`, one after the other in bank order. -/
def State.bankGrant (s : State) (g cx : Nat) (rs : List BankReq) : State :=
  let ws := (s.core g cx).waits ++ (rs.filter bankReqOk).map (fun r => ({ req := r } : BankWait))
  let granted := if s.clearing g cx then [] else s.bankGranted g cx ws
  let denied := granted.foldl (fun l w => l.erase w) ws
  let s := granted.foldl (fun (t : State) w => t.serveBank g cx w.req)
    ({ s with mmioData := leNat ((granted.filter (fun w => w.req.write.isNone)).flatMap (fun w => s.spLine g cx w.req.line)) } : State)
  let s := s.setCore g cx { s.core g cx with waits := denied.map (fun w => { w with denied := w.denied + 1 }) }
  if s.clearing g cx then s else s.countBanks g cx granted denied

/-- `BANK_GRANT`. -/
def execBankGrant (g cx : Nat) (reqs : List BankReq) (s : State) : Ans :=
  inUnits (g < 24 && cx < 16) (.next (s.bankGrant g cx reqs))

/-- The bytes of an element of an atomic operation: INT32, FP32, BF16 adds, and a swap of bytes (R278). -/
def atomicWidth (kind : Nat) : Nat := if kind ≤ 1 then 4 else if kind = 2 then 2 else 1

/-- The new code of an element (R279). -/
def atomicCode (kind old v : Nat) : Nat :=
  match kind with
  | 0 => (old + v) % 2 ^ 32
  | 1 => (f32add (fp32.decode old) (fp32.decode v)).to32
  | 2 => ((Num.add (bf16.decode old) (bf16.decode v)).r32).toBf
  | _ => v % 256

/-- `ATOMIC_OP` (R278, R279), a line access of the Juggler; the previous contents stand in `mmioData`, in the order of the
elements. It waits on a hold of the line (R173) and while the core clears (R281). -/
def State.atomicOp (s : State) (g cx line kind : Nat) (els : List (Nat × Nat)) : State :=
  if s.clearing g cx then s
  else if s.lineHeld g cx line then s.inc (Reg.ACC_HOLD_STALL.N g cx) 1
  else
    let w := atomicWidth kind
    let old := s.spLine g cx line
    let at_ (i : Nat) : Nat := leNat ((old.drop (w * i)).take w)
    let bs := els.flatMap (fun e =>
      (List.range w).map (fun k => (w * e.1 + k, atomicCode kind (at_ e.1) e.2 / 256 ^ k % 256)))
    let s := ((s.setSpLine g cx line bs).inc (Reg.SP_ATOMICS.N g cx) 1).inc (Reg.SP_DMA_LINES.N g cx) 1
    { s with mmioData := els.foldr (fun e a => at_ e.1 + 256 ^ w * a) 0 }

/-- `ATOMIC_OP`. -/
def execAtomicOp (g cx line kind : Nat) (els : List (Nat × Nat)) (s : State) : Ans :=
  inUnits (g < 24 && cx < 16 && line < 16384 && kind < 4 && els.all (fun e => e.1 < 256 / atomicWidth kind))
    (.next (s.atomicOp g cx line kind els))

/-! ## Integrity, clearing and the background test -/

/-- The jobs that a fault of a core is charged to: those with a context bound to the troupe whose `CORE_EN`
includes the core (R280). -/
def State.coreJobs (s : State) (g cx : Nat) : List Nat :=
  (List.range 8).filter (fun j => (s.jobCtxs j).any (fun p => p.1 = g && (s.coresNamed p.1 p.2).contains cx))

/-- Raise a fault in a core, of the engine operation that made the access, or of none (R594). -/
def State.coreFault (s : State) (g cx code payload : Nat) (job : Option Nat) (op : Option OpRef := none) : State :=
  let e : ErrAt := { code := code, island := coreIsland g cx, payload := payload, job := job, unit := 0, troupe := g,
                     core := cx, ofOp := false }
  s.raiseErr (match op with
    | some o => { e with unit := o.e + 1, ctxn := o.c, pc := s.opPc op, ofOp := o.g = g }
    | none => e)

/-- Raise a fault of a core to each of its jobs, or to the device (R280, log 36). -/
def State.coreFaultAll (s : State) (g cx code payload : Nat) : State :=
  match s.coreJobs g cx with
  | [] => s.coreFault g cx code payload none
  | js => js.foldl (fun t j => t.coreFault g cx code payload (some j)) s

/-- `SP_ECC_CORRECT` (R280, R294). -/
def execSpEccCorrect (g cx : Nat) (s : State) : Ans :=
  inUnits (g < 24 && cx < 16) (.next ((s.inc (Reg.SP_CORR.N g cx) 1).put (Reg.SP_STATUS.CORR_EVT g cx) 1))

/-- An operation reference names an engine queue of the device. -/
def opRefOk (op : Option OpRef) : Bool := op.all (fun o => o.g < 24 && o.c < 2 && o.e < 4)

/-- `SP_ECC_UNCORR` (R280, R594): an access of a job, by an engine operation or by none; with no job, the access is the
background test's. -/
def execSpEccUncorr (g cx : Nat) (job : Option Nat) (op : Option OpRef) (s : State) : Ans :=
  inUnits (g < 24 && cx < 16 && job.all (· < 8) && opRefOk op) (.next (match job with
    | some j => s.coreFault g cx 0x10 0 (some j) op
    | none => s.coreFaultAll g cx 0x10 0))

/-- `CORE_CLEAR` (R281): the end of the clearing of a core that was powered up. -/
def State.coreClear (s : State) (g cx : Nat) : State :=
  let k := s.core g cx
  let s := s.setCore g cx { k with
    sp := [], acc := [], accFree := [], lane := [], laneFree := [], steps := [], loads := [], weights := [], active := [],
    loaded := [], own := [] }
  let s := s.clearRegs (coreOff g cx 0x400) 0x100
  (s.put (Reg.SP_STATUS.CLEARING g cx) 0).put (Reg.SP_STATUS.BT_ACTIVE g cx) 0

/-- The background test runs in a core (R282, R420). -/
def State.btOn (s : State) (g cx : Nat) : Bool := s.flag (Reg.SP_CFG.BT_EN g cx) && !s.coreRetired g cx

/-- `BT_REGION_START` (R282, R283). -/
def execBtRegionStart (g cx : Nat) (s : State) : Ans :=
  inUnits (g < 24 && cx < 16) (.next (
    if !s.pairsFailed && s.btOn g cx && !s.flag (Reg.SP_STATUS.CLEARING g cx) && !s.coreHeld g cx then s.put (Reg.SP_STATUS.BT_ACTIVE g cx) 1 else s))

/-- A run of n counters of 64 bits and their shadows. -/
structure ShadowRun where
  live : Nat
  shadow : Nat
  n : Nat
  deriving DecidableEq, Repr

/-- The counters of a core and their shadows, from its window. -/
def coreShadows (base : Nat) : List ShadowRun :=
  [⟨base + 0x100, base + 0x120, 4⟩, ⟨base + 0x210, base + 0x250, 7⟩, ⟨base + 0x300, base + 0x340, 6⟩,
   ⟨base + 0x620, base + 0x660, 8⟩, ⟨base + 0x700, base + 0x740, 6⟩, ⟨base + 0x820, base + 0x860, 7⟩,
   ⟨base + 0x900, base + 0x940, 8⟩]

/-- Copy a run of counters, from the registers as they stood, or read them as zero. -/
def State.latchRun (s : State) (regs : Tab Nat) (gone : Bool) (r : ShadowRun) : State :=
  (List.range r.n).foldl (fun (t : State) k =>
    t.put ⟨r.shadow + 8 * k, 0, 64, 0⟩ (if gone then 0 else Tab.get 0 regs ((r.live + 8 * k) * 64))) s

/-- A word that waits at a core reaches its register (R20): of a core's registers `SP_CFG` alone is written, with the range of
R293, and W1C bits are cleared; a read shows the register's fields. -/
def State.coreWord (s : State) (w : XWord) : State :=
  match regAt w.off with
  | none => if w.write then s else { s with mmioData := 0 }
  | some (row, ix) =>
    if !w.write then { s with mmioData := s.fieldsValue row ix w.off }
    else if row.id = .SP_CFG && bits w.val 16 10 = 0 then s.reject 0x06 w.off none
    else row.fields.foldl (fun (t : State) f =>
      if f.acc = .rw then t.put (rowFld row.id ix w.off f) (bits w.val f.lo f.w)
      else if f.acc = .w1c && bit w.val f.lo then t.put (rowFld row.id ix w.off f) 0 else t) s

/-- A core is retired (R420): it powers down once the words in its crossing are delivered (R20), and its shadows read zero
from then on (R40). -/
def State.markRetired (s : State) (g cx : Nat) : State :=
  let i := 16 * g + cx
  let s := (Tab.get [] s.crossings i).foldl State.coreWord { s with crossings := Tab.set [] s.crossings i [] }
  let s := (coreShadows (coreOff g cx 0)).foldl (fun (t : State) r => t.latchRun [] true r) s
  let f := Reg.SN_CORE_RET.MASK (i / 64)
  s.put f (setBit (s.get f) (i % 64) true)

/-- A core raises `CORE_LOST` and is retired (R284, R420). -/
def State.coreLost (s : State) (g cx : Nat) : State := (s.markRetired g cx).coreFaultAll g cx 0x15 0

/-- `BT_REGION_DONE` (R282 to R284). -/
def State.btDone (s : State) (g cx : Nat) (bad : Option Nat) : State :=
  let r := s.get (Reg.SP_STATUS.BT_REGION g cx)
  if !s.flag (Reg.SP_STATUS.BT_ACTIVE g cx) then s
  else
    let s := ((s.put (Reg.SP_STATUS.BT_ACTIVE g cx) 0).put (Reg.SP_STATUS.BT_REGION g cx) (r + 1)).inc
      (Reg.SP_BT_REGIONS.N g cx) 1
    match bad with
    | none => s
    | some l => (((s.put (Reg.SP_BT_FAIL.LINE g cx) l).put (Reg.SP_STATUS.BT_FAIL_EVT g cx) 1).coreLost g cx)

/-- `BT_REGION_DONE`: a failing line lies in the region under test. -/
def execBtRegionDone (g cx : Nat) (bad : Option Nat) (s : State) : Ans :=
  inUnits (g < 24 && cx < 16 && bad.all (fun l => l / 16 = s.get (Reg.SP_STATUS.BT_REGION g cx)))
    (.next (s.btDone g cx bad))

/-- `HOM_TEST` (R312): after a 256th region. -/
def execHomTest (g cx : Nat) (pass : Bool) (s : State) : Ans :=
  inUnits (g < 24 && cx < 16) (.next (
    if s.btOn g cx && decide (256 ≤ s.get (Reg.SP_BT_REGIONS.N g cx)) && !pass then s.coreLost g cx else s))

/-! ## Carousel queues -/

/-- The number of Carousel queues. -/
def cqCount : Nat := 9 + 256

/-- `CQ_ADMIT` (R287, R290): a zero length word is written, and the packet is open. -/
def State.cqAdmit (s : State) (q : Nat) : State :=
  if !s.flag (cqFlds q).en then s.incSat (cqFlds q).drops 1
  else if s.cqHolds q then s
  else if !s.cqRoom q then s.cqDropFull q
  else
    let p := s.get (cqFlds q).put
    let s := s.cqAppend q (leBytes 8 0)
    (s.setCq q { s.cqOf q with opened := some p }).put (cqFlds q).opened 1

/-- `CQ_ADMIT`. -/
def execCqAdmit (q : Nat) (s : State) : Ans := inUnits (q < cqCount) (.next (s.cqAdmit q).settleCq)

/-- Write bytes at positions that a queue already holds. -/
def State.setCqBytes (s : State) (q p : Nat) : List Byte → State
  | [] => s
  | b :: t => State.setCqBytes (s.setCqByte q p b) q (p + 1) t

/-- The open packet of a queue closes with its payload; one of a wrong length stops its hand-off queue's
job (R287, R349). -/
def State.cqFinish (s : State) (q p tag : Nat) (trunc : Bool) (data : List Byte) : State :=
  let s := s.cqAppend q (padded data)
  let s := s.setCqBytes q p (leBytes 8 (lenWord true trunc tag data.length))
  let s := (s.setCq q { s.cqOf q with opened := none }).put (cqFlds q).opened 0
  let s := if trunc then (s.incSat (cqFlds q).drops 1).put (cqFlds q).trunc 1 else s
  let s := (s.cqClosed q data.length).cqAdmitWaiting q
  if s.hoLenOk q data.length then s
  else s.raiseErr { code := 0x06, island := 522, job := cqJob q }

/-- `CQ_CLOSE` (R287). -/
def execCqClose (q tag : Nat) (data : List (BitVec 8)) (s : State) : Ans :=
  inUnits (q < cqCount) (.next (match (s.cqOf q).opened with
    | some p => if data.length ≤ s.get (cqFlds q).maxpkt then (s.cqFinish q p tag false data).settleCq else s
    | none => s))

/-- `CQ_TRUNCATE` (R288). -/
def execCqTruncate (q tag : Nat) (data : List (BitVec 8)) (s : State) : Ans :=
  inUnits (q < cqCount) (.next (match (s.cqOf q).opened with
    | some p =>
      let mx := s.get (cqFlds q).maxpkt
      if mx < data.length then (s.cqFinish q p tag true (data.take mx)).settleCq else s
    | none => s))

/-- `CQ_POP` (R289). -/
def execCqPop (q : Nat) (s : State) : Ans := inUnits (q < cqCount) (.next (s.cqPopOne q))

/-- `CQ_SPILL` (R285): into a head with room if nothing lies between the stages, otherwise a complete burst
goes to the backing area. -/
def State.cqSpill (s : State) (q : Nat) : State :=
  let x := s.cqOf q
  let put := s.get (cqFlds q).put
  if put ≤ x.spilled then s
  else if x.head = x.spilled ∧ x.head < s.get (cqFlds q).get + 4096 then s.cqFill q
  else if s.cqNoBack q || decide (put < (x.spilled / 512 + 1) * 512) then s
  else s.cqSpillBurst q

/-- `CQ_SPILL`. -/
def execCqSpill (q : Nat) (s : State) : Ans := inUnits (q < cqCount) (.next (s.cqSpill q).settleCq)

/-- `CQ_HEAD_FILL` (R285). -/
def execCqHeadFill (q : Nat) (s : State) : Ans :=
  inUnits (q < cqCount) (.next (if (s.cqOf q).head < (s.cqOf q).spilled then (s.cqFill q).settleCq else s))

/-- A number is a power of two. -/
def isPow2 (n : Nat) : Bool := n ≠ 0 && 2 ^ Nat.log2 n = n

/-- The field checks of a `CQ_CFG` write (R297, R348, R349, R386). -/
def State.cqCfgFields (s : State) (q val : Nat) : Bool :=
  let mx := bits val 24 20
  let sz := bits val 12 6
  let roll := bit val 2
  let full := bit val 1
  16 ≤ sz && sz ≤ 32 && mx ≠ 0 && mx % 8 = 0 && mx + 8 ≤ 2 ^ (sz - 1) &&
    s.get (cqFlds q).base * 2 ^ 16 % 2 ^ sz = 0 &&
    (if q < 9 then full && !roll && mx = 32
      else !full && roll && ((handOff q).isNone ||
        (isPow2 (mx + 8) && 2 ^ sz ≤ (mx + 8) * 65536)))

/-- Both counts are equal and no packet is open (R297). -/
def State.cqIdle (s : State) (q : Nat) : Bool :=
  s.get (cqFlds q).put = s.get (cqFlds q).get && (s.cqOf q).opened.isNone

/-- A `CQ_CFG` write changes `SIZE_LOG2` alone (R387). -/
def State.cqOnlySize (s : State) (q val : Nat) : Bool :=
  bits val 24 20 = s.get (cqFlds q).maxpkt && bits val 2 1 = s.get (cqFlds q).roll &&
    bits val 1 1 = s.get (cqFlds q).full && bits val 0 1 = s.get (cqFlds q).en

/-- Every frame of a range of device memory exists and has owner `TABLE` (R330). -/
def State.tableFrames (s : State) (a n : Nat) : Bool :=
  (List.range ((a + n - 1) / 2 ^ 21 + 1 - a / 2 ^ 21)).all (fun i =>
    s.frameExists (a / 2 ^ 21 + i) && decide (s.ownerOf (a / 2 ^ 21 + i) = 0xD))

/-- The code of a write of `CQ_CFG` (word 0) or `CQ_BASE` (word 1); 0 where it is accepted. -/
def State.cqCfgCode (s : State) (q word val : Nat) : Nat :=
  let b := bits val 16 36
  -- a job's queue is set up in FREE and LOADED (R53, R374)
  let own : Bool := match cqJob q with
    | some j => s.jobIdle j
    | none => true
  if word = 0 then firstCode [
    (s.cqCfgFields q val, 0x06), (own, 0x04),
    (s.cqIdle q || (s.cqNoBack q && s.cqOnlySize q val), 0x04)]
  else firstCode [
    (own, 0x04), (2 ^ 16 * b % 2 ^ s.get (cqFlds q).sizeLog2 = 0, 0x06),
    (q ≥ 9 || b = 0 || s.tableFrames (2 ^ 16 * b) (2 ^ s.get (cqFlds q).sizeLog2), 0x04),
    (s.cqIdle q || (s.cqNoBack q && b ≠ 0), 0x04)]

/-- The BAR0 offset of a Carousel register (R348, R384). -/
def cqOff (q word : Nat) : Nat :=
  (if q < 9 then 0x702000 + q * 0x40
    else 0x401000 + (q - 9) / 32 * 0x20000 + (q - 9) % 32 * 0x40) + 8 * word

/-- `CQ_CFG_WRITE` (R297). -/
def State.cqCfgWrite (s : State) (q word val : Nat) : State :=
  let code := s.cqCfgCode q word val
  let f := cqFlds q
  if code ≠ 0 then s.reject code (cqOff q word) (cqJob q)
  else if word = 0 then
    ((((s.put f.maxpkt (bits val 24 20)).put f.sizeLog2 (bits val 12 6)).put f.roll (bits val 2 1)).put
      f.full (bits val 1 1)).put f.en (bits val 0 1)
  else s.put f.base (bits val 16 36)

/-- `CQ_CFG_WRITE`. -/
def execCqCfgWrite (q word val : Nat) (s : State) : Ans :=
  inUnits (q < cqCount && word < 2) (.next (s.barWrite (fun t => t.cqCfgWrite q word val)))

end Sys2Proof.Machine
end

