-- ==== Sys2Proof/Machine/Showtime.lean ====
section
/-! DEFINITION. Showtime: the root and its replicas, the exchange with a parent, lock states, house timing,
seconds steps and snapshots (R26 to R48). -/

namespace Sys2Proof.Machine

/-- The nominal rate word (R27). -/
def rateNominal : Nat := 46116860184

/-- 400 ppm of the nominal rate word, rounded down. -/
def rateSlew : Nat := 18446744

/-- The rate word of a device that steers against an offset from its parent or house reference (in 1/16 st, positive where
it is ahead): it falls where the device is ahead, rises where it is behind, and stays where it is neither. By how much is
a free value inside the bound of R27 (log 37). -/
def State.steerRate (s : State) (offset : Int) : State :=
  let r := s.get Reg.ST_RATE.RATE
  let lo := rateNominal - rateSlew
  let hi := rateNominal + rateSlew
  let new :=
    if 0 < offset then lo + s.takeFree 0 % (max lo (min hi r) - lo + 1)
    else if offset < 0 then max lo (min hi r) + s.takeFree 0 % (hi - max lo (min hi r) + 1)
    else r
  (s.put Reg.ST_RATE.RATE new).bumpFree

/-- The rate word that counts 2^30 st in the reference cycles that 10^7 cycles of TREF_10M take (R36), inside the bound of
R27. -/
def trefRate (cycles : Nat) : Nat :=
  max (rateNominal - rateSlew) (min (rateNominal + rateSlew) (2 ^ 62 / cycles))

/-- Forget what the filters hold of a parent or reference that is no longer followed. -/
def State.clearFilters (s : State) : State :=
  { s with time := { s.time with offsets := [], delays := [], missed := 0, good := 0 } }

/-- The device is no member any more: it has no parent, and `ST_OFS` reads zero (R47). -/
def State.leaveParent (s : State) : State :=
  let s := { s.clearFilters with time := { s.clearFilters.time with parent := none } }
  (s.put Reg.ST_OFS.OFFSET 0).put Reg.ST_OFS.DELAY 0

/-- Set `ST_STATUS.STATE`; `FREE` has the nominal rate word (R35). -/
def State.setLock (s : State) (st : Nat) : State :=
  let s := { s with time := { s.time with good := 0 } }
  let s := s.put Reg.ST_STATUS.STATE st
  if st = 0 then s.put Reg.ST_RATE.RATE rateNominal else s

/-- The lock state. -/
def State.lockState (s : State) : Nat := s.get Reg.ST_STATUS.STATE

/-- A parent or reference is present again: `HOLDOVER` and `FREE` return to `ACQUIRE` (R35). -/
def State.reacquire (s : State) : State :=
  if s.lockState = 0 ∨ s.lockState = 3 then s.setLock 1 else s

/-- `LOCKED` is lost to `HOLDOVER` (R35). -/
def State.loseLock (s : State) : State := if s.lockState = 2 then s.setLock 3 else s

/-! ## The root and the replicas -/

/-- The number of clock islands (R24). -/
def islandCount : Nat := 543

/-- The islands whose replicas have reached the armed instant T keep their counters as they now stand (R40). -/
def State.freezePassed (s : State) : State :=
  if !s.flag Reg.ST_SNAP_CTRL.ARMED then s
  else
    let now := (List.range islandCount).filter (fun i =>
      decide (s.get Reg.ST_SNAP_T.T ≤ s.stamp i) && (Tab.get none s.time.frozen i).isNone && !s.time.latched.contains i)
    { s with time := { s.time with
        frozen := now.foldl (fun f i => Tab.set none f i (some (s.regs, s.spotter))) s.time.frozen } }

/-- The root's count moves on: past 2^64 it starts again, and no replica holds an older value (R26). -/
def State.setRoot (s : State) (n frac : Nat) : State :=
  ({ s with time := { s.time with
      frac := frac, root := n % 2 ^ 64, held := if n < 2 ^ 64 then s.time.held else []
      slew := if n < 2 ^ 64 then s.time.slew else [] } } : State).freezePassed

/-- `SHOWTIME_ROOT_TICK` (R26, R27). -/
def State.rootTick (s : State) : State :=
  let f := s.time.frac + s.get Reg.ST_RATE.RATE
  s.setRoot (s.time.root + f / 2 ^ 32) (f % 2 ^ 32)

/-- `SHOWTIME_ROOT_TICK`. -/
def execShowtimeRootTick (s : State) : Ans := .next s.rootTick

/-- An island faults its replica (R30). A fault counts for the snapshot only before the root's count is at T (R41). -/
def State.replicaFaults (s : State) (i : Nat) : State :=
  let t := s.time
  let s := { s with time := { t with
    faulted := if t.faulted.contains i then t.faulted else t.faulted ++ [i]
    armFault := t.armFault || (s.flag Reg.ST_SNAP_CTRL.ARMED && decide (t.root < s.get Reg.ST_SNAP_T.T)) } }
  (s.put Reg.ST_STATUS.REPLICA_FAULT 1).raiseErr { code := 0x14, island := i }

/-- A deviation within ±2 ns of the root, in whole st (R28). -/
def clampDev (d : Int) : Int := max (-2) (min 2 d)

/-- The replica's deviation becomes d at once, and it holds the value it has until the root's count has passed it: a
replica never decreases (R28, R30). -/
def State.jumpReplica (s : State) (i : Nat) (d : Int) : State :=
  let t := s.time
  { s with time := { t with
      dev := Tab.set 0 t.dev i d, slew := Tab.set (0, 0) t.slew i (0, 0), held := Tab.set 0 t.held i (s.stamp i) } }

/-- The replica takes a correction, by which its increment changes over the next 1,024 st: from the deviation it has to the
corrected one, which R28 keeps within ±2 ns. At most 4 st in 1,024 is less than the 1/64 that R28 allows. -/
def State.slewReplica (s : State) (i : Nat) (corr : Int) : State :=
  let t := s.time
  let d := t.effDev i
  { s with time := { t with
      dev := Tab.set 0 t.dev i d, slew := Tab.set (0, 0) t.slew i (clampDev (d + corr) - d, t.root) } }

/-- `SYNC_WORD` (R28, R30): the word calls for a correction of the replica. One above 16 st finds the replica off by that
much: it faults. The sync word a faulted replica takes next makes it agree with the root again. -/
def State.syncWord (s : State) (i : Nat) (corr : Int) : State :=
  (if s.time.faulted.contains i then
    let s := s.jumpReplica i 0
    { s with time := { s.time with faulted := s.time.faulted.filter (· ≠ i) } }
  else if 16 < corr.natAbs then (s.jumpReplica i (-corr)).replicaFaults i
  else s.slewReplica i corr).freezePassed

/-- `SYNC_WORD`. -/
def execSyncWord (island : Nat) (corr : Int) (s : State) : Ans :=
  inUnits (island < islandCount) (.next (s.syncWord island corr))

/-- `REPLICA_FAULT` (R30): by four missed words or by too large a correction, with one effect. -/
def execReplicaFault (island : Nat) (_missed : Bool) (s : State) : Ans :=
  inUnits (island < islandCount) (.next (s.replicaFaults island))

/-! ## The exchange with the parent (R32, R33, R35) -/

/-- The delay of an exchange in 1/16 st; like every difference of R32 the outer one is taken modulo 2^24. -/
def exchDelay (t1 t2 t3 t4 : Nat) : Int :=
  8 * ((((t4 % 2 ^ 24 + 2 ^ 24 - t1 % 2 ^ 24) + (2 ^ 24 + t2 % 2 ^ 24 - t3 % 2 ^ 24)) % 2 ^ 24 : Nat) : Int)

/-- The child's offset of an exchange in 1/16 st: the difference of the two differences is taken modulo 2^24
too, as two's complement. -/
def exchOffset (t1 t2 t3 t4 : Nat) : Int :=
  8 * signed 24 ((t2 % 2 ^ 24 + 2 ^ 24 - t1 % 2 ^ 24) + (2 ^ 24 + t3 % 2 ^ 24 - t4 % 2 ^ 24))

/-- The mean of at most 16 values (the filter; log 38). -/
def meanOf (l : List Int) : Int := l.foldl (· + ·) 0 / l.length

/-- A missed or discarded exchange (R33, R35, R46): the third in a row sets `PARENT_LOST`, and LOCKED is lost. The run of good
offsets is left as it is: R35 does not say whether a missed exchange breaks it (DESIGN CHOICE, log 113). -/
def State.missExchange (s : State) : State :=
  let n := s.time.missed + 1
  let s := { s with time := { s.time with missed := n } }
  if 3 ≤ n then (s.put Reg.ST_STATUS.PARENT_LOST 1).loseLock else s

/-- The last 16 values with one more. -/
def pushFilter (l : List Int) (x : Int) : List Int := (l ++ [x]).reverse.take 16 |>.reverse

/-- A further offset against a parent or the house reference, in 1/16 st: the filter takes it, the root steers against the
filtered offset, and the run of filtered offsets within a bound goes on or ends (R32, R35, R36). -/
def State.takeOffset (s : State) (x : Int) (bound : Nat) : State :=
  let os := pushFilter s.time.offsets x
  let o := meanOf os
  let s := ({ s with time := { s.time with offsets := os } } : State).reacquire.steerRate o
  { s with time := { s.time with good := if o.natAbs ≤ bound then s.time.good + 1 else 0 } }

/-- `TIME_EXCHANGE` (R32, R33, R35): ±4 ns is 68 of 1/16 st. -/
def State.timeExchange (s : State) (t1 t2 t3 t4 : Nat) : State :=
  if s.get Reg.ST_CTRL.ROLE ≠ 1 ∨ s.time.parent.isNone then s
  else if 2 ^ 23 ≤ (t4 % 2 ^ 24 + 2 ^ 24 - t1 % 2 ^ 24) % 2 ^ 24 then s.missExchange
  else
    let ds := pushFilter s.time.delays (exchDelay t1 t2 t3 t4)
    let o := meanOf (pushFilter s.time.offsets (exchOffset t1 t2 t3 t4))
    let s := { s with time := { s.time with delays := ds, missed := 0 } }
    ((s.put Reg.ST_OFS.OFFSET (unsigned 32 o)).put Reg.ST_OFS.DELAY (unsigned 32 (meanOf ds))).takeOffset
      (exchOffset t1 t2 t3 t4) 68

/-- `TIME_EXCHANGE`. -/
def execTimeExchange (t1 t2 t3 t4 : Nat) (s : State) : Ans := .next (s.timeExchange t1 t2 t3 t4)

/-- `TIME_EXCHANGE_MISSED` (R33, R35). -/
def execTimeExchangeMissed (s : State) : Ans :=
  .next (if s.get Reg.ST_CTRL.ROLE = 1 ∧ s.time.parent.isSome then s.missExchange else s)

/-- `LOCK_ACQUIRED` (R35): after 16 good offsets. R35's table states a criterion for a parent and for PPS_IN only, so a
System Master with `TREF_EN` alone, of which no offset comes, stays in ACQUIRE (DESIGN CHOICE, log 113). -/
def execLockAcquired (s : State) : Ans :=
  .next (if s.lockState = 1 ∧ 16 ≤ s.time.good then s.setLock 2 else s)

/-! ## House timing (R36, R37) -/

/-- The offset of a stamp from the nearest whole second. -/
def secondOffset (t : Nat) : Int := signed 30 t

/-- 1.5 s in st. -/
def edgeWait : Nat := 3 * 2 ^ 29

/-- `PPS_IN_EDGE` (R35, R36, R38): the offset of the root's count from a whole second at the edge, which is steered away;
±10 ns is 171 of 1/16 st. The first edge within 1.5 s of the write of a seconds step is that step's whole second. -/
def State.ppsEdge (s : State) (stamp : Nat) : State :=
  if s.isSystemMaster && s.flag Reg.ST_CTRL.PPS_EN then
    let t := s.time
    let s := if t.stepPps && t.stepEdge.isNone && decide (t.root ≤ t.stepStamp + edgeWait) then
        { s with time := { t with stepEdge := some t.root } } else s
    s.takeOffset (16 * secondOffset stamp) 171
  else s

/-- `PPS_IN_EDGE`. -/
def execPpsInEdge (stamp : Nat) (s : State) : Ans := .next (s.ppsEdge stamp)

/-- `PPS_LOST` (R35). -/
def execPpsLost (s : State) : Ans :=
  .next (if s.isSystemMaster && s.flag Reg.ST_CTRL.PPS_EN then (s.put Reg.ST_STATUS.PPS_LOST 1).loseLock else s)

/-- `TREF_LOST` (R35). -/
def execTrefLost (s : State) : Ans :=
  .next (if s.isSystemMaster && s.flag Reg.ST_CTRL.TREF_EN then (s.put Reg.ST_STATUS.TREF_LOST 1).loseLock else s)

/-- The reference cycles counted in 10^7 cycles of TREF_10M are within ±300 ppm of nominal. -/
def trefOk (cycles : Nat) : Bool := 99970000 ≤ cycles && cycles ≤ 100030000

/-- `TREF_10M_REGAINED` (R35, R36): the reference is within its window, by the reference cycles that 10^7 of its cycles took;
the root counts by it. -/
def execTref10mRegained (cycles : Nat) (s : State) : Ans :=
  .next (if s.isSystemMaster && s.flag Reg.ST_CTRL.TREF_EN && trefOk cycles then
    s.reacquire.put Reg.ST_RATE.RATE (trefRate cycles) else s)

/-- The st within which a tick after a whole second falls: one reference cycle at the fastest rate, and the deviation of the
always-on domain's replica. -/
def ppsReach : Nat := 13

/-- `PPS_OUT_HIGH` (R37): bits [29:0] of the always-on domain's replica have just passed zero. -/
def execPpsOutHigh (s : State) : Ans :=
  .next (if s.flag Reg.ST_CTRL.PPS_OUT_EN && decide (s.stamp 541 % 2 ^ 30 < ppsReach) then
    { s with time := { s.time with ppsOut := true, ppsRise := s.stamp 541 / 2 ^ 30 * 2 ^ 30 } } else s)

/-- `PPS_OUT_LOW` (R37): 2^27 st after the rise. -/
def execPpsOutLow (s : State) : Ans :=
  .next (if s.time.ppsOut && decide (s.time.ppsRise + 2 ^ 27 ≤ s.stamp 541) then
    { s with time := { s.time with ppsOut := false } } else s)

/-- A write of `ST_CTRL` (R35, R45). -/
def State.writeStCtrl (s : State) (val : Nat) : State :=
  let s := ((s.put Reg.ST_CTRL.PPS_OUT_EN (bits val 4 1)).put Reg.ST_CTRL.TREF_EN (bits val 3 1)).put
    Reg.ST_CTRL.PPS_EN (bits val 2 1)
  if !s.isSystemMaster then s
  else if s.flag Reg.ST_CTRL.TREF_EN || s.flag Reg.ST_CTRL.PPS_EN then
    (if s.lockState = 0 then s.setLock 1 else s)
  else s.setLock 0

/-! ## Seconds steps (R38) -/

/-- A job runs on another device of the cascade: this device does not know, so it is a free value of a cascade (log 39). -/
def State.othersRun (s : State) : Bool := s.get Reg.ST_CTRL.ROLE ≠ 0 && s.takeFree 0 % 2 = 1

/-- The code of an `ST_SET_SEC` write. -/
def State.setSecCode (s : State) (sec : Nat) : Nat :=
  firstCode [
    (s.time.root / 2 ^ 30 < sec, 0x06),
    ((List.range 8).all (fun j => s.jobState j ≠ 2 && s.jobState j ≠ 3) && !s.othersRun, 0x04),
    (!s.flag Reg.ST_SNAP_CTRL.ARMED, 0x04),
    (s.time.step.isNone, 0x04),
    (s.isSystemMaster, 0x04)]

/-- The first instant after a count at which bits [29:0] pass zero. -/
def nextSecond (n : Nat) : Nat := 2 ^ 30 * (n / 2 ^ 30 + 1)

/-- The instant of the staged step's whole second (R38): the accepted edge, or a passing of zero. -/
def State.stepInstant (s : State) : Nat :=
  let t := s.time
  if !t.stepPps then nextSecond t.stepStamp
  else match t.stepEdge with
    | some e => e
    | none => nextSecond (t.stepStamp + edgeWait)

/-- The step notice goes down the time tree (R38): a time packet with the new whole seconds, and with the instant of the step
where that is already known (a PPS_IN edge yet to come is not). Its layout is the model's (log 114). -/
def State.sendNotice (s : State) (sec instant : Nat) : State :=
  s.timeKids.foldl (fun (t : State) q =>
    t.sendTo q { type := 3, stamp := t.stamp 541 % 2 ^ 24, ofs := instant, data := leBytes 8 sec }) s

/-- `ST_SET_SEC` (R38). -/
def State.writeSetSec (s : State) (val : Nat) : State :=
  let sec := bits val 0 34
  let code := s.setSecCode sec
  let s := s.bumpFree
  if code ≠ 0 then s.reject code 0x200020 none
  else
    let pps := s.flag Reg.ST_CTRL.PPS_EN && !s.flag Reg.ST_STATUS.PPS_LOST
    let s := { s with time := { s.time with
      step := some sec, stepPps := pps, stepStamp := s.time.root, stepEdge := none } }
    if pps then s else s.sendNotice sec s.stepInstant

/-- `ST_SET_SEC`. -/
def execStSetSec (val : Nat) (s : State) : Ans := .next (s.barWrite (fun t => t.writeSetSec val))

/-- The step of R38 at an instant that the root's count has reached: the whole seconds become `sec` and the fraction zero at that
instant, and the count has gone on since; a step only ever moves forward (log 39). -/
def State.applyStep (s : State) (sec instant : Nat) : State :=
  let n := 2 ^ 30 * sec + (s.time.root - instant)
  let s := if s.time.root < n then
      ({ s with time := { s.time with dev := [], slew := [], held := [] } } : State).setRoot n
        (if s.time.root = instant then 0 else s.time.frac) else s
  { s with time := { s.time with step := none, stepPps := false, stepEdge := none } }.put Reg.ST_STATUS.STEP_DONE 1

/-- `SECONDS_STEP_APPLY` (R38): on the System Master the staged step, on a member the one of the notice it was sent (the new whole
seconds and the instant), once the count has reached the instant. A System Master that waited for an edge sends the
notice then. -/
def execSecondsStepApply (notice : Option (Nat × Nat)) (s : State) : Ans :=
  .next (match notice with
    | some (sec, at_) =>
      if s.get Reg.ST_CTRL.ROLE = 1 ∧ at_ ≤ s.time.root then s.applyStep (sec % 2 ^ 34) at_ else s
    | none => match s.time.step with
      | some sec =>
        if s.time.root < s.stepInstant then s
        else if s.time.stepPps then (s.sendNotice sec s.stepInstant).applyStep sec s.stepInstant
        else s.applyStep sec s.stepInstant
      | none => s)

/-! ## Snapshots (R39 to R41) -/

/-- The code of a write of `ST_SNAP_CTRL` (R39). -/
def State.snapCtrlCode (s : State) (val : Nat) : Nat :=
  if !bit val 0 then 0
  else firstCode [
    (s.time.root + 2 ^ 14 ≤ s.get Reg.ST_SNAP_T.T, 0x06),
    (!s.flag Reg.ST_SNAP_CTRL.ARMED, 0x04)]

/-- A write of `ST_SNAP_CTRL`. -/
def State.writeSnapCtrl (s : State) (val : Nat) : State :=
  if !bit val 0 then s
  else
    let code := s.snapCtrlCode val
    if code ≠ 0 then s.reject code 0x200048 none
    else
      let s := (s.put Reg.ST_SNAP_CTRL.ARMED 1).put Reg.ST_SNAP_CTRL.DONE 0
      ({ s with time := { s.time with latched := [], frozen := [], armFault := !s.time.faulted.isEmpty } } : State).freezePassed

/-- `ST_SNAP_ARM`. -/
def execStSnapArm (s : State) : Ans := .next (s.barWrite (fun t => t.writeSnapCtrl 1))

/-- A write of `ST_SNAP_T` (R39). -/
def State.writeSnapT (s : State) (val : Nat) : State :=
  if s.flag Reg.ST_SNAP_CTRL.ARMED then s.reject 0x04 0x200040 none else s.put Reg.ST_SNAP_T.T val

/-- The counters kept per job, and the error and queue counters, which latch with the Midway (log 40). -/
def midwayShadows : List ShadowRun :=
  (List.range 8).flatMap (fun j =>
    [⟨0x600810 + j * 0x20000, 0x600850 + j * 0x20000, 2⟩, ⟨jobOff j 0x260, jobOff j 0x2A0, 3⟩,
     ⟨0x500100 + j * 0x10000, 0x500140 + j * 0x10000, 5⟩]) ++
  (List.range 265).map (fun q => ⟨cqOff q 6, cqOff q 7, 1⟩) ++ [⟨0x701000, 0x701800, 256⟩]

/-- The shadows that an island latches. -/
def islandShadows (i : Nat) : List ShadowRun :=
  if i < 384 then coreShadows (coreOff (i / 16) (i % 16) 0)
  else if 456 ≤ i ∧ i < 480 then
    let k := 8 * (i - 456)
    [⟨0xC01000 + k, 0xC01800 + k, 1⟩, ⟨0xC01100 + k, 0xC01900 + k, 1⟩, ⟨0xC01200 + k, 0xC01A00 + k, 1⟩]
  else if 524 ≤ i ∧ i < 532 then
    let k := 8 * (i - 524)
    [⟨0xC01300 + k, 0xC01B00 + k, 1⟩, ⟨0xC01340 + k, 0xC01B40 + k, 1⟩, ⟨0xC01380 + k, 0xC01B80 + k, 1⟩]
  else if 504 ≤ i ∧ i < 520 then [⟨0xB00100 + (i - 504) * 0x10000, 0xB00140 + (i - 504) * 0x10000, 7⟩]
  else if i = 522 then midwayShadows
  else if i = 541 then [⟨0x800400, 0x800440, 6⟩, ⟨0xD00100, 0xD00140, 4⟩]
  else []

/-- A retired island: a retired core, a lost stack's controller, a lost channel's controller (R40). -/
def State.islandGone (s : State) (i : Nat) : Bool :=
  if i < 384 then s.coreRetired (i / 16) (i % 16)
  else if 456 ≤ i ∧ i < 480 then bit (s.get Reg.MEM_HBM_STATUS.RETIRED) (i - 456)
  else if 524 ≤ i ∧ i < 532 then bit (s.get Reg.MEM_DDR_STATUS.RETIRED) (i - 524)
  else false

/-- The shadows of an island that retires or powers off read zero (R40). -/
def State.zeroShadows (s : State) (i : Nat) : State :=
  (islandShadows i).foldl (fun (t : State) r => t.latchRun [] true r) s

/-- Copy every Spotter counter to its shadow (R208, R209). -/
def State.latchSpotter (s : State) (counts : Tab Nat) : State :=
  let s := (List.range 8).foldl (fun (t : State) j => t.clearRegs (0x60C000 + j * 0x20000) 0x14000) s
  counts.foldl (fun (t : State) e =>
    let j := e.1 / 7040
    let w := e.1 % 11
    t.put (Reg.SPOT_SH.COUNT j (e.1 % 7040 / 11) w) e.2) s

/-- `SNAPSHOT_LATCH` (R40): the counters go to their shadows as they stood when the island's replica reached T. -/
def State.latchIsland (s : State) (i : Nat) : State :=
  if s.flag Reg.ST_SNAP_CTRL.ARMED && decide (s.get Reg.ST_SNAP_T.T ≤ s.stamp i) && !s.time.latched.contains i then
    let src := (Tab.get none s.time.frozen i).getD (s.regs, s.spotter)
    let s := (islandShadows i).foldl (fun (t : State) r => t.latchRun src.1 (s.islandGone i) r) s
    let s := if i = 522 then s.latchSpotter src.2 else s
    { s with time := { s.time with latched := s.time.latched ++ [i], frozen := Tab.set none s.time.frozen i none } }
  else s

/-- `SNAPSHOT_LATCH`. -/
def execSnapshotLatch (island : Nat) (s : State) : Ans :=
  inUnits (island < islandCount) (.next (s.latchIsland island))

/-- `SNAPSHOT_DONE` (R41). -/
def execSnapshotDone (s : State) : Ans :=
  .next (if s.flag Reg.ST_SNAP_CTRL.ARMED && decide (s.time.latched.length = islandCount) then
    (((s.put Reg.ST_SNAP_CTRL.DONE 1).put Reg.ST_SNAP_CTRL.ARMED 0).inc Reg.ST_SNAP_CTRL.SEQ 1).put
      Reg.ST_SNAP_CTRL.INCOMPLETE (ofBool s.time.armFault)
  else s)

end Sys2Proof.Machine
end

