-- ==== Sys2Proof/Machine/Islands.lean ====
section
/-! DEFINITION. Die-to-die links and crossings: a crossing that timed out, a module retired, the routes between dies and a
link lost (R11 to R15, R19, R20). -/

namespace Sys2Proof.Machine

/-- Raise a fault of an island with the halt record that R594 gives its place: of the operation that made the access, where
one did. -/
def State.islandFault (s : State) (island code payload : Nat) (job : Option Nat) (op : Option OpRef := none) : State :=
  if island < 384 then s.coreFault (island / 16) (island % 16) code payload job op
  else if island < 408 then
    s.raiseErr { code := code, island := island, payload := payload, job := job, unit := 0,
                 troupe := island - 384, ctxn := (op.map (·.c)).getD 0, pc := s.opPc op, ofOp := false }
  else s.raiseErr { code := code, island := island, payload := payload, job := job, pc := s.opPc op }

/-! ## Crossings (R18 to R20) -/

/-- `CROSSING_TIMEOUT` (R19): the sender discards the word and every word behind it. -/
def execCrossingTimeout (island : Nat) (job : Option Nat) (op : Option OpRef) (s : State) : Ans :=
  inUnits (island < islandCount && job.all (· < 8) && opRefOk op)
    (.next ((s.setCrossing island []).islandFault island 0x14 0 job op))

/-! ## Modules (R11, R12) -/

/-- The modules of a die-to-die link (R11), by the link numbers of R380. -/
def linkModules (l : Nat) : Nat := if l < 4 then 18 else if l < 12 then 6 else 1

/-- The retired modules of a link, as a mask. -/
def State.linkRetired (s : State) (l : Nat) : Nat := Tab.get 0 s.links l

/-- The island of the adapter that reports a link's events (R31, log 41). -/
def linkIsland (l : Nat) : Nat := 480 + (Config.linkAdapter l).val

/-- `UCIE_MODULE_RETIRE` (R12, R380). -/
def State.moduleRetire (s : State) (l m : Nat) : State :=
  if bit (s.linkRetired l) m then s
  else
    let r := setBit (s.linkRetired l) m true
    let left := linkModules l - popCount (linkModules l) r
    { s with links := Tab.set 0 s.links l r }.corrected (linkIsland l) 0x0124 (l + 2 ^ 8 * m + 2 ^ 16 * left)

/-- `UCIE_MODULE_RETIRE`. -/
def execUcieModuleRetire (link mdl : Nat) (s : State) : Ans :=
  inUnits (link < 14 && mdl < linkModules link) (.next (s.moduleRetire link mdl))

/-! ## Routes between dies (R13, R15) -/

/-- A place that traffic between dies comes from or goes to. -/
inductive DieNode where
  | ring (r : Nat)
  | midway
  | guyline (d : Nat)
  deriving DecidableEq, Repr

/-- The link of a Ring to its horizontal neighbour, Ring r xor 1. -/
def horizLink (r : Nat) : Nat := r / 2

/-- The link of a Ring to its vertical neighbour, Ring r xor 2. -/
def vertLink (r : Nat) : Nat := 2 + r % 2

/-- The links of a path avoid the lost ones. -/
def whole (lost path : List Nat) : Bool := path.all (fun l => !lost.contains l)

/-- The first path that no lost link is on; the first of all where each has one. -/
def firstWhole (lost : List Nat) (paths : List (List Nat)) : List Nat :=
  (paths.find? (whole lost)).getD (paths.headD [])

/-- The links from Ring a to Ring b: direct between neighbours, the horizontal one first on a diagonal; where that would use a
lost link, round the square the other way. -/
def ringRoute (lost : List Nat) (a b : Nat) : List Nat :=
  let h := horizLink a
  let v := vertLink a
  -- the other horizontal and the other vertical link of the square
  let h2 := 1 - h
  let v2 := 5 - v
  if a = b then []
  else if Nat.xor a b = 1 then firstWhole lost [[h], [v, h2, v2]]
  else if Nat.xor a b = 2 then firstWhole lost [[v], [h, v2, h2]]
  else firstWhole lost [[h, v2], [v, h2]]

/-- The neighbours of a Ring, the horizontal one first: the spec does not say which takes the place of a lost link
(DESIGN CHOICE, log 41). -/
def ringNeighbours (r : Nat) : List Nat := [Nat.xor r 1, Nat.xor r 2, Nat.xor r 3]

/-- The links from one place to another. A Guyline die's links go to the Rings of its half, and the nearest of them carries
the traffic of a Ring of the other half; the Midway and a Guyline die share a control link. -/
def dieRoute (lost : List Nat) (a b : DieNode) : List Nat :=
  match a, b with
  | .ring x, .ring y => ringRoute lost x y
  | .ring x, .midway => firstWhole lost ([8 + x] :: (ringNeighbours x).map (fun n => ringRoute lost x n ++ [8 + n]))
  | .midway, .ring x => firstWhole lost ([8 + x] :: (ringNeighbours x).map (fun n => [8 + n] ++ ringRoute lost n x))
  | .ring x, .guyline d =>
    let near := 2 * d + x % 2
    firstWhole lost [ringRoute lost x near ++ [4 + near], ringRoute lost x (Nat.xor near 1) ++ [4 + Nat.xor near 1]]
  | .guyline d, .ring x =>
    let near := 2 * d + x % 2
    firstWhole lost [[4 + near] ++ ringRoute lost near x, [4 + Nat.xor near 1] ++ ringRoute lost (Nat.xor near 1) x]
  | .midway, .guyline d => [12 + d]
  | .guyline d, .midway => [12 + d]
  | .guyline d, .guyline e => if d = e then [] else firstWhole lost [[4 + 2 * d, vertLink 0, 4 + 2 * e],
      [5 + 2 * d, vertLink 1, 5 + 2 * e]]
  | .midway, .midway => []

/-- Where the frame of a page is: its stack's Ring, or the Midway before the DDR5 tier. -/
def frameNode (dfn : Nat) : DieNode := if isDdr dfn then .midway else .ring (stackOf dfn / 6)

/-- Where the elements of an operand of a DMA operation lie. -/
def State.operandNodes (s : State) (g c : Nat) (q : QEntry) (k : Nat) : List DieNode :=
  let d := s.qDesc g c q k
  let j := s.jobOf g c
  match d.space with
  | 0 =>
    let rs := (s.coresOf g c).filterMap (fun cx => s.descRange (s.at g c cx) q k)
    ((s.jobPages j).filter (fun v => rs.any (fun r =>
      decide (r.1 < ((2 ^ 21 * (v + 1) : Nat) : Int) ∧ ((2 ^ 21 * v : Nat) : Int) ≤ r.2)))).filterMap (fun v => (s.pte j v).map (fun p => frameNode p.live))
  | 2 => [.ring (bits d.base 32 9 / 96)]
  | 3 => [.midway]
  | 5 => [.guyline (bits d.base 0 4 / 8)]
  | _ => []

/-- The number of operands of a DMA operation. -/
def dmaOperands (opc : Nat) : Nat := if opc = 0x24 then 1 else if opc = 0x22 ∨ opc = 0x23 then 3 else 2

/-- A DMA operation in progress has a transfer over a link, to or from its troupe's Ring. -/
def State.opUsesLink (s : State) (g c l : Nat) : Bool :=
  (s.queue g c 3).any (fun q => q.begun ≠ 0 && (List.range (dmaOperands q.opc)).any (fun k =>
    (s.operandNodes g c q k).any (fun n =>
      (dieRoute s.linksLost (.ring (ringOf g)) n).contains l || (dieRoute s.linksLost n (.ring (ringOf g))).contains l)))

/-- A job has a transfer in progress on a link: of a DMA operation the state shows it; of other traffic (packets, backing
areas, collectives, tables), whose words the state does not hold one by one, the command says it (log 41). -/
def State.jobUsesLink (s : State) (l jobs j : Nat) : Bool :=
  bit jobs j || (s.jobCtxs j).any (fun p => s.opUsesLink p.1 p.2 l)

/-- The operation of a job that has a transfer on a link, where one has. -/
def State.linkOp (s : State) (l j : Nat) : Option OpRef :=
  ((s.jobCtxs j).find? (fun p => s.opUsesLink p.1 p.2 l)).map (fun p => ⟨p.1, p.2, 3⟩)

/-- `DIE_LINK_LOST` (R15): the link stays lost, what was in flight on it is lost, and every job with a transfer on it raises
`LINK_LOST`; from then on `dieRoute` goes round it. -/
def State.linkLost (s : State) (l jobs : Nat) : State :=
  if s.linksLost.contains l then s
  else
    ((List.range 8).filter (s.jobUsesLink l jobs)).foldl
      (fun (t : State) j => t.islandFault (linkIsland l) 0x12 0 (some j) (s.linkOp l j))
      { s with linksLost := s.linksLost ++ [l] }

/-- `DIE_LINK_LOST`. -/
def execDieLinkLost (link jobs : Nat) (s : State) : Ans :=
  inUnits (link < 14) (.next (s.linkLost link jobs))

end Sys2Proof.Machine
end

