-- ==== Sys2Proof/Machine/DevMem.lean ====
section
/-! DEFINITION. Device memory: translation, page operations and migration, zero-fill, retirement, memory
errors, and the loss of a stack or a channel (R323 to R347, R401, R422). -/

namespace Sys2Proof.Machine

/-- The island of the controller of a frame. -/
def frameIsland (dfn : Nat) : Nat := if isDdr dfn then 524 + ddrChannel dfn else 456 + stackOf dfn

/-- A frame that a job may be given (R331): it exists, and it is `CLEAN` or `DIRTY`. -/
def State.frameFree (s : State) (dfn : Nat) : Bool :=
  s.frameExists dfn && (s.ownerOf dfn = 0xE || s.ownerOf dfn = 0xF)

/-- Give a frame to a job, zero-filled first where it is `DIRTY` (R330). -/
def State.giveFrame (s : State) (j dfn : Nat) : State :=
  let s := if s.ownerOf dfn = 0xE then s.zeroFrame dfn else s
  s.setOwner dfn j

/-- Take the frame at the end of the spare list, skipping those that a test refuses (R340). -/
def State.takeSpare (s : State) (ok : Nat → Bool) : Nat → State × Option Nat
  | 0 => (s, none)
  | n + 1 =>
    let c := s.get Reg.MEM_SPARE.CNT
    if c = 0 then (s, none)
    else
      let d := s.memNat (s.get Reg.MEM_SPARE.ADDR * 8 + 4 * (c - 1)) 4 % 2 ^ 22
      let s := s.put Reg.MEM_SPARE.CNT (c - 1)
      if s.frameFree d && ok d then (s, some d) else State.takeSpare s ok n

/-- The frame at the end of the spare list. -/
def State.spare (s : State) (ok : Nat → Bool) : State × Option Nat := s.takeSpare ok (s.get Reg.MEM_SPARE.CNT)

/-- The epoch `BASE` − 1 of a job. -/
def State.oldEpoch (s : State) (j : Nat) : Nat := (s.get (Reg.SN_EPOCH.BASE j) + 2 ^ 16 - 1) % 2 ^ 16

/-- A page's mirror frame is replaced (R401). -/
def State.mirrorReplaced (s : State) (j vpn m : Nat) : State :=
  match s.pte j vpn with
  | none => s
  | some p =>
    let w0 := mkW0 p.v p.prot p.ro true p.live m
    match s.pageState j p, p.touch with
    | .secured, _ => (s.setPte j vpn ⟨w0, mkW1 p.epoch p.acc 0xFFFFFFFF⟩).logDrain j vpn
    | .current, 0 => (s.setPte j vpn ⟨w0, mkW1 (s.oldEpoch j) p.acc 0xFFFFFFFF⟩).logDrain j vpn
    | _, _ => (s.setPte j vpn ⟨w0, mkW1 (s.get (Reg.SN_EPOCH.CUR j)) p.acc 0xFFFFFFFF⟩).put
        (Reg.SN_JOB_STATUS.INCOMPLETE j) 1

/-! ## Page operations -/

/-- The job states in which an operation is legal (R331). -/
def opStates (op st : Nat) : Bool :=
  match op with
  | 1 | 2 => st = 0 || st = 1 || st = 2 || st = 5
  | 3 | 4 => st = 1 || st = 2 || st = 5
  | _ => true

/-- A page entry exists in both copies of a job's table. -/
def State.entriesExist (s : State) (j vpn : Nat) : Bool :=
  (s.entryAt (s.root1 j) vpn).isSome && (s.entryAt (s.root2 j) vpn).isSome

/-- The code of a page operation; 0 where it is accepted. `wait` is set for one that waits its turn. -/
def State.pageOpCode (s : State) (op j vpn arg1 : Nat) (wait : Bool) : Nat :=
  let a : Pte := ⟨arg1, 0⟩
  let p : Pte := (s.pte j vpn).getD ⟨0, 0⟩
  let st := s.jobState j
  let usesArg : Bool := op = 1 || op = 3 || op = 4 || op = 5 || op = 6
  let own : Nat := s.ownerOf a.live
  firstCode [
    (1 ≤ op && op ≤ 7, 0x06),
    (!usesArg || (!bit arg1 63 && bits arg1 48 12 = 0), 0x06),
    (match op with
      | 1 => s.frameExists a.live && (!a.mv || (s.frameExists a.mirror && a.mirror ≠ a.live))
      | 3 => s.frameExists a.live && !(p.mv && a.live = p.mirror)
      | 4 => s.frameExists a.mirror && a.mirror ≠ p.live
      | 5 => s.frameExists a.live
      | 6 => a.live % 32 < 24
      | _ => true, 0x06),
    (s.flag Reg.DEV_STATUS.READY && (wait || s.pageOp.isNone), 0x04),
    (op ≥ 5 || (opStates op st && s.entriesExist j vpn), 0x04),
    (op ≠ 7 || st ≠ 3, 0x04),
    (match op with
      | 1 => !p.v && s.frameFree a.live && (!a.mv || (a.prot && isDdr a.mirror && s.frameFree a.mirror))
      | 2 => p.v
      | 3 => p.v && s.frameFree a.live
      | 4 => p.v && s.frameFree a.mirror && isDdr a.mirror && p.prot
      | 5 => own ≠ 0xD && (8 ≤ own || s.jobState own ≠ 3)
      | _ => true, 0x04)]

/-- The page of a job whose live frame, or mirror frame, is the given one. -/
def State.pageOfFrame (s : State) (j dfn : Nat) (mirror : Bool) : Option Nat :=
  (s.pagesWith j (fun p => if mirror then p.mv && p.mirror = dfn else p.live = dfn)).head?

/-- A frame of memory retires, with its trace record (R338, R339). -/
def State.frameRetired (s : State) (dfn dev off : Nat) : State :=
  let s := s.setOwner dfn 0xC
  let sub := if isDdr dfn then ofBool (bit off 8) * 128 + dev % 16 else pseudoChannel off
  s.corrected (frameIsland dfn) 0x0122 (2 ^ 40 * dfn + 2 ^ 32 * sub + off % 2 ^ 21)

/-- A mirror frame retires: its page takes a mirror from the spare list, or counts as not mirrored where none
is left (R339, R401). -/
def State.replaceMirror (s : State) (j vpn : Nat) : State :=
  let r := s.spare isDdr
  match r.2 with
  | some m => (r.1.giveFrame j m).mirrorReplaced j vpn m
  | none => match r.1.pte j vpn with
    | some p => (r.1.setPte j vpn ⟨mkW0 p.v p.prot p.ro false p.live p.mirror, p.w1⟩).put
        (Reg.SN_JOB_STATUS.INCOMPLETE j) 1
    | none => r.1

/-- A phase of the running migration begins. -/
def State.setPhase (s : State) (o : PageOp) (ph : Nat) : State :=
  { s with pageOp := some { o with op := 3, phase := ph } }.put Reg.MEM_OP_STATUS.PHASE ph

/-- COPY begins: its granules are copied; one that a pending Curtain or a restore of the job meets is abandoned (R333,
R334). -/
def State.beginCopy (s : State) (o : PageOp) : State :=
  let ph := s.get (Reg.SN_JOB_STATUS.PHASE o.job)
  let s := s.setPhase { o with dirty := 0, passes := 0 } 2
  if s.jobState o.job = 3 || (1 ≤ ph && ph ≤ 4) then s.abandonMigration o.job
  else s.copyMem (2 ^ 21 * o.oldDfn) (2 ^ 21 * o.newDfn) (2 ^ 21)

/-- Begin a migration: its phase is zero-fill where the target is `DIRTY`, otherwise COPY (R333). -/
def State.beginMigrate (s : State) (o : PageOp) : State :=
  let dirty := s.ownerOf o.newDfn = 0xE
  let s := s.giveFrame o.job o.newDfn
  if dirty then s.setPhase o 1 else s.beginCopy o

/-- RETIRE_FRAME: what a retirement does, by the frame's owner (R339). -/
def State.retireFrame (s : State) (o : PageOp) (dfn : Nat) : State :=
  let own := s.ownerOf dfn
  if own = 0xE || own = 0xF then s.frameRetired dfn 0 0
  else if own < 8 then
    match s.pageOfFrame own dfn false, s.pageOfFrame own dfn true with
    | some v, _ =>
      let r := s.spare (fun _ => true)
      match r.2 with
      | some n => r.1.beginMigrate { o with job := own, vpn := v, oldDfn := dfn, newDfn := n, retire := true }
      | none => r.1
    | none, some v => (s.replaceMirror own v).frameRetired dfn 0 0
    | none, none => s.frameRetired dfn 0 0
  else s

/-! ## The loss of a stack or a channel (R340, R343, R422) -/

/-- A lost live page: on its mirror if that stands, otherwise on a spare frame; false where the list has run
out. -/
def State.moveLost (s : State) (j vpn : Nat) : State × Bool :=
  match s.pte j vpn with
  | none => (s, true)
  | some p =>
    if p.mv && !s.frameLost p.mirror then
      let s := if p.prot && decide (s.pageState j p = .pending) then s.put (Reg.SN_JOB_STATUS.INCOMPLETE j) 1 else s
      (s.setPte j vpn ⟨mkW0 p.v p.prot p.ro false p.mirror p.mirror, mkW1 (s.oldEpoch j) p.acc 0⟩, true)
    else
      let r := s.spare (fun _ => true)
      match r.2 with
      | some n =>
        let s := (r.1.zeroFrame n).setOwner n j
        let s := if p.prot then s.put (Reg.SN_JOB_STATUS.INCOMPLETE j) 1 else s
        (s.setPte j vpn ⟨mkW0 p.v p.prot p.ro false n p.mirror, p.w1⟩, true)
      | none => (r.1, false)

/-- Move the lost live pages of a job, up to the end of the spare list. -/
def State.moveAll (s : State) (j : Nat) : List Nat → State × Bool
  | [] => (s, true)
  | v :: t =>
    let r := s.moveLost j v
    if r.2 then State.moveAll r.1 j t else r

/-- One job's part of a loss: its live pages move, its lost mirrors are replaced, and it raises the code. The
entries change before the raise, so that `INCOMPLETE` stands at step 1 of the restore (R415, R422). -/
def State.loseJob (s : State) (j code island : Nat) : State :=
  let lives := s.pagesWith j (fun p => s.frameLost p.live)
  let mirrors := s.pagesWith j (fun p => p.mv && s.frameLost p.mirror && !s.frameLost p.live)
  let r := s.moveAll j lives
  let s := mirrors.foldl (fun (t : State) v => t.replaceMirror j v) r.1
  if lives.isEmpty then s
  else s.raiseErr { code := code, island := island, job := some j, noRestore := !r.2 }

/-- A migration that names a lost frame is abandoned. -/
def State.dropLostMigration (s : State) : State :=
  match s.pageOp with
  | some o => if o.op = 3 && (s.frameLost o.oldDfn || s.frameLost o.newDfn) then
      (s.endPageOp o 4).setOwner o.newDfn 0xE else s
  | none => s

/-- A stack is lost (R340). -/
def State.loseStack (s : State) (st : Nat) : State :=
  let f := Reg.MEM_HBM_STATUS.RETIRED
  if bit (s.get f) st then s
  else
    let s := (s.put f (setBit (s.get f) st true)).put Reg.MEM_HBM_STATUS.LOST_EVT 1 |>.pldmEvent 1
    let s := s.zeroShadows (456 + st)
    let s := s.dropLostMigration
    (List.range 8).foldl (fun (t : State) j => t.loseJob j 0x16 (456 + st)) s

/-- A channel is lost (R343). -/
def State.loseChannel (s : State) (ch : Nat) : State :=
  let f := Reg.MEM_DDR_STATUS.RETIRED
  if bit (s.get f) ch then s
  else
    let s := (s.put f (setBit (s.get f) ch true)).put Reg.MEM_DDR_STATUS.LOST_EVT 1 |>.pldmEvent 1
    let s := s.zeroShadows (524 + ch)
    let s := s.dropLostMigration
    (List.range 8).foldl (fun (t : State) j => t.loseJob j 0x10 (524 + ch)) s

/-- Start a page operation that its checks accept (R331, R332). A frame named by it is given at once; the
page's entry changes when the operation completes. -/
def State.startPageOp (s : State) (op j vpn arg1 : Nat) (entry : Option Nat) : State :=
  let a : Pte := ⟨arg1, 0⟩
  let p : Pte := (s.pte j vpn).getD ⟨0, 0⟩
  let o : PageOp := { op := op, job := j, vpn := vpn, arg1 := arg1, oldDfn := p.live, newDfn := a.live, entry := entry }
  let s := { s with pageOp := some o }.put Reg.MEM_OP_STATUS.BUSY 1
  let fill (t : State) (ds : List Nat) : State :=
    let d := ds.any (fun x => t.ownerOf x = 0xE)
    (ds.foldl (fun (u : State) x => u.giveFrame j x) t).put Reg.MEM_OP_STATUS.PHASE (ofBool d)
  match op with
  | 1 => fill s (if a.mv then [a.live, a.mirror] else [a.live])
  | 3 => s.beginMigrate o
  | 4 => fill s [a.mirror]
  | 5 => s.retireFrame o a.live
  | 6 => s.loseStack (a.live % 32)
  | 7 => s.flushAccess j
  | _ => s

/-- A write of `MEM_OP_CMD` (R331, R332). -/
def State.pageCmd (s : State) (op : Nat) : State :=
  let j := s.get Reg.MEM_OP_ARG0.JOB
  let vpn := s.get Reg.MEM_OP_ARG0.VPN
  let arg1 := s.get Reg.MEM_OP_ARG1.W
  let code := s.pageOpCode op j vpn arg1 false
  if code = 0 then s.startPageOp op j vpn arg1 none
  else s.reject code 0xC00010 (if op = 5 ∨ op = 6 then none else some j)

/-- `MAP` (R331). -/
def execMap (s : State) : Ans := .next (s.barWrite (fun t => t.pageCmd 1))

/-- `UNMAP` (R331). -/
def execUnmap (s : State) : Ans := .next (s.barWrite (fun t => t.pageCmd 2))

/-- `MIGRATE` (R331, R333). -/
def execMigrate (s : State) : Ans := .next (s.barWrite (fun t => t.pageCmd 3))

/-- `SET_MIRROR` (R331). -/
def execSetMirror (s : State) : Ans := .next (s.barWrite (fun t => t.pageCmd 4))

/-- `RETIRE_FRAME` (R331, R339). -/
def execRetireFrame (s : State) : Ans := .next (s.barWrite (fun t => t.pageCmd 5))

/-- `RETIRE_STACK` (R331, R340). -/
def execRetireStack (s : State) : Ans := .next (s.barWrite (fun t => t.pageCmd 6))

/-- `CTR_FLUSH` (R331, R335). -/
def execCtrFlush (s : State) : Ans := .next (s.barWrite (fun t => t.pageCmd 7))

/-- `MIGRATE_PHASE_DONE` (R333): COPY follows zero-fill, and SETTLE follows COPY. In SETTLE it is a pass that is due: the
dirty granules are copied again, up to three times; where 4 or fewer remain dirty, or three passes are made, SWITCH
follows, whose granules are copied when the operation completes. -/
def State.phaseDone (s : State) : State :=
  match s.pageOp with
  | some o =>
    if o.op ≠ 3 then s
    else match o.phase with
      | 1 => s.beginCopy o
      | 2 => s.setPhase o 3
      | 3 => if popCount 32 o.dirty ≤ 4 || 3 ≤ o.passes then s.setPhase o 4
          else (s.copyGranules o.oldDfn o.newDfn o.dirty).setPhase { o with dirty := 0, passes := o.passes + 1 } 3
      | _ => s
  | none => s

/-- `MIGRATE_PHASE_DONE`. -/
def execMigratePhaseDone (s : State) : Ans := .next (if s.pairsFailed then s else s.phaseDone)

/-- The cached counts of a page, by Ring. -/
def State.countsOf (s : State) (j vpn : Nat) : List (Nat × Nat) :=
  s.tlb.filter (fun e => e.1 / 2 ^ 31 % 8 = j && e.1 % 2 ^ 31 = vpn)

/-- Drop every Ring's cached translation of a page: its own whole units are added, the rest is discarded (R335). -/
def State.evictPage (s : State) (j vpn : Nat) : State :=
  let es := s.countsOf j vpn
  let s := { s with tlb := s.tlb.filter (fun e => !es.contains e) }
  es.foldl (fun (t : State) e => t.addUnits j vpn (e.2 / 1024)) s

/-- A page operation gives up a frame: it becomes `DIRTY`, but for one that has retired (R332, R339). -/
def State.releaseFrame (s : State) (dfn : Nat) : State := if s.ownerOf dfn = 0xC then s else s.setOwner dfn 0xE

/-- A page operation is ready to complete: a migration is in SWITCH. -/
def PageOp.ready (o : PageOp) : Bool := o.op ≠ 3 || o.phase = 4

/-- The entry changes of a completing page operation, and the frames it releases (R331 to R333). -/
def State.commitPageOp (s : State) (o : PageOp) : State :=
  let s := if o.op ≤ 4 then s.evictPage o.job o.vpn else s
  let a : Pte := ⟨o.arg1, 0⟩
  let p : Pte := (s.pte o.job o.vpn).getD ⟨0, 0⟩
  match o.op with
  | 1 => s.setPte o.job o.vpn
      ⟨mkW0 true a.prot a.ro a.mv a.live (if a.mv then a.mirror else 0), mkW1 (s.get (Reg.SN_EPOCH.CUR o.job)) 0 0⟩
  | 2 =>
    let s := (s.setPte o.job o.vpn ⟨mkW0 false p.prot p.ro p.mv p.live p.mirror, p.w1⟩).releaseFrame p.live
    if p.mv then s.releaseFrame p.mirror else s
  | 3 =>
    let s := s.copyGranules o.oldDfn o.newDfn o.dirty
    let s := s.setPte o.job o.vpn ⟨mkW0 p.v p.prot p.ro p.mv o.newDfn p.mirror, mkW1 p.epoch 0 p.touch⟩
    if o.retire then s.frameRetired o.oldDfn 0 0 else s.releaseFrame o.oldDfn
  | 4 =>
    let s := s.mirrorReplaced o.job o.vpn a.mirror
    if p.mv then s.releaseFrame p.mirror else s
  | _ => s

/-- `PAGE_OP_DONE` (R332). -/
def execPageOpDone (s : State) : Ans :=
  .next (match s.pageOp with
    | some o => if o.ready && !s.pairsFailed then (s.commitPageOp o).endPageOp o 0 else s
    | none => s)

/-! ## Translation, zero-fill and the scrub -/

/-- The Ring segment island that reports a Ring's page faults (log 45). -/
def ringIsland (r : Nat) : Nat := 408 + 12 * r

/-- `TRANSLATION` (R325, R327, R329, R335): the device physical address stands in `mmioData`. -/
def State.translate (s : State) (j ring va len : Nat) (write bad : Bool) : State :=
  let code := s.accessCode j va write bad
  if code ≠ 0 then s.islandFault (ringIsland ring) code (if code = 0x0A then faultPayload 0 va else 0) (some j)
  else
    let live := 2 ^ 21 * ((s.pte j (bits va 21 31) bad).getD ⟨0, 0⟩).live + bits va 0 21
    { s.countAccess ring j va len with mmioData := if write then live else (s.readAddr j va bad).getD live }

/-- `TRANSLATION`: an access of at least one byte, inside one page of the 2^52-byte space. -/
def execTranslation (j ring va len : Nat) (write bad : Bool) (s : State) : Ans :=
  inUnits (j < 8 && ring < 4 && va < 2 ^ 52 && 1 ≤ len && bits va 0 21 + len ≤ 2 ^ 21)
    (.next (s.translate j ring va len write bad))

/-- `ZERO_FILL` (R330). -/
def execZeroFill (dfn : Nat) (s : State) : Ans :=
  inUnits (s.frameExists dfn) (.next (if !s.pairsFailed && s.ownerOf dfn = 0xE then (s.zeroFrame dfn).setOwner dfn 0xF else s))

/-- `PATROL_SCRUB` (R337): errors it meets are commands of their own. -/
def execPatrolScrub (dfn : Nat) (s : State) : Ans := inUnits (s.frameExists dfn) (.next s)

/-- `HBM_REFRESH` (R336): no state of the block changes. -/
def execHbmRefresh (st : Nat) (s : State) : Ans := inUnits (st < 24) (.next s)

/-- `DDR5_REFRESH` (R342): no state of the block changes. -/
def execDdr5Refresh (ch : Nat) (s : State) : Ans := inUnits (ch < 8) (.next s)

/-! ## Memory errors -/

/-- The payload of a memory event (R338). -/
def memPayload (dfn dev off : Nat) : Nat :=
  let sub := if isDdr dfn then ofBool (bit off 8) * 128 + dev % 16 else pseudoChannel off
  dfn * 2 ^ 40 + 2 ^ 32 * sub + off % 2 ^ 21

/-- `HBM_CE` or `DDR_CE` of a frame's stack or channel. -/
def ceFld (dfn : Nat) : Fld := if isDdr dfn then Reg.DDR_CE.N (ddrChannel dfn) else Reg.HBM_CE.N (stackOf dfn)

/-- `MEM_CORRECTED_ERROR` (R338, R380). -/
def execMemCorrectedError (dfn dev off : Nat) (s : State) : Ans :=
  inUnits (s.frameExists dfn && off < 2 ^ 21)
    (.next ((s.inc (ceFld dfn) 1).corrected (frameIsland dfn) (if isDdr dfn then 0x0121 else 0x0120)
      (memPayload dfn dev off)))

/-- The pseudo-channels of a stack, or the devices of a channel, with an uncorrectable error in the last
2^30 st (R340, R343). -/
def State.badPlaces (s : State) (unit now : Nat) : List Nat :=
  ((s.memErrs.filter (fun e => e.1 = unit && decide (now < e.2.2 + 2 ^ 30))).map (fun e => e.2.1)).eraseDups

/-- What an uncorrectable error in a frame makes of the frame (R339, R334). The `SWITCH` of a live page takes place
at the job's restore. -/
def State.uncorrRetire (s : State) (dfn dev off : Nat) : State :=
  let own := s.ownerOf dfn
  if own = 0xE || own = 0xF then s.frameRetired dfn dev off
  else if own < 8 then
    match s.pageOfFrame own dfn false, s.pageOfFrame own dfn true with
    | some _, _ => { s.frameRetired dfn dev off with retiring := s.retiring ++ [dfn] }
    | none, some v => (s.replaceMirror own v).frameRetired dfn dev off
    | none, none => s.frameRetired dfn dev off
  else if own = 0xD then s.frameRetired dfn dev off
  else s

/-- The job that an uncorrectable error is charged to: that of the access, or the frame's owner (R339). -/
def State.errJob (s : State) (dfn : Nat) (job : Option Nat) : Option Nat :=
  match job with
  | some j => some j
  | none => if s.ownerOf dfn < 8 then some (s.ownerOf dfn) else none

/-- `MEM_UNCORRECTABLE` (R334, R339, R340, R343, R594). -/
def State.memUncorr (s : State) (dfn dev off : Nat) (job : Option Nat) (op : Option OpRef) : State :=
  let unit := frameIsland dfn
  let now := s.stamp unit
  let s := { s with memErrs := s.memErrs ++ [(unit, if isDdr dfn then dev % 16 + 16 * ofBool (bit off 8) else pseudoChannel off, now)] }
  let isTarget := match s.pageOp with
    | some o => o.op = 3 && o.newDfn = dfn
    | none => false
  let s := if isTarget then (match s.pageOp with
      | some o => (s.endPageOp o 4).frameRetired dfn dev off
      | none => s)
    else
      let j := s.errJob dfn job
      let s := match s.pageOp with
        | some o => if o.op = 3 && o.oldDfn = dfn then (s.endPageOp o 4).setOwner o.newDfn 0xE else s
        | none => s
      let s := s.uncorrRetire dfn dev off
      s.islandFault unit 0x10 0 j op
  if 4 ≤ (s.badPlaces unit now).length then
    (if isDdr dfn then s.loseChannel (ddrChannel dfn) else s.loseStack (stackOf dfn))
  else s

/-- `MEM_UNCORRECTABLE`. -/
def execMemUncorrectable (dfn dev off : Nat) (job : Option Nat) (op : Option OpRef) (s : State) : Ans :=
  inUnits (s.frameExists dfn && off < 2 ^ 21 && job.all (· < 8) && opRefOk op) (.next (s.memUncorr dfn dev off job op))

/-- `STACK_LOST` (R340): the stack's PHY or controller fails. -/
def execStackLost (st : Nat) (s : State) : Ans := inUnits (st < 24) (.next (s.loseStack st))

/-- `DDR_CHANNEL_LOST` (R343): the channel's module or PHY fails. -/
def execDdrChannelLost (ch : Nat) (s : State) : Ans := inUnits (ch < 8) (.next (s.loseChannel ch))

/-- `DDR_ALERT_RETRY` (R338, R342, R347): the retry of a command of the channel; after 8 failed retries of that one,
`ECC_UNCORR`. A command is named by a number that the controller gives no other. -/
def State.alertRetry (s : State) (ch cmd dfn dev off : Nat) (job : Option Nat) (op : Option OpRef) : State :=
  let k := 8 * cmd + ch
  let n := Tab.get 0 s.alerts k
  if 8 ≤ n then { s with alerts := Tab.set 0 s.alerts k 0 }.memUncorr dfn dev off job op
  else
    let s := { s with alerts := Tab.set 0 s.alerts k (n + 1) }
    (s.inc (Reg.DDR_CE.N ch) 1).corrected (524 + ch) 0x0123 (memPayload dfn dev off)

/-- `DDR_ALERT_RETRY`: of a command to a frame of the channel. -/
def execDdrAlertRetry (ch cmd dfn dev off : Nat) (job : Option Nat) (op : Option OpRef) (s : State) : Ans :=
  inUnits (ch < 8 && s.frameExists dfn && isDdr dfn && ddrChannel dfn = ch && off < 2 ^ 21 && job.all (· < 8) && opRefOk op)
    (.next (s.alertRetry ch cmd dfn dev off job op))

end Sys2Proof.Machine
end

