-- ==== Sys2Proof/Machine/SafetyNet.lean ====
section
/-! DEFINITION. The Safety Net: Curtains from their request to their securing, the record, the mirror engine, the
restore, and the recovery controllers (R396 to R425). -/

namespace Sys2Proof.Machine

/-- The island of the Net Controller, which runs every Curtain and restore (R424). -/
def netIsland : Nat := 536

/-- The Net Controller's replica. -/
def State.netNow (s : State) : Nat := s.stamp netIsland

/-- Milliseconds in st, rounded up. -/
def msToSt (ms : Nat) : Nat := (2 ^ 30 * ms + 999) / 1000

/-- `PHASE` of a job (R404). -/
def State.phase (s : State) (j : Nat) : Nat := s.get (Reg.SN_JOB_STATUS.PHASE j)

/-- The job's cascade group; 0 for a local job. -/
def State.group (s : State) (j : Nat) : Nat := s.get (Reg.SN_CFG.GROUP j)

/-- The device coordinates the job's Curtains (R404). -/
def State.coordinates (s : State) (j : Nat) : Bool := s.group j = 0 || s.isSystemMaster

/-- `GEN` of a job (R417). -/
def State.gen (s : State) (j : Nat) : Nat := s.get (Reg.SN_JOB_STATUS.GEN j)

/-- Send a message of a job's Curtain or restore down the time tree; a local job sends none. -/
def State.tellParts (s : State) (j kind body : Nat) : State :=
  if s.group j = 0 then s else s.sendDown (s.group j) (s.gen j) kind body

/-! ## Requests (R418, R428) -/

/-- The code of an `SN_REQ` write. -/
def State.snReqCode (s : State) (j tm : Nat) : Nat :=
  firstCode [
    (s.netNow + (if s.group j = 0 then 2 ^ 14 else 2 ^ 20) ≤ tm, 0x06),
    (s.flag (Reg.SN_CFG.EN j) && s.jobState j = 2 && s.coordinates j && (s.phase j = 0 || s.phase j = 5), 0x04)]

/-- A requested T less than `MIN_MS` after the last T_c is moved to that instant. -/
def State.clampT (s : State) (j tm : Nat) : Nat :=
  if s.get (Reg.SN_COMMITS.N j) = 0 then tm
  else max tm (s.get (Reg.SN_LAST_T.T j) + msToSt (s.get Reg.SN_CLAMP.MIN_MS))

/-- Request a Curtain; a later request takes an earlier one's place while it is deferred (log 47). -/
def State.requestCurtain (s : State) (j tm : Nat) : State :=
  s.setSn j { s.snOf j with req := some (s.clampT j tm) }

/-- A write of `SN_REQ`. -/
def State.writeSnReq (s : State) (j tm : Nat) : State :=
  let code := s.snReqCode j (tm % 2 ^ 64)
  if code = 0 then s.requestCurtain j (tm % 2 ^ 64) else s.reject code (0x500008 + j * 0x10000) (some j)

/-- `SN_REQ` (R418). -/
def execSnReq (j tm : Nat) (s : State) : Ans :=
  inUnits (j < 8) (.next (s.barWrite (fun t => t.writeSnReq j tm)))

/-- `MAX_MS` has passed since the last commit, and no Curtain is requested or in progress. -/
def State.maxDue (s : State) (j : Nat) : Bool :=
  !s.pairsFailed && s.jobState j = 2 && s.coordinates j && (s.phase j = 0 || s.phase j = 5) && (s.snOf j).req.isNone &&
    decide (s.get (Reg.SN_LAST_T.T j) + msToSt (s.get Reg.SN_CLAMP.MAX_MS) ≤ s.netNow)

/-- `CURTAIN_MAX_INTERVAL` (R418). -/
def execCurtainMaxInterval (j : Nat) (s : State) : Ans :=
  inUnits (j < 8) (.next (if s.maxDue j then s.requestCurtain j (s.netNow + 2 ^ 20) else s))

/-! ## The phases of a Curtain (R402 to R406) -/

/-- A Curtain may begin (R403, R412): the last one is secured, its drain log empty, and no page resolves. The lock states
of the parts are tested at T. -/
def State.curtainMay (s : State) (j : Nat) : Bool :=
  s.jobState j = 2 && s.phase j = 0 && (s.snOf j).drain.isEmpty && !s.flag (Reg.SN_JOB_STATUS.RESOLVING j) &&
    decide ((s.get (Reg.SN_EPOCH.CUR j) + 1 + 2 ^ 16 - (s.snOf j).walkEpoch) % 2 ^ 16 < 32768)

/-- A part enters ARMED: it waits for its replica to reach T; a migration in COPY or SETTLE is abandoned (R334). The drain
markers that came after an ARM it has deferred stay counted. -/
def State.armPart (s : State) (j tm : Nat) : State :=
  let s := s.abandonMigration j
  let x := s.snOf j
  (s.setSn j { x with
    req := none, armDue := none, t := tm, readyAt := none, drained := if x.armDue.isSome then x.drained else []
    sentMarkers := false, beatHold := false }).put
    (Reg.SN_JOB_STATUS.PHASE j) 1

/-- `CURTAIN_ARM` (R403, R404): the coordinator begins a Curtain that is requested, and a part the one whose ARM it has
deferred. -/
def State.curtainArm (s : State) (j : Nat) : State :=
  let x := s.snOf j
  if s.pairsFailed || !s.curtainMay j then s
  else match x.armDue with
    | some tm => s.armPart j tm
    | none => match x.req with
      | some tm => if s.coordinates j then (s.tellParts j 1 tm).armPart j tm else s
      | none => s

/-- `CURTAIN_ARM`. -/
def execCurtainArm (j : Nat) (s : State) : Ans := inUnits (j < 8) (.next (s.curtainArm j))

/-- Every context that a Curtain stopped proceeds: its `curtain` completes, its `beat` ends. -/
def State.releaseCtxs (s : State) (j : Nat) : State :=
  (s.jobCtxs j).foldl (fun (t : State) p =>
    let x := t.ctxOf p.1 p.2
    if x.curtain.isSome then
      ((t.setCtx p.1 p.2 { x with curtain := none }).put (Reg.CTX_STATUS.STATE p.1 p.2) 1).advance p.1 p.2
    else if s.heldBeat j p.1 p.2 then t.wake p.1 p.2
    else t) s

/-- A Curtain is abandoned and every stopped context proceeds as if none were pending (R406). -/
def State.giveUpCurtain (s : State) (j : Nat) : State :=
  let tell := s.coordinates j
  let s := (s.releaseCtxs j).abandonCurtain j
  if tell then s.tellParts j 4 0 else s

/-- `CURTAIN_ABANDON` (R406): a Curtain in ARMED, QUIESCING or READY. -/
def execCurtainAbandon (j : Nat) (s : State) : Ans :=
  inUnits (j < 8) (.next (if !s.pairsFailed ∧ s.jobState j = 2 ∧ 1 ≤ s.phase j ∧ s.phase j ≤ 3 then s.giveUpCurtain j else s))

/-- `CURTAIN_T_REACHED` (R404, R406): a part of a cascade job that is not LOCKED at T abandons. -/
def execCurtainTReached (j : Nat) (s : State) : Ans :=
  inUnits (j < 8) (.next (
    if s.jobState j = 2 ∧ s.phase j = 1 ∧ (s.snOf j).t ≤ s.netNow then
      (if s.group j = 0 ∨ s.lockState = 2 then s.put (Reg.SN_JOB_STATUS.PHASE j) 2 else s.giveUpCurtain j)
    else s))

/-- A migration of the job is in SWITCH, which completes before a quiesce does (R334). -/
def State.switching (s : State) (j : Nat) : Bool :=
  match s.pageOp with
  | some o => o.op = 3 && o.job = j && o.phase = 4
  | none => false

/-- The job is quiesced (R402). -/
def State.quiesced (s : State) (j : Nat) : Bool :=
  (s.jobCtxs j).all (fun p => s.atCurtain j p.1 p.2) && !s.switching j

/-- The ports that are UP or HALF. -/
def State.livePorts (s : State) : List Nat := (List.range 16).filter s.portUp

/-- A drain marker of a group (R450). -/
def State.markerPacket (s : State) (group gen q : Nat) : Packet :=
  { dst := q, src := s.get Reg.GL_DEV_ID.ID, type := 7, lane := 5, group := group, gen := gen,
    stamp := s.stamp netIsland % 2 ^ 24 }

/-- Send a part's drain marker on every port that is UP or HALF, once. -/
def State.sendMarkers (s : State) (j : Nat) : State :=
  if s.group j = 0 || (s.snOf j).sentMarkers then s
  else
    let s := s.setSn j { s.snOf j with sentMarkers := true }
    s.livePorts.foldl (fun (t : State) p =>
      t.sendOn p (t.markerPacket (t.group j) (t.gen j) (t.get (Reg.GL_PORT_STATUS.PEER p)))) s

/-- What a group's children in the time tree have reported: how many of them, and how many parts they count. -/
def State.relayOf (s : State) (group : Nat) : Nat × Nat := Tab.get (0, 0) s.relay group

/-- Every child in the time tree has reported READY. -/
def State.allReported (s : State) (group : Nat) : Bool := s.timeKids.length ≤ (s.relayOf group).1

/-- The job of a group, if one is bound on the device. -/
def State.jobOfGroup (s : State) (group : Nat) : Option Nat :=
  (List.range 8).find? (fun j => s.group j = group && s.get (Reg.JOB_CTX_MASK.MASK j) ≠ 0)

/-- Pass READY to the parent once the device is ready and all its children have reported (R449). -/
def State.passReady (s : State) (group gen : Nat) : State :=
  let own : Option Nat := match s.jobOfGroup group with
    | some j => if s.phase j = 3 then some 1 else none
    | none => some 0
  match own with
  | some n =>
    if s.allReported group && !s.isSystemMaster then
      (let r := s.relayOf group
       { s with relay := Tab.set (0, 0) s.relay group (0, 0) }.sendUp group gen 2 (n + r.2))
    else s
  | none => s

/-- `CURTAIN_READY` (R404, R450). -/
def State.curtainReady (s : State) (j : Nat) : State :=
  if !s.pairsFailed && s.jobState j = 2 && s.phase j = 2 && s.quiesced j && Tab.get 0 s.glOut j = 0 then
    let s := s.sendMarkers j
    if s.group j = 0 || s.livePorts.all (fun p => (s.snOf j).drained.contains p) then
      (let s := (s.jobCtxs j).foldl (fun (t : State) p =>
          if t.get (Reg.CTX_STATUS.STATE p.1 p.2) = 4 then t else t.put (Reg.CTX_STATUS.STATE p.1 p.2) 6) s
       let s := (s.setSn j { s.snOf j with readyAt := some s.netNow }).put (Reg.SN_JOB_STATUS.PHASE j) 3
       if s.group j = 0 then s else s.passReady (s.group j) (s.gen j))
    else s
  else s

/-- `CURTAIN_READY`. -/
def execCurtainReady (j : Nat) (s : State) : Ans := inUnits (j < 8) (.next (s.curtainReady j))

/-! ## The record (R407, R408) -/

/-- The register fields that a record saves and a restore puts back. -/
def State.savedFlds (s : State) (j : Nat) : List Fld :=
  (s.jobCtxs j).flatMap (fun p =>
    [Reg.CTX_PC.ADDR p.1 p.2, Reg.CTX_STATUS.STATE p.1 p.2, Reg.CTX_STATUS.BLOCK p.1 p.2,
     Reg.CTX_WAIT.FLAG p.1 p.2, Reg.CTX_WAIT.SINCE p.1 p.2] ++
    (List.range 64).map (Reg.CTX_FLAG.COUNT p.1 p.2)) ++
  (List.range 256).map (Reg.JOB_FLAG.COUNT j) ++
  [Reg.SCHED_STATUS.SEQ_NEW j, Reg.SCHED_STATUS.AT_END j, Reg.SCHED_STATUS.REMAIN j, Reg.SCHED_STATUS.PTR j] ++
  (List.range 16).flatMap (fun x => [Reg.MB_CNT.TAKEN j x, Reg.MB_CNT.ARR j x, Reg.CAL_COST.COST j x]) ++
  [Reg.CAL_BEAT.N j, Reg.CAL_STATUS.OVR_RUN j, Reg.CAL_STATUS.CLOSED j, Reg.STEP_SEQ.SEQ j,
   Reg.STEP_NF.NF_EVT j, Reg.STEP_NF.SKIP_EVT j, Reg.STEP_NF.DONE j, Reg.STEP_NF.SKIP j, Reg.STEP_NF.GLOBAL j, Reg.STEP_NF.LOCAL j] ++
  (List.range 2).flatMap (fun i => [Reg.STEP_SIZE.HI j i, Reg.STEP_SIZE.LO j i, Reg.STEP_STAGE.HI j i,
    Reg.STEP_STAGE.LO j i, Reg.TB_KEY.KEY j i]) ++
  (List.range 256).flatMap (fun t => [Reg.SCALE.NEXT j t, Reg.SCALE.PEND j t, Reg.SCALE.RND j t, Reg.SCALE.AUTO j t,
    Reg.SCALE.SAT j t, Reg.SCALE.CLASS j t, Reg.SCALE.EXP j t]) ++
  [Reg.TB_DRAWS.COUNT j] ++ (List.range 8).map (Reg.SN_LDR.REC j)

/-- The loaded banks of the slots that a job's contexts own, in each enabled core by its logical index, by number
64 × core + 2 × slot + bank (R258, R408). -/
def State.loadedBanks (s : State) (j : Nat) : List (Nat × Tab Byte) :=
  (s.jobCtxs j).flatMap (fun p => (s.coresOf p.1 p.2).flatMap (fun cx => (s.slotsOf p.1 p.2).flatMap (fun n =>
    (List.range 2).filterMap (fun b =>
      let f := if b = 0 then Reg.RM_SFN.LOADED0 p.1 else Reg.RM_SFN.LOADED1 p.1
      if bit (s.get f) n then
        some (64 * (16 * p.1 + cx) + 2 * n + b,
          Tab.slice (s.core p.1 (s.view p.1 cx).cx).tables (8192 * n + 4096 * b) 4096)
      else none))))

/-- The bits of a troupe's slot registers that belong to a context. -/
def State.slotMask (s : State) (g c : Nat) : Nat := (s.slotsOf g c).foldl (fun a n => setBit a n true) 0

/-- The slot registers of the job's troupes: three fields of each, keyed 4 × (2 × troupe + context). -/
def State.slotRegs (s : State) (j : Nat) : List (Nat × Nat) :=
  (s.jobCtxs j).flatMap (fun p =>
    let m := s.slotMask p.1 p.2
    let k := 4 * (2 * p.1 + p.2)
    [(k, Nat.land (s.get (Reg.RM_SFN.LIVE p.1)) m), (k + 1, Nat.land (s.get (Reg.RM_SFN.LOADED0 p.1)) m),
     (k + 2, Nat.land (s.get (Reg.RM_SFN.LOADED1 p.1)) m)])

/-- The lowest-numbered enabled core of a context. -/
def State.lowCore (s : State) (g c : Nat) : Nat := (s.coresOf g c).headD 0

/-- `LCNT` and `LADDR` of the contexts that stand at a `curtain`, by context number, lower troupe and context
first. -/
def State.loaderUses (s : State) (j : Nat) : List (Nat × Nat × Nat) :=
  (s.jobCtxs j).filterMap (fun p => (s.ctxOf p.1 p.2).curtain.map (fun l => (2 * p.1 + p.2, l.1, l.2)))

/-- Copy the data-loader records into `SN_LDR`; of several contexts the last one's value stays (R101, R407). -/
def State.gatherLoaders (s : State) (j : Nat) : State :=
  (s.loaderUses j).foldl (fun (t : State) u => (List.range u.2.1).foldl (fun (t : State) n =>
    let g := u.1 / 2
    t.put (Reg.SN_LDR.REC j n) (t.spNat g (t.lowCore g (u.1 % 2)) (u.2.2 + 8 * n) 8)) t) s

/-- The Curtain record of a job as it stands; `uses` are the contexts that stood at a `curtain`. -/
def State.makeRecord (s : State) (j : Nat) (uses : List (Nat × Nat × Nat)) : Record :=
  { ctxs := (s.jobCtxs j).map (fun p => (2 * p.1 + p.2, s.ctxOf p.1 p.2))
    fields := (s.savedFlds j).map (fun f => (f.key, s.get f)) ++ (s.slotRegs j)
    job := s.jobS j
    carry := (s.jobCtxs j).map (fun p => (2 * p.1 + p.2, s.ring p.1 p.2))
    spotter := Tab.slice s.spotter (spotKey j 0 0 0) 7040
    tables := s.loadedBanks j
    loaders := uses
    cqs := (List.range 32).map (fun x =>
      (s.get (cqFlds (jobQueue j x)).put, s.get (cqFlds (jobQueue j x)).get))
    draws := s.get (Reg.TB_DRAWS.COUNT j)
    step := s.get (Reg.STEP_SEQ.SEQ j) }

/-! ## The commit (R405) -/

/-- Step a job's epochs at a commit (R397). -/
def State.stepEpochs (s : State) (j : Nat) : State :=
  let s := s.inc (Reg.SN_EPOCH.CUR j) 1
  s.put (Reg.SN_EPOCH.BASE j) (s.get (Reg.SN_EPOCH.CUR j))

/-- A granule copied or a record committed is also sent to the buddy, which owes its acknowledgement (R413). The layout of its
packet is the model's (DESIGN CHOICE, log 97). -/
def State.toBuddy (s : State) (j ofs : Nat) (data : List Byte) : State :=
  let dst := s.boot.buddy
  if !s.flag (Reg.SN_CFG.BUDDY j) || dst = 0xFFFF then s
  else
    let s := s.setSn j { s.snOf j with owed := (s.snOf j).owed + 1 }
    let k : Packet := { dst := dst, type := 6, lane := 4, group := s.group j, gen := s.gen j,
                        stamp := s.stamp netIsland % 2 ^ 24, ofs := ofs, data := data }
    (s.sendPacket k).getD s

/-- The granules of a set of a page go to the buddy. -/
def State.granulesToBuddy (s : State) (j vpn live set : Nat) : State :=
  (List.range 32).foldl (fun (t : State) g => if bit set g then
    t.toBuddy j (32 * vpn + g) ((List.range 65536).map (fun i => t.memByte (2 ^ 21 * live + 65536 * g + i))) else t) s

/-- A committed record goes to the buddy: the values of its registers. -/
def State.recordToBuddy (s : State) (j half : Nat) (r : Record) : State :=
  s.toBuddy j (2 ^ 63 + half) (r.fields.flatMap (fun e => leBytes 8 e.2))

/-- The logs change places (R410); with `LOG_OVF` the securing walks the page table. Entries that the old drain log still
holds stand at the end of the new one (log 43). -/
def State.turnLogs (s : State) (j : Nat) : State :=
  let x := s.snOf j
  let walk := s.flag (Reg.SN_JOB_STATUS.LOG_OVF j)
  let drain := if walk then s.pagesWith j (fun p => p.prot && p.mv) else x.fill
  let s := s.setSn j { x with fill := [], drain := drain, half := 1 - x.half, drainLen := x.fill.length,
                              walking := walk, wholeCopy := false, owed := 0 }
  x.drain.foldl (fun (t : State) v => t.logDrain j v) s

/-- The queues of a job that its Curtain flushes (R292): its own, and its trace queue where that has a backing area. -/
def State.flushQueues (s : State) (j : Nat) : State :=
  ((List.range 32).foldl (fun (t : State) x => t.cqFlush (jobQueue j x)) s).cqFlush (1 + j)

/-- A part commits at T_c, its queues being flushed. What the caches hold goes to memory before the epoch steps, so that it
is part of the Curtain image; the record holds the state in which the contexts are released. -/
def State.commitCurtain (s : State) (j tc : Nat) : State :=
  let uses := s.loaderUses j
  let s := ((s.flushAccess j).stepEpochs j).gatherLoaders j |>.releaseCtxs j
  let rec_ := s.makeRecord j uses
  let half := 1 - s.get (Reg.SN_JOB_STATUS.REC j)
  let x := s.snOf j
  let s := s.setSn j { x with
    recs := Tab.set none x.recs half (some rec_), tc := tc, heldAdds := [], drained := [], sentMarkers := false
    readyAt := none, beatHold := false, restarts := 0 }
  let s := ((s.put (Reg.SN_JOB_STATUS.REC j) half).turnLogs j).recordToBuddy j half rec_
  let s := s.put (Reg.SN_JOB_STATUS.INCOMPLETE j) 0
  let s := x.heldAdds.foldl (fun (t : State) a => t.applyHeld j a) s
  let s := { s with relay := Tab.set (0, 0) s.relay (s.group j) (0, 0) }
  let s := ((s.put (Reg.SN_LAST_T.T j) tc).put (Reg.SN_JOB_STATUS.COMMIT_EVT j) 1).inc (Reg.SN_COMMITS.N j) 1
  let s := s.put (Reg.SN_COST.QUIESCE j) (min ((tc - x.t) * 10 ^ 6 / 2 ^ 30) (2 ^ 32 - 1))
  s.put (Reg.SN_JOB_STATUS.PHASE j) 5

/-- The coordinator has every READY report and names T_c, at least 2^16 st after the last (R404). -/
def State.mayCommit (s : State) (j tc : Nat) : Bool :=
  !s.pairsFailed && s.jobState j = 2 && s.phase j = 3 && s.coordinates j && (s.group j = 0 || s.allReported (s.group j)) &&
    (match (s.snOf j).readyAt with
      | some t => decide (t + 2 ^ 16 ≤ tc)
      | none => false)

/-- `CURTAIN_COMMIT` (R404, R405): the coordinator sends COMMIT(T_c); at T_c the part commits. -/
def State.curtainCommit (s : State) (j tc : Nat) : State :=
  let s := if s.mayCommit j tc then
      ((s.tellParts j 3 tc).setSn j { s.snOf j with tc := tc }).put (Reg.SN_JOB_STATUS.PHASE j) 4
    else s
  if s.jobState j = 2 ∧ s.phase j = 4 ∧ (s.snOf j).tc ≤ s.netNow then
    let t := s.flushQueues j
    -- a flush that a translation refuses stops the job before the record is written (R329)
    if t.cqFault.isSome then t.settleCq else t.commitCurtain j (s.snOf j).tc
  else s

/-- `CURTAIN_COMMIT`. -/
def execCurtainCommit (j tc : Nat) (s : State) : Ans := inUnits (j < 8) (.next (s.curtainCommit j tc))

/-! ## Securing (R410 to R413) -/

/-- The mirror engine serves one page: whole under R411; otherwise the `TOUCH` granules of an old pending page. -/
def State.mirrorPage (s : State) (j vpn : Nat) : State :=
  match s.pte j vpn with
  | none => s
  | some p =>
    if !p.v || !p.prot || !p.mv then s
    else if (s.snOf j).wholeCopy then
      s.copyMem (2 ^ 21 * p.live) (2 ^ 21 * p.mirror) (2 ^ 21)
    else if s.pageState j p = .pending then
      ((s.copyGranules p.live p.mirror p.touch).setPte j vpn ⟨p.w0, mkW1 p.epoch p.acc 0⟩).granulesToBuddy j vpn p.live p.touch
    else s

/-- `MIRROR_ENGINE_STEP` (R401, R410, R411): the next entry of the drain log, in whatever phase it was appended. -/
def execMirrorEngineStep (j : Nat) (s : State) : Ans :=
  inUnits (j < 8) (.next (match (s.snOf j).drain with
    | v :: t => if s.pairsFailed then s else (s.setSn j { s.snOf j with drain := t }).mirrorPage j v
    | [] => s))

/-- `CURTAIN_SECURED` (R410, R413). The copy that START begins secures no Curtain: it ends without the event. -/
def State.secured (s : State) (j : Nat) : State :=
  let x := s.snOf j
  if !s.pairsFailed && s.phase j = 5 && x.drain.isEmpty && x.owed = 0 then
    let s := s.put (Reg.SN_JOB_STATUS.PHASE j) 0
    let s := if x.walking then s.put (Reg.SN_JOB_STATUS.LOG_OVF j) 0 else s
    let s := s.setSn j { x with wholeCopy := false, walking := false, drainLen := 0 }
    if x.wholeCopy then s
    else (s.put (Reg.SN_COST.SECURE j) (min ((s.netNow - x.tc) * 1000 / 2 ^ 30) (2 ^ 32 - 1))).put
      (Reg.SN_JOB_STATUS.SECURED_EVT j) 1
  else s

/-- `CURTAIN_SECURED`. -/
def execCurtainSecured (j : Nat) (s : State) : Ans := inUnits (j < 8) (.next (s.secured j))

/-- `BUDDY_ACK` (R413). -/
def execBuddyAck (j : Nat) (s : State) : Ans :=
  inUnits (j < 8) (.next (if s.pairsFailed then s else s.setSn j { s.snOf j with owed := (s.snOf j).owed - 1 }))

/-- `PROTECTED_WRITE` (R400): what the Stolern does before the write reaches its granule. -/
def execProtectedWrite (j va : Nat) (s : State) : Ans :=
  inUnits (j < 8 && va < 2 ^ 52) (.next (match s.pte j (bits va 21 31) with
    | some p => if p.v && !p.ro && !s.pairsFailed then s.firstTouch j (bits va 21 31) (bits va 0 21 / 65536) else s
    | none => s))

/-- The wrap walk sets the epoch of a page that is old (R412). -/
def State.ageEpoch (s : State) (j vpn : Nat) : State :=
  match s.pte j vpn with
  | some p =>
    let st := s.pageState j p
    if p.prot && (st = .secured || st = .pending) then s.setPte j vpn ⟨p.w0, mkW1 (s.oldEpoch j) p.acc p.touch⟩ else s
  | none => s

/-- `EPOCH_WALK` (R412). -/
def execEpochWalk (j : Nat) (s : State) : Ans :=
  inUnits (j < 8) (.next (
    if s.pairsFailed then s
    else
    let t := (s.jobPages j).foldl (fun (t : State) v => t.ageEpoch j v) s
    t.setSn j { t.snOf j with walkEpoch := s.get (Reg.SN_EPOCH.CUR j) }))

/-! ## Restore (R414 to R417) -/

/-- `FAULT_RESTORE` (R377, R396, R414): a fault is detected and charged to the job; a core that raises `CORE_LOST`
is retired (R420). -/
def execFaultRestore (j code island : Nat) (s : State) : Ans :=
  inUnits (j < 8 && 0x10 ≤ code && code ≤ 0x16 && island < islandCount)
    (.next ((if code = 0x15 ∧ island < 384 then s.markRetired (island / 16) (island % 16) else s).islandFault
      island code 0 (some j)))

/-- The fields of a record go back to their registers. -/
def State.reloadFields (s : State) (j : Nat) (r : Record) : State :=
  (s.savedFlds j).foldl (fun (t : State) f =>
    match r.fields.find? (fun e => e.1 = f.key) with
    | some e => t.put f e.2
    | none => t) s

/-- Replace the bits of a mask in a field. -/
def State.putMasked (s : State) (f : Fld) (m v : Nat) : State :=
  let old := s.get f
  s.put f (Nat.lor (old - Nat.land old m) (Nat.land v m))

/-- The slot registers and the loaded banks go back, in every core (R258). -/
def State.reloadTables (s : State) (j : Nat) (r : Record) : State :=
  let s := (s.jobCtxs j).foldl (fun (t : State) p =>
    let m := t.slotMask p.1 p.2
    let v (i : Nat) : Nat := ((r.fields.find? (fun e => e.1 = 4 * (2 * p.1 + p.2) + i)).map (·.2)).getD 0
    ((t.putMasked (Reg.RM_SFN.LIVE p.1) m (v 0)).putMasked (Reg.RM_SFN.LOADED0 p.1) m (v 1)).putMasked
      (Reg.RM_SFN.LOADED1 p.1) m (v 2)) s
  r.tables.foldl (fun (t : State) e =>
    let g := e.1 / 1024
    let cx := e.1 / 64 % 16
    let d := (t.view g cx).cx
    let k := t.core g d
    t.setCore g d { k with tables := Tab.putSlice k.tables (8192 * (e.1 % 64 / 2) + 4096 * (e.1 % 2)) 4096 e.2 }) s

/-- The data-loader records go back to `LADDR` of the lowest enabled core of each context (R408). -/
def State.reloadLoaders (s : State) (j : Nat) (r : Record) : State :=
  r.loaders.foldl (fun (t : State) u => (List.range u.2.1).foldl (fun (t : State) n =>
    let g := u.1 / 2
    t.setSpBytes g (t.lowCore g (u.1 % 2)) (u.2.2 + 8 * n) (leBytes 8 (t.get (Reg.SN_LDR.REC j n)))) t) s

/-- A queue with `ROLL` 1 takes the saved counts and refills its head (R292). -/
def State.rollQueue (s : State) (q put get : Nat) : State :=
  let f := cqFlds q
  if !s.flag f.roll then s
  else ((((s.setCq q { head := get, spilled := put }).put f.put put).put f.get get).put f.opened 0).cqFill q

/-- The queues of a job are restored. -/
def State.reloadQueues (s : State) (j : Nat) (r : Record) : State :=
  (List.range 32).foldl (fun (t : State) x =>
    let e := r.cqs.getD x (0, 0)
    t.rollQueue (jobQueue j x) e.1 e.2) s

/-- The saved step and draw count against those re-derived; a difference raises `RNG_SKEW` and is ignored (R203, R376). -/
def State.checkDraws (s : State) (j : Nat) (r : Record) : State :=
  let step := s.get (Reg.STEP_SEQ.SEQ j)
  let draws := s.get (Reg.TB_DRAWS.COUNT j)
  if r.step = step ∧ r.draws = draws then s
  else s.raiseErr {
    code := 0x22
    island := netIsland
    job := some j
    ofOp := false
    payload := unsigned 16 ((r.step : Int) - step) * 2 ^ 48 + unsigned 48 ((r.draws : Int) - draws) }

/-- The live frames of the job that an uncorrectable error retired give way to spare frames (R339). -/
def State.switchRetired (s : State) (j : Nat) : State :=
  s.retiring.foldl (fun (t : State) d =>
    match t.pageOfFrame j d false with
    | none => t
    | some v =>
      let r := t.spare (fun _ => true)
      match r.2, r.1.pte j v with
      | some n, some p =>
        let u := ((r.1.giveFrame j n).copyMem (2 ^ 21 * d) (2 ^ 21 * n) (2 ^ 21)).evictPage j v
        { u.setPte j v ⟨mkW0 p.v p.prot p.ro p.mv n p.mirror, mkW1 p.epoch 0 p.touch⟩ with
          retiring := u.retiring.filter (· ≠ d) }
      | _, _ => r.1) s

/-- A beat job resumes beat n at the instant the restore completes (R371); that release is the one that contexts blocked before
the first release wait for. -/
def State.resumeBeat (s : State) (j : Nat) : State :=
  if s.hasBeat j then
    let closed := s.get (Reg.CAL_STATUS.CLOSED j)
    let was := (s.jobS j).released
    let s := (s.openBeat j (s.get (Reg.CAL_BEAT.N j)) (s.stamp 532)).put (Reg.CAL_STATUS.CLOSED j) closed
    if was then s else s.wakeBeat j
  else s

/-- Step 3 of a restore: the record is reloaded, with what R242 and others reset (R414). -/
def State.reload (s : State) (j : Nat) (r : Record) : State :=
  let s := (s.jobCtxs j).foldl (fun (t : State) p => t.freshCtx p.1 p.2) s
  let s := s.applyDoubling j
  let s := r.ctxs.foldl (fun (t : State) e => t.setCtx (e.1 / 2) (e.1 % 2) e.2) s
  let s := (s.setJobS j r.job).reloadFields j r
  let s := r.carry.foldl (fun (t : State) e => t.setRing (e.1 / 2) (e.1 % 2) e.2) s
  let s := { s with spotter := Tab.putSlice s.spotter (spotKey j 0 0 0) 7040 r.spotter }
  let s := ((s.reloadTables j r).reloadLoaders j r).reloadQueues j r
  (s.checkDraws j r).switchRetired j

/-- The record that a restore of the job reloads. -/
def State.lastRecord (s : State) (j : Nat) : Option Record :=
  Tab.get none (s.snOf j).recs (s.get (Reg.SN_JOB_STATUS.REC j))

/-- Steps 3 and 4 of a restore, once no migration of the job is in SWITCH (R334). None runs from the loss of the control
pairs until RESUME (R425, R426). -/
def State.restoreDone (s : State) (j : Nat) : State :=
  if s.jobState j ≠ 3 ∨ s.get Reg.RCV_STATUS.STATE ≠ 0 ∨ s.switching j then s
  else match s.lastRecord j with
    | none => s
    | some r =>
      let s := (s.reload j r).resumeBeat j
      let s := s.setSn j { s.snOf j with restarts := 0 }
      let s := ((s.put (Reg.JOB_STATUS.STATE j) 2).inc (Reg.SN_RESTORES.N j) 1).settleCq
      s.setEvent (Reg.JOB_STATUS.RESTART_EVT j) j

/-- `RESTORE_COMPLETE` (R414). -/
def execRestoreComplete (j : Nat) (s : State) : Ans := inUnits (j < 8) (.next (s.restoreDone j))

/-- The pages that resolving looks at (R416). -/
def State.resolveList (s : State) (j : Nat) : List Nat :=
  (if s.flag (Reg.SN_JOB_STATUS.LOG_OVF j) then s.pagesWith j (fun p => p.prot && p.mv) else (s.snOf j).fill).filter
    (fun v => match s.pte j v with
      | some p => p.prot && p.mv && decide (s.pageState j p = .resolving)
      | none => false)

/-- `RESOLVE_PAGE` (R416): the next resolving page; `RESOLVING` clears when none remains. -/
def State.resolvePage (s : State) (j : Nat) : State :=
  if !s.flag (Reg.SN_JOB_STATUS.RESOLVING j) || s.pairsFailed then s
  else
    let s := match s.resolveList j with
      | v :: _ => (match s.pte j v with
        | some p => ((s.copyGranules p.mirror p.live p.touch).noteCopied j v p.touch).setPte j v
            ⟨p.w0, mkW1 (s.get (Reg.SN_EPOCH.CUR j)) p.acc p.touch⟩
        | none => s)
      | [] => s
    if (s.resolveList j).isEmpty then s.put (Reg.SN_JOB_STATUS.RESOLVING j) 0 else s

/-- `RESOLVE_PAGE`. -/
def execResolvePage (j : Nat) (s : State) : Ans := inUnits (j < 8) (.next (s.resolvePage j))

/-! ## Recovery controllers (R424, R425) -/

/-- A restore in progress restarts at step 1 from the same record, or stops the job where R415 says so, with the code and the
place of the fault that it began with. -/
def State.restartRestore (s : State) (j : Nat) : State :=
  s.restoreOr j { (s.snOf j).cause with job := some j } false (fun t => (t.beginRestore j).announceRestore j)

/-- The standby pair takes over: Curtains in progress are abandoned, restores restart. -/
def State.takeOver (s : State) : State :=
  let s := (s.put Reg.NC_STATUS.STANDBY_OK 0).put Reg.NC_STATUS.ACTIVE 1
  (List.range 8).foldl (fun (t : State) j =>
    if t.jobState j = 3 then (t.setSn j { t.snOf j with restarts := (t.snOf j).restarts + 1 }).restartRestore j
    else if 1 ≤ t.phase j ∧ t.phase j ≤ 4 then t.giveUpCurtain j
    else t) s

/-- `LOCKSTEP` (R424): charged to the device. -/
def execLockstep (s : State) : Ans :=
  .next (
    let t := (s.raiseErr { code := 0x11, island := netIsland }).put Reg.NC_STATUS.LOCKSTEP_EVT 1
    if t.flag Reg.NC_STATUS.STANDBY_OK then t.takeOver else t)

/-- `NET_LOST` (R425): the Net Keeper acts. Of a job that it stops nothing but its contexts and its state changes; a
Curtain in progress stands until the restore abandons it. -/
def State.netLost (s : State) : State :=
  let s := (s.put Reg.NC_STATUS.STANDBY_OK 0).put Reg.NC_STATUS.ACTIVE 2
  let s := (List.range 8).foldl (fun (t : State) j =>
    if t.jobState j = 2 ∨ t.jobState j = 3 then
      let t := if t.jobState j = 2 then
          t.setSn j { t.snOf j with cause := { code := 0x30, island := netIsland }, causeAt := t.netNow, restarts := 0 }
        else t
      ((t.quiesceCtxs j).dropColl j).put (Reg.JOB_STATUS.STATE j) 3
    else t) s
  let s := { s with hbmSelf := true }
  let s := (s.raiseErr { code := 0x30, island := netIsland }).setEvent Reg.ERR_DEV_STATUS.NET_LOST_EVT 10
  let s := s.pldmEvent 3
  let s := s.put Reg.RCV_STATUS.STATE 1
  if s.get Reg.ST_CTRL.ROLE = 1 then (s.sendPacket { s.snPacket 0 0 6 0 with dst := s.get Reg.GL_MASTER.SYS }).getD s
  else s

/-- `NET_LOST`. -/
def execNetLost (s : State) : Ans := .next s.netLost

end Sys2Proof.Machine
end

