-- ==== Sys2Proof/Machine/Training.lean ====
section
/-! DEFINITION. Training support: tokens and the schedule loader, the step number and scales, the waits of updates,
beats and their releases (R205, R210, R348 to R371, R419). -/

namespace Sys2Proof.Machine

/-! ## Tokens (R351, R354) -/

/-- Make the posts owed to a token queue while it has room. -/
def State.postTokens (s : State) (j x : Nat) : Nat → State
  | 0 => s
  | n + 1 => State.postTokens (s.postToken j x) j x n

/-- A post may end a `sched` wait of a running job. -/
def State.servePosts (s : State) (j : Nat) : State := if s.jobState j = 2 then s.serveSched j 48 else s

/-- `TOKEN_POST` (R351). -/
def execTokenPost (j x : Nat) (s : State) : Ans :=
  inUnits (j < 8 && x < 16) (.next ((s.postToken j x).servePosts j).settleCq)

/-- The code of a `SCHED_INJECT` write of `COUNT` tokens to index x. -/
def State.injectCode (s : State) (j x count : Nat) : Nat :=
  firstCode [(count ≠ 0, 0x06),
    ((s.jobState j = 1 || s.jobState j = 2) && !s.flag (cqFlds (jobQueue j x)).en, 0x04)]

/-- A write of `SCHED_INJECT`. -/
def State.writeInject (s : State) (j val : Nat) : State :=
  let x := bits val 16 4
  let n := bits val 0 16
  let code := s.injectCode j x n
  if code ≠ 0 then s.reject code (0x400210 + j * 0x20000) (some j)
  else
    (((s.owe j x (List.replicate n true)).postTokens j x (n + (s.owedOf j x).length)).servePosts j).settleCq

/-- `SCHED_INJECT` (R351). -/
def execSchedInject (j val : Nat) (s : State) : Ans :=
  inUnits (j < 8) (.next (s.barWrite (fun t => t.writeInject j val)))

/-- Everything a token waits for has retired. -/
def Token.isPast (t : Token) : Bool :=
  match t.left with
  | some l => l.all (· = 0)
  | none => false

/-- `TOKEN_COMPLETE` (R354): the oldest token of the context whose work has retired. -/
def execTokenComplete (g c : Nat) (s : State) : Ans :=
  inUnits (g < 24 && c < 2) (.next (
    let x := s.ctxOf g c
    match x.tokens.find? Token.isPast with
    | some t => (s.setCtx g c { x with tokens := x.tokens.erase t }).completeToken g c t
    | none => s))

/-! ## The step number (R355, R356) -/

/-- The code of a `STEP_SEQ` write. -/
def State.stepSeqCode (s : State) (j v : Nat) : Nat :=
  if s.jobIdle j then 0
  else if s.jobState j = 3 then 0x04
  else if s.get (Reg.STEP_SEQ.SEQ j) < v then 0 else 0x06

/-- Every staged storage exponent of a job is applied (R205). -/
def State.applyScales (s : State) (j : Nat) : State :=
  (List.range 256).foldl (fun (t : State) k =>
    if t.flag (Reg.SCALE.PEND j k) then
      (t.put (Reg.SCALE.EXP j k) (t.get (Reg.SCALE.NEXT j k))).put (Reg.SCALE.PEND j k) 0
    else t) s

/-- A new step begins: everything that an accepted `STEP_SEQ` write does in its one clk; of `STEP_NF` all but `EVT_CNT`, which
R382 rules (log 108). -/
def State.newStep (s : State) (j v : Nat) : State :=
  let s := s.put (Reg.STEP_SEQ.SEQ j) v
  let s := (List.range 2).foldl (fun (t : State) i =>
    (t.put (Reg.STEP_SIZE.HI j i) (t.get (Reg.STEP_STAGE.HI j i))).put (Reg.STEP_SIZE.LO j i)
      (t.get (Reg.STEP_STAGE.LO j i))) s
  let s := ((s.applyScales j).put (Reg.TB_DRAWS.COUNT j) 0).put (Reg.SCHED_STATUS.SEQ_NEW j) 1
  let s := (((s.put (Reg.STEP_NF.LOCAL j) 0).put (Reg.STEP_NF.GLOBAL j) 0).put (Reg.STEP_NF.DONE j) 0).put
    (Reg.STEP_NF.SKIP j) 0
  let s := (s.put (Reg.STEP_NF.NF_EVT j) 0).put (Reg.STEP_NF.SKIP_EVT j) 0
  s.setJobS j { s.jobS j with nfSeen := false }

/-- A write of `STEP_SEQ`: the schedule may start again (R355), and in a running job updates may find their step. -/
def State.writeStepSeq (s : State) (j val : Nat) : State :=
  let v := val % 2 ^ 48
  let code := s.stepSeqCode j v
  if code ≠ 0 then s.reject code (jobOff j 0x200) (some j)
  else
    let s := (s.newStep j v).schedWrap j
    if s.jobState j = 2 then (s.serveSched j 48).pumpJob j else s

/-- `STEP_SEQ_WRITE` (R356). -/
def execStepSeqWrite (j val : Nat) (s : State) : Ans :=
  inUnits (j < 8) (.next (s.barWrite (fun t => t.writeStepSeq j val)))

/-! ## Scales (R205, R210) -/

/-- A storage exponent is in its range. -/
def expOk (n : Nat) : Bool := -64 ≤ signed 8 n && decide (signed 8 n ≤ 63)

/-- A `SCALE[t]` value leaves every field but `NEXT` as it is. -/
def State.scaleSame (s : State) (j t val : Nat) : Bool :=
  bits val 25 2 = s.get (Reg.SCALE.RND j t) && bits val 24 1 = s.get (Reg.SCALE.AUTO j t) &&
    bits val 23 1 = s.get (Reg.SCALE.SAT j t) && bits val 16 6 = s.get (Reg.SCALE.CLASS j t) &&
    bits val 0 8 = s.get (Reg.SCALE.EXP j t)

/-- The code of a `SCALE[t]` write. -/
def State.scaleCode (s : State) (j t val : Nat) : Nat :=
  firstCode [
    (expOk (bits val 0 8) && expOk (bits val 32 8) && bits val 25 2 ≠ 3, 0x06),
    (s.jobIdle j || s.scaleSame j t val, 0x04),
    (s.jobIdle j || bit val 24 || bits val 32 8 = s.get (Reg.SCALE.NEXT j t), 0x04)]

/-- A write of `SCALE[t]`: with `AUTO` 1 it stages `NEXT`, with 0 it clears `PEND`. -/
def State.writeScale (s : State) (j t val : Nat) : State :=
  let code := s.scaleCode j t val
  if code ≠ 0 then s.reject code (0x600000 + j * 0x20000 + 8 * t) (some j)
  else
    let s := ((s.put (Reg.SCALE.NEXT j t) (bits val 32 8)).put (Reg.SCALE.PEND j t) (bits val 24 1)).put
      (Reg.SCALE.RND j t) (bits val 25 2)
    let s := ((s.put (Reg.SCALE.AUTO j t) (bits val 24 1)).put (Reg.SCALE.SAT j t) (bits val 23 1)).put
      (Reg.SCALE.CLASS j t) (bits val 16 6)
    s.put (Reg.SCALE.EXP j t) (bits val 0 8)

/-- `SCALE_WRITE`. -/
def execScaleWrite (j t val : Nat) (s : State) : Ans :=
  inUnits (j < 8 && t < 256) (.next (s.barWrite (fun u => u.writeScale j t val)))

/-! ## Waits of updates (R127, R357, R363) -/

/-- The update at the head of a context's Stream queue, if it has not started. -/
def State.updHead (s : State) (g c : Nat) : Option QEntry :=
  match s.frontier g c 1 with
  | some q => if q.opc = 0x70 && q.since.isSome then some q else none
  | none => none

/-- `STEP_SEQ` has passed the step that an update captured before it was matched: the flag's value, as a signed 16-bit
difference, is behind (R127). A jump of 32,768 steps or more therefore does not pass it (DESIGN CHOICE, log 125). -/
def State.overtaken (s : State) (g c : Nat) (q : QEntry) : Bool :=
  q.carry.isEmpty && decide (signed 16 (unsigned 16 ((q.flagVal : Int) - s.get (Reg.STEP_SEQ.SEQ (s.jobOf g c)))) < 0)

/-- `UPD_STEP_STALE` (R127, R357), raised once, from the lowest enabled core (DESIGN CHOICE, log 125: the spec names no
island). -/
def execUpdStepStale (g c : Nat) (s : State) : Ans :=
  inUnits (g < 24 && c < 2) (.next (match s.updHead g c with
    | some q =>
      if s.overtaken g c q || s.get (Reg.UPD_CFG.STEP_TMO (s.jobOf g c)) ≠ 0 then
        s.coreErr g c ((s.coresOf g c).headD 0) 1 0x0B q.pc 0
      else s
    | none => s))

/-- The step's decision bit (R363). -/
def State.nfDecision (s : State) (j : Nat) : Bool :=
  if s.get (Reg.UPD_CFG.NF_COLLS j) = 0 then s.flag (Reg.STEP_NF.LOCAL j) else s.flag (Reg.STEP_NF.GLOBAL j)

/-- A gated update takes the decision: it runs, or skips. -/
def State.gatePass (s : State) (g c : Nat) (q : QEntry) : State :=
  let j := s.jobOf g c
  let skip := s.nfDecision j && s.flag (Reg.UPD_CFG.NF_STEP_SKIP j)
  let s := (s.setEntry g c 1 { q with gated := true, noop := skip }).pump g
  if skip then ((s.inc (Reg.UPD_SKIPPED.N j) 1).put (Reg.STEP_NF.SKIP j) 1).put (Reg.STEP_NF.SKIP_EVT j) 1 else s

/-- `UPD_NF_GATE_PASS` (R363). -/
def execUpdNfGatePass (g c : Nat) (s : State) : Ans :=
  inUnits (g < 24 && c < 2) (.next (match s.updHead g c with
    | some q =>
      let j := s.jobOf g c
      if !q.carry.isEmpty && s.flag (Reg.UPD_CFG.NF_GATE j) && (q.waited || !wWV q.word) &&
          decide (s.get (Reg.UPD_CFG.NF_COLLS j) ≤ s.get (Reg.STEP_NF.DONE j)) then
        s.gatePass g c q
      else s
    | none => s))

/-! ## Beats (R365 to R370, R419) -/

/-- A pacing context stands at the end of its beat: its `beat` has nothing left to wait for, or it is DONE. -/
def State.atBeatEnd (s : State) (g c : Nat) : Bool :=
  let x := s.ctxOf g c
  s.get (Reg.CTX_STATUS.STATE g c) = 4 ||
    (match x.block, x.arriveLeft with
      | some (.beat _, _), some l => l.all (· = 0)
      | _, _ => false)

/-- `BEAT_ARRIVAL` (R365). -/
def State.beatArrive (s : State) (g c : Nat) : State :=
  let j := s.jobOf g c
  let u := s.jobS j
  if s.jobState j = 2 && s.hasBeat j && (s.jobS j).released && (s.calCtxs j).contains (2 * g + c) && !u.arrived.contains (2 * g + c) &&
      s.atBeatEnd g c then
    s.setJobS j { u with arrived := u.arrived ++ [2 * g + c], ends := max u.ends (s.stamp (rmIsland g)) }
  else s

/-- `BEAT_ARRIVAL`. -/
def execBeatArrival (g c : Nat) (s : State) : Ans := inUnits (g < 24 && c < 2) (.next (s.beatArrive g c))

/-- Every pacing context has arrived; one that is DONE already has (R365). -/
def State.beatEnded (s : State) (j : Nat) : Bool :=
  (s.calCtxs j).all (fun i => (s.jobS j).arrived.contains i || s.get (Reg.CTX_STATUS.STATE (i / 2) (i % 2)) = 4)

/-- E_n of the present beat. -/
def State.beatEnd (s : State) (j : Nat) : Nat := max (s.jobS j).ends (s.get (Reg.CAL_RELEASE.T j))

/-- The next release (R365). -/
def State.nextRelease (s : State) (j : Nat) : Nat :=
  max (s.gridAt j (s.get (Reg.CAL_BEAT.N j) + 1)) (s.beatEnd j)

/-- The release of beat n carries a Curtain (R419): every `BEAT_EVERY`-th by the beat's number, or one that was
deferred (log 48). -/
def State.carriesCurtain (s : State) (j n : Nat) : Bool :=
  let e := s.get (Reg.SN_CFG.BEAT_EVERY j)
  e ≠ 0 && (n % e = 0 || (s.snOf j).beatDue)

/-- A release with the Curtain it carries: the contexts blocked in `beat` are at their curtain point and wait for the
commit; a Curtain that may not begin is deferred to the next release. -/
def State.releaseBeat (s : State) (j n a : Nat) : State :=
  if s.carriesCurtain j n then
    if s.curtainMay j && (s.group j = 0 || s.lockState = 2) then
      let s := s.armPart j a
      let s := (s.setSn j { s.snOf j with beatHold := true, beatDue := false }).put (Reg.SN_JOB_STATUS.PHASE j) 2
      (s.jobCtxs j).foldl (fun (t : State) p => t.noteCurtain p.1 p.2) s
    else (s.setSn j { s.snOf j with beatDue := true }).wakeBeat j
  else s.wakeBeat j

/-- The first beat of a run is released at A_n = B_n (R364, R365; log 123). -/
def State.firstRelease (s : State) (j : Nat) : State :=
  (s.setJobS j { s.jobS j with released := true }).releaseBeat j (s.get (Reg.CAL_BEAT.N j)) (s.get (Reg.CAL_RELEASE.T j))

/-- The consecutive overruns after a beat whose must-work lasted m (R369). -/
def State.countOverrun (s : State) (j n m : Nat) : State :=
  if s.get (Reg.CAL_PERIOD.NUM j) < m * s.get (Reg.CAL_PERIOD.DEN j) then
    let k := s.get (Reg.CAL_STATUS.OVR_RUN j) + 1
    if k < 3 then s.put (Reg.CAL_STATUS.OVR_RUN j) k
    else (s.put (Reg.CAL_STATUS.OVR_RUN j) 0).setJobS j { s.jobS j with overrun := some n }
  else s.put (Reg.CAL_STATUS.OVR_RUN j) 0

/-- The present beat ends and the next is released (R365, R369, R370). -/
def State.beatRelease (s : State) (j : Nat) : State :=
  let n := s.get (Reg.CAL_BEAT.N j)
  let a := s.nextRelease j
  let late := a - s.gridAt j (n + 1)
  let mark := (s.jobS j).marked.getD (s.beatEnd j)
  let m := mark - s.get (Reg.CAL_RELEASE.T j)
  let s := (s.put (Reg.CAL_MARK.T j) mark).countOverrun j n m
  let s := s.trace 532 0x0130 (some j)
    (n % 2 ^ 16 * 2 ^ 48 + min (late / 2 ^ 10) (2 ^ 24 - 1) * 2 ^ 24 + min (m / 2 ^ 10) (2 ^ 24 - 1))
  let s := if late = 0 then s else s.put (Reg.CAL_STATUS.LATE_EVT j) 1
  (s.openBeat j (n + 1) a).releaseBeat j (n + 1) a

/-- `BEAT_RELEASE`: the replica has reached the release of the first beat, or that of the next one, at whose end every pacing
context has arrived. -/
def execBeatRelease (j : Nat) (s : State) : Ans :=
  inUnits (j < 8) (.next (
    if s.jobState j ≠ 2 || !s.hasBeat j then s
    else if !(s.jobS j).released then (if s.get (Reg.CAL_RELEASE.T j) ≤ s.stamp 532 then s.firstRelease j else s)
    else if s.beatEnded j && decide (s.nextRelease j ≤ s.stamp 532) then s.beatRelease j else s))

/-- `BEAT_DEADLINE` (R367). -/
def execBeatDeadline (g c : Nat) (s : State) : Ans :=
  inUnits (g < 24 && c < 2) (.next (match (s.ctxOf g c).block with
    | some (.sched fb st _, _) =>
      if s.hasBeat (s.jobOf g c) && s.schedFind (s.jobOf g c) st (s.stamp (rmIsland g)) = .closed then
        (s.closeElastic g c fb).wake g c
      else s
    | _ => s))

/-- `BEAT_OVERRUN` (R369): raised to the host as a policy event. -/
def execBeatOverrun (j : Nat) (s : State) : Ans :=
  inUnits (j < 8) (.next (match (s.jobS j).overrun with
    | some n =>
      let s := s.setJobS j { s.jobS j with overrun := none }
      (s.raiseErr { code := 0x21, island := 532, payload := n, job := some j }).put (Reg.CAL_STATUS.OVERRUN_EVT j) 1
    | none => s))

end Sys2Proof.Machine
end

