-- ==== Sys2Proof/Machine/Guyline.lean ====
section
/-! DEFINITION. Guyline: port states, the link layer's flits, credits and tags, arriving packets, masters and deputies,
Safety Net messages, drain markers, device IDs and topologies (R432 to R451, R457 to R460). -/

namespace Sys2Proof.Machine

/-! ## Port states (R433, R436, R437) -/

/-- The island of a port. -/
def portIsland (p : Nat) : Nat := 504 + p

/-- Set a port's state; leaving UP or HALF sets `DOWN_EVT`. -/
def State.setPortState (s : State) (p st : Nat) : State :=
  let s := if s.portUp p && !(st = 2 || st = 3) then s.put (Reg.GL_PORT_STATUS.DOWN_EVT p) 1 else s
  s.put (Reg.GL_PORT_STATUS.STATE p) st

/-- The link layer starts again: nothing is kept but the keys. -/
def State.clearLink (s : State) (p : Nat) : State :=
  let x := s.port p
  s.setPort p { keys := x.keys, txSlot := x.txSlot, rxKey := x.rxKey }

/-- The code of a `GL_PORT_CFG` write (R458). -/
def portCfgCode (p val : Nat) : Nat :=
  if bits val 4 2 = 3 ∨ (bits val 4 2 = 2 ∧ p < 12) then 0x06 else 0

/-- A write of `GL_PORT_CFG`: `EN` from 0 to 1 starts training, after a loop-back check of the port that still runs
(R532), and clear it takes the port down. After Playbill
commit `ENC_REQ` stays, and a different value for it is counted once (R9). -/
def State.writePortCfg (s : State) (p val : Nat) : State :=
  let code := portCfgCode p val
  let off := 0xB00000 + p * 0x10000
  if code ≠ 0 then s.reject code off none
  else
    let was := s.flag (Reg.GL_PORT_CFG.EN p)
    let s := ((s.put (Reg.GL_PORT_CFG.ROLE p) (bits val 4 2)).put (Reg.GL_PORT_CFG.HALF_OK p) (bits val 3 1)).put
      (Reg.GL_PORT_CFG.ENC p) (bits val 1 1)
    let s := if !s.committed then s.put (Reg.GL_PORT_CFG.ENC_REQ p) (bits val 2 1)
      else if s.get (Reg.GL_PORT_CFG.ENC_REQ p) = bits val 2 1 then s
      else s.reject 0x04 off none
    let s := s.put (Reg.GL_PORT_CFG.EN p) (bits val 0 1)
    match was, bit val 0 with
    | false, true => if s.hs.loop = some p then s else (s.clearLink p).setPortState p 1
    | true, false => (s.clearLink p).setPortState p 0
    | _, _ => s

/-- A write to a port's block: a fused port counts it as `FUSED_UNIT` (R3, R4); at a held one it waits (R18). -/
def State.portWrite (s : State) (p off val : Nat) (f : State → State) : State :=
  if s.portPresent p then s.atIsland off val f else s.reject 0x05 off none

/-- `PORT_EN_WRITE` (R433). -/
def execPortEnWrite (p val : Nat) (s : State) : Ans :=
  inUnits (p < 16) (.next (s.barWrite (fun t =>
    t.portWrite p (0xB00000 + p * 0x10000) val (fun u => u.writePortCfg p val))))

/-- A key slot of a port: direction 0 transmit, 1 receive. -/
def State.keySlot (s : State) (p dir slot : Nat) : Option (Nat × List Byte) :=
  Tab.get none (s.port p).keys (2 * dir + slot)

/-- Keys are in place (R554): the transmit slot in use and a receive slot are loaded. -/
def State.keysReady (s : State) (p : Nat) : Bool :=
  (s.keySlot p 0 (s.port p).txSlot).isSome && ((s.keySlot p 1 0).isSome || (s.keySlot p 1 1).isSome)

/-- The state that training with some lanes gives (R433, R439); none leaves the port training. -/
def State.trained (s : State) (p lanes : Nat) : Option Nat :=
  if s.flag (Reg.GL_PORT_CFG.ENC_REQ p) && !(s.flag (Reg.GL_PORT_CFG.ENC p) && s.keysReady p) then none
  else if lanes % 16 = 15 then some 2
  else if (lanes % 16 = 3 ∨ lanes % 16 = 12) ∧ s.flag (Reg.GL_PORT_CFG.HALF_OK p) then some 3
  else none

/-- The credit allocations of a port by lane. -/
def State.allocation (s : State) (p : Nat) : List Nat := (List.range 8).map (fun v => s.get (vlCred p v))

/-- A control flit goes out with the next `SEQ` expected, a `NAK`, and credits by lane. -/
def State.sendCtl (s : State) (p : Nat) (nak : Bool) (cred : List Nat) : State :=
  let x := s.port p
  s.setPort p { x with
    ctl := some (x.rxSeq, nak, cred), sinceAck := 0, nakOut := x.nakOut || nak, out := ctlBytes x.rxSeq nak cred }

/-- Resend every unacknowledged flit, unchanged (R435, R436, R439). -/
def State.replay (s : State) (p : Nat) : State :=
  let x := s.port p
  match x.retry.getLast? with
  | none => s
  | some f => ((s.setPort p { x with out := f.bytes }).inc (Reg.GL_REPLAYS.N p) 1).inc (Reg.GL_TX_FLITS.N p) x.retry.length

/-- A port that is UP or HALF retrains: the retry buffer survives, and both ends grant their allocations anew (R436, R438). -/
def State.retrain (s : State) (p : Nat) : State :=
  (s.setPort p { s.port p with naks := 0, nakOut := false, credits := [] }).setPortState p 1

/-- Training completes: the other end's ID is recorded, the whole allocation is granted to it in a control flit, and what the
retry buffer holds is resent (R433, R436, R438). -/
def State.linkUp (s : State) (p st lanes peer : Nat) : State :=
  let s := ((s.setPortState p st).put (Reg.GL_PORT_STATUS.PEER p) peer).put (Reg.GL_PORT_STATUS.UP_EVT p) 1
  let s := if st = 3 then
      (s.put (Reg.GL_PORT_STATUS.HALF_EVT p) 1).corrected (portIsland p) 0x0125
        (p + ofBool (lanes % 16 = 12) * 16 + peer % 2 ^ 16 * 2 ^ 16)
    else s
  ((s.sendCtl p false (s.allocation p)).replay p).pumpOut p

/-- `PORT_TRAINING_DONE`. -/
def execPortTrainingDone (p lanes peer : Nat) (s : State) : Ans :=
  inUnits (p < 16) (.next (
    if s.portState p = 1 then
      match s.trained p lanes with
      | some st => s.linkUp p st lanes peer
      | none => s
    else s))

/-- The jobs with a packet in the retry buffer or waiting on a port. -/
def State.jobsOn (s : State) (p : Nat) : List Nat :=
  let x := s.port p
  (List.range 8).filter (fun j => s.group j ≠ 0 && (x.retry ++ x.waiting).any (fun f => f.group = s.group j))

/-- A port enters LOST (R437): its flits are lost, and `LINK_LOST` is charged to every job with a packet on it, or to
the device. -/
def State.losePort (s : State) (p jobs : Nat) : State :=
  let js := (List.range 8).filter (fun j => bit jobs j || (s.jobsOn p).contains j)
  let s := (s.setPortState p 4).clearLink p
  let e : ErrAt := { code := 0x12, island := portIsland p }
  if js.isEmpty then s.raiseErr e else js.foldl (fun (t : State) j => t.raiseErr { e with job := some j }) s

/-- The port has a link to lose: it is TRAINING, UP or HALF. -/
def State.portLive (s : State) (p : Nat) : Bool := 1 ≤ s.portState p && decide (s.portState p ≤ 3)

/-- `PORT_LOST`. -/
def execPortLost (p jobs : Nat) (s : State) : Ans :=
  inUnits (p < 16) (.next (if s.portLive p then s.losePort p jobs else s))

/-- `PORT_RETRAIN` (R436): the retry buffer survives. -/
def execPortRetrain (p : Nat) (s : State) : Ans :=
  inUnits (p < 16) (.next (if s.portUp p then s.retrain p else s))

/-! ## Flits (R434, R435, R438) -/

/-- `ACK_SEND`. -/
def execAckSend (p : Nat) (s : State) : Ans :=
  inUnits (p < 16) (.next (if s.portUp p then s.sendCtl p false [] else s))

/-- How many flits an `ACK` covers: those before the `SEQ` it names, which is one of the retry buffer or the next to send; none
where it names another. -/
def PortS.covered (x : PortS) (seq : Nat) : Option Nat :=
  if seq = x.txSeq then some x.retry.length else x.retry.findIdx? (fun f => f.seq = seq)

/-- An `ACK` arrives: what it covers is freed, and one that names a `SEQ` outside the retry buffer makes the port retrain
(R435, R436). -/
def State.ackArrive (s : State) (p seq : Nat) : State :=
  let x := s.port p
  match x.covered seq with
  | none => s.retrain p
  | some n => (s.setPort p { x with retry := x.retry.drop n, naks := if n = 0 then x.naks else 0 }).pumpOut p

/-- `ACK_RECEIVE`. -/
def execAckReceive (p seq : Nat) (s : State) : Ans :=
  inUnits (p < 16 && seq < 4096) (.next (if s.portUp p then s.ackArrive p seq else s))

/-- A `NAK` arrives: what its `ACK` covers is freed, and everything from the `SEQ` it names is resent. The sixteenth in a row
whose `ACK` does not advance makes the port retrain, and so does a `SEQ` outside the retry buffer (R435, R436). -/
def State.nakArrive (s : State) (p seq : Nat) : State :=
  let x := s.port p
  match x.covered seq with
  | none => s.retrain p
  | some n =>
    let naks := if n = 0 then x.naks + 1 else 1
    let s := s.setPort p { x with retry := x.retry.drop n, naks := naks }
    if naks < 16 then s.replay p else s.retrain p

/-- `NAK_REPLAY`. -/
def execNakReplay (p seq : Nat) (s : State) : Ans :=
  inUnits (p < 16 && seq < 4096) (.next (if s.portUp p then s.nakArrive p seq else s))

/-- Credits of a lane come back from the other end. -/
def State.addCredit (s : State) (p v n : Nat) : State :=
  let x := s.port p
  s.setPort p { x with credits := Tab.set 0 x.credits v (Tab.get 0 x.credits v + n) }

/-- `CREDIT_RETURN` (R438): buffers of this end are released, and a control flit returns their credits. -/
def execCreditReturn (p vl n : Nat) (s : State) : Ans :=
  inUnits (p < 16 && vl < 8 && n < 128) (.next (
    if s.portUp p then s.sendCtl p (s.port p).nakOut (listSet (List.replicate 8 0) vl n) else s))

/-- A flit that fails its CRC or is not the one expected is discarded; the first one causes a `NAK`. -/
def State.badFlit (s : State) (p : Nat) : State :=
  let s := s.inc (Reg.GL_CRC_ERR.N p) 1
  if (s.port p).nakOut then s else s.sendCtl p true []

/-- The CRC of a flit holds: it is that of bytes 0 to 251 (R434). -/
def crcOk (flit : List Byte) : Bool :=
  leNat (flit.drop 252) = (crc32 (flit.take 252)).toNat

/-- A data or MAC flit with the `SEQ` expected is accepted; with `ENC` a data flit is held for its tag (R439). An `ACK` goes out
with the 64th since the last (R435). -/
def State.takeFlit (s : State) (p ft seq : Nat) : State :=
  let x := s.port p
  let s := s.setPort p { x with
    rxSeq := (seq + 1) % 4096, sinceAck := x.sinceAck + 1, nakOut := false
    rxHeld := if s.flag (Reg.GL_PORT_CFG.ENC p) && ft = 1 then x.rxHeld ++ [seq] else x.rxHeld }
  let s := s.inc (Reg.GL_RX_FLITS.N p) 1
  if x.sinceAck + 1 < 64 then s else s.sendCtl p false []

/-- The body of a control flit: its credits, then its `ACK` or `NAK`. -/
def State.ctlArrive (s : State) (p : Nat) (body : List Byte) : State :=
  let s := (List.range 8).foldl (fun (t : State) v => t.addCredit p v (leNat ((body.drop (4 + v)).take 1))) s
  let a := leNat (body.take 2)
  if bit a 15 then s.nakArrive p (bits a 0 12) else s.ackArrive p (bits a 0 12)

/-- `FLIT_RECEIVE`: the link layer's part. The packets that flits carry arrive as commands of their own, since a data
flit does not name its lane (log 50). A flit that is discarded returns no credits. -/
def State.flitArrive (s : State) (p : Nat) (flit : List Byte) : State :=
  let w := leNat (flit.take 4)
  let ft := bits w 30 2
  let seq := bits w 18 12
  let sequenced := ft = 1 || ft = 3
  if !crcOk flit || (sequenced && seq ≠ (s.port p).rxSeq) then s.badFlit p
  else
    let s := s.addCredit p (bits w 15 3) (bits w 8 7)
    let s := if sequenced then s.takeFlit p ft seq else if ft = 2 then s.ctlArrive p (flit.drop 4) else s
    s.pumpOut p

/-- `FLIT_RECEIVE`. -/
def execFlitReceive (p : Nat) (flit : List (BitVec 8)) (s : State) : Ans :=
  inUnits (p < 16 && flit.length = 256) (.next (if s.portUp p then s.flitArrive p flit else s))

/-! ## Encryption (R439, R554) -/

/-- A receive slot holds a key identifier. -/
def State.knowsKey (s : State) (p keyId : Nat) : Bool :=
  ((s.keySlot p 1 0).map (·.1) = some keyId) || ((s.keySlot p 1 1).map (·.1) = some keyId)

/-- A tag is checked: held flits go on; a first failure asks for them again, a second loses the port. -/
def State.checkTag (s : State) (p : Nat) (ok : Bool) (keyId : Nat) : State :=
  let x := s.port p
  if ok && s.knowsKey p keyId then s.setPort p { x with rxHeld := [], macFails := 0, rxKey := some keyId }
  else if x.macFails = 0 then
    let first := x.rxHeld.headD x.rxSeq
    (s.setPort p { x with rxHeld := [], macFails := 1, rxSeq := first, nakOut := false }).sendCtl p true []
  else (s.put (Reg.GL_PORT_STATUS.SEC_EVT p) 1).losePort p 0

/-- `MAC_FLIT_CHECK`. -/
def execMacFlitCheck (p : Nat) (ok : Bool) (keyId : Nat) (s : State) : Ans :=
  inUnits (p < 16) (.next (if s.portUp p && s.flag (Reg.GL_PORT_CFG.ENC p) then s.checkTag p ok keyId else s))

/-- `ENC_COUNTER_LIMIT`. -/
def execEncCounterLimit (p : Nat) (s : State) : Ans :=
  inUnits (p < 16) (.next (
    if s.portUp p && s.flag (Reg.GL_PORT_CFG.ENC p) && decide (encLimit ≤ s.get (Reg.GL_ENC_CTR.FLITS p)) then
      s.losePort p 0
    else s))

/-! ## Data packets (R443, R444) -/

/-- An acknowledgement is owed to a source for a packet of a group. -/
def State.oweAck (s : State) (src group : Nat) : State :=
  let k := src % 65536 * 65536 + group % 65536
  { s with ackOwed := Tab.set 0 s.ackOwed k (Tab.get 0 s.ackOwed k + 1) }

/-- The job of a packet that arrives: RUNNING, with its `GROUP` and `GEN` (R417, R443). -/
def State.packetJob (s : State) (group gen : Nat) : Option Nat :=
  if group = 0 then none
  else match s.jobOfGroup group with
    | some j => if s.jobState j = 2 && s.gen j = gen then some j else none
    | none => none

/-- The queue of the job that a data packet is delivered to, which is enabled (R443). -/
def State.packetQueue (s : State) (h : PktHead) (q : Nat) : Option Nat :=
  match s.packetJob h.group h.gen with
  | some j => if s.flag (cqFlds (jobQueue j q)).en then some j else none
  | none => none

/-- A data packet arrives; one that its queue holds stays at the port, and the command has no effect. -/
def State.dataArrive (s : State) (p : Nat) (h : PktHead) (q tag : Nat) (data : List Byte) : State :=
  match s.packetQueue h q with
  | none => (s.inc (Reg.GL_RX_DISCARD.N p) 1).oweAck h.src h.group
  | some j =>
    let cq := jobQueue j q
    let r := s.cqOffer cq tag data
    match r.2 with
    | .held => s
    | .dropped => (r.1.oweAck h.src h.group).settleCq
    | .closed n =>
      let s := (r.1.oweAck h.src h.group).settleCq
      -- a packet of a hand-off queue with another length stops the receiving job (R349)
      if s.hoLenOk cq n then s else s.raiseErr { code := 0x06, island := portIsland p, job := some j }

/-- `DATA_PACKET_RECEIVE`. -/
def execDataPacketReceive (p : Nat) (h : PktHead) (q tag : Nat) (data : List (BitVec 8)) (s : State) : Ans :=
  inUnits (p < 16 && headOk h && q < 16 && tag < 2 ^ 32 && data.length ≤ 65536) (.next (
    s.arrive p { headPacket h 0 with qci := q, tag := tag, data := data } (fun t => t.dataArrive p h q tag data)))

/-- The payload of an acknowledgement packet. -/
def ackBody (acks : List (Nat × Nat)) : List Byte := acks.flatMap (fun e => leBytes 4 e.1 ++ leBytes 4 e.2)

/-- The acknowledgements owed to a source go out in one packet: pairs of a group and a number of packets, four bytes each
(R444; the body is log 51). -/
def State.sendAcks (s : State) (src : Nat) : State :=
  match s.ackOwed.filter (fun e => e.1 / 65536 = src && e.2 ≠ 0) with
  | [] => s
  | owed =>
    let k : Packet := { dst := src, type := 8, lane := 5, stamp := s.stamp 522 % 2 ^ 24
                        data := ackBody (owed.map (fun e => (e.1 % 65536, e.2))) }
    let s := { s with ackOwed := s.ackOwed.filter (fun e => e.1 / 65536 ≠ src) }
    (s.sendPacket k).getD s

/-- An acknowledgement of n packets of a group arrives. -/
def State.ackPackets (s : State) (group n : Nat) : State :=
  match s.jobOfGroup group with
  | none => s
  | some j =>
    let m := min n (Tab.get 0 s.glOut j)
    { s with glOut := Tab.set 0 s.glOut j (Tab.get 0 s.glOut j - m) }.put Reg.GL_OUT.COUNT (s.get Reg.GL_OUT.COUNT - m)

/-- `DELIVERY_ACK`: sent to the device that the header names as its destination, or received. -/
def execDeliveryAck (p : Nat) (h : PktHead) (acks : List (Nat × Nat)) (sent : Bool) (s : State) : Ans :=
  inUnits (p < 16 && headOk h) (.next (
    if sent then s.sendAcks h.dst
    else s.arrive p { headPacket h 8 with data := ackBody acks } (fun t =>
      acks.foldl (fun (t : State) e => t.ackPackets e.1 e.2) t)))

/-! ## Masters and deputies (R446, R448) -/

/-- The device ID at a rank of a group's member list (R452). -/
def State.memberId (s : State) (k rank : Nat) : Nat := s.memNat (s.get (Reg.GRP_LIST.ADDR k) * 2 + 2 * rank) 2

/-- A group is valid: `V` is set and the ID at the device's own rank is its own (R452). -/
def State.groupValid (s : State) (k : Nat) : Bool :=
  s.flag (Reg.GRP_CFG.V k) && s.memberId k (s.get (Reg.GRP_CFG.RANK k)) = s.get Reg.GL_DEV_ID.ID

/-- The master and the deputy of a group, as device IDs; number 16 is the cascade and its System Master. -/
def State.rolesOf (s : State) (grp : Nat) : Nat × Option Nat :=
  if grp = 16 then
    (s.get Reg.GL_MASTER.SYS, if s.get Reg.GL_MASTER.DEPUTY = 0xFFFF then none else some (s.get Reg.GL_MASTER.DEPUTY))
  else
    (s.memberId grp (s.get (Reg.GRP_ROLES.MASTER grp)),
     if s.get (Reg.GRP_ROLES.DEPUTY grp) = 0xFFFF then none else some (s.memberId grp (s.get (Reg.GRP_ROLES.DEPUTY grp))))

/-- The group exists for this device. -/
def State.inGroup (s : State) (grp : Nat) : Bool :=
  if grp = 16 then s.get Reg.ST_CTRL.ROLE ≠ 0 else s.groupValid grp

/-- The device is the deputy of a group. -/
def State.isDeputy (s : State) (grp : Nat) : Bool :=
  s.inGroup grp && (s.rolesOf grp).2 = some (s.get Reg.GL_DEV_ID.ID)

/-- A heartbeat or takeover packet (R448); its body is log 51. -/
def State.beatPacket (s : State) (dst grp kind : Nat) : Packet :=
  { dst := dst, type := 4, lane := 0, stamp := s.stamp 541 % 2 ^ 24, ofs := kind + grp * 256 }

/-- The device's own heartbeat, if it is the master or the deputy. -/
def State.sendBeat (s : State) (grp : Nat) : State :=
  let me := s.get Reg.GL_DEV_ID.ID
  match s.inGroup grp, s.rolesOf grp with
  | true, (m, some d) =>
    if m = me then (s.sendPacket (s.beatPacket d grp 0)).getD s
    else if d = me then (s.sendPacket (s.beatPacket m grp 0)).getD s
    else s
  | _, _ => s

/-- `HEARTBEAT`: one period of 10,737 st, in which the other's heartbeat came or did not. -/
def execHeartbeat (grp : Nat) (got : Bool) (s : State) : Ans :=
  inUnits (grp ≤ 16) (.next (
    if s.pairsFailed then s
    else
    let t := s.sendBeat grp
    if t.isDeputy grp then
      { t with missedBeats := Tab.set 0 t.missedBeats grp (if got then 0 else Tab.get 0 t.missedBeats grp + 1) }
    else t))

/-- The device IDs of the cascade: those below X_0 × X_1 × X_2 × X_3, or with a routing table below 2^`CASCADE_LOG2` (R564). -/
def State.cascadeSize (s : State) : Nat :=
  if s.flag Reg.GL_TOPO.MODE then 2 ^ s.get Reg.DEV_GRADE.CASCADE_LOG2 else s.torus 0 * s.torus 1 * s.torus 2 * s.torus 3

/-- The other members of a group, or of the cascade. -/
def State.membersOf (s : State) (grp : Nat) : List Nat :=
  (if grp = 16 then List.range s.cascadeSize
   else (List.range (s.get (Reg.GRP_CFG.SIZE grp))).map (s.memberId grp)).filter (· ≠ s.get Reg.GL_DEV_ID.ID)

/-- Abandon every cascade job's Curtain that is ARMED, QUIESCING or READY, with ABORT (R448). -/
def State.abortCurtains (s : State) : State :=
  (List.range 8).foldl (fun (t : State) j =>
    if t.group j ≠ 0 ∧ 1 ≤ t.phase j ∧ t.phase j ≤ 3 then t.giveUpCurtain j else t) s

/-- The deputy becomes master and tells every member. A new System Master keeps its replica and its rate word. -/
def State.takeMaster (s : State) (grp : Nat) : State :=
  let s := if grp = 16 then
      let s := ((s.put Reg.GL_MASTER.SYS (s.get Reg.GL_DEV_ID.ID)).put Reg.GL_MASTER.DEPUTY 0xFFFF).put Reg.ST_CTRL.ROLE 2
      s.leaveParent.put Reg.ST_STATUS.STATE
        (if s.flag Reg.ST_CTRL.TREF_EN || s.flag Reg.ST_CTRL.PPS_EN then 1 else 0)
    else (s.put (Reg.GRP_ROLES.MASTER grp) (s.get (Reg.GRP_CFG.RANK grp))).put (Reg.GRP_ROLES.DEPUTY grp) 0xFFFF
  let s := s.put Reg.GL_HB_STATUS.TAKEOVER_EVT 1
  let s := { s with missedBeats := Tab.set 0 s.missedBeats grp 0 }
  let s := (s.membersOf grp).foldl (fun (t : State) q => (t.sendPacket (t.beatPacket q grp 1)).getD t) s
  if grp = 16 then s.abortCurtains else s

/-- `DEPUTY_TAKEOVER`: three consecutive heartbeats are missed. -/
def execDeputyTakeover (grp : Nat) (s : State) : Ans :=
  inUnits (grp ≤ 16) (.next (
    if !s.pairsFailed && s.isDeputy grp && decide (3 ≤ Tab.get 0 s.missedBeats grp) then s.takeMaster grp else s))

/-- A takeover packet arrives: the member names the new master and no deputy; a master it displaces becomes a member.
`master` is a device ID for the cascade, a rank for a group. -/
def State.newMaster (s : State) (grp master : Nat) : State :=
  if grp = 16 then
    let was := s.isSystemMaster && master ≠ s.get Reg.GL_DEV_ID.ID
    let s := (s.put Reg.GL_MASTER.SYS master).put Reg.GL_MASTER.DEPUTY 0xFFFF
    if was then
      ((s.clearFilters.put Reg.GL_HB_STATUS.MASTER_LOST_EVT 1).put Reg.ST_CTRL.ROLE 1).setLock
        (if s.time.parent.isSome then 1 else 0)
    else s
  else
    let was := s.groupValid grp && s.get (Reg.GRP_ROLES.MASTER grp) = s.get (Reg.GRP_CFG.RANK grp) &&
      master ≠ s.get (Reg.GRP_CFG.RANK grp)
    let s := (s.put (Reg.GRP_ROLES.MASTER grp) master).put (Reg.GRP_ROLES.DEPUTY grp) 0xFFFF
    if was then s.put Reg.GL_HB_STATUS.MASTER_LOST_EVT 1 else s

/-- `TAKEOVER_RECEIVE`. -/
def execTakeoverReceive (p : Nat) (h : PktHead) (grp master : Nat) (s : State) : Ans :=
  inUnits (p < 16 && headOk h && grp ≤ 16) (.next (s.arrive p { headPacket h 4 with ofs := 1 + grp * 256, tag := master } (fun t =>
    if t.inGroup grp then t.newMaster grp master else t)))

/-! ## Safety Net messages and drain markers (R449, R450) -/

/-- RESTORE arrives at a part: it begins step 1 with the coordinator's `GEN`, unless it already restores in that
generation, or stops where R415 says so. The message names no fault: where the part has met none of its own, the code is one
of 0x10 to 0x16 that nothing fixes (log 97). -/
def State.joinRestore (s : State) (j gen : Nat) : State :=
  let st := s.jobState j
  if (st = 3 && s.gen j = gen) || !(st = 2 || st = 3) || !s.flag (Reg.SN_CFG.EN j) || s.pairsFailed then s
  else
    let x := s.snOf j
    let e : ErrAt := if st = 3 then x.cause
      else { code := 0x10 + s.takeFree 0 % 7, island := netIsland, job := some j }
    let s := if st = 3 then s else s.bumpFree
    s.restoreOr j { e with job := some j } (st = 3 && decide (2 ≤ x.restarts)) (fun t =>
      ((t.setSn j { t.snOf j with restarts := if st = 3 then x.restarts + 1 else 0, cause := e, causeAt := t.netNow }).beginRestore
        j).put (Reg.SN_JOB_STATUS.GEN j) gen)

/-- A READY report of a child (R449). -/
def State.readyArrive (s : State) (group gen n : Nat) : State :=
  let r := s.relayOf group
  let s := { s with relay := Tab.set (0, 0) s.relay group (r.1 + 1, r.2 + n) }
  let s := match s.jobOfGroup group with
    | some j => if s.phase j = 3 then s.setSn j { s.snOf j with readyAt := some s.netNow } else s
    | none => s
  s.passReady group gen

/-- A message of the coordinator: acted on by the part. An ARM that cannot begin yet is deferred (R403). -/
def State.partMessage (s : State) (j kind body : Nat) : State :=
  match kind with
  | 1 => if s.curtainMay j then s.armPart j body
    else if s.jobState j = 2 then s.setSn j { s.snOf j with armDue := some body, drained := [] } else s
  | 3 => if s.phase j = 3 then (s.setSn j { s.snOf j with tc := body }).put (Reg.SN_JOB_STATUS.PHASE j) 4 else s
  | 4 =>
    let s := s.setSn j { s.snOf j with armDue := none }
    if 1 ≤ s.phase j ∧ s.phase j ≤ 3 then s.giveUpCurtain j else s
  | 5 => s.joinRestore j (body % 256)
  | _ => s

/-- A message of a generation that is not the part's own is discarded; RESTORE carries a new one (R417). -/
def State.staleMessage (s : State) (group gen kind : Nat) : Bool :=
  match s.jobOfGroup group with
  | some j => kind ≠ 5 && s.gen j ≠ gen
  | none => false

/-- RESTORE from below: it goes up the time tree to the coordinator, which joins it and sends it to every part (log 97). -/
def State.restoreUp (s : State) (group gen body : Nat) : State :=
  if !s.isSystemMaster then s.sendUp group gen 5 body
  else
    let s := s.sendDown group gen 5 body
    match s.jobOfGroup group with
    | some j => s.partMessage j 5 body
    | none => s

/-- A Safety Net packet arrives from a neighbour: a message from above is passed on down the time tree and acted on; READY is
gathered for the parent. NET_LOST tells the master, which has no step of its own (R425, R426). -/
def State.snMessage (s : State) (from_ group gen kind body : Nat) : State :=
  if s.staleMessage group gen kind then s
  else match kind with
  | 2 => s.readyArrive group gen body
  | 6 => s
  | _ =>
    if kind = 5 && s.time.parent ≠ some from_ then s.restoreUp group gen body
    else
      let s := if kind = 1 then { s with relay := Tab.set (0, 0) s.relay group (0, 0) } else s
      let s := s.sendDown group gen kind body
      match s.jobOfGroup group with
      | some j => s.partMessage j kind body
      | none => if kind = 1 && s.timeKids.isEmpty then s.passReady group gen else s

/-- `SN_MESSAGE_RECEIVE`: one of the six messages. -/
def execSnMessageReceive (p : Nat) (h : PktHead) (kind body : Nat) (s : State) : Ans :=
  inUnits (p < 16 && headOk h && 1 ≤ kind && kind ≤ 6 && body < 2 ^ 88) (.next (
    s.arrive p { headPacket h 2 with ofs := kind + body % 2 ^ 56 * 256, tag := body / 2 ^ 56 } (fun t =>
      t.snMessage (t.get (Reg.GL_PORT_STATUS.PEER p)) h.group h.gen kind body)))

/-- `DRAIN_MARKER_RECEIVE` (R450): counted by a part, which discards one of another `GEN` (R417), and answered at once by a
device without one. -/
def State.drainMarker (s : State) (p group gen : Nat) : State :=
  match s.jobOfGroup group with
  | some j =>
    let x := s.snOf j
    if x.drained.contains p || s.gen j ≠ gen then s else s.setSn j { x with drained := x.drained ++ [p] }
  | none => s.sendOn p (s.markerPacket group gen (s.get (Reg.GL_PORT_STATUS.PEER p)))

/-- `DRAIN_MARKER_RECEIVE`. -/
def execDrainMarkerReceive (p : Nat) (h : PktHead) (s : State) : Ans :=
  inUnits (p < 16 && headOk h) (.next (s.arrive p (headPacket h 7) (fun t => t.drainMarker p h.group h.gen)))

/-! ## The time tree, device IDs and topologies (R445, R447, R457) -/

/-- The time-tree parent that the route gives: the neighbour on the first hop toward the System Master, on the
lowest-numbered port of the link group that is UP or HALF (R447). -/
def State.routeParent (s : State) : Option Nat :=
  ((s.hopGroup (s.get Reg.GL_MASTER.SYS)).find? s.portUp).map (fun p => s.get (Reg.GL_PORT_STATUS.PEER p))

/-- The parent changes. With a new one the device is in ACQUIRE: from LOCKED it enters HOLDOVER and, the parent being
present, returns at once, and its 16 good offsets are those of the new parent. Without one LOCKED goes to HOLDOVER and
ACQUIRE to FREE (R35, R447). -/
def State.changeParent (s : State) (parent : Option Nat) : State :=
  let s := { s.clearFilters with time := { s.clearFilters.time with parent := parent } }
  match parent with
  | none => if s.lockState = 1 then s.setLock 0 else s.loseLock
  | some _ => s.setLock 1

/-- `TIME_PARENT_CHANGE`: of a member whose route now gives the parent named. -/
def execTimeParentChange (parent : Option Nat) (s : State) : Ans :=
  .next (if s.get Reg.ST_CTRL.ROLE = 1 ∧ s.time.parent ≠ parent ∧ s.routeParent = parent then s.changeParent parent else s)

/-- `ST_CTRL.ROLE` follows the identity, the topology and the System Master (R446); a device whose role changes takes
the lock state that R35 gives the new one. -/
def State.updateRole (s : State) : State :=
  let r := if s.cascadeSize = 1 then 0 else if s.get Reg.GL_MASTER.SYS = s.get Reg.GL_DEV_ID.ID then 2 else 1
  if r = s.get Reg.ST_CTRL.ROLE then s
  else
    let s := s.put Reg.ST_CTRL.ROLE r
    match r with
    | 1 => s.clearFilters.setLock (if s.time.parent.isSome then 1 else 0)
    | 2 => s.leaveParent.setLock (if s.flag Reg.ST_CTRL.TREF_EN || s.flag Reg.ST_CTRL.PPS_EN then 1 else 0)
    | _ => s.leaveParent.setLock 0

/-- A job is RUNNING or RESTORING. -/
def State.anyRunning (s : State) : Bool := (List.range 8).any (fun j => s.jobState j = 2 || s.jobState j = 3)

/-- The device is the master of a group (R457). -/
def State.isGroupMaster (s : State) : Bool :=
  (List.range 16).any (fun k => s.flag (Reg.GRP_CFG.V k) && s.get (Reg.GRP_CFG.RANK k) = s.get (Reg.GRP_ROLES.MASTER k))

/-- The code of a write of `GL_DEV_ID` (R457). -/
def State.devIdCode (s : State) : Nat := if s.anyRunning || s.isSystemMaster || s.isGroupMaster then 0x04 else 0

/-- A write of `GL_DEV_ID` (R457): every port that is UP or HALF retrains, and the new ID is exchanged then. -/
def State.writeDevId (s : State) (val : Nat) : State :=
  if s.devIdCode ≠ 0 then s.reject 0x04 0xB08000 none
  else
    let s := s.put Reg.GL_DEV_ID.ID (bits val 0 16)
    (s.livePorts.foldl (fun (t : State) p => t.retrain p) s).updateRole

/-- `GL_DEV_ID_WRITE`. -/
def execGlDevIdWrite (val : Nat) (s : State) : Ans := .next (s.barWrite (fun t => t.writeDevId val))

/-- The code of a `GL_TOPO` write (R445). -/
def State.topoCode (s : State) (val : Nat) : Nat :=
  firstCode [
    ((bits val 0 4 + 1) * (bits val 4 4 + 1) * (bits val 8 4 + 1) * (bits val 12 4 + 1) ≤
      2 ^ s.get Reg.DEV_GRADE.CASCADE_LOG2, 0x06),
    (!s.anyRunning, 0x04)]

/-- A write of `GL_TOPO`. -/
def State.writeTopo (s : State) (val : Nat) : State :=
  let code := s.topoCode val
  if code ≠ 0 then s.reject code 0xB08008 none
  else
    let s := (s.put Reg.GL_TOPO.MODE (bits val 16 1)).put Reg.GL_TOPO.X0 (bits val 0 4)
    (((s.put Reg.GL_TOPO.X1 (bits val 4 4)).put Reg.GL_TOPO.X2 (bits val 8 4)).put Reg.GL_TOPO.X3
      (bits val 12 4)).updateRole

/-- `GL_TOPO_WRITE`. -/
def execGlTopoWrite (val : Nat) (s : State) : Ans := .next (s.barWrite (fun t => t.writeTopo val))

end Sys2Proof.Machine
end

