-- ==== Sys2Proof/Machine/Collective.lean ====
section
/-! DEFINITION. Collectives: the descriptor table, the checks of a launch, the ring of each operation, the merges, and
completion (R452 to R456). -/

namespace Sys2Proof.Machine

/-! ## Descriptors (R453) -/

/-- A collective descriptor. -/
structure CollD where
  src : Nat
  dsta : Nat
  count : Nat
  op : Nat
  fn : Nat
  fmt : Nat
  cfl : Nat
  ngrp : Nat
  grp : Nat
  launch : Nat
  donef : Nat
  root : Nat
  zeros : Bool
  deriving DecidableEq, Repr

/-- Descriptor d of a job, from its table. -/
def State.collDesc (s : State) (j d : Nat) : CollD :=
  let n := s.memNat (2 ^ 12 * s.get (Reg.GL_COLL_BASE.ADDR j) + 64 * d) 64
  { src := bits n 0 64, dsta := bits n 64 64, count := bits n 128 32, op := bits n 160 8, fn := bits n 168 8
    fmt := bits n 176 8, cfl := bits n 184 8, ngrp := bits n 192 8, grp := bits n 200 16, launch := bits n 224 8
    donef := bits n 232 8, root := bits n 240 16, zeros := bits n 216 8 = 0 && bits n 256 256 = 0 }

/-- Bit 0 of `CFL`: `NF`. -/
def CollD.nf (d : CollD) : Bool := bit d.cfl 0
/-- Bit 1 of `CFL`: the engine. -/
def CollD.eng (d : CollD) : Nat := bits d.cfl 1 1
/-- Bit 2 of `CFL`: `WIDE`. -/
def CollD.wide (d : CollD) : Bool := bit d.cfl 2
/-- The `TMO` exponent less 10; 0 none. -/
def CollD.tmo (d : CollD) : Nat := bits d.cfl 3 3
/-- Group g_i. -/
def CollD.group (d : CollD) (i : Nat) : Nat := bits d.grp (4 * i) 4

/-- The elements of the whole vector; a barrier has none. -/
def CollD.n (d : CollD) : Nat := if d.op = 4 then 0 else d.count

/-- Bytes of an element in memory. -/
def CollD.esize (d : CollD) : Nat :=
  match d.fn with
  | 3 => 8
  | 4 => 12
  | _ => if d.fmt = 2 then 2 else 4

/-- Bytes of an element in a packet: FP32 with `WIDE`. -/
def CollD.psize (d : CollD) : Nat := if d.fn < 3 && d.wide then 4 else d.esize

/-- The island of the engine of a descriptor. -/
def CollD.island (d : CollD) : Nat := 520 + d.eng

/-- The hidden state of descriptor d of a job. -/
def State.collOf (s : State) (j d : Nat) : CollS := Tab.get {} s.coll (64 * j + d)

/-- Write it. -/
def State.setColl (s : State) (j d : Nat) (x : CollS) : State := { s with coll := Tab.set {} s.coll (64 * j + d) x }

/-! ## The stages of an operation (R454) -/

/-- What a stage does over one group. -/
inductive Stage where
  | scatter (i : Nat)
  | gather (i : Nat)
  | cast
  deriving DecidableEq, Repr

/-- The stages of a descriptor, in order. -/
def CollD.stages (d : CollD) : List Stage :=
  let rs := (List.range d.ngrp).map Stage.scatter
  let ag := (List.range d.ngrp).reverse.map Stage.gather
  match d.op with
  | 1 => rs
  | 2 => ag
  | 3 => [.cast]
  | _ => rs ++ ag

/-- The group index of a stage. -/
def Stage.idx : Stage → Nat
  | .scatter i => i
  | .gather i => i
  | .cast => 0

/-- Members and own rank of group g_i. -/
def State.ringOfGroup (s : State) (d : CollD) (i : Nat) : Nat × Nat :=
  (max 1 (s.get (Reg.GRP_CFG.SIZE (d.group i))), s.get (Reg.GRP_CFG.RANK (d.group i)))

/-- Chunk c of a region cut among n members: elements lo + ⌊cL/n⌋ to lo + ⌊(c + 1)L/n⌋ − 1. -/
def chunkOf (r : Nat × Nat) (n c : Nat) : Nat × Nat :=
  let l := r.2 - r.1
  (r.1 + c * l / n, r.1 + (c + 1) * l / n)

/-- The region that stage i of the reduce-scatter works on. -/
def State.region (s : State) (d : CollD) : Nat → Nat × Nat
  | 0 => (0, d.n)
  | i + 1 =>
    let g := s.ringOfGroup d i
    chunkOf (State.region s d i) g.1 g.2

/-- The elements received in step t of a stage. -/
def State.stepChunk (s : State) (d : CollD) (st : Stage) (t : Nat) : Nat × Nat :=
  let g := s.ringOfGroup d st.idx
  let n := g.1
  let c (k : Nat) : Nat := (g.2 + n + n - k % n) % n
  match st with
  | .scatter i => chunkOf (s.region d i) n (c (2 + t))
  | .gather i => chunkOf (s.region d i) n (c (1 + t))
  | .cast => (0, d.n)

/-- The steps of a stage: one for each other member, or one for a member that is not the root. -/
def State.stepCount (s : State) (d : CollD) (st : Stage) : Nat :=
  let g := s.ringOfGroup d st.idx
  match st with
  | .cast => if g.2 = d.root then 0 else 1
  | _ => g.1 - 1

/-- What a stage sends first; none for a member that only passes on. -/
def State.firstChunk (s : State) (d : CollD) (st : Stage) : Option (Nat × Nat) :=
  let g := s.ringOfGroup d st.idx
  if g.1 = 1 then none
  else match st with
    | .scatter i => some (chunkOf (s.region d i) g.1 ((g.2 + g.1 - 1) % g.1))
    | .gather i => some (chunkOf (s.region d i) g.1 g.2)
    | .cast => if g.2 = d.root then some (0, d.n) else none

/-- What is received in step t is sent on: not the own final chunk, nor back to a chunk's owner or the root. -/
def State.passesOn (s : State) (d : CollD) (st : Stage) (t : Nat) : Bool :=
  let g := s.ringOfGroup d st.idx
  match st with
  | .cast => (g.2 + 1) % g.1 ≠ d.root
  | _ => t + 2 < g.1

/-! ## Merges (R455) -/

/-- A value of FP32 or BF16 by element size. -/
def collNum (size c : Nat) : Num := if size = 2 then bf16.decode c else fp32.decode c

/-- The code of a value in a packet or in memory, rounded to nearest-even. -/
def collCode (size : Nat) (v : Num) : Nat := if size = 2 then v.toBf else v.to32

/-- Max-with-index: the larger value, the lower index between equal values; a NaN loses to any number. -/
def maxIndex (a b : Nat) : Nat :=
  let va := fp32.decode (bits a 0 32)
  let vb := fp32.decode (bits b 0 32)
  let lower := decide (signed 32 (bits a 32 32) ≤ signed 32 (bits b 32 32))
  match va.isNan, vb.isNan with
  | true, true => if lower then a else b
  | true, false => b
  | false, true => a
  | false, false =>
    if Num.lt vb va then a else if Num.lt va vb then b else if lower then a else b

/-- A triple of 96 bits. -/
def tripleNat (n : Nat) : Triple := tripleOf [bits n 0 32, bits n 32 32, bits n 64 32]

/-- The 96 bits of a triple. -/
def Triple.toNat (t : Triple) : Nat :=
  let l := t.bits
  l.getD 0 0 + l.getD 1 0 * 2 ^ 32 + l.getD 2 0 * 2 ^ 64

/-- f(acc, own) on packet codes. -/
def CollD.merge (d : CollD) (a b : Nat) : Nat :=
  let z := d.psize
  match d.fn with
  | 0 => collCode z (Num.add (collNum z a) (collNum z b))
  | 1 => collCode z (Num.max (collNum z a) (collNum z b))
  | 2 => collCode z (Num.min (collNum z a) (collNum z b))
  | 3 => maxIndex a b
  | _ => ((tripleNat a).merge (tripleNat b)).toNat

/-- An element of memory as a packet code. -/
def CollD.widen (d : CollD) (c : Nat) : Nat :=
  if d.psize = d.esize then c else collCode d.psize (collNum d.esize c)

/-- A packet code as an element of memory: the final result is rounded to `FMT`. -/
def CollD.narrow (d : CollD) (c : Nat) : Nat :=
  if d.psize = d.esize then c else collCode d.esize (collNum d.psize c)

/-! ## Sending -/

/-- The elements that one packet carries at most. -/
def CollD.perPacket (d : CollD) : Nat := 65536 / d.psize

/-- The device that follows in the ring of a stage. -/
def State.nextId (s : State) (d : CollD) (st : Stage) : Nat :=
  let g := s.ringOfGroup d st.idx
  s.memberId (d.group st.idx) ((g.2 + 1) % g.1)

/-- Send elements lo to lo + n − 1 of the working vector to the next member. -/
def State.sendPart (s : State) (j i : Nat) (d : CollD) (st : Stage) (lo n : Nat) : State :=
  let c := s.collOf j i
  let data := (List.range n).flatMap (fun e => leBytes d.psize (c.acc.getD (lo + e) 0))
  let k := { s.jobPacket j 1 (1 + d.eng) (s.nextId d st) d.island with
    qci := i, inst := c.inst % 256, nf := d.nf && c.nf, ofs := lo, data := data }
  (s.sendPacket k).getD s

/-- Send a chunk in packets; an empty one still sends one, so that a barrier passes round (log 52). -/
def State.sendChunk (s : State) (j i : Nat) (d : CollD) (st : Stage) (r : Nat × Nat) : State :=
  let n := r.2 - r.1
  let k := max 1 ((n + d.perPacket - 1) / d.perPacket)
  (List.range k).foldl (fun (t : State) a =>
    t.sendPart j i d st (r.1 + a * d.perPacket) (min d.perPacket (n - a * d.perPacket))) s

/-! ## Progress -/

/-- Enter the stages that need no packet, sending what each sends first; stop at one that waits. -/
def State.enterStages (s : State) (j i : Nat) (d : CollD) : Nat → State
  | 0 => s
  | fuel + 1 =>
    let c := s.collOf j i
    match d.stages[c.stage]? with
    | none => s
    | some st =>
      let s := match s.firstChunk d st with
        | some r => s.sendChunk j i d st r
        | none => s
      if s.stepCount d st = 0 then
        State.enterStages (s.setColl j i { s.collOf j i with stage := c.stage + 1 }) j i d fuel
      else s

/-- The element offset and the number of elements of the packet expected next; none where every stage is done. -/
def State.expected (s : State) (j i : Nat) (d : CollD) : Option (Nat × Nat) :=
  let c := s.collOf j i
  (d.stages[c.stage]?).map (fun st =>
    let r := s.stepChunk d st c.step
    (r.1 + c.pos, min d.perPacket (r.2 - r.1 - c.pos)))

/-- Every stage is done. -/
def State.collDone (s : State) (j i : Nat) (d : CollD) : Bool := (s.expected j i d).isNone

/-- Put codes into the working vector from an element on, merged where the stage reduces. -/
def CollD.absorb (d : CollD) (reduce : Bool) (acc : List Nat) (lo : Nat) : List Nat → List Nat
  | [] => acc
  | v :: t => CollD.absorb d reduce
      (listSet acc lo (if reduce then d.merge v (acc.getD lo 0) else v)) (lo + 1) t

/-- The codes of a payload. -/
def CollD.codes (d : CollD) : Nat → List Byte → List Nat
  | 0, _ => []
  | n + 1, b => leNat (b.take d.psize) :: CollD.codes d n (b.drop d.psize)

/-- The expected packet is merged and passed on; a step and a stage may end with it. -/
def State.takePacket (s : State) (j i : Nat) (d : CollD) (st : Stage) (ofs n : Nat) (nf : Bool) (data : List Byte) : State :=
  let c := s.collOf j i
  let reduce := match st with
    | .scatter _ => true
    | _ => false
  let c := { c with acc := d.absorb reduce c.acc ofs (d.codes n data), nf := c.nf || nf }
  let s := s.setColl j i c
  let s := if s.passesOn d st c.step then s.sendPart j i d st ofs n else s
  let r := s.stepChunk d st c.step
  if c.pos + n < r.2 - r.1 then s.setColl j i { c with pos := c.pos + n }
  else if c.step + 1 < s.stepCount d st then s.setColl j i { c with pos := 0, step := c.step + 1 }
  else (s.setColl j i { c with pos := 0, step := 0, stage := c.stage + 1 }).enterStages j i d d.stages.length

/-- Take the packets that are waiting, each as it becomes the one expected. A payload whose length disagrees stops the
job with code 0x06. -/
def State.takeWaiting (s : State) (j i : Nat) (d : CollD) : Nat → State
  | 0 => s
  | fuel + 1 =>
    let c := s.collOf j i
    match s.expected j i d, d.stages[c.stage]? with
    | some (ofs, n), some st =>
      match c.early.find? (fun e => e.1 = c.inst % 256 && e.2.2.1 = ofs) with
      | none => s
      | some e =>
        let s := s.setColl j i { c with early := c.early.erase e }
        if e.2.2.2.length ≠ n * d.psize then
          s.raiseErr { code := 0x06, island := d.island, job := some j }
        else State.takeWaiting (s.takePacket j i d st ofs n e.2.1 e.2.2.2) j i d fuel
    | _, _ => s

/-! ## Launch (R456) -/

/-- Two ranges of bytes overlap. -/
def spansMeet (a na b nb : Nat) : Bool := a < b + nb && b < a + na

/-- The bytes that a collective reads at `SRC` and writes at `DSTA`. -/
def State.collSpans (s : State) (d : CollD) : Nat × Nat :=
  let own := let r := s.region d d.ngrp; (r.2 - r.1) * d.esize
  let all := d.n * d.esize
  match d.op with
  | 1 => (all, own)
  | 2 => (own, all)
  | _ => (all, all)

/-- The code of a descriptor's check; 0 where it passes. -/
def State.collCode (s : State) (d : CollD) : Nat :=
  let gs := (List.range d.ngrp).map d.group
  let z := s.collSpans d
  firstCode [
    (d.zeros && d.src < 2 ^ 52 && d.dsta < 2 ^ 52 && d.op ≤ 4 && d.fn ≤ 4 && (d.op < 2 || d.fn = 0), 0x06),
    ((d.fmt = 1 || (d.fmt = 2 && d.fn < 3)) && bits d.cfl 6 2 = 0, 0x06),
    (1 ≤ d.ngrp && d.ngrp ≤ 4 && (d.op ≠ 3 || d.ngrp = 1) && gs.all s.groupValid, 0x06),
    (d.op ≠ 3 || d.root < (s.ringOfGroup d 0).1, 0x06),
    ((List.range d.ngrp).all (fun i => (s.ringOfGroup d i).1 = 1 ||
      !(s.hopGroup (s.nextId d (.scatter i))).isEmpty), 0x05),
    (d.src = d.dsta || !spansMeet d.src z.1 d.dsta z.2, 0x07)]

/-- Read n elements of a job's memory from an address; the code and payload of a read that fails. -/
def State.readElems (s : State) (j a size : Nat) : Nat → Except (Nat × Nat) (List Nat)
  | 0 => .ok []
  | n + 1 => do
    let bs ← (List.range size).mapM (fun i => match s.devRead j (a + i) with
      | some b => Except.ok b
      | none => .error (s.accessFail j (a + i : Nat) false))
    let t ← State.readElems s j (a + size) size n
    return leNat bs :: t

/-- The working vector at launch: the whole of `SRC`, or for an all-gather the own chunk in its place. -/
def State.collLoad (s : State) (j : Nat) (d : CollD) : Except (Nat × Nat) (List Nat) :=
  if d.op = 2 then
    let r := s.region d d.ngrp
    (s.readElems j d.src d.esize (r.2 - r.1)).map (fun l =>
      List.replicate r.1 0 ++ l.map d.widen ++ List.replicate (d.n - r.2) 0)
  else (s.readElems j d.src d.esize d.n).map (fun l => l.map d.widen)

/-- The wait on `LAUNCH` is satisfied, after every wait of the job's contexts. -/
def State.launchReady (s : State) (j : Nat) (d : CollD) : Bool :=
  let v := s.get (Reg.JOB_FLAG.COUNT j d.launch)
  0 < v && (match s.jobCtxs j with
    | p :: _ => (firstWaiter (s.waiters p.1 p.2 (d.launch + 64)) v).isNone
    | [] => true)

/-- The instances an engine runs, of all jobs. -/
def State.engLoad (s : State) (eng : Nat) : Nat :=
  (s.coll.filter (fun e => e.2.running && (s.collDesc (e.1 / 64) (e.1 % 64)).eng = eng)).length

/-- Launch one instance: the flag is taken, the descriptor checked, and its first packets sent. -/
def State.launch (s : State) (j i : Nat) (d : CollD) : State :=
  let s := s.put (Reg.JOB_FLAG.COUNT j d.launch) (s.get (Reg.JOB_FLAG.COUNT j d.launch) - 1)
  let code := s.collCode d
  let err (t : State) (code payload : Nat) : State :=
    t.raiseErr { code := code, island := d.island, payload := payload, job := some j }
  if code ≠ 0 then err s code 0
  else match s.collLoad j d with
    | .error e => err s e.1 e.2
    | .ok acc =>
      let c := s.collOf j i
      let s := s.setColl j i { inst := c.inst + 1, running := true, since := s.stamp d.island, acc := acc
                               nf := d.nf && s.flag (Reg.STEP_NF.LOCAL j), early := c.early }
      (s.enterStages j i d (d.stages.length + 1)).takeWaiting j i d (c.early.length + 1)

/-- `COLLECTIVE_LAUNCH`: of a descriptor that uses a group (one that uses none stands for an empty table entry, log 53). -/
def execCollectiveLaunch (j d : Nat) (s : State) : Ans :=
  inUnits (j < 8 && d < 64) (.next (
    let x := s.collDesc j d
    if s.jobState j = 2 && s.get (Reg.GL_COLL_BASE.ADDR j) ≠ 0 && x.ngrp ≠ 0 && !(s.collOf j d).running &&
        s.engLoad x.eng < 8 && s.launchReady j x then
      s.launch j d x
    else s))

/-- `COLLECTIVE_PACKET` (R454): matched by descriptor and launch count. -/
def State.collPacket (s : State) (j i inst : Nat) (nf : Bool) (ofs : Nat) (data : List Byte) : State :=
  let c := s.collOf j i
  let s := s.setColl j i { c with early := c.early ++ [(inst % 256, nf, ofs, data)] }
  if c.running then s.takeWaiting j i (s.collDesc j i) (c.early.length + 1) else s

/-- `COLLECTIVE_PACKET`: of the running job of its `GROUP` and `GEN`; any other is discarded (R417). -/
def execCollectivePacket (p : Nat) (h : PktHead) (d inst : Nat) (nf : Bool) (ofs : Nat) (data : List (BitVec 8))
    (s : State) : Ans :=
  inUnits (p < 16 && headOk h && d < 64 && data.length ≤ 65536) (.next (
    s.arrive p { headPacket h 1 with qci := d, inst := inst, nf := nf, ofs := ofs, data := data } (fun t =>
      match t.packetJob h.group h.gen with
      | some j => t.collPacket j d inst nf ofs data
      | none => t)))

/-! ## Completion (R455, R456) -/

/-- Write elements to a job's memory; the code and payload of a write that fails. -/
def State.writeElems (s : State) (j a size : Nat) : List Nat → Except (Nat × Nat) State
  | [] => .ok s
  | v :: t => do
    let s ← (List.zip (List.range size) (leBytes size v)).foldlM
      (fun (u : State) e => match u.devWrite j (a + e.1) e.2 with
        | some w => Except.ok w
        | none => .error (u.accessFail j (a + e.1 : Nat) true)) s
    State.writeElems s j (a + size) size t

/-- The elements that a finished instance writes. -/
def State.collOut (s : State) (d : CollD) (acc : List Nat) : List Nat :=
  (if d.op = 1 then
    let r := s.region d d.ngrp
    (acc.drop r.1).take (r.2 - r.1)
  else acc).map d.narrow

/-- An instance completes. -/
def State.collFinish (s : State) (j i : Nat) (d : CollD) : State :=
  let c := s.collOf j i
  match s.writeElems j d.dsta d.esize (s.collOut d c.acc) with
  | .error e => s.raiseErr { code := e.1, island := d.island, payload := e.2, job := some j }
  | .ok s =>
    let s := s.setColl j i { inst := c.inst, early := c.early }
    let s := if d.nf then
        (s.put (Reg.STEP_NF.GLOBAL j) (ofBool (s.flag (Reg.STEP_NF.GLOBAL j) || c.nf))).incSat (Reg.STEP_NF.DONE j) 1
      else s
    s.addJobFlag j d.donef 1 2 d.island

/-- `COLLECTIVE_COMPLETE`. -/
def execCollectiveComplete (j d : Nat) (s : State) : Ans :=
  inUnits (j < 8 && d < 64) (.next (
    let x := s.collDesc j d
    if s.jobState j = 2 && (s.collOf j d).running && s.collDone j d x then s.collFinish j d x else s))

/-- `COLLECTIVE_TIMEOUT`: `TMO` has expired. -/
def execCollectiveTimeout (j d : Nat) (s : State) : Ans :=
  inUnits (j < 8 && d < 64) (.next (
    let x := s.collDesc j d
    if s.jobState j = 2 && (s.collOf j d).running && x.tmo ≠ 0 then
      s.raiseErr { code := 0x02, island := x.island, job := some j }
    else s))

end Sys2Proof.Machine
end

