-- ==== Sys2Proof/Machine/Window.lean ====
section
/-! DEFINITION. The host link: configuration requests, D3hot, interrupt messages, the device memory window, DOE mailboxes
and IDE streams (R390, R461 to R469, R477 to R479). -/

namespace Sys2Proof.Machine

/-! ## The link and the configuration space -/

/-- The function's rates in GT/s (R461). -/
def linkRates : List Nat := [32, 64, 128]

/-- The widths of the link (R461). -/
def linkWidths : List Nat := [1, 2, 4, 8]

/-- `PCIE_LINK_L0`: the link reaches L0, and the function becomes ready for configuration (R465). -/
def execPcieLinkL0 (rate width : Nat) (s : State) : Ans :=
  inUnits (linkRates.contains rate && linkWidths.contains width)
    (.next (if s.aon.perst || s.aon.down then s
      else { s with pcie := { s.pcie with linkL0 := true, ready := true, rate := rate, width := width } }))

/-- Every job that is neither FREE nor DONE is halted as by a HALT command, where that command is legal (R464). -/
def State.haltAll (s : State) : State :=
  (List.range 8).foldl (fun (t : State) j => if t.jobState j = 2 ∨ t.jobState j = 3 then t.haltJob j else t) s

/-- Entry into D3hot (R464). -/
def State.enterD3hot (s : State) : State := { s.haltAll with pcie := { s.pcie with d3hot := true } }

/-- `D3HOT_ENTRY`. -/
def execD3hotEntry (s : State) : Ans := .next s.enterD3hot

/-- What a completed configuration request writes (R462, R464). -/
def State.configWrite (s : State) : ConfigReq → State
  | .read => s
  | .busMaster en => { s with pcie := { s.pcie with busMaster := en } }
  | .msixControl en mask => { s with pcie := { s.pcie with msixEnable := en, functionMask := mask } }
  | .powerState true => s.enterD3hot
  | .powerState false => { s with pcie := { s.pcie with d3hot := false } }

/-- `CONFIG_REQUEST`: until the function is ready it is completed with Request Retry Status and writes nothing (R465). -/
def execConfigRequest (req : ConfigReq) (s : State) : Ans :=
  .next (if s.pcie.ready then s.configWrite req else s)

/-- `MSIX_SEND`: a pending vector's message is sent once it can be (R390). -/
def State.msixSend (s : State) (v : Nat) : State :=
  let p := s.get Reg.MSIX_PBA.PENDING
  if bit p v && s.sendable v then { s.put Reg.MSIX_PBA.PENDING (setBit p v false) with msgs := s.msgs ++ [v] } else s

/-- `MSIX_SEND`. -/
def execMsixSend (v : Nat) (s : State) : Ans := inUnits (v < 64) (.next (s.msixSend v))

/-! ## The device memory window (R468, R469) -/

/-- The address a window offset stands for. -/
def State.winAddr (s : State) (o : Nat) : Nat := 2 ^ 34 * s.get Reg.HIF_WIN.BASE + o

/-- The job states in which its virtual space may be reached through the window: LOADED, RUNNING, HALTED, DONE. -/
def State.winJob (s : State) (j : Nat) : Bool :=
  s.jobState j = 1 || s.jobState j = 2 || s.jobState j = 5 || s.jobState j = 6

/-- A byte of a window read: its value, or the code it is refused with. -/
def State.winRead (s : State) (a : Nat) : Nat × Byte :=
  let j := s.get Reg.HIF_WIN.JOB
  if s.get Reg.HIF_WIN.MODE = 0 then
    (if !s.frameExists (dfnOf a) then (0x06, 0xFF)
     else if s.ownerOf (dfnOf a) = 0xD then (0, s.memByte a) else (0x04, 0xFF))
  else if !s.winJob j then (0x04, 0xFF)
  else match s.devRead j a with
    | some b => (0, b)
    | none => (s.accessCode j a false, 0xFF)

/-- A table of page entries of a FREE or LOADED job covers an address. -/
def State.inTable (s : State) (a : Nat) : Bool :=
  (List.range 8).any (fun j => s.jobIdle j && [s.root1 j, s.root2 j].any (fun r => r ≠ 0 &&
    (s.level1 r).any (fun i => bits (s.memNat (r + 8 * i) 8) 20 23 = a / 2 ^ 20)))

/-- A direct write of a byte of a table; `ACC` of the entry that it changes is cleared (R335). -/
def State.tableWrite (s : State) (a : Nat) (b : Byte) : State :=
  let t := s.setMemByte a b
  if t.inTable a then t.setMemNat (a / 16 * 16 + 12) 2 0 else t

/-- A byte of a window write: the state after it, and the code it is refused with. -/
def State.winWrite (s : State) (a : Nat) (b : Byte) : State × Nat :=
  let j := s.get Reg.HIF_WIN.JOB
  if s.get Reg.HIF_WIN.MODE = 0 then
    (if !s.frameExists (dfnOf a) then (s, 0x06)
      else if s.ownerOf (dfnOf a) = 0xD then ((s.tableWrite a b).countMem a 1 true, 0) else (s, 0x04))
  else if !s.winJob j then (s, 0x04)
  else match s.devWrite j a b with
    | some t => (t.countMem (2 ^ 21 * ((s.pte j (bits a 21 31)).getD ⟨0, 0⟩).live + bits a 0 21) 1 true, 0)
    | none => (s, s.accessCode j a true)

/-- The code that an access counts once, from the codes of its bytes: `PAGE_FAULT` before the rejections (R468), of these
the range of a frame that does not exist first (R60, R323). -/
def winCode (codes : List Nat) : Nat :=
  firstCode [(!codes.contains 0x0A, 0x0A), (!codes.contains 0x06, 0x06), (!codes.contains 0x04, 0x04)]

/-- A refused access is counted, traced and charged to the device; no job stops. -/
def State.winRefuse (s : State) (code : Nat) : State :=
  if code = 0 then s else s.raiseErr { code := code, island := 523 }

/-- The device physical address that a permitted read of an address goes to (R399). -/
def State.winPhys (s : State) (a : Nat) : Nat :=
  if s.get Reg.HIF_WIN.MODE = 0 then a else (s.readAddr (s.get Reg.HIF_WIN.JOB) a).getD a

/-- A window read: its bytes stand in `mmioData`, and the bytes served are counted (R347). -/
def State.windowRead (s : State) (o n : Nat) : State :=
  let r := (List.range n).map (fun i => s.winRead (s.winAddr o + i))
  let t := (List.range n).foldl (fun (t : State) i =>
    if (r.getD i (0x04, 0)).1 = 0 then t.countMem (s.winPhys (s.winAddr o + i)) 1 false else t) s
  let t := t.winRefuse (winCode (r.map (·.1)))
  { t with mmioData := leNat (r.map (·.2)) }

/-- An access lies in the BAR. -/
def State.inWindow (s : State) (o n : Nat) : Bool := 1 ≤ n && o + n ≤ 2 ^ s.pcie.bar2Log2

/-- `WINDOW_READ` (R468); a device that has shut down does not answer (log 74). -/
def execWindowRead (off n : Nat) (s : State) : Ans :=
  inUnits (s.inWindow off n) (.next (if s.aon.down then s else s.windowRead off n))

/-- Write the bytes of a window write in order, collecting their codes. -/
def State.winWriteAll (s : State) (a : Nat) : List Byte → State × List Nat
  | [] => (s, [])
  | b :: t =>
    let r := s.winWrite a b
    let q := State.winWriteAll r.1 (a + 1) t
    (q.1, r.2 :: q.2)

/-- `WINDOW_WRITE` (R468), discarded while the control pairs have failed (R425, log 121). -/
def execWindowWrite (off : Nat) (data : List (BitVec 8)) (s : State) : Ans :=
  inUnits (s.inWindow off data.length)
    (.next (if s.aon.down || s.pairsFailed then s
      else
        let r := s.winWriteAll (s.winAddr off) data
        r.1.winRefuse (winCode r.2)))

/-- The code of a write of `HIF_WIN`: `BASE` is a multiple of the BAR2 size (R469). -/
def State.hifWinCode (s : State) (val : Nat) : Nat :=
  if bits val 34 18 * 2 ^ 34 % 2 ^ s.pcie.bar2Log2 = 0 then 0 else 0x06

/-- A write of `HIF_WIN`. -/
def State.writeHifWin (s : State) (val : Nat) : State :=
  if s.hifWinCode val ≠ 0 then s.reject 0x06 0x102000 none
  else ((s.put Reg.HIF_WIN.BASE (bits val 34 18)).put Reg.HIF_WIN.JOB (bits val 4 3)).put Reg.HIF_WIN.MODE (bits val 0 1)

/-- `HIF_WIN_WRITE`. -/
def execHifWinWrite (val : Nat) (s : State) : Ans := .next (s.barWrite (fun t => t.writeHifWin val))

/-- `HIF_WIN` returns to its reset value. -/
def State.resetWindow (s : State) : State :=
  ((s.clearFld Reg.HIF_WIN.BASE).clearFld Reg.HIF_WIN.JOB).clearFld Reg.HIF_WIN.MODE

/-- `BAR2_RESIZE`: 16 GiB to 4 TiB in powers of two (R467, R469). -/
def execBar2Resize (log2 : Nat) (s : State) : Ans :=
  inUnits (34 ≤ log2 && log2 ≤ 42)
    (.next (if log2 = s.pcie.bar2Log2 then s
      else { s.resetWindow with pcie := { s.pcie with bar2Log2 := log2 } }))

/-! ## DOE mailboxes (R477) -/

/-- A DOE mailbox. -/
def State.mailbox (s : State) (m : Nat) : DoeS := Tab.get {} s.doe m

/-- Write a DOE mailbox. -/
def State.setMailbox (s : State) (m : Nat) (x : DoeS) : State := { s with doe := Tab.set {} s.doe m x }

/-- The protocol of a data object: the vendor of its first two bytes and the type of its third (log 16). -/
def doeType (obj : List Byte) : Nat × Nat := (leNat (obj.take 2), (obj.getD 2 0).toNat)

/-- The mailbox serves a protocol: DOE Discovery (0) on both, CMA-SPDM (1) on 0, Secured CMA-SPDM (2) on 1 (log 16). -/
def doeServed (m : Nat) (obj : List Byte) : Bool :=
  let t := doeType obj
  t.1 = 1 && (t.2 = 0 || t.2 = m + 1)

/-- A response stands ready in a mailbox, and vector 30 signals it. -/
def State.doeReply (s : State) (m : Nat) (resp : List Byte) : State :=
  (s.setMailbox m { req := none, resp := some resp }).sendVector 30

/-- A data object arrives: discarded while the mailbox is busy, above 16 KiB, or of a protocol it does not carry; a
Discovery is answered at once, with content that the spec leaves to DOE, and an SPDM object waits for its request's
command (log 55). -/
def State.doeArrive (s : State) (m : Nat) (obj : List Byte) : State :=
  let x := s.mailbox m
  if s.aon.down || x.req.isSome || 16384 < obj.length || !doeServed m obj then s
  else if (doeType obj).2 = 0 then
    (s.bumpFree).doeReply m (leBytes 8 (s.takeFree 0))
  else s.setMailbox m { x with req := some obj }

/-- `DOE_OBJECT`. -/
def execDoeObject (mb : Nat) (obj : List (BitVec 8)) (s : State) : Ans := inUnits (mb < 2) (.next (s.doeArrive mb obj))

/-! ## IDE streams (R478) -/

/-- An IDE stream. -/
def State.stream (s : State) (n : Nat) : IdeS := Tab.get {} s.ide n

/-- Write an IDE stream. -/
def State.setStream (s : State) (n : Nat) (x : IdeS) : State := { s with ide := Tab.set {} s.ide n x }

/-- `IDE_CHECK_FAIL`: the TLP is dropped and counted, and the stream enters the Insecure state. -/
def execIdeCheckFail (stream : Nat) (s : State) : Ans :=
  inUnits (stream < 4)
    (.next ((s.raiseErr { code := 0x13, island := 523 }).setStream stream { s.stream stream with secure := false }))

end Sys2Proof.Machine
end

