-- ==== Sys2Proof/Machine/Power.lean ====
section
/-! DEFINITION. Power, clocks and temperature: the cap loop, throttling, voltage–frequency points, sensors, limits,
shut-downs, reference clocks and glitch filters (R383, R483 to R506, R587). -/

namespace Sys2Proof.Machine

/-! ## Temperatures (R492, R493, R533) -/

/-- The die of a junction sensor: Rings 0 to 3, the Midway 4, Guyline dies 5 and 6. -/
def sensorDie (i : Nat) : Nat := if i < 48 then i / 12 else if i < 56 then 4 else if i < 60 then 5 else 6

/-- A sensor's reading in 1/16 °C. -/
def State.rawTemp (s : State) (i : Nat) : Int := signed 16 (s.get (Reg.TS_TEMP.TEMP i))

/-- The temperature that R493 and R495 use: a failed sensor is replaced by the highest reading among the other sensors of
its die, plus 5 °C (R533). Where every sensor of the die has failed nothing states it, and it is free (log 129). -/
def State.effTemp (s : State) (i : Nat) : Int :=
  if s.hs.badSensors.contains i then
    match ((List.range 64).filter (fun k => sensorDie k = sensorDie i && k ≠ i && !s.hs.badSensors.contains k)).map
        s.rawTemp with
    | [] => signed 16 (s.takeFree (0x10000 + i))
    | v :: l => l.foldl max v + 80
  else s.rawTemp i

/-- The sensors of a Ring. -/
def ringSensors (r : Nat) : List Nat := (List.range 12).map (12 * r + ·)

/-- The sensors that set a Ring's throttle floor: its own, and those of the Midway and the Guyline dies. -/
def floorSensors (r : Nat) : List Nat := ringSensors r ++ (List.range 16).map (48 + ·)

/-- `PWR_SHARE.W` of a Ring. -/
def shareFld (r : Nat) : Fld :=
  match r with
  | 0 => Reg.PWR_SHARE.W0
  | 1 => Reg.PWR_SHARE.W1
  | 2 => Reg.PWR_SHARE.W2
  | _ => Reg.PWR_SHARE.W3

/-- A Ring's floor (R488, R491, R493). -/
def State.ringFloor (s : State) (r : Nat) : Nat :=
  let pin := if s.flag Reg.PWR_STATUS.THROT_IN then s.get Reg.PWR_CAP.THROT_IN_LEVEL else 0
  max (max pin (Tab.get 0 s.power.hotFloor r)) (if s.power.hot.contains r then 32 else 0)

/-- Every Ring's level is at least its floor. -/
def State.liftLevels (s : State) : State :=
  (List.range 4).foldl (fun (t : State) r =>
    t.put (Reg.RING_PWR.LEVEL r) (max (t.get (Reg.RING_PWR.LEVEL r)) (t.ringFloor r))) s

/-- A Ring's point becomes vf; its next change is 1 ms away (R487). -/
def State.setPoint (s : State) (r vf : Nat) : State :=
  let w := s.power
  { s with power := { w with rise := Tab.set none w.rise r none, pace := Tab.set 0 w.pace r 100 } }.put
    (Reg.RING_PWR.VF r) vf

/-- A Ring reaches 110 °C: point 3 at once, where its point is not frozen (R485, R493, log 56). -/
def State.ringHot (s : State) (r : Nat) : State :=
  let s := { s with power := { s.power with hot := s.power.hot ++ [r] } }
  let s := (s.put Reg.PWR_STATUS.HOT_EVT 1).pldmEvent 2
  if s.power.frozen.contains r then s else s.setPoint r 3

/-- The 110 °C rule of a Ring. -/
def State.checkHot (s : State) (r : Nat) : State :=
  if s.power.hot.contains r then
    (if (ringSensors r).all (fun i => s.effTemp i < 1680) then
      { s with power := { s.power with hot := s.power.hot.filter (· ≠ r) } } else s)
  else if (ringSensors r).any (fun i => 1760 ≤ s.effTemp i) then s.ringHot r
  else s

/-- A sensor's reading is applied (R493, R505). -/
def State.sensorUpdate (s : State) (i : Nat) (temp : Int) : State :=
  let peak := if s.power.peaked.contains i then max temp (signed 16 (s.get (Reg.TS_TEMP.PEAK i))) else temp
  let s := (s.put (Reg.TS_TEMP.TEMP i) (unsigned 16 temp)).put (Reg.TS_TEMP.PEAK i) (unsigned 16 peak)
  let s := { s with power := { s.power with peaked := if s.power.peaked.contains i then s.power.peaked
                                                      else s.power.peaked ++ [i] } }
  ((List.range 4).foldl (fun (t : State) r => t.checkHot r) s).liftLevels

/-- `SENSOR_UPDATE`: a reading in 1/16 °C. A reading of 115 °C leads to `THERMTRIP`, a command of its own. -/
def execSensorUpdate (i : Nat) (temp : Int) (s : State) : Ans :=
  inUnits (i < 64 && -32768 ≤ temp && temp ≤ 32767) (.next (if s.aon.down then s else s.sensorUpdate i temp))

/-! ## The cap loop (R488, R490) -/

/-- The effective cap C. -/
def State.effCap (s : State) : Nat :=
  if s.flag Reg.PWR_STATUS.THROT_IN then min (s.get Reg.PWR_CAP.CAP_W) (s.get Reg.PWR_CAP.BOARD_W)
  else s.get Reg.PWR_CAP.CAP_W

/-- The level that step 4 gives, before the floor: P, C, the power outside the Rings, the Ring's power, its share and the
sum of shares. B is X / W with X = (C − P_o) × w and W = Σw. For a Ring that draws nothing while its budget is negative
the quotient has no value: the rise is the free value given, and the level stays at most 63 (log 111). -/
def stepLevel (cap outside : Int) (p w wsum level free : Nat) : Nat :=
  let x := (cap - outside) * w
  let y : Int := p * wsum
  if x < y then min 63 (level + (if y = 0 then free else ((64 * (y - x) + y - 1) / y).toNat))
  else if 100 * y < 97 * x then level - 2
  else level

/-- The throttle floor of R493 in one period: it rises by 8 from `TJ_THROT` until every sensor is below `TJ_THROT` − 2 °C,
and then falls by 2. -/
def State.hotPeriod (s : State) (r : Nat) : State :=
  let tj : Int := 16 * s.get Reg.PWR_LIMIT.TJ_THROT
  let w := s.power
  let warm : Bool :=
    if w.warm.contains r then !((floorSensors r).all (fun i => s.effTemp i < tj - 32))
    else (floorSensors r).any (fun i => tj ≤ s.effTemp i)
  let f := Tab.get 0 w.hotFloor r
  { s with power := { w with
      warm := if warm then (if w.warm.contains r then w.warm else w.warm ++ [r]) else w.warm.filter (· ≠ r)
      hotFloor := Tab.set 0 w.hotFloor r (if warm then min 63 (f + 8) else f - 2) } }

/-- One Ring's part of a period. -/
def State.capRing (s : State) (outside : Int) (r p : Nat) : State :=
  let s := (s.hotPeriod r).put (Reg.RING_PWR.RING_W r) p
  let wsum := ((List.range 4).map (fun k => s.get (shareFld k))).foldl (· + ·) 0
  let l := max (stepLevel s.effCap outside p (s.get (shareFld r)) wsum (s.get (Reg.RING_PWR.LEVEL r)) (s.takeFree r))
    (s.ringFloor r)
  let w := s.power
  let e := Tab.get 0 w.ringRem r + p
  { s with power := { w with
      pace := Tab.set 0 w.pace r (Tab.get 0 w.pace r - 1)
      high := Tab.set 0 w.high r (if 32 < l then Tab.get 0 w.high r + 1 else 0)
      zero := Tab.set 0 w.zero r (if l = 0 then Tab.get 0 w.zero r + 1 else 0)
      ringRem := Tab.set 0 w.ringRem r (e % 100) } }.put (Reg.RING_PWR.LEVEL r) l
    |>.inc (Reg.RING_ENERGY.N r) (e / 100)

/-- One period of the cap loop. -/
def State.capLoop (s : State) (pkg : Nat) (ring : List Nat) : State :=
  let outside : Int := (pkg : Int) - (ring.foldl (· + ·) 0 : Nat)
  let s := s.bumpFree.put Reg.PWR_STATUS.PKG_W pkg
  let s := (List.range 4).foldl (fun (t : State) r => t.capRing outside r (ring.getD r 0)) s
  let ls := (List.range 4).map (fun r => s.get (Reg.RING_PWR.LEVEL r))
  let e := s.power.pkgRem + pkg
  let half := s.effCap < pkg && (ls.contains 63 || s.power.hbmHalf)
  let s := { s with power := { s.power with hbmHalf := half, pkgRem := e % 100 } }.inc Reg.PWR_ENERGY.N (e / 100)
  if ls.any (· ≠ 0) then s.inc Reg.THROT_PERIODS.N 1 else s

/-- `CAP_LOOP`: the package's power and the four Rings', in W. -/
def execCapLoop (pkg : Nat) (ring : List Nat) (s : State) : Ans :=
  inUnits (ring.length = 4) (.next (if s.aon.down then s else s.capLoop pkg ring))

/-- `THROTTLE_WINDOW` (R489): L clk of a core's window are frozen with cause THROT. -/
def execThrottleWindow (g cx : Nat) (s : State) : Ans :=
  inUnits (g < 24 && cx < 16) (.next (s.inc (Reg.ARR_FRZ_THROT.N g cx) (s.get (Reg.RING_PWR.LEVEL (ringOf g)))))

/-! ## Voltage–frequency points (R485 to R487, R490) -/

/-- A change of a Ring's point is one that R490 or R493 makes, at the pace of R487. -/
def State.pointOk (s : State) (r vf : Nat) : Bool :=
  let cur := s.get (Reg.RING_PWR.VF r)
  let w := s.power
  let low := decide (s.effCap < 1100)
  !w.frozen.contains r && (Tab.get none w.rise r).isNone && Tab.get 0 w.pace r = 0 && !w.hot.contains r &&
    ((low && vf = cur + 1 && decide (100 ≤ Tab.get 0 w.high r)) ||
      (low && vf + 1 = cur && decide (100 ≤ Tab.get 0 w.zero r)) || (!low && decide (vf < cur)))

/-- `VF_CHANGE` (R487): downward the frequency switches at once; upward it waits for the regulator. -/
def State.vfChange (s : State) (r vf : Nat) : State :=
  if !s.pointOk r vf then s
  else if s.get (Reg.RING_PWR.VF r) < vf then s.setPoint r vf
  else { s with power := { s.power with rise := Tab.set none s.power.rise r (some vf) } }

/-- `VF_CHANGE`. -/
def execVfChange (r vf : Nat) (s : State) : Ans :=
  inUnits (r < 4 && vf < 4) (.next (if s.aon.down then s else s.vfChange r vf))

/-- `AVS_COMPLETION` (R484, R487): the rail's voltage, and the frequency of a rise that waited for it. -/
def execAvsCompletion (r mv : Nat) (s : State) : Ans :=
  inUnits (r < 4 && 550 ≤ mv && mv ≤ 850)
    (.next (let s := s.put (Reg.RING_PWR.MV r) mv
      match Tab.get none s.power.rise r with
      | some vf => s.setPoint r vf
      | none => s))

/-- `AVS_FAILURE` (R485): the Ring keeps its point until device reset. -/
def execAvsFailure (r : Nat) (s : State) : Ans :=
  inUnits (r < 4)
    (.next ({ s with power := { s.power with
        frozen := if s.power.frozen.contains r then s.power.frozen else s.power.frozen ++ [r]
        rise := Tab.set none s.power.rise r none } }.put Reg.PWR_STATUS.AVS_EVT 1))

/-! ## Pins (R383, R491) -/

/-- `THROTTLE_IN_ASSERT` (R491). -/
def execThrottleInAssert (s : State) : Ans :=
  .next ((s.put Reg.PWR_STATUS.THROT_IN 1).put Reg.PWR_STATUS.THROT_IN_EVT 1).liftLevels

/-- `THROTTLE_IN_DEASSERT`: the floor returns to zero, and the levels fall with the cap loop. -/
def execThrottleInDeassert (s : State) : Ans := .next (s.put Reg.PWR_STATUS.THROT_IN 0)

/-- The counter of a filtered pin: 0 PERST#, 1 THROTTLE_IN#, 2 THERMTRIP#, 3 PPS_IN. -/
def pinFld (pin : Nat) : Fld :=
  match pin with
  | 0 => Reg.ERR_PIN_CNT.PERST
  | 1 => Reg.ERR_PIN_CNT.THROT
  | 2 => Reg.ERR_PIN_CNT.TRIP
  | _ => Reg.ERR_PIN_CNT.PPS

/-- `PIN_GLITCH` (R383). -/
def execPinGlitch (pin : Nat) (s : State) : Ans :=
  inUnits (pin < 4) (.next ((s.incSat (pinFld pin) 1).setEvent Reg.ERR_DEV_STATUS.PIN_EVT 11))

/-! ## Stack temperatures (R494) -/

/-- What a stack's controller admits: 0 all its requests, 1 half, 2 a quarter. -/
def State.admitLevel (s : State) (temp : Nat) : Nat :=
  let l := s.get Reg.PWR_LIMIT.HBM_TLIMIT
  if l + 5 ≤ temp then 2 else if l < temp then 1 else 0

/-- `HBM_HOT`: a stack's reading; `HBM_HOT_EVT` sets on each entry. -/
def execHbmHot (st temp : Nat) (s : State) : Ans :=
  inUnits (st < 24 && temp < 256)
    (.next (let n := s.admitLevel temp
      let was := Tab.get 0 s.power.admits st
      let s := s.put (Reg.HBM_TEMP.T st) temp
      let s := { s with power := { s.power with admits := Tab.set 0 s.power.admits st n } }
      if was < n then s.put Reg.PWR_STATUS.HBM_HOT_EVT 1 else s))

/-! ## Shutting down (R495, R587) -/

/-- The shut-down: issue stops, memories refresh themselves, the lanes stop, the rails go to 0.55 V, rises
of a point that wait for them end, and start-up ends. -/
def State.shutdown (s : State) : State :=
  if s.aon.down then s
  else
    let s := (List.range 48).foldl (fun (t : State) i =>
      if t.flag (Reg.CTX_CFG.BOUND (i / 2) (i % 2)) then t.stopCtx (i / 2) (i % 2) else t) s
    let s := (List.range 16).foldl (fun (t : State) p => t.clearLink p |>.put (Reg.GL_PORT_STATUS.STATE p) 0) s
    let s := (List.range 4).foldl (fun (t : State) r => t.put (Reg.RING_PWR.MV r) 550) s
    { s with hbmSelf := true, ddrSelf := true, power := { s.power with rise := [] }, aon := { s.aon with down := true },
             boot := { s.boot with running := false },
             pcie := { s.pcie with linkL0 := false, ready := false } }

/-- THERMTRIP (R495): a sensor at 115 °C or more, or the pin; the sensor recorded for the pin is not stated. -/
def State.thermtrip (s : State) (sensor : Option Nat) : State :=
  let real := match sensor with
    | some i => decide (1840 ≤ s.effTemp i)
    | none => true
  if !real then s
  else
    let n := match sensor with
      | some i => i
      | none => s.takeFree 0 % 64
    let s := s.bumpFree
    let rec_ := if s.aon.trip.isSome then s.aon.trip else some (n, s.stamp 541)
    { s with aon := { s.aon with trip := rec_, tripLow := true } }.shutdown

/-- `THERMTRIP`. -/
def execThermtrip (sensor : Option Nat) (s : State) : Ans :=
  inUnits (sensor.all (· < 64)) (.next (s.thermtrip sensor))

/-- `SUPPLY_FAULT` (R587): a rail out of its range while PERST# is deasserted. -/
def execSupplyFault (rail : Nat) (s : State) : Ans :=
  inUnits (rail < 9)
    (.next (if s.aon.perst then s
      else
        let rec_ := if s.aon.supply.isSome then s.aon.supply else some (rail, s.stamp 541)
        { s with aon := { s.aon with supply := rec_ } }.shutdown))

/-! ## Reference clocks (R496 to R498) -/

/-- The badness of a source: 0 REFCLK, 1 BREF_100M. -/
def State.refBad (s : State) (src : Nat) : Bool :=
  if src = 0 then s.flag Reg.CLK_STATUS.BAD_PCIE else s.flag Reg.CLK_STATUS.BAD_BREF

/-- `REFERENCE_MEASUREMENT` (R496): what the always-on domain finds of each source. -/
def execReferenceMeasurement (badPcie badBref badGl : Bool) (s : State) : Ans :=
  .next (((s.put Reg.CLK_STATUS.BAD_PCIE (ofBool badPcie)).put Reg.CLK_STATUS.BAD_BREF (ofBool badBref)).put
    Reg.CLK_STATUS.BAD_GL (ofBool badGl))

/-- `REF_CLOCK_SWITCH` (R497): from a bad source to a good one. -/
def execRefClockSwitch (s : State) : Ans :=
  .next (let src := s.get Reg.CLK_STATUS.SRC
    if s.refBad src && !s.refBad (1 - src) then (s.put Reg.CLK_STATUS.SRC (1 - src)).put Reg.PWR_STATUS.REF_EVT 1 else s)

/-- `REF_CLOCKS_BAD` (R497). -/
def execRefClocksBad (s : State) : Ans :=
  .next (if s.refBad 0 && s.refBad 1 then s.raiseErr { code := 0x14, island := 541 } else s)

/-- `CLOCK_LOCK_LOSS` (R498): the island stops; its sending crossings then time out, each a `CROSSING_TIMEOUT` of its
own. -/
def execClockLockLoss (island : Nat) (s : State) : Ans :=
  inUnits (island < 543)
    (.next { s with stopped := if s.stopped.contains island then s.stopped else s.stopped ++ [island] })

end Sys2Proof.Machine
end

