-- ==== Sys2Proof/Machine/Striker.lean ====
section
/-! DEFINITION. The High Striker: targets, the reference block, logic tests with their phases, analogue checks and results
(R525 to R539). -/

namespace Sys2Proof.Machine

/-! ## Targets and references -/

/-- The targets of a class (R525). -/
def hsCount (cls : Nat) : Nat :=
  match cls with
  | 0 => 384
  | 1 => 24
  | 2 => 16
  | 3 => 1
  | 4 => 24
  | 5 => 8
  | 6 => 543
  | 7 => 64
  | _ => 0

/-- The Ring an island lies on (R31). -/
def ringOfIsland (i : Nat) : Option Nat :=
  if i < 384 then some (i / 96) else if i < 408 then some ((i - 384) / 6) else if i < 456 then some ((i - 408) / 12)
  else if i < 480 then some ((i - 456) / 6) else if i < 496 then some ((i - 480) / 4) else none

/-- The Ring whose point and voltage a test depends on (R530). -/
def hsRing (cls idx : Nat) : Option Nat :=
  match cls with
  | 0 => ringOfIsland idx
  | 1 => ringOfIsland (384 + idx)
  | 6 => ringOfIsland idx
  | 7 => if idx < 48 then some (idx / 12) else none
  | _ => none

/-- The test window (R530): 1.0 to 1.1 GHz and 0.70 to 0.80 V. -/
def State.inTestWindow (s : State) (cls idx : Nat) : Bool :=
  match hsRing cls idx with
  | some r => s.get (Reg.RING_PWR.VF r) ≤ 1 && 700 ≤ s.get (Reg.RING_PWR.MV r) && s.get (Reg.RING_PWR.MV r) ≤ 800
  | none => true

/-- The entries of a verified reference block whose header is right (R534). -/
def refEntries (b : List Byte) : List (List Byte) :=
  let n := leNat ((b.drop 2).take 2)
  let ok := b.getD 0 0 = 1 && b.getD 1 0 = 0 && b.getD 4 0 = 1 && ((b.drop 5).take 59).all (· = 0)
  if ok && decide (64 + 32 * n ≤ b.length) then (List.range n).map (fun i => (b.drop (64 + 32 * i)).take 32) else []

/-- The entry of a class and depth: the `SIG` word. -/
def State.hsEntry (s : State) (cls depth : Nat) : Option Nat :=
  match s.boot.refs with
  | none => none
  | some b =>
    match (refEntries b).find? (fun e => (e.getD 0 0).toNat = cls && (e.getD 1 0).toNat = depth) with
    | some e => some (leNat ((e.drop 16).take 8))
    | none => none

/-- A core is idle (R528): its queues are empty, those of a core that it doubles for among them, and no tile step holds
anything. -/
def State.coreIdle (s : State) (g cx : Nat) : Bool :=
  (List.range 2).all (fun c => (s.coresOf g c).all (fun k => (s.view g k).cx ≠ cx ||
    (List.range 4).all (fun e => (s.queue g c e).all (fun q => q.retiredIn k)))) &&
    ((s.core g cx).steps).isEmpty && !s.flag (Reg.SP_STATUS.BT_ACTIVE g cx)

/-- A target is retired: a core, a stack or a channel. -/
def State.hsRetired (s : State) (cls idx : Nat) : Bool :=
  match cls with
  | 0 => s.coreRetired (idx / 16) (idx % 16)
  | 4 => bit (s.get Reg.MEM_HBM_STATUS.RETIRED) idx
  | 5 => bit (s.get Reg.MEM_DDR_STATUS.RETIRED) idx
  | _ => false

/-- A logic target is idle (R528). -/
def State.hsIdle (s : State) (cls idx : Nat) : Bool :=
  match cls with
  | 0 => s.coreIdle (idx / 16) (idx % 16)
  | 1 => !s.flag (Reg.CTX_CFG.BOUND idx 0) && !s.flag (Reg.CTX_CFG.BOUND idx 1)
  | _ => true

/-! ## Results (R535, R537, R539) -/

/-- The class and index of the present test. -/
def State.hsTarget (s : State) : Nat × Nat := (s.get Reg.HS_STATUS.TARGET / 4096, s.get Reg.HS_STATUS.TARGET % 4096)

/-- Write a result: its status, events, counters and trace record. -/
def State.hsReport (s : State) (res : Nat) : State :=
  let s := (((s.put Reg.HS_STATUS.RESULT res).put Reg.HS_STATUS.BUSY 0).put Reg.HS_STATUS.PHASE 0).put
    Reg.HS_STATUS.DONE_EVT 1
  let s := if res = 2 then (s.put Reg.HS_STATUS.FAIL_EVT 1).inc Reg.HS_FAILS.N 1
    else if res = 5 then s.inc Reg.HS_ABANDONS.N 1
    else if res = 3 ∨ res = 4 ∨ res = 6 ∨ res = 7 then s.inc Reg.HS_REFUSED.N 1
    else s
  s.trace 541 0x0140 none (2 ^ 48 * s.get Reg.HS_STATUS.TARGET + 2 ^ 46 * s.get Reg.HS_STATUS.DEPTH + 2 ^ 43 * res +
    s.get Reg.HS_SIG.V % 2 ^ 32)

/-- The target is not a fused unit (R3): the port of class 2, or the port whose island class 6 names. -/
def State.targetPresent (s : State) (cls idx : Nat) : Bool :=
  if cls = 2 then s.portPresent idx
  else if cls = 6 ∧ 504 ≤ idx ∧ idx < 520 then s.portPresent (idx - 504)
  else true

/-- The code of an `HS_CMD` write (R535). -/
def State.hsCode (s : State) (cls idx depth : Nat) : Nat :=
  firstCode [
    (idx < hsCount cls && (depth = 1 || depth = 2), 0x06),
    (s.targetPresent cls idx, 0x05),
    (!s.flag Reg.HS_STATUS.BUSY && s.flag Reg.DEV_STATUS.READY, 0x04)]

/-- The result that keeps a test from starting; 0 where it starts (R528, R530, R534, R535). -/
def State.hsRefusal (s : State) (cls idx depth : Nat) : Nat :=
  firstCode [
    (!s.hsRetired cls idx, 7),
    ((s.hsEntry cls depth).isSome, 6),
    (s.inTestWindow cls idx, 3),
    (s.hsIdle cls idx, 4)]

/-- A write of `HS_CMD`: a logic test begins with its save, an analogue check with its measurement (R527, R532). -/
def State.writeHsCmd (s : State) (val : Nat) : State :=
  let cls := bits val 12 4
  let idx := bits val 0 12
  let depth := bits val 16 2
  let code := s.hsCode cls idx depth
  if code ≠ 0 then s.reject code 0xD00000 none
  else
    let s := (s.put Reg.HS_STATUS.TARGET (bits val 0 16)).put Reg.HS_STATUS.DEPTH depth
    let no := s.hsRefusal cls idx depth
    if no ≠ 0 then s.hsReport no
    else
      let loop := if cls = 2 && !s.portUp idx then some idx else none
      let s := { s with hs := { s.hs with cut := 0, early := false, ended := false, loop := loop } }
      let s := (s.put Reg.HS_STATUS.BUSY 1).put Reg.HS_STATUS.PHASE (if cls ≤ 1 then 1 else 2)
      (s.put Reg.HS_REF.V ((s.hsEntry cls depth).getD 0)).inc Reg.HS_RUNS.N 1

/-- `HS_CMD`. -/
def execHsCmd (val : Nat) (s : State) : Ans := .next (s.barWrite (fun t => t.writeHsCmd val))

/-- A logic test is in a phase. -/
def State.logicPhase (s : State) (ph : Nat) : Bool :=
  s.flag Reg.HS_STATUS.BUSY && s.hsTarget.1 ≤ 1 && s.get Reg.HS_STATUS.PHASE = ph

/-- The restore begins, with the result that cut the test short (0: none did). -/
def State.hsRestore (s : State) (cut : Nat) : State :=
  { s with hs := { s.hs with cut := cut } }.put Reg.HS_STATUS.PHASE 3

/-- The restore ends: the work held at the target goes on (R529). -/
def State.hsRelease (s : State) : State :=
  let s := { s with hs := { s.hs with ended := true } }.put Reg.HS_STATUS.PHASE 0
  if s.hsTarget.1 = 0 then s.pump (s.hsTarget.2 / 16) else s

/-- Work waits at the target's crossing. -/
def State.testArrivals (s : State) : Bool := s.testIsland.any (fun i => !(s.crossing i).isEmpty)

/-- A phase of a logic test ends (R527, R529): save is followed by the test, or by the restore where work arrived
meanwhile, as it is where work waits at the end of the test; the end of the restore releases the target. -/
def State.hsPhaseDone (s : State) : State :=
  if s.logicPhase 1 then (if s.hs.early || s.testArrivals then s.hsRestore 5 else s.put Reg.HS_STATUS.PHASE 2)
  else if s.logicPhase 2 then s.hsRestore (if s.testArrivals then 5 else 0)
  else if s.logicPhase 3 then s.hsRelease
  else s

/-- `HS_ARRIVAL_ABANDON` (R529). -/
def execHsArrivalAbandon (s : State) : Ans :=
  .next (if s.logicPhase 1 then { s with hs := { s.hs with early := true } }
    else if s.logicPhase 2 then s.hsRestore 5
    else s)

/-- `HS_WINDOW_EXIT` (R530). -/
def execHsWindowExit (s : State) : Ans :=
  .next (if s.logicPhase 2 && !s.inTestWindow s.hsTarget.1 s.hsTarget.2 then s.hsRestore 3 else s)

/-- What a failed logic test does beside its report (R531). -/
def State.logicFail (s : State) : State :=
  let t := s.hsTarget
  if t.1 = 0 then s.coreLost (t.2 / 16) (t.2 % 16)
  else
    { s with barred := if s.barred.contains t.2 then s.barred else s.barred ++ [t.2] }.raiseErr
      { code := 0x13, island := rmIsland t.2, unit := 0, troupe := t.2, ofOp := false }

/-- The result of a logic test whose restore is over; a test that was cut short has no signature. -/
def State.hsResult (s : State) (sig : Nat) : State :=
  if !(s.flag Reg.HS_STATUS.BUSY && s.hsTarget.1 ≤ 1 && s.hs.ended) then s
  else if s.hs.cut ≠ 0 then s.hsReport s.hs.cut
  else
    let s := s.put Reg.HS_SIG.V sig
    if s.get Reg.HS_SIG.V = s.get Reg.HS_REF.V then s.hsReport 1 else (s.hsReport 2).logicFail

/-- `HS_RESULT`. -/
def execHsResult (sig : Nat) (s : State) : Ans := .next (s.hsResult sig)

/-- The result of an analogue check: the value against `LIMIT_LO` and `LIMIT_HI` (R532, R533). A port whose `EN` was set
during its loop-back enters TRAINING. -/
def State.analogueDone (s : State) (value : Int) : State :=
  let t := s.hsTarget
  if !(s.flag Reg.HS_STATUS.BUSY && 2 ≤ t.1) then s
  else
    let ref := s.get Reg.HS_REF.V
    let pass := decide (signed 32 ref ≤ value) && decide (value ≤ signed 32 (ref / 2 ^ 32))
    let s := (s.put Reg.HS_SIG.V (unsigned 64 value)).hsReport (if pass then 1 else 2)
    let s := if t.1 = 7 && !pass && !s.hs.badSensors.contains t.2 then
        { s with hs := { s.hs with badSensors := s.hs.badSensors ++ [t.2] } } else s
    match s.hs.loop with
    | some p =>
      let s := { s with hs := { s.hs with loop := none } }
      if s.flag (Reg.GL_PORT_CFG.EN p) && s.get (Reg.GL_PORT_STATUS.STATE p) = 0 then
        (s.clearLink p).setPortState p 1 else s
    | none => s

/-- `ANALOGUE_CHECK_DONE`. -/
def execAnalogueCheckDone (value : Int) (s : State) : Ans := .next (s.analogueDone value)

end Sys2Proof.Machine
end

