-- ==== Sys2Proof/Machine/Security.lean ====
section
/-! DEFINITION. Security: signed objects and their verification, measurements, the security mailbox, SPDM with its
sessions, IDE keys and Guyline keys (R540 to R561). -/

namespace Sys2Proof.Machine

/-! ## Hashes, keys and fuses (R540, R542, R546; log 13) -/

/-- SHA-512. -/
def sha512 (msg : List Byte) : List Byte := (List.range 64).map (Config.hash 0 msg)

/-- The fused device seed. -/
def deviceSeed : List Byte := (List.range 64).map Config.deviceSeed

/-- The public identity key (R540): 133 bytes, the same at each start-up. -/
def identityKey : List Byte := (List.range 133).map (Config.kdf 0 deviceSeed [])

/-- A signature of the identity key over a message: r and s. -/
def identitySig (msg : List Byte) : List Byte := (List.range 132).map (Config.kdf 1 deviceSeed msg)

/-- A root slot is usable: neither empty nor revoked (R542). -/
def State.slotUsable (s : State) (n : Nat) : Bool :=
  n < 4 && bit (s.get Reg.SEC_FUSE.PRESENT) n && !bit (s.get Reg.SEC_FUSE.REVOKED) n

/-- The usable root slots, as a mask. -/
def State.usableSlots (s : State) : Nat :=
  (List.range 4).foldl (fun m n => if s.slotUsable n then setBit m n true else m) 0

/-- The hash a root slot is fused with. -/
def rootHash (n : Nat) : List Byte := (List.range 64).map (Config.rootHash n)

/-- The anti-rollback counters: 0 FW, 1 PLAYBILL, 2 STB, 3 POLICY (R546, R557). -/
def svnFld (k : Nat) : Fld :=
  match k with
  | 0 => Reg.SEC_SVN.FW
  | 1 => Reg.SEC_SVN.PLAYBILL
  | 2 => Reg.SEC_SVN.STB
  | _ => Reg.SEC_SVN.POLICY

/-- The counter of a `TYPE` (R546). -/
def typeCounter (typ : Nat) : Option Nat :=
  match typ with
  | 1 => some 0
  | 3 => some 1
  | 4 => some 2
  | 2 => some 3
  | _ => none

/-! ## Signed objects (R543, R544) -/

/-- Bytes lo to lo + n − 1 of an object. -/
def cut (b : List Byte) (lo n : Nat) : List Byte := (b.drop lo).take n

/-- Every byte is zero. -/
def allZero (b : List Byte) : Bool := b.all (· = 0)

/-- `TYPE`. -/
def objType (b : List Byte) : Nat := (b.getD 4 0).toNat
/-- `SIGNER`. -/
def objSigner (b : List Byte) : Nat := (b.getD 5 0).toNat
/-- `SVN`. -/
def objSvn (b : List Byte) : Nat := leNat (cut b 8 4)
/-- `BODY_LEN`. -/
def objLen (b : List Byte) : Nat := leNat (cut b 12 4)
/-- `PUBKEY`, with its zero bytes. -/
def objKey (b : List Byte) : List Byte := cut b 32 136
/-- The body. -/
def objBody (b : List Byte) : List Byte := cut b 304 (objLen b)

/-- Check 1: `MAGIC`, the zero fields, `BODY_LEN`, and the `TYPE` that the use needs. -/
def formatOk (typ : Nat) (b : List Byte) : Bool :=
  304 ≤ b.length && leNat (cut b 0 4) = 0x50535143 && objType b = typ && allZero (cut b 6 2) && allZero (cut b 16 16) &&
    allZero (cut b 165 3) && allZero (cut b 300 4) && objLen b ≤ 2 ^ 28 && 304 + objLen b ≤ b.length

/-- The use bit an enrolled key needs for a `TYPE`; none where only a root slot may sign. -/
def useBit (typ : Nat) : Option Nat :=
  match typ with
  | 3 => some 0
  | 2 => some 1
  | 5 => some 2
  | _ => none

/-- Check 2: the signer is usable, its key is the object's, and it may sign the `TYPE`. -/
def State.signerOk (s : State) (enrolled : Tab (Nat × List Byte)) (typ : Nat) (b : List Byte) : Bool :=
  let n := objSigner b
  if n < 4 then s.slotUsable n && sha512 (objKey b) = rootHash n
  else if 0x10 ≤ n ∧ n ≤ 0x13 then
    match useBit typ with
    | some u =>
      let k := Tab.get (0, []) enrolled (n - 0x10)
      bit k.1 u && k.2 = objKey b
    | none => false
  else false

/-- Check 3: `SIG` over the digest of bytes 0 to 167 and the body. -/
def sigValid (b : List Byte) : Bool :=
  Config.sigOk (cut b 32 133) (sha512 (cut b 0 168 ++ objBody b)) (cut b 168 132)

/-- Check 4: `SVN` is at least the counter. -/
def State.versionOk (s : State) (typ : Nat) (b : List Byte) : Bool :=
  match typeCounter typ with
  | some k => s.get (svnFld k) ≤ objSvn b
  | none => true

/-- The reason an object fails verification; 0 where it passes (R544, R561). -/
def State.verifyObj (s : State) (enrolled : Tab (Nat × List Byte)) (typ : Nat) (b : List Byte) : Nat :=
  if !formatOk typ b then 1
  else if !s.signerOk enrolled typ b then 2
  else if !sigValid b then 3
  else if !s.versionOk typ b then 4
  else 0

/-- The `SVN` of a verified object is the last of its `TYPE` (R546). -/
def State.noteSvn (s : State) (typ : Nat) (b : List Byte) : State :=
  match typeCounter typ with
  | some k => { s with sec := { s.sec with last := Tab.set none s.sec.last k (some (objSvn b)) } }
  | none => s

/-- An object in device memory: its envelope, and its body where `BODY_LEN` is in range. -/
def State.memObj (s : State) (a : Nat) : List Byte :=
  let h := s.memBytes a 304
  if objLen h ≤ 2 ^ 28 then s.memBytes a (304 + objLen h) else h

/-- An object in a flash slot; one that does not end in its slot is cut there. -/
def State.flashBytes (s : State) (a n : Nat) : List Byte := (List.range n).map (fun i => Tab.get 0xFF s.flash (a + i))

/-- An object that starts at a slot's first byte. -/
def State.flashObj (s : State) (a size : Nat) : List Byte :=
  let h := s.flashBytes a 304
  if 304 + objLen h ≤ size then s.flashBytes a (304 + objLen h) else h

/-- The first byte and the size of a slot: component 1 firmware, 2 Playbill, 3 self-test block (R562). -/
def flashSlot (comp slot : Nat) : Nat × Nat :=
  match comp with
  | 1 => (0x01000000 + slot * 0x02000000, 2 ^ 25)
  | 2 => (0x10000 + slot * 0x10000, 2 ^ 16)
  | _ => (0x100000 + slot * 0x100000, 2 ^ 20)

/-- The enrolled keys that a Playbill's body carries (R545, R564): certificate k defines key k only if it verifies. -/
def State.enrolFrom (s : State) (body : List Byte) : Tab (Nat × List Byte) :=
  (List.range 4).foldl (fun (t : Tab (Nat × List Byte)) k =>
    let c := cut body (512 + 512 * k) 512
    let b := objBody c
    if s.verifyObj [] 6 c = 0 && decide (152 ≤ objLen c) && (b.getD 8 0).toNat < 8 && allZero (cut b 9 7) then
      Tab.set (0, []) t k ((b.getD 8 0).toNat, cut b 16 136)
    else t) []

/-! ## Measurements (R549) -/

/-- Write a measurement, zero-padded to 64 bytes. -/
def State.setMeas (s : State) (i : Nat) (v : List Byte) : State :=
  (List.range 8).foldl (fun (t : State) w => t.put (Reg.SEC_MEAS.W (i - 1) w) (leNat (cut v (8 * w) 8))) s

/-- Read a measurement. -/
def State.meas (s : State) (i : Nat) : List Byte :=
  (List.range 8).flatMap (fun w => leBytes 8 (s.get (Reg.SEC_MEAS.W (i - 1) w)))

/-- Extend a measurement by a digest. -/
def State.extendMeas (s : State) (i : Nat) (d : List Byte) : State := s.setMeas i (sha512 (s.meas i ++ d))

/-! ## The mailbox (R557) -/

/-- The objects a command reads lie in frames of owner `TABLE`. -/
def State.objInTable (s : State) : Bool :=
  let a := s.get Reg.SEC_ADDR.ADDR * 8
  s.tableFrames a 304 && s.tableFrames a (s.memObj a).length

/-- A command ends with its reason code. -/
def State.secDone (s : State) (code : Nat) : State := (s.put Reg.SEC_STATUS.CODE code).put Reg.SEC_STATUS.DONE_EVT 1

/-- Result bytes in `SEC_DATA`; the bytes beyond them keep their values. -/
def State.secData (s : State) (v : List Byte) : State :=
  (List.range ((v.length + 7) / 8)).foldl (fun (t : State) w =>
    let old := leBytes 8 (t.get (Reg.SEC_DATA.W w))
    let new := cut v (8 * w) 8
    t.put (Reg.SEC_DATA.W w) (leNat (new ++ old.drop new.length))) s

/-- `GET_NONCE` (R555): a new nonce, whose value the spec leaves to the security block. -/
def State.secNonce (s : State) : State :=
  let n := (List.range 4).flatMap (fun w => leBytes 8 (s.takeFree w))
  let s := { s.bumpFree with sec := { s.sec with nonce := some n } }
  (s.secData n).secDone 0

/-- `GET_IDENTITY` (R540). -/
def State.secIdentity (s : State) : State := (s.secData identityKey).secDone 0

/-- `VERIFY`: a policy module; on success measurement 8 is extended. -/
def State.secVerify (s : State) : State :=
  let b := s.memObj (s.get Reg.SEC_ADDR.ADDR * 8)
  let r := s.verifyObj s.sec.enrolled 2 b
  if r = 0 then ((s.noteSvn 2 b).extendMeas 8 (sha512 b)).secDone 0 else s.secDone r

/-- `SVN_COMMIT` (R546): up to the version last verified, never above 64 and never downward. -/
def State.secCommit (s : State) (k : Nat) : State :=
  let f := svnFld k
  let v := match Tab.get none s.sec.last k with
    | some n => max (s.get f) (min n 64)
    | none => s.get f
  (s.put f v).secDone 0

/-- The reason a revocation is refused; 0 where it is applied (R544, R548). -/
def State.revokeCode (s : State) (b : List Byte) : Nat :=
  let r := s.verifyObj s.sec.enrolled 7 b
  let n := ((objBody b).getD 0 0).toNat
  if r ≠ 0 then r
  else if objLen b < 16 ∨ !allZero (cut (objBody b) 1 15) ∨ 4 ≤ n then 1
  else if objSigner b = n ∨ s.usableSlots = 2 ^ n then 2
  else 0

/-- `REVOKE`. -/
def State.secRevoke (s : State) : State :=
  let b := s.memObj (s.get Reg.SEC_ADDR.ADDR * 8)
  let r := s.revokeCode b
  if r ≠ 0 then s.secDone r
  else (s.put Reg.SEC_FUSE.REVOKED
    (setBit (s.get Reg.SEC_FUSE.REVOKED) ((objBody b).getD 0 0).toNat true)).secDone 0

/-- The reason a debug token fails; 0 where it is accepted (R544, R555). -/
def State.debugCode (s : State) (b : List Byte) : Nat :=
  let r := s.verifyObj s.sec.enrolled 5 b
  let body := objBody b
  if r ≠ 0 then r
  else if objLen b < 100 ∨ 4 ≤ leNat (cut body 96 4) then 1
  else if cut body 0 64 ≠ sha512 identityKey ∨ s.sec.nonce ≠ some (cut body 64 32) then 6
  else 0

/-- Every Guyline key slot is cleared, and ports with `ENC` set lose their links (R437, R556). -/
def State.clearKeys (s : State) : State :=
  (List.range 16).foldl (fun (t : State) p =>
    let t := t.setPort p { t.port p with keys := [], txSlot := 0, keyGo := false, rxKey := none }
    if t.flag (Reg.GL_PORT_CFG.ENC p) && t.portLive p then t.losePort p 0 else t) s

/-- Every IDE stream stops: Insecure, without keys. -/
def State.stopIde (s : State) : State := { s with ide := [] }

/-- What the security block does before the debug port opens, and the opening (R556). -/
def State.openDebug (s : State) (b : List Byte) : State :=
  let s := s.extendMeas 7 (sha512 b)
  let s := { s with sec := { s.sec with sessions := [] } }
  let s := s.stopIde.clearKeys
  { s.put Reg.SEC_STATUS.DEBUG 1 with sec := { s.sec with level := leNat (cut (objBody b) 96 4) } }

/-- `DEBUG_OPEN`: the nonce is consumed whether or not it succeeds. -/
def State.secDebug (s : State) : State :=
  let b := s.memObj (s.get Reg.SEC_ADDR.ADDR * 8)
  let r := s.debugCode b
  let s := { s with sec := { s.sec with nonce := none } }
  if r = 0 then (s.openDebug b).secDone 0 else s.secDone r

/-- The code of a `SEC_CMD` write. -/
def State.secCode (s : State) (op arg : Nat) : Nat :=
  let reads : Bool := op = 3 || op = 5 || op = 6
  firstCode [
    (1 ≤ op && op ≤ 6 && (if op = 4 then arg < 4 else arg = 0), 0x06),
    (!s.flag Reg.SEC_STATUS.BUSY && s.flag Reg.DEV_STATUS.READY, 0x04),
    (!reads || s.objInTable, 0x04),
    (op ≠ 6 || !s.anyRunning, 0x04)]

/-- A write of `SEC_CMD`; the command ends in the step that starts it (log 57). -/
def State.secCmd (s : State) (op arg : Nat) : State :=
  let code := s.secCode op arg
  if code ≠ 0 then s.reject code 0x900000 none
  else match op with
    | 1 => s.secNonce
    | 2 => s.secIdentity
    | 3 => s.secVerify
    | 4 => s.secCommit arg
    | 5 => s.secRevoke
    | _ => s.secDebug

/-- `GET_NONCE`. -/
def execGetNonce (s : State) : Ans := .next (s.barWrite (fun t => t.secCmd 1 0))

/-- `GET_IDENTITY`. -/
def execGetIdentity (s : State) : Ans := .next (s.barWrite (fun t => t.secCmd 2 0))

/-- `VERIFY`. -/
def execVerify (s : State) : Ans := .next (s.barWrite (fun t => t.secCmd 3 0))

/-- `SVN_COMMIT`. -/
def execSvnCommit (arg : Nat) (s : State) : Ans := .next (s.barWrite (fun t => t.secCmd 4 (arg % 256)))

/-- `REVOKE`. -/
def execRevoke (s : State) : Ans := .next (s.barWrite (fun t => t.secCmd 5 0))

/-- `DEBUG_OPEN`. -/
def execDebugOpen (s : State) : Ans := .next (s.barWrite (fun t => t.secCmd 6 0))

/-! ## SPDM (R551) -/

/-- The identity area of flash (R562). -/
def State.identityArea (s : State) : List Byte := s.flashBytes 0x2000 0xE000

/-- Answer a request of a transport: DOE mailbox 0 or 1, or MCTP (2). -/
def State.spdmReply (s : State) (tr : Nat) (ok : Bool) (data : List Byte) : State :=
  let s := { s with sec := { s.sec with reply := ⟨tr, ok, data⟩ } }
  if tr < 2 then s.doeReply tr data else s

/-- A request of a transport is taken up: a mailbox holds the object that carries it (log 55). A device that has shut down
does not answer, and neither does the security block once both control pairs have failed (R425, R495, R570). -/
def State.spdmServe (s : State) (tr : Nat) (f : State → State) : State :=
  if s.aon.down || s.pairsFailed || (tr < 2 && (s.mailbox tr).req.isNone) then s else f s

/-- `GET_VERSION`: SPDM 1.3. -/
def execGetVersion (tr : Nat) (s : State) : Ans :=
  inUnits (tr < 3) (.next (s.spdmServe tr (fun t => t.spdmReply tr true [0x13])))

/-- `GET_CAPABILITIES`: CTExponent 17. -/
def execGetCapabilities (tr : Nat) (s : State) : Ans :=
  inUnits (tr < 3) (.next (s.spdmServe tr (fun t => t.spdmReply tr true [17])))

/-- `NEGOTIATE_ALGORITHMS`: a requester that offers none supported receives ERROR. -/
def execNegotiateAlgorithms (tr : Nat) (supported : Bool) (s : State) : Ans :=
  inUnits (tr < 3) (.next (s.spdmServe tr (fun t => t.spdmReply tr supported [])))

/-- `GET_DIGESTS`: the mask of filled slots, and slot 0's digest (R541). -/
def execGetDigests (tr : Nat) (s : State) : Ans :=
  inUnits (tr < 3) (.next (s.spdmServe tr (fun t =>
    t.spdmReply tr true (if t.flag Reg.SEC_STATUS.CERT_OK then 1 :: sha512 t.identityArea else [0]))))

/-- `GET_CERTIFICATE`: slot 0's chain; an empty or other slot gives ERROR (R541, R551). -/
def execGetCertificate (tr slot off len : Nat) (s : State) : Ans :=
  inUnits (tr < 3) (.next (s.spdmServe tr (fun t =>
    if slot = 0 && t.flag Reg.SEC_STATUS.CERT_OK then t.spdmReply tr true (cut t.identityArea off len)
    else t.spdmReply tr false [])))

/-- `CHALLENGE`: the signed response; ERROR while `CERT_OK` is clear (R541). -/
def execChallenge (tr slot : Nat) (nonce : List (BitVec 8)) (s : State) : Ans :=
  inUnits (tr < 3) (.next (s.spdmServe tr (fun t =>
    if slot = 0 && t.flag Reg.SEC_STATUS.CERT_OK then t.spdmReply tr true (identitySig nonce)
    else t.spdmReply tr false [])))

/-- The measurements a request names: one, or all (R549). -/
def State.measData (s : State) (idx : Nat) : List Byte :=
  if idx = 0xFF then (List.range 8).flatMap (fun i => s.meas (i + 1)) else s.meas idx

/-- `GET_MEASUREMENTS` (R541, R550): as they stand when the request is taken up, signed if it asks for that. -/
def execGetMeasurements (tr idx : Nat) (signed : Bool) (nonce : List (BitVec 8)) (s : State) : Ans :=
  inUnits (tr < 3) (.next (s.spdmServe tr (fun t =>
    if (signed && !t.flag Reg.SEC_STATUS.CERT_OK) || !(idx = 0xFF || (1 ≤ idx && decide (idx ≤ 8))) then
      t.spdmReply tr false []
    else
      let d := t.measData idx
      t.spdmReply tr true (if signed then d ++ identitySig (nonce ++ d) else d))))

/-- A session that FINISH has completed. -/
def State.session (s : State) (n : Nat) : Option SessS := Tab.get none s.sec.sessions n

/-- Write a session. -/
def State.setSession (s : State) (n : Nat) (x : Option SessS) : State :=
  { s with sec := { s.sec with sessions := Tab.set none s.sec.sessions n x } }

/-- The transport a session's messages use; mailbox 1 where there is none. -/
def State.sessTr (s : State) (n : Nat) : Nat :=
  match s.session n with
  | some x => x.tr
  | none => 1

/-- A session is complete. -/
def State.sessUp (s : State) (n : Nat) : Bool :=
  match s.session n with
  | some x => x.up
  | none => false

/-- Serve a request inside a session. -/
def State.sessServe (s : State) (ses : Nat) (f : State → State) : State := s.spdmServe (s.sessTr ses) f

/-- Answer a request of a session. -/
def State.sessReply (s : State) (ses : Nat) (ok : Bool) : State := s.spdmReply (s.sessTr ses) ok []

/-- `KEY_EXCHANGE`: a session opens where fewer than four stand; its messages use mailbox 1 or MCTP. -/
def execKeyExchange (tr : Nat) (s : State) : Ans :=
  inUnits (tr < 3) (.next (s.spdmServe tr (fun t =>
    match (List.range 4).find? (fun n => (t.session n).isNone) with
    | some n => (t.setSession n (some { tr := if tr = 2 then 2 else 1 })).spdmReply tr true []
    | none => t.spdmReply tr false [])))

/-- `FINISH`: completes a session's handshake where its check holds. -/
def execFinish (ses : Nat) (ok : Bool) (s : State) : Ans :=
  inUnits (ses < 4) (.next (s.sessServe ses (fun t =>
    match t.session ses with
    | some x => if ok && !x.up then (t.setSession ses (some { x with up := true })).sessReply ses true
        else t.sessReply ses false
    | none => t.sessReply ses false)))

/-- `HEARTBEAT_SPDM`. -/
def execHeartbeatSpdm (ses : Nat) (s : State) : Ans :=
  inUnits (ses < 4) (.next (s.sessServe ses (fun t => t.sessReply ses (t.sessUp ses))))

/-- `KEY_UPDATE`. -/
def execKeyUpdate (ses : Nat) (s : State) : Ans :=
  inUnits (ses < 4) (.next (s.sessServe ses (fun t =>
    match t.session ses with
    | some x => if x.up then (t.setSession ses (some { x with updates := x.updates + 1 })).sessReply ses true
        else t.sessReply ses false
    | none => t.sessReply ses false)))

/-- `END_SESSION`. -/
def execEndSession (ses : Nat) (s : State) : Ans :=
  inUnits (ses < 4) (.next (s.sessServe ses (fun t =>
    if t.sessUp ses then (t.sessReply ses true).setSession ses none else t.sessReply ses false)))

/-! ## IDE_KM (R478, R552) -/

/-- IDE_KM runs inside a session on mailbox 1, on a link in FLIT mode at 64 GT/s or more. -/
def State.ideMay (s : State) (ses : Nat) : Bool := s.sessUp ses && s.sessTr ses = 1 && decide (64 ≤ s.pcie.rate)

/-- `KEY_PROG`. -/
def execKeyProg (ses stream keySet : Nat) (key : List (BitVec 8)) (s : State) : Ans :=
  inUnits (ses < 4 && stream < 4 && keySet < 2 && key.length = 32) (.next (s.sessServe ses (fun t =>
    if t.ideMay ses then
      (t.setStream stream { t.stream stream with keys := Tab.set [] (t.stream stream).keys keySet key }).sessReply ses true
    else t.sessReply ses false)))

/-- `K_SET_GO`: of a key set that was programmed. -/
def execKSetGo (ses stream keySet : Nat) (s : State) : Ans :=
  inUnits (ses < 4 && stream < 4 && keySet < 2) (.next (s.sessServe ses (fun t =>
    if t.ideMay ses && (Tab.get [] (t.stream stream).keys keySet) ≠ [] then
      (t.setStream stream { t.stream stream with active := some keySet, secure := true }).sessReply ses true
    else t.sessReply ses false)))

/-- `K_SET_STOP`. -/
def execKSetStop (ses stream keySet : Nat) (s : State) : Ans :=
  inUnits (ses < 4 && stream < 4 && keySet < 2) (.next (s.sessServe ses (fun t =>
    if t.ideMay ses then
      let x := t.stream stream
      let x := if x.active = some keySet then { x with active := none, secure := false } else x
      (t.setStream stream x).sessReply ses true
    else t.sessReply ses false)))

/-! ## Guyline keys (R553, R554) -/

/-- A key request of a fused port is answered ERROR and counted as `FUSED_UNIT` (R3). -/
def State.keyServe (s : State) (ses port : Nat) (f : State → State) : State :=
  s.sessServe ses (fun t =>
    if !t.sessUp ses then t.sessReply ses false
    else if !t.portPresent port then (t.reject 0x05 0 none).sessReply ses false
    else f t)

/-- The slot is the transmit slot in use, or the receive slot whose identifier the port last received. -/
def State.keyBusy (s : State) (p dir slot : Nat) : Bool :=
  match s.keySlot p dir slot with
  | some k => if dir = 0 then (s.port p).txSlot = slot else (s.port p).rxKey = some k.1
  | none => false

/-- `GL_KEY_PROG` (R553). -/
def execGlKeyProg (ses port dir slot keyId : Nat) (key : List (BitVec 8)) (s : State) : Ans :=
  inUnits (ses < 4 && port < 16 && dir < 2 && slot < 2 && keyId < 2 ^ 32 && key.length = 32)
    (.next (s.keyServe ses port (fun t =>
      if t.keyBusy port dir slot then t.sessReply ses false
      else
        let x := t.port port
        (t.setPort port { x with keys := Tab.set none x.keys (2 * dir + slot) (some (keyId, key)) }).sessReply ses true)))

/-- `GL_KEY_GO` (R554): the change comes with the next MAC flit. -/
def execGlKeyGo (ses port : Nat) (s : State) : Ans :=
  inUnits (ses < 4 && port < 16)
    (.next (s.keyServe ses port (fun t =>
      (t.setPort port { t.port port with keyGo := true }).sessReply ses true)))

end Sys2Proof.Machine
end

