-- ==== Sys2Proof/Machine/Playbill.lean ====
section
/-! DEFINITION. The Playbill: its fields with their ranges and defaults, and what its commit applies (R5, R364,
R564 to R566, R577, R578). -/

namespace Sys2Proof.Machine

/-- A little-endian field of a Playbill body. -/
def pbNat (b : List Byte) (lo n : Nat) : Nat := leNat (cut b lo n)

/-- A `CAL_PERIOD` value is valid: `DEN` is not 0, and the period lies between 8 ms and 1 s (R364). -/
def periodOk (val : Nat) : Bool :=
  let num := bits val 0 48
  let den := bits val 48 16
  den ≠ 0 && 2 ^ 30 * den ≤ 125 * num && num ≤ 2 ^ 30 * den

/-- The cascade size of a `TOPO` field (R564). -/
def topoSize (log2 topo : Nat) : Nat :=
  if bit topo 16 then 2 ^ log2
  else (bits topo 0 4 + 1) * (bits topo 4 4 + 1) * (bits topo 8 4 + 1) * (bits topo 12 4 + 1)

/-- One field of the Playbill: its offset, its width, its default, whether a value is in range (the body as applied so
far comes first, then the body as read), and the reserved bytes that follow it. -/
structure PbField where
  off : Nat
  n : Nat
  dflt : Nat
  ok : List Byte → List Byte → Bool
  pad : Nat := 0

/-- The port mask and the largest cascade's logarithm of the device. -/
structure PbLimits where
  ports : Nat
  log2 : Nat
  ceil : Nat

/-- The limits of the device. -/
def State.pbLimits (s : State) : PbLimits :=
  ⟨s.get Reg.DEV_GRADE.GL_PORT_MASK, s.get Reg.DEV_GRADE.CASCADE_LOG2, s.get Reg.DEV_GRADE.PKG_CEIL_W⟩

/-- Bytes 4 to 87, the cascade identity, applied as one unit (R565). -/
def pbCascade (l : PbLimits) : List PbField :=
  let size (b : List Byte) : Nat := topoSize l.log2 (pbNat b 12 4)
  [⟨4, 2, 0, fun _ b => pbNat b 4 2 < size b, 0⟩,
    ⟨6, 2, 0, fun _ b => pbNat b 6 2 < size b, 0⟩,
    ⟨8, 2, 0xFFFF, fun _ b => pbNat b 8 2 = 0xFFFF || (pbNat b 8 2 < size b && pbNat b 8 2 ≠ pbNat b 6 2), 0⟩,
    ⟨10, 2, 0xFFFF, fun _ b => pbNat b 10 2 = 0xFFFF || (pbNat b 10 2 < size b && pbNat b 10 2 ≠ pbNat b 4 2), 0⟩,
    ⟨12, 4, 0, fun _ b => pbNat b 12 4 < 2 ^ 17 && size b ≤ 2 ^ l.log2, 0⟩,
    ⟨16, 2, 0, fun _ b => Nat.land (pbNat b 16 2) l.ports = pbNat b 16 2, 0⟩,
    ⟨18, 2, 0, fun _ b => Nat.land (pbNat b 18 2) (pbNat b 16 2) = pbNat b 18 2, 0⟩,
    ⟨20, 1, 0, fun _ b => (List.range 4).all (fun k =>
      let r := bits (pbNat b 20 1) (2 * k) 2
      r = 0 || (r ≤ 2 && bit l.ports (12 + k))), 3⟩] ++
  (List.range 16).map (fun k => ⟨24 + 4 * k, 4, 0xFFFF0000, fun _ _ => true, if k = 15 then 40 else 0⟩)

/-- The `MAX_MS` that a body applies: its own value where that is in range, otherwise the default (log 58). -/
def pbMaxMs (b : List Byte) : Nat :=
  if 1000 ≤ pbNat b 140 4 ∧ pbNat b 140 4 ≤ 1800000 then pbNat b 140 4 else 1800000

/-- The other fields, each for itself. -/
def pbOthers (l : PbLimits) : List PbField :=
  [⟨128, 2, l.ceil, fun _ b => 600 ≤ pbNat b 128 2 && pbNat b 128 2 ≤ l.ceil, 0⟩,
    ⟨130, 1, 100, fun _ b => 85 ≤ pbNat b 130 1 && pbNat b 130 1 ≤ 105, 0⟩,
    ⟨131, 1, 95, fun _ b => 85 ≤ pbNat b 131 1 && pbNat b 131 1 ≤ 100, 0⟩,
    ⟨132, 1, 0, fun _ b => pbNat b 132 1 ≤ 1, 0⟩,
    ⟨133, 1, 1, fun _ b => pbNat b 133 1 ≤ 2, 0⟩,
    ⟨134, 1, 64, fun _ b => pbNat b 134 1 ≤ 128, 0⟩,
    ⟨135, 1, 0x52, fun _ b => 8 ≤ pbNat b 135 1 && pbNat b 135 1 ≤ 0x77, 0⟩,
    ⟨136, 4, 1000, fun _ b => 1000 ≤ pbNat b 136 4 && pbNat b 136 4 ≤ pbMaxMs b, 0⟩,
    ⟨140, 4, 1800000, fun _ b => 1000 ≤ pbNat b 140 4 && pbNat b 140 4 ≤ 1800000, 0⟩,
    ⟨144, 8, 0, fun _ b => pbNat b 144 8 = 0 || periodOk (pbNat b 144 8), 0⟩,
    ⟨152, 4, 0, fun a b => pbNat b 152 4 = 0 ||
      pbNat b 152 4 * bits (pbNat a 144 8) 48 16 < bits (pbNat a 144 8) 0 48, 356⟩]

/-- A field passes: its value is in range, and the reserved bytes after it are zero. -/
def PbField.pass (f : PbField) (applied body : List Byte) : Bool :=
  f.ok applied body && allZero (cut body (f.off + f.n) f.pad)

/-- Overwrite bytes of a body. -/
def overlay (b : List Byte) (off : Nat) (v : List Byte) : List Byte := b.take off ++ v ++ b.drop (off + v.length)

/-- A field and its reserved bytes at the default. -/
def PbField.reset (f : PbField) (b : List Byte) : List Byte :=
  overlay b f.off (leBytes f.n f.dflt ++ leBytes f.pad 0)

/-- The default body (log 58). -/
def pbDefault (l : PbLimits) : List Byte :=
  ((pbCascade l) ++ pbOthers l).foldl (fun b f => f.reset b) (overlay (leBytes 2560 0) 0 (leBytes 2 1))

/-- What a commit makes of a body: the body as applied, the offsets logged, and the number of fields replaced. -/
structure PbResult where
  body : List Byte
  logged : List Nat
  replaced : Nat

/-- The Playbill as a whole passes its `VER` row: 2,560 bytes, `VER` 1, and zero bytes after it. -/
def pbVersion (body : List Byte) : Bool := body.length = 2560 && pbNat body 0 2 = 1 && allZero (cut body 2 2)

/-- Every check but those that need the enrolment certificates (R565). -/
def pbApply (l : PbLimits) (body : List Byte) : PbResult :=
  let cas := pbCascade l
  let bad := cas.filter (fun f => !f.pass body body)
  let r : PbResult := match bad with
    | [] => ⟨body, [], 0⟩
    | f :: _ => ⟨cas.foldl (fun b g => g.reset b) body, [f.off], cas.length⟩
  (pbOthers l).foldl (fun (r : PbResult) f =>
    if f.pass r.body body then r else ⟨f.reset r.body, r.logged ++ [f.off], r.replaced + 1⟩) r

/-- The certificates of a body that hold neither an enrolled key nor nothing: their numbers (R565). -/
def State.badCerts (s : State) (body : List Byte) : List Nat :=
  let good := s.enrolFrom body
  (List.range 4).filter (fun k =>
    let c := cut body (512 + 512 * k) 512
    !allZero c && ((Tab.get (0, []) good k).2 = [] || !allZero (c.drop (304 + objLen c))))

/-- The commit of a body: range checks, then certificates. -/
def State.pbCommitResult (s : State) (body : List Byte) : PbResult :=
  let r := pbApply s.pbLimits body
  (s.badCerts body).foldl (fun (r : PbResult) k =>
    ⟨overlay r.body (512 + 512 * k) (leBytes 512 0), r.logged ++ [512 + 512 * k], r.replaced + 1⟩) r

/-- A Playbill passes the range checks of R564, the cascade size apart (R572). -/
def State.pbRangesOk (s : State) (body : List Byte) : Bool :=
  pbVersion body &&
    ((pbCascade s.pbLimits).all (fun f => f.pass body body || (f.off = 12 && pbNat body 12 4 < 2 ^ 17))) &&
    ((pbOthers s.pbLimits).all (fun f => f.pass body body))

/-- The registers that an applied body sets (R564, R566). -/
def State.pbRegisters (s : State) (b : List Byte) : State :=
  let s := (s.put Reg.GL_DEV_ID.ID (pbNat b 4 2)).put Reg.GL_MASTER.SYS (pbNat b 6 2)
  let s := s.put Reg.GL_MASTER.DEPUTY (pbNat b 8 2)
  let t := pbNat b 12 4
  let s := ((((s.put Reg.GL_TOPO.MODE (bits t 16 1)).put Reg.GL_TOPO.X3 (bits t 12 4)).put Reg.GL_TOPO.X2
    (bits t 8 4)).put Reg.GL_TOPO.X1 (bits t 4 4)).put Reg.GL_TOPO.X0 (bits t 0 4)
  let s := (List.range 16).foldl (fun (u : State) p =>
    u.put (Reg.GL_PORT_CFG.ENC_REQ p) (bits (pbNat b 18 2) p 1)) s
  let s := (List.range 4).foldl (fun (u : State) k =>
    u.put (Reg.GL_PORT_CFG.ROLE (12 + k)) (bits (pbNat b 20 1) (2 * k) 2)) s
  let s := (List.range 16).foldl (fun (u : State) k =>
    (u.put (Reg.GRP_ROLES.MASTER k) (pbNat b (24 + 4 * k) 2)).put (Reg.GRP_ROLES.DEPUTY k) (pbNat b (26 + 4 * k) 2)) s
  let s := ((s.put Reg.PWR_LIMIT.MAX_W (pbNat b 128 2)).put Reg.PWR_LIMIT.TJ_THROT (pbNat b 130 1)).put
    Reg.PWR_LIMIT.HBM_TLIMIT (pbNat b 131 1)
  let s := (s.put Reg.PWR_CAP.CAP_W (pbNat b 128 2)).put Reg.CLK_CFG.PRIMARY (pbNat b 132 1)
  let s := if pbNat b 132 1 = 1 && !s.refBad 1 then s.put Reg.CLK_STATUS.SRC 1 else s
  let s := (List.range 8).foldl (fun (u : State) j => u.put (Reg.CAL_CFG.SHRINK j) (pbNat b 134 1)) s
  let s := (s.put Reg.MGMT_STATUS.SMB_ADDR (pbNat b 135 1)).put Reg.SN_CLAMP.MIN_MS (pbNat b 136 4)
  let s := s.put Reg.SN_CLAMP.MAX_MS (pbNat b 140 4)
  let s := (List.range 320).foldl (fun (u : State) w => u.put (Reg.PB_MIRROR.W w) (pbNat b (8 * w) 8)) s
  { s with boot := { s.boot with depth := pbNat b 133 1, ports := pbNat b 16 2, buddy := pbNat b 10 2 } }.updateRole

/-- What the commit makes of a verified Playbill object, or of none: the result, and the object where it is in use. -/
def State.pbDecide (s : State) (obj : Option (List Byte)) : PbResult × Option (List Byte) :=
  let none_ : PbResult × Option (List Byte) :=
    (⟨pbDefault s.pbLimits, [0xFFFF], (pbCascade s.pbLimits).length + (pbOthers s.pbLimits).length⟩, none)
  match obj with
  | some o => if pbVersion (objBody o) then (s.pbCommitResult (objBody o), some o) else none_
  | none => none_

/-- The commit (R512, R549, R566, R577): the registers, the mirror, the enrolled keys, measurement 3, and RWL locked. -/
def State.pbCommit (s : State) (r : PbResult) (obj : Option (List Byte)) : State :=
  let s := s.pbRegisters r.body
  let enrolled := match obj with
    | some o => s.enrolFrom (objBody o)
    | none => []
  let mask := enrolled.foldl (fun m e => setBit m e.1 true) 0
  let s := { s with sec := { s.sec with enrolled := enrolled }, committed := true }
  let s := (s.put Reg.PB_INFO.ENROLLED mask).put Reg.PB_INFO.REPLACED (min r.replaced 0xFFFF)
  match obj with
  | some o =>
    (((s.put Reg.PB_INFO.SVN (objSvn o)).put Reg.PB_INFO.SIGNER (objSigner o)).put Reg.PB_INFO.SOURCE
      (s.get Reg.FLASH_DIR.PB_ACTIVE)).setMeas 3 (sha512 o)
  | none => (s.put Reg.PB_INFO.SOURCE 2).setMeas 3 []

end Sys2Proof.Machine
end

