-- ==== Sys2Proof/Machine/Mgmt.lean ====
section
/-! DEFINITION. The management endpoint: the flash directory, MCTP and PLDM commands, sensors, and firmware update
(R562, R563, R567 to R576). -/

namespace Sys2Proof.Machine

/-! ## The flash directory (R563) -/

/-- What a directory copy holds. -/
structure DirCopy where
  seq : Nat := 0
  swap : Nat := 0
  pb : Nat := 0
  st : Nat := 0
  deriving DecidableEq, Repr

/-- The CRC-32 of R434 (log 49). -/
def dirCrc (b : List Byte) : Nat := (crc32 b).toNat

/-- A directory copy, where it is valid. -/
def State.dirCopy (s : State) (i : Nat) : Option DirCopy :=
  let b := s.flashBytes (i * 0x1000) 16
  let v (k : Nat) : Nat := (b.getD k 0).toNat
  if leNat (cut b 0 4) = 0x52444143 && v 11 = 0 && v 8 ≤ 1 && v 9 ≤ 1 && v 10 ≤ 1 &&
      leNat (cut b 12 4) = dirCrc (b.take 12) then
    some ⟨leNat (cut b 4 4), v 8, v 9, v 10⟩
  else none

/-- The first sequence number is later in serial-number order modulo 2^32. -/
def serialLater (a b : Nat) : Bool :=
  let d := (a + 2 ^ 32 - b) % 2 ^ 32
  0 < d && d < 2 ^ 31

/-- The copy in use in flash, by number, and what it holds; all selectors 0 where neither is valid. -/
def State.dirNow (s : State) : Option Nat × DirCopy :=
  match s.dirCopy 0, s.dirCopy 1 with
  | some a, some b => if serialLater b.seq a.seq then (some 1, b) else (some 0, a)
  | some a, none => (some 0, a)
  | none, some b => (some 1, b)
  | none, none => (none, {})

/-- Write bytes of flash. -/
def State.writeFlash (s : State) (a : Nat) : List Byte → State
  | [] => s
  | b :: t => State.writeFlash { s with flash := Tab.set 0xFF s.flash a b } (a + 1) t

/-- The 16 bytes of a directory copy. -/
def dirBytes (d : DirCopy) : List Byte :=
  let h := leBytes 4 0x52444143 ++ leBytes 4 d.seq ++ [BitVec.ofNat 8 d.swap, BitVec.ofNat 8 d.pb,
    BitVec.ofNat 8 d.st, 0]
  h ++ leBytes 4 (dirCrc h)

/-! ## Which types are served (R567) -/

/-- A PLDM type is served: 0 from step 2, 2 and 5 from step 10, 5 from step 2 in management load. After `NET_LOST` types 0
and 2 alone (R570). -/
def State.typeServed (s : State) (ty : Nat) : Bool :=
  if s.pairsFailed then ty = 0 || ty = 2
  else match ty with
    | 0 => 2 ≤ s.boot.cur
    | 5 => 10 ≤ s.boot.cur || (2 ≤ s.boot.cur && s.get Reg.DEV_BOOT.BOOT_MODE = 3)
    | _ => 10 ≤ s.boot.cur

/-- The endpoint answers with a completion code and data. -/
def State.answer (s : State) (code : PldmCode) (data : List Nat := []) : State :=
  { s with mgmt := { s.mgmt with code := code, data := data } }

/-- Serve a request of a type; a device that has shut down does not answer. -/
def State.pldm (s : State) (ty : Nat) (f : State → State) : Ans :=
  .next (if s.aon.down then s else if s.typeServed ty then f s else s.answer .errorNotReady)

/-! ## MCTP control and the binding (R567, R568) -/

/-- `SET_ENDPOINT_ID`. -/
def execSetEndpointId (eid : Nat) (s : State) : Ans :=
  inUnits (eid < 256) (s.pldm 0 (fun t => (t.put Reg.MGMT_STATUS.EID eid).answer .success))

/-- `I3C_ADDRESS_ASSIGN`. -/
def execI3cAddressAssign (addr : Nat) (s : State) : Ans :=
  inUnits (addr < 128) (.next ({ s with mgmt := { s.mgmt with i3c := some addr } }.put Reg.MGMT_STATUS.I3C 1))

/-- `RSTDAA`. -/
def execRstdaa (s : State) : Ans :=
  .next ({ s with mgmt := { s.mgmt with i3c := none } }.put Reg.MGMT_STATUS.I3C 0)

/-- SMB_ALERT# is driven low, or the in-band interrupt raised: an event waits for the receiver (R568). -/
def State.smbAlert (s : State) : Bool := !s.mgmt.events.isEmpty

/-! ## PLDM type 0 (R569) -/

/-- `GET_TID`. -/
def execGetTid (s : State) : Ans := s.pldm 0 (fun t => t.answer .success [t.mgmt.tid])

/-- `SET_TID`. -/
def execSetTid (tid : Nat) (s : State) : Ans :=
  inUnits (tid < 256) (s.pldm 0 (fun t => { t with mgmt := { t.mgmt with tid := tid } }.answer .success))

/-- The types of R569. -/
def pldmTypes : List Nat := [0, 2, 5]

/-- `GET_PLDM_VERSION`: the version of a supported type, whose value the spec leaves to its specification. -/
def execGetPldmVersion (ty : Nat) (s : State) : Ans :=
  s.pldm 0 (fun t => if pldmTypes.contains ty then t.bumpFree.answer .success [t.takeFree ty % 2 ^ 32]
    else t.answer .error)

/-- `GET_PLDM_TYPES`. -/
def execGetPldmTypes (s : State) : Ans := s.pldm 0 (fun t => t.answer .success pldmTypes)

/-- The number of commands of a type (R569). -/
def pldmCommandCount (ty : Nat) : Nat :=
  match ty with
  | 0 => 5
  | 2 => 7
  | 5 => 13
  | _ => 0

/-- `GET_PLDM_COMMANDS`: the commands of a type, by their place in the table of R569. -/
def execGetPldmCommands (ty : Nat) (s : State) : Ans :=
  s.pldm 0 (fun t => if pldmTypes.contains ty then t.answer .success (List.range (pldmCommandCount ty))
    else t.answer .error)

/-! ## PLDM type 2: sensors and events (R570) -/

/-- The codes of R376. -/
def sharedCodes : List Nat :=
  [0x01, 0x02, 0x03, 0x04, 0x05, 0x06, 0x07, 0x08, 0x09, 0x0A, 0x0B, 0x10, 0x11, 0x12, 0x13, 0x14, 0x15, 0x16,
    0x20, 0x21, 0x22, 0x23, 0x24, 0x30]

/-- The sum over a job's classes of a Spotter counter from the last snapshot: word 1 `OVF`, word 2 `VAN`. -/
def State.spotSum (s : State) (j w : Nat) : Nat :=
  ((List.range 640).map (fun i => s.get (Reg.SPOT_SH.COUNT j i w))).foldl (· + ·) 0

/-- The readings of the numeric sensors, in the order of R570 (log 59). -/
def State.readings (s : State) : List Int :=
  (List.range 64).map (fun i => s.rawTemp i) ++
  (List.range 24).map (fun i => ((s.get (Reg.HBM_TEMP.T i) : Nat) : Int)) ++
  [((s.get Reg.PWR_STATUS.PKG_W : Nat) : Int)] ++
  (List.range 4).map (fun r => ((s.get (Reg.RING_PWR.RING_W r) : Nat) : Int)) ++
  [((s.get Reg.PWR_ENERGY.N : Nat) : Int)] ++
  sharedCodes.map (fun c => ((s.get (Reg.ERR_CNT.N c) : Nat) : Int)) ++
  (List.range 16).map (fun i => ((s.spotSum (i / 2) (1 + i % 2) : Nat) : Int))

/-- The readings of the state sensors: readiness, the stacks, the channels and the ports. -/
def State.stateReadings (s : State) : List Nat :=
  [s.get Reg.DEV_STATUS.READY] ++
  (List.range 24).map (fun i => ofBool (!bit (s.get Reg.MEM_HBM_STATUS.RETIRED) i)) ++
  (List.range 8).map (fun i => ofBool (bit (s.get Reg.MEM_DDR_STATUS.PRESENT) i &&
    !bit (s.get Reg.MEM_DDR_STATUS.RETIRED) i && !bit (s.get Reg.MEM_DDR_STATUS.UNUSED) i)) ++
  (List.range 16).map (fun p => s.get (Reg.GL_PORT_STATUS.STATE p))

/-- The number of records of the repository. -/
def State.pdrCount (s : State) : Nat := s.readings.length + s.stateReadings.length

/-- `GET_PDR_REPOSITORY_INFO`. -/
def execGetPdrRepositoryInfo (s : State) : Ans := s.pldm 2 (fun t => t.answer .success [t.pdrCount])

/-- `GET_PDR`: a record names its sensor and whether it is numeric (0) or a state sensor (1). -/
def execGetPdr (rec : Nat) (s : State) : Ans :=
  s.pldm 2 (fun t =>
    let n := t.readings.length
    if rec < n then t.answer .success [rec, 0]
    else if rec < t.pdrCount then t.answer .success [rec - n, 1]
    else t.answer .error)

/-- `GET_SENSOR_READING`: a temperature or a count as a 64-bit two's complement number. -/
def execGetSensorReading (sensor : Nat) (s : State) : Ans :=
  s.pldm 2 (fun t => match t.readings[sensor]? with
    | some v => t.answer .success [unsigned 64 v]
    | none => t.answer .error)

/-- `GET_STATE_SENSOR_READINGS`. -/
def execGetStateSensorReadings (sensor : Nat) (s : State) : Ans :=
  s.pldm 2 (fun t => match t.stateReadings[sensor]? with
    | some v => t.answer .success [v]
    | none => t.answer .error)

/-- `SET_EVENT_RECEIVER`. -/
def execSetEventReceiver (addr : Nat) (s : State) : Ans :=
  inUnits (addr < 256) (s.pldm 2 (fun t => { t with mgmt := { t.mgmt with receiver := some addr } }.answer .success))

/-- `POLL_FOR_PLATFORM_EVENT`: the oldest event that waits. -/
def execPollForPlatformEvent (s : State) : Ans :=
  s.pldm 2 (fun t => { t with mgmt := { t.mgmt with events := t.mgmt.events.drop 1 } }.answer .success (t.mgmt.events.take 1))

/-- `PLATFORM_EVENT_MESSAGE`: the oldest event goes to the receiver. -/
def execPlatformEventMessage (s : State) : Ans :=
  .next (if s.aon.down || s.mgmt.receiver.isNone || s.mgmt.events.isEmpty || !s.typeServed 2 then s
    else { s with mgmt := { s.mgmt with events := s.mgmt.events.drop 1 } }.answer .success (s.mgmt.events.take 1))

/-! ## PLDM type 5: update (R571 to R574) -/

/-- `MGMT_STATUS.UPD_STATE`. -/
def State.updState (s : State) : Nat := s.get Reg.MGMT_STATUS.UPD_STATE

/-- Enter an update state. -/
def State.toUpd (s : State) (st : Nat) : State := s.put Reg.MGMT_STATUS.UPD_STATE st

/-- The state between components: ready to activate where one was applied. -/
def State.betweenComps (s : State) : State := s.toUpd (if s.mgmt.applied.isEmpty then 1 else 5)

/-- `QUERY_DEVICE_IDENTIFIERS`: identifiers that the spec does not give. -/
def execQueryDeviceIdentifiers (s : State) : Ans :=
  s.pldm 5 (fun t => t.bumpFree.answer .success [t.takeFree 0])

/-- `GET_FIRMWARE_PARAMETERS`: the `SVN` counters of the three components, and the slots in use. -/
def execGetFirmwareParameters (s : State) : Ans :=
  s.pldm 5 (fun t => t.answer .success [t.get Reg.SEC_SVN.FW, t.get Reg.SEC_SVN.PLAYBILL, t.get Reg.SEC_SVN.STB,
    t.get Reg.FLASH_DIR.FW_READ, t.get Reg.FLASH_DIR.PB_ACTIVE, t.get Reg.FLASH_DIR.ST_ACTIVE])

/-- `REQUEST_UPDATE`: one at a time. -/
def execRequestUpdate (s : State) : Ans :=
  s.pldm 5 (fun t =>
    if t.updState ≠ 0 then t.answer .alreadyInUpdateMode
    else ({ t with mgmt := { t.mgmt with named := [], applied := [], comp := 0, bad := false } }.toUpd 1).answer .success)

/-- `PASS_COMPONENT_TABLE`: the components of R571. -/
def execPassComponentTable (comps : List Nat) (s : State) : Ans :=
  s.pldm 5 (fun t =>
    if t.updState = 1 && comps.all (fun c => 1 ≤ c && decide (c ≤ 3)) then
      { t with mgmt := { t.mgmt with named := comps } }.answer .success
    else t.answer .error)

/-- The slot a component is written into (R571): the directory is the one in flash that start-up would use now. -/
def State.targetSlot (s : State) (comp : Nat) : Nat :=
  let d := s.dirNow.2
  match comp with
  | 1 => if s.boot.waiting then 1 - d.swap else 1 - s.get Reg.FLASH_DIR.FW_READ
  | 2 => 1 - d.pb
  | _ => 1 - d.st

/-- `UPDATE_COMPONENT`: of a component that was named. -/
def execUpdateComponent (comp : Nat) (s : State) : Ans :=
  s.pldm 5 (fun t =>
    if (t.updState = 1 || t.updState = 5) && t.mgmt.named.contains comp then
      ({ t with mgmt := { t.mgmt with comp := comp, slot := t.targetSlot comp, bad := false } }.toUpd 2).answer .success
    else t.answer .error)

/-- `REQUEST_FIRMWARE_DATA`: a piece is written into the slot; one that reaches beyond it fails the transfer. -/
def execRequestFirmwareData (off : Nat) (data : List (BitVec 8)) (s : State) : Ans :=
  inUnits (data.length ≤ 4096) (s.pldm 5 (fun t =>
    if t.updState ≠ 2 then t.answer .error
    else
      let sl := flashSlot t.mgmt.comp t.mgmt.slot
      if sl.2 < off + data.length then { t with mgmt := { t.mgmt with bad := true } }.answer .error
      else (t.writeFlash (sl.1 + off) data).answer .success))

/-- `TRANSFER_COMPLETE`. -/
def execTransferComplete (s : State) : Ans :=
  s.pldm 5 (fun t =>
    if t.updState ≠ 2 then t.answer .error
    else if t.mgmt.bad then t.betweenComps.answer .error
    else (t.toUpd 3).answer .success)

/-- The `TYPE` of a component. -/
def compType (comp : Nat) : Nat :=
  match comp with
  | 1 => 1
  | 2 => 3
  | _ => 4

/-- The written object passes (R572): a Playbill is checked against the certificates it carries itself. -/
def State.compOk (s : State) (comp slot : Nat) : Bool :=
  let sl := flashSlot comp slot
  let b := s.flashObj sl.1 sl.2
  let enrolled := if comp = 2 then s.enrolFrom (objBody b) else s.sec.enrolled
  s.verifyObj enrolled (compType comp) b = 0 && (comp ≠ 2 || s.pbRangesOk (objBody b))

/-- `VERIFY_COMPLETE`. -/
def execVerifyComplete (s : State) : Ans :=
  s.pldm 5 (fun t =>
    if t.updState ≠ 3 then t.answer .error
    else
      let ok := t.compOk t.mgmt.comp t.mgmt.slot
      let sl := flashSlot t.mgmt.comp t.mgmt.slot
      let u := t.put Reg.MGMT_STATUS.VFY_EVT 1
      if ok then
        ((u.noteSvn (compType t.mgmt.comp) (t.flashObj sl.1 sl.2)).toUpd 4).answer .success
      else u.betweenComps.answer .error)

/-- `APPLY_COMPLETE`. -/
def execApplyComplete (s : State) : Ans :=
  s.pldm 5 (fun t =>
    if t.updState ≠ 4 then t.answer .error
    else ({ t with mgmt := { t.mgmt with
        applied := t.mgmt.applied.filter (fun (a : Nat × Nat) => a.1 ≠ t.mgmt.comp) ++ [(t.mgmt.comp, t.mgmt.slot)] } }.toUpd 5).answer
      .success)

/-- The selector that an applied component gives; otherwise the old one. -/
def State.selector (s : State) (comp old : Nat) : Nat :=
  match s.mgmt.applied.find? (fun (a : Nat × Nat) => a.1 = comp) with
  | some a => a.2
  | none => old

/-- The directory copy with the earlier `SEQ` is written (R573). -/
def State.writeDirectory (s : State) : State :=
  let now := s.dirNow
  let d := now.2
  let copy := match now.1 with
    | some i => 1 - i
    | none => 0
  let new : DirCopy := ⟨(d.seq + 1) % 2 ^ 32, s.selector 1 d.swap, s.selector 2 d.pb, s.selector 3 d.st⟩
  (s.writeFlash (copy * 0x1000) (dirBytes new)).put Reg.MGMT_STATUS.ACT_EVT 1

/-- The update ends; a management load waits no longer (R508). -/
def State.endUpdate (s : State) : State :=
  { s.toUpd 0 with boot := { s.boot with waiting := false },
                   mgmt := { s.mgmt with named := [], applied := [], comp := 0 } }

/-- `ACTIVATE_FIRMWARE`. -/
def execActivateFirmware (s : State) : Ans :=
  s.pldm 5 (fun t => if t.updState = 5 then t.writeDirectory.endUpdate.answer .success else t.answer .error)

/-- `GET_STATUS`. -/
def execGetStatus (s : State) : Ans := s.pldm 5 (fun t => t.answer .success [t.updState])

/-- `CANCEL_UPDATE_COMPONENT`. -/
def execCancelUpdateComponent (s : State) : Ans :=
  s.pldm 5 (fun t => if 2 ≤ t.updState && t.updState ≤ 4 then t.betweenComps.answer .success else t.answer .error)

/-- `CANCEL_UPDATE`: the written slot stays unnamed by the directory (R574). -/
def execCancelUpdate (s : State) : Ans :=
  s.pldm 5 (fun t => if t.updState ≠ 0 then t.endUpdate.answer .success else t.answer .error)

end Sys2Proof.Machine
end

