-- ==== Sys2Proof/Machine/Boot.lean ====
section
/-! DEFINITION. Resets and start-up: the ten steps, `BOOT_LOG`, the kinds of reset, Function Level Reset, recovery of the
control pairs, and the test port (R426, R464, R507 to R524, R547, R585). -/

namespace Sys2Proof.Machine

/-! ## Device resets (R507) -/

/-- A register that keeps its value through a device reset: what is fused, and, where Showtime runs on, its rate. -/
def keptReg (kind off : Nat) : Bool :=
  off = 0x8 || off = 0x900018 || off = 0x900020 || (kind ≠ 0 && off = 0x200018)

/-- The state after a device reset: 0 power-on, 1 cold, 2 warm. Device memory reads afterwards as memory that nothing has
written (log 4); the flash, the host's memory, and what has been sent are not the device's. -/
def State.deviceReset (s : State) (kind : Nat) : State :=
  let aon : AonS := { up := s.aon.up, trip := s.aon.trip, supply := s.aon.supply, tripLow := s.aon.tripLow }
  let t : State := {
    pending := s.pending
    host := s.host
    flash := s.flash
    fresh := s.fresh
    msgs := s.msgs
    jtag := if kind = 0 then .idcode else s.jtag
    time := if kind = 0 then {} else { root := s.time.root, frac := s.time.frac }
    aon := if kind = 0 then {} else if kind = 1 then aon else { aon with perst := false }
    pcie := if kind = 2 then s.pcie else {}
    regs := s.regs.filter (fun e => keptReg kind (e.1 / 64)) }
  -- the core islands come up from the off state, and clear (R281, log 127)
  let t := if kind = 0 then (List.range 384).foldl (fun (t : State) i => t.put (Reg.SP_STATUS.CLEARING (i / 16) (i % 16)) 1) t
    else t
  t.put Reg.DEV_BOOT.RESET_KIND kind

/-! ## BOOT_LOG (R518, R524) -/

/-- Write a record with a stamp of its own. -/
def State.bootLogAt (s : State) (stamp event payload : Nat) : State :=
  let n := s.get Reg.DEV_BOOT.LOG_CNT
  let seq := Tab.get 0 s.islSeq 541
  let dev := if s.committed then s.get Reg.GL_DEV_ID.ID else 0
  let b := traceBytes stamp 541 event 0 dev payload seq
  let s := { s with islSeq := Tab.set 0 s.islSeq 541 ((seq + 1) % 2 ^ 32) }
  if n < 128 then
    ((List.range 4).foldl (fun (t : State) w => t.put (Reg.BOOT_LOG.W n w) (leNat (cut b (8 * w) 8))) s).put
      Reg.DEV_BOOT.LOG_CNT (n + 1)
  else s.incSat Reg.DEV_BOOT.DROPPED 1

/-- Write a record now. -/
def State.bootLog (s : State) (event payload : Nat) : State := s.bootLogAt (s.stamp 541) event payload

/-- A step has completed: its record, `BOOT_STEP`, and the next step. -/
def State.stepDone (s : State) (n us : Nat) : State :=
  let s := (s.bootLog 0x0201 (n + us % 2 ^ 32 * 2 ^ 8)).put Reg.DEV_STATUS.BOOT_STEP n
  { s with boot := { s.boot with cur := n + 1 } }

/-- The record of a failure in a step, with the reason code of R547 (log 60). -/
def State.stepFailed (s : State) (n cause reason : Nat) : State :=
  s.bootLog 0x0202 (n + cause % 256 * 2 ^ 8 + 2 ^ 16 * reason)

/-- Start-up stops (R517). -/
def State.bootStop (s : State) (n cause reason : Nat) : State :=
  let s := (s.stepFailed n cause reason).put Reg.DEV_STATUS.FAILED 1
  let s := (s.put Reg.DEV_BOOT.FAIL_STEP n).put Reg.DEV_BOOT.FAIL_CAUSE cause
  { s with boot := { s.boot with running := false } }

/-- Start-up begins (R509): the straps are latched, and the records of an earlier trip and supply fault are logged and
cleared (R495, R519, R587). Where the always-on domain runs already, step 1 is complete. -/
def State.startUp (s : State) (straps : Nat) : State :=
  let mode := straps % 8
  let s := (s.put Reg.DEV_BOOT.BOOT_MODE mode).bootLog 0x0200 (s.get Reg.DEV_BOOT.RESET_KIND + 2 ^ 8 * mode)
  let s := match s.aon.trip with
    | some r => s.bootLogAt r.2 0x0206 (r.1 % 64)
    | none => s
  let s := match s.aon.supply with
    | some r => s.bootLogAt r.2 0x0208 r.1
    | none => s
  let us := s.aon.upUs
  let s := { s with boot := { s.boot with running := true, cur := 1 },
                    aon := { s.aon with perst := false, trip := none, supply := none, upUs := 0 } }
  if s.aon.up then s.stepDone 1 us else s

/-! ## Steps 3 and 4: images (R511, R547) -/

/-- The firmware image fails in a step: fall back to image B once, or stop. -/
def State.imageFail (s : State) (n cause reason : Nat) : State :=
  if s.get Reg.DEV_BOOT.BOOT_MODE = 0 && !s.flag Reg.DEV_BOOT.FALLBACK then
    let s := ((s.stepFailed n cause reason).put Reg.DEV_BOOT.FALLBACK 1).put Reg.DEV_BOOT.IMAGE 1
    { s with boot := { s.boot with cur := 3 } }
  else s.bootStop n cause reason

/-- The objects that step 3 reads, where the flash gives them. The cause of a read that fails is not stated. -/
def State.bootRead (s : State) (us : Nat) (imageOk playbillOk testOk : Bool) : State :=
  let d := s.dirNow.2
  let s := if s.get Reg.DEV_BOOT.BOOT_MODE = 2 then s.put Reg.DEV_BOOT.IMAGE 1 else s
  let img := s.get Reg.DEV_BOOT.IMAGE
  let slot := (d.swap + img) % 2
  let s := ((s.put Reg.FLASH_DIR.SEQ d.seq).put Reg.FLASH_DIR.FW_SWAP d.swap).put Reg.FLASH_DIR.PB_ACTIVE d.pb
  let s := (s.put Reg.FLASH_DIR.ST_ACTIVE d.st).put Reg.FLASH_DIR.FW_READ slot
  let obj (comp n : Nat) : List Byte := s.flashObj (flashSlot comp n).1 (flashSlot comp n).2
  let s := { s with boot := { s.boot with
      fw := if imageOk then some (obj 1 slot) else none
      pb := if playbillOk then some (obj 2 d.pb) else none
      stb := if testOk then some (obj 3 d.st) else none } }
  if imageOk then
    (s.bootLog 0x0203 (img + 2 * s.get Reg.DEV_BOOT.FALLBACK)).stepDone 3 us
  else s.bumpFree.imageFail 3 (s.takeFree 0 % 256) 5

/-- The reason an object read in step 3 fails; 5 where it was not read. -/
def State.bootReason (s : State) (typ : Nat) (obj : Option (List Byte)) : Nat :=
  match obj with
  | some b => s.verifyObj (if typ = 3 then s.enrolFrom (objBody b) else []) typ b
  | none => 5

/-- The bytes of `SEC_FUSE` and `SEC_SVN` (R549). -/
def State.fuseBytes (s : State) : List Byte :=
  leBytes 8 (s.get Reg.SEC_FUSE.REVOKED * 16 + s.get Reg.SEC_FUSE.PRESENT) ++
  leBytes 8 (s.get Reg.SEC_SVN.FW + 2 ^ 8 * s.get Reg.SEC_SVN.PLAYBILL + 2 ^ 16 * s.get Reg.SEC_SVN.STB +
    s.get Reg.SEC_SVN.POLICY * 2 ^ 24)

/-- An object's check has a result: its `SVN` is noted where it passed, and a failure is logged. -/
def State.bootNote (s : State) (typ reason : Nat) (obj : Option (List Byte)) : State :=
  if reason = 0 then s.noteSvn typ (obj.getD []) else s.stepFailed 4 2 reason

/-- Step 4: the three checks, `CERT_OK`, and the measurements known by then. -/
def State.bootCheck (s : State) (us : Nat) : State :=
  let b := s.boot
  let f := s.bootReason 1 b.fw
  if f ≠ 0 then s.imageFail 4 2 f
  else
    let p := s.bootReason 3 b.pb
    let t := s.bootReason 4 b.stb
    let s := ((s.bootNote 1 f b.fw).bootNote 3 p b.pb).bootNote 4 t b.stb
    let s := { s with boot := { s.boot with
        pb := if p = 0 then b.pb else none
        stb := if t = 0 then b.stb else none
        refs := if t = 0 then b.stb.map objBody else none } }
    let s := s.put Reg.SEC_STATUS.CERT_OK (ofBool (Config.certOk s.identityArea s.usableSlots))
    let s := (s.setMeas 1 (leBytes 8 (s.get Reg.SEC_ROMVER.V))).setMeas 6 s.fuseBytes
    let s := s.setMeas 4 (match s.boot.stb with
      | some o => sha512 o
      | none => [])
    s.stepDone 4 us

/-! ## Steps 5 to 10 -/

/-- Step 5: the commit (R512), with each replaced field logged. -/
def State.bootCommit (s : State) (us : Nat) (obj : Option (List Byte)) : State :=
  let r := s.pbDecide obj
  let s := s.pbCommit r.1 r.2
  (r.1.logged.foldl (fun (t : State) o => t.bootLog 0x0204 (o + 0x06 * 2 ^ 16)) s).stepDone 5 us

/-- Step 6: the control pairs run the firmware object (R549). -/
def State.bootControl (s : State) (us : Nat) : State := (s.setMeas 2 (sha512 (s.boot.fw.getD []))).stepDone 6 us

/-- Step 7: the self-test at the depth of R513. -/
def State.bootSelfTest (s : State) (us : Nat) (cores : List Nat) (analogue : Nat) (otherFail : Bool) : State :=
  let depth := if s.boot.stb.isNone then 0 else s.boot.depth
  let cores := if depth = 0 then [] else cores.filter (· < 384)
  let s := cores.foldl (fun (t : State) c => (t.coreLost (c / 16) (c % 16)).bootLog 0x0205 (1 + 2 ^ 8 * c)) s
  let s := ((s.put Reg.DEV_BOOT.ST_DEPTH depth).put Reg.HS_BOOT.DEPTH depth).put Reg.HS_BOOT.CORES cores.length
  let s := s.put Reg.HS_BOOT.ANALOGUE (if depth = 0 then 0 else min analogue 255)
  let s := s.setMeas 5 (leBytes 8 (2 ^ 32 * s.get Reg.HS_BOOT.CORES + 2 ^ 16 * s.get Reg.HS_BOOT.ANALOGUE + depth))
  if otherFail && depth ≠ 0 then s.bootStop 7 4 0 else s.stepDone 7 us

/-- The modules that are of a supported kind (R341). -/
def goodModules (mods : List DdrModule) : List DdrModule :=
  mods.filter (fun m => m.ch < 8 && m.supported && decide (32 ≤ m.gib) && decide (m.gib ≤ 512))

/-- The modules in use (R341, R342): of the more numerous type, the RDIMMs on a tie, that train. -/
def usedModules (mods : List DdrModule) : List DdrModule :=
  let good := goodModules mods
  let mr := (good.filter (·.mrdimm)).length
  let keepMr := decide (good.length - mr < mr)
  (good.filter (fun m => m.mrdimm = keepMr)).filter (·.trained)

/-- The channels of a list, as a mask. -/
def chanMask (cs : List Nat) : Nat := cs.foldl (fun m c => setBit m c true) 0

/-- The ports that the Playbill enables begin to train (R515). -/
def State.enablePorts (s : State) : State :=
  (List.range 16).foldl (fun (t : State) p =>
    if bit s.boot.ports p then ((t.put (Reg.GL_PORT_CFG.EN p) 1).clearLink p).setPortState p 1 else t) s

/-- Step 8: training (R336, R341, R342, R514), the frames the firmware reserves (log 61), and the ports of step 9. -/
def State.bootMemory (s : State) (us : Nat) (stacksLost : List Nat) (mods : List DdrModule) (tables : List Nat) :
    State :=
  let lost := (stacksLost.filter (· < 24)).eraseDups
  let used := usedModules mods
  let found := ((mods.map (·.ch)).filter (· < 8)).eraseDups
  let unused := found.filter (fun c => !(used.map (·.ch)).contains c)
  let rate := used.foldl (fun r m => if r = 0 then m.rate else min r m.rate) 0
  let s := s.put Reg.MEM_HBM_STATUS.RETIRED (chanMask lost)
  let s := (s.put Reg.MEM_DDR_STATUS.PRESENT (chanMask found)).put Reg.MEM_DDR_STATUS.UNUSED (chanMask unused)
  let s := (s.put Reg.MEM_DDR_STATUS.MRDIMM (chanMask ((mods.filter (·.mrdimm)).map (·.ch)))).put
    Reg.MEM_DDR_STATUS.RATE rate
  let s := { s with modules := used.foldl (fun (t : Tab Nat) m => Tab.set 0 t m.ch m.gib) [], owner := [] }
  let s := lost.foldl (fun (t : State) c => t.bootLog 0x0205 (2 + 2 ^ 8 * c)) s
  let s := unused.foldl (fun (t : State) c => t.bootLog 0x0205 (3 + 2 ^ 8 * c)) s
  if lost.length = 24 ∨ used.length < 2 then s.bootStop 8 5 0
  else
    let s := (tables.filter (fun d => s.frameExists d)).foldl (fun (t : State) d => t.setOwner d 0xD) s
    (s.stepDone 8 us).enablePorts

/-- Step 9 may complete before its bound (R515). -/
def State.step9Ready (s : State) : Bool :=
  (List.range 16).all (fun p => !bit s.boot.ports p || s.portState p ≠ 1) && (s.lockState = 2 || s.lockState = 0)

/-- Step 9 ends: ports that have no link are logged, and the Showtime state. -/
def State.bootLinks (s : State) (us : Nat) : State :=
  let out := (List.range 16).filter (fun p => bit s.boot.ports p && !s.portUp p)
  let s := out.foldl (fun (t : State) p => t.bootLog 0x0205 (4 + 2 ^ 8 * p)) s
  (s.bootLog 0x0207 s.lockState).stepDone 9 us

/-- Step 10: readiness (R465, R516). -/
def State.bootReady (s : State) (us : Nat) : State :=
  let s := ((s.stepDone 10 us).put Reg.DEV_STATUS.READY 1).setEvent Reg.DEV_STATUS.READY_EVT 29
  { s with boot := { s.boot with running := false } }

/-- Step 2 completes: a reserved strap stops start-up, and a management load begins to wait (R508, R522). -/
def State.bootRom (s : State) (us : Nat) : State :=
  let s := { s with boot := { s.boot with dark := false } }
  let mode := s.get Reg.DEV_BOOT.BOOT_MODE
  if 4 ≤ mode then s.bootStop 2 6 0
  else { s.stepDone 2 us with boot := { s.boot with cur := 3, waiting := decide (mode = 3) } }

/-- A step fails with a cause (R510). -/
def State.bootFail (s : State) (us cause : Nat) : State :=
  match s.boot.cur with
  | 3 => s.imageFail 3 cause 0
  | 4 => s.imageFail 4 cause 0
  | 5 => (s.stepFailed 5 cause 0).bootCommit us none
  | 9 => s.bootLinks us
  | n => s.bootStop n cause 0

/-- A step completes with what it brings; a result that is not the present step's does nothing (log 2). -/
def State.bootStep (s : State) : BootResult → State
  | .done us => match s.boot.cur with
    | 1 => { s with aon := { s.aon with up := true } }.stepDone 1 us
    | 2 => s.bootRom us
    | 4 => s.bootCheck us
    | 5 => s.bootCommit us s.boot.pb
    | 6 => s.bootControl us
    | 9 => if s.step9Ready then s.bootLinks us else s
    | 10 => s.bootReady us
    | _ => s
  | .read us i p t => if s.boot.cur = 3 then s.bootRead us i p t else s
  | .selfTest us c a o => if s.boot.cur = 7 then s.bootSelfTest us c a o else s
  | .memory us l m t => if s.boot.cur = 8 then s.bootMemory us l m t else s
  | .failed us cause => s.bootFail us cause

/-- `BOOT_STEP_COMPLETE`: of a start-up that runs and does not wait; before PERST# is deasserted, the always-on domain's
step 1 alone (R520). -/
def execBootStepComplete (res : BootResult) (s : State) : Ans :=
  .next (if s.boot.running then (if s.boot.waiting then s else s.bootStep res)
    else match res with
      | .done us =>
        if s.aon.perst && !s.aon.up && !s.aon.down then
          { s with aon := { s.aon with up := true, upUs := us } }.put Reg.DEV_STATUS.BOOT_STEP 1
        else s
      | _ => s)

/-- The bound of a step in µs (R510). -/
def stepBound (n : Nat) : Nat :=
  match n with
  | 5 => 20000
  | _ => 1200000

/-- `BOOT_STEP_TIMEOUT`: cause 1; a management load waits without limit (R508). -/
def execBootStepTimeout (s : State) : Ans :=
  .next (if s.boot.running && !s.boot.waiting then s.bootFail (stepBound s.boot.cur) 1 else s)

/-! ## Resets -/

/-- `POWER_ON_RESET`. -/
def execPowerOnReset (s : State) : Ans := .next (s.deviceReset 0)

/-- `PERST_ASSERT`: a cold reset, which abandons a start-up (R507, R519). -/
def execPerstAssert (s : State) : Ans := .next (if s.aon.perst then s else s.deviceReset 1)

/-- `PERST_DEASSERT` (R508, R509). -/
def execPerstDeassert (straps : Nat) (s : State) : Ans := .next (if s.aon.perst then s.startUp straps else s)

/-- The code of a `DEV_RESET` write (R522). -/
def State.devResetCode (s : State) (val : Nat) : Nat :=
  firstCode [(val % 256 = 0xA5, 0x06), (s.flag Reg.DEV_STATUS.READY || s.flag Reg.DEV_STATUS.FAILED, 0x04)]

/-- A write of `DEV_RESET`: a warm reset, which latches the straps; BAR0 outside the identity block is dark until step 2
completes. -/
def State.writeDevReset (s : State) (val straps : Nat) : State :=
  let code := s.devResetCode val
  if code ≠ 0 then s.reject code 0x20 none
  else
    let s := s.deviceReset 2
    { s with boot := { s.boot with dark := true } }.startUp straps

/-- `DEV_RESET`. -/
def execDevReset (val straps : Nat) (s : State) : Ans := .next (if s.aon.down then s else s.writeDevReset val straps)

/-- Function Level Reset (R521): halt, release, then the rings, the window, the MSI-X table, DOE and IDE. -/
def State.flr (s : State) : State :=
  let s := (List.range 8).foldl (fun (t : State) j =>
    let t := if t.jobState j = 2 ∨ t.jobState j = 3 then (t.haltJob j).put (Reg.JOB_STATUS.STATE j) 5 else t
    if t.jobState j = 0 then t else t.releaseJob j) s
  let s := (List.range 9).foldl (fun (t : State) q => t.put (Reg.RING_CFG.EN q) 0) s
  let s := (List.range 8).foldl (fun (t : State) j => t.put (Reg.FR_CFG.EN j) 0) s
  let s := (s.resetWindow.clearRegs 0x102008 8).clearRegs 0x80000 0x400
  { s with rings := [], doe := [] }.stopIde

/-- `FLR`. -/
def execFlr (s : State) : Ans := .next s.flr

/-! ## Recovery of the control pairs (R426, R547, R549) -/

/-- The code of an `RCV_CMD` write. -/
def State.rcvCode (s : State) (cmd : Nat) : Nat :=
  firstCode [(cmd = 1 || cmd = 2, 0x06),
    ((cmd = 1 && s.get Reg.RCV_STATUS.STATE = 1) || (cmd = 2 && s.get Reg.RCV_STATUS.STATE = 3), 0x04)]

/-- RELOAD: the slot that step 3 read is verified, and both control pairs restart (R574). -/
def State.reloadPairs (s : State) (readOk : Bool) : State :=
  let sl := flashSlot 1 (s.get Reg.FLASH_DIR.FW_READ)
  let b := s.flashObj sl.1 sl.2
  let r := if readOk then s.verifyObj [] 1 b else 5
  if r ≠ 0 then s.put Reg.RCV_STATUS.CODE r
  else
    let s := (((s.noteSvn 1 b).setMeas 2 (sha512 b)).setMeas 8 []).put Reg.RCV_STATUS.CODE 0
    ((s.put Reg.NC_STATUS.ACTIVE 0).put Reg.NC_STATUS.STANDBY_OK 1).put Reg.RCV_STATUS.STATE 3

/-- RESUME: every RESTORING job is restored from its last record. -/
def State.resume (s : State) : State :=
  let s := { s.put Reg.RCV_STATUS.STATE 0 with hbmSelf := false }
  (List.range 8).foldl (fun (t : State) j => if t.jobState j = 3 then t.restartRestore j else t) s

/-- A write of `RCV_CMD`. -/
def State.writeRcv (s : State) (cmd : Nat) (readOk : Bool) : State :=
  let code := s.rcvCode cmd
  if code ≠ 0 then s.reject code 0x590000 none
  else if cmd = 1 then s.reloadPairs readOk else s.resume

/-- `RELOAD`. -/
def execReload (readOk : Bool) (s : State) : Ans := .next (s.hostReaches (fun t => t.writeRcv 1 readOk))

/-- `RESUME`. -/
def execResume (s : State) : Ans := .next (s.hostReaches (fun t => t.writeRcv 2 true))

/-! ## The test port (R585) -/

/-- The instruction is accepted. -/
def State.jtagMay (s : State) : JtagInstr → Bool
  | .bypass => true
  | .idcode => true
  | .other _ => false
  | _ => s.aon.perst || (s.flag Reg.SEC_STATUS.DEBUG && bit s.sec.level 0)

/-- `JTAG_INSTRUCTION`: an instruction that is not accepted is loaded as BYPASS. IDCODE shifts out 0x1247_2B87. -/
def execJtagInstruction (ins : JtagInstr) (s : State) : Ans :=
  .next (let t := { s with jtag := if s.jtagMay ins then ins else .bypass }
    if t.jtag = .idcode then { t with mmioData := 0x12472B87 } else t)

end Sys2Proof.Machine
end

