-- ==== Sys2Proof/Machine/HostRegs.lean ====
section
/-! DEFINITION. Register accesses of the host (R7 to R10, R23, R53, R60, R381): the read and the write of any BAR0
register with the range checks and the state checks that each chapter gives, W1C clears under the set-wins rule, RC reads,
pops of trace streams, and register-access packets (R451). -/

namespace Sys2Proof.Machine

/-! ## Reads -/

/-- The offset lies in the 64 KiB block of a Guyline port that is fused off (R4, R22). The device area of R460 in the upper
half of port 0's block is the device's, whether or not port 0 is fused (DEDUCED, log 115). -/
def State.fusedPort (s : State) (off : Nat) : Bool :=
  0xB00000 ≤ off && off < 0xC00000 && !s.portPresent ((off - 0xB00000) / 0x10000) &&
    !(0xB08000 ≤ off && off < 0xB10000)

/-- The live pages of a job in a tier (R344). -/
def State.livePages (s : State) (j : Nat) (ddr : Bool) : Nat :=
  ((s.jobPages j).filter (fun v => (s.pte j v).any (fun p => isDdr p.live = ddr))).length

/-- The occupancies of the queues in one core, 5 bits for each context and engine (R83). -/
def State.queueOcc (s : State) (g cx : Nat) : Nat :=
  (List.range 8).foldl (fun a i =>
    let ls := (s.coresOf g (i / 4)).filter (fun k => (s.view g k).cx = cx)
    let n := ((s.queue g (i / 4) (i % 4)).filter (fun q => ls.any (fun k => !q.retiredIn k))).length
    a + 2 ^ (5 * i) * n) 0

/-- The closed records of a trace stream (R388, R395): each packet is one record. -/
def State.traceAvail (s : State) (q : Nat) : Nat := (s.get (cqFlds q).put - s.get (cqFlds q).get) / 40

/-- A word of the oldest closed record of a trace stream. -/
def State.traceWord (s : State) (q w : Nat) : Nat :=
  if s.traceAvail q = 0 then 0
  else leNat ((List.range 8).map (fun i => s.cqByte q (s.get (cqFlds q).get + 8 + 8 * w + i)))

/-- The value of a register: of a few it follows from other state, of the rest it is what its fields hold. -/
def State.regValue (s : State) (row : RegRow) (ix : List Nat) (off : Nat) : Nat :=
  let a := ix.getD 0 0
  let b := ix.getD 1 0
  match row.id with
  | .ST_NOW => s.stamp 523
  | .MEM_JOB_PAGES => s.livePages a true * 2 ^ 32 + s.livePages a false
  | .ENG_QOCC => s.queueOcc a b
  | .CTX_ACC_MASK => s.accMask a b
  | .TRC_REC => s.traceWord a b
  | .TRC_AVAIL => s.traceAvail a
  | _ => s.fieldsValue row ix off

/-- The value that a read of a BAR0 offset returns (R4, R8, R23). -/
def State.regRead (s : State) (off : Nat) : Nat :=
  if s.fusedPort off then 0
  else match regAt off with
    | some (row, ix) => s.regValue row ix off
    | none => 0

/-- A read of BAR0 by the host: outside the identity and status block it returns zero until step 2 of a warm reset's
start-up is complete (R522). -/
def State.barRead (s : State) (off : Nat) : Nat := if s.boot.dark && 0x100000 ≤ off then 0 else s.regRead off

/-- The read of an RC field clears it, and an event of the same cycle stands in it afterwards (R10); the value of the
events is laid out as the register. -/
def State.clearRc (s : State) (off ev : Nat) : State :=
  match regAt off with
  | some (row, ix) =>
    let s := row.fields.foldl (fun (t : State) f =>
      if f.acc = .rc then t.put (rowFld row.id ix off f) (bits ev f.lo f.w) else t) s
    if row.id = .TS_TEMP then
      { s with power := { s.power with peaked := s.power.peaked.filter (· ≠ ix.getD 0 0) } } else s
  | none => s

/-- A read of a register with what it clears. -/
def State.readNow (s : State) (off ev : Nat) : State :=
  let t := if s.fusedPort off then s else s.clearRc off ev
  { t with mmioData := s.regRead off }

/-- A read by the host; one of an island that is held waits in its crossing (R18, R529). -/
def State.readClear (s : State) (off ev : Nat) : State :=
  if s.accessHeld off then s.pushWord off { write := false, off := off, val := ev } else s.readNow off ev

/-- `RC_READ`. -/
def execRcRead (off ev : Nat) (s : State) : Ans :=
  .next (if s.aon.down then s
    else if s.boot.dark && 0x100000 ≤ off then { s with mmioData := 0 } else s.readClear off ev)

/-! ## W1C event bits (R381, R390) -/

/-- The vector whose summary an event bit belongs to (R389, R479). -/
def eventVector (off b : Nat) : Option Nat :=
  if off = 0x18 then (if b = 32 then some 29 else none)
  else if off = 0x700000 then
    (if b = 32 then some 8 else if b = 33 then some 9 else if b = 34 then some 10
      else if 35 ≤ b ∧ b ≤ 37 then some 11 else none)
  else if 0x300000 ≤ off ∧ off < 0x380000 ∧ off % 0x10000 = 8 then
    (if 32 ≤ b ∧ b ≤ 34 then some ((off - 0x300000) / 0x10000) else none)
  else none

/-- The vectors of the event bits of a register that a value names, each once. -/
def eventVectors (row : RegRow) (off v : Nat) : List Nat :=
  ((row.fields.filter (fun f => f.acc = .w1c && bit v f.lo)).filterMap (fun f => eventVector off f.lo)).eraseDups

/-- One event bit meets a write and an event of the same clk: the set wins, and `EVT_CNT` gains one where both come. -/
def State.w1cBit (s : State) (row : RegRow) (ix : List Nat) (off : Nat) (wr hw : Bool) (f : FieldRow) : State :=
  let fld := rowFld row.id ix off f
  match wr, hw with
  | true, true => match row.fields with
    | cnt :: _ => (s.put fld 1).incSat (rowFld row.id ix off cnt) 1
    | [] => s.put fld 1
  | true, false => s.put fld 0
  | false, true => s.put fld 1
  | false, false => s

/-- The event bits that hardware can set: in `ERR_DEV_STATUS`, with the control pairs failed, `NET_LOST_EVT` alone
(R391). -/
def State.hwBits (s : State) (off hw : Nat) : Nat := if s.pairsFailed && off = 0x700000 then hw / 2 ^ 34 % 2 * 2 ^ 34 else hw

/-- A write to a register of event bits, with the bits hardware sets on the same clk. The message of a vector goes out
again where a bit of it was written and its summary stays 1, and where its summary becomes 1. -/
def State.w1cWrite (s : State) (row : RegRow) (ix : List Nat) (off mask hw : Nat) : State :=
  let hw := s.hwBits off hw
  let t := row.fields.foldl (fun (t : State) f =>
    if f.acc = .w1c then t.w1cBit row ix off (bit mask f.lo) (bit hw f.lo) f else t) s
  let wr := eventVectors row off mask
  let all := (wr ++ eventVectors row off hw).eraseDups
  all.foldl (fun (u : State) v =>
    if t.vecSummary v && (wr.contains v || !s.vecSummary v) then u.sendVector v else u) t

/-- The register holds event bits. -/
def isEventReg (row : RegRow) : Bool := row.fields.any (fun f => f.acc = .w1c)

/-- `W1C_CLEAR` by a write of the host. At an island that is held the write waits, and what hardware sets is set. -/
def State.w1cClear (s : State) (off mask hw : Nat) : State :=
  if s.fusedPort off then s.reject 0x05 off none
  else match regAt off with
    | some (row, ix) =>
      if !isEventReg row then s
      else if s.accessHeld off then (s.w1cWrite row ix off 0 hw).pushWord off { off := off, val := mask }
      else s.w1cWrite row ix off mask hw
    | none => s

/-- A write by the host: the identity and status block takes it even while the rest of BAR0 is dark (R522), and the Recovery
window while the control pairs have failed (R425, R426). -/
def State.hostWrite (s : State) (off : Nat) (f : State → State) : State :=
  if s.aon.down then s
  else if off < 0x100000 then f s
  else if 0x590000 ≤ off && off < 0x5A0000 then s.hostReaches f
  else s.barWrite f

/-- `W1C_CLEAR`. -/
def execW1cClear (off mask hw : Nat) (s : State) : Ans := .next (s.hostWrite off (fun t => t.w1cClear off mask hw))

/-! ## The checks of a write (R60) -/

/-- The job whose area an offset lies in: its block, its Calliope, Safety Net or Spotter area. A rejected write there
is charged to it (R60, log 62). -/
def jobOfOff (off : Nat) : Option Nat :=
  if 0x300000 ≤ off ∧ off < 0x380000 then some ((off - 0x300000) / 0x10000)
  else if 0x400000 ≤ off ∧ off < 0x500000 then some ((off - 0x400000) / 0x20000)
  else if 0x500000 ≤ off ∧ off < 0x580000 then some ((off - 0x500000) / 0x10000)
  else if 0x600000 ≤ off ∧ off < 0x700000 then some ((off - 0x600000) / 0x20000)
  else none

/-- A context's tables and set-up may be written: it is unbound, or its job is FREE or LOADED (R53). -/
def State.ctxOpen (s : State) (g c : Nat) : Bool :=
  match s.ctxJob g c with
  | some j => s.jobIdle j
  | none => true

/-- The sum of the eight bytes of a value. -/
def byteSum (val : Nat) : Nat := (List.range 8).foldl (fun a v => a + bits val (8 * v) 8) 0

/-- The port whose block an offset lies in. -/
def portOfOff (off : Nat) : Nat := (off - 0xB00000) / 0x10000

/-- The fields of a write are in range; false is `FIELD_RANGE`. -/
def State.rangeOk (s : State) (id : RegId) (ix : List Nat) (val : Nat) : Bool :=
  match id with
  | .CTX_CFG => tmoOk (bits val 22 6)
  | .UPD_CFG => tmoOk (bits val 22 6) && bits val 0 2 ≠ 3
  | .RM_PARADE =>
    (bits val 31 9 = 0 || (64 ≤ bits val 31 9 && bits val 31 9 ≤ 319)) && bits val 19 5 ≤ 23
  | .SP_CFG => bits val 16 10 ≠ 0
  | .CAL_CFG => bits val 8 8 ≤ 128
  | .CAL_PERIOD => periodOk val
  | .SCHED_CFG => bits val 0 11 ≤ 1024
  | .HO_CFG => bits val 0 16 ≠ 0
  | .SN_CFG =>
    20 ≤ bits val 34 6 && bits val 34 6 ≤ 34 && 10 ≤ bits val 27 5 && bits val 27 5 ≤ 26
  | .SN_LOG_BASE => bits val 13 30 * 2 ^ 13 % 2 ^ (s.get (Reg.SN_CFG.LOG2 (ix.getD 0 0)) + 3) = 0
  | .SN_CLAMP =>
    1000 ≤ bits val 32 32 && bits val 32 32 ≤ 1800000 && 1000 ≤ bits val 0 32 && bits val 0 32 ≤ bits val 32 32
  | .GL_VL_CRED => byteSum val ≤ 256 && 8 ≤ bits val 0 8 && 8 ≤ bits val 56 8 && bits val 48 8 = 0
  | .GRP_CFG => 1 ≤ bits val 32 17 && bits val 32 17 ≤ 65536
  | .RING_CFG => 4 ≤ bits val 16 4
  | .FR_CFG => 4 ≤ bits val 16 4
  | .PWR_LIMIT =>
    600 ≤ bits val 32 16 && bits val 32 16 ≤ s.get Reg.DEV_GRADE.PKG_CEIL_W && 85 ≤ bits val 16 8 &&
      bits val 16 8 ≤ 100 && 85 ≤ bits val 0 8 && bits val 0 8 ≤ 105
  | .PWR_CAP =>
    600 ≤ bits val 32 16 && bits val 32 16 ≤ s.get Reg.PWR_LIMIT.MAX_W && 600 ≤ bits val 0 16 &&
      bits val 0 16 ≤ s.get Reg.PWR_LIMIT.MAX_W
  | .PWR_SHARE => bits val 0 32 ≠ 0
  | _ => true

/-- The write names no fused unit; false is `FUSED_UNIT` (R3). -/
def State.unitOk (s : State) (id : RegId) (val : Nat) : Bool :=
  match id with
  | .GL_ROUTE_OVR => s.portPresent (bits val 16 4)
  | _ => true

/-- A collective instance that runs names a group (R460). -/
def State.groupBusy (s : State) (k : Nat) : Bool :=
  s.coll.any (fun e => e.2.running && (let d := s.collDesc (e.1 / 64) (e.1 % 64)
    (List.range (min d.ngrp 4)).any (fun i => bits d.grp (4 * i) 4 = k)))

/-- The registers of a job that are written in FREE and LOADED only (R53, R71, R344, R364, R372, R374, R428). -/
def jobReg (id : RegId) : Bool :=
  match id with
  | .JOB_HOSTFLAGS | .MEM_PT_ROOT | .MEM_PT_ROOT2 | .TB_KEY | .UPD_CFG | .NF_WATCH | .CAL_CFG | .CAL_CTX_MASK
  | .CAL_PERIOD | .CAL_ORIGIN | .CAL_WINDOW | .CAL_COST | .SCHED_CFG | .HO_CFG | .SCHED_TAB | .UPD_PROG | .SN_CFG
  | .SN_REC_BASE | .SN_LOG_BASE | .GL_COLL_BASE => true
  | _ => false

/-- The registers of a context that R53 governs, and `RM_PARADE` (R246). -/
def ctxReg (id : RegId) : Bool :=
  match id with
  | .CTX_CFG | .CTX_PC | .CTX_ACC_MASK | .DESC | .NEST | .RM_PARADE => true
  | _ => false

/-- The frames that a base names have owner `TABLE` (R330, R428, R460). -/
def State.basesOk (s : State) (id : RegId) (ix : List Nat) (val : Nat) : Bool :=
  match id with
  | .SN_REC_BASE => s.tableFrames (bits val 23 20 * 2 ^ 23) (2 ^ 23)
  | .SN_LOG_BASE => s.tableFrames (bits val 13 30 * 2 ^ 13) (2 ^ (s.get (Reg.SN_CFG.LOG2 (ix.getD 0 0)) + 3))
  | .GL_ROUTE_BASE => s.tableFrames (bits val 17 26 * 2 ^ 17) (2 ^ 17)
  | .GRP_LIST => s.tableFrames (bits val 1 42 * 2) (2 * max 1 (s.get (Reg.GRP_CFG.SIZE (ix.getD 0 0))))
  | .GL_COLL_BASE => s.tableFrames (bits val 12 31 * 2 ^ 12) (2 ^ 12)
  | _ => true

/-- The present state allows a write; false is `STATE_ILLEGAL`. -/
def State.stateOk (s : State) (id : RegId) (ix : List Nat) (val : Nat) : Bool :=
  let a := ix.getD 0 0
  let b := ix.getD 1 0
  (!jobReg id || s.jobIdle a) && (!ctxReg id || s.ctxOpen a b) && s.basesOk id ix val &&
  (match id with
    | .GL_VL_CRED => s.portState a = 0
    | .GRP_CFG | .GRP_ROLES | .GRP_LIST => !s.groupBusy a
    | .RING_BASE | .CPL_BASE => !s.flag (Reg.RING_CFG.EN a)
    | .RING_CFG => !s.flag (Reg.RING_CFG.EN a) || bits val 16 4 = s.get (Reg.RING_CFG.SIZE_LOG2 a)
    | .FR_BASE => !s.flag (Reg.FR_CFG.EN a)
    | .FR_CFG => !s.flag (Reg.FR_CFG.EN a) || bits val 16 4 = s.get (Reg.FR_CFG.SIZE_LOG2 a)
    | .TRC_POP => bits val 0 8 ≤ s.traceAvail a
    | _ => true)

/-- Some RWL field of the register is given another value than it holds (R9). -/
def State.rwlDiffers (s : State) (row : RegRow) (ix : List Nat) (off val : Nat) : Bool :=
  row.fields.any (fun f => f.acc = .rwl && s.get (rowFld row.id ix off f) ≠ bits val f.lo f.w)

/-- The code that a register write completes with; 0 where it is accepted. A write that R9 counts completes with
`STATE_ILLEGAL`, although its other fields take effect (log 62). -/
def State.regCode (s : State) (off val : Nat) : Nat :=
  if s.fusedPort off then 0x05
  else match regAt off with
  | none => 0
  | some (row, ix) =>
    let a := ix.getD 0 0
    let b := ix.getD 1 0
    match row.id with
    | .JOB_CTRL => s.jobCmdCode a (bits val 0 4)
    | .JOB_CTX_MASK => s.maskCode a (val % 2 ^ 48)
    | .JOB_FLAG_ADD => s.flagAddCode a (bits val 16 8)
    | .ARR_CFG => s.arrCfgCode a b val
    | .JQ_CFG => s.cqCfgCode (jobQueue a b) 0 val
    | .JQ_BASE => s.cqCfgCode (jobQueue a b) 1 val
    | .TQ_CFG => s.cqCfgCode a 0 val
    | .TQ_BASE => s.cqCfgCode a 1 val
    | .ST_SET_SEC => s.setSecCode (bits val 0 34)
    | .ST_SNAP_CTRL => s.snapCtrlCode val
    | .ST_SNAP_T => if s.flag Reg.ST_SNAP_CTRL.ARMED then 0x04 else 0
    | .MEM_OP_CMD => s.pageOpCode (bits val 0 4) (s.get Reg.MEM_OP_ARG0.JOB) (s.get Reg.MEM_OP_ARG0.VPN)
        (s.get Reg.MEM_OP_ARG1.W) false
    | .SN_REQ => s.snReqCode a (val % 2 ^ 64)
    | .SCHED_INJECT => s.injectCode a (bits val 16 4) (bits val 0 16)
    | .STEP_SEQ => s.stepSeqCode a (val % 2 ^ 48)
    | .SCALE => s.scaleCode a b val
    | .GL_PORT_CFG => firstNonzero [portCfgCode a val, if s.committed && s.rwlDiffers row ix off val then 0x04 else 0]
    | .GL_DEV_ID => s.devIdCode
    | .GL_TOPO => s.topoCode val
    | .HS_CMD => s.hsCode (bits val 12 4) (bits val 0 12) (bits val 16 2)
    | .SEC_CMD => s.secCode (bits val 0 8) (bits val 8 8)
    | .RCV_CMD => s.rcvCode (bits val 0 4)
    | .DEV_RESET => s.devResetCode val
    | .HIF_WIN => s.hifWinCode val
    | .TRC_POP => if bits val 0 8 = 0 then 0x06 else if bits val 0 8 ≤ s.traceAvail a then 0 else 0x04
    | id => firstCode [(s.rangeOk id ix val, 0x06), (s.unitOk id val, 0x05), (s.stateOk id ix val, 0x04),
        (!(s.committed && s.rwlDiffers row ix off val), 0x04)]

/-! ## Writes -/

/-- Write the fields of a register that a write sets: RW fields, and RWL fields until the Playbill's commit (R7, R9).
`CTX_FLAG` and `JOB_FLAG` are read-only but in LOADED (R71, R82, R84). -/
def State.putFields (s : State) (row : RegRow) (ix : List Nat) (off val : Nat) : State :=
  row.fields.foldl (fun (t : State) f =>
    if f.acc = .rw || (f.acc = .rwl && !s.committed) then t.put (rowFld row.id ix off f) (bits val f.lo f.w) else t) s

/-- The flags of a job, or of a context's job, may be written directly. -/
def State.flagsOpen (s : State) (id : RegId) (ix : List Nat) : Bool :=
  match id with
  | .JOB_FLAG => s.jobState (ix.getD 0 0) = 1
  | .CTX_FLAG => match s.ctxJob (ix.getD 0 0) (ix.getD 1 0) with
    | some j => s.jobState j = 1
    | none => false
  | _ => true

/-- A write of `RING_CFG` (R474, R480): enabling a ring sets `HEAD` to the tail and clears the stop; what an earlier
enabling left unfinished is forgotten, and the completion counts start at the tail (log 63). -/
def State.writeRingCfg (s : State) (q val : Nat) : State :=
  let on := !s.flag (Reg.RING_CFG.EN q) && bit val 0
  let s := (s.put (Reg.RING_CFG.SIZE_LOG2 q) (bits val 16 4)).put (Reg.RING_CFG.EN q) (bits val 0 1)
  if on then
    let tail := s.get (Reg.RING_STATUS.TAIL q)
    let s := ((s.put (Reg.RING_STATUS.HEAD q) tail).put (Reg.RING_STATUS.STOPPED q) 0).put (Reg.RING_STATUS.CODE q) 0
    (s.put (Reg.CPL_HEAD.IDX q) tail).setRingNum q { cplTail := tail }
  else s

/-- Pop records of a trace stream. -/
def State.popRecords (s : State) (q : Nat) : Nat → State
  | 0 => s
  | n + 1 => State.popRecords (s.cqPopOne q) q n

/-- A register write whose checks the generic rules make, accepted. -/
def State.applyReg (s : State) (row : RegRow) (ix : List Nat) (off val : Nat) : State :=
  match row.id with
  | .RING_CFG => s.writeRingCfg (ix.getD 0 0) val
  | .TRC_POP => s.popRecords (ix.getD 0 0) (bits val 0 8)
  | .GL_MASTER => (s.putFields row ix off val).updateRole
  | .SCHED_CFG =>
    let j := ix.getD 0 0
    let t := s.putFields row ix off val
    t.put (Reg.SCHED_STATUS.AT_END j) (ofBool (t.atEnd j))
  | _ => if isEventReg row then s.w1cWrite row ix off val 0
      else if s.flagsOpen row.id ix then s.putFields row ix off val else s

/-- A register write that the generic rules check. A write that R9 counts still updates the register's other fields. -/
def State.genericWrite (s : State) (row : RegRow) (ix : List Nat) (off val : Nat) : State :=
  let code := firstCode [(row.id ≠ .TRC_POP || bits val 0 8 ≠ 0, 0x06), (s.rangeOk row.id ix val, 0x06),
    (s.unitOk row.id val, 0x05), (s.stateOk row.id ix val, 0x04)]
  if code ≠ 0 then s.reject code off (jobOfOff off)
  else
    let t := s.applyReg row ix off val
    if s.committed && s.rwlDiffers row ix off val then t.reject 0x04 off (jobOfOff off) else t

/-- A register write that has arrived (R23, R60, R61). -/
def State.writeNow (s : State) (off val : Nat) : State :=
  if s.fusedPort off then s.reject 0x05 off none
  else match regAt off with
  | none => s
  | some (row, ix) =>
    let a := ix.getD 0 0
    let b := ix.getD 1 0
    match row.id with
    | .JOB_CTRL => s.writeJobCtrl a (bits val 0 4)
    | .JOB_CTX_MASK => s.writeMask a val
    | .JOB_FLAG_ADD => s.writeFlagAdd a (bits val 16 8) (bits val 0 16)
    | .ARR_CFG => s.writeArrCfg a b val
    | .JQ_CFG => s.cqCfgWrite (jobQueue a b) 0 val
    | .JQ_BASE => s.cqCfgWrite (jobQueue a b) 1 val
    | .TQ_CFG => s.cqCfgWrite a 0 val
    | .TQ_BASE => s.cqCfgWrite a 1 val
    | .ST_CTRL => s.writeStCtrl val
    | .ST_SET_SEC => s.writeSetSec val
    | .ST_SNAP_CTRL => s.writeSnapCtrl val
    | .ST_SNAP_T => s.writeSnapT (val % 2 ^ 64)
    | .MEM_OP_CMD => s.pageCmd (bits val 0 4)
    | .SN_REQ => s.writeSnReq a val
    | .SCHED_INJECT => s.writeInject a val
    | .STEP_SEQ => s.writeStepSeq a val
    | .SCALE => s.writeScale a b val
    | .GL_PORT_CFG => s.writePortCfg a val
    | .GL_DEV_ID => s.writeDevId val
    | .GL_TOPO => s.writeTopo val
    | .HS_CMD => s.writeHsCmd val
    | .SEC_CMD => s.secCmd (bits val 0 8) (bits val 8 8)
    | .RCV_CMD => s.writeRcv (bits val 0 4) true
    | .DEV_RESET => s.writeDevReset val (s.get Reg.DEV_BOOT.BOOT_MODE)
    | .HIF_WIN => s.writeHifWin val
    | _ => s.genericWrite row ix off val

/-- A register write, wherever it comes from; one to an island that is held waits in its crossing (R18, R529). -/
def State.regWrite (s : State) (off val : Nat) : State :=
  if s.accessHeld off && !s.fusedPort off then s.pushWord off { off := off, val := val } else s.writeNow off val

/-- A word that waited in a crossing is delivered. -/
def State.deliver (s : State) (w : XWord) : State := if w.write then s.writeNow w.off w.val else s.readNow w.off w.val

/-- The words that waited at an island are delivered in the order in which they were written (R18). -/
def State.deliverAll (s : State) (i : Nat) : State := (s.crossing i).foldl State.deliver (s.setCrossing i [])

/-- `CORE_CLEAR` (R281): the words that waited in the core's crossings while it cleared are then delivered. -/
def execCoreClear (g cx : Nat) (s : State) : Ans :=
  inUnits (g < 24 && cx < 16) (.next (
    let t := s.coreClear g cx
    if t.islandHeld (coreIsland g cx) then t else t.deliverAll (coreIsland g cx)))

/-- `HS_PHASE_DONE` (R527, R529): when the restore ends, the register accesses held at the target go on. -/
def execHsPhaseDone (s : State) : Ans :=
  .next (let t := s.hsPhaseDone
    match s.testIsland with
    | some i => if t.testIsland.isNone then t.deliverAll i else t
    | none => t)

/-- `REGISTER_WRITE`. -/
def execRegisterWrite (off val : Nat) (s : State) : Ans := .next (s.hostWrite off (fun t => t.regWrite off val))

/-- `RING_CFG_EN_WRITE` (R474, R480). -/
def execRingCfgEnWrite (q val : Nat) (s : State) : Ans :=
  inUnits (q < 9) (.next (s.barWrite (fun t => t.regWrite (0x100008 + q * 0x100) val)))

/-- `TRC_POP` (R388). -/
def execTrcPop (q n : Nat) (s : State) : Ans :=
  inUnits (q < 9) (.next (s.barWrite (fun t => t.regWrite (0x703028 + 64 * q) n)))

/-! ## Register-access packets (R451) -/

/-- The registers that a register-access packet may name: the Recovery window and the device area. -/
def packetReg (off : Nat) : Bool := (0x590000 ≤ off && off < 0x5A0000) || (0xB08000 ≤ off && off < 0xB10000)

/-- `REGISTER_ACCESS_PACKET`: from the System Master it is carried out, and the reply goes back to it with the value; any
other is discarded and counted at the port it came by. While the control pairs have failed a write reaches the Recovery window
alone (R425, R426, log 121). -/
def State.accessPacket (s : State) (p src : Nat) (write : Bool) (off val : Nat) : State :=
  if src ≠ s.get Reg.GL_MASTER.SYS || !packetReg off then s.inc (Reg.GL_RX_DISCARD.N p) 1
  else
    let t := if write then s.hostWrite off (fun t => t.regWrite off val) else s.clearRc off 0
    let v := if write then val else s.regRead off
    (t.sendPacket { type := 5, dst := src, stamp := t.stamp 536 % 2 ^ 24, ofs := off, data := leBytes 8 v }).getD t

/-- `REGISTER_ACCESS_PACKET`. -/
def execRegisterAccessPacket (p : Nat) (h : PktHead) (write : Bool) (off val : Nat) (s : State) : Ans :=
  inUnits (p < 16 && headOk h && off < 2 ^ 32 && val < 2 ^ 64)
    (.next (s.arrive p { headPacket h 5 with ofs := off, tag := ofBool write, data := leBytes 8 val } (fun t =>
      t.accessPacket p h.src write off val)))

end Sys2Proof.Machine
end

