-- ==== Sys2Proof/Machine/Rings.lean ====
section
/-! DEFINITION. The command rings: doorbells, the fetch of entries, each ring command, and completion entries (R470 to
R475). -/

namespace Sys2Proof.Machine

/-! ## Doorbells (R470) -/

/-- The job of a job ring. -/
def ringJob (q : Nat) : Option Nat := if q < 8 then some q else none

/-- The entries of a ring. -/
def State.ringSize (s : State) (q : Nat) : Nat := 2 ^ s.get (Reg.RING_CFG.SIZE_LOG2 q)

/-- The distance from one 16-bit index to another. -/
def idxDist (a b : Nat) : Nat := (b + 2 ^ 16 - a % 2 ^ 16) % 2 ^ 16

/-- The code of a write of a new tail. -/
def State.tailCode (s : State) (q val : Nat) : Nat :=
  firstCode [(9 ≤ q || idxDist (s.get (Reg.RING_STATUS.HEAD q)) (val % 2 ^ 16) ≤ s.ringSize q, 0x06),
    (q < 9 && s.flag (Reg.RING_CFG.EN q), 0x04)]

/-- A doorbell is rejected: its offset in BAR4, charged to the job of its page (log 62). -/
def State.bellReject (s : State) (code q o : Nat) : State := s.reject code (q * 4096 + o) (ringJob q)

/-- `DOORBELL_TAIL`. -/
def State.bellTail (s : State) (q val : Nat) : State :=
  let code := s.tailCode q val
  if code ≠ 0 then s.bellReject code q 0 else s.put (Reg.RING_STATUS.TAIL q) (val % 2 ^ 16)

/-- `DOORBELL_TAIL`: a page of BAR4; pages 9 to 15 are reserved. -/
def execDoorbellTail (q val : Nat) (s : State) : Ans :=
  inUnits (q < 16) (.next (if s.aon.down || s.pairsFailed then s else s.bellTail q val))

/-- The code of a write of the completion head. -/
def State.cplHeadCode (s : State) (q val : Nat) : Nat :=
  let h := s.get (Reg.CPL_HEAD.IDX q)
  firstCode [(9 ≤ q || idxDist h (val % 2 ^ 16) ≤ idxDist h (s.ringOfNum q).cplTail, 0x06),
    (q < 9 && s.flag (Reg.RING_CFG.EN q), 0x04)]

/-- `DOORBELL_CPL_HEAD`. -/
def State.bellCplHead (s : State) (q val : Nat) : State :=
  let code := s.cplHeadCode q val
  if code ≠ 0 then s.bellReject code q 8 else s.put (Reg.CPL_HEAD.IDX q) (val % 2 ^ 16)

/-- `DOORBELL_CPL_HEAD`. -/
def execDoorbellCplHead (q val : Nat) (s : State) : Ans :=
  inUnits (q < 16) (.next (if s.aon.down || s.pairsFailed then s else s.bellCplHead q val))

/-- The code of a write of `FR_HEAD`. -/
def State.frHeadCode (s : State) (q val : Nat) : Nat :=
  let dist (b : Nat) : Nat := (b + 2 ^ 32 - s.get (Reg.FR_PTR.HEAD q)) % 2 ^ 32
  firstCode [(8 ≤ q || dist (val % 2 ^ 32) ≤ dist (s.get (Reg.FR_PTR.TAIL q)), 0x06),
    (q < 8 && s.flag (Reg.FR_CFG.EN q), 0x04)]

/-- `DOORBELL_FR_HEAD`. -/
def State.bellFrHead (s : State) (q val : Nat) : State :=
  let code := s.frHeadCode q val
  if code ≠ 0 then s.bellReject code q 16 else s.put (Reg.FR_PTR.HEAD q) (val % 2 ^ 32)

/-- `DOORBELL_FR_HEAD`. -/
def execDoorbellFrHead (q val : Nat) (s : State) : Ans :=
  inUnits (q < 16) (.next (if s.aon.down || s.pairsFailed then s else s.bellFrHead q val))

/-! ## The fetch (R470, R471, R474) -/

/-- The device may reach host memory: Bus Master Enable is set, and the function is not in D3hot (log 16). -/
def State.hostReach (s : State) : Bool := s.pcie.busMaster && !s.pcie.d3hot && !s.aon.down

/-- The vector of a ring (R479). -/
def ringVector (q : Nat) : Nat := if q < 8 then 12 + q else 28

/-- The next entry may be fetched. -/
def State.mayFetch (s : State) (q : Nat) : Bool :=
  let h := s.get (Reg.RING_STATUS.HEAD q)
  !s.pairsFailed && s.flag (Reg.RING_CFG.EN q) && !s.flag (Reg.RING_STATUS.STOPPED q) && s.hostReach &&
    h ≠ s.get (Reg.RING_STATUS.TAIL q) && decide (idxDist (s.get (Reg.CPL_HEAD.IDX q)) h < s.ringSize q)

/-- The opcodes of every ring, of job rings alone, and of the admin ring alone. -/
def opcOk (q opc : Nat) : Bool :=
  (1 ≤ opc && opc ≤ 3) || (if q < 8 then 4 ≤ opc && opc ≤ 6 else opc = 0x10 || opc = 0x11)

/-- The command of a 64-byte entry, and whether the entry is well formed for its ring. -/
def entryCmd (q idx : Nat) (b : List Byte) : RingCmd × Bool :=
  let n (lo k : Nat) : Nat := leNat ((b.drop lo).take k)
  ({ idx := idx, opc := n 0 1, flg := n 1 1, cid := n 4 4, a0 := n 8 8, a1 := n 16 8, a2 := n 24 8 },
    opcOk q (n 0 1) && decide (n 1 1 < 4) && n 2 2 = 0 && n 32 32 = 0)

/-- A rejected ring command is counted and traced with its index (R61, R379). -/
def State.ringReject (s : State) (q idx code : Nat) (job : Option Nat) : State :=
  (s.reject code idx job).ringDone q idx code 0

/-- An entry has arrived: one that is not well formed is rejected at once. -/
def State.takeEntry (s : State) (q : Nat) (b : List Byte) : State :=
  let h := s.get (Reg.RING_STATUS.HEAD q)
  let c := entryCmd q h b
  let r := s.ringOfNum q
  let s := (s.setRingNum q { r with cmds := r.cmds ++ [c.1] }).put (Reg.RING_STATUS.HEAD q) ((h + 1) % 2 ^ 16)
  if c.2 then s else s.ringReject q h 0x06 (ringJob q)

/-- A failed fetch stops the ring, and its vector says so. -/
def State.stopRing (s : State) (q : Nat) : State :=
  ((s.put (Reg.RING_STATUS.STOPPED q) 1).put (Reg.RING_STATUS.CODE q) 0x0A).sendVector (ringVector q)

/-- `RING_ENTRY_FETCH`: `ok` is whether the read of host memory succeeds. -/
def execRingEntryFetch (q : Nat) (ok : Bool) (s : State) : Ans :=
  inUnits (q < 9) (.next (if s.mayFetch q then
      (if ok then
        s.takeEntry q (s.hostBytes (s.get (Reg.RING_BASE.ADDR q) * 64 + 64 * (s.get (Reg.RING_STATUS.HEAD q) % s.ringSize q)) 64)
      else s.stopRing q)
    else s))

/-! ## Commands (R471, R472, R475) -/

/-- The command of a ring that may start, if it has the opcode: the oldest that has not started; one with `FENCE` only
once every earlier entry has completed. -/
def State.nextCmd (s : State) (q opc : Nat) : Option RingCmd :=
  let cs := (s.ringOfNum q).cmds
  match cs.find? (fun c => !c.started) with
  | some c => if c.opc = opc && (!bit c.flg 0 || cs.head? = some c) then some c else none
  | none => none

/-- Run a ring's next command of an opcode, or nothing; nothing runs while the control pairs have failed (R425). -/
def State.ringRun (s : State) (q opc : Nat) (f : RingCmd → State) : State :=
  match s.nextCmd q opc with
  | some c => if s.pairsFailed then s else f c
  | none => s

/-- `CMD_NOP`. -/
def execCmdNop (q : Nat) (s : State) : Ans :=
  inUnits (q < 9) (.next (s.ringRun q 0x01 (fun c => s.ringDone q c.idx 0 0)))

/-- The offset that a register command names may be named on its ring: 8-byte aligned, and on a job ring in the job's
own areas. -/
def ringOffOk (q off : Nat) : Bool := off % 8 = 0 && (q = 8 || jobOfOff off = some q)

/-- `REG_WRITE`: checked as the equivalent register write is. It completes when the write has taken effect, so one to an island
that is held waits (R471, R529). -/
def State.ringWrite (s : State) (q : Nat) (c : RingCmd) : State :=
  let off := bits c.a0 0 26
  if s.accessHeld off && !s.fusedPort off then s
  else if ringOffOk q off then (s.regWrite off c.a1).ringDone q c.idx (s.regCode off c.a1) 0
  else s.ringReject q c.idx 0x06 (ringJob q)

/-- `REG_WRITE`. -/
def execRegWrite (q : Nat) (s : State) : Ans := inUnits (q < 9) (.next (s.ringRun q 0x02 (fun c => s.ringWrite q c)))

/-- `REG_READ`: an RC field is cleared by it as by any read; one of an island that is held waits. -/
def State.ringRead (s : State) (q : Nat) (c : RingCmd) : State :=
  let off := bits c.a0 0 26
  if s.accessHeld off && !s.fusedPort off then s
  else if ringOffOk q off then (if s.fusedPort off then s else s.clearRc off 0).ringDone q c.idx 0 (s.regRead off)
  else s.ringReject q c.idx 0x06 (ringJob q)

/-- `REG_READ`. -/
def execRegRead (q : Nat) (s : State) : Ans := inUnits (q < 9) (.next (s.ringRun q 0x03 (fun c => s.ringRead q c)))

/-- The code of a copy that may not start (R472). -/
def State.copyCode (s : State) (q : Nat) (c : RingCmd) : Nat :=
  firstCode [(1 ≤ bits c.a2 0 32 && bits c.a2 0 32 ≤ 2 ^ 30, 0x06),
    (s.flag Reg.DEV_STATUS.READY && s.jobState q ≠ 0 && s.jobState q ≠ 3, 0x04)]

/-- The copy of a ring that goes on: the oldest that has started and is not done, or the next command if it is one. -/
def State.copyNext (s : State) (q opc : Nat) : Option RingCmd :=
  match (s.ringOfNum q).cmds.find? (fun c => c.opc = opc && c.started && !c.done) with
  | some c => some c
  | none => s.nextCmd q opc

/-- Run a ring's copy of an opcode, while host memory can be reached: one that may not start is rejected. -/
def State.copyRun (s : State) (q opc : Nat) (f : RingCmd → State) : State :=
  if s.pairsFailed || !s.hostReach then s
  else match s.copyNext q opc with
    | none => s
    | some c =>
      let code := s.copyCode q c
      if !c.started && code ≠ 0 then s.ringReject q c.idx code (ringJob q) else f c

/-- The bytes that a copy moves next: up to its next 4 KiB boundary in the job's space, or to its end (log 126). -/
def copyPiece (c : RingCmd) : Nat :=
  min (bits c.a2 0 32 - c.moved) (4096 - (bits c.a1 0 52 + c.moved) % 4096)

/-- A copy has moved n further bytes; it is done with the last. -/
def State.copyMoved (s : State) (q : Nat) (c : RingCmd) (n : Nat) : State :=
  let m := c.moved + n
  if m = bits c.a2 0 32 then s.ringDone q c.idx 0 m
  else
    let r := s.ringOfNum q
    s.setRingNum q { r with cmds := r.cmds.map (fun d => if d.idx = c.idx then { d with started := true, moved := m } else d) }

/-- The device physical address that a byte of a job's virtual space is written at, for the counters of R347. -/
def State.writePhys (s : State) (j va : Nat) : Nat :=
  match s.pte j (bits va 21 31) with
  | some p => 2 ^ 21 * p.live + bits va 0 21
  | none => 0

/-- Copy n bytes to a job's space; how many were copied when a page was not translated. -/
def State.copyIn (s : State) (j src va : Nat) : Nat → State × Nat
  | 0 => (s, 0)
  | n + 1 => match s.devWrite j va (s.hostByte src) with
    | some t =>
      let r := State.copyIn (t.countMem (s.writePhys j va) 1 true) j (src + 1) (va + 1) n
      (r.1, r.2 + 1)
    | none => (s, 0)

/-- Copy n bytes from a job's space to host memory. -/
def State.copyOut (s : State) (j dst va : Nat) : Nat → State × Nat
  | 0 => (s, 0)
  | n + 1 => match s.readAddr j va with
    | some a =>
      let r := State.copyOut ((s.countMem a 1 false).setHostByte dst (s.memByte a)) j (dst + 1) (va + 1) n
      (r.1, r.2 + 1)
    | none => (s, 0)

/-- A copy ends early: charged to the device, with the payload of R320 where it is `PAGE_FAULT` (log 65). -/
def State.copyFault (s : State) (q : Nat) (c : RingCmd) (code space a moved : Nat) : State :=
  (s.raiseErr { code := code, island := 523, payload := if code = 0x0A then 2 ^ 61 * space + a % 2 ^ 61 else 0 }).ringDone
    q c.idx code moved

/-- One piece of `COPY_TO_DEV`: a read of host memory that fails ends it after a number of bytes that the spec leaves open. -/
def State.copyToDev (s : State) (q : Nat) (c : RingCmd) (hostOk : Bool) : State :=
  let n := copyPiece c
  let va := bits c.a1 0 52 + c.moved
  let n' := if hostOk then n else s.takeFree 0 % n
  let r := (if hostOk then s else s.bumpFree).copyIn q (c.a0 + c.moved) va n'
  if r.2 < n' then r.1.copyFault q c (r.1.accessCode q (va + r.2) true) 0 (va + r.2) (c.moved + r.2)
  else if hostOk then r.1.copyMoved q c n
  else r.1.copyFault q c 0x0A 3 (c.a0 + c.moved + r.2) (c.moved + r.2)

/-- `COPY_TO_DEV` (R472): its next piece. -/
def execCopyToDev (q : Nat) (hostOk : Bool) (s : State) : Ans :=
  inUnits (q < 8) (.next (s.copyRun q 0x04 (fun c => s.copyToDev q c hostOk)))

/-- One piece of `COPY_FROM_DEV`. -/
def State.copyFromDev (s : State) (q : Nat) (c : RingCmd) : State :=
  let n := copyPiece c
  let va := bits c.a1 0 52 + c.moved
  let r := s.copyOut q (c.a0 + c.moved) va n
  if r.2 < n then r.1.copyFault q c (r.1.accessCode q (va + r.2) false) 0 (va + r.2) (c.moved + r.2) else r.1.copyMoved q c n

/-- `COPY_FROM_DEV` (R472): its next piece. -/
def execCopyFromDev (q : Nat) (s : State) : Ans :=
  inUnits (q < 8) (.next (s.copyRun q 0x05 (fun c => s.copyFromDev q c)))

/-- `FLAG_ADD`: done when the add has taken effect; a Curtain may hold it (R404). -/
def State.ringFlagAdd (s : State) (q : Nat) (c : RingCmd) : State :=
  let code := s.flagAddCode q (bits c.a0 0 8)
  if code ≠ 0 then s.ringReject q c.idx code (ringJob q)
  else
    let r := s.ringOfNum q
    let s := s.setRingNum q { r with cmds := r.cmds.map (fun d => if d.idx = c.idx then { d with started := true } else d) }
    s.hostAdd q (bits c.a0 0 8) (bits c.a1 0 16) (some c.idx)

/-- `FLAG_ADD` (R71, R471). -/
def execFlagAdd (q : Nat) (s : State) : Ans := inUnits (q < 8) (.next (s.ringRun q 0x06 (fun c => s.ringFlagAdd q c)))

/-- `JOB_CMD`: a job command of R58. Before `READY` it is rejected (R465, log 54). -/
def State.ringJobCmd (s : State) (c : RingCmd) : State :=
  let j := bits c.a0 0 3
  let cmd := bits c.a1 0 4
  let code := firstNonzero [s.jobCmdCode j cmd, if s.flag Reg.DEV_STATUS.READY then 0 else 0x04]
  if code ≠ 0 then s.ringReject 8 c.idx code (some j) else (s.runJobCmd j cmd).ringDone 8 c.idx 0 0

/-- `JOB_CMD` (R58, R471). -/
def execJobCmd (s : State) : Ans := .next (s.ringRun 8 0x10 (fun c => s.ringJobCmd c))

/-- `PAGE_OP`: it waits while another operation runs, and completes when its own does (R332). -/
def State.ringPageOp (s : State) (c : RingCmd) : State :=
  let op := bits c.a2 0 4
  let j := bits c.a0 32 3
  let vpn := bits c.a0 0 31
  let code := s.pageOpCode op j vpn c.a1 true
  if s.pageOp.isSome then s
  else if code ≠ 0 then s.ringReject 8 c.idx code (if op = 5 ∨ op = 6 then none else some j)
  else
    let r := s.ringOfNum 8
    let s := s.setRingNum 8 { r with cmds := r.cmds.map (fun d => if d.idx = c.idx then { d with started := true } else d) }
    s.startPageOp op j vpn c.a1 (some c.idx)

/-- `PAGE_OP` (R331, R332, R471). -/
def execPageOp (s : State) : Ans := .next (s.ringRun 8 0x11 (fun c => s.ringPageOp c))

/-! ## Completion (R473, R475) -/

/-- The 16 bytes of a completion entry: the phase bit is 1 on the first pass through the ring. -/
def cplBytes (c : RingCmd) (phase : Bool) : List Byte :=
  leBytes 4 c.cid ++ leBytes 1 c.code ++ leBytes 1 (ofBool phase) ++ leBytes 2 c.idx ++ leBytes 8 c.result

/-- Write the completion entry of a command that is done, in completion order, and send the ring's vector if the command asked
for it. -/
def State.completeCmd (s : State) (q idx : Nat) : State :=
  let r := s.ringOfNum q
  match r.cmds.find? (fun c => c.idx = idx && c.done && r.order.head? = some idx) with
  | none => s
  | some c =>
    let n := s.ringSize q
    let s := s.setHostBytes (s.get (Reg.CPL_BASE.ADDR q) * 16 + 16 * (r.cplTail % n)) (cplBytes c (r.cplTail / n % 2 = 0))
    let s := s.setRingNum q { cmds := r.cmds.erase c, order := r.order.tail, cplTail := (r.cplTail + 1) % 2 ^ 16 }
    if bit c.flg 1 then s.sendVector (ringVector q) else s

/-- `COMMAND_COMPLETE`. -/
def execCommandComplete (q idx : Nat) (s : State) : Ans :=
  inUnits (q < 9) (.next (if s.hostReach && !s.pairsFailed then s.completeCmd q idx else s))

end Sys2Proof.Machine
end

