-- ==== Sys2Proof/Machine/Dispatch.lean ====
section
/-! DEFINITION. `exec`: the meaning of each command. -/

namespace Sys2Proof.Machine

def exec (i : Instr) (s : State) : Host.Outcome State Fault Refusal :=
  match i with
  | .loop g c w => Sys2Proof.Machine.execLoop g c w s
  | .br g c w => Sys2Proof.Machine.execBr g c w s
  | .fset g c w => Sys2Proof.Machine.execFset g c w s
  | .fwait g c w => Sys2Proof.Machine.execFwait g c w s
  | .qwait g c w => Sys2Proof.Machine.execQwait g c w s
  | .beatWait g c w => Sys2Proof.Machine.execBeatWait g c w s
  | .beatMark g c w => Sys2Proof.Machine.execBeatMark g c w s
  | .curtain g c w => Sys2Proof.Machine.execCurtain g c w s
  | .tstamp g c w => Sys2Proof.Machine.execTstamp g c w s
  | .sched g c w => Sys2Proof.Machine.execSched g c w s
  | .halt g c w => Sys2Proof.Machine.execHalt g c w s
  | .dmv g c w => Sys2Proof.Machine.execDmv g c w s
  | .dtr g c w => Sys2Proof.Machine.execDtr g c w s
  | .dgat g c w => Sys2Proof.Machine.execDgat g c w s
  | .dsct g c w => Sys2Proof.Machine.execDsct g c w s
  | .dfill g c w => Sys2Proof.Machine.execDfill g c w s
  | .mwl g c w => Sys2Proof.Machine.execMwl g c w s
  | .mma g c w => Sys2Proof.Machine.execMma g c w s
  | .mmx g c w => Sys2Proof.Machine.execMmx g c w s
  | .accp g c w => Sys2Proof.Machine.execAccp g c w s
  | .accz g c w => Sys2Proof.Machine.execAccz g c w s
  | .accd g c w => Sys2Proof.Machine.execAccd g c w s
  | .asplit g c w => Sys2Proof.Machine.execAsplit g c w s
  | .sxAdd g c w => Sys2Proof.Machine.execSxAdd g c w s
  | .sxSub g c w => Sys2Proof.Machine.execSxSub g c w s
  | .sxMul g c w => Sys2Proof.Machine.execSxMul g c w s
  | .sxFma g c w => Sys2Proof.Machine.execSxFma g c w s
  | .sxMin g c w => Sys2Proof.Machine.execSxMin g c w s
  | .sxMax g c w => Sys2Proof.Machine.execSxMax g c w s
  | .sxCmp g c w => Sys2Proof.Machine.execSxCmp g c w s
  | .sxSel g c w => Sys2Proof.Machine.execSxSel g c w s
  | .sxAbs g c w => Sys2Proof.Machine.execSxAbs g c w s
  | .sxCvt g c w => Sys2Proof.Machine.execSxCvt g c w s
  | .sxClamp g c w => Sys2Proof.Machine.execSxClamp g c w s
  | .sxSfn g c w => Sys2Proof.Machine.execSxSfn g c w s
  | .lvVl g c w => Sys2Proof.Machine.execLvVl g c w s
  | .lvLd g c w => Sys2Proof.Machine.execLvLd g c w s
  | .lvSt g c w => Sys2Proof.Machine.execLvSt g c w s
  | .lvAdd g c w => Sys2Proof.Machine.execLvAdd g c w s
  | .lvMul g c w => Sys2Proof.Machine.execLvMul g c w s
  | .lvFma g c w => Sys2Proof.Machine.execLvFma g c w s
  | .lvMax g c w => Sys2Proof.Machine.execLvMax g c w s
  | .lvMin g c w => Sys2Proof.Machine.execLvMin g c w s
  | .lvRed g c w => Sys2Proof.Machine.execLvRed g c w s
  | .lperm g c w => Sys2Proof.Machine.execLperm g c w s
  | .lscan g c w => Sys2Proof.Machine.execLscan g c w s
  | .lstat g c w => Sys2Proof.Machine.execLstat g c w s
  | .lsoftmax g c w => Sys2Proof.Machine.execLsoftmax g c w s
  | .sfn g c w => Sys2Proof.Machine.execSfn g c w s
  | .tload g c w => Sys2Proof.Machine.execTload g c w s
  | .tswap g c w => Sys2Proof.Machine.execTswap g c w s
  | .upd g c w => Sys2Proof.Machine.execUpd g c w s
  | .engineWaitSatisfied g c e => Sys2Proof.Machine.execEngineWaitSatisfied g c e s
  | .engineWaitTimeout g c e => Sys2Proof.Machine.execEngineWaitTimeout g c e s
  | .fwaitTimeout g c => Sys2Proof.Machine.execFwaitTimeout g c s
  | .engineOpRetire g c e cx => Sys2Proof.Machine.execEngineOpRetire g c e cx s
  | .flagSignalVisible j f => Sys2Proof.Machine.execFlagSignalVisible j f s
  | .waitCycle j => Sys2Proof.Machine.execWaitCycle j s
  | .jobStopIdle j => Sys2Proof.Machine.execJobStopIdle j s
  | .contextDrainDone g c => Sys2Proof.Machine.execContextDrainDone g c s
  | .jobCtxMaskBind j mask => Sys2Proof.Machine.execJobCtxMaskBind j mask s
  | .jobCtxMaskUnbind j => Sys2Proof.Machine.execJobCtxMaskUnbind j s
  | .start j => Sys2Proof.Machine.execStart j s
  | .haltCommand j => Sys2Proof.Machine.execHaltCommand j s
  | .release j => Sys2Proof.Machine.execRelease j s
  | .jobFlagAdd j idx add => Sys2Proof.Machine.execJobFlagAdd j idx add s
  | .registerWrite off val => Sys2Proof.Machine.execRegisterWrite off val s
  | .w1cClear off mask hw => Sys2Proof.Machine.execW1cClear off mask hw s
  | .rcRead off ev => Sys2Proof.Machine.execRcRead off ev s
  | .stSetSec val => Sys2Proof.Machine.execStSetSec val s
  | .secondsStepApply notice => Sys2Proof.Machine.execSecondsStepApply notice s
  | .stSnapArm => Sys2Proof.Machine.execStSnapArm s
  | .snapshotLatch island => Sys2Proof.Machine.execSnapshotLatch island s
  | .snapshotDone => Sys2Proof.Machine.execSnapshotDone s
  | .showtimeRootTick => Sys2Proof.Machine.execShowtimeRootTick s
  | .syncWord island corr => Sys2Proof.Machine.execSyncWord island corr s
  | .replicaFault island missed => Sys2Proof.Machine.execReplicaFault island missed s
  | .timeExchange t1 t2 t3 t4 => Sys2Proof.Machine.execTimeExchange t1 t2 t3 t4 s
  | .timeExchangeMissed => Sys2Proof.Machine.execTimeExchangeMissed s
  | .lockAcquired => Sys2Proof.Machine.execLockAcquired s
  | .ppsInEdge stamp => Sys2Proof.Machine.execPpsInEdge stamp s
  | .ppsLost => Sys2Proof.Machine.execPpsLost s
  | .trefLost => Sys2Proof.Machine.execTrefLost s
  | .ppsOutHigh => Sys2Proof.Machine.execPpsOutHigh s
  | .ppsOutLow => Sys2Proof.Machine.execPpsOutLow s
  | .crossingTimeout island job op => Sys2Proof.Machine.execCrossingTimeout island job op s
  | .ucieModuleRetire link mdl => Sys2Proof.Machine.execUcieModuleRetire link mdl s
  | .dieLinkLost link jobs => Sys2Proof.Machine.execDieLinkLost link jobs s
  | .iterationRetire g c cx => Sys2Proof.Machine.execIterationRetire g c cx s
  | .accOverflowReplay g c cx => Sys2Proof.Machine.execAccOverflowReplay g c cx s
  | .weightLoadDone g c cx => Sys2Proof.Machine.execWeightLoadDone g c cx s
  | .latchRewrite g cx => Sys2Proof.Machine.execLatchRewrite g cx s
  | .sharedModeCopy g cx => Sys2Proof.Machine.execSharedModeCopy g cx s
  | .drumrollRise g h => Sys2Proof.Machine.execDrumrollRise g h s
  | .drumrollLevelStep g cx h => Sys2Proof.Machine.execDrumrollLevelStep g cx h s
  | .drumrollFall g cx h => Sys2Proof.Machine.execDrumrollFall g cx h s
  | .halfFence g h parity => Sys2Proof.Machine.execHalfFence g h parity s
  | .arrCfgNarrow g cx val => Sys2Proof.Machine.execArrCfgNarrow g cx val s
  | .streamChunkAdvance g c cx stall raw => Sys2Proof.Machine.execStreamChunkAdvance g c cx stall raw s
  | .paradeHop g c => Sys2Proof.Machine.execParadeHop g c s
  | .carryRecordPush g c => Sys2Proof.Machine.execCarryRecordPush g c s
  | .carryRecordPop g c => Sys2Proof.Machine.execCarryRecordPop g c s
  | .carryRingTimeout g c => Sys2Proof.Machine.execCarryRingTimeout g c s
  | .tloadImageArrive g c cx => Sys2Proof.Machine.execTloadImageArrive g c cx s
  | .bankGrant g cx reqs => Sys2Proof.Machine.execBankGrant g cx reqs s
  | .atomicOp g cx line kind els => Sys2Proof.Machine.execAtomicOp g cx line kind els s
  | .spEccCorrect g cx => Sys2Proof.Machine.execSpEccCorrect g cx s
  | .spEccUncorr g cx job op => Sys2Proof.Machine.execSpEccUncorr g cx job op s
  | .coreClear g cx => Sys2Proof.Machine.execCoreClear g cx s
  | .btRegionStart g cx => Sys2Proof.Machine.execBtRegionStart g cx s
  | .btRegionDone g cx bad => Sys2Proof.Machine.execBtRegionDone g cx bad s
  | .homTest g cx pass => Sys2Proof.Machine.execHomTest g cx pass s
  | .cqAdmit q => Sys2Proof.Machine.execCqAdmit q s
  | .cqTruncate q tag data => Sys2Proof.Machine.execCqTruncate q tag data s
  | .cqClose q tag data => Sys2Proof.Machine.execCqClose q tag data s
  | .cqPop q => Sys2Proof.Machine.execCqPop q s
  | .cqSpill q => Sys2Proof.Machine.execCqSpill q s
  | .cqHeadFill q => Sys2Proof.Machine.execCqHeadFill q s
  | .cqCfgWrite q word val => Sys2Proof.Machine.execCqCfgWrite q word val s
  | .dmaRequestComplete g c cx res => Sys2Proof.Machine.execDmaRequestComplete g c cx res s
  | .translation j ring va len write bad => Sys2Proof.Machine.execTranslation j ring va len write bad s
  | .map => Sys2Proof.Machine.execMap s
  | .unmap => Sys2Proof.Machine.execUnmap s
  | .migrate => Sys2Proof.Machine.execMigrate s
  | .migratePhaseDone => Sys2Proof.Machine.execMigratePhaseDone s
  | .setMirror => Sys2Proof.Machine.execSetMirror s
  | .retireFrame => Sys2Proof.Machine.execRetireFrame s
  | .retireStack => Sys2Proof.Machine.execRetireStack s
  | .ctrFlush => Sys2Proof.Machine.execCtrFlush s
  | .pageOpDone => Sys2Proof.Machine.execPageOpDone s
  | .zeroFill dfn => Sys2Proof.Machine.execZeroFill dfn s
  | .patrolScrub dfn => Sys2Proof.Machine.execPatrolScrub dfn s
  | .memCorrectedError dfn dev off => Sys2Proof.Machine.execMemCorrectedError dfn dev off s
  | .memUncorrectable dfn dev off job op => Sys2Proof.Machine.execMemUncorrectable dfn dev off job op s
  | .stackLost st => Sys2Proof.Machine.execStackLost st s
  | .ddrAlertRetry ch cmd dfn dev off job op => Sys2Proof.Machine.execDdrAlertRetry ch cmd dfn dev off job op s
  | .ddrChannelLost ch => Sys2Proof.Machine.execDdrChannelLost ch s
  | .hbmRefresh st => Sys2Proof.Machine.execHbmRefresh st s
  | .tokenPost j x => Sys2Proof.Machine.execTokenPost j x s
  | .schedInject j val => Sys2Proof.Machine.execSchedInject j val s
  | .tokenComplete g c => Sys2Proof.Machine.execTokenComplete g c s
  | .stepSeqWrite j val => Sys2Proof.Machine.execStepSeqWrite j val s
  | .scaleWrite j t val => Sys2Proof.Machine.execScaleWrite j t val s
  | .updStepStale g c => Sys2Proof.Machine.execUpdStepStale g c s
  | .updNfGatePass g c => Sys2Proof.Machine.execUpdNfGatePass g c s
  | .beatArrival g c => Sys2Proof.Machine.execBeatArrival g c s
  | .beatRelease j => Sys2Proof.Machine.execBeatRelease j s
  | .beatDeadline g c => Sys2Proof.Machine.execBeatDeadline g c s
  | .beatOverrun j => Sys2Proof.Machine.execBeatOverrun j s
  | .snReq j tm => Sys2Proof.Machine.execSnReq j tm s
  | .curtainMaxInterval j => Sys2Proof.Machine.execCurtainMaxInterval j s
  | .curtainArm j => Sys2Proof.Machine.execCurtainArm j s
  | .curtainTReached j => Sys2Proof.Machine.execCurtainTReached j s
  | .curtainReady j => Sys2Proof.Machine.execCurtainReady j s
  | .curtainCommit j tc => Sys2Proof.Machine.execCurtainCommit j tc s
  | .curtainAbandon j => Sys2Proof.Machine.execCurtainAbandon j s
  | .mirrorEngineStep j => Sys2Proof.Machine.execMirrorEngineStep j s
  | .curtainSecured j => Sys2Proof.Machine.execCurtainSecured j s
  | .protectedWrite j va => Sys2Proof.Machine.execProtectedWrite j va s
  | .epochWalk j => Sys2Proof.Machine.execEpochWalk j s
  | .buddyAck j => Sys2Proof.Machine.execBuddyAck j s
  | .faultRestore j code island => Sys2Proof.Machine.execFaultRestore j code island s
  | .restoreComplete j => Sys2Proof.Machine.execRestoreComplete j s
  | .resolvePage j => Sys2Proof.Machine.execResolvePage j s
  | .lockstep => Sys2Proof.Machine.execLockstep s
  | .netLost => Sys2Proof.Machine.execNetLost s
  | .reload readOk => Sys2Proof.Machine.execReload readOk s
  | .resume => Sys2Proof.Machine.execResume s
  | .portEnWrite p val => Sys2Proof.Machine.execPortEnWrite p val s
  | .portTrainingDone p lanes peer => Sys2Proof.Machine.execPortTrainingDone p lanes peer s
  | .portLost p jobs => Sys2Proof.Machine.execPortLost p jobs s
  | .flitReceive p flit => Sys2Proof.Machine.execFlitReceive p flit s
  | .nakReplay p seq => Sys2Proof.Machine.execNakReplay p seq s
  | .ackReceive p seq => Sys2Proof.Machine.execAckReceive p seq s
  | .ackSend p => Sys2Proof.Machine.execAckSend p s
  | .portRetrain p => Sys2Proof.Machine.execPortRetrain p s
  | .creditReturn p vl n => Sys2Proof.Machine.execCreditReturn p vl n s
  | .macFlitCheck p ok keyId => Sys2Proof.Machine.execMacFlitCheck p ok keyId s
  | .encCounterLimit p => Sys2Proof.Machine.execEncCounterLimit p s
  | .dataPacketReceive p h q tag data => Sys2Proof.Machine.execDataPacketReceive p h q tag data s
  | .deliveryAck p h acks sent => Sys2Proof.Machine.execDeliveryAck p h acks sent s
  | .heartbeat grp got => Sys2Proof.Machine.execHeartbeat grp got s
  | .deputyTakeover grp => Sys2Proof.Machine.execDeputyTakeover grp s
  | .takeoverReceive p h grp master => Sys2Proof.Machine.execTakeoverReceive p h grp master s
  | .snMessageReceive p h kind body => Sys2Proof.Machine.execSnMessageReceive p h kind body s
  | .drainMarkerReceive p h => Sys2Proof.Machine.execDrainMarkerReceive p h s
  | .registerAccessPacket p h write off val => Sys2Proof.Machine.execRegisterAccessPacket p h write off val s
  | .timeParentChange parent => Sys2Proof.Machine.execTimeParentChange parent s
  | .collectiveLaunch j d => Sys2Proof.Machine.execCollectiveLaunch j d s
  | .collectivePacket p h d inst nf ofs data => Sys2Proof.Machine.execCollectivePacket p h d inst nf ofs data s
  | .collectiveComplete j d => Sys2Proof.Machine.execCollectiveComplete j d s
  | .collectiveTimeout j d => Sys2Proof.Machine.execCollectiveTimeout j d s
  | .glDevIdWrite val => Sys2Proof.Machine.execGlDevIdWrite val s
  | .glTopoWrite val => Sys2Proof.Machine.execGlTopoWrite val s
  | .configRequest req => Sys2Proof.Machine.execConfigRequest req s
  | .windowRead off n => Sys2Proof.Machine.execWindowRead off n s
  | .windowWrite off data => Sys2Proof.Machine.execWindowWrite off data s
  | .hifWinWrite val => Sys2Proof.Machine.execHifWinWrite val s
  | .bar2Resize log2 => Sys2Proof.Machine.execBar2Resize log2 s
  | .doorbellTail q val => Sys2Proof.Machine.execDoorbellTail q val s
  | .doorbellCplHead q val => Sys2Proof.Machine.execDoorbellCplHead q val s
  | .doorbellFrHead q val => Sys2Proof.Machine.execDoorbellFrHead q val s
  | .ringEntryFetch q ok => Sys2Proof.Machine.execRingEntryFetch q ok s
  | .cmdNop q => Sys2Proof.Machine.execCmdNop q s
  | .regWrite q => Sys2Proof.Machine.execRegWrite q s
  | .regRead q => Sys2Proof.Machine.execRegRead q s
  | .copyToDev q hostOk => Sys2Proof.Machine.execCopyToDev q hostOk s
  | .copyFromDev q => Sys2Proof.Machine.execCopyFromDev q s
  | .flagAdd q => Sys2Proof.Machine.execFlagAdd q s
  | .jobCmd => Sys2Proof.Machine.execJobCmd s
  | .pageOp => Sys2Proof.Machine.execPageOp s
  | .commandComplete q idx => Sys2Proof.Machine.execCommandComplete q idx s
  | .ringCfgEnWrite q val => Sys2Proof.Machine.execRingCfgEnWrite q val s
  | .msixSend v => Sys2Proof.Machine.execMsixSend v s
  | .flr => Sys2Proof.Machine.execFlr s
  | .d3hotEntry => Sys2Proof.Machine.execD3hotEntry s
  | .doeObject mb obj => Sys2Proof.Machine.execDoeObject mb obj s
  | .ideCheckFail stream => Sys2Proof.Machine.execIdeCheckFail stream s
  | .capLoop pkg ring => Sys2Proof.Machine.execCapLoop pkg ring s
  | .throttleWindow g cx => Sys2Proof.Machine.execThrottleWindow g cx s
  | .vfChange r vf => Sys2Proof.Machine.execVfChange r vf s
  | .avsCompletion r mv => Sys2Proof.Machine.execAvsCompletion r mv s
  | .avsFailure r => Sys2Proof.Machine.execAvsFailure r s
  | .throttleInAssert => Sys2Proof.Machine.execThrottleInAssert s
  | .throttleInDeassert => Sys2Proof.Machine.execThrottleInDeassert s
  | .pinGlitch pin => Sys2Proof.Machine.execPinGlitch pin s
  | .sensorUpdate n temp => Sys2Proof.Machine.execSensorUpdate n temp s
  | .hbmHot st temp => Sys2Proof.Machine.execHbmHot st temp s
  | .thermtrip sensor => Sys2Proof.Machine.execThermtrip sensor s
  | .refClockSwitch => Sys2Proof.Machine.execRefClockSwitch s
  | .refClocksBad => Sys2Proof.Machine.execRefClocksBad s
  | .clockLockLoss island => Sys2Proof.Machine.execClockLockLoss island s
  | .supplyFault rail => Sys2Proof.Machine.execSupplyFault rail s
  | .powerOnReset => Sys2Proof.Machine.execPowerOnReset s
  | .perstAssert => Sys2Proof.Machine.execPerstAssert s
  | .perstDeassert straps => Sys2Proof.Machine.execPerstDeassert straps s
  | .devReset val straps => Sys2Proof.Machine.execDevReset val straps s
  | .bootStepComplete res => Sys2Proof.Machine.execBootStepComplete res s
  | .bootStepTimeout => Sys2Proof.Machine.execBootStepTimeout s
  | .hsCmd val => Sys2Proof.Machine.execHsCmd val s
  | .hsPhaseDone => Sys2Proof.Machine.execHsPhaseDone s
  | .hsArrivalAbandon => Sys2Proof.Machine.execHsArrivalAbandon s
  | .hsWindowExit => Sys2Proof.Machine.execHsWindowExit s
  | .hsResult sig => Sys2Proof.Machine.execHsResult sig s
  | .analogueCheckDone value => Sys2Proof.Machine.execAnalogueCheckDone value s
  | .getNonce => Sys2Proof.Machine.execGetNonce s
  | .getIdentity => Sys2Proof.Machine.execGetIdentity s
  | .verify => Sys2Proof.Machine.execVerify s
  | .svnCommit arg => Sys2Proof.Machine.execSvnCommit arg s
  | .revoke => Sys2Proof.Machine.execRevoke s
  | .debugOpen => Sys2Proof.Machine.execDebugOpen s
  | .getVersion tr => Sys2Proof.Machine.execGetVersion tr s
  | .getCapabilities tr => Sys2Proof.Machine.execGetCapabilities tr s
  | .negotiateAlgorithms tr supported => Sys2Proof.Machine.execNegotiateAlgorithms tr supported s
  | .getDigests tr => Sys2Proof.Machine.execGetDigests tr s
  | .getCertificate tr slot off len => Sys2Proof.Machine.execGetCertificate tr slot off len s
  | .challenge tr slot nonce => Sys2Proof.Machine.execChallenge tr slot nonce s
  | .getMeasurements tr idx signed nonce => Sys2Proof.Machine.execGetMeasurements tr idx signed nonce s
  | .keyExchange tr => Sys2Proof.Machine.execKeyExchange tr s
  | .finish ses ok => Sys2Proof.Machine.execFinish ses ok s
  | .heartbeatSpdm ses => Sys2Proof.Machine.execHeartbeatSpdm ses s
  | .keyUpdate ses => Sys2Proof.Machine.execKeyUpdate ses s
  | .endSession ses => Sys2Proof.Machine.execEndSession ses s
  | .keyProg ses stream keySet key => Sys2Proof.Machine.execKeyProg ses stream keySet key s
  | .kSetGo ses stream keySet => Sys2Proof.Machine.execKSetGo ses stream keySet s
  | .kSetStop ses stream keySet => Sys2Proof.Machine.execKSetStop ses stream keySet s
  | .glKeyProg ses port dir slot keyId key => Sys2Proof.Machine.execGlKeyProg ses port dir slot keyId key s
  | .glKeyGo ses port => Sys2Proof.Machine.execGlKeyGo ses port s
  | .setEndpointId eid => Sys2Proof.Machine.execSetEndpointId eid s
  | .i3cAddressAssign addr => Sys2Proof.Machine.execI3cAddressAssign addr s
  | .rstdaa => Sys2Proof.Machine.execRstdaa s
  | .getTid => Sys2Proof.Machine.execGetTid s
  | .setTid tid => Sys2Proof.Machine.execSetTid tid s
  | .getPldmVersion ty => Sys2Proof.Machine.execGetPldmVersion ty s
  | .getPldmTypes => Sys2Proof.Machine.execGetPldmTypes s
  | .getPldmCommands ty => Sys2Proof.Machine.execGetPldmCommands ty s
  | .getPdrRepositoryInfo => Sys2Proof.Machine.execGetPdrRepositoryInfo s
  | .getPdr rec => Sys2Proof.Machine.execGetPdr rec s
  | .getSensorReading sensor => Sys2Proof.Machine.execGetSensorReading sensor s
  | .getStateSensorReadings sensor => Sys2Proof.Machine.execGetStateSensorReadings sensor s
  | .setEventReceiver addr => Sys2Proof.Machine.execSetEventReceiver addr s
  | .pollForPlatformEvent => Sys2Proof.Machine.execPollForPlatformEvent s
  | .platformEventMessage => Sys2Proof.Machine.execPlatformEventMessage s
  | .queryDeviceIdentifiers => Sys2Proof.Machine.execQueryDeviceIdentifiers s
  | .getFirmwareParameters => Sys2Proof.Machine.execGetFirmwareParameters s
  | .requestUpdate => Sys2Proof.Machine.execRequestUpdate s
  | .passComponentTable comps => Sys2Proof.Machine.execPassComponentTable comps s
  | .updateComponent comp => Sys2Proof.Machine.execUpdateComponent comp s
  | .requestFirmwareData off data => Sys2Proof.Machine.execRequestFirmwareData off data s
  | .transferComplete => Sys2Proof.Machine.execTransferComplete s
  | .verifyComplete => Sys2Proof.Machine.execVerifyComplete s
  | .applyComplete => Sys2Proof.Machine.execApplyComplete s
  | .activateFirmware => Sys2Proof.Machine.execActivateFirmware s
  | .getStatus => Sys2Proof.Machine.execGetStatus s
  | .cancelUpdateComponent => Sys2Proof.Machine.execCancelUpdateComponent s
  | .cancelUpdate => Sys2Proof.Machine.execCancelUpdate s
  | .trcPop q n => Sys2Proof.Machine.execTrcPop q n s
  | .pcieLinkL0 rate width => Sys2Proof.Machine.execPcieLinkL0 rate width s
  | .ddr5Refresh ch => Sys2Proof.Machine.execDdr5Refresh ch s
  | .tref10mRegained cycles => Sys2Proof.Machine.execTref10mRegained cycles s
  | .referenceMeasurement badPcie badBref badGl => Sys2Proof.Machine.execReferenceMeasurement badPcie badBref badGl s
  | .jtagInstruction ins => Sys2Proof.Machine.execJtagInstruction ins s

end Sys2Proof.Machine
end

