-- ==== Sys2Proof/WellFormed.lean ====
section
/-! DEFINITION. Which commands are well formed: the units, registers and lengths they name exist. A command that is not
stops with `noSuchUnit` (log 18). -/

namespace Sys2Proof

open Sys2Proof.Machine

/-- The operands of a command lie in the ranges that the spec gives the units they name. -/
def Instr.wf (i : Instr) : Bool :=
  match i with
  | .loop g c _ => g < 24 && c < 2
  | .br g c _ => g < 24 && c < 2
  | .fset g c _ => g < 24 && c < 2
  | .fwait g c _ => g < 24 && c < 2
  | .qwait g c _ => g < 24 && c < 2
  | .beatWait g c _ => g < 24 && c < 2
  | .beatMark g c _ => g < 24 && c < 2
  | .curtain g c _ => g < 24 && c < 2
  | .tstamp g c _ => g < 24 && c < 2
  | .sched g c _ => g < 24 && c < 2
  | .halt g c _ => g < 24 && c < 2
  | .dmv g c _ => g < 24 && c < 2
  | .dtr g c _ => g < 24 && c < 2
  | .dgat g c _ => g < 24 && c < 2
  | .dsct g c _ => g < 24 && c < 2
  | .dfill g c _ => g < 24 && c < 2
  | .mwl g c _ => g < 24 && c < 2
  | .mma g c _ => g < 24 && c < 2
  | .mmx g c _ => g < 24 && c < 2
  | .accp g c _ => g < 24 && c < 2
  | .accz g c _ => g < 24 && c < 2
  | .accd g c _ => g < 24 && c < 2
  | .asplit g c _ => g < 24 && c < 2
  | .sxAdd g c _ => g < 24 && c < 2
  | .sxSub g c _ => g < 24 && c < 2
  | .sxMul g c _ => g < 24 && c < 2
  | .sxFma g c _ => g < 24 && c < 2
  | .sxMin g c _ => g < 24 && c < 2
  | .sxMax g c _ => g < 24 && c < 2
  | .sxCmp g c _ => g < 24 && c < 2
  | .sxSel g c _ => g < 24 && c < 2
  | .sxAbs g c _ => g < 24 && c < 2
  | .sxCvt g c _ => g < 24 && c < 2
  | .sxClamp g c _ => g < 24 && c < 2
  | .sxSfn g c _ => g < 24 && c < 2
  | .lvVl g c _ => g < 24 && c < 2
  | .lvLd g c _ => g < 24 && c < 2
  | .lvSt g c _ => g < 24 && c < 2
  | .lvAdd g c _ => g < 24 && c < 2
  | .lvMul g c _ => g < 24 && c < 2
  | .lvFma g c _ => g < 24 && c < 2
  | .lvMax g c _ => g < 24 && c < 2
  | .lvMin g c _ => g < 24 && c < 2
  | .lvRed g c _ => g < 24 && c < 2
  | .lperm g c _ => g < 24 && c < 2
  | .lscan g c _ => g < 24 && c < 2
  | .lstat g c _ => g < 24 && c < 2
  | .lsoftmax g c _ => g < 24 && c < 2
  | .sfn g c _ => g < 24 && c < 2
  | .tload g c _ => g < 24 && c < 2
  | .tswap g c _ => g < 24 && c < 2
  | .upd g c _ => g < 24 && c < 2
  | .engineWaitSatisfied g c e => g < 24 && c < 2 && e < 4
  | .engineWaitTimeout g c e => g < 24 && c < 2 && e < 4
  | .fwaitTimeout g c => g < 24 && c < 2
  | .engineOpRetire g c e cx => g < 24 && c < 2 && e < 4 && cx < 16
  | .flagSignalVisible j f => j < 8 && f < 256
  | .waitCycle j => j < 8
  | .jobStopIdle j => j < 8
  | .contextDrainDone g c => g < 24 && c < 2
  | .jobCtxMaskBind j _ => j < 8
  | .jobCtxMaskUnbind j => j < 8
  | .start j => j < 8
  | .haltCommand j => j < 8
  | .release j => j < 8
  | .jobFlagAdd j _ _ => j < 8
  | .registerWrite _ _ => true
  | .w1cClear _ _ _ => true
  | .rcRead _ _ => true
  | .stSetSec _ => true
  | .secondsStepApply _ => true
  | .stSnapArm => true
  | .snapshotLatch island => island < islandCount
  | .snapshotDone => true
  | .showtimeRootTick => true
  | .syncWord island _ => island < islandCount
  | .replicaFault island _ => island < islandCount
  | .timeExchange _ _ _ _ => true
  | .timeExchangeMissed => true
  | .lockAcquired => true
  | .ppsInEdge _ => true
  | .ppsLost => true
  | .trefLost => true
  | .ppsOutHigh => true
  | .ppsOutLow => true
  | .crossingTimeout island job op => island < islandCount && job.all (· < 8) && opRefOk op
  | .ucieModuleRetire link mdl => link < 14 && mdl < linkModules link
  | .dieLinkLost link _ => link < 14
  | .iterationRetire g c cx => g < 24 && c < 2 && cx < 16
  | .accOverflowReplay g c cx => g < 24 && c < 2 && cx < 16
  | .weightLoadDone g c cx => g < 24 && c < 2 && cx < 16
  | .latchRewrite g cx => g < 24 && cx < 16
  | .sharedModeCopy g cx => g < 24 && cx < 16
  | .drumrollRise g h => g < 24 && h < 2
  | .drumrollLevelStep g cx h => g < 24 && cx < 16 && h < 2
  | .drumrollFall g cx h => g < 24 && cx < 16 && h < 2
  | .halfFence g h _ => g < 24 && h < 2
  | .arrCfgNarrow g cx _ => g < 24 && cx < 16
  | .streamChunkAdvance g c cx _ _ => g < 24 && c < 2 && cx < 16
  | .paradeHop g c => g < 24 && c < 2
  | .carryRecordPush g c => g < 24 && c < 2
  | .carryRecordPop g c => g < 24 && c < 2
  | .carryRingTimeout g c => g < 24 && c < 2
  | .tloadImageArrive g c cx => g < 24 && c < 2 && cx < 16
  | .bankGrant g cx _ => g < 24 && cx < 16
  | .atomicOp g cx line kind els => g < 24 && cx < 16 && line < 16384 && kind < 4 &&
      els.all (fun e => e.1 < 256 / atomicWidth kind)
  | .spEccCorrect g cx => g < 24 && cx < 16
  | .spEccUncorr g cx job op => g < 24 && cx < 16 && job.all (· < 8) && opRefOk op
  | .coreClear g cx => g < 24 && cx < 16
  | .btRegionStart g cx => g < 24 && cx < 16
  | .btRegionDone g cx _ => g < 24 && cx < 16
  | .homTest g cx _ => g < 24 && cx < 16
  | .cqAdmit q => q < cqCount
  | .cqTruncate q _ _ => q < cqCount
  | .cqClose q _ _ => q < cqCount
  | .cqPop q => q < cqCount
  | .cqSpill q => q < cqCount
  | .cqHeadFill q => q < cqCount
  | .cqCfgWrite q word _ => q < cqCount && word < 2
  | .dmaRequestComplete g c cx _ => g < 24 && c < 2 && cx < 16
  | .translation j ring va len _ _ => j < 8 && ring < 4 && va < 2 ^ 52 && 1 ≤ len && bits va 0 21 + len ≤ 2 ^ 21
  | .map => true
  | .unmap => true
  | .migrate => true
  | .migratePhaseDone => true
  | .setMirror => true
  | .retireFrame => true
  | .retireStack => true
  | .ctrFlush => true
  | .pageOpDone => true
  | .zeroFill _ => true
  | .patrolScrub _ => true
  | .memCorrectedError _ _ off => off < 2 ^ 21
  | .memUncorrectable _ _ off job op => off < 2 ^ 21 && job.all (· < 8) && opRefOk op
  | .stackLost st => st < 24
  | .ddrAlertRetry ch _ dfn _ off job op => ch < 8 && isDdr dfn && ddrChannel dfn = ch && off < 2 ^ 21 &&
      job.all (· < 8) && opRefOk op
  | .ddrChannelLost ch => ch < 8
  | .hbmRefresh st => st < 24
  | .tokenPost j x => j < 8 && x < 16
  | .schedInject j _ => j < 8
  | .tokenComplete g c => g < 24 && c < 2
  | .stepSeqWrite j _ => j < 8
  | .scaleWrite j t _ => j < 8 && t < 256
  | .updStepStale g c => g < 24 && c < 2
  | .updNfGatePass g c => g < 24 && c < 2
  | .beatArrival g c => g < 24 && c < 2
  | .beatRelease j => j < 8
  | .beatDeadline g c => g < 24 && c < 2
  | .beatOverrun j => j < 8
  | .snReq j _ => j < 8
  | .curtainMaxInterval j => j < 8
  | .curtainArm j => j < 8
  | .curtainTReached j => j < 8
  | .curtainReady j => j < 8
  | .curtainCommit j _ => j < 8
  | .curtainAbandon j => j < 8
  | .mirrorEngineStep j => j < 8
  | .curtainSecured j => j < 8
  | .protectedWrite j va => j < 8 && va < 2 ^ 52
  | .epochWalk j => j < 8
  | .buddyAck j => j < 8
  | .faultRestore j code island => j < 8 && 0x10 ≤ code && code ≤ 0x16 && island < islandCount
  | .restoreComplete j => j < 8
  | .resolvePage j => j < 8
  | .lockstep => true
  | .netLost => true
  | .reload _ => true
  | .resume => true
  | .portEnWrite p _ => p < 16
  | .portTrainingDone p _ _ => p < 16
  | .portLost p _ => p < 16
  | .flitReceive p flit => p < 16 && flit.length = 256
  | .nakReplay p seq => p < 16 && seq < 4096
  | .ackReceive p seq => p < 16 && seq < 4096
  | .ackSend p => p < 16
  | .portRetrain p => p < 16
  | .creditReturn p vl n => p < 16 && vl < 8 && n < 128
  | .macFlitCheck p _ _ => p < 16
  | .encCounterLimit p => p < 16
  | .dataPacketReceive p h q tag data => p < 16 && headOk h && q < 16 && tag < 2 ^ 32 && data.length ≤ 65536
  | .deliveryAck p h _ _ => p < 16 && headOk h
  | .heartbeat grp _ => grp ≤ 16
  | .deputyTakeover grp => grp ≤ 16
  | .takeoverReceive p h grp _ => p < 16 && headOk h && grp ≤ 16
  | .snMessageReceive p h kind body => p < 16 && headOk h && 1 ≤ kind && kind ≤ 6 && body < 2 ^ 88
  | .drainMarkerReceive p h => p < 16 && headOk h
  | .registerAccessPacket p h _ off val => p < 16 && headOk h && off < 2 ^ 32 && val < 2 ^ 64
  | .timeParentChange _ => true
  | .collectiveLaunch j d => j < 8 && d < 64
  | .collectivePacket p h d _ _ _ data => p < 16 && headOk h && d < 64 && data.length ≤ 65536
  | .collectiveComplete j d => j < 8 && d < 64
  | .collectiveTimeout j d => j < 8 && d < 64
  | .glDevIdWrite _ => true
  | .glTopoWrite _ => true
  | .configRequest _ => true
  | .windowRead _ _ => true
  | .windowWrite _ _ => true
  | .hifWinWrite _ => true
  | .bar2Resize log2 => 34 ≤ log2 && log2 ≤ 42
  | .doorbellTail q _ => q < 16
  | .doorbellCplHead q _ => q < 16
  | .doorbellFrHead q _ => q < 16
  | .ringEntryFetch q _ => q < 9
  | .cmdNop q => q < 9
  | .regWrite q => q < 9
  | .regRead q => q < 9
  | .copyToDev q _ => q < 8
  | .copyFromDev q => q < 8
  | .flagAdd q => q < 8
  | .jobCmd => true
  | .pageOp => true
  | .commandComplete q _ => q < 9
  | .ringCfgEnWrite q _ => q < 9
  | .msixSend v => v < 64
  | .flr => true
  | .d3hotEntry => true
  | .doeObject mb _ => mb < 2
  | .ideCheckFail stream => stream < 4
  | .capLoop _ ring => ring.length = 4
  | .throttleWindow g cx => g < 24 && cx < 16
  | .vfChange r vf => r < 4 && vf < 4
  | .avsCompletion r mv => r < 4 && 550 ≤ mv && mv ≤ 850
  | .avsFailure r => r < 4
  | .throttleInAssert => true
  | .throttleInDeassert => true
  | .pinGlitch pin => pin < 4
  | .sensorUpdate n temp => n < 64 && -32768 ≤ temp && temp ≤ 32767
  | .hbmHot st temp => st < 24 && temp < 256
  | .thermtrip sensor => sensor.all (· < 64)
  | .refClockSwitch => true
  | .refClocksBad => true
  | .clockLockLoss island => island < 543
  | .supplyFault rail => rail < 9
  | .powerOnReset => true
  | .perstAssert => true
  | .perstDeassert _ => true
  | .devReset _ _ => true
  | .bootStepComplete _ => true
  | .bootStepTimeout => true
  | .hsCmd _ => true
  | .hsPhaseDone => true
  | .hsArrivalAbandon => true
  | .hsWindowExit => true
  | .hsResult _ => true
  | .analogueCheckDone _ => true
  | .getNonce => true
  | .getIdentity => true
  | .verify => true
  | .svnCommit _ => true
  | .revoke => true
  | .debugOpen => true
  | .getVersion tr => tr < 3
  | .getCapabilities tr => tr < 3
  | .negotiateAlgorithms tr _ => tr < 3
  | .getDigests tr => tr < 3
  | .getCertificate tr _ _ _ => tr < 3
  | .challenge tr _ _ => tr < 3
  | .getMeasurements tr _ _ _ => tr < 3
  | .keyExchange tr => tr < 3
  | .finish ses _ => ses < 4
  | .heartbeatSpdm ses => ses < 4
  | .keyUpdate ses => ses < 4
  | .endSession ses => ses < 4
  | .keyProg ses stream keySet key => ses < 4 && stream < 4 && keySet < 2 && key.length = 32
  | .kSetGo ses stream keySet => ses < 4 && stream < 4 && keySet < 2
  | .kSetStop ses stream keySet => ses < 4 && stream < 4 && keySet < 2
  | .glKeyProg ses port dir slot keyId key => ses < 4 && port < 16 && dir < 2 && slot < 2 && keyId < 2 ^ 32 &&
      key.length = 32
  | .glKeyGo ses port => ses < 4 && port < 16
  | .setEndpointId eid => eid < 256
  | .i3cAddressAssign addr => addr < 128
  | .rstdaa => true
  | .getTid => true
  | .setTid tid => tid < 256
  | .getPldmVersion _ => true
  | .getPldmTypes => true
  | .getPldmCommands _ => true
  | .getPdrRepositoryInfo => true
  | .getPdr _ => true
  | .getSensorReading _ => true
  | .getStateSensorReadings _ => true
  | .setEventReceiver addr => addr < 256
  | .pollForPlatformEvent => true
  | .platformEventMessage => true
  | .queryDeviceIdentifiers => true
  | .getFirmwareParameters => true
  | .requestUpdate => true
  | .passComponentTable _ => true
  | .updateComponent _ => true
  | .requestFirmwareData _ data => data.length ≤ 4096
  | .transferComplete => true
  | .verifyComplete => true
  | .applyComplete => true
  | .activateFirmware => true
  | .getStatus => true
  | .cancelUpdateComponent => true
  | .cancelUpdate => true
  | .trcPop q _ => q < 9
  | .pcieLinkL0 rate width => linkRates.contains rate && linkWidths.contains width
  | .ddr5Refresh ch => ch < 8
  | .tref10mRegained _ => true
  | .referenceMeasurement _ _ _ => true
  | .jtagInstruction _ => true

/-- What a command names exists in this state: a frame of the memory that is fitted, an offset of the present window, a
line of the region under test. -/
def Instr.fits (s : State) (i : Instr) : Bool :=
  match i with
  | .btRegionDone g cx bad => bad.all (fun l => l / 16 = s.get (Reg.SP_STATUS.BT_REGION g cx))
  | .zeroFill dfn => s.frameExists dfn
  | .patrolScrub dfn => s.frameExists dfn
  | .memCorrectedError dfn _ _ => s.frameExists dfn
  | .memUncorrectable dfn _ _ _ _ => s.frameExists dfn
  | .ddrAlertRetry _ _ dfn _ _ _ _ => s.frameExists dfn
  | .windowRead off n => s.inWindow off n
  | .windowWrite off data => s.inWindow off data.length
  | _ => true

end Sys2Proof
end

