-- ==== Sys2Proof/Safety.lean ====
section
/-! DEFINITION. What counts as a safe state: the memories and the register table in canonical form, so that states that
hold the same are the same data. And the conditions under which commands take effect at all. -/

namespace Sys2Proof.Machine

/-- A byte memory in canonical form: addresses strictly rise, and no entry equals what an unlisted address reads as. -/
abbrev Memory.wf (dflt : Byte) (m : Tab Byte) : Bool := Tab.wf dflt m

/-- Device memory and host memory list no zero byte, the flash no erased byte, the frame owners no `DIRTY` frame, and
the keys of all of them and of the register table strictly rise. -/
def State.Canonical (s : State) : Prop :=
  Memory.wf 0 s.mem = true ∧ Memory.wf 0 s.host = true ∧ Memory.wf 0xFF s.flash = true ∧
    Tab.wf 0xE s.owner = true ∧ Tab.rising s.regs = true

/-- A context exists, may issue (R57, R81, R498), and its fetch at `CTX_PC` translates (R49). -/
abbrev State.Issuable (s : State) (g c : Nat) : Prop :=
  g < 24 ∧ c < 2 ∧ s.mayIssue g c = true ∧ (s.readAddr (s.jobOf g c) (s.pc g c)).isSome = true

/-- Issue of command i enqueues an operation at the tail of its engine's queue: `QDEPTH` counts it, `CTX_PC` goes to the
next instruction (a back-edge taken where the body of a loop ends), and no memory and no store of a core has changed
before the queue heads of the troupe are looked at again (R50, R62, R63, R97). -/
def Enqueues (i : Instr) (s : State) (g c : Nat) (w : Body) (sh : Shape) : Prop :=
  ∃ (q : QEntry) (u : State), exec i s = .next (u.pump g) ∧
    (q.opc = sh.opc ∧ q.word = w ∧ q.pc = s.pc g c ∧ q.begun = 0) ∧
    u.queue g c (engineOf sh.opc) = s.queue g c (engineOf sh.opc) ++ [q] ∧
    u.get (qdepthFld g c (engineOf sh.opc)) = s.get (qdepthFld g c (engineOf sh.opc)) + 1 ∧
    u.pc g c = (loopBack 4 (s.pc g c + 16) (s.ctxOf g c).loops).1 / 16 % 2 ^ 48 * 16 ∧
    (u.mem = s.mem ∧ u.host = s.host ∧ u.cores = s.cores ∧ u.pending = s.pending)

/-- The instructions of a context, each with the body w. -/
def contextInstrs (g c : Nat) (w : Body) : List Instr :=
  [.loop g c w, .br g c w, .fset g c w, .fwait g c w, .qwait g c w, .beatWait g c w, .beatMark g c w, .curtain g c w,
   .tstamp g c w, .sched g c w, .halt g c w, .dmv g c w, .dtr g c w, .dgat g c w, .dsct g c w, .dfill g c w,
   .mwl g c w, .mma g c w, .mmx g c w, .accp g c w, .accz g c w, .accd g c w, .asplit g c w, .sxAdd g c w,
   .sxSub g c w, .sxMul g c w, .sxFma g c w, .sxMin g c w, .sxMax g c w, .sxCmp g c w, .sxSel g c w, .sxAbs g c w,
   .sxCvt g c w, .sxClamp g c w, .sxSfn g c w, .upd g c w, .lvVl g c w, .lvLd g c w, .lvSt g c w, .lvAdd g c w,
   .lvMul g c w, .lvFma g c w, .lvMax g c w, .lvMin g c w, .lvRed g c w, .lperm g c w, .lscan g c w, .lstat g c w,
   .lsoftmax g c w, .sfn g c w, .tload g c w, .tswap g c w]

/-- The instructions that enter an engine queue, each with its fields, its operands and its checks. -/
def State.engineInstrs (s : State) (g c : Nat) (w : Body) : List (Instr × Shape) :=
  [(.dmv g c w, (dmvShape g c)), (.dtr g c w, (dtrShape g c w)), (.dgat g c w, (indexShape 0x22 g c 0 w)),
   (.dsct g c w, (indexShape 0x23 g c 1 w)), (.dfill g c w, (dfillShape g c)), (.mwl g c w, (mwlShape g c)),
   (.mma g c w, (mmaShape 0x31 g c w)), (.mmx g c w, (mmaShape 0x32 g c w)), (.accp g c w, (accpShape g c)),
   (.accz g c w, acczShape), (.accd g c w, (accdShape g c w)), (.asplit g c w, (asplitShape g)),
   (.sxAdd g c w, (sxShape 0x40 g c w)), (.sxSub g c w, (sxShape 0x41 g c w)), (.sxMul g c w, (sxShape 0x42 g c w)),
   (.sxFma g c w, (sxShape 0x43 g c w)), (.sxMin g c w, (sxShape 0x44 g c w)), (.sxMax g c w, (sxShape 0x45 g c w)),
   (.sxCmp g c w, (sxShape 0x46 g c w)), (.sxSel g c w, (sxShape 0x47 g c w)), (.sxAbs g c w, (sxShape 0x48 g c w)),
   (.sxCvt g c w, (sxShape 0x49 g c w)), (.sxClamp g c w, (sxShape 0x4A g c w)), (.sxSfn g c w, (sxShape 0x4B g c w)),
   (.upd g c w, (updShape (s.progNat (s.jobOf g c) (wMod w % 8)) g c w)), (.lvVl g c w, (lvVlShape w)),
   (.lvLd g c w, (lvLdShape w)), (.lvSt g c w, (lvStShape w)), (.lvAdd g c w, (lvAddShape w)),
   (.lvMul g c w, (lvMulShape w)), (.lvFma g c w, (lvFmaShape w)), (.lvMax g c w, (lvMaxShape w)),
   (.lvMin g c w, (lvMinShape w)), (.lvRed g c w, (lvRedShape w)), (.lperm g c w, (lpermShape w)),
   (.lscan g c w, (lscanShape g c w)), (.lstat g c w, (lstatShape g c w)), (.lsoftmax g c w, (lsoftmaxShape g c w)),
   (.sfn g c w, (sfnShape g c w)), (.tload g c w, (tloadShape g c w)), (.tswap g c w, (tswapShape g c w))]

/-- Every replica that has not faulted is within ±2 st of the root, now and when the correction it is taking is complete
(R28). -/
def TimeS.Close (t : TimeS) : Prop :=
  ∀ k, k ∉ t.faulted → (-2 ≤ Tab.get 0 t.dev k ∧ Tab.get 0 t.dev k ≤ 2) ∧
    -2 ≤ Tab.get 0 t.dev k + (Tab.get (0, 0) t.slew k).1 ∧ Tab.get 0 t.dev k + (Tab.get (0, 0) t.slew k).1 ≤ 2

/-- Byte a of device memory lies in the backing area of a trace queue, where records may go (R285, R385). -/
def State.traceArea (s : State) (a : Nat) : Prop := ∃ q p, q < 9 ∧ s.cqNoBack q = false ∧ a = s.cqAddr q p

/-- From state s to state t, device memory is unchanged outside the backing areas of the trace queues: errors and events
write trace records, and a full queue sends its oldest bytes there (R285, R379). -/
def State.memKept (s t : State) : Prop := ∀ a, ¬ s.traceArea a → t.memByte a = s.memByte a

/-- The Recovery window takes a write: the device has not shut down (R495), and step 2 of a warm reset's start-up is over
(R522). -/
abbrev State.Reached (s : State) : Prop := s.boot.dark = false ∧ s.aon.down = false

/-- BAR0 takes a write: it reaches the device, and the control pairs have not failed (R425). -/
abbrev State.Open (s : State) : Prop := s.boot.dark = false ∧ s.aon.down = false ∧ s.pairsFailed = false

end Sys2Proof.Machine
end

