-- ==== Sys2Proof/Certificates/Slice0/Obligations.lean ====
section
/-! DEFINITION. The statements for the provers. -/

open Sys2Proof Sys2Proof.Machine

/-! ## The queue and the step -/

/-- With command c at the front of the queue, a step is `exec c` on the state with the queue's rest. On an empty queue
the block idles (the model's choice, log 1). -/
def Obligations.StepRunsTheFrontCommand : Prop :=
  (∀ (c : Instr) (rest : List Instr) (s : State), s.pending = c :: rest → step s = exec c { s with pending := rest }) ∧
  (∀ s : State, s.pending = [] → step s = .next s)

/-- Every well-formed command whose operands fit the state answers a next state; one that is ill formed stops with
`noSuchUnit` (the model's choice, log 18). -/
def Obligations.WellFormedCommandsComplete : Prop :=
  ∀ (c : Instr) (s : State),
    (c.wf = true → c.fits s = true → ∃ t, exec c s = .next t) ∧
      (c.wf = false → exec c s = .fault .noSuchUnit)

/-- Every step keeps the memories, the frame owners and the register table in canonical form, and takes exactly the
front command off the queue: no command adds to the queue or removes from it. -/
def Obligations.StepKeepsCanonicalForm : Prop := ∀ s t : State, s.Canonical → step s = .next t → t.Canonical ∧ t.pending = s.pending.tail

/-- The state after reset is canonical, with no command waiting. -/
def Obligations.ResetIsCanonical : Prop := State.reset.Canonical ∧ State.reset.pending = []

/-! ## Control instructions -/

/-- `loop` (R97) opens a level of `CNT` + 1 passes over the `LEN` instructions after it; `br` (R98) goes to its target
where its condition holds, leaving the bodies that the target is outside of, and to the next instruction otherwise. All
else is unchanged. -/
def Obligations.LoopAndBranchComplete : Prop :=
  (∀ (g c : Nat) (w : Body) (s : State), s.Issuable g c →
    onlyBits w.toNat [(92, 28)] = true → fbits w 92 12 ≠ 0 → (s.ctxOf g c).loops.length < 4 →
    (∀ l ∈ (s.ctxOf g c).loops.head?, s.pc g c + 16 + 16 * fbits w 92 12 ≤ l.stop) →
    exec (.loop g c w) s = .next ((s.setCtx g c { s.ctxOf g c with
      loops := ⟨s.pc g c + 16, s.pc g c + 16 + 16 * fbits w 92 12, fbits w 104 16 + 1, 0⟩ :: (s.ctxOf g c).loops }).setPc
      g c (s.pc g c + 16))) ∧
  (∀ (g c : Nat) (w : Body) (s : State), s.Issuable g c →
    onlyBits w.toNat [(93, 27), (0, 32)] = true → fbits w 109 9 < 320 →
    (fbits w 118 2 = 0 → fbits w 109 9 = 0 ∧ fbits w 93 16 = 0) →
    (brTaken (fbits w 118 2) (s.flagGet g c (fbits w 109 9)) (fbits w 93 16) = true →
      exec (.br g c w) s = .next ((s.setCtx g c { s.ctxOf g c with
        loops := leaveLoops (unsigned 52 ((s.pc g c : Int) + 16 * signed 32 (fbits w 0 32))) (s.ctxOf g c).loops }).setPc
        g c (unsigned 52 ((s.pc g c : Int) + 16 * signed 32 (fbits w 0 32))))) ∧
    (brTaken (fbits w 118 2) (s.flagGet g c (fbits w 109 9)) (fbits w 93 16) = false →
      exec (.br g c w) s = .next (s.advance g c)))

/-- `fset` signals its flag once its instruction has completed (R68); `fwait` takes `N` from its flag where the count
suffices and no other wait on the flag is served first, and otherwise blocks the context's issue (R69, R70); `qwait`
completes where `QDEPTH` is at most `N`, and otherwise blocks (R65). -/
def Obligations.FlagInstructionsComplete : Prop :=
  (∀ (g c : Nat) (w : Body) (s : State), s.Issuable g c → onlyBits w.toNat [(95, 25)] = true → fbits w 111 9 < 320 →
    exec (.fset g c w) s = .next ((s.advance g c).signalFlag g c (fbits w 111 9) (fbits w 95 16))) ∧
  (∀ (g c f n k : Nat) (w : Body) (s u : State), s.Issuable g c → onlyBits w.toNat [(89, 31)] = true →
    f = fbits w 111 9 → n = fbits w 95 16 → k = fbits w 89 6 → f < 320 → n ≠ 0 → tmoOk k = true →
    u = s.blockIn g c (.fwait f n k) (if s.isBarrier (s.jobOf g c) f = true then 5 else 1) →
    (n ≤ s.flagGet g c f → (∀ o ∈ s.waiters g c f, s.flagGet g c f < o.need) →
      exec (.fwait g c w) s = .next ((s.flagPut g c f (s.flagGet g c f - n)).advance g c)) ∧
    ((s.flagGet g c f < n ∨ ∃ o ∈ s.waiters g c f, o.need ≤ s.flagGet g c f) →
      exec (.fwait g c w) s = .next ((u.put (Reg.CTX_WAIT.FLAG g c) f).put (Reg.CTX_WAIT.SINCE g c)
        (u.stamp (rmIsland g))))) ∧
  (∀ (g c : Nat) (w : Body) (s : State), s.Issuable g c → onlyBits w.toNat [(113, 7)] = true → fbits w 113 5 ≤ 16 →
    (s.get (qdepthFld g c (fbits w 118 2)) ≤ fbits w 113 5 → exec (.qwait g c w) s = .next (s.advance g c)) ∧
    (fbits w 113 5 < s.get (qdepthFld g c (fbits w 118 2)) →
      exec (.qwait g c w) s = .next (s.blockIn g c (.qwait (fbits w 118 2) (fbits w 113 5)) 2)))

/-- `beat` closes the context's token; with `MODE` 0 it blocks until the next boundary of the beat, and with `MODE` 1 it
marks the end of the must-work, unless a mark is pending (R100, R365). `curtain` holds the context for a Curtain that is
quiescing, QUIESCED once its queues are empty, and completes otherwise (R101, R402). `tstamp` writes a trace record with
the context's loop index and its tag (R102). `sched` takes a token where one is ready, after which the job's other
waiting contexts are served, and otherwise blocks (R103, R353). `halt` puts the context in DRAIN (R76). -/
def Obligations.BeatCurtainSchedHaltComplete : Prop :=
  (∀ (g c : Nat) (w : Body) (s u v : State) (i : Instr), s.Issuable g c → s.hasBeat (s.jobOf g c) = true →
    i = .beatWait g c w ∨ i = .beatMark g c w → onlyBits w.toNat [(118, 2)] = true → u = s.closeTokens g c →
    v = u.setCtx g c { u.ctxOf g c with arriveLeft := some (u.queued g c) } →
    (fbits w 118 2 = 0 →
      exec i s = .next ((v.blockIn g c (.beat (v.nextBoundary (s.jobOf g c))) 3).noteCurtain g c)) ∧
    (fbits w 118 2 = 1 → (s.ctxOf g c).mark.isSome = true →
      exec i s = .next ((u.advance g c).testCtx g c)) ∧
    (fbits w 118 2 = 1 → (s.ctxOf g c).mark = none →
      exec i s = .next (((u.advance g c).setCtx g c { (u.advance g c).ctxOf g c with
        mark := some ((u.advance g c).queued g c), markSlot := (s.loopIndex g c).getD 0 }).testCtx g c))) ∧
  (∀ (g c : Nat) (w : Body) (s : State), s.Issuable g c → onlyBits w.toNat [(94, 26)] = true → fbits w 116 4 ≤ 8 →
    fbits w 94 22 % 8 = 0 →
    fbits w 94 22 + 8 * fbits w 116 4 ≤ (if s.flag (Reg.SN_CFG.DOUBLE (s.jobOf g c)) = true then 2 ^ 21 else 2 ^ 22) →
    (s.curtainStops (s.jobOf g c) = true → exec (.curtain g c w) s = .next ((s.setCtx g c { s.ctxOf g c with
      curtain := some (fbits w 116 4, fbits w 94 22) }).noteCurtain g c)) ∧
    (s.curtainStops (s.jobOf g c) = false → exec (.curtain g c w) s = .next (s.advance g c))) ∧
  (∀ (g c : Nat) (w : Body) (s : State), s.Issuable g c → onlyBits w.toNat [(64, 56)] = true →
    exec (.tstamp g c w) s = .next ((s.trace (rmIsland g) (0x8000 + fbits w 112 8) (s.ctxJob g c)
      (2 ^ 48 * ((s.loopIndex g c).getD 0 % 2 ^ 16) + fbits w 64 48)).advance g c)) ∧
  (∀ (g c : Nat) (w : Body) (s u : State), s.Issuable g c → onlyBits w.toNat [(100, 20)] = true →
    fbits w 114 6 ≤ 61 → fbits w 106 8 ≠ 0 → tmoOk (fbits w 100 6) = true →
    s.get (Reg.SCHED_CFG.LEN (s.jobOf g c)) ≠ 0 → u = (s.closeTokens g c).schedWrap (s.jobOf g c) →
    (∀ t, u.schedServe g c (fbits w 114 6) (fbits w 106 8) = some t →
      exec (.sched g c w) s = .next ((t.advance g c).serveSched (u.jobOf g c) 48)) ∧
    (u.schedServe g c (fbits w 114 6) (fbits w 106 8) = none →
      exec (.sched g c w) s = .next (u.blockIn g c (.sched (fbits w 114 6) (fbits w 106 8) (fbits w 100 6)) 4))) ∧
  (∀ (g c : Nat) (s u : State), s.Issuable g c → u = s.closeTokens g c →
    exec (.halt g c 0) s = .next (((u.setCtx g c { u.ctxOf g c with
      halted := true, arriveLeft := some (u.queued g c) }).put (Reg.CTX_STATUS.STATE g c) 3).advance g c))

/-! ## Engine instructions -/

/-- The Juggler and the array instructions: each that passes its checks (R89) enters its engine's queue (R50, R62, R63).
-/
def Obligations.JugglerAndArrayInstructionsEnqueue : Prop :=
  (∀ (g c : Nat) (w : Body) (s : State), s.Issuable g c → s.get (Reg.QDEPTH.DMA g c) < 16 →
    (s.engineCode g c w (dmvShape g c) = 0 → Enqueues (.dmv g c w) s g c w (dmvShape g c)) ∧
    (s.engineCode g c w (dtrShape g c w) = 0 → Enqueues (.dtr g c w) s g c w (dtrShape g c w)) ∧
    (s.engineCode g c w (indexShape 0x22 g c 0 w) = 0 → Enqueues (.dgat g c w) s g c w (indexShape 0x22 g c 0 w)) ∧
    (s.engineCode g c w (indexShape 0x23 g c 1 w) = 0 → Enqueues (.dsct g c w) s g c w (indexShape 0x23 g c 1 w)) ∧
    (s.engineCode g c w (dfillShape g c) = 0 → Enqueues (.dfill g c w) s g c w (dfillShape g c))) ∧
  (∀ (g c : Nat) (w : Body) (s : State), s.Issuable g c → s.get (Reg.QDEPTH.ARRAY g c) < 16 →
    (s.engineCode g c w (mwlShape g c) = 0 → Enqueues (.mwl g c w) s g c w (mwlShape g c)) ∧
    (s.engineCode g c w (mmaShape 0x31 g c w) = 0 → Enqueues (.mma g c w) s g c w (mmaShape 0x31 g c w)) ∧
    (s.engineCode g c w (mmaShape 0x32 g c w) = 0 → Enqueues (.mmx g c w) s g c w (mmaShape 0x32 g c w)) ∧
    (s.engineCode g c w (accpShape g c) = 0 → Enqueues (.accp g c w) s g c w (accpShape g c)) ∧
    (s.engineCode g c w acczShape = 0 → Enqueues (.accz g c w) s g c w acczShape) ∧
    (s.engineCode g c w (accdShape g c w) = 0 → Enqueues (.accd g c w) s g c w (accdShape g c w)) ∧
    (s.engineCode g c w (asplitShape g) = 0 → Enqueues (.asplit g c w) s g c w (asplitShape g)))

/-- The Stream instructions and `upd`: each that passes its checks (R89) enters the context's Stream queue (R50, R62,
R63). -/
def Obligations.StreamInstructionsEnqueue : Prop :=
  ∀ (g c : Nat) (w : Body) (s : State), s.Issuable g c → s.get (Reg.QDEPTH.STREAM g c) < 16 →
    (s.engineCode g c w (sxShape 0x40 g c w) = 0 → Enqueues (.sxAdd g c w) s g c w (sxShape 0x40 g c w)) ∧
    (s.engineCode g c w (sxShape 0x41 g c w) = 0 → Enqueues (.sxSub g c w) s g c w (sxShape 0x41 g c w)) ∧
    (s.engineCode g c w (sxShape 0x42 g c w) = 0 → Enqueues (.sxMul g c w) s g c w (sxShape 0x42 g c w)) ∧
    (s.engineCode g c w (sxShape 0x43 g c w) = 0 → Enqueues (.sxFma g c w) s g c w (sxShape 0x43 g c w)) ∧
    (s.engineCode g c w (sxShape 0x44 g c w) = 0 → Enqueues (.sxMin g c w) s g c w (sxShape 0x44 g c w)) ∧
    (s.engineCode g c w (sxShape 0x45 g c w) = 0 → Enqueues (.sxMax g c w) s g c w (sxShape 0x45 g c w)) ∧
    (s.engineCode g c w (sxShape 0x46 g c w) = 0 → Enqueues (.sxCmp g c w) s g c w (sxShape 0x46 g c w)) ∧
    (s.engineCode g c w (sxShape 0x47 g c w) = 0 → Enqueues (.sxSel g c w) s g c w (sxShape 0x47 g c w)) ∧
    (s.engineCode g c w (sxShape 0x48 g c w) = 0 → Enqueues (.sxAbs g c w) s g c w (sxShape 0x48 g c w)) ∧
    (s.engineCode g c w (sxShape 0x49 g c w) = 0 → Enqueues (.sxCvt g c w) s g c w (sxShape 0x49 g c w)) ∧
    (s.engineCode g c w (sxShape 0x4A g c w) = 0 → Enqueues (.sxClamp g c w) s g c w (sxShape 0x4A g c w)) ∧
    (s.engineCode g c w (sxShape 0x4B g c w) = 0 → Enqueues (.sxSfn g c w) s g c w (sxShape 0x4B g c w)) ∧
    (s.engineCode g c w (updShape (s.progNat (s.jobOf g c) (wMod w % 8)) g c w) = 0 →
      Enqueues (.upd g c w) s g c w (updShape (s.progNat (s.jobOf g c) (wMod w % 8)) g c w))

/-- The Lane, statistics, soft-maximum and special-function instructions: each that passes its checks (R89) enters the
context's Lane queue (R50, R62, R63). -/
def Obligations.LaneInstructionsEnqueue : Prop :=
  (∀ (g c : Nat) (w : Body) (s : State), s.Issuable g c → s.get (Reg.QDEPTH.LANE g c) < 16 →
    (s.engineCode g c w (lvVlShape w) = 0 → Enqueues (.lvVl g c w) s g c w (lvVlShape w)) ∧
    (s.engineCode g c w (lvLdShape w) = 0 → Enqueues (.lvLd g c w) s g c w (lvLdShape w)) ∧
    (s.engineCode g c w (lvStShape w) = 0 → Enqueues (.lvSt g c w) s g c w (lvStShape w)) ∧
    (s.engineCode g c w (lvAddShape w) = 0 → Enqueues (.lvAdd g c w) s g c w (lvAddShape w)) ∧
    (s.engineCode g c w (lvMulShape w) = 0 → Enqueues (.lvMul g c w) s g c w (lvMulShape w)) ∧
    (s.engineCode g c w (lvFmaShape w) = 0 → Enqueues (.lvFma g c w) s g c w (lvFmaShape w)) ∧
    (s.engineCode g c w (lvMaxShape w) = 0 → Enqueues (.lvMax g c w) s g c w (lvMaxShape w)) ∧
    (s.engineCode g c w (lvMinShape w) = 0 → Enqueues (.lvMin g c w) s g c w (lvMinShape w)) ∧
    (s.engineCode g c w (lvRedShape w) = 0 → Enqueues (.lvRed g c w) s g c w (lvRedShape w)) ∧
    (s.engineCode g c w (lpermShape w) = 0 → Enqueues (.lperm g c w) s g c w (lpermShape w)) ∧
    (s.engineCode g c w (lscanShape g c w) = 0 → Enqueues (.lscan g c w) s g c w (lscanShape g c w))) ∧
  (∀ (g c : Nat) (w : Body) (s : State), s.Issuable g c → s.get (Reg.QDEPTH.LANE g c) < 16 →
    (s.engineCode g c w (lstatShape g c w) = 0 → Enqueues (.lstat g c w) s g c w (lstatShape g c w)) ∧
    (s.engineCode g c w (lsoftmaxShape g c w) = 0 → Enqueues (.lsoftmax g c w) s g c w (lsoftmaxShape g c w)) ∧
    (s.engineCode g c w (sfnShape g c w) = 0 → Enqueues (.sfn g c w) s g c w (sfnShape g c w)) ∧
    (s.engineCode g c w (tloadShape g c w) = 0 → Enqueues (.tload g c w) s g c w (tloadShape g c w)) ∧
    (s.engineCode g c w (tswapShape g c w) = 0 → Enqueues (.tswap g c w) s g c w (tswapShape g c w)))

/-! ## Issue -/

/-- A context that may not issue (R57, R81, R498) executes nothing. An instruction whose address does not translate
raises `PAGE_FAULT` in its context (R49), whichever it is. -/
def Obligations.IssueNeedsARunningContextAndAPage : Prop :=
  (∀ (g c : Nat) (w : Body) (s : State), g < 24 → c < 2 → s.mayIssue g c = false →
    ∀ i ∈ contextInstrs g c w, exec i s = .next s) ∧
  (∀ (g c : Nat) (w : Body) (s : State), g < 24 → c < 2 → s.mayIssue g c = true →
    s.readAddr (s.jobOf g c) (s.pc g c) = none →
    ∀ i ∈ contextInstrs g c w,
      exec i s = .next (s.ctxErr g c 0x0A (s.pc g c) (faultPayload 0 (s.pc g c))))

/-- An engine instruction that fails a check of R89 is rejected with the code of the first check it fails, and so is a
control instruction whose fields are out of range or whose state does not allow it (R88, R96 to R103): `rejectInstr`
takes the program-error path in the context, and nothing is enqueued. -/
def Obligations.FailedChecksRejectTheInstruction : Prop :=
  (∀ (g c : Nat) (w : Body) (s : State), s.Issuable g c →
    ∀ p ∈ s.engineInstrs g c w, s.engineCode g c w p.2 ≠ 0 →
      exec p.1 s = .next (s.rejectInstr g c (s.engineCode g c w p.2))) ∧
  (∀ (g c : Nat) (w : Body) (s : State), s.Issuable g c →
    (onlyBits w.toNat [(92, 28)] = false ∨ fbits w 92 12 = 0 → exec (.loop g c w) s = .next (s.rejectInstr g c 0x06)) ∧
    (onlyBits w.toNat [(92, 28)] = true → fbits w 92 12 ≠ 0 →
      4 ≤ (s.ctxOf g c).loops.length ∨ (∃ l ∈ (s.ctxOf g c).loops.head?, l.stop < s.pc g c + 16 + 16 * fbits w 92 12) →
      exec (.loop g c w) s = .next (s.rejectInstr g c 0x04)) ∧
    (onlyBits w.toNat [(93, 27), (0, 32)] = false ∨ 320 ≤ fbits w 109 9 ∨
        (fbits w 118 2 = 0 ∧ (fbits w 109 9 ≠ 0 ∨ fbits w 93 16 ≠ 0)) →
      exec (.br g c w) s = .next (s.rejectInstr g c 0x06)) ∧
    (onlyBits w.toNat [(95, 25)] = false ∨ 320 ≤ fbits w 111 9 → exec (.fset g c w) s = .next (s.rejectInstr g c 0x06)) ∧
    (onlyBits w.toNat [(89, 31)] = false ∨ 320 ≤ fbits w 111 9 ∨ fbits w 95 16 = 0 ∨ tmoOk (fbits w 89 6) = false →
      exec (.fwait g c w) s = .next (s.rejectInstr g c 0x06)) ∧
    (onlyBits w.toNat [(113, 7)] = false ∨ 16 < fbits w 113 5 → exec (.qwait g c w) s = .next (s.rejectInstr g c 0x06)) ∧
    (onlyBits w.toNat [(118, 2)] = false ∨ 1 < fbits w 118 2 → exec (.beatWait g c w) s = .next (s.rejectInstr g c 0x06) ∧
      exec (.beatMark g c w) s = .next (s.rejectInstr g c 0x06)) ∧
    (onlyBits w.toNat [(118, 2)] = true → fbits w 118 2 ≤ 1 → s.hasBeat (s.jobOf g c) = false →
      exec (.beatWait g c w) s = .next (s.rejectInstr g c 0x04) ∧
      exec (.beatMark g c w) s = .next (s.rejectInstr g c 0x04)) ∧
    (onlyBits w.toNat [(94, 26)] = false ∨ 8 < fbits w 116 4 ∨ fbits w 94 22 % 8 ≠ 0 ∨
        (if s.flag (Reg.SN_CFG.DOUBLE (s.jobOf g c)) = true then 2 ^ 21 else 2 ^ 22) < fbits w 94 22 + 8 * fbits w 116 4 →
      exec (.curtain g c w) s = .next (s.rejectInstr g c 0x06)) ∧
    (onlyBits w.toNat [(64, 56)] = false → exec (.tstamp g c w) s = .next (s.rejectInstr g c 0x06)) ∧
    (onlyBits w.toNat [(100, 20)] = false ∨ 61 < fbits w 114 6 ∨ fbits w 106 8 = 0 ∨ tmoOk (fbits w 100 6) = false →
      exec (.sched g c w) s = .next (s.rejectInstr g c 0x06)) ∧
    (onlyBits w.toNat [(100, 20)] = true → fbits w 114 6 ≤ 61 → fbits w 106 8 ≠ 0 → tmoOk (fbits w 100 6) = true →
      s.get (Reg.SCHED_CFG.LEN (s.jobOf g c)) = 0 → exec (.sched g c w) s = .next (s.rejectInstr g c 0x04)) ∧
    (w ≠ 0 → exec (.halt g c w) s = .next (s.rejectInstr g c 0x06)))

/-! ## Jobs -/

/-- `JOB_CTX_MASK` replaces a job's bound set where its checks pass: the mask is written, and the job is LOADED, or FREE
with an empty set (R58, R592); otherwise the write is rejected with the code of R58 and R59. Unbinding writes the empty
set. -/
def Obligations.BindAndUnbindComplete : Prop :=
  (∀ (j m : Nat) (s : State), j < 8 → s.Open → s.maskCode j (m % 2 ^ 48) = 0 →
    exec (.jobCtxMaskBind j m) s = .next (s.setMask j (m % 2 ^ 48)) ∧
      (s.setMask j (m % 2 ^ 48)).get (Reg.JOB_CTX_MASK.MASK j) = m % 2 ^ 48 ∧
      (s.setMask j (m % 2 ^ 48)).jobState j = (if m % 2 ^ 48 = 0 then 0 else 1)) ∧
  (∀ (j m : Nat) (s : State), j < 8 → s.Open → s.maskCode j (m % 2 ^ 48) ≠ 0 →
    exec (.jobCtxMaskBind j m) s = .next (s.reject (s.maskCode j (m % 2 ^ 48)) (jobOff j 0x10) (some j))) ∧
  (∀ (j : Nat) (s : State), j < 8 → s.Open →
    (s.flag Reg.DEV_STATUS.READY = true ∧ s.jobState j = 1 →
      exec (.jobCtxMaskUnbind j) s = .next (s.setMask j 0) ∧ (s.setMask j 0).get (Reg.JOB_CTX_MASK.MASK j) = 0 ∧
        (s.setMask j 0).jobState j = 0) ∧
    (¬ (s.flag Reg.DEV_STATUS.READY = true ∧ s.jobState j = 1) →
      exec (.jobCtxMaskUnbind j) s = .next (s.reject 0x04 (jobOff j 0x10) (some j))))

/-- START makes a LOADED job that passes its checks RUNNING, with both epochs 0 and the image incomplete (R58, R397,
R411); HALT begins the stop of a RUNNING or RESTORING job with code 0 in its halt record (R58, R73, R594); RELEASE
returns a HALTED or DONE job to FREE, and no frame is the job's any more (R332, R593). None of them writes device or
host memory. A command that a check refuses is rejected. -/
def Obligations.StartHaltReleaseComplete : Prop :=
  (∀ (j : Nat) (s : State), j < 8 → s.Open → s.startCode j = 0 →
    exec (.start j) s = .next (s.startJob j) ∧ (s.startJob j).jobState j = 2 ∧
      (s.startJob j).get (Reg.SN_EPOCH.CUR j) = 0 ∧ (s.startJob j).get (Reg.SN_EPOCH.BASE j) = 0 ∧
      (s.startJob j).get (Reg.SN_JOB_STATUS.INCOMPLETE j) = 1 ∧
      (s.startJob j).mem = s.mem ∧ (s.startJob j).host = s.host) ∧
  (∀ (j : Nat) (s : State), j < 8 → s.Open → s.jobState j = 2 ∨ s.jobState j = 3 →
    exec (.haltCommand j) s = .next (s.haltJob j) ∧ (s.haltJob j).jobState j = 4 ∧
      (s.haltJob j).get (Reg.JOB_HALT_INFO.CODE j) = 0 ∧ (s.haltJob j).get (Reg.JOB_HALT_INFO.UNIT j) = 6) ∧
  (∀ (j : Nat) (s : State), j < 8 → s.Open → s.jobState j = 5 ∨ s.jobState j = 6 →
    exec (.release j) s = .next (s.releaseJob j) ∧ (s.releaseJob j).jobState j = 0 ∧
      (∀ d, Tab.get 0xE (s.releaseJob j).owner d ≠ j) ∧
      (s.releaseJob j).mem = s.mem ∧ (s.releaseJob j).host = s.host) ∧
  (∀ (j : Nat) (s : State), j < 8 → s.Open →
    (s.startCode j ≠ 0 → exec (.start j) s = .next (s.reject (s.startCode j) (jobOff j 0) (some j))) ∧
    (s.jobState j ≠ 2 → s.jobState j ≠ 3 → exec (.haltCommand j) s = .next (s.reject 0x04 (jobOff j 0) (some j))) ∧
    (s.jobState j ≠ 5 → s.jobState j ≠ 6 → exec (.release j) s = .next (s.reject 0x04 (jobOff j 0) (some j))))

/-- A host add to a declared flag adds its count (R71); while a Curtain holds adds it waits (R404); to a flag that is
not declared it is rejected with `STATE_ILLEGAL`. An add to a job flag that passes 0xFFFF leaves the count at 0xFFFF and
sets `FLAG_SAT_EVT` (R68), a host's add too. -/
def Obligations.HostFlagAddCompletes : Prop :=
  (∀ (j i n : Nat) (s : State), j < 8 → s.Open → s.hostFlag j (i % 256) = true → s.holdsAdds j = false →
    s.get (Reg.JOB_FLAG.COUNT j (i % 256)) + n % 65536 ≤ 0xFFFF →
    exec (.jobFlagAdd j i n) s = .next (s.put (Reg.JOB_FLAG.COUNT j (i % 256))
      (s.get (Reg.JOB_FLAG.COUNT j (i % 256)) + n % 65536))) ∧
  (∀ (j i n : Nat) (s : State), j < 8 → s.Open → s.hostFlag j (i % 256) = true → s.holdsAdds j = true →
    exec (.jobFlagAdd j i n) s = .next (s.setSn j { s.snOf j with
      heldAdds := (s.snOf j).heldAdds ++ [(i % 256, n % 65536, 0)] })) ∧
  (∀ (j i n : Nat) (s : State), j < 8 → s.Open → s.hostFlag j (i % 256) = false →
    exec (.jobFlagAdd j i n) s = .next (s.reject 0x04 (jobOff j 0x40) (some j))) ∧
  (∀ (j i n src isl : Nat) (s : State), j < 8 → i < 256 → 0xFFFF < s.get (Reg.JOB_FLAG.COUNT j i) + n →
    (s.addJobFlag j i n src isl).get (Reg.JOB_FLAG.COUNT j i) = 0xFFFF ∧
      (s.addJobFlag j i n src isl).get (Reg.JOB_STATUS.FLAG_SAT_EVT j) = 1) ∧
  (∀ (j i n : Nat) (s : State), j < 8 → s.Open → s.hostFlag j (i % 256) = true → s.holdsAdds j = false →
    0xFFFF < s.get (Reg.JOB_FLAG.COUNT j (i % 256)) + n % 65536 →
    exec (.jobFlagAdd j i n) s = .next (s.addJobFlag j (i % 256) (n % 65536) 1 523))

/-! ## Engine queues and waits -/

/-- The operation of a queue that waits on its flag, and that the flag serves next, takes one from it; the troupe's
queues and then the flag's other waits are looked at (R68, R70). A wait bounded by `WAIT_TMO` that expires, and a
blocked `fwait` or `sched` that reaches its `TMO`, raise code 0x02 (R69, R103, R115). A signal made visible serves the
waits on its job's flag (R70). At its retirement in a core an operation runs there what no event of its own has run
(R62, R94): an iteration that meets an error raises it, and otherwise the core's oldest operation retires there if
everything of it is done. While another enabled core has not retired it the entry stays and notes this core; the last
one frees it, and `QDEPTH` counts down (R62, R63). -/
def Obligations.WaitsAndRetirementsComplete : Prop :=
  (∀ (g c e f b : Nat) (q : QEntry) (s : State), g < 24 → c < 2 → e < 4 → s.frontier g c e = some q →
    s.engineWait g c e = some (f, b) → s.servesNext g c e f = true →
    exec (.engineWaitSatisfied g c e) s = .next ((((s.flagPut g c f (s.flagGet g c f - 1)).setEntry g c e
      { q with waited := true }).pump g).serveFlag g c f 48)) ∧
  (∀ (g c e : Nat) (q : QEntry) (s : State), g < 24 → c < 2 → e < 4 → s.bounded g c e = some q →
    s.get (Reg.CTX_CFG.WAIT_TMO g c) ≠ 0 →
    exec (.engineWaitTimeout g c e) s = .next (s.ctxErr g c 0x02 q.pc 0)) ∧
  (∀ (g c f n t b : Nat) (s : State), g < 24 → c < 2 → t ≠ 0 →
    (s.ctxOf g c).block = some (.fwait f n t, b) ∨ (s.ctxOf g c).block = some (.sched f n t, b) →
    exec (.fwaitTimeout g c) s = .next (s.ctxErr g c 0x02 (s.pc g c) 0)) ∧
  (∀ (j f : Nat) (p : Nat × Nat) (rest : List (Nat × Nat)) (s : State), j < 8 → f < 256 →
    (s.jobCtxs j = p :: rest → exec (.flagSignalVisible j f) s = .next (s.serveFlag p.1 p.2 (f + 64) 48)) ∧
    (s.jobCtxs j = [] → exec (.flagSignalVisible j f) s = .next s)) ∧
  (∀ (g c e cx : Nat) (q : QEntry) (s : State), g < 24 → c < 2 → e < 4 → cx < 16 → s.oldestIn g c e cx = some q →
    q.begunIn cx = true →
    (∀ c' cx' q' k v, (s.runOut g c e cx q).2 = .err c' cx' q' k v →
      exec (.engineOpRetire g c e cx) s = .next ((s.runOut g c e cx q).1.raiseEnd g c' cx' q' k v)) ∧
    ((s.runOut g c e cx q).2 = .done ∨ (s.runOut g c e cx q).2 = .waits →
      exec (.engineOpRetire g c e cx) s = .next ((s.runOut g c e cx q).1.endOldest g c e cx))) ∧
  (∀ (g c e cx : Nat) (q : QEntry) (s : State), s.oldestIn g c e cx = some q →
    (q.begunIn cx = true → s.coreDone g c q cx = true →
      s.endOldest g c e cx = (s.retireCore g c e cx q).feed g) ∧
    (s.coreDone g c q cx = false → s.endOldest g c e cx = s)) ∧
  (∀ (g c e cx : Nat) (q q' : QEntry) (s u : State), q' = { q with retired := setBit q.retired cx true } →
    u = (if e = 3 then s.coreInc (s.at g c cx) Reg.DMA_OPS.N 1 else s).setEntry g c e q' →
    ((u.coresOf g c).all q'.retiredIn = false → s.retireCore g c e cx q = u.pump g) ∧
    ((u.coresOf g c).all q'.retiredIn = true → s.retireCore g c e cx q = (u.retireHead g c e q').pump g)) ∧
  (∀ (g c e : Nat) (q : QEntry) (s : State), g < 24 → c < 2 → e < 4 → q.word = 0 → (s.ctxOf g c).block = none →
    (s.ctxOf g c).mark = none →
    (s.retireHead g c e q).queue g c e = (s.queue g c e).tail ∧
      (s.retireHead g c e q).get (qdepthFld g c e) = (s.get (qdepthFld g c e) - 1) % 2 ^ 5)

/-- A wait cycle raises its records and stops the job (R72); the end of a stop makes the job HALTED (R73); a context in
DRAIN whose queues have emptied is DONE, and its job too where every context of it is, its beat session ended and
`DONE_EVT` set (R76, R374). -/
def Obligations.CyclesStopsAndDrainsComplete : Prop :=
  (∀ (j : Nat) (s : State), j < 8 → s.isCycle j = true → exec (.waitCycle j) s = .next (s.raiseCycle j)) ∧
  (∀ (j : Nat) (s : State), j < 8 → s.jobState j = 4 → exec (.jobStopIdle j) s = .next (s.put (Reg.JOB_STATUS.STATE j) 5)) ∧
  (∀ (g c : Nat) (s u : State), g < 24 → c < 2 → s.get (Reg.CTX_STATUS.STATE g c) = 3 → s.ctxDrained g c = true →
    u = s.put (Reg.CTX_STATUS.STATE g c) 4 →
    ((u.jobCtxs (u.jobOf g c)).all (fun p => u.get (Reg.CTX_STATUS.STATE p.1 p.2) = 4) = false →
      exec (.contextDrainDone g c) s = .next u) ∧
    ((u.jobCtxs (u.jobOf g c)).all (fun p => u.get (Reg.CTX_STATUS.STATE p.1 p.2) = 4) = true →
      exec (.contextDrainDone g c) s = .next (((u.put (Reg.JOB_STATUS.STATE (u.jobOf g c)) 6).put
        (Reg.CAL_STATUS.ACTIVE (u.jobOf g c)) 0).setEvent (Reg.JOB_STATUS.DONE_EVT (u.jobOf g c)) (u.jobOf g c))))

/-! ## Array events -/

/-- After what may begin in the troupe's arrays has begun: the oldest tile step of a context on a core writes its rows
where it has none or its half is ON (R133, R149), and retires unless a row overflows or a window passes the range of E,
where the step stays or its error is raised (R170, R174). A step with an overflowed row replays (R171);
`ACC_OVERFLOW_REPLAY` first finds the overflow where the step has not met it, and is nothing where it meets none. A
weight load writes its bank (R136, R137), or raises the error it meets. After 64 iterations in cross mode the latches
are rewritten and counted (R144); a context that ran alone is copied to its bank once the array is idle (R139). The
Drumroll: in a start slot of the troupe, a begun `mma` or `mmx` with a core that is OFF or in FALL makes every core of
its context rise (R149, R150), and outside the slot none does. A level step takes one level up in RISE until level 8,
then ON with the `LINGER` in force, and one level down in FALL, at level 0 OFF (R148, R149, R151); after it, what may
begin does. From ON a half falls (R151). -/
def Obligations.ArrayEventsComplete : Prop :=
  (∀ (g c cx : Nat) (x : At) (q : QEntry) (st : TileStep) (s u : State), g < 24 → c < 2 → cx < 16 →
    x = s.at g c cx → u = s.feed g → u.oldestStep x = some (st, q) → st.spilled = false →
    (st.p.m = 0 ∨ u.drumOn x = true) →
    ((u.writeStep x q st).2.2 = .done → exec (.iterationRetire g c cx) s = .next
      ((u.writeStep x q st).1.stepRetires x (u.writeStep x q st).2.1 q)) ∧
    ((u.writeStep x q st).2.2 ≠ .done → exec (.iterationRetire g c cx) s = .next
      (rowsEnded x q (u.writeStep x q st)))) ∧
  (∀ (g c cx : Nat) (x : At) (q : QEntry) (st : TileStep) (s u : State), g < 24 → c < 2 → cx < 16 →
    x = s.at g c cx → u = s.feed g → u.oldestStep x = some (st, q) →
    (st.spilled = true → exec (.accOverflowReplay g c cx) s = .next
      (rowsEnded x q (u.replayStep x q st (u.nextLoad x).isSome))) ∧
    ((u.spillOf x st q).2.2 = .done → exec (.accOverflowReplay g c cx) s = .next u) ∧
    (∀ k v, (u.spillOf x st q).2.2 = .err k v → exec (.accOverflowReplay g c cx) s = .next
      (rowsEnded x q (u.spillOf x st q))) ∧
    (∀ col, st.spilled = false → (u.spillOf x st q).2.2 = .spill col → exec (.accOverflowReplay g c cx) s = .next
      (rowsEnded x q ((u.spillOf x st q).1.replayStep x q (u.spillOf x st q).2.1 (u.nextLoad x).isSome)))) ∧
  (∀ (g c cx k n : Nat) (x : At) (q : QEntry) (s u : State), g < 24 → c < 2 → cx < 16 →
    x = s.at g c cx → u = s.feed g → u.nextLoad x = some (q, k, n) →
    (∀ t, u.loadIter x q k n = .ok t → exec (.weightLoadDone g c cx) s = .next
      ((t.setEntry g c 0 { q with prog := Tab.set 0 q.prog (16 + cx) (n + 1) }).feed g)) ∧
    (∀ e, u.loadIter x q k n = .error e → exec (.weightLoadDone g c cx) s = .next (u.opErr x q e.1 e.2))) ∧
  (∀ (g cx : Nat) (s : State), g < 24 → cx < 16 → 64 ≤ (s.core g cx).crossIt →
    exec (.latchRewrite g cx) s = .next (((s.setCore g cx { s.core g cx with
      crossIt := (s.core g cx).crossIt - 64 }).inc (Reg.ARR_XREF.N g cx) 1).feed g)) ∧
  (∀ (g cx c : Nat) (s : State), g < 24 → cx < 16 → Tab.get 0 (s.core g cx).own 0 = c + 1 →
    s.engineBusy g 0 0 cx = false → s.engineBusy g 1 0 cx = false →
    exec (.sharedModeCopy g cx) s = .next ((s.setCore g cx (copyOwn (s.core g cx) c)).feed g)) ∧
  (∀ (g h c : Nat) (q : QEntry) (s : State), g < 24 → h < 2 → (h = 0 ∨ s.isSplit g = true) →
    s.riseFor g h = some (c, q) →
    (∃ cx ∈ s.coresOf g c, s.get (drumState g (s.view g cx).cx h) = 0 ∨ s.get (drumState g (s.view g cx).cx h) = 3) →
    (s.stamp (rmIsland g) % 288 / 12 = g →
      ∃ t, exec (.drumrollRise g h) s = .next t ∧ t.mem = s.mem ∧ t.host = s.host ∧ t.cores = s.cores ∧
        ∀ cx ∈ s.coresOf g c, t.get (drumState g (s.view g cx).cx h) ≠ 0 ∧ t.get (drumState g (s.view g cx).cx h) ≠ 3) ∧
    (s.stamp (rmIsland g) % 288 / 12 ≠ g → exec (.drumrollRise g h) s = .next s)) ∧
  (∀ (g cx h : Nat) (s : State), g < 24 → cx < 16 → h < 2 →
    (s.get (drumState g cx h) = 1 → s.get (drumLevel g cx h) < 8 →
      exec (.drumrollLevelStep g cx h) s = .next ((s.put (drumLevel g cx h) (s.get (drumLevel g cx h) + 1)).feed g)) ∧
    (s.get (drumState g cx h) = 1 → 8 ≤ s.get (drumLevel g cx h) →
      exec (.drumrollLevelStep g cx h) s = .next (((s.put (drumState g cx h) 2).setCore g cx { s.core g cx with
        linger := s.get (Reg.ARR_CFG.LINGER g cx) }).feed g)) ∧
    (s.get (drumState g cx h) = 3 → 1 < s.get (drumLevel g cx h) →
      exec (.drumrollLevelStep g cx h) s = .next ((s.put (drumLevel g cx h) (s.get (drumLevel g cx h) - 1)).feed g)) ∧
    (s.get (drumState g cx h) = 3 → s.get (drumLevel g cx h) ≤ 1 →
      exec (.drumrollLevelStep g cx h) s = .next (((s.put (drumLevel g cx h) (s.get (drumLevel g cx h) - 1)).put
        (drumState g cx h) 0).feed g)) ∧
    (s.get (drumState g cx h) = 2 →
      exec (.drumrollFall g cx h) s = .next (s.put (drumState g cx h) 3)))

/-- A half is fenced where its context's job stops or restores, or on a parity fault, which is raised with the pc of the
half's begun operation (R153, R154). A write of `ARR_CFG` takes `LINGER` from 64 to 4096, and another `NARROW` only with
both halves OFF and both contexts unbound or QUIESCED (R156, R157); any other is rejected; at a core that is held it
waits in the crossing (R18, R529). -/
def Obligations.FencesAndArrayConfiguration : Prop :=
  (∀ (g h j : Nat) (s : State), g < 24 → h < 2 → s.isSplit g = true → s.ctxJob g h = some j →
    s.jobState j = 3 ∨ s.jobState j = 4 → exec (.halfFence g h false) s = .next (s.fence g h)) ∧
  (∀ (g h : Nat) (s : State), g < 24 → h < 2 → s.isSplit g = true →
    exec (.halfFence g h true) s = .next ((s.fence g h).coreErr g h ((s.coresOf g h).headD 0) 0 0x13
      ((((s.queue g h 0).find? (fun q => q.begun ≠ 0)).map (·.pc)).getD 0) 0)) ∧
  (∀ (g cx v : Nat) (s : State), g < 24 → cx < 16 → s.Open → s.accessHeld (coreOff g cx 0x200) = true →
    exec (.arrCfgNarrow g cx v) s =
      .next (s.pushWord (coreOff g cx 0x200) { off := coreOff g cx 0x200, val := v })) ∧
  (∀ (g cx v : Nat) (s : State), g < 24 → cx < 16 → s.Open → s.accessHeld (coreOff g cx 0x200) = false →
    64 ≤ bits v 0 16 → bits v 0 16 ≤ 4096 →
    (bits v 16 1 = s.get (Reg.ARR_CFG.NARROW g cx) ∨ (s.get (drumState g cx 0) = 0 ∧ s.get (drumState g cx 1) = 0 ∧
      s.ctxAside g 0 = true ∧ s.ctxAside g 1 = true)) →
    exec (.arrCfgNarrow g cx v) s = .next (((s.put (Reg.ARR_CFG.LINGER g cx) (bits v 0 16)).put
      (Reg.ARR_CFG.NARROW g cx) (bits v 16 1)).put (Reg.ARR_STATUS.NARROW g cx) (bits v 16 1))) ∧
  (∀ (g cx v : Nat) (s : State), g < 24 → cx < 16 → s.Open → s.accessHeld (coreOff g cx 0x200) = false →
    (bits v 0 16 < 64 ∨ 4096 < bits v 0 16 →
      exec (.arrCfgNarrow g cx v) s = .next (s.reject 0x06 (coreOff g cx 0x200) none)) ∧
    (64 ≤ bits v 0 16 → bits v 0 16 ≤ 4096 → bits v 16 1 ≠ s.get (Reg.ARR_CFG.NARROW g cx) →
      ¬ (s.get (drumState g cx 0) = 0 ∧ s.get (drumState g cx 1) = 0 ∧ s.ctxAside g 0 = true ∧ s.ctxAside g 1 = true) →
      exec (.arrCfgNarrow g cx v) s = .next (s.reject 0x04 (coreOff g cx 0x200) none)))

/-! ## Stream, Lane and DMA events -/

/-- A chunk of a Stream operation's running iteration advances with its counters (R216); at an iteration boundary the
next iteration runs in its turn with its first chunk (R51, R52), and its error is raised. A core of an `lscan` or
`lstat` round that has begun takes the carry and passes it on (R234, R236), and the last ends the round (R237, R269); a
finished round's record goes to the downstream ring where it has room, with its signal (R239, R240), and the oldest
record of the context's own ring to the round that waits for one, one of another `KIND` raising code 0x04 (R235, R269);
a wait at a ring expires with code 0x02 (R239). -/
def Obligations.StreamAndParadeEventsComplete : Prop :=
  (∀ (g c cx stall raw : Nat) (x : At) (q : QEntry) (s : State), g < 24 → c < 2 → cx < 16 → x = s.at g c cx →
    s.sxEntry x = some q →
    (s.midIter g c (s.view g cx).cx = true →
      exec (.streamChunkAdvance g c cx stall raw) s = .next ((((s.setEntry g c 1
        { q with prog := Tab.set 0 q.prog cx (Tab.get 0 q.prog cx + 1) }).coreInc x Reg.SX_CHUNKS.N 1).coreInc
          x Reg.SX_STALL.N stall).coreInc x Reg.SX_RAW.N raw)) ∧
    (∀ k q', s.midIter g c (s.view g cx).cx = false → k = s.sxSkip g c cx (s.itersOf g c q) →
      k.2 = .done ∨ k.2 = .waits → k.1.sxEntry x = some q' →
      (∀ u q'', k.1.sxBegin x q' = (u, .ran) → u.sxEntry x = some q'' →
        exec (.streamChunkAdvance g c cx stall raw) s = .next ((u.countChunk x q'' stall raw).pump g)) ∧
      (∀ u, k.1.sxBegin x q' = (u, .waits) → exec (.streamChunkAdvance g c cx stall raw) s = .next u) ∧
      (∀ u a v, k.1.sxBegin x q' = (u, .err a v) →
        exec (.streamChunkAdvance g c cx stall raw) s = .next (u.raiseEnd g c cx q' a v)))) ∧
  (∀ (g c k : Nat) (q q' : QEntry) (x : At) (r : State × List Nat) (s : State), g < 24 → c < 2 →
    s.paradeHead g c = some q → q.hop < s.itersOf g c q * (s.coresOf g c).length → s.pushDue g c q = false →
    s.popDue g c q = false → k = q.hop % (s.coresOf g c).length → q.begunIn ((s.coresOf g c).getD k 0) = true →
    x = s.at g c ((s.coresOf g c).getD k 0) →
    r = (if q.opc = 0x5A then s.hopScan x q (k = 0) else s.hopStat x q (k = 0)) →
    q' = { q with hop := q.hop + 1, carry := r.2, popped := false, pushed := false } →
    (k + 1 ≠ (s.coresOf g c).length → exec (.paradeHop g c) s = .next ((r.1.setEntry g c 2 q').pump g)) ∧
    (k + 1 = (s.coresOf g c).length → exec (.paradeHop g c) s = .next
      (((r.1.setEntry g c 2 q').roundEnd g c q' r.2).pump g))) ∧
  (∀ (g c f : Nat) (q : QEntry) (d : Nat × Nat) (s u : State), g < 24 → c < 2 → s.paradeHead g c = some q →
    d = s.downOf g c → s.pushDue g c q = true → (s.ring d.1 d.2).length < 4 →
    u = ({ ((s.setRing d.1 d.2 (s.ring d.1 d.2 ++ [s.carryRecord g c q])).put (Reg.RM_PARADE.RING_OCC d.1 d.2)
      ((s.ring d.1 d.2).length + 1)) with
        pushSeq := Tab.set 0 s.pushSeq (2 * g + c) (((s.carryRecord g c q).seq + 1) % 2 ^ 16) } : State).setEntry
          g c 2 { q with pushed := true } → f = u.get (Reg.RM_PARADE.UP_FLAG d.1 d.2) →
    (f = 0 → exec (.carryRecordPush g c) s = .next u) ∧
    (f ≠ 0 → exec (.carryRecordPush g c) s = .next (u.addJobFlag (u.jobOf g c) (f - 64) 1 3 (rmIsland g)))) ∧
  (∀ (g c : Nat) (q : QEntry) (r : CarryRec) (rest : List CarryRec) (s : State), g < 24 → c < 2 →
    s.paradeHead g c = some q → s.ring g c = r :: rest → s.popDue g c q = true →
    (r.kind = wantedKind q → exec (.carryRecordPop g c) s = .next (((s.setRing g c rest).put
      (Reg.RM_PARADE.RING_OCC g c) rest.length).setEntry g c 2 { q with popped := true, carry := [r.v0, r.v1, r.v2] })) ∧
    (r.kind ≠ wantedKind q → exec (.carryRecordPop g c) s = .next (((s.setRing g c rest).put
      (Reg.RM_PARADE.RING_OCC g c) rest.length).coreErr g c ((s.coresOf g c).headD 0) 2 0x04 q.pc 0))) ∧
  (∀ (g c cx : Nat) (q : QEntry) (s : State), g < 24 → c < 2 → s.paradeHead g c = some q → s.ringWait g c q = some cx →
    s.get (Reg.CTX_CFG.WAIT_TMO g c) ≠ 0 →
    exec (.carryRingTimeout g c) s = .next (s.coreErr g c cx 2 0x02 q.pc 0))

/-- A table image that arrives at a core is written to its bank there, every core writing the one captured image, and
the core's part of the `tload` is done; where the image fails a check, code 0x06 is raised (R253, R254). A complete
transfer runs what is left of the operation's iterations in the core and ends the core's part, or raises the error an
iteration meets; one that could not read host memory raises a page fault (R320), and one that met an uncorrectable error
raises it where it was met (R316). -/
def Obligations.ImagesAndTransfersComplete : Prop :=
  (∀ (g c cx : Nat) (q : QEntry) (s : State), g < 24 → c < 2 → cx < 16 → s.begunOf g c 2 cx [0x61] = some q →
    bit q.done cx = false →
    (∀ img, s.captured g c q = some img → exec (.tloadImageArrive g c cx) s = .next
      (((s.setTable g (s.view g cx).cx (s.physSlot g c (tSlot q.word)) (tBank q.word) img).setEntry g c 2
        { q with image := some img, done := setBit q.done cx true }).pump g)) ∧
    (s.captured g c q = none → exec (.tloadImageArrive g c cx) s = .next
      (s.coreErr g c ((s.coresOf g c).headD 0) 2 0x06 q.pc 0))) ∧
  (∀ (g c cx : Nat) (x : At) (q : QEntry) (s : State), g < 24 → c < 2 → cx < 16 → x = s.at g c cx →
    s.dmaEntry x = some q →
    ((s.serve g c 3 cx).2 = .done ∨ (s.serve g c 3 cx).2 = .waits →
      exec (.dmaRequestComplete g c cx .ok) s = .next ((s.serve g c 3 cx).1.dmaEnded x q.seq)) ∧
    (∀ c' cx' q' k v, (s.serve g c 3 cx).2 = .err c' cx' q' k v →
      exec (.dmaRequestComplete g c cx .ok) s = .next ((s.serve g c 3 cx).1.raiseEnd g c' cx' q' k v)) ∧
    (∀ a, s.readsHost g c q = true → exec (.dmaRequestComplete g c cx (.hostFail a)) s = .next
      (s.opErr x q 0x0A (faultPayload 3 a))) ∧
    (∀ i, exec (.dmaRequestComplete g c cx (.eccUncorr i)) s = .next
      (s.raiseErr { code := 0x10, island := i, job := s.ctxJob g c, pc := q.pc })))

/-! ## The scratchpad and Carousel queues -/

/-- On one clk the banks of a core that is not clearing grant, each at most one of the requests that wait at it or come
now: granted writes change their lines, the lines read stand in the answer, each denied request stays with one more
denial, and the clk is counted (R274 to R277, R296). A lone read answers its line and counts it; a lone Juggler write
changes the bytes it names; of an engine's request and a Juggler's at one bank the engine's is granted, and the
Juggler's starves. An atomic operation replaces the elements it names by their new codes and answers what the line held
(R278, R279), an INT32 add their sum; where a tile step holds the line it waits, counted in `ACC_HOLD_STALL` (R173), and
while the core clears it does nothing (R281). -/
def Obligations.BankAccessesComplete : Prop :=
  (∀ (g cx : Nat) (rs : List BankReq) (ws granted denied : List BankWait) (s u : State), g < 24 → cx < 16 →
    s.clearing g cx = false →
    ws = (s.core g cx).waits ++ (rs.filter bankReqOk).map (fun r => ({ req := r } : BankWait)) →
    granted = s.bankGranted g cx ws → denied = granted.foldl (fun l w => l.erase w) ws →
    u = granted.foldl (fun (t : State) w => t.serveBank g cx w.req) { s with
      mmioData := leNat ((granted.filter (fun w => w.req.write.isNone)).flatMap (fun w => s.spLine g cx w.req.line)) } →
    exec (.bankGrant g cx rs) s = .next ((u.setCore g cx { u.core g cx with
      waits := denied.map (fun w => { w with denied := w.denied + 1 }) }).countBanks g cx granted denied)) ∧
  (∀ (g cx : Nat) (r : BankReq) (s : State), g < 24 → cx < 16 → s.clearing g cx = false → (s.core g cx).waits = [] →
    bankReqOk r = true → r.level ≤ 4 → r.write = none →
    ∃ t, exec (.bankGrant g cx [r]) s = .next t ∧ t.mmioData = leNat (s.spLine g cx r.line) ∧
      t.get (Reg.SP_ENG_LINES.N g cx) = (s.get (Reg.SP_ENG_LINES.N g cx) + 1) % 2 ^ 64 ∧
      (∀ l, t.spLine g cx l = s.spLine g cx l) ∧ t.mem = s.mem ∧ t.host = s.host) ∧
  (∀ (g cx : Nat) (r : BankReq) (bs : List (Nat × Byte)) (s : State), g < 24 → cx < 16 → s.clearing g cx = false →
    (s.core g cx).waits = [] → bankReqOk r = true → r.level = 5 → r.write = some bs → s.lineHeld g cx r.line = false →
    ∃ t, exec (.bankGrant g cx [r]) s = .next t ∧
      t.get (Reg.SP_DMA_LINES.N g cx) = (s.get (Reg.SP_DMA_LINES.N g cx) + 1) % 2 ^ 64 ∧
      (∀ l, l ≠ r.line → t.spLine g cx l = s.spLine g cx l) ∧ t.mem = s.mem ∧ t.host = s.host) ∧
  (∀ (g cx : Nat) (r d : BankReq) (s : State), g < 24 → cx < 16 → s.clearing g cx = false → (s.core g cx).waits = [] →
    bankReqOk r = true → bankReqOk d = true → r.line % 32 = d.line % 32 → r.level ≤ 4 → d.level = 5 →
    r.write = none → d.write = none →
    ∃ t, exec (.bankGrant g cx [d, r]) s = .next t ∧ t.mmioData = leNat (s.spLine g cx r.line) ∧
      (t.core g cx).waits = [⟨d, 1⟩] ∧
      t.get (Reg.SP_DMA_STARVE.N g cx) = (s.get (Reg.SP_DMA_STARVE.N g cx) + 1) % 2 ^ 64 ∧
      t.mem = s.mem ∧ t.host = s.host) ∧
  (∀ (g cx line kind : Nat) (els : List (Nat × Nat)) (s : State), g < 24 → cx < 16 → line < 16384 → kind < 4 →
    els.all (fun e => e.1 < 256 / atomicWidth kind) = true →
    (s.clearing g cx = false → s.lineHeld g cx line = false →
      ∃ t, exec (.atomicOp g cx line kind els) s = .next t ∧
        t.get (Reg.SP_ATOMICS.N g cx) = (s.get (Reg.SP_ATOMICS.N g cx) + 1) % 2 ^ 64 ∧
        t.mem = s.mem ∧ t.host = s.host ∧ (∀ l, l < 16384 → l ≠ line → t.spLine g cx l = s.spLine g cx l)) ∧
    (s.clearing g cx = false → s.lineHeld g cx line = true →
      exec (.atomicOp g cx line kind els) s = .next (s.inc (Reg.ACC_HOLD_STALL.N g cx) 1)) ∧
    (s.clearing g cx = true → exec (.atomicOp g cx line kind els) s = .next s)) ∧
  (∀ (g cx line i v : Nat) (s : State), g < 24 → cx < 16 → line < 16384 → i < 64 →
    s.clearing g cx = false → s.lineHeld g cx line = false →
    ∃ t, exec (.atomicOp g cx line 0 [(i, v)]) s = .next t ∧
      t.mmioData = leNat (((s.spLine g cx line).drop (4 * i)).take 4) ∧
      leNat (((t.spLine g cx line).drop (4 * i)).take 4) =
        (leNat (((s.spLine g cx line).drop (4 * i)).take 4) + v) % 2 ^ 32)

/-- A corrected error of a core's scratchpad counts and sets its event (R280, R294); an uncorrectable one raises
`ECC_UNCORR` to the access's job with the place of the operation that made it, or, met by the background test, to each
job of the core (R280, R594); clearing leaves a core without contents and its tiles as at reset, and is over (R281), and
the words that waited at its island are delivered then, unless something else holds it (R18). The background test takes
a region of an idle core (R282, R283); a region that passes counts, and the next one is the test's; a failing line is
recorded and the core is lost (R284); a `hom` test that fails after a 256th region loses its core, and one that passes
changes nothing (R312). -/
def Obligations.ScratchpadErrorsAndTestsComplete : Prop :=
  (∀ (g cx : Nat) (s : State), g < 24 → cx < 16 →
    exec (.spEccCorrect g cx) s = .next ((s.inc (Reg.SP_CORR.N g cx) 1).put (Reg.SP_STATUS.CORR_EVT g cx) 1)) ∧
  (∀ (g cx j : Nat) (s : State), g < 24 → cx < 16 → j < 8 →
    exec (.spEccUncorr g cx (some j) none) s = .next (s.raiseErr {
      code := 0x10, island := coreIsland g cx, job := some j, unit := 0, troupe := g, core := cx, ofOp := false })) ∧
  (∀ (g cx j c e : Nat) (s : State), g < 24 → cx < 16 → j < 8 → c < 2 → e < 4 →
    exec (.spEccUncorr g cx (some j) (some ⟨g, c, e⟩)) s = .next (s.raiseErr {
      code := 0x10, island := coreIsland g cx, job := some j, unit := e + 1, troupe := g, core := cx, ctxn := c,
      pc := s.opPc (some ⟨g, c, e⟩), ofOp := true })) ∧
  (∀ (g cx : Nat) (s : State), g < 24 → cx < 16 →
    (s.coreJobs g cx = [] → exec (.spEccUncorr g cx none none) s = .next (s.coreFault g cx 0x10 0 none)) ∧
    (s.coreJobs g cx ≠ [] → exec (.spEccUncorr g cx none none) s = .next
      ((s.coreJobs g cx).foldl (fun t j => t.coreFault g cx 0x10 0 (some j)) s))) ∧
  (∀ (g cx : Nat) (s u : State), g < 24 → cx < 16 → u = s.coreClear g cx →
    (u.islandHeld (coreIsland g cx) = true → exec (.coreClear g cx) s = .next u) ∧
    (u.islandHeld (coreIsland g cx) = false → exec (.coreClear g cx) s = .next (u.deliverAll (coreIsland g cx))) ∧
    (∀ a, Tab.get 0 (u.core g cx).sp a = 0) ∧ (u.core g cx).acc = [] ∧ (u.core g cx).lane = [] ∧
    (u.core g cx).weights = [] ∧ (u.core g cx).steps = [] ∧ (∀ k, k < 32 → u.get (Reg.ACC_TILE.HSTEP g cx k) = 8) ∧
    u.get (Reg.SP_STATUS.CLEARING g cx) = 0 ∧ u.mem = s.mem ∧ u.host = s.host) ∧
  (∀ (g cx : Nat) (s : State), g < 24 → cx < 16 → s.pairsFailed = false → s.btOn g cx = true →
    s.get (Reg.SP_STATUS.CLEARING g cx) = 0 →
    s.coreHeld g cx = false → exec (.btRegionStart g cx) s = .next (s.put (Reg.SP_STATUS.BT_ACTIVE g cx) 1)) ∧
  (∀ (g cx : Nat) (s : State), g < 24 → cx < 16 → s.get (Reg.SP_STATUS.BT_ACTIVE g cx) ≠ 0 →
    exec (.btRegionDone g cx none) s = .next (((s.put (Reg.SP_STATUS.BT_ACTIVE g cx) 0).put
      (Reg.SP_STATUS.BT_REGION g cx) (s.get (Reg.SP_STATUS.BT_REGION g cx) + 1)).inc (Reg.SP_BT_REGIONS.N g cx) 1)) ∧
  (∀ (g cx l : Nat) (s : State), g < 24 → cx < 16 → s.get (Reg.SP_STATUS.BT_ACTIVE g cx) ≠ 0 →
    l / 16 = s.get (Reg.SP_STATUS.BT_REGION g cx) →
    exec (.btRegionDone g cx (some l)) s = .next ((((((s.put (Reg.SP_STATUS.BT_ACTIVE g cx) 0).put
      (Reg.SP_STATUS.BT_REGION g cx) (s.get (Reg.SP_STATUS.BT_REGION g cx) + 1)).inc (Reg.SP_BT_REGIONS.N g cx) 1).put
        (Reg.SP_BT_FAIL.LINE g cx) l).put (Reg.SP_STATUS.BT_FAIL_EVT g cx) 1).coreLost g cx)) ∧
  (∀ (g cx : Nat) (s : State), g < 24 → cx < 16 → s.btOn g cx = true → 256 ≤ s.get (Reg.SP_BT_REGIONS.N g cx) →
    exec (.homTest g cx false) s = .next (s.coreLost g cx) ∧ exec (.homTest g cx true) s = .next s)

/-- An enabled queue with room and no open packet opens one behind its put count, and a disabled one drops it (R287);
its packet closes with a length of at most `MAXPKT`, or is cut to it (R287, R288); the front packet pops with its length
word (R289). A backing access that meets a fault raises it afterwards (`settleCq`). The tail moves into a head with room
where nothing lies between the stages, and otherwise a complete burst goes to the backing area; the head fills from the
backing area (R285); a write of the configuration takes effect where its checks pass (R297), and is rejected otherwise.
-/
def Obligations.CarouselQueuesComplete : Prop :=
  (∀ (q : Nat) (s : State), q < cqCount → s.flag (cqFlds q).en = true → s.cqHolds q = false → s.cqRoom q = true →
    exec (.cqAdmit q) s = .next (s.cqAdmit q).settleCq ∧
      ((s.cqAdmit q).cqOf q).opened = some (s.get (cqFlds q).put) ∧ (s.cqAdmit q).get (cqFlds q).opened = 1 ∧
      (s.cqAdmit q).get (cqFlds q).put = (s.get (cqFlds q).put + 8) % 2 ^ 64) ∧
  (∀ (q : Nat) (s : State), q < cqCount → s.flag (cqFlds q).en = false →
    exec (.cqAdmit q) s = .next (s.incSat (cqFlds q).drops 1).settleCq) ∧
  (∀ (q tag p : Nat) (data : List Byte) (s : State), q < cqCount → (s.cqOf q).opened = some p →
    (data.length ≤ s.get (cqFlds q).maxpkt →
      exec (.cqClose q tag data) s = .next (s.cqFinish q p tag false data).settleCq) ∧
    (s.get (cqFlds q).maxpkt < data.length →
      exec (.cqTruncate q tag data) s =
        .next (s.cqFinish q p tag true (data.take (s.get (cqFlds q).maxpkt))).settleCq)) ∧
  (∀ (q : Nat) (s : State), q < cqCount → s.cqReady q = true →
    exec (.cqPop q) s = .next (s.cqAdvance q (8 + roundUp (bits (s.cqFront q) 0 20) 8)) ∧
      (s.cqAdvance q (8 + roundUp (bits (s.cqFront q) 0 20) 8)).get (cqFlds q).get =
        (s.get (cqFlds q).get + 8 + roundUp (bits (s.cqFront q) 0 20) 8) % 2 ^ 64) ∧
  (∀ (q : Nat) (s : State), q < cqCount → (s.cqOf q).spilled < s.get (cqFlds q).put →
    ((s.cqOf q).head = (s.cqOf q).spilled → (s.cqOf q).head < s.get (cqFlds q).get + 4096 →
      exec (.cqSpill q) s = .next (s.cqFill q).settleCq) ∧
    ((s.cqOf q).head ≠ (s.cqOf q).spilled → s.cqNoBack q = false →
      ((s.cqOf q).spilled / 512 + 1) * 512 ≤ s.get (cqFlds q).put →
      exec (.cqSpill q) s = .next (s.cqSpillBurst q).settleCq)) ∧
  (∀ (q : Nat) (s : State), q < cqCount → (s.cqOf q).head < (s.cqOf q).spilled →
    exec (.cqHeadFill q) s = .next (s.cqFill q).settleCq) ∧
  (∀ (q v : Nat) (s : State), q < cqCount → s.Open →
    (s.cqCfgCode q 0 v = 0 → exec (.cqCfgWrite q 0 v) s = .next (((((s.put (cqFlds q).maxpkt (bits v 24 20)).put
      (cqFlds q).sizeLog2 (bits v 12 6)).put (cqFlds q).roll (bits v 2 1)).put (cqFlds q).full (bits v 1 1)).put
        (cqFlds q).en (bits v 0 1))) ∧
    (s.cqCfgCode q 1 v = 0 → exec (.cqCfgWrite q 1 v) s = .next (s.put (cqFlds q).base (bits v 16 36)))) ∧
  (∀ (q w v : Nat) (s : State), q < cqCount → w < 2 → s.Open → s.cqCfgCode q w v ≠ 0 →
    exec (.cqCfgWrite q w v) s = .next (s.reject (s.cqCfgCode q w v) (cqOff q w) (cqJob q)))

/-! ## Showtime -/

/-- The root advances by the rate word through its fractional accumulator (R27). A sync word of at most 16 st spreads
its correction over the next interval, one above 16 st faults the replica, and a faulted replica agrees with the root
again after the next one (R28, R30). Sixteen good offsets lock (R35). A missed exchange counts, and the third in a row
sets `PARENT_LOST` and loses the lock (R33, R35). The pulse output rises as bits [29:0] of the always-on domain's
replica have passed zero, and falls 2^27 st later (R37). An exchange with the parent of less than 2^23 st writes the
filtered offset and delay, ends the run of missed ones and steers by the offset, ±4 ns being good (R32, R35, R46); a
longer one is discarded and counted as missed (R33). An edge of PPS_IN at the System Master steers likewise, ±10 ns
being good (R35, R36), and the first within 1.5 s of a seconds step that waits for it is the step's instant (R38).
Steering against an offset keeps the rate word within ±400 ppm where it lay there, and does not raise it where the
device is ahead nor lower it where it is behind (R27, R36). The loss of PPS_IN or of the 10 MHz reference sets its bit
and loses the lock; the reference regained within ±300 ppm sets the rate word by it (R35, R36). -/
def Obligations.ShowtimeComplete : Prop :=
  (∀ s : State, exec .showtimeRootTick s = .next s.rootTick ∧
    s.rootTick.time.root = (s.time.root + (s.time.frac + s.get Reg.ST_RATE.RATE) / 2 ^ 32) % 2 ^ 64 ∧
    s.rootTick.time.frac = (s.time.frac + s.get Reg.ST_RATE.RATE) % 2 ^ 32 ∧
    s.rootTick.time.dev = s.time.dev ∧ s.rootTick.regs = s.regs ∧ s.rootTick.mem = s.mem) ∧
  (∀ (i : Nat) (k : Int) (s u : State), i < 543 →
    (i ∉ s.time.faulted → k.natAbs ≤ 16 → exec (.syncWord i k) s = .next (s.slewReplica i k).freezePassed) ∧
    (i ∉ s.time.faulted → 16 < k.natAbs →
      exec (.syncWord i k) s = .next ((s.jumpReplica i (-k)).replicaFaults i).freezePassed) ∧
    (i ∈ s.time.faulted → u = s.jumpReplica i 0 →
      exec (.syncWord i k) s = .next ({ u with time := { u.time with
        faulted := u.time.faulted.filter (· ≠ i) } } : State).freezePassed)) ∧
  (∀ (i : Nat) (b : Bool) (s : State), i < 543 → exec (.replicaFault i b) s = .next (s.replicaFaults i)) ∧
  (∀ s : State, s.lockState = 1 → 16 ≤ s.time.good → exec .lockAcquired s = .next (s.setLock 2)) ∧
  (∀ s u : State, s.get Reg.ST_CTRL.ROLE = 1 → s.time.parent.isSome = true →
    u = { s with time := { s.time with missed := s.time.missed + 1 } } →
    (s.time.missed < 2 → exec .timeExchangeMissed s = .next u) ∧
    (2 ≤ s.time.missed → exec .timeExchangeMissed s = .next (u.put Reg.ST_STATUS.PARENT_LOST 1).loseLock)) ∧
  (∀ s : State, s.get Reg.ST_CTRL.PPS_OUT_EN = 1 → s.stamp 541 % 2 ^ 30 < ppsReach →
    exec .ppsOutHigh s = .next { s with time := { s.time with
      ppsOut := true, ppsRise := s.stamp 541 / 2 ^ 30 * 2 ^ 30 } }) ∧
  (∀ s : State, s.time.ppsOut = true → s.time.ppsRise + 2 ^ 27 ≤ s.stamp 541 →
    exec .ppsOutLow s = .next { s with time := { s.time with ppsOut := false } }) ∧
  (∀ (t1 t2 t3 t4 : Nat) (s u : State), s.get Reg.ST_CTRL.ROLE = 1 → s.time.parent.isSome = true →
    ((t4 % 2 ^ 24 + 2 ^ 24 - t1 % 2 ^ 24) % 2 ^ 24 < 2 ^ 23 →
      u = { s with time := { s.time with
        delays := pushFilter s.time.delays (exchDelay t1 t2 t3 t4), missed := 0 } } →
      exec (.timeExchange t1 t2 t3 t4) s = .next (((u.put Reg.ST_OFS.OFFSET
        (unsigned 32 (meanOf (pushFilter s.time.offsets (exchOffset t1 t2 t3 t4))))).put Reg.ST_OFS.DELAY
          (unsigned 32 (meanOf (pushFilter s.time.delays (exchDelay t1 t2 t3 t4))))).takeOffset
            (exchOffset t1 t2 t3 t4) 68)) ∧
    (2 ^ 23 ≤ (t4 % 2 ^ 24 + 2 ^ 24 - t1 % 2 ^ 24) % 2 ^ 24 →
      exec (.timeExchange t1 t2 t3 t4) s = .next s.missExchange)) ∧
  (∀ (st : Nat) (s : State), s.isSystemMaster = true → s.get Reg.ST_CTRL.PPS_EN = 1 →
    ((s.time.stepPps = true ∧ s.time.stepEdge = none ∧ s.time.root ≤ s.time.stepStamp + 3 * 2 ^ 29) →
      exec (.ppsInEdge st) s = .next (({ s with time := { s.time with stepEdge := some s.time.root } } : State).takeOffset
        (16 * secondOffset st) 171)) ∧
    (¬ (s.time.stepPps = true ∧ s.time.stepEdge = none ∧ s.time.root ≤ s.time.stepStamp + 3 * 2 ^ 29) →
      exec (.ppsInEdge st) s = .next (s.takeOffset (16 * secondOffset st) 171))) ∧
  (∀ (o : Int) (s : State), rateNominal - rateSlew ≤ s.get Reg.ST_RATE.RATE →
    s.get Reg.ST_RATE.RATE ≤ rateNominal + rateSlew →
    rateNominal - rateSlew ≤ (s.steerRate o).get Reg.ST_RATE.RATE ∧
      (s.steerRate o).get Reg.ST_RATE.RATE ≤ rateNominal + rateSlew ∧
      (0 < o → (s.steerRate o).get Reg.ST_RATE.RATE ≤ s.get Reg.ST_RATE.RATE) ∧
      (o < 0 → s.get Reg.ST_RATE.RATE ≤ (s.steerRate o).get Reg.ST_RATE.RATE)) ∧
  (∀ s : State, s.isSystemMaster = true → s.get Reg.ST_CTRL.PPS_EN = 1 →
    exec .ppsLost s = .next (s.put Reg.ST_STATUS.PPS_LOST 1).loseLock) ∧
  (∀ (n : Nat) (s : State), s.isSystemMaster = true → s.get Reg.ST_CTRL.TREF_EN = 1 →
    exec .trefLost s = .next (s.put Reg.ST_STATUS.TREF_LOST 1).loseLock ∧
    (trefOk n = true → exec (.tref10mRegained n) s = .next (s.reacquire.put Reg.ST_RATE.RATE (trefRate n))) ∧
    (trefOk n = false → exec (.tref10mRegained n) s = .next s))

/-- A write of `ST_SET_SEC` that its checks accept stages the step and, unless a PPS_IN edge is awaited, sends its
notice down the time tree; any other is rejected (R38). From the step's instant on it applies, at a member by the notice
it was sent: the root's count becomes the new whole second with what has passed since the instant, where that is ahead,
and `STEP_DONE` is set (R38). `ST_SNAP_CTRL` arms a snapshot where its checks pass and is rejected otherwise (R39); each
island whose replica has reached T latches its counters once, as they stood when it reached T (R40); when all have, the
snapshot is done with `SEQ` one higher (R41). -/
def Obligations.StepsAndSnapshotsComplete : Prop :=
  (∀ (v : Nat) (pps : Bool) (s u : State), s.Open → pps = (s.flag Reg.ST_CTRL.PPS_EN && !s.flag Reg.ST_STATUS.PPS_LOST) →
    u = { s.bumpFree with time := { s.time with
      step := some (bits v 0 34), stepPps := pps, stepStamp := s.time.root, stepEdge := none } } →
    (s.setSecCode (bits v 0 34) = 0 → pps = true → exec (.stSetSec v) s = .next u) ∧
    (s.setSecCode (bits v 0 34) = 0 → pps = false →
      exec (.stSetSec v) s = .next (u.sendNotice (bits v 0 34) u.stepInstant)) ∧
    (s.setSecCode (bits v 0 34) ≠ 0 →
      exec (.stSetSec v) s = .next (s.bumpFree.reject (s.setSecCode (bits v 0 34)) 0x200020 none))) ∧
  (∀ (sec : Nat) (s : State), s.time.step = some sec →
    (s.time.root < s.stepInstant → exec (.secondsStepApply none) s = .next s) ∧
    (s.stepInstant ≤ s.time.root → s.time.stepPps = true →
      exec (.secondsStepApply none) s = .next ((s.sendNotice sec s.stepInstant).applyStep sec s.stepInstant)) ∧
    (s.stepInstant ≤ s.time.root → s.time.stepPps = false →
      exec (.secondsStepApply none) s = .next (s.applyStep sec s.stepInstant))) ∧
  (∀ (sec at_ : Nat) (s : State), s.get Reg.ST_CTRL.ROLE = 1 → at_ ≤ s.time.root →
    exec (.secondsStepApply (some (sec, at_))) s = .next (s.applyStep (sec % 2 ^ 34) at_)) ∧
  (∀ (sec at_ : Nat) (s : State), (s.applyStep sec at_).time.step = none ∧
    (s.applyStep sec at_).get Reg.ST_STATUS.STEP_DONE = 1 ∧
    (s.time.root < 2 ^ 30 * sec + (s.time.root - at_) → 2 ^ 30 * sec + (s.time.root - at_) < 2 ^ 64 →
      (s.applyStep sec at_).time.root = 2 ^ 30 * sec + (s.time.root - at_)) ∧
    (2 ^ 30 * sec + (s.time.root - at_) ≤ s.time.root → (s.applyStep sec at_).time.root = s.time.root)) ∧
  (∀ s u : State, s.Open → u = (s.put Reg.ST_SNAP_CTRL.ARMED 1).put Reg.ST_SNAP_CTRL.DONE 0 →
    (s.snapCtrlCode 1 = 0 → exec .stSnapArm s = .next ({ u with time := { s.time with
      latched := [], frozen := [], armFault := !s.time.faulted.isEmpty } } : State).freezePassed) ∧
    (s.snapCtrlCode 1 ≠ 0 → exec .stSnapArm s = .next (s.reject (s.snapCtrlCode 1) 0x200048 none))) ∧
  (∀ (i : Nat) (src : Tab Nat × Tab Nat) (s u v : State), i < 543 → s.get Reg.ST_SNAP_CTRL.ARMED = 1 →
    s.get Reg.ST_SNAP_T.T ≤ s.stamp i → i ∉ s.time.latched →
    src = (Tab.get none s.time.frozen i).getD (s.regs, s.spotter) →
    u = (islandShadows i).foldl (fun (t : State) r => t.latchRun src.1 (s.islandGone i) r) s →
    v = (if i = 522 then u.latchSpotter src.2 else u) →
    exec (.snapshotLatch i) s = .next { v with time := { v.time with
      latched := v.time.latched ++ [i], frozen := Tab.set none v.time.frozen i none } }) ∧
  (∀ s : State, s.get Reg.ST_SNAP_CTRL.ARMED = 1 → s.time.latched.length = 543 →
    exec .snapshotDone s = .next ((((s.put Reg.ST_SNAP_CTRL.DONE 1).put Reg.ST_SNAP_CTRL.ARMED 0).inc
      Reg.ST_SNAP_CTRL.SEQ 1).put Reg.ST_SNAP_CTRL.INCOMPLETE (ofBool s.time.armFault)))

/-- None of these commands lowers an island's replica (R28): the root's tick short of the wrap, with every correction in
progress within the ±4 st of R28's bound; a sync word, whatever its correction; a fault of a replica. Through the root's
tick, a sync word and a fault of a replica, every replica that has not faulted stays within ±2 st of the root's count
(R28). -/
def Obligations.ReplicasStayCloseAndNeverDecrease : Prop :=
  (∀ (k : Nat) (s t : State), s.time.Close →
    (s.time.root + (s.time.frac + s.get Reg.ST_RATE.RATE) / 2 ^ 32 < 2 ^ 63 → k ∉ s.time.faulted →
      exec .showtimeRootTick s = .next t → s.stamp k ≤ t.stamp k) ∧
    (∀ i c, exec (.syncWord i c) s = .next t → s.stamp k ≤ t.stamp k) ∧
    (∀ i b, exec (.replicaFault i b) s = .next t → s.stamp k ≤ t.stamp k)) ∧
  (∀ (s t : State) (c : Instr), s.time.Close →
    (c = .showtimeRootTick ∨ (∃ i k, c = .syncWord i k) ∨ ∃ i b, c = .replicaFault i b) → exec c s = .next t →
    t.time.Close ∧ ∀ k, k ∉ t.time.faulted → -2 ≤ t.time.effDev k ∧ t.time.effDev k ≤ 2)

/-! ## Islands -/

/-- A crossing timeout discards the words that wait at its island and raises `HW_TIMEOUT` (R19), for a core, a
Ringmaster or another island, each with its place (R594). A module of a die-to-die link retires once, as a corrected
event with what remains (R12). A lost link stays lost, and each job with a transfer on it raises `LINK_LOST` (R15); a
link that is already lost changes nothing. -/
def Obligations.IslandEventsComplete : Prop :=
  (∀ (i : Nat) (job : Option Nat) (op : Option OpRef) (s : State), i < 543 → job.all (· < 8) = true → opRefOk op = true →
    exec (.crossingTimeout i job op) s = .next ((s.setCrossing i []).islandFault i 0x14 0 job op) ∧
      (s.setCrossing i []).crossing i = [] ∧
      (i < 384 → (s.setCrossing i []).islandFault i 0x14 0 job op =
        (s.setCrossing i []).coreFault (i / 16) (i % 16) 0x14 0 job op) ∧
      (408 ≤ i → (s.setCrossing i []).islandFault i 0x14 0 job op = (s.setCrossing i []).raiseErr {
        code := 0x14, island := i, job := job, pc := (s.setCrossing i []).opPc op })) ∧
  (∀ (l m : Nat) (s : State), l < 14 → m < linkModules l →
    (bit (Tab.get 0 s.links l) m = false →
      exec (.ucieModuleRetire l m) s = .next (({ s with
        links := Tab.set 0 s.links l (setBit (Tab.get 0 s.links l) m true) } : State).corrected (linkIsland l) 0x0124
          (l + 2 ^ 8 * m + 2 ^ 16 * (linkModules l -
            popCount (linkModules l) (setBit (Tab.get 0 s.links l) m true))))) ∧
    (bit (Tab.get 0 s.links l) m = true → exec (.ucieModuleRetire l m) s = .next s)) ∧
  (∀ (l jobs : Nat) (s : State), l < 14 →
    (l ∉ s.linksLost → exec (.dieLinkLost l jobs) s = .next
      (((List.range 8).filter (s.jobUsesLink l jobs)).foldl
        (fun (t : State) j => t.islandFault (linkIsland l) 0x12 0 (some j) (s.linkOp l j))
        { s with linksLost := s.linksLost ++ [l] })) ∧
    (l ∈ s.linksLost → exec (.dieLinkLost l jobs) s = .next s))

/-! ## Device memory -/

/-- A page operation whose checks pass starts at once (R331, R332): MAP gives the page its frame, which is the job's
afterwards; MIGRATE begins with zero-fill of a `DIRTY` target; UNMAP and SET_MIRROR wait for their end; RETIRE_FRAME
retires a free frame, RETIRE_STACK loses the stack, CTR_FLUSH empties the cached counts. One that fails a check is
rejected. A migration goes from zero-fill to COPY, from COPY to SETTLE, whose passes copy the granules written since
again, up to three while more than four are dirty, and then to SWITCH (R333); a page operation that is ready makes its
entry changes and completes with code 0 (R332). Neither goes on while the control pairs have failed (R425). -/
def Obligations.PageOperationsComplete : Prop :=
  (∀ (j vpn arg : Nat) (s : State), s.Open → j = s.get Reg.MEM_OP_ARG0.JOB → vpn = s.get Reg.MEM_OP_ARG0.VPN →
    arg = s.get Reg.MEM_OP_ARG1.W →
    (s.pageOpCode 1 j vpn arg false = 0 → exec .map s = .next (s.startPageOp 1 j vpn arg none)) ∧
    (s.pageOpCode 2 j vpn arg false = 0 → exec .unmap s = .next (({ s with pageOp := some {
      op := 2, job := j, vpn := vpn, arg1 := arg, oldDfn := ((s.pte j vpn).getD ⟨0, 0⟩).live, newDfn := (Pte.mk arg 0).live } } : State).put
        Reg.MEM_OP_STATUS.BUSY 1)) ∧
    (s.pageOpCode 3 j vpn arg false = 0 → exec .migrate s = .next (s.startPageOp 3 j vpn arg none)) ∧
    (s.pageOpCode 4 j vpn arg false = 0 → exec .setMirror s = .next (s.startPageOp 4 j vpn arg none)) ∧
    (s.pageOpCode 5 j vpn arg false = 0 → exec .retireFrame s = .next (s.startPageOp 5 j vpn arg none)) ∧
    (s.pageOpCode 6 j vpn arg false = 0 → exec .retireStack s = .next (s.startPageOp 6 j vpn arg none)) ∧
    (s.pageOpCode 7 j vpn arg false = 0 → exec .ctrFlush s = .next (s.startPageOp 7 j vpn arg none))) ∧
  (∀ (j vpn arg d : Nat) (s : State), j < 8 → (Pte.mk arg 0).live = d → (Pte.mk arg 0).mv = false → s.frameLost d = false →
    (s.startPageOp 1 j vpn arg none).ownerOf d = j ∧ (s.startPageOp 1 j vpn arg none).get Reg.MEM_OP_STATUS.BUSY = 1 ∧
      (∀ a, a / 2 ^ 21 ≠ d → (s.startPageOp 1 j vpn arg none).memByte a = s.memByte a) ∧
      (s.ownerOf d = 0xE → ∀ a, a / 2 ^ 21 = d → (s.startPageOp 1 j vpn arg none).memByte a = 0)) ∧
  (∀ (op : Nat) (i : Instr) (s : State), s.Open →
    (op, i) ∈ [(1, Instr.map), (2, .unmap), (3, .migrate), (4, .setMirror), (5, .retireFrame), (6, .retireStack),
      (7, .ctrFlush)] →
    s.pageOpCode op (s.get Reg.MEM_OP_ARG0.JOB) (s.get Reg.MEM_OP_ARG0.VPN) (s.get Reg.MEM_OP_ARG1.W) false ≠ 0 →
    exec i s = .next (s.reject (s.pageOpCode op (s.get Reg.MEM_OP_ARG0.JOB) (s.get Reg.MEM_OP_ARG0.VPN)
      (s.get Reg.MEM_OP_ARG1.W) false) 0xC00010 (if op = 5 ∨ op = 6 then none else some (s.get Reg.MEM_OP_ARG0.JOB)))) ∧
  (∀ (o : PageOp) (s : State), s.pageOp = some o → o.op = 3 → s.pairsFailed = false →
    (o.phase = 1 → exec .migratePhaseDone s = .next (s.beginCopy o)) ∧
    (o.phase = 2 → exec .migratePhaseDone s = .next (s.setPhase o 3)) ∧
    (o.phase = 3 → (popCount 32 o.dirty ≤ 4 ∨ 3 ≤ o.passes) → exec .migratePhaseDone s = .next (s.setPhase o 4)) ∧
    (o.phase = 3 → 4 < popCount 32 o.dirty → o.passes < 3 → exec .migratePhaseDone s = .next
      ((s.copyGranules o.oldDfn o.newDfn o.dirty).setPhase { o with dirty := 0, passes := o.passes + 1 } 3))) ∧
  (∀ (o : PageOp) (s u : State), u = s.setPhase { o with dirty := 0, passes := 0 } 2 → u.jobState o.job ≠ 3 →
    s.get (Reg.SN_JOB_STATUS.PHASE o.job) = 0 ∨ s.get (Reg.SN_JOB_STATUS.PHASE o.job) = 5 →
    s.beginCopy o = u.copyMem (2 ^ 21 * o.oldDfn) (2 ^ 21 * o.newDfn) (2 ^ 21)) ∧
  (∀ (o : PageOp) (s : State), s.pageOp = some o → o.ready = true → s.pairsFailed = false →
    exec .pageOpDone s = .next ((s.commitPageOp o).endPageOp o 0) ∧
      (o.entry = none → ((s.commitPageOp o).endPageOp o 0).pageOp = none ∧
        ((s.commitPageOp o).endPageOp o 0).get Reg.MEM_OP_STATUS.CODE = 0 ∧
        ((s.commitPageOp o).endPageOp o 0).get Reg.MEM_OP_STATUS.BUSY = 0 ∧
        ((s.commitPageOp o).endPageOp o 0).get Reg.MEM_OP_STATUS.DONE_EVT = 1)) ∧
  (∀ s : State, s.pairsFailed = true → exec .migratePhaseDone s = .next s ∧ exec .pageOpDone s = .next s)

/-- A translation that is allowed answers the device physical address of the access and counts it (R329, R335): of a
write the page's live frame, of a read the frame that R399 names, from the secondary table copy where the primary cannot
be read (R327). One that is not raises the access's code at the Ring: `PAGE_FAULT` where the page is not valid or a
write meets `RO`, with the address (R325, R329). A `DIRTY` frame that is zero-filled is `CLEAN` and reads as zero
(R330); the scrub and the refreshes change nothing that a command sees (R336, R337, R342). A corrected error counts at
its stack or channel and is traced (R338, R380); an uncorrectable one in a free frame of a stack retires the frame and
raises `ECC_UNCORR` (R339); the loss of a stack or a channel is taken once, a stack's with its retired bit and event
where no job has pages (R340, R343). An ALERT retry counts for its command and is traced, and after eight failed retries
of one command the next is uncorrectable (R338, R342). -/
def Obligations.TranslationFramesAndErrorsComplete : Prop :=
  (∀ (j r va n : Nat) (bad : Bool) (p : Pte) (s : State), j < 8 → r < 4 → va < 2 ^ 52 → 1 ≤ n →
    bits va 0 21 + n ≤ 2 ^ 21 → s.pte j (bits va 21 31) bad = some p → s.accessCode j va true bad = 0 →
    exec (.translation j r va n true bad) s = .next
      ({ s.countAccess r j va n with mmioData := 2 ^ 21 * p.live + bits va 0 21 } : State)) ∧
  (∀ (j r va n a : Nat) (bad : Bool) (s : State), j < 8 → r < 4 → va < 2 ^ 52 → 1 ≤ n → bits va 0 21 + n ≤ 2 ^ 21 →
    s.readAddr j va bad = some a →
    exec (.translation j r va n false bad) s = .next ({ s.countAccess r j va n with mmioData := a } : State)) ∧
  (∀ (j r va n : Nat) (wr bad : Bool) (s : State), j < 8 → r < 4 → va < 2 ^ 52 → 1 ≤ n → bits va 0 21 + n ≤ 2 ^ 21 →
    s.accessCode j va wr bad ≠ 0 →
    exec (.translation j r va n wr bad) s = .next (s.raiseErr {
      code := s.accessCode j va wr bad, island := ringIsland r, job := some j,
      payload := if s.accessCode j va wr bad = 0x0A then faultPayload 0 va else 0 })) ∧
  (∀ (j va : Nat) (bad : Bool) (p : Pte) (s : State), s.pte j (bits va 21 31) bad = some p →
    (p.v = false → ∀ wr, s.accessCode j va wr bad = 0x0A) ∧ (p.ro = true → s.accessCode j va true bad = 0x0A) ∧
    (p.v = true → p.ro = false → va < 2 ^ 52 → s.frameExists p.live = true → ∀ wr, s.accessCode j va wr bad = 0)) ∧
  (∀ (d : Nat) (s : State), s.frameExists d = true → s.frameLost d = false → s.ownerOf d = 0xE → s.pairsFailed = false →
    ∃ t, exec (.zeroFill d) s = .next t ∧ t.ownerOf d = 0xF ∧
      (∀ a, a / 2 ^ 21 = d → t.memByte a = 0) ∧ (∀ a, a / 2 ^ 21 ≠ d → t.memByte a = s.memByte a)) ∧
  (∀ (d n : Nat) (s : State), (s.frameExists d = true → exec (.patrolScrub d) s = .next s) ∧
    (n < 24 → exec (.hbmRefresh n) s = .next s) ∧ (n < 8 → exec (.ddr5Refresh n) s = .next s)) ∧
  (∀ (d dev off : Nat) (s : State), s.frameExists d = true → off < 2 ^ 21 →
    exec (.memCorrectedError d dev off) s = .next ((s.inc (ceFld d) 1).corrected (frameIsland d)
      (if isDdr d then 0x0121 else 0x0120) (memPayload d dev off))) ∧
  (∀ (d dev off : Nat) (s : State), s.frameExists d = true → off < 2 ^ 21 → isDdr d = false → s.ownerOf d = 0xF →
    s.frameLost d = false → s.memErrs = [] → s.pageOp = none →
    ∃ t, exec (.memUncorrectable d dev off none none) s = .next t ∧ t.ownerOf d = 0xC ∧
      t.get (Reg.ERR_CNT.N 0x10) = (s.get (Reg.ERR_CNT.N 0x10) + 1) % 2 ^ 48) ∧
  (∀ (n : Nat) (s : State), n < 24 →
    (bit (s.get Reg.MEM_HBM_STATUS.RETIRED) n = false → exec (.stackLost n) s = .next (s.loseStack n) ∧
      ((∀ j, j < 8 → s.jobPages j = []) → bit ((s.loseStack n).get Reg.MEM_HBM_STATUS.RETIRED) n = true ∧
        (s.loseStack n).get Reg.MEM_HBM_STATUS.LOST_EVT = 1)) ∧
    (bit (s.get Reg.MEM_HBM_STATUS.RETIRED) n = true → exec (.stackLost n) s = .next s)) ∧
  (∀ (n : Nat) (s : State), n < 8 →
    exec (.ddrChannelLost n) s = .next (s.loseChannel n) ∧
    (bit (s.get Reg.MEM_DDR_STATUS.RETIRED) n = true → exec (.ddrChannelLost n) s = .next s)) ∧
  (∀ (ch cmd d dev off : Nat) (job : Option Nat) (op : Option OpRef) (s : State), ch < 8 → s.frameExists d = true →
    isDdr d = true → ddrChannel d = ch → off < 2 ^ 21 → job.all (· < 8) = true → opRefOk op = true →
    (Tab.get 0 s.alerts (8 * cmd + ch) < 8 → exec (.ddrAlertRetry ch cmd d dev off job op) s = .next ((({ s with
      alerts := Tab.set 0 s.alerts (8 * cmd + ch) (Tab.get 0 s.alerts (8 * cmd + ch) + 1) } : State).inc
        (Reg.DDR_CE.N ch) 1).corrected (524 + ch) 0x0123 (memPayload d dev off))) ∧
    (8 ≤ Tab.get 0 s.alerts (8 * cmd + ch) → exec (.ddrAlertRetry ch cmd d dev off job op) s = .next (({ s with
      alerts := Tab.set 0 s.alerts (8 * cmd + ch) 0 } : State).memUncorr d dev off job op)))

/-! ## The Safety Net -/

/-- A requested Curtain waits for its arming, and a refused request is rejected (R418); the Safety Net requests its own
once `MAX_MS` has passed (R418). Where it may begin, the Curtain is armed: phase 1, its request gone, the coordinator of
a cascade job telling the parts (R403, R404), and a part arms the one whose ARM it deferred. At T it is QUIESCING, or
given up by a part of a cascade job that is not LOCKED (R404, R406). A local job that is quiesced is READY (R404). The
coordinator names T_c (R404), at which the queues are flushed and the Curtain commits: both epochs step, `INCOMPLETE`
clears, it counts and is in phase 5 (R292, R397, R405); a flush that meets a fault raises it instead. A Curtain in
ARMED, QUIESCING or READY is abandoned, a local one with its count and event (R406). -/
def Obligations.CurtainsComplete : Prop :=
  (∀ (j tm : Nat) (s : State), j < 8 → s.Open → s.snReqCode j (tm % 2 ^ 64) = 0 →
    exec (.snReq j tm) s = .next (s.setSn j { s.snOf j with req := some (s.clampT j (tm % 2 ^ 64)) })) ∧
  (∀ (j tm : Nat) (s : State), j < 8 → s.Open → s.snReqCode j (tm % 2 ^ 64) ≠ 0 →
    exec (.snReq j tm) s = .next (s.reject (s.snReqCode j (tm % 2 ^ 64)) (0x500008 + j * 0x10000) (some j))) ∧
  (∀ (j : Nat) (s : State), j < 8 → s.maxDue j = true →
    exec (.curtainMaxInterval j) s = .next (s.setSn j { s.snOf j with req := some (s.clampT j (s.netNow + 2 ^ 20)) })) ∧
  (∀ (j tm : Nat) (s : State), j < 8 → s.pairsFailed = false → s.curtainMay j = true →
    ((s.snOf j).armDue = some tm → exec (.curtainArm j) s = .next (s.armPart j tm)) ∧
    ((s.snOf j).armDue = none → (s.snOf j).req = some tm → s.coordinates j = true →
      exec (.curtainArm j) s = .next ((s.tellParts j 1 tm).armPart j tm)) ∧
    ((s.armPart j tm).phase j = 1 ∧ ((s.armPart j tm).snOf j).t = tm ∧ ((s.armPart j tm).snOf j).req = none)) ∧
  (∀ (j : Nat) (s : State), j < 8 → s.jobState j = 2 → s.phase j = 1 → (s.snOf j).t ≤ s.netNow →
    (s.group j = 0 ∨ s.lockState = 2 →
      exec (.curtainTReached j) s = .next (s.put (Reg.SN_JOB_STATUS.PHASE j) 2)) ∧
    (s.group j ≠ 0 → s.lockState ≠ 2 → exec (.curtainTReached j) s = .next (s.giveUpCurtain j))) ∧
  (∀ (j : Nat) (s : State), j < 8 → s.pairsFailed = false → s.jobState j = 2 → s.phase j = 2 → s.group j = 0 →
    s.quiesced j = true → Tab.get 0 s.glOut j = 0 →
    ∃ t, exec (.curtainReady j) s = .next t ∧ t.phase j = 3 ∧ (t.snOf j).readyAt = some s.netNow ∧ t.mem = s.mem ∧
      t.cores = s.cores ∧ t.queues = s.queues) ∧
  (∀ (j tc : Nat) (s u : State), j < 8 → s.mayCommit j tc = true →
    u = ((s.tellParts j 3 tc).setSn j { s.snOf j with tc := tc }).put (Reg.SN_JOB_STATUS.PHASE j) 4 → u.netNow < tc →
    exec (.curtainCommit j tc) s = .next u) ∧
  (∀ (j tc tc' : Nat) (s u : State), j < 8 → s.jobState j = 2 → s.phase j = 4 → (s.snOf j).tc = tc → tc ≤ s.netNow →
    u = s.flushQueues j →
    (u.cqFault = none → exec (.curtainCommit j tc') s = .next (u.commitCurtain j tc)) ∧
    (u.cqFault ≠ none → exec (.curtainCommit j tc') s = .next u.settleCq)) ∧
  (∀ (j tc : Nat) (s : State), j < 8 → (∀ u ∈ s.loaderUses j, u.2.1 ≤ 8) → s.flag (Reg.SN_CFG.BUDDY j) = false →
    (s.commitCurtain j tc).phase j = 5 ∧ (s.commitCurtain j tc).get (Reg.SN_LAST_T.T j) = tc % 2 ^ 64 ∧
      (s.commitCurtain j tc).get (Reg.SN_COMMITS.N j) = (s.get (Reg.SN_COMMITS.N j) + 1) % 2 ^ 64 ∧
      (s.commitCurtain j tc).get (Reg.SN_EPOCH.CUR j) = (s.get (Reg.SN_EPOCH.CUR j) + 1) % 2 ^ 16 ∧
      (s.commitCurtain j tc).get (Reg.SN_EPOCH.BASE j) = (s.get (Reg.SN_EPOCH.CUR j) + 1) % 2 ^ 16 ∧
      (s.commitCurtain j tc).get (Reg.SN_JOB_STATUS.INCOMPLETE j) = 0) ∧
  (∀ (j : Nat) (s : State), j < 8 → s.pairsFailed = false → s.jobState j = 2 → 1 ≤ s.phase j → s.phase j ≤ 3 →
    exec (.curtainAbandon j) s = .next (s.giveUpCurtain j) ∧
    (s.group j = 0 → (s.snOf j).heldAdds = [] → (s.giveUpCurtain j).phase j = 0 ∧
      (s.giveUpCurtain j).get (Reg.SN_JOB_STATUS.ABANDON_EVT j) = 1 ∧
      (s.giveUpCurtain j).get (Reg.SN_ABANDONS.N j) = (s.get (Reg.SN_ABANDONS.N j) + 1) % 2 ^ 64 ∧
      (s.giveUpCurtain j).mem = s.mem ∧ (s.giveUpCurtain j).host = s.host))

/-- While the control pairs have not failed: the mirror engine serves the next page of the drain log (R410, R411), of an
old pending page copying the `TOUCH` granules to its mirror and to the buddy, with `TOUCH` 0 after it (R401, R413); a
securing whose log is empty and whose buddy owes nothing ends in phase 0, with its event unless it was the copy that
START begins (R410, R411, R413); an acknowledgement of the buddy counts one down (R413); the walk notes the epoch it was
made in and leaves the registers (R412). Before a write reaches a granule of a protected page, the page's `TOUCH` holds
that granule alone, under the present epoch, if the page was SECURED; a CURRENT page gains it; an old pending page is
first copied to its mirror, and its granules counted (R400). -/
def Obligations.SecuringAndTouchingComplete : Prop :=
  (∀ (j v : Nat) (rest : List Nat) (s : State), j < 8 → (s.snOf j).drain = v :: rest → s.pairsFailed = false →
    exec (.mirrorEngineStep j) s = .next ((s.setSn j { s.snOf j with drain := rest }).mirrorPage j v)) ∧
  (∀ (j v : Nat) (p : Pte) (s : State), j < 8 → s.pte j v = some p → p.v = true → p.prot = true → p.mv = true →
    (s.snOf j).wholeCopy = false → s.pageState j p = .pending →
    s.mirrorPage j v = ((s.copyGranules p.live p.mirror p.touch).setPte j v ⟨p.w0, mkW1 p.epoch p.acc 0⟩).granulesToBuddy
      j v p.live p.touch) ∧
  (∀ (j : Nat) (s : State), j < 8 → s.pairsFailed = false → s.phase j = 5 → (s.snOf j).drain = [] → (s.snOf j).owed = 0 →
    ∃ t, exec (.curtainSecured j) s = .next t ∧ t.phase j = 0 ∧ t.mem = s.mem ∧
      ((s.snOf j).wholeCopy = false → t.get (Reg.SN_JOB_STATUS.SECURED_EVT j) = 1) ∧
      ((s.snOf j).wholeCopy = true →
        t.get (Reg.SN_JOB_STATUS.SECURED_EVT j) = s.get (Reg.SN_JOB_STATUS.SECURED_EVT j))) ∧
  (∀ (j : Nat) (s : State), j < 8 → s.pairsFailed = false →
    exec (.buddyAck j) s = .next (s.setSn j { s.snOf j with owed := (s.snOf j).owed - 1 })) ∧
  (∀ (j : Nat) (s : State), j < 8 → s.pairsFailed = false → ∃ t, exec (.epochWalk j) s = .next t ∧
    (t.snOf j).walkEpoch = s.get (Reg.SN_EPOCH.CUR j) ∧ t.cores = s.cores ∧ t.host = s.host) ∧
  (∀ (j va : Nat) (p : Pte) (s : State), j < 8 → va < 2 ^ 52 → s.pairsFailed = false →
    s.pte j (bits va 21 31) = some p → p.v = true → p.ro = false → p.prot = true → p.mv = true →
    (s.pageState j p = .secured →
      exec (.protectedWrite j va) s = .next ((s.setPte j (bits va 21 31) ⟨p.w0, mkW1 (s.get (Reg.SN_EPOCH.CUR j)) p.acc
        (2 ^ (bits va 0 21 / 65536))⟩).logFill j (bits va 21 31))) ∧
    (s.pageState j p = .current → bit p.touch (bits va 0 21 / 65536) = false →
      exec (.protectedWrite j va) s = .next (s.setPte j (bits va 21 31) ⟨p.w0, mkW1 p.epoch p.acc
        (setBit p.touch (bits va 0 21 / 65536) true)⟩)) ∧
    (s.pageState j p = .pending →
      exec (.protectedWrite j va) s = .next ((((s.copyGranules p.live p.mirror p.touch).inc (Reg.SN_COW_GRANULES.N j)
        (popCount 32 p.touch)).setPte j (bits va 21 31) ⟨p.w0, mkW1 (s.get (Reg.SN_EPOCH.CUR j)) p.acc
          (2 ^ (bits va 0 21 / 65536))⟩).logFill j (bits va 21 31))))

/-- A fault charged to a job raises its code at its island (R377); a core that raises `CORE_LOST` is retired first
(R420). A restore whose record stands, with no migration in SWITCH and no recovery to wait for, reloads the record, and
the job is RUNNING again with its count and its event, any fault met in refilling its queues raised after it (R414,
R334, R426). Resolving serves its next page, and ends where none is left (R416). A lockstep fault of the active pair is
raised with its event, and hands over to a standby pair that is fit (R424). When the control pairs are lost the Net
Keeper acts: `RCV_STATUS` is 1, the stacks refresh themselves, and every running job is RESTORING (R425). RELOAD
restarts the pairs where the firmware verifies and else gives its code, RESUME restores every job that waits, and either
is rejected in another state (R426). -/
def Obligations.RestoresAndRecoveryComplete : Prop :=
  (∀ (j c i : Nat) (s : State), j < 8 → 0x10 ≤ c → c ≤ 0x16 → i < 543 →
    (¬ (c = 0x15 ∧ i < 384) → exec (.faultRestore j c i) s = .next (s.islandFault i c 0 (some j))) ∧
    (c = 0x15 → i < 384 → exec (.faultRestore j c i) s = .next
      ((s.markRetired (i / 16) (i % 16)).coreFault (i / 16) (i % 16) c 0 (some j))) ∧
    (408 ≤ i → s.islandFault i c 0 (some j) = s.raiseErr { code := c, island := i, job := some j })) ∧
  (∀ (j : Nat) (r : Record) (s u : State), j < 8 → s.jobState j = 3 → s.get Reg.RCV_STATUS.STATE = 0 →
    s.switching j = false → s.lastRecord j = some r → u = (s.reload j r).resumeBeat j →
    exec (.restoreComplete j) s = .next ((((u.setSn j { u.snOf j with restarts := 0 }).put (Reg.JOB_STATUS.STATE j) 2).inc
      (Reg.SN_RESTORES.N j) 1).settleCq.setEvent (Reg.JOB_STATUS.RESTART_EVT j) j)) ∧
  (∀ (j : Nat) (s : State), j < 8 → s.pairsFailed = false → s.get (Reg.SN_JOB_STATUS.RESOLVING j) ≠ 0 →
    s.resolveList j = [] →
    exec (.resolvePage j) s = .next (s.put (Reg.SN_JOB_STATUS.RESOLVING j) 0)) ∧
  (∀ (j v : Nat) (rest : List Nat) (p : Pte) (s u : State), j < 8 → s.pairsFailed = false →
    s.get (Reg.SN_JOB_STATUS.RESOLVING j) ≠ 0 → s.resolveList j = v :: rest → s.pte j v = some p →
    u = ((s.copyGranules p.mirror p.live p.touch).noteCopied j v p.touch).setPte j v
      ⟨p.w0, mkW1 (s.get (Reg.SN_EPOCH.CUR j)) p.acc p.touch⟩ →
    (u.resolveList j ≠ [] → exec (.resolvePage j) s = .next u) ∧
    (u.resolveList j = [] → exec (.resolvePage j) s = .next (u.put (Reg.SN_JOB_STATUS.RESOLVING j) 0))) ∧
  (∀ (s u : State), u = (s.raiseErr { code := 0x11, island := 536 }).put Reg.NC_STATUS.LOCKSTEP_EVT 1 →
    (u.get Reg.NC_STATUS.STANDBY_OK ≠ 0 → exec .lockstep s = .next u.takeOver) ∧
    (u.get Reg.NC_STATUS.STANDBY_OK = 0 → exec .lockstep s = .next u)) ∧
  (∀ s : State, exec .netLost s = .next s.netLost) ∧
  (∀ s : State, s.netLost.get Reg.NC_STATUS.ACTIVE = 2 ∧ s.netLost.get Reg.RCV_STATUS.STATE = 1 ∧
    s.netLost.hbmSelf = true ∧ (∀ j, j < 8 → s.jobState j = 2 ∨ s.jobState j = 3 → s.netLost.jobState j = 3)) ∧
  (∀ s : State, s.Reached →
    (s.get Reg.RCV_STATUS.STATE = 1 → exec (.reload false) s = .next (s.put Reg.RCV_STATUS.CODE 5) ∧
      exec (.reload true) s = .next (s.reloadPairs true)) ∧
    (s.get Reg.RCV_STATUS.STATE ≠ 1 → ∀ b, exec (.reload b) s = .next (s.reject (s.rcvCode 1) 0x590000 none)) ∧
    (s.get Reg.RCV_STATUS.STATE = 3 → exec .resume s = .next s.resume) ∧
    (s.get Reg.RCV_STATUS.STATE ≠ 3 → exec .resume s = .next (s.reject (s.rcvCode 2) 0x590000 none))) ∧
  (∀ s : State, (∀ j, j < 8 → s.jobState j ≠ 3) →
    s.resume = ({ s.put Reg.RCV_STATUS.STATE 0 with hbmSelf := false } : State))

/-- A fault of a RUNNING local job restores it where the Safety Net is on, the image complete, no core bars it and the
pairs stand (R396, R415): steps 1 and 2 of R414 leave it RESTORING, its epoch and its generation one higher and its
contexts QUIESCED. -/
def Obligations.FaultsOfProtectedJobsRestore : Prop :=
  ∀ (j c i : Nat) (s : State), j < 8 → 0x10 ≤ c → c ≤ 0x16 → c ≠ 0x15 → 408 ≤ i → i < 543 → s.jobState j = 2 →
    s.pairsFailed = false → s.flag (Reg.SN_CFG.EN j) = true → s.get (Reg.SN_JOB_STATUS.INCOMPLETE j) = 0 → s.coreBars j = false →
    s.get (Reg.SN_EPOCH.CUR j) = s.get (Reg.SN_EPOCH.BASE j) → s.phase j = 0 → s.group j = 0 → s.coll = [] →
    s.pageOp = none →
    ∃ t, exec (.faultRestore j c i) s = .next t ∧ t.jobState j = 3 ∧
      t.get (Reg.SN_EPOCH.CUR j) = (s.get (Reg.SN_EPOCH.CUR j) + 1) % 2 ^ 16 ∧
      t.get (Reg.SN_EPOCH.BASE j) = s.get (Reg.SN_EPOCH.BASE j) ∧
      t.gen j = (s.gen j + 1) % 2 ^ 8 ∧
      ∀ p ∈ s.jobCtxs j, t.get (Reg.CTX_STATUS.STATE p.1 p.2) = 6

/-! ## Training support -/

/-- The oldest post owed to a queue that does not hold it is made with its micro-batch's number, or dropped and counted
where the queue is not enabled, and waiting contexts are served (R351, R353); an accepted injection owes its tokens and
posts what it may; a token whose work has retired completes (R354); an accepted `STEP_SEQ` write takes the step number
and the staged step sizes and clears the draws and the step's non-finite bits, and waiting contexts and updates of a
running job are served (R355, R356); an accepted scale write sets its fields (R205); refused writes are rejected. -/
def Obligations.TokensStepsAndScalesComplete : Prop :=
  (∀ (j x : Nat) (s : State), j < 8 → x < 16 →
    exec (.tokenPost j x) s = .next ((s.postToken j x).servePosts j).settleCq) ∧
  (∀ (j x : Nat) (inj : Bool) (rest : List Bool) (s u : State), j < 8 → x < 16 → s.owedOf j x = inj :: rest →
    s.cqHolds (jobQueue j (16 + x)) = false →
    u = (s.setJobS j { s.jobS j with owed := Tab.set [] (s.jobS j).owed x rest }).inc (Reg.MB_CNT.ARR j x) 1 →
    (u.flag (cqFlds (jobQueue j (16 + x))).en = true → s.postToken j x = (u.setJobS j { u.jobS j with
      posted := Tab.set [] (u.jobS j).posted x (Tab.get [] (u.jobS j).posted x ++ [inj]) }).cqAppend (jobQueue j (16 + x))
        (leBytes 8 (lenWord true false (s.get (Reg.MB_CNT.ARR j x)) 0))) ∧
    (u.flag (cqFlds (jobQueue j (16 + x))).en = false →
      s.postToken j x = u.incSat (cqFlds (jobQueue j (16 + x))).drops 1)) ∧
  (∀ (j v x n : Nat) (s : State), j < 8 → s.Open → x = bits v 16 4 → n = bits v 0 16 →
    (s.injectCode j x n = 0 → exec (.schedInject j v) s = .next
      ((((s.owe j x (List.replicate n true)).postTokens j x (n + (s.owedOf j x).length)).servePosts j).settleCq)) ∧
    (s.injectCode j x n ≠ 0 →
      exec (.schedInject j v) s = .next (s.reject (s.injectCode j x n) (0x400210 + j * 0x20000) (some j)))) ∧
  (∀ (g c : Nat) (t : Token) (s : State), g < 24 → c < 2 → (s.ctxOf g c).tokens.find? Token.isPast = some t →
    exec (.tokenComplete g c) s = .next ((s.setCtx g c { s.ctxOf g c with
      tokens := (s.ctxOf g c).tokens.erase t }).completeToken g c t)) ∧
  (∀ (j v : Nat) (s u : State), j < 8 → s.Open → s.stepSeqCode j (v % 2 ^ 48) = 0 →
    u = (s.newStep j (v % 2 ^ 48)).schedWrap j →
    (u.jobState j = 2 → exec (.stepSeqWrite j v) s = .next ((u.serveSched j 48).pumpJob j)) ∧
    (u.jobState j ≠ 2 → exec (.stepSeqWrite j v) s = .next u)) ∧
  (∀ (j v : Nat) (s : State), j < 8 →
    (s.newStep j v).get (Reg.STEP_SEQ.SEQ j) = v % 2 ^ 48 ∧ (s.newStep j v).get (Reg.TB_DRAWS.COUNT j) = 0 ∧
      (s.newStep j v).get (Reg.STEP_NF.LOCAL j) = 0 ∧ (s.newStep j v).get (Reg.STEP_NF.GLOBAL j) = 0 ∧
      (s.newStep j v).get (Reg.STEP_NF.DONE j) = 0 ∧ (s.newStep j v).get (Reg.STEP_NF.SKIP j) = 0 ∧
      (s.newStep j v).get (Reg.SCHED_STATUS.SEQ_NEW j) = 1 ∧
      (∀ i, i < 2 → (s.newStep j v).get (Reg.STEP_SIZE.LO j i) = s.get (Reg.STEP_STAGE.LO j i) % 2 ^ 32)) ∧
  (∀ (j v : Nat) (s : State), j < 8 → s.Open → s.stepSeqCode j (v % 2 ^ 48) ≠ 0 →
    exec (.stepSeqWrite j v) s = .next (s.reject (s.stepSeqCode j (v % 2 ^ 48)) (jobOff j 0x200) (some j))) ∧
  (∀ (j t v : Nat) (s : State), j < 8 → t < 256 → s.Open →
    (s.scaleCode j t v = 0 →
      exec (.scaleWrite j t v) s = .next ((((((((s.put (Reg.SCALE.NEXT j t) (bits v 32 8)).put (Reg.SCALE.PEND j t)
        (bits v 24 1)).put (Reg.SCALE.RND j t) (bits v 25 2)).put (Reg.SCALE.AUTO j t) (bits v 24 1)).put
          (Reg.SCALE.SAT j t) (bits v 23 1)).put (Reg.SCALE.CLASS j t) (bits v 16 6)).put (Reg.SCALE.EXP j t)
            (bits v 0 8)))) ∧
    (s.scaleCode j t v ≠ 0 →
      exec (.scaleWrite j t v) s = .next (s.reject (s.scaleCode j t v) (0x600000 + j * 0x20000 + 8 * t) (some j))))

/-- An update whose captured step `STEP_SEQ` has passed, or one that waits under a step timeout that expires, raises
code 0x0B in its context's first core (R127, R357); one that waits at the gate takes the decision of R363 once the
declared collectives are done: it may begin, or is skipped and counted with its event. A pacing context at the end of
its released beat arrives (R365). The first beat is released once the replica has reached its release (R364); when every
pacing context has arrived and the replica has reached the next release, beat n + 1 is released with the mark of the
last (R365, R369, R370), without a Curtain leaving none arrived and elastic work open; elastic work closes at the
deadline (R367); three beats in succession that overran raise `BEAT_OVERRUN` as a policy event (R369). -/
def Obligations.UpdatesAndBeatsComplete : Prop :=
  (∀ (g c : Nat) (q : QEntry) (s : State), g < 24 → c < 2 → s.updHead g c = some q →
    s.overtaken g c q = true ∨ s.get (Reg.UPD_CFG.STEP_TMO (s.jobOf g c)) ≠ 0 →
    exec (.updStepStale g c) s = .next (s.coreErr g c ((s.coresOf g c).headD 0) 1 0x0B q.pc 0)) ∧
  (∀ (g c j : Nat) (q : QEntry) (s u : State), g < 24 → c < 2 → s.updHead g c = some q → q.carry ≠ [] → j = s.jobOf g c →
    s.flag (Reg.UPD_CFG.NF_GATE j) = true → (q.waited = true ∨ wWV q.word = false) →
    s.get (Reg.UPD_CFG.NF_COLLS j) ≤ s.get (Reg.STEP_NF.DONE j) →
    (s.nfDecision j = false ∨ s.flag (Reg.UPD_CFG.NF_STEP_SKIP j) = false →
      exec (.updNfGatePass g c) s = .next ((s.setEntry g c 1 { q with gated := true, noop := false }).pump g)) ∧
    (s.nfDecision j = true → s.flag (Reg.UPD_CFG.NF_STEP_SKIP j) = true →
      u = (s.setEntry g c 1 { q with gated := true, noop := true }).pump g →
      exec (.updNfGatePass g c) s = .next (((u.inc (Reg.UPD_SKIPPED.N j) 1).put (Reg.STEP_NF.SKIP j) 1).put
        (Reg.STEP_NF.SKIP_EVT j) 1))) ∧
  (∀ (g c j : Nat) (s : State), g < 24 → c < 2 → j = s.jobOf g c → s.jobState j = 2 → s.hasBeat j = true →
    (s.jobS j).released = true → 2 * g + c ∈ s.calCtxs j → 2 * g + c ∉ (s.jobS j).arrived → s.atBeatEnd g c = true →
    exec (.beatArrival g c) s = .next (s.setJobS j { s.jobS j with
      arrived := (s.jobS j).arrived ++ [2 * g + c], ends := max (s.jobS j).ends (s.stamp (rmIsland g)) })) ∧
  (∀ (j : Nat) (s : State), j < 8 → s.jobState j = 2 → s.hasBeat j = true → (s.jobS j).released = false →
    s.get (Reg.CAL_RELEASE.T j) ≤ s.stamp 532 → exec (.beatRelease j) s = .next (s.firstRelease j)) ∧
  (∀ (j : Nat) (s : State), j < 8 → s.jobState j = 2 → s.hasBeat j = true → (s.jobS j).released = true →
    s.beatEnded j = true → s.nextRelease j ≤ s.stamp 532 →
    exec (.beatRelease j) s = .next (s.beatRelease j) ∧
      (s.carriesCurtain j (s.get (Reg.CAL_BEAT.N j) + 1) = false →
        (s.beatRelease j).get (Reg.CAL_BEAT.N j) = (s.get (Reg.CAL_BEAT.N j) + 1) % 2 ^ 48 ∧
        (s.beatRelease j).get (Reg.CAL_RELEASE.T j) = s.nextRelease j % 2 ^ 64 ∧
        (s.beatRelease j).get (Reg.CAL_STATUS.CLOSED j) = 0 ∧ ((s.beatRelease j).jobS j).arrived = [])) ∧
  (∀ (g c fb st tm b : Nat) (s : State), g < 24 → c < 2 → (s.ctxOf g c).block = some (.sched fb st tm, b) →
    s.hasBeat (s.jobOf g c) = true → s.schedFind (s.jobOf g c) st (s.stamp (rmIsland g)) = .closed →
    exec (.beatDeadline g c) s = .next ((s.closeElastic g c fb).wake g c)) ∧
  (∀ (j n : Nat) (s : State), j < 8 → (s.jobS j).overrun = some n →
    exec (.beatOverrun j) s = .next (((s.setJobS j { s.jobS j with overrun := none }).raiseErr
      { code := 0x21, island := 532, payload := n, job := some j }).put (Reg.CAL_STATUS.OVERRUN_EVT j) 1))

/-! ## Guyline -/

/-- A write of `GL_PORT_CFG` that sets `EN` of a port that is present starts its training, and one that clears it takes
the port down (R433); a value that the checks refuse, or a fused port, is rejected, the latter as `FUSED_UNIT` (R3, R4,
R458); at a port that is held the write waits in the crossing (R18, R498, R529). Training that its lanes and keys
complete brings the port up with the other end's ID, its event and its whole credit allocation granted (R433, R436,
R438), and training that they do not changes nothing; a lost port is LOST (R437); a retrain keeps the retry buffer
(R436). -/
def Obligations.PortStatesComplete : Prop :=
  (∀ (p v : Nat) (s : State), p < 16 → s.Open → s.portPresent p = true → s.accessHeld (0xB00000 + p * 0x10000) = true →
    exec (.portEnWrite p v) s =
      .next (s.pushWord (0xB00000 + p * 0x10000) { off := 0xB00000 + p * 0x10000, val := v })) ∧
  (∀ (p v : Nat) (s : State), p < 16 → s.Open → s.portPresent p = true → s.accessHeld (0xB00000 + p * 0x10000) = false →
    portCfgCode p v = 0 → s.committed = false → s.flag (Reg.GL_PORT_CFG.EN p) = false → bit v 0 = true → s.hs.loop = none →
    ∃ t, exec (.portEnWrite p v) s = .next t ∧ t.portState p = 1 ∧ t.get (Reg.GL_PORT_CFG.EN p) = 1 ∧
      t.port p = { keys := (s.port p).keys, txSlot := (s.port p).txSlot, rxKey := (s.port p).rxKey } ∧ t.mem = s.mem) ∧
  (∀ (p v : Nat) (s : State), p < 16 → s.Open → s.portPresent p = true → s.accessHeld (0xB00000 + p * 0x10000) = false →
    portCfgCode p v = 0 → s.committed = false → s.flag (Reg.GL_PORT_CFG.EN p) = true → bit v 0 = false →
    ∃ t, exec (.portEnWrite p v) s = .next t ∧ t.portState p = 0 ∧ t.get (Reg.GL_PORT_CFG.EN p) = 0 ∧ t.mem = s.mem) ∧
  (∀ (p v : Nat) (s : State), p < 16 → s.Open →
    (s.portPresent p = true → s.accessHeld (0xB00000 + p * 0x10000) = false → portCfgCode p v ≠ 0 →
      exec (.portEnWrite p v) s = .next (s.reject (portCfgCode p v) (0xB00000 + p * 0x10000) none)) ∧
    (s.portPresent p = false →
      exec (.portEnWrite p v) s = .next (s.reject 0x05 (0xB00000 + p * 0x10000) none))) ∧
  (∀ (p lanes peer : Nat) (s : State), p < 16 → s.portState p = 1 →
    (∀ st, s.trained p lanes = some st → exec (.portTrainingDone p lanes peer) s = .next (s.linkUp p st lanes peer)) ∧
    (s.trained p lanes = none → exec (.portTrainingDone p lanes peer) s = .next s)) ∧
  (∀ (p peer : Nat) (s : State), p < 16 → (s.port p).waiting = [] → (s.port p).retry = [] → (s.port p).txMac = 0 →
    (s.linkUp p 2 15 peer).portState p = 2 ∧ (s.linkUp p 2 15 peer).get (Reg.GL_PORT_STATUS.PEER p) = peer % 2 ^ 16 ∧
      (s.linkUp p 2 15 peer).get (Reg.GL_PORT_STATUS.UP_EVT p) = 1 ∧
      ((s.linkUp p 2 15 peer).port p).ctl = some ((s.port p).rxSeq, false, s.allocation p)) ∧
  (∀ (p jobs : Nat) (s : State), p < 16 → s.portLive p = true →
    exec (.portLost p jobs) s = .next (s.losePort p jobs) ∧
      ((∀ j, j < 8 → s.jobState j ≠ 2 ∧ s.jobState j ≠ 3) → (s.losePort p jobs).portState p = 4)) ∧
  (∀ (p : Nat) (s : State), p < 16 → s.portUp p = true →
    exec (.portRetrain p) s = .next (s.retrain p) ∧ (s.retrain p).portState p = 1 ∧
      ((s.retrain p).port p).retry = (s.port p).retry)

/-- On a port that is UP or HALF: a control flit goes out with the next `SEQ` expected, with the credits returned (R435,
R438). An `ACK` frees the flits it covers; a `NAK` frees them and has the rest resent, the sixteenth that does not
advance making the port retrain; either retrains where it names a `SEQ` outside the retry buffer (R435, R436). A flit
whose CRC fails, or with another `SEQ` than expected, is discarded and counted, the first answered by one `NAK` (R434,
R435); a data or a MAC flit is taken, a control flit acted on, and any good flit brings its credit (R434, R438). A tag
that holds under a known key lets the held flits go on; the first that does not has them sent again, the second loses
the port with `SEC_EVT` (R439, R554); a key that is used up loses it too (R439). -/
def Obligations.LinkLayerComplete : Prop :=
  (∀ (p : Nat) (s : State), p < 16 → s.portUp p = true → exec (.ackSend p) s = .next (s.sendCtl p false [])) ∧
  (∀ (p seq n : Nat) (s u : State), p < 16 → seq < 4096 → s.portUp p = true →
    ((s.port p).covered seq = none → exec (.ackReceive p seq) s = .next (s.retrain p) ∧
      exec (.nakReplay p seq) s = .next (s.retrain p)) ∧
    ((s.port p).covered seq = some n →
      exec (.ackReceive p seq) s = .next ((s.setPort p { s.port p with
        retry := (s.port p).retry.drop n, naks := if n = 0 then (s.port p).naks else 0 }).pumpOut p) ∧
      (u = s.setPort p { s.port p with
          retry := (s.port p).retry.drop n, naks := if n = 0 then (s.port p).naks + 1 else 1 } →
        (n ≠ 0 ∨ (s.port p).naks < 15 → exec (.nakReplay p seq) s = .next (u.replay p)) ∧
        (n = 0 → 15 ≤ (s.port p).naks → exec (.nakReplay p seq) s = .next (u.retrain p))))) ∧
  (∀ (p v n : Nat) (s : State), p < 16 → v < 8 → n < 128 → s.portUp p = true →
    exec (.creditReturn p v n) s = .next (s.sendCtl p (s.port p).nakOut (listSet (List.replicate 8 0) v n))) ∧
  (∀ (p w : Nat) (flit : List Byte) (s u : State), p < 16 → s.portUp p = true → flit.length = 256 →
    w = leNat (flit.take 4) → u = s.addCredit p (bits w 15 3) (bits w 8 7) →
    (crcOk flit = false ∨ ((bits w 30 2 = 1 ∨ bits w 30 2 = 3) ∧ bits w 18 12 ≠ (s.port p).rxSeq) →
      ((s.port p).nakOut = false →
        exec (.flitReceive p flit) s = .next ((s.inc (Reg.GL_CRC_ERR.N p) 1).sendCtl p true [])) ∧
      ((s.port p).nakOut = true → exec (.flitReceive p flit) s = .next (s.inc (Reg.GL_CRC_ERR.N p) 1))) ∧
    (crcOk flit = true → (bits w 30 2 = 1 ∨ bits w 30 2 = 3) → bits w 18 12 = (s.port p).rxSeq →
      exec (.flitReceive p flit) s = .next ((u.takeFlit p (bits w 30 2) (bits w 18 12)).pumpOut p)) ∧
    (crcOk flit = true → bits w 30 2 = 2 →
      exec (.flitReceive p flit) s = .next ((u.ctlArrive p (flit.drop 4)).pumpOut p)) ∧
    (crcOk flit = true → bits w 30 2 = 0 → exec (.flitReceive p flit) s = .next (u.pumpOut p))) ∧
  (∀ (p k : Nat) (s : State), p < 16 → s.portUp p = true → s.flag (Reg.GL_PORT_CFG.ENC p) = true → s.knowsKey p k = true →
    exec (.macFlitCheck p true k) s = .next (s.setPort p { s.port p with rxHeld := [], macFails := 0, rxKey := some k })) ∧
  (∀ (p k : Nat) (ok : Bool) (s : State), p < 16 → s.portUp p = true → s.flag (Reg.GL_PORT_CFG.ENC p) = true →
    ok = false ∨ s.knowsKey p k = false →
    ((s.port p).macFails = 0 → exec (.macFlitCheck p ok k) s = .next ((s.setPort p { s.port p with
      rxHeld := [], macFails := 1, rxSeq := (s.port p).rxHeld.headD (s.port p).rxSeq, nakOut := false }).sendCtl p true [])) ∧
    ((s.port p).macFails ≠ 0 → exec (.macFlitCheck p ok k) s = .next
      ((s.put (Reg.GL_PORT_STATUS.SEC_EVT p) 1).losePort p 0))) ∧
  (∀ (p : Nat) (s : State), p < 16 → s.portUp p = true → s.flag (Reg.GL_PORT_CFG.ENC p) = true →
    2 ^ 48 - 2 ^ 20 ≤ s.get (Reg.GL_ENC_CTR.FLITS p) →
    exec (.encCounterLimit p) s = .next (s.losePort p 0))

/-- At a port that is UP or HALF, with the control pairs standing, a packet for this device is delivered with its stamp
extended (R33): a data packet that fits no job is discarded, counted and acknowledged, and one of a job is offered to
its queue (R443, R444, R287); one for another device goes on (R445). Acknowledgements owed to a device are sent, and one
that is received frees what it covers (R444). A device without a job in a group answers its drain marker, and a part
counts one of its `GEN` (R417, R450). A Safety Net message is acted on, and a READY report gathered for its group
(R449). -/
def Obligations.CascadePacketsComplete : Prop :=
  (∀ (p q tag : Nat) (h : PktHead) (data : List Byte) (s u : State), p < 16 → headOk h = true → q < 16 → tag < 2 ^ 32 →
    data.length ≤ 65536 → s.portUp p = true → s.pairsFailed = false →
    u = { s with rxStamp := extendStamp (s.stamp (504 + p)) h.stamp } →
    (h.dst = s.get Reg.GL_DEV_ID.ID → u.packetQueue h q = none →
      exec (.dataPacketReceive p h q tag data) s = .next ((u.inc (Reg.GL_RX_DISCARD.N p) 1).oweAck h.src h.group)) ∧
    (h.dst = s.get Reg.GL_DEV_ID.ID → ∀ j t, u.packetQueue h q = some j →
      (u.cqOffer (jobQueue j q) tag data = (t, .dropped) →
        exec (.dataPacketReceive p h q tag data) s = .next (t.oweAck h.src h.group).settleCq) ∧
      (∀ n, u.cqOffer (jobQueue j q) tag data = (t, .closed n) →
        ((t.oweAck h.src h.group).settleCq).hoLenOk (jobQueue j q) n = true →
        exec (.dataPacketReceive p h q tag data) s = .next (t.oweAck h.src h.group).settleCq)) ∧
    (h.dst ≠ s.get Reg.GL_DEV_ID.ID → exec (.dataPacketReceive p h q tag data) s = .next
      (s.forward p { headPacket h 0 with qci := q, tag := tag, data := data }))) ∧
  (∀ (p : Nat) (h : PktHead) (acks : List (Nat × Nat)) (s u : State), p < 16 → headOk h = true →
    exec (.deliveryAck p h acks true) s = .next (s.sendAcks h.dst) ∧
    (s.portUp p = true → s.pairsFailed = false → h.dst = s.get Reg.GL_DEV_ID.ID →
      u = { s with rxStamp := extendStamp (s.stamp (504 + p)) h.stamp } →
      exec (.deliveryAck p h acks false) s = .next (acks.foldl (fun (t : State) e => t.ackPackets e.1 e.2) u))) ∧
  (∀ (grp n j m : Nat) (s : State), s.jobOfGroup grp = some j → m = min n (Tab.get 0 s.glOut j) →
    s.ackPackets grp n = ({ s with glOut := Tab.set 0 s.glOut j (Tab.get 0 s.glOut j - m) } : State).put Reg.GL_OUT.COUNT
      (s.get Reg.GL_OUT.COUNT - m)) ∧
  (∀ (p : Nat) (h : PktHead) (s u : State), p < 16 → headOk h = true → s.portUp p = true → s.pairsFailed = false →
    h.dst = s.get Reg.GL_DEV_ID.ID → u = { s with rxStamp := extendStamp (s.stamp (504 + p)) h.stamp } →
    (u.jobOfGroup h.group = none → exec (.drainMarkerReceive p h) s = .next
      (u.sendOn p (u.markerPacket h.group h.gen (u.get (Reg.GL_PORT_STATUS.PEER p))))) ∧
    (∀ j, u.jobOfGroup h.group = some j → p ∉ (u.snOf j).drained → u.gen j = h.gen →
      exec (.drainMarkerReceive p h) s = .next (u.setSn j { u.snOf j with drained := (u.snOf j).drained ++ [p] })) ∧
    (∀ j, u.jobOfGroup h.group = some j → u.gen j ≠ h.gen → exec (.drainMarkerReceive p h) s = .next u)) ∧
  (∀ (p kind body : Nat) (h : PktHead) (s u : State), p < 16 → headOk h = true → 1 ≤ kind → kind ≤ 6 → body < 2 ^ 88 →
    s.portUp p = true → s.pairsFailed = false → h.dst = s.get Reg.GL_DEV_ID.ID →
    u = { s with rxStamp := extendStamp (s.stamp (504 + p)) h.stamp } →
    exec (.snMessageReceive p h kind body) s = .next
      (u.snMessage (u.get (Reg.GL_PORT_STATUS.PEER p)) h.group h.gen kind body) ∧
    (kind = 2 → u.staleMessage h.group h.gen 2 = false →
      exec (.snMessageReceive p h kind body) s = .next (u.readyArrive h.group h.gen body)) ∧
    (kind = 6 → exec (.snMessageReceive p h kind body) s = .next u))

/-- While the control pairs have not failed: a device outside a group has no heartbeat; a deputy counts a period's
missed heartbeat, and one that came clears the count (R448); three missed ones make the deputy the master with
`TAKEOVER_EVT`, naming no deputy (R448). A takeover packet for this device names the new master and no deputy, and makes
a System Master that it displaces a member, with its event (R448). A member whose route gives another time parent
follows it in ACQUIRE, and without one a LOCKED member holds over (R35, R447). An accepted write of `GL_DEV_ID` gives
the device its ID and retrains its links (R457); an accepted `GL_TOPO` its torus (R445); refused ones are rejected. A
register-access packet of the System Master to the Recovery window or the device area is carried out and answered, any
other is discarded and counted (R451). -/
def Obligations.MastersAndIdentityComplete : Prop :=
  (∀ (grp : Nat) (got : Bool) (s : State), grp ≤ 16 → s.inGroup grp = false → exec (.heartbeat grp got) s = .next s) ∧
  (∀ (grp : Nat) (s : State), grp ≤ 16 → s.pairsFailed = false → (s.sendBeat grp).isDeputy grp = true →
    exec (.heartbeat grp false) s = .next { s.sendBeat grp with
      missedBeats := Tab.set 0 (s.sendBeat grp).missedBeats grp (Tab.get 0 (s.sendBeat grp).missedBeats grp + 1) } ∧
    exec (.heartbeat grp true) s = .next { s.sendBeat grp with
      missedBeats := Tab.set 0 (s.sendBeat grp).missedBeats grp 0 }) ∧
  (∀ (grp : Nat) (s : State), grp ≤ 16 → s.pairsFailed = false → s.isDeputy grp = true →
    3 ≤ Tab.get 0 s.missedBeats grp → exec (.deputyTakeover grp) s = .next (s.takeMaster grp)) ∧
  (∀ (grp : Nat) (s : State), grp < 16 → s.membersOf grp = [] →
    (s.takeMaster grp).get (Reg.GRP_ROLES.MASTER grp) = s.get (Reg.GRP_CFG.RANK grp) % 2 ^ 16 ∧
      (s.takeMaster grp).get (Reg.GRP_ROLES.DEPUTY grp) = 0xFFFF ∧
      (s.takeMaster grp).get Reg.GL_HB_STATUS.TAKEOVER_EVT = 1) ∧
  (∀ (p grp m : Nat) (h : PktHead) (s u : State), p < 16 → headOk h = true → grp ≤ 16 → s.portUp p = true →
    s.pairsFailed = false → h.dst = s.get Reg.GL_DEV_ID.ID →
    u = { s with rxStamp := extendStamp (s.stamp (504 + p)) h.stamp } →
    (u.inGroup grp = true → exec (.takeoverReceive p h grp m) s = .next (u.newMaster grp m)) ∧
    (u.inGroup grp = false → exec (.takeoverReceive p h grp m) s = .next u)) ∧
  (∀ (m : Nat) (s : State), s.get Reg.ST_CTRL.ROLE = 2 → m ≠ s.get Reg.GL_DEV_ID.ID →
    (s.newMaster 16 m).get Reg.GL_MASTER.SYS = m % 2 ^ 16 ∧ (s.newMaster 16 m).get Reg.GL_MASTER.DEPUTY = 0xFFFF ∧
      (s.newMaster 16 m).get Reg.ST_CTRL.ROLE = 1 ∧ (s.newMaster 16 m).get Reg.GL_HB_STATUS.MASTER_LOST_EVT = 1 ∧
      (s.newMaster 16 m).mem = s.mem) ∧
  (∀ (q : Option Nat) (s : State), s.get Reg.ST_CTRL.ROLE = 1 → s.time.parent ≠ q → s.routeParent = q →
    exec (.timeParentChange q) s = .next (s.changeParent q) ∧ (s.changeParent q).time.parent = q ∧
      (q ≠ none → (s.changeParent q).lockState = 1) ∧
      (q = none → s.lockState = 2 → (s.changeParent q).lockState = 3) ∧ (s.changeParent q).mem = s.mem) ∧
  (∀ (v : Nat) (s u : State), s.Open → u = s.put Reg.GL_DEV_ID.ID (bits v 0 16) →
    (s.devIdCode = 0 → exec (.glDevIdWrite v) s = .next
      (u.livePorts.foldl (fun (t : State) p => t.retrain p) u).updateRole) ∧
    (s.devIdCode ≠ 0 → exec (.glDevIdWrite v) s = .next (s.reject 0x04 0xB08000 none))) ∧
  (∀ (v : Nat) (s : State), s.Open →
    (s.topoCode v = 0 →
      exec (.glTopoWrite v) s = .next (((((s.put Reg.GL_TOPO.MODE (bits v 16 1)).put Reg.GL_TOPO.X0 (bits v 0 4)).put
        Reg.GL_TOPO.X1 (bits v 4 4)).put Reg.GL_TOPO.X2 (bits v 8 4)).put Reg.GL_TOPO.X3 (bits v 12 4)).updateRole) ∧
    (s.topoCode v ≠ 0 → exec (.glTopoWrite v) s = .next (s.reject (s.topoCode v) 0xB08008 none))) ∧
  (∀ (p off v val : Nat) (wr : Bool) (h : PktHead) (s u t : State), p < 16 → headOk h = true → off < 2 ^ 32 →
    val < 2 ^ 64 → s.portUp p = true → h.dst = s.get Reg.GL_DEV_ID.ID →
    u = { s with rxStamp := extendStamp (s.stamp (504 + p)) h.stamp } →
    (h.src ≠ s.get Reg.GL_MASTER.SYS ∨ packetReg off = false →
      exec (.registerAccessPacket p h wr off val) s = .next (u.inc (Reg.GL_RX_DISCARD.N p) 1)) ∧
    (h.src = s.get Reg.GL_MASTER.SYS → packetReg off = true →
      t = (if wr = true then u.hostWrite off (fun t => t.regWrite off val) else u.clearRc off 0) → v = (if wr = true then val else u.regRead off) →
      exec (.registerAccessPacket p h wr off val) s = .next ((t.sendPacket {
        dst := h.src, type := 5, stamp := t.stamp 536 % 2 ^ 24, ofs := off, data := leBytes 8 v }).getD t)))

/-! ## Collectives -/

/-- A launch that R456 allows takes one from its flag, a check that fails raising its code. A collective packet of the
running job's group and generation joins those that wait, and a running instance takes them in turn (R454); one of no
such job is discarded (R417). A finished instance writes its result, counts for the step where its descriptor says so,
and signals `DONEF`, a write that fails raising its code (R455, R456); an expired timeout raises code 0x02. -/
def Obligations.CollectivesComplete : Prop :=
  (∀ (j d : Nat) (s : State), j < 8 → d < 64 → s.jobState j = 2 → s.get (Reg.GL_COLL_BASE.ADDR j) ≠ 0 →
    (s.collDesc j d).ngrp ≠ 0 → (s.collOf j d).running = false → s.engLoad (s.collDesc j d).eng < 8 →
    s.launchReady j (s.collDesc j d) = true →
    exec (.collectiveLaunch j d) s = .next (s.launch j d (s.collDesc j d))) ∧
  (∀ (j d : Nat) (x : CollD) (s u : State), u = s.put (Reg.JOB_FLAG.COUNT j x.launch)
      (s.get (Reg.JOB_FLAG.COUNT j x.launch) - 1) → u.collCode x ≠ 0 →
    s.launch j d x = u.raiseErr { code := u.collCode x, island := x.island, job := some j }) ∧
  (∀ (p d inst ofs : Nat) (nf : Bool) (data : List Byte) (h : PktHead) (s u : State), p < 16 → headOk h = true → d < 64 →
    data.length ≤ 65536 → s.portUp p = true → s.pairsFailed = false → h.dst = s.get Reg.GL_DEV_ID.ID →
    u = { s with rxStamp := extendStamp (s.stamp (504 + p)) h.stamp } →
    (u.packetJob h.group h.gen = none → exec (.collectivePacket p h d inst nf ofs data) s = .next u) ∧
    (∀ j v, u.packetJob h.group h.gen = some j → v = u.setColl j d { u.collOf j d with
        early := (u.collOf j d).early ++ [(inst % 256, nf, ofs, data)] } →
      ((u.collOf j d).running = false → exec (.collectivePacket p h d inst nf ofs data) s = .next v) ∧
      ((u.collOf j d).running = true → exec (.collectivePacket p h d inst nf ofs data) s = .next
        (v.takeWaiting j d (v.collDesc j d) ((u.collOf j d).early.length + 1))))) ∧
  (∀ (j d : Nat) (x : CollD) (s : State), j < 8 → d < 64 → s.jobState j = 2 → (s.collOf j d).running = true →
    x = s.collDesc j d → s.collDone j d x = true →
    (∀ e, s.writeElems j x.dsta x.esize (s.collOut x (s.collOf j d).acc) = .error e →
      exec (.collectiveComplete j d) s = .next
        (s.raiseErr { code := e.1, island := x.island, payload := e.2, job := some j })) ∧
    (∀ t v, s.writeElems j x.dsta x.esize (s.collOut x (s.collOf j d).acc) = .ok t →
      v = t.setColl j d { inst := (s.collOf j d).inst, early := (s.collOf j d).early } →
      (x.nf = false → exec (.collectiveComplete j d) s = .next (v.addJobFlag j x.donef 1 2 x.island)) ∧
      (x.nf = true → exec (.collectiveComplete j d) s = .next
        (((v.put (Reg.STEP_NF.GLOBAL j) (ofBool (v.flag (Reg.STEP_NF.GLOBAL j) || (s.collOf j d).nf))).incSat
          (Reg.STEP_NF.DONE j) 1).addJobFlag j x.donef 1 2 x.island)))) ∧
  (∀ (j d : Nat) (s : State), j < 8 → d < 64 → s.jobState j = 2 → (s.collOf j d).running = true →
    (s.collDesc j d).tmo ≠ 0 →
    exec (.collectiveTimeout j d) s = .next (s.raiseErr {
      code := 0x02, island := (s.collDesc j d).island, job := some j }))

/-! ## The host link -/

/-- In L0 the function becomes ready (R465); a configuration request of a function that is not ready writes nothing, and
of one that is writes what it names (R462, R464, R465); D3hot halts the jobs that run (R464); a pending vector that may
be sent goes out, and one that is not pending or may not be sent does not (R390); a mailbox that is not busy takes an
object of at most 16 KiB of the SPDM protocol it carries, and discards what it cannot take (R477); a failed IDE check is
counted under the security code and makes the stream Insecure (R478). A one-byte access through the window. In physical
mode it reads or writes a byte of a frame of owner `TABLE`, where a write of an entry of an idle job clears its `ACC`
(R335); in a job's space, of a job in LOADED, RUNNING, HALTED or DONE, a byte of a page that translates (R468, R399).
One that is refused is counted under its code at the Midway, reads as all ones and writes nothing: `ILLEGAL_STATE` where
the frame's owner is another or the job's state does not allow it, `FIELD_RANGE` where no frame exists (R323, R468), and
the code of the translation where there is none. A write is discarded while the control pairs have failed (R425).
`HIF_WIN` is written where its base is a multiple of the window's size and rejected otherwise, and a new size resets it
(R467, R469). -/
def Obligations.HostLinkComplete : Prop :=
  (∀ (r w : Nat) (s : State), linkRates.contains r = true → linkWidths.contains w = true → s.aon.perst = false →
    s.aon.down = false → exec (.pcieLinkL0 r w) s = .next
      { s with pcie := { s.pcie with linkL0 := true, ready := true, rate := r, width := w } }) ∧
  (∀ (q : ConfigReq) (s : State), s.pcie.ready = false → exec (.configRequest q) s = .next s) ∧
  (∀ s : State, s.pcie.ready = true →
    exec (.configRequest .read) s = .next s ∧
    (∀ en, exec (.configRequest (.busMaster en)) s = .next { s with pcie := { s.pcie with busMaster := en } }) ∧
    (∀ en mask, exec (.configRequest (.msixControl en mask)) s = .next
      { s with pcie := { s.pcie with msixEnable := en, functionMask := mask } }) ∧
    exec (.configRequest (.powerState true)) s = .next s.enterD3hot ∧
    exec (.configRequest (.powerState false)) s = .next { s with pcie := { s.pcie with d3hot := false } }) ∧
  (∀ s : State, exec .d3hotEntry s = .next s.enterD3hot ∧ s.enterD3hot.pcie.d3hot = true ∧
    ∀ j, j < 8 → s.jobState j = 2 ∨ s.jobState j = 3 → s.enterD3hot.jobState j = 4) ∧
  (∀ (v : Nat) (s : State), v < 64 → bit (s.get Reg.MSIX_PBA.PENDING) v = true → s.sendable v = true →
    exec (.msixSend v) s = .next ({ s.put Reg.MSIX_PBA.PENDING (setBit (s.get Reg.MSIX_PBA.PENDING) v false) with
      msgs := s.msgs ++ [v] } : State)) ∧
  (∀ (v : Nat) (s : State), v < 64 → bit (s.get Reg.MSIX_PBA.PENDING) v = false ∨ s.sendable v = false →
    exec (.msixSend v) s = .next s) ∧
  (∀ (m : Nat) (obj : List Byte) (s : State), m < 2 → s.aon.down = false → (s.mailbox m).req = none →
    obj.length ≤ 16384 → doeType obj = (1, m + 1) →
    exec (.doeObject m obj) s = .next (s.setMailbox m { s.mailbox m with req := some obj })) ∧
  (∀ (m : Nat) (obj : List Byte) (s : State), m < 2 →
    (s.mailbox m).req ≠ none ∨ 16384 < obj.length ∨ (doeType obj ≠ (1, 0) ∧ doeType obj ≠ (1, m + 1)) →
    exec (.doeObject m obj) s = .next s) ∧
  (∀ (n : Nat) (s : State), n < 4 → ∃ t, exec (.ideCheckFail n) s = .next t ∧ (t.stream n).secure = false ∧
    t.get (Reg.ERR_CNT.N 0x13) = (s.get (Reg.ERR_CNT.N 0x13) + 1) % 2 ^ 48 ∧ s.memKept t) ∧
  (∀ (o : Nat) (s : State), s.inWindow o 1 = true → s.aon.down = false → s.get Reg.HIF_WIN.MODE = 0 →
    s.frameExists (dfnOf (s.winAddr o)) = true → s.ownerOf (dfnOf (s.winAddr o)) = 0xD →
    exec (.windowRead o 1) s = .next ({ s.countMem (s.winAddr o) 1 false with
      mmioData := (s.memByte (s.winAddr o)).toNat } : State) ∧
    ∀ b, s.pairsFailed = false → exec (.windowWrite o [b]) s = .next ((s.tableWrite (s.winAddr o) b).countMem (s.winAddr o) 1 true)) ∧
  (∀ (o : Nat) (b : Byte) (s : State), s.inWindow o 1 = true → s.aon.down = false → s.get Reg.HIF_WIN.MODE = 1 →
    s.winJob (s.get Reg.HIF_WIN.JOB) = true → s.devRead (s.get Reg.HIF_WIN.JOB) (s.winAddr o) = some b →
    exec (.windowRead o 1) s = .next ({ s.countMem (s.winPhys (s.winAddr o)) 1 false with
      mmioData := b.toNat } : State)) ∧
  (∀ (o : Nat) (b : Byte) (p : Pte) (s t : State), s.inWindow o 1 = true → s.aon.down = false → s.get Reg.HIF_WIN.MODE = 1 →
    s.winJob (s.get Reg.HIF_WIN.JOB) = true → s.devWrite (s.get Reg.HIF_WIN.JOB) (s.winAddr o) b = some t →
    s.pte (s.get Reg.HIF_WIN.JOB) (bits (s.winAddr o) 21 31) = some p → s.pairsFailed = false →
    exec (.windowWrite o [b]) s = .next (t.countMem (2 ^ 21 * p.live + bits (s.winAddr o) 0 21) 1 true)) ∧
  (∀ (o : Nat) (b : Byte) (s : State), s.inWindow o 1 = true → s.aon.down = false →
    (s.get Reg.HIF_WIN.MODE = 0 ∧ s.frameExists (dfnOf (s.winAddr o)) = true ∧
        s.ownerOf (dfnOf (s.winAddr o)) ≠ 0xD) ∨
      (s.get Reg.HIF_WIN.MODE = 1 ∧ s.winJob (s.get Reg.HIF_WIN.JOB) = false) →
    exec (.windowRead o 1) s = .next ({ s.raiseErr { code := 0x04, island := 523 } with mmioData := 0xFF } : State) ∧
    (s.pairsFailed = false → exec (.windowWrite o [b]) s = .next (s.raiseErr { code := 0x04, island := 523 }))) ∧
  (∀ (o : Nat) (b : Byte) (s : State), s.inWindow o 1 = true → s.aon.down = false → s.get Reg.HIF_WIN.MODE = 0 →
    s.frameExists (dfnOf (s.winAddr o)) = false →
    exec (.windowRead o 1) s = .next ({ s.raiseErr { code := 0x06, island := 523 } with mmioData := 0xFF } : State) ∧
    (s.pairsFailed = false → exec (.windowWrite o [b]) s = .next (s.raiseErr { code := 0x06, island := 523 }))) ∧
  (∀ (o c : Nat) (s : State), s.inWindow o 1 = true → s.aon.down = false → s.get Reg.HIF_WIN.MODE = 1 →
    s.winJob (s.get Reg.HIF_WIN.JOB) = true → c = 0x0A ∨ c = 0x06 →
    (s.devRead (s.get Reg.HIF_WIN.JOB) (s.winAddr o) = none →
      s.accessCode (s.get Reg.HIF_WIN.JOB) (s.winAddr o) false = c →
      exec (.windowRead o 1) s = .next ({ s.raiseErr { code := c, island := 523 } with mmioData := 0xFF } : State)) ∧
    (∀ b, s.devWrite (s.get Reg.HIF_WIN.JOB) (s.winAddr o) b = none →
      s.accessCode (s.get Reg.HIF_WIN.JOB) (s.winAddr o) true = c → s.pairsFailed = false →
      exec (.windowWrite o [b]) s = .next (s.raiseErr { code := c, island := 523 }))) ∧
  (∀ (o : Nat) (b : Byte) (s : State), s.inWindow o 1 = true → s.pairsFailed = true →
    exec (.windowWrite o [b]) s = .next s) ∧
  (∀ (v : Nat) (s : State), s.Open →
    (s.hifWinCode v = 0 → exec (.hifWinWrite v) s = .next (((s.put Reg.HIF_WIN.BASE (bits v 34 18)).put Reg.HIF_WIN.JOB
      (bits v 4 3)).put Reg.HIF_WIN.MODE (bits v 0 1))) ∧
    (s.hifWinCode v ≠ 0 → exec (.hifWinWrite v) s = .next (s.reject 0x06 0x102000 none))) ∧
  (∀ (n : Nat) (s : State), 34 ≤ n → n ≤ 42 →
    (n = s.pcie.bar2Log2 → exec (.bar2Resize n) s = .next s) ∧
    (n ≠ s.pcie.bar2Log2 →
      exec (.bar2Resize n) s = .next { s.resetWindow with pcie := { s.pcie with bar2Log2 := n } } ∧
      s.resetWindow.get Reg.HIF_WIN.BASE = 0 ∧ s.resetWindow.get Reg.HIF_WIN.JOB = 0 ∧
      s.resetWindow.get Reg.HIF_WIN.MODE = 0 ∧ s.resetWindow.mem = s.mem))

/-! ## Power, clocks and temperature -/

/-- A period of the cap loop records the powers it was given, and counts where a Ring's level is not 0 after it (R488 to
R490); a window freezes its core for `LEVEL` clk (R489); a point changes where R487 and R490 allow it: to a lower
frequency at once, to a higher one with the regulator's completion, which reports the rail's voltage (R484, R487); a
regulator that fails freezes its Ring's point (R485); the throttle pin lifts each Ring's level to its floor, which is at
least `THROT_IN_LEVEL` while the pin is low (R491); a glitch is counted with its event (R383). -/
def Obligations.PowerCommandsComplete : Prop :=
  (∀ (pkg : Nat) (ring : List Nat) (s : State), ring.length = 4 → s.aon.down = false →
    ∃ t, exec (.capLoop pkg ring) s = .next t ∧ t.get Reg.PWR_STATUS.PKG_W = pkg % 2 ^ 16 ∧
      (∀ r, r < 4 → t.get (Reg.RING_PWR.RING_W r) = ring.getD r 0 % 2 ^ 16) ∧ t.mem = s.mem ∧ t.cores = s.cores ∧
      ((∀ r, r < 4 → t.get (Reg.RING_PWR.LEVEL r) = 0) → t.get Reg.THROT_PERIODS.N = s.get Reg.THROT_PERIODS.N) ∧
      (∀ r, r < 4 → t.get (Reg.RING_PWR.LEVEL r) ≠ 0 →
        t.get Reg.THROT_PERIODS.N = (s.get Reg.THROT_PERIODS.N + 1) % 2 ^ Reg.THROT_PERIODS.N.w)) ∧
  (∀ (g cx : Nat) (s : State), g < 24 → cx < 16 → exec (.throttleWindow g cx) s = .next
    (s.inc (Reg.ARR_FRZ_THROT.N g cx) (s.get (Reg.RING_PWR.LEVEL (ringOf g))))) ∧
  (∀ (r vf : Nat) (s : State), r < 4 → vf < 4 → s.aon.down = false → s.pointOk r vf = true →
    (s.get (Reg.RING_PWR.VF r) < vf → exec (.vfChange r vf) s = .next (s.setPoint r vf)) ∧
    (vf ≤ s.get (Reg.RING_PWR.VF r) → exec (.vfChange r vf) s = .next
      { s with power := { s.power with rise := Tab.set none s.power.rise r (some vf) } })) ∧
  (∀ (r vf : Nat) (s : State), r < 4 → vf < 4 → s.pointOk r vf = false → exec (.vfChange r vf) s = .next s) ∧
  (∀ (r mv : Nat) (s : State), r < 4 → 550 ≤ mv → mv ≤ 850 →
    (Tab.get none s.power.rise r = none → exec (.avsCompletion r mv) s = .next (s.put (Reg.RING_PWR.MV r) mv)) ∧
    (∀ vf, Tab.get none s.power.rise r = some vf →
      exec (.avsCompletion r mv) s = .next ((s.put (Reg.RING_PWR.MV r) mv).setPoint r vf))) ∧
  (∀ (r : Nat) (s : State), r < 4 → ∃ t, exec (.avsFailure r) s = .next t ∧ r ∈ t.power.frozen ∧
    Tab.get none t.power.rise r = none ∧ t.get Reg.PWR_STATUS.AVS_EVT = 1 ∧
    t.get (Reg.RING_PWR.VF r) = s.get (Reg.RING_PWR.VF r) ∧ t.mem = s.mem ∧
    ∀ (vf : Nat) (u : State), u.power.frozen = t.power.frozen → u.pointOk r vf = false) ∧
  (∀ s : State, ∃ t, exec .throttleInAssert s = .next t ∧ t.get Reg.PWR_STATUS.THROT_IN = 1 ∧
    t.get Reg.PWR_STATUS.THROT_IN_EVT = 1 ∧
    (∀ r, r < 4 → s.get Reg.PWR_CAP.THROT_IN_LEVEL ≤ t.ringFloor r ∧
      (t.ringFloor r ≤ 63 → s.get (Reg.RING_PWR.LEVEL r) ≤ 63 → t.ringFloor r ≤ t.get (Reg.RING_PWR.LEVEL r))) ∧
    t.mem = s.mem) ∧
  (∀ s : State, exec .throttleInDeassert s = .next (s.put Reg.PWR_STATUS.THROT_IN 0)) ∧
  (∀ (pin : Nat) (s : State), pin < 4 →
    exec (.pinGlitch pin) s = .next ((s.incSat (pinFld pin) 1).setEvent Reg.ERR_DEV_STATUS.PIN_EVT 11))

/-- A sensor's reading stands in its register (R505); a stack's temperature sets what its controller admits, with its
event on each entry (R494); a sensor at 115 °C, the pin, or a rail out of its range while PERST# is high shuts the
device down, and the first of each kind is recorded (R495, R587); for the pin the sensor recorded is not stated. A
reference measurement shows what is bad (R496); a bad reference is left for a good one (R497), and two bad ones raise
`HW_TIMEOUT` (R497); an island that loses its clock stops, and does not acknowledge what arrives (R498). -/
def Obligations.SensorsClocksAndShutdownComplete : Prop :=
  (∀ (i : Nat) (temp : Int) (s : State), i < 64 → -32768 ≤ temp → temp ≤ 32767 → s.aon.down = false →
    exec (.sensorUpdate i temp) s = .next (s.sensorUpdate i temp) ∧
      (s.sensorUpdate i temp).get (Reg.TS_TEMP.TEMP i) = unsigned 16 temp) ∧
  (∀ (n temp : Nat) (s : State), n < 24 → temp < 256 →
    (s.admitLevel temp ≤ Tab.get 0 s.power.admits n → exec (.hbmHot n temp) s = .next ({ s.put (Reg.HBM_TEMP.T n) temp with
      power := { s.power with admits := Tab.set 0 s.power.admits n (s.admitLevel temp) } } : State)) ∧
    (Tab.get 0 s.power.admits n < s.admitLevel temp → exec (.hbmHot n temp) s = .next
      (({ s.put (Reg.HBM_TEMP.T n) temp with
        power := { s.power with admits := Tab.set 0 s.power.admits n (s.admitLevel temp) } } : State).put
          Reg.PWR_STATUS.HBM_HOT_EVT 1))) ∧
  (∀ (o : Option Nat) (s : State), (∀ i, o = some i → i < 64 ∧ 1840 ≤ s.effTemp i) → s.aon.down = false →
    ∃ t, exec (.thermtrip o) s = .next t ∧ t.aon.down = true ∧ t.aon.tripLow = true ∧ t.hbmSelf = true ∧
      t.ddrSelf = true ∧ (∀ r, r < 4 → t.get (Reg.RING_PWR.MV r) = 550) ∧
      (∀ i, o = some i → s.aon.trip = none → t.aon.trip = some (i, s.stamp 541)) ∧
      (o = none → s.aon.trip = none → ∃ i, i < 64 ∧ t.aon.trip = some (i, s.stamp 541)) ∧
      (∀ x, s.aon.trip = some x → t.aon.trip = some x)) ∧
  (∀ (i : Nat) (s : State), i < 64 → s.effTemp i < 1840 → exec (.thermtrip (some i)) s = .next s) ∧
  (∀ (n : Nat) (s : State), n < 9 → s.aon.perst = false → s.aon.down = false →
    ∃ t, exec (.supplyFault n) s = .next t ∧ t.aon.down = true ∧ t.hbmSelf = true ∧
      (s.aon.supply = none → t.aon.supply = some (n, s.stamp 541)) ∧
      (∀ x, s.aon.supply = some x → t.aon.supply = some x)) ∧
  (∀ (n : Nat) (s : State), n < 9 → s.aon.perst = true → exec (.supplyFault n) s = .next s) ∧
  (∀ (a b c : Bool) (s : State), exec (.referenceMeasurement a b c) s = .next
    (((s.put Reg.CLK_STATUS.BAD_PCIE (ofBool a)).put Reg.CLK_STATUS.BAD_BREF (ofBool b)).put
      Reg.CLK_STATUS.BAD_GL (ofBool c))) ∧
  (∀ s : State, s.refBad (s.get Reg.CLK_STATUS.SRC) = true → s.refBad (1 - s.get Reg.CLK_STATUS.SRC) = false →
    exec .refClockSwitch s = .next ((s.put Reg.CLK_STATUS.SRC (1 - s.get Reg.CLK_STATUS.SRC)).put
      Reg.PWR_STATUS.REF_EVT 1)) ∧
  (∀ s : State, s.refBad (s.get Reg.CLK_STATUS.SRC) = false ∨ s.refBad (1 - s.get Reg.CLK_STATUS.SRC) = true →
    exec .refClockSwitch s = .next s) ∧
  (∀ s : State, s.refBad 0 = false ∨ s.refBad 1 = false → exec .refClocksBad s = .next s) ∧
  (∀ s : State, s.refBad 0 = true → s.refBad 1 = true →
    exec .refClocksBad s = .next (s.raiseErr { code := 0x14, island := 541 })) ∧
  (∀ (i : Nat) (s : State), i < 543 →
    (i ∉ s.stopped → exec (.clockLockLoss i) s = .next { s with stopped := s.stopped ++ [i] } ∧
      ({ s with stopped := s.stopped ++ [i] } : State).islandHeld i = true) ∧
    (i ∈ s.stopped → exec (.clockLockLoss i) s = .next s))

/-! ## The High Striker -/

/-- An `HS_CMD` that fails a check is rejected (R535). An accepted one either refuses its test with the result of R528,
R530, R534 or R535, or starts it: a logic test with its save, an analogue check with its measurement (R527, R532). Save
leads to the test or, where work arrived or waits at the target, to the restore; the test to the restore, cut short with
ABANDONED where work waits (R527, R529); leaving the window cuts it short with result 3 (R530); and the end of the
restore releases the target, whose phase is then 0, and delivers the words that waited at it (R18, R529). A logic test
whose restore is over reports what cut it short, or PASS where the signature is the reference's, or FAIL, which loses
the core or bars the troupe with the code 0x13 (R531, R535); an analogue check reports PASS between its limits and FAIL
outside them, and a temperature sensor that fails is used no longer (R532, R533). Every report sets `DONE_EVT`, and ends
`BUSY` and the phase; a FAIL sets `FAIL_EVT` (R535). -/
def Obligations.StrikerComplete : Prop :=
  (∀ (v : Nat) (s : State), s.Open → s.hsCode (bits v 12 4) (bits v 0 12) (bits v 16 2) ≠ 0 →
    exec (.hsCmd v) s = .next (s.reject (s.hsCode (bits v 12 4) (bits v 0 12) (bits v 16 2)) 0xD00000 none)) ∧
  (∀ (v : Nat) (s u : State), s.Open → s.hsCode (bits v 12 4) (bits v 0 12) (bits v 16 2) = 0 →
    u = (s.put Reg.HS_STATUS.TARGET (bits v 0 16)).put Reg.HS_STATUS.DEPTH (bits v 16 2) →
    (u.hsRefusal (bits v 12 4) (bits v 0 12) (bits v 16 2) ≠ 0 →
      exec (.hsCmd v) s = .next (u.hsReport (u.hsRefusal (bits v 12 4) (bits v 0 12) (bits v 16 2)))) ∧
    (u.hsRefusal (bits v 12 4) (bits v 0 12) (bits v 16 2) = 0 →
      ∃ t, exec (.hsCmd v) s = .next t ∧ t.get Reg.HS_STATUS.BUSY = 1 ∧ t.get Reg.HS_STATUS.TARGET = bits v 0 16 ∧
        t.get Reg.HS_STATUS.PHASE = (if bits v 12 4 ≤ 1 then 1 else 2) ∧
        some (t.get Reg.HS_REF.V) = (s.hsEntry (bits v 12 4) (bits v 16 2)).map (· % 2 ^ 64) ∧
        t.get Reg.HS_RUNS.N = (s.get Reg.HS_RUNS.N + 1) % 2 ^ 64 ∧ t.mem = s.mem ∧ t.cores = s.cores)) ∧
  (∀ s : State,
    (s.logicPhase 1 = true → s.hs.early = false → s.testArrivals = false →
      exec .hsPhaseDone s = .next (s.put Reg.HS_STATUS.PHASE 2)) ∧
    (s.logicPhase 1 = true → s.hs.early = true ∨ s.testArrivals = true →
      exec .hsPhaseDone s = .next (s.hsRestore 5)) ∧
    (s.logicPhase 2 = true → s.testArrivals = false → exec .hsPhaseDone s = .next (s.hsRestore 0)) ∧
    (s.logicPhase 2 = true → s.testArrivals = true → exec .hsPhaseDone s = .next (s.hsRestore 5)) ∧
    (∀ i, s.logicPhase 3 = true → s.testIsland = some i → exec .hsPhaseDone s = .next
      (if s.hsRelease.testIsland = none then s.hsRelease.deliverAll i else s.hsRelease)) ∧
    (s.logicPhase 1 = true → exec .hsArrivalAbandon s = .next ({ s with hs := { s.hs with early := true } } : State)) ∧
    (s.logicPhase 2 = true → exec .hsArrivalAbandon s = .next (s.hsRestore 5)) ∧
    (s.logicPhase 2 = true → s.inTestWindow s.hsTarget.1 s.hsTarget.2 = false →
      exec .hsWindowExit s = .next (s.hsRestore 3)) ∧
    (∀ cut, (s.hsRestore cut).hs.cut = cut ∧ (s.hsRestore cut).get Reg.HS_STATUS.PHASE = 3) ∧
    (s.hsTarget.1 = 1 → s.hsRelease.get Reg.HS_STATUS.PHASE = 0 ∧ s.hsRelease.hs.ended = true ∧
      s.hsRelease.testIsland = none)) ∧
  (∀ (sig : Nat) (s : State), s.flag Reg.HS_STATUS.BUSY = true → s.hsTarget.1 ≤ 1 → s.hs.ended = true →
    (s.hs.cut ≠ 0 → exec (.hsResult sig) s = .next (s.hsReport s.hs.cut)) ∧
    (s.hs.cut = 0 → sig % 2 ^ 64 = s.get Reg.HS_REF.V →
      exec (.hsResult sig) s = .next ((s.put Reg.HS_SIG.V sig).hsReport 1)) ∧
    (s.hs.cut = 0 → sig % 2 ^ 64 ≠ s.get Reg.HS_REF.V →
      exec (.hsResult sig) s = .next ((s.put Reg.HS_SIG.V sig).hsReport 2).logicFail)) ∧
  (∀ s : State,
    (s.hsTarget.1 = 0 → s.logicFail = s.coreLost (s.hsTarget.2 / 16) (s.hsTarget.2 % 16)) ∧
    (s.hsTarget.1 = 1 → s.hsTarget.2 ∉ s.barred →
      s.logicFail = ({ s with barred := s.barred ++ [s.hsTarget.2] } : State).raiseErr
        { code := 0x13, island := rmIsland s.hsTarget.2, unit := 0, troupe := s.hsTarget.2, ofOp := false })) ∧
  (∀ (x : Int) (s : State), s.flag Reg.HS_STATUS.BUSY = true → 2 ≤ s.hsTarget.1 → s.hsTarget.1 ≠ 7 → s.hs.loop = none →
    exec (.analogueCheckDone x) s = .next ((s.put Reg.HS_SIG.V (unsigned 64 x)).hsReport
      (if signed 32 (s.get Reg.HS_REF.V) ≤ x ∧ x ≤ signed 32 (s.get Reg.HS_REF.V / 2 ^ 32) then 1 else 2))) ∧
  (∀ (x : Int) (s : State), s.flag Reg.HS_STATUS.BUSY = true → s.hsTarget.1 = 7 → s.hs.loop = none →
    (signed 32 (s.get Reg.HS_REF.V) ≤ x ∧ x ≤ signed 32 (s.get Reg.HS_REF.V / 2 ^ 32) →
      exec (.analogueCheckDone x) s = .next ((s.put Reg.HS_SIG.V (unsigned 64 x)).hsReport 1)) ∧
    (x < signed 32 (s.get Reg.HS_REF.V) ∨ signed 32 (s.get Reg.HS_REF.V / 2 ^ 32) < x →
      ∃ t, exec (.analogueCheckDone x) s = .next t ∧ s.hsTarget.2 ∈ t.hs.badSensors ∧
        t.get Reg.HS_STATUS.RESULT = 2)) ∧
  (∀ (n : Nat) (s : State), n < 8 → (s.hsReport n).get Reg.HS_STATUS.RESULT = n ∧ (s.hsReport n).get Reg.HS_STATUS.BUSY = 0 ∧
    (s.hsReport n).get Reg.HS_STATUS.PHASE = 0 ∧ (s.hsReport n).get Reg.HS_STATUS.DONE_EVT = 1 ∧
    (n = 2 → (s.hsReport n).get Reg.HS_STATUS.FAIL_EVT = 1))

/-! ## Security -/

/-- An accepted mailbox command ends with its reason code (R557): a nonce is issued (R555), the identity key returned
(R540), a policy module verified and measured (R544, R549), a counter raised to the version last verified but never
above 64 and never downward (R546), a root slot revoked (R548), the debug port opened, the nonce spent either way (R555,
R556). One that fails a check is rejected. That a command ends in its step is the model's choice (log 57). -/
def Obligations.SecurityMailboxComplete : Prop :=
  (∀ s : State, s.Open → s.secCode 1 0 = 0 →
    ∃ t, exec .getNonce s = .next t ∧ t.sec.nonce.isSome = true ∧ t.get Reg.SEC_STATUS.CODE = 0 ∧
      t.get Reg.SEC_STATUS.DONE_EVT = 1 ∧ t.mem = s.mem) ∧
  (∀ s : State, s.Open → s.secCode 2 0 = 0 → exec .getIdentity s = .next ((s.secData identityKey).secDone 0)) ∧
  (∀ (s : State) (b : List Byte), s.Open → s.secCode 3 0 = 0 → b = s.memObj (s.get Reg.SEC_ADDR.ADDR * 8) →
    exec .verify s = .next (if s.verifyObj s.sec.enrolled 2 b = 0 then
      ((s.noteSvn 2 b).extendMeas 8 (sha512 b)).secDone 0 else s.secDone (s.verifyObj s.sec.enrolled 2 b))) ∧
  (∀ (k : Nat) (s : State), k < 4 → s.Open → s.secCode 4 k = 0 →
    (∀ n, Tab.get none s.sec.last k = some n →
      exec (.svnCommit k) s = .next ((s.put (svnFld k) (max (s.get (svnFld k)) (min n 64))).secDone 0)) ∧
    (Tab.get none s.sec.last k = none →
      exec (.svnCommit k) s = .next ((s.put (svnFld k) (s.get (svnFld k))).secDone 0))) ∧
  (∀ (s : State) (b : List Byte), s.Open → s.secCode 5 0 = 0 → b = s.memObj (s.get Reg.SEC_ADDR.ADDR * 8) →
    exec .revoke s = .next (if s.revokeCode b = 0 then (s.put Reg.SEC_FUSE.REVOKED
      (setBit (s.get Reg.SEC_FUSE.REVOKED) ((objBody b).getD 0 0).toNat true)).secDone 0 else s.secDone (s.revokeCode b))) ∧
  (∀ (s u : State) (b : List Byte), s.Open → s.secCode 6 0 = 0 → b = s.memObj (s.get Reg.SEC_ADDR.ADDR * 8) →
    u = { s with sec := { s.sec with nonce := none } } →
    exec .debugOpen s = .next (if s.debugCode b = 0 then (u.openDebug b).secDone 0 else u.secDone (s.debugCode b))) ∧
  (∀ (c : Nat) (s : State), c < 8 → (s.secDone c).get Reg.SEC_STATUS.CODE = c ∧
    (s.secDone c).get Reg.SEC_STATUS.DONE_EVT = 1) ∧
  (∀ (op k : Nat) (i : Instr) (s : State), s.Open → k < 256 →
    (op, i) ∈ [(1, Instr.getNonce), (2, .getIdentity), (3, .verify), (5, .revoke), (6, .debugOpen), (4, .svnCommit k)] →
    s.secCode op (if op = 4 then k else 0) ≠ 0 →
    exec i s = .next (s.reject (s.secCode op (if op = 4 then k else 0)) 0x900000 none))

/-- SPDM requests that have arrived over a transport are answered while the device is up and its control pairs work
(R425, R551): the version, the capabilities, the algorithms where one is supported; slot 0's digest, chain and
signature, or ERROR where `CERT_OK` is clear or the slot is another (R541); the measurements as they stand, signed if
asked, where the index names them (R549, R550). A mailbox that holds no request answers none. A key exchange opens the
first free of four sessions, over mailbox 1 or MCTP, and none where four stand (R551); FINISH completes one where its
check holds, a heartbeat and a key update are answered in a completed one, and its end frees it; a request of a session
that does not stand, or is not complete, receives ERROR. Keys come over a completed session: IDE keys over mailbox 1 at
64 GT/s or more, a set in use being Secure until it stops (R478, R552); Guyline keys for a port that is present, into a
slot that is not in use, the change coming with the next MAC flit (R553, R554). What does not meet this receives ERROR,
and a key request of a fused port is counted as `FUSED_UNIT` as well (R3). -/
def Obligations.SpdmAndKeysComplete : Prop :=
  (∀ (tr : Nat) (s : State), tr < 3 → s.aon.down = false → s.pairsFailed = false →
    (tr < 2 → (s.mailbox tr).req.isSome = true) →
    (exec (.getVersion tr) s = .next (s.spdmReply tr true [0x13])) ∧
    (exec (.getCapabilities tr) s = .next (s.spdmReply tr true [17])) ∧
    (∀ ok, exec (.negotiateAlgorithms tr ok) s = .next (s.spdmReply tr ok [])) ∧
    (s.flag Reg.SEC_STATUS.CERT_OK = true →
      exec (.getDigests tr) s = .next (s.spdmReply tr true (1 :: sha512 s.identityArea)) ∧
      (∀ o n, exec (.getCertificate tr 0 o n) s = .next (s.spdmReply tr true (cut s.identityArea o n))) ∧
      (∀ nonce, exec (.challenge tr 0 nonce) s = .next (s.spdmReply tr true (identitySig nonce)))) ∧
    (s.flag Reg.SEC_STATUS.CERT_OK = false →
      exec (.getDigests tr) s = .next (s.spdmReply tr true [0]) ∧
      (∀ k o n, exec (.getCertificate tr k o n) s = .next (s.spdmReply tr false [])) ∧
      (∀ k nonce, exec (.challenge tr k nonce) s = .next (s.spdmReply tr false [])) ∧
      (∀ i nonce, exec (.getMeasurements tr i true nonce) s = .next (s.spdmReply tr false []))) ∧
    (∀ k, k ≠ 0 → (∀ o n, exec (.getCertificate tr k o n) s = .next (s.spdmReply tr false [])) ∧
      ∀ nonce, exec (.challenge tr k nonce) s = .next (s.spdmReply tr false [])) ∧
    (∀ i nonce, 1 ≤ i → i ≤ 8 →
      exec (.getMeasurements tr i false nonce) s = .next (s.spdmReply tr true (s.meas i)) ∧
      (s.flag Reg.SEC_STATUS.CERT_OK = true → exec (.getMeasurements tr i true nonce) s = .next
        (s.spdmReply tr true (s.meas i ++ identitySig (nonce ++ s.meas i))))) ∧
    (∀ nonce d, d = (List.range 8).flatMap (fun i => s.meas (i + 1)) →
      exec (.getMeasurements tr 0xFF false nonce) s = .next (s.spdmReply tr true d) ∧
      (s.flag Reg.SEC_STATUS.CERT_OK = true →
        exec (.getMeasurements tr 0xFF true nonce) s = .next (s.spdmReply tr true (d ++ identitySig (nonce ++ d))))) ∧
    (∀ i signed nonce, i = 0 ∨ (8 < i ∧ i ≠ 0xFF) →
      exec (.getMeasurements tr i signed nonce) s = .next (s.spdmReply tr false [])) ∧
    (∀ ok data, (s.spdmReply tr ok data).sec.reply = ⟨tr, ok, data⟩ ∧
      (tr < 2 → ((s.spdmReply tr ok data).mailbox tr).resp = some data))) ∧
  (∀ (tr : Nat) (s : State), tr < 2 → (s.mailbox tr).req = none → exec (.getVersion tr) s = .next s) ∧
  (∀ (tr : Nat) (s : State), tr < 3 → s.aon.down = false → s.pairsFailed = false →
    (tr < 2 → (s.mailbox tr).req.isSome = true) →
    (∀ n, (List.range 4).find? (fun k => (s.session k).isNone) = some n → exec (.keyExchange tr) s = .next
      ((s.setSession n (some { tr := if tr = 2 then 2 else 1 })).spdmReply tr true [])) ∧
    ((List.range 4).find? (fun k => (s.session k).isNone) = none →
      exec (.keyExchange tr) s = .next (s.spdmReply tr false []))) ∧
  (∀ (n : Nat) (s : State), n < 4 → s.aon.down = false → s.pairsFailed = false →
    (s.sessTr n < 2 → (s.mailbox (s.sessTr n)).req.isSome = true) →
    (∀ x, s.session n = some x → x.up = false →
      exec (.finish n true) s = .next ((s.setSession n (some { x with up := true })).sessReply n true)) ∧
    (∀ ok, ok = false ∨ s.session n = none ∨ s.sessUp n = true →
      exec (.finish n ok) s = .next (s.sessReply n false)) ∧
    exec (.heartbeatSpdm n) s = .next (s.sessReply n (s.sessUp n)) ∧
    (∀ x, s.session n = some x → x.up = true → exec (.keyUpdate n) s = .next
      ((s.setSession n (some { x with updates := x.updates + 1 })).sessReply n true)) ∧
    (s.sessUp n = true → exec (.endSession n) s = .next ((s.sessReply n true).setSession n none)) ∧
    (s.sessUp n = false → exec (.keyUpdate n) s = .next (s.sessReply n false) ∧
      exec (.endSession n) s = .next (s.sessReply n false))) ∧
  (∀ (n m k : Nat) (key : List Byte) (s : State), n < 4 → m < 4 → k < 2 → key.length = 32 → s.aon.down = false →
    s.pairsFailed = false → s.ideMay n = true → (s.mailbox 1).req.isSome = true →
    exec (.keyProg n m k key) s = .next ((s.setStream m
      { s.stream m with keys := Tab.set [] (s.stream m).keys k key }).sessReply n true) ∧
    (Tab.get [] (s.stream m).keys k ≠ [] → exec (.kSetGo n m k) s = .next ((s.setStream m
      { s.stream m with active := some k, secure := true }).sessReply n true)) ∧
    (Tab.get [] (s.stream m).keys k = [] → exec (.kSetGo n m k) s = .next (s.sessReply n false)) ∧
    ((s.stream m).active = some k → exec (.kSetStop n m k) s = .next ((s.setStream m
      { s.stream m with active := none, secure := false }).sessReply n true))) ∧
  (∀ (n m k : Nat) (key : List Byte) (s : State), n < 4 → m < 4 → k < 2 → key.length = 32 → s.aon.down = false →
    s.pairsFailed = false → s.ideMay n = false → (s.sessTr n < 2 → (s.mailbox (s.sessTr n)).req.isSome = true) →
    exec (.keyProg n m k key) s = .next (s.sessReply n false) ∧ exec (.kSetGo n m k) s = .next (s.sessReply n false) ∧
      exec (.kSetStop n m k) s = .next (s.sessReply n false)) ∧
  (∀ (n p d k id : Nat) (key : List Byte) (s : State), n < 4 → p < 16 → d < 2 → k < 2 → id < 2 ^ 32 → key.length = 32 →
    s.aon.down = false → s.pairsFailed = false → (s.sessTr n < 2 → (s.mailbox (s.sessTr n)).req.isSome = true) →
    (s.sessUp n = true → s.portPresent p = true → s.keyBusy p d k = false →
      exec (.glKeyProg n p d k id key) s = .next ((s.setPort p { s.port p with
        keys := Tab.set none (s.port p).keys (2 * d + k) (some (id, key)) }).sessReply n true)) ∧
    (s.sessUp n = true → s.portPresent p = true → s.keyBusy p d k = true →
      exec (.glKeyProg n p d k id key) s = .next (s.sessReply n false)) ∧
    (s.sessUp n = true → s.portPresent p = true →
      exec (.glKeyGo n p) s = .next ((s.setPort p { s.port p with keyGo := true }).sessReply n true)) ∧
    (s.sessUp n = true → s.portPresent p = false →
      exec (.glKeyProg n p d k id key) s = .next ((s.reject 0x05 0 none).sessReply n false) ∧
      exec (.glKeyGo n p) s = .next ((s.reject 0x05 0 none).sessReply n false)) ∧
    (s.sessUp n = false → exec (.glKeyProg n p d k id key) s = .next (s.sessReply n false) ∧
      exec (.glKeyGo n p) s = .next (s.sessReply n false)))

/-! ## Management -/

/-- MCTP control and the I3C binding (R567, R568), and PLDM types 0 and 2 where they are served (R569, R570): addresses
and identifiers are taken, versions, types, commands, records and readings answered, events polled oldest first or sent
to the receiver, where one is set; what names no type, record or sensor is answered `ERROR`. A request of a type that is
not served is answered `ERROR_NOT_READY` (R567), while the device is up. The layout of a record and of an answer's data
is the model's choice (logs 16, 59). -/
def Obligations.ManagementRequestsAnswered : Prop :=
  (∀ s : State, s.aon.down = false → s.typeServed 0 = true →
    (∀ e, e < 256 → exec (.setEndpointId e) s = .next ((s.put Reg.MGMT_STATUS.EID e).answer .success)) ∧
    exec .getTid s = .next (s.answer .success [s.mgmt.tid]) ∧
    (∀ t, t < 256 → exec (.setTid t) s = .next (({ s with mgmt := { s.mgmt with tid := t } } : State).answer .success)) ∧
    (∀ ty ∈ pldmTypes, exec (.getPldmVersion ty) s = .next (s.bumpFree.answer .success [s.takeFree ty % 2 ^ 32])) ∧
    exec .getPldmTypes s = .next (s.answer .success [0, 2, 5]) ∧
    (∀ ty ∈ pldmTypes, exec (.getPldmCommands ty) s = .next (s.answer .success (List.range (pldmCommandCount ty)))) ∧
    (∀ ty, ty ∉ pldmTypes → exec (.getPldmVersion ty) s = .next (s.answer .error) ∧
      exec (.getPldmCommands ty) s = .next (s.answer .error))) ∧
  (∀ s : State, s.aon.down = false → s.typeServed 2 = true →
    exec .getPdrRepositoryInfo s = .next (s.answer .success [s.pdrCount]) ∧
    (∀ n, n < s.readings.length → exec (.getPdr n) s = .next (s.answer .success [n, 0])) ∧
    (∀ n, s.readings.length ≤ n → n < s.pdrCount →
      exec (.getPdr n) s = .next (s.answer .success [n - s.readings.length, 1])) ∧
    (∀ n, s.pdrCount ≤ n → exec (.getPdr n) s = .next (s.answer .error)) ∧
    (∀ n v, s.readings[n]? = some v → exec (.getSensorReading n) s = .next (s.answer .success [unsigned 64 v])) ∧
    (∀ n v, s.stateReadings[n]? = some v → exec (.getStateSensorReadings n) s = .next (s.answer .success [v])) ∧
    (∀ n, s.readings.length ≤ n → exec (.getSensorReading n) s = .next (s.answer .error)) ∧
    (∀ n, s.stateReadings.length ≤ n → exec (.getStateSensorReadings n) s = .next (s.answer .error)) ∧
    (∀ a, a < 256 → exec (.setEventReceiver a) s = .next
      (({ s with mgmt := { s.mgmt with receiver := some a } } : State).answer .success)) ∧
    (∀ e rest, s.mgmt.events = e :: rest →
      exec .pollForPlatformEvent s = .next (({ s with mgmt := { s.mgmt with events := rest } } : State).answer
        .success [e]) ∧
      (s.mgmt.receiver.isSome = true → exec .platformEventMessage s = .next
        (({ s with mgmt := { s.mgmt with events := rest } } : State).answer .success [e]))) ∧
    (s.mgmt.events = [] → exec .pollForPlatformEvent s = .next (s.answer .success []))) ∧
  (∀ s : State, s.mgmt.receiver = none ∨ s.mgmt.events = [] → exec .platformEventMessage s = .next s) ∧
  (∀ a s, a < 128 → exec (.i3cAddressAssign a) s = .next
    (({ s with mgmt := { s.mgmt with i3c := some a } } : State).put Reg.MGMT_STATUS.I3C 1)) ∧
  (∀ s : State, exec .rstdaa s = .next (({ s with mgmt := { s.mgmt with i3c := none } } : State).put
    Reg.MGMT_STATUS.I3C 0)) ∧
  (∀ (i : Instr) (ty : Nat) (s : State), s.aon.down = false → s.typeServed ty = false →
    (ty, i) ∈ [(0, Instr.getTid), (0, .getPldmTypes), (2, .getPdrRepositoryInfo), (2, .pollForPlatformEvent),
      (5, .queryDeviceIdentifiers), (5, .getFirmwareParameters), (5, .requestUpdate), (5, .transferComplete),
      (5, .verifyComplete), (5, .applyComplete), (5, .activateFirmware), (5, .getStatus), (5, .cancelUpdateComponent),
      (5, .cancelUpdate)] → exec i s = .next (s.answer .errorNotReady)) ∧
  (∀ (n : Nat) (s : State), s.aon.down = false →
    (s.typeServed 0 = false → n < 256 → exec (.setEndpointId n) s = .next (s.answer .errorNotReady) ∧
      exec (.setTid n) s = .next (s.answer .errorNotReady)) ∧
    (s.typeServed 0 = false → exec (.getPldmVersion n) s = .next (s.answer .errorNotReady) ∧
      exec (.getPldmCommands n) s = .next (s.answer .errorNotReady)) ∧
    (s.typeServed 2 = false → exec (.getPdr n) s = .next (s.answer .errorNotReady) ∧
      exec (.getSensorReading n) s = .next (s.answer .errorNotReady) ∧
      exec (.getStateSensorReadings n) s = .next (s.answer .errorNotReady) ∧
      (n < 256 → exec (.setEventReceiver n) s = .next (s.answer .errorNotReady))) ∧
    (s.typeServed 5 = false → exec (.updateComponent n) s = .next (s.answer .errorNotReady) ∧
      (∀ l, exec (.passComponentTable l) s = .next (s.answer .errorNotReady)) ∧
      ∀ d : List Byte, d.length ≤ 4096 → exec (.requestFirmwareData n d) s = .next (s.answer .errorNotReady)))

/-- A firmware update goes through its states (R571 to R574): requested once, its components named, each received into
its slot, verified, applied, and all activated by a new directory copy; a step out of its state is answered `ERROR`, and
a piece that reaches beyond the slot fails its transfer; it may be cancelled, in whole or for one component. -/
def Obligations.FirmwareUpdatesComplete : Prop :=
  ∀ s : State, s.aon.down = false → s.typeServed 5 = true →
    exec .queryDeviceIdentifiers s = .next (s.bumpFree.answer .success [s.takeFree 0]) ∧
    exec .getFirmwareParameters s = .next (s.answer .success [s.get Reg.SEC_SVN.FW, s.get Reg.SEC_SVN.PLAYBILL,
      s.get Reg.SEC_SVN.STB, s.get Reg.FLASH_DIR.FW_READ, s.get Reg.FLASH_DIR.PB_ACTIVE, s.get Reg.FLASH_DIR.ST_ACTIVE]) ∧
    exec .getStatus s = .next (s.answer .success [s.updState]) ∧
    (s.updState ≠ 0 → exec .requestUpdate s = .next (s.answer .alreadyInUpdateMode)) ∧
    (s.updState = 0 → exec .requestUpdate s = .next ((({ s with mgmt := { s.mgmt with
      named := [], applied := [], comp := 0, bad := false } } : State).toUpd 1).answer .success)) ∧
    (∀ comps, s.updState = 1 → (∀ c ∈ comps, 1 ≤ c ∧ c ≤ 3) → exec (.passComponentTable comps) s = .next
      (({ s with mgmt := { s.mgmt with named := comps } } : State).answer .success)) ∧
    (∀ c, s.updState = 1 ∨ s.updState = 5 → c ∈ s.mgmt.named → exec (.updateComponent c) s = .next
      ((({ s with mgmt := { s.mgmt with comp := c, slot := s.targetSlot c, bad := false } } : State).toUpd 2).answer
        .success)) ∧
    (∀ (o : Nat) (d : List Byte), s.updState = 2 → d.length ≤ 4096 →
      o + d.length ≤ (flashSlot s.mgmt.comp s.mgmt.slot).2 → exec (.requestFirmwareData o d) s = .next
        ((s.writeFlash ((flashSlot s.mgmt.comp s.mgmt.slot).1 + o) d).answer .success)) ∧
    (∀ (o : Nat) (d : List Byte), s.updState = 2 → d.length ≤ 4096 →
      (flashSlot s.mgmt.comp s.mgmt.slot).2 < o + d.length → exec (.requestFirmwareData o d) s = .next
        (({ s with mgmt := { s.mgmt with bad := true } } : State).answer .error)) ∧
    (s.updState = 2 → s.mgmt.bad = false → exec .transferComplete s = .next ((s.toUpd 3).answer .success)) ∧
    (s.updState = 2 → s.mgmt.bad = true → exec .transferComplete s = .next (s.betweenComps.answer .error)) ∧
    (s.updState = 3 → ∃ t, exec .verifyComplete s = .next t ∧ t.get Reg.MGMT_STATUS.VFY_EVT = 1 ∧ t.flash = s.flash ∧
      t.updState = (if s.compOk s.mgmt.comp s.mgmt.slot = true then 4 else if s.mgmt.applied = [] then 1 else 5)) ∧
    (s.updState = 4 → ∃ t, exec .applyComplete s = .next t ∧ t.updState = 5 ∧
      (s.mgmt.comp, s.mgmt.slot) ∈ t.mgmt.applied ∧ t.flash = s.flash) ∧
    (s.updState = 5 → exec .activateFirmware s = .next (s.writeDirectory.endUpdate.answer .success) ∧
      s.writeDirectory.endUpdate.updState = 0 ∧ s.writeDirectory.endUpdate.get Reg.MGMT_STATUS.ACT_EVT = 1 ∧
      s.writeDirectory.endUpdate.boot.waiting = false) ∧
    (2 ≤ s.updState → s.updState ≤ 4 → exec .cancelUpdateComponent s = .next (s.betweenComps.answer .success)) ∧
    (s.updState ≠ 0 → ∃ t, exec .cancelUpdate s = .next t ∧ t.updState = 0 ∧ t.flash = s.flash) ∧
    (∀ l, s.updState ≠ 1 ∨ (∃ c ∈ l, c < 1 ∨ 3 < c) → exec (.passComponentTable l) s = .next (s.answer .error)) ∧
    (∀ c, (s.updState ≠ 1 ∧ s.updState ≠ 5) ∨ c ∉ s.mgmt.named → exec (.updateComponent c) s = .next (s.answer .error)) ∧
    (s.updState ≠ 2 → exec .transferComplete s = .next (s.answer .error) ∧
      ∀ (o : Nat) (d : List Byte), d.length ≤ 4096 → exec (.requestFirmwareData o d) s = .next (s.answer .error)) ∧
    (s.updState ≠ 3 → exec .verifyComplete s = .next (s.answer .error)) ∧
    (s.updState ≠ 4 → exec .applyComplete s = .next (s.answer .error)) ∧
    (s.updState ≠ 5 → exec .activateFirmware s = .next (s.answer .error)) ∧
    (s.updState < 2 ∨ 4 < s.updState → exec .cancelUpdateComponent s = .next (s.answer .error)) ∧
    (s.updState = 0 → exec .cancelUpdate s = .next (s.answer .error))

/-! ## Resets and start-up -/

/-- Power-on, cold and warm resets (R507): the kind is recorded, the cores, contexts and queues are empty, the flash and
the host's memory stand, and the time runs on but after power-on. A cold reset is taken when PERST# falls, and keeps the
rate of Showtime; PERST# deasserted starts the device up with the straps it latches (R508, R509). A write of `DEV_RESET`
that fails its check is rejected, and another is a warm reset, whose BAR0 is dark (R522). Function Level Reset frees the
jobs, stops the rings and clears the window, the mailboxes and the streams (R521). That device memory reads after a
reset as memory that nothing has written is the model's choice (log 4). -/
def Obligations.ResetsComplete : Prop :=
  (∀ s : State, ∃ t, exec .powerOnReset s = .next t ∧ t.get Reg.DEV_BOOT.RESET_KIND = 0 ∧ t.time = {} ∧ t.aon = {} ∧
    t.mem = [] ∧ t.cores = [] ∧ t.ctx = [] ∧ t.queues = [] ∧ t.flash = s.flash ∧ t.host = s.host ∧ t.pending = s.pending) ∧
  (∀ s : State, s.aon.perst = false → ∃ t, exec .perstAssert s = .next t ∧ t.get Reg.DEV_BOOT.RESET_KIND = 1 ∧
    t.time.root = s.time.root ∧ t.time.frac = s.time.frac ∧ t.aon.perst = true ∧ t.aon.up = s.aon.up ∧
    t.get Reg.ST_RATE.RATE = s.get Reg.ST_RATE.RATE ∧ t.get Reg.DEV_STATUS.READY = 0 ∧ t.boot.running = false ∧
    t.cores = [] ∧ t.flash = s.flash ∧ t.host = s.host) ∧
  (∀ s : State, s.aon.perst = true → exec .perstAssert s = .next s) ∧
  (∀ (m : Nat) (s : State), s.aon.perst = false → exec (.perstDeassert m) s = .next s) ∧
  (∀ (m : Nat) (s : State), s.aon.perst = true → ∃ t, exec (.perstDeassert m) s = .next t ∧ t.aon.perst = false ∧
    t.boot.running = true ∧ t.get Reg.DEV_BOOT.BOOT_MODE = m % 8 ∧ t.boot.cur = (if s.aon.up = true then 2 else 1) ∧
    t.aon.trip = none ∧ t.aon.supply = none ∧ t.mem = s.mem ∧ t.flash = s.flash) ∧
  (∀ (v m : Nat) (s : State), s.aon.down = false →
    (s.devResetCode v ≠ 0 → exec (.devReset v m) s = .next (s.reject (s.devResetCode v) 0x20 none)) ∧
    (s.devResetCode v = 0 → ∃ t, exec (.devReset v m) s = .next t ∧ t.get Reg.DEV_BOOT.RESET_KIND = 2 ∧
      t.boot.dark = true ∧ t.boot.running = true ∧ t.get Reg.DEV_BOOT.BOOT_MODE = m % 8 ∧ t.pcie = s.pcie ∧
      t.time.root = s.time.root ∧ t.cores = [] ∧ t.flash = s.flash)) ∧
  (∀ s : State, ∃ t, exec .flr s = .next t ∧ (∀ j, j < 8 → t.jobState j = 0) ∧
    (∀ q, q < 9 → t.get (Reg.RING_CFG.EN q) = 0) ∧ (∀ j, j < 8 → t.get (Reg.FR_CFG.EN j) = 0) ∧
    t.get Reg.HIF_WIN.BASE = 0 ∧ t.get Reg.HIF_WIN.MODE = 0 ∧ t.rings = [] ∧ t.doe = [] ∧ t.ide = [] ∧ t.pcie = s.pcie)

/-- The steps of start-up end in their order, each with what it brings (R509 to R516): step 1 brings the always-on
domain up; 2 reads the straps' mode, a management load waiting and a reserved strap stopping with cause 6; 3 reads the
images, 4 checks them, 5 commits the Playbill, 6 starts the control pairs, 7 tests, 8 trains the memories, 9 waits for
the ports and Showtime, and 10 makes the device READY. A step that fails or overruns its bound stops start-up with its
step and cause, but in 3 and 4, where image B is tried once in the normal mode, in 5, where the reset values are
committed, and in 9, which then ends (R510, R511, R517). The test port loads BYPASS for what it does not accept (R585).
-/
def Obligations.StartUpStepsComplete : Prop :=
  (∀ (us : Nat) (s : State), s.boot.running = true → s.boot.waiting = false →
    (s.boot.cur = 1 → ∃ t, exec (.bootStepComplete (.done us)) s = .next t ∧ t.boot.cur = 2 ∧ t.aon.up = true ∧
      t.get Reg.DEV_STATUS.BOOT_STEP = 1) ∧
    (s.boot.cur = 2 → s.get Reg.DEV_BOOT.BOOT_MODE < 3 → ∃ t, exec (.bootStepComplete (.done us)) s = .next t ∧
      t.boot.cur = 3 ∧ t.boot.dark = false ∧ t.boot.running = true ∧ t.get Reg.DEV_STATUS.BOOT_STEP = 2) ∧
    (s.boot.cur = 2 → s.get Reg.DEV_BOOT.BOOT_MODE = 3 → ∃ t, exec (.bootStepComplete (.done us)) s = .next t ∧
      t.boot.cur = 3 ∧ t.boot.waiting = true) ∧
    (s.boot.cur = 2 → 4 ≤ s.get Reg.DEV_BOOT.BOOT_MODE → ∃ t, exec (.bootStepComplete (.done us)) s = .next t ∧
      t.get Reg.DEV_STATUS.FAILED = 1 ∧ t.get Reg.DEV_BOOT.FAIL_STEP = 2 ∧ t.get Reg.DEV_BOOT.FAIL_CAUSE = 6 ∧
      t.boot.running = false) ∧
    (∀ i p b, s.boot.cur = 3 → exec (.bootStepComplete (.read us i p b)) s = .next (s.bootRead us i p b)) ∧
    (s.boot.cur = 4 → exec (.bootStepComplete (.done us)) s = .next (s.bootCheck us)) ∧
    (s.boot.cur = 5 → exec (.bootStepComplete (.done us)) s = .next (s.bootCommit us s.boot.pb)) ∧
    (∀ c a o, s.boot.cur = 7 → exec (.bootStepComplete (.selfTest us c a o)) s = .next (s.bootSelfTest us c a o)) ∧
    (∀ l m d, s.boot.cur = 8 → exec (.bootStepComplete (.memory us l m d)) s = .next (s.bootMemory us l m d)) ∧
    (s.boot.cur = 9 → s.step9Ready = true → exec (.bootStepComplete (.done us)) s = .next (s.bootLinks us)) ∧
    (∀ cause, (s.boot.cur = 3 ∨ s.boot.cur = 4 →
        exec (.bootStepComplete (.failed us cause)) s = .next (s.imageFail s.boot.cur cause 0)) ∧
      (s.boot.cur = 5 →
        exec (.bootStepComplete (.failed us cause)) s = .next ((s.stepFailed 5 cause 0).bootCommit us none)) ∧
      (s.boot.cur = 9 → exec (.bootStepComplete (.failed us cause)) s = .next (s.bootLinks us))) ∧
    (s.boot.cur = 3 ∨ s.boot.cur = 4 → exec .bootStepTimeout s = .next (s.imageFail s.boot.cur 1 0)) ∧
    (s.boot.cur = 5 → exec .bootStepTimeout s = .next ((s.stepFailed 5 1 0).bootCommit 20000 none)) ∧
    (s.boot.cur = 9 → exec .bootStepTimeout s = .next (s.bootLinks 1200000)) ∧
    (∀ n c r, n = 3 ∨ n = 4 → s.get Reg.DEV_BOOT.BOOT_MODE = 0 → s.flag Reg.DEV_BOOT.FALLBACK = false →
      (s.imageFail n c r).boot.cur = 3 ∧ (s.imageFail n c r).get Reg.DEV_BOOT.IMAGE = 1 ∧
        (s.imageFail n c r).get Reg.DEV_BOOT.FALLBACK = 1) ∧
    (s.boot.cur = 6 → ∃ t, exec (.bootStepComplete (.done us)) s = .next t ∧ t.boot.cur = 7 ∧
      t.get Reg.DEV_STATUS.BOOT_STEP = 6) ∧
    (s.boot.cur = 9 → s.step9Ready = false → exec (.bootStepComplete (.done us)) s = .next s) ∧
    (s.boot.cur = 10 → ∃ t, exec (.bootStepComplete (.done us)) s = .next t ∧ t.get Reg.DEV_STATUS.READY = 1 ∧
      t.get Reg.DEV_STATUS.READY_EVT = 1 ∧ t.get Reg.DEV_STATUS.BOOT_STEP = 10 ∧ t.boot.running = false) ∧
    (s.boot.cur = 2 ∨ s.boot.cur = 6 ∨ s.boot.cur = 7 ∨ s.boot.cur = 8 ∨ s.boot.cur = 10 → ∀ cause, cause < 256 →
      ∃ t, exec (.bootStepComplete (.failed us cause)) s = .next t ∧ t.get Reg.DEV_STATUS.FAILED = 1 ∧
        t.get Reg.DEV_BOOT.FAIL_STEP = s.boot.cur ∧ t.get Reg.DEV_BOOT.FAIL_CAUSE = cause ∧ t.boot.running = false) ∧
    (s.boot.cur = 2 ∨ s.boot.cur = 6 ∨ s.boot.cur = 7 ∨ s.boot.cur = 8 ∨ s.boot.cur = 10 →
      ∃ t, exec .bootStepTimeout s = .next t ∧ t.get Reg.DEV_STATUS.FAILED = 1 ∧
        t.get Reg.DEV_BOOT.FAIL_STEP = s.boot.cur ∧ t.get Reg.DEV_BOOT.FAIL_CAUSE = 1 ∧ t.boot.running = false)) ∧
  (∀ (i : JtagInstr) (s : State), s.jtagMay i = true → i ≠ .idcode →
    exec (.jtagInstruction i) s = .next { s with jtag := i }) ∧
  (∀ s : State, exec (.jtagInstruction .idcode) s = .next { s with jtag := .idcode, mmioData := 0x12472B87 }) ∧
  (∀ (i : JtagInstr) (s : State), s.jtagMay i = false → exec (.jtagInstruction i) s = .next { s with jtag := .bypass })

/-! ## Register accesses of the host -/

/-- A read of an offset that no chapter assigns to a register returns zero, and a write to it is discarded with no other
effect; a write to the block of an island that is held is a word that waits in its crossing first (R18). -/
def Obligations.UnassignedOffsetsReadZero : Prop :=
  ∀ (off v : Nat) (s : State), s.fusedPort off = false → regAt off = none →
    s.barRead off = 0 ∧ s.writeNow off v = s ∧ s.readNow off v = { s with mmioData := 0 } ∧
    (s.accessHeld off = false → exec (.registerWrite off v) s = .next s ∧
      (s.aon.down = false → exec (.rcRead off v) s = .next { s with mmioData := 0 })) ∧
    (s.accessHeld off = true → s.Open →
      exec (.registerWrite off v) s = .next (s.pushWord off { off := off, val := v }))

/-- The host's register accesses (R7 to R10, R18, R23, R381, R388, R426): a write or a read of a register takes effect
where its island is not held, and waits in its crossing where it is; of the Recovery window also while the control pairs
have failed. A write of `MEM_OP_ARG1` stores all its bits and one of `PWR_SHARE` that is in range its four shares, one
that is not is rejected; a clear meets an event of the same clk and the event wins; a read of an RC field returns and
clears it; a trace stream pops its closed records, and a pop of more than it holds, or of none, is rejected. -/
def Obligations.HostAccessesComplete : Prop :=
  (∀ (off v : Nat) (s : State), s.Open → s.fusedPort off = false →
    (s.accessHeld off = false → exec (.registerWrite off v) s = .next (s.writeNow off v) ∧
      exec (.rcRead off v) s = .next (s.readNow off v)) ∧
    (s.accessHeld off = true →
      exec (.registerWrite off v) s = .next (s.pushWord off { off := off, val := v }) ∧
      exec (.rcRead off v) s = .next (s.pushWord off { write := false, off := off, val := v }))) ∧
  (∀ (off v : Nat) (s : State), s.Reached → 0x590000 ≤ off → off < 0x5A0000 →
    exec (.registerWrite off v) s = .next (s.writeNow off v)) ∧
  (∀ (v : Nat) (s : State), s.Open →
    exec (.registerWrite 0xC00008 v) s = .next (s.put Reg.MEM_OP_ARG1.W v)) ∧
  (∀ (v : Nat) (s : State), s.Open →
    (bits v 0 32 ≠ 0 → ∃ t, exec (.registerWrite 0x800010 v) s = .next t ∧ t.get Reg.PWR_SHARE.W0 = bits v 0 8 ∧
      t.get Reg.PWR_SHARE.W1 = bits v 8 8 ∧ t.get Reg.PWR_SHARE.W2 = bits v 16 8 ∧ t.get Reg.PWR_SHARE.W3 = bits v 24 8 ∧
      t.mem = s.mem ∧ t.get Reg.PWR_CAP.CAP_W = s.get Reg.PWR_CAP.CAP_W) ∧
    (bits v 0 32 = 0 → exec (.registerWrite 0x800010 v) s = .next (s.reject 0x06 0x800010 none))) ∧
  (∀ s : State, s.Open →
    exec (.w1cClear 0xC00018 (2 ^ 32) 0) s = .next (s.put Reg.MEM_OP_STATUS.DONE_EVT 0) ∧
    exec (.w1cClear 0xC00018 0 (2 ^ 32)) s = .next (s.put Reg.MEM_OP_STATUS.DONE_EVT 1) ∧
    exec (.w1cClear 0xC00018 (2 ^ 32) (2 ^ 32)) s = .next
      ((s.put Reg.MEM_OP_STATUS.DONE_EVT 1).incSat Reg.MEM_OP_STATUS.EVT_CNT 1)) ∧
  (∀ s : State, s.Open →
    ∃ t, exec (.rcRead 0x800100 0) s = .next t ∧ t.get (Reg.TS_TEMP.PEAK 0) = 0 ∧
      t.get (Reg.TS_TEMP.TEMP 0) = s.get (Reg.TS_TEMP.TEMP 0) ∧
      t.mmioData = s.get (Reg.TS_TEMP.PEAK 0) * 2 ^ 16 + s.get (Reg.TS_TEMP.TEMP 0) ∧ t.mem = s.mem) ∧
  (∀ (q n : Nat) (s : State), q < 9 → s.Open → 1 ≤ n → n < 256 → n ≤ s.traceAvail q →
    exec (.trcPop q n) s = .next (s.popRecords q n)) ∧
  (∀ (q n : Nat) (s : State), q < 9 → s.Open → 1 ≤ n → n < 256 → s.traceAvail q < n →
    exec (.trcPop q n) s = .next (s.reject 0x04 (0x703028 + 64 * q) none)) ∧
  (∀ (q : Nat) (s : State), q < 9 → s.Open →
    exec (.trcPop q 0) s = .next (s.reject 0x06 (0x703028 + 64 * q) none))

/-! ## The command rings -/

/-- A doorbell of an enabled ring in range sets the tail, the completion head or the fault ring's head (R470, R481); one
out of range, of a ring that is disabled or of a reserved page is rejected; none changes anything while the control
pairs have failed (R425); enabling a ring sets `HEAD` to the tail and clears `STOPPED` (R474; what an earlier enabling
left is the model's choice, log 63). -/
def Obligations.DoorbellsComplete : Prop :=
  (∀ (q v : Nat) (s : State), q < 16 → s.aon.down = false → s.pairsFailed = false →
    (s.tailCode q v = 0 → exec (.doorbellTail q v) s = .next (s.put (Reg.RING_STATUS.TAIL q) (v % 2 ^ 16))) ∧
    (s.tailCode q v ≠ 0 → exec (.doorbellTail q v) s = .next (s.bellReject (s.tailCode q v) q 0)) ∧
    (s.cplHeadCode q v = 0 → exec (.doorbellCplHead q v) s = .next (s.put (Reg.CPL_HEAD.IDX q) (v % 2 ^ 16))) ∧
    (s.cplHeadCode q v ≠ 0 → exec (.doorbellCplHead q v) s = .next (s.bellReject (s.cplHeadCode q v) q 8))) ∧
  (∀ (q v : Nat) (s : State), q < 16 → s.aon.down = false → s.pairsFailed = false →
    (s.frHeadCode q v = 0 → exec (.doorbellFrHead q v) s = .next (s.put (Reg.FR_PTR.HEAD q) (v % 2 ^ 32))) ∧
    (s.frHeadCode q v ≠ 0 → exec (.doorbellFrHead q v) s = .next (s.bellReject (s.frHeadCode q v) q 16))) ∧
  (∀ (q v : Nat) (s : State), (9 ≤ q → s.tailCode q v ≠ 0 ∧ s.cplHeadCode q v ≠ 0) ∧ (8 ≤ q → s.frHeadCode q v ≠ 0)) ∧
  (∀ (q v : Nat) (s : State), q < 16 → s.pairsFailed = true → exec (.doorbellTail q v) s = .next s ∧
    exec (.doorbellCplHead q v) s = .next s ∧ exec (.doorbellFrHead q v) s = .next s) ∧
  (∀ (q v : Nat) (s : State), q < 9 → s.Open → 4 ≤ bits v 16 4 → bit v 0 = true → s.flag (Reg.RING_CFG.EN q) = false →
    ∃ t, exec (.ringCfgEnWrite q v) s = .next t ∧ t.get (Reg.RING_CFG.EN q) = 1 ∧
      t.get (Reg.RING_CFG.SIZE_LOG2 q) = bits v 16 4 ∧
      t.get (Reg.RING_STATUS.HEAD q) = s.get (Reg.RING_STATUS.TAIL q) % 2 ^ 16 ∧
      t.get (Reg.RING_STATUS.STOPPED q) = 0 ∧ (t.ringOfNum q).cmds = [] ∧ t.mem = s.mem ∧ t.host = s.host) ∧
  (∀ (q v : Nat) (s : State), q < 9 → s.Open → bits v 16 4 < 4 →
    exec (.ringCfgEnWrite q v) s = .next (s.reject 0x06 (0x100008 + q * 0x100) none))

/-- A ring's next entry is fetched and `HEAD` advances, and one that is not well formed is rejected (R470, R475); a
fetch that fails stops the ring with `PAGE_FAULT` and its vector (R474). The next command of each opcode runs while the
control pairs work (R425) and is done with its code, or is rejected (R471, R472): a register command where its
register's island is not held, a copy piece by piece, which a failed access ends (R472; the pieces are the model's
choice, log 126, and how far a read of host memory that fails had come is free), a page operation once no other runs
(R332). A command that is done is written, in the order in which they are done, to the completion ring with the phase of
its pass, and sends the ring's vector if it asked for it (R473). -/
def Obligations.RingCommandsComplete : Prop :=
  (∀ (q : Nat) (b : List Byte) (s u : State), q < 9 → s.mayFetch q = true →
    b = s.hostBytes (s.get (Reg.RING_BASE.ADDR q) * 64 + 64 * (s.get (Reg.RING_STATUS.HEAD q) % s.ringSize q)) 64 →
    u = (s.setRingNum q { s.ringOfNum q with
      cmds := (s.ringOfNum q).cmds ++ [(entryCmd q (s.get (Reg.RING_STATUS.HEAD q)) b).1] }).put
        (Reg.RING_STATUS.HEAD q) ((s.get (Reg.RING_STATUS.HEAD q) + 1) % 2 ^ 16) →
    ((entryCmd q (s.get (Reg.RING_STATUS.HEAD q)) b).2 = true → exec (.ringEntryFetch q true) s = .next u) ∧
    ((entryCmd q (s.get (Reg.RING_STATUS.HEAD q)) b).2 = false → exec (.ringEntryFetch q true) s = .next
      (u.ringReject q (s.get (Reg.RING_STATUS.HEAD q)) 0x06 (ringJob q)))) ∧
  (∀ (q : Nat) (s : State), q < 9 → s.mayFetch q = true → exec (.ringEntryFetch q false) s = .next
    (((s.put (Reg.RING_STATUS.STOPPED q) 1).put (Reg.RING_STATUS.CODE q) 0x0A).sendVector (ringVector q))) ∧
  (∀ (q : Nat) (c : RingCmd) (s : State), q < 9 → s.pairsFailed = false → s.nextCmd q 0x01 = some c →
    exec (.cmdNop q) s = .next (s.ringDone q c.idx 0 0)) ∧
  (∀ (q off : Nat) (c : RingCmd) (s : State), q < 9 → s.pairsFailed = false → s.nextCmd q 0x02 = some c →
    off = bits c.a0 0 26 →
    (s.accessHeld off = false ∨ s.fusedPort off = true →
      (ringOffOk q off = true →
        exec (.regWrite q) s = .next ((s.regWrite off c.a1).ringDone q c.idx (s.regCode off c.a1) 0)) ∧
      (ringOffOk q off = false → exec (.regWrite q) s = .next (s.ringReject q c.idx 0x06 (ringJob q)))) ∧
    (s.accessHeld off = true → s.fusedPort off = false → exec (.regWrite q) s = .next s)) ∧
  (∀ (q off : Nat) (c : RingCmd) (s : State), q < 9 → s.pairsFailed = false → s.nextCmd q 0x03 = some c →
    off = bits c.a0 0 26 →
    (ringOffOk q off = true →
      (s.fusedPort off = false → s.accessHeld off = false →
        exec (.regRead q) s = .next ((s.clearRc off 0).ringDone q c.idx 0 (s.regRead off))) ∧
      (s.fusedPort off = true → exec (.regRead q) s = .next (s.ringDone q c.idx 0 0))) ∧
    (ringOffOk q off = false → s.accessHeld off = false →
      exec (.regRead q) s = .next (s.ringReject q c.idx 0x06 (ringJob q))) ∧
    (s.accessHeld off = true → s.fusedPort off = false → exec (.regRead q) s = .next s)) ∧
  (∀ (q n va : Nat) (c : RingCmd) (s t : State), q < 8 → s.pairsFailed = false → s.hostReach = true →
    s.copyNext q 0x04 = some c → c.started = true ∨ s.copyCode q c = 0 → va = bits c.a1 0 52 + c.moved →
    s.copyIn q (c.a0 + c.moved) va (copyPiece c) = (t, n) →
    (n = copyPiece c → exec (.copyToDev q true) s = .next (t.copyMoved q c n)) ∧
    (n < copyPiece c → exec (.copyToDev q true) s = .next
      (t.copyFault q c (t.accessCode q (va + n) true) 0 (va + n) (c.moved + n)))) ∧
  (∀ (q n m va : Nat) (c : RingCmd) (s t : State), q < 8 → s.pairsFailed = false → s.hostReach = true →
    s.copyNext q 0x04 = some c → c.started = true ∨ s.copyCode q c = 0 → va = bits c.a1 0 52 + c.moved →
    n = s.takeFree 0 % copyPiece c → s.bumpFree.copyIn q (c.a0 + c.moved) va n = (t, m) →
    (m = n → exec (.copyToDev q false) s = .next
      (t.copyFault q c 0x0A 3 (c.a0 + c.moved + m) (c.moved + m))) ∧
    (m < n → exec (.copyToDev q false) s = .next
      (t.copyFault q c (t.accessCode q (va + m) true) 0 (va + m) (c.moved + m)))) ∧
  (∀ (q n va : Nat) (c : RingCmd) (s t : State), q < 8 → s.pairsFailed = false → s.hostReach = true →
    s.copyNext q 0x05 = some c → c.started = true ∨ s.copyCode q c = 0 → va = bits c.a1 0 52 + c.moved →
    s.copyOut q (c.a0 + c.moved) va (copyPiece c) = (t, n) →
    (n = copyPiece c → exec (.copyFromDev q) s = .next (t.copyMoved q c n)) ∧
    (n < copyPiece c → exec (.copyFromDev q) s = .next
      (t.copyFault q c (t.accessCode q (va + n) false) 0 (va + n) (c.moved + n)))) ∧
  (∀ (q opc : Nat) (i : Instr) (c : RingCmd) (s : State), q < 8 → s.pairsFailed = false → s.hostReach = true →
    (opc, i) ∈ [(0x04, Instr.copyToDev q true), (0x04, .copyToDev q false), (0x05, .copyFromDev q)] → s.copyNext q opc = some c →
    c.started = false → s.copyCode q c ≠ 0 → exec i s = .next (s.ringReject q c.idx (s.copyCode q c) (ringJob q))) ∧
  (∀ (q n : Nat) (c : RingCmd) (s : State), (c.moved + n = bits c.a2 0 32 →
    s.copyMoved q c n = s.ringDone q c.idx 0 (c.moved + n))) ∧
  (∀ (q : Nat) (c : RingCmd) (s u : State), q < 8 → s.pairsFailed = false → s.nextCmd q 0x06 = some c →
    u = s.setRingNum q { s.ringOfNum q with
      cmds := (s.ringOfNum q).cmds.map (fun d => if d.idx = c.idx then { d with started := true } else d) } →
    (s.flagAddCode q (bits c.a0 0 8) = 0 →
      exec (.flagAdd q) s = .next (u.hostAdd q (bits c.a0 0 8) (bits c.a1 0 16) (some c.idx))) ∧
    (s.flagAddCode q (bits c.a0 0 8) ≠ 0 →
      exec (.flagAdd q) s = .next (s.ringReject q c.idx (s.flagAddCode q (bits c.a0 0 8)) (ringJob q)))) ∧
  (∀ (j k : Nat) (c : RingCmd) (s : State), s.pairsFailed = false → s.nextCmd 8 0x10 = some c → j = bits c.a0 0 3 →
    k = bits c.a1 0 4 →
    (s.flag Reg.DEV_STATUS.READY = true → s.jobCmdCode j k = 0 →
      exec .jobCmd s = .next ((s.runJobCmd j k).ringDone 8 c.idx 0 0)) ∧
    (s.jobCmdCode j k ≠ 0 → exec .jobCmd s = .next (s.ringReject 8 c.idx (s.jobCmdCode j k) (some j))) ∧
    (s.flag Reg.DEV_STATUS.READY = false → s.jobCmdCode j k = 0 →
      exec .jobCmd s = .next (s.ringReject 8 c.idx 0x04 (some j)))) ∧
  (∀ (op j vpn : Nat) (c : RingCmd) (s u : State), s.pairsFailed = false → s.nextCmd 8 0x11 = some c →
    op = bits c.a2 0 4 → j = bits c.a0 32 3 → vpn = bits c.a0 0 31 →
    u = s.setRingNum 8 { s.ringOfNum 8 with
      cmds := (s.ringOfNum 8).cmds.map (fun d => if d.idx = c.idx then { d with started := true } else d) } →
    (s.pageOp = none → s.pageOpCode op j vpn c.a1 true = 0 →
      exec .pageOp s = .next (u.startPageOp op j vpn c.a1 (some c.idx))) ∧
    (s.pageOp = none → s.pageOpCode op j vpn c.a1 true ≠ 0 → exec .pageOp s = .next
      (s.ringReject 8 c.idx (s.pageOpCode op j vpn c.a1 true) (if op = 5 ∨ op = 6 then none else some j))) ∧
    (s.pageOp ≠ none → exec .pageOp s = .next s)) ∧
  (∀ (q n : Nat) (c : RingCmd) (s u : State), q < 9 → s.hostReach = true → s.pairsFailed = false →
    (s.ringOfNum q).order.head? = some n → (s.ringOfNum q).cmds.find? (fun d => d.idx = n && d.done) = some c →
    u = (s.setHostBytes (s.get (Reg.CPL_BASE.ADDR q) * 16 + 16 * ((s.ringOfNum q).cplTail % s.ringSize q))
      (cplBytes c ((s.ringOfNum q).cplTail / s.ringSize q % 2 = 0))).setRingNum q {
        cmds := (s.ringOfNum q).cmds.erase c, order := (s.ringOfNum q).order.tail
        cplTail := ((s.ringOfNum q).cplTail + 1) % 2 ^ 16 } →
    (bit c.flg 1 = false → exec (.commandComplete q n) s = .next u) ∧
    (bit c.flg 1 = true → exec (.commandComplete q n) s = .next (u.sendVector (ringVector q)))) ∧
  (∀ (q n : Nat) (s : State), q < 9 → (s.ringOfNum q).order.head? ≠ some n → exec (.commandComplete q n) s = .next s)

/-! ## Errors -/

/-- An error of the program path that a context of a RUNNING job raises stops the job (R73, R373): it is HALTING with
the code, context and pc in its halt record and the event set, every context of it is STOPPED, and no memory has changed
but where trace records go. -/
def Obligations.ContextErrorsStopTheJob : Prop :=
  ∀ (g c code pc p : Nat) (s : State), g < 24 → c < 2 → s.flag (Reg.CTX_CFG.BOUND g c) = true → s.jobOf g c < 8 →
    s.jobState (s.jobOf g c) = 2 → 1 ≤ code → code ≤ 0x0B → pc < 2 ^ 52 →
    (s.ctxErr g c code pc p).jobState (s.jobOf g c) = 4 ∧
      (s.ctxErr g c code pc p).get (Reg.JOB_HALT_INFO.CODE (s.jobOf g c)) = code ∧
      (s.ctxErr g c code pc p).get (Reg.JOB_HALT_INFO.TROUPE (s.jobOf g c)) = g ∧
      (s.ctxErr g c code pc p).get (Reg.JOB_HALT_INFO.CTX (s.jobOf g c)) = c ∧
      (s.ctxErr g c code pc p).get (Reg.JOB_HALT_PC.ADDR (s.jobOf g c)) = pc ∧
      (s.ctxErr g c code pc p).get (Reg.JOB_STATUS.LAST_CODE (s.jobOf g c)) = code ∧
      (s.ctxErr g c code pc p).get (Reg.JOB_STATUS.HALT_EVT (s.jobOf g c)) = 1 ∧
      (∀ q ∈ s.jobCtxs (s.jobOf g c), (s.ctxErr g c code pc p).get (Reg.CTX_STATUS.STATE q.1 q.2) = 5) ∧
      s.memKept (s.ctxErr g c code pc p) ∧ (s.ctxErr g c code pc p).host = s.host

/-! ## Rules stated whole -/

/-- `accz` clears its tile: every entry, `PLACED`, E, `HSTEP`, `VANISH` and `REPLAYS`. -/
def Obligations.AcczClearsTheTile : Prop :=
  (∀ (x : At) (q : QEntry) (i : Nat) (s : State), q.opc = 0x34 → s.tileQuiet x q i = true →
    s.runIter x q i = (s.tileClear x.g (s.view x.g x.cx).cx (s.opTile x q i), .ran)) ∧
  (∀ (g cx k : Nat) (s : State), k < 32 →
    (∀ r j, r < 64 → j < 64 → (s.tileClear g cx k).accGet g cx k r j = 0) ∧
    (s.tileClear g cx k).get (Reg.ACC_TILE.PLACED g cx k) = 0 ∧ (s.tileClear g cx k).tileE g cx k = 0 ∧
    (s.tileClear g cx k).get (Reg.ACC_TILE.HSTEP g cx k) = 8 ∧
    (s.tileClear g cx k).get (Reg.ACC_TILE.VANISH g cx k) = 0 ∧
    (s.tileClear g cx k).get (Reg.ACC_TILE.REPLAYS g cx k) = 0 ∧
    (s.tileClear g cx k).mem = s.mem ∧
    ∀ m r j, m ≠ k → r < 64 → j < 64 → (s.tileClear g cx k).accGet g cx m r j = s.accGet g cx m r j)

/-- A write that changes `ARR_CFG.NARROW` takes effect only where R156 allows it. -/
def Obligations.NarrowChangesWhileTheArrayIsOff : Prop :=
  ∀ (g cx v : Nat) (s : State), g < 24 → cx < 16 → s.Open → s.accessHeld (coreOff g cx 0x200) = false →
    64 ≤ bits v 0 16 → bits v 0 16 ≤ 4096 → bits v 16 1 ≠ s.get (Reg.ARR_CFG.NARROW g cx) →
    ((s.get (drumState g cx 0) = 0 ∧ s.get (drumState g cx 1) = 0 ∧ s.ctxAside g 0 = true ∧ s.ctxAside g 1 = true) →
      ∃ t, exec (.arrCfgNarrow g cx v) s = .next t ∧ t.get (Reg.ARR_CFG.NARROW g cx) = bits v 16 1) ∧
    (¬ (s.get (drumState g cx 0) = 0 ∧ s.get (drumState g cx 1) = 0 ∧ s.ctxAside g 0 = true ∧ s.ctxAside g 1 = true) →
      exec (.arrCfgNarrow g cx v) s = .next (s.reject 0x04 (coreOff g cx 0x200) none) ∧
        (s.reject 0x04 (coreOff g cx 0x200) none).get (Reg.ARR_CFG.NARROW g cx) = s.get (Reg.ARR_CFG.NARROW g cx) ∧
        (s.reject 0x04 (coreOff g cx 0x200) none).get (Reg.ARR_CFG.LINGER g cx) = s.get (Reg.ARR_CFG.LINGER g cx))

/-- A read of a register returns the value without the events of its cycle, and each RC field of it holds the event
after the read. -/
def Obligations.RcReadsKeepTheirEvents : Prop :=
  ∀ (off ev : Nat) (row : RegRow) (ix : List Nat) (f : FieldRow) (s : State), s.boot.dark = false → s.aon.down = false →
    s.fusedPort off = false → s.accessHeld off = false → regAt off = some (row, ix) → f ∈ row.fields → f.acc = .rc →
    ∃ t, exec (.rcRead off ev) s = .next t ∧ t.mmioData = s.regRead off ∧
      t.get (rowFld row.id ix off f) = bits ev f.lo f.w

/-- An operation begins in a core where it may begin and, for the array, its context's turn has come (R51, R52, R62,
R94). Of those whose iterations have no event of their own: an iteration of `accz` clears its tile once none of its rows
is in flight (R177, R183), one of `lv.vl` sets `VL` (R119), and one of `tswap`, whose bank the Ringmaster changed at
issue, writes no data (R125). -/
def Obligations.HeadsThatMayStartAct : Prop :=
  (∀ (g c e seq cx : Nat) (q : QEntry) (s : State), s.entrySeq g c e seq = some q → s.mayBegin g c e q cx = true →
    s.turnOk g c e (s.view g cx).cx = true →
    s.tryBegin g c e seq cx = s.beginIn g c e q cx ∧
      ∃ q', (s.beginIn g c e q cx).entrySeq g c e seq = some q' ∧ q'.begunIn cx = true ∧ q'.opc = q.opc ∧
        q'.word = q.word) ∧
  (∀ (g c e seq cx : Nat) (q : QEntry) (s : State), s.entrySeq g c e seq = some q → s.mayBegin g c e q cx = false →
    s.tryBegin g c e seq cx = s) ∧
  (∀ (x : At) (q : QEntry) (i : Nat) (s : State),
    (q.opc = 0x34 → s.runIter x q i = if s.tileQuiet x q i = true then
      (s.tileClear x.g (s.view x.g x.cx).cx (s.opTile x q i), .ran) else (s, .waits)) ∧
    (q.opc = 0x50 → s.runIter x q i = ((s.coreInc x Reg.LN_OPS.N 1).laneVl x q, .ran)) ∧
    (q.opc = 0x62 → s.runIter x q i = (s.coreInc x Reg.LN_OPS.N 1, .ran)))
end

