-- ==== Sys2Proof/Laws/Tab.lean ====
section
/-! SUPPORT. Laws of sparse tables: what each operation leaves at every key, and that each keeps the canonical form. -/

namespace Sys2Proof

/-- Every listed key of a table is above a bound. -/
theorem Tab.rising_cons {α : Type} (k : Nat) (v : α) (t : Tab α) :
    Tab.rising ((k, v) :: t) = true ↔ (∀ e ∈ t, k < e.1) ∧ Tab.rising t = true := by
  induction t generalizing k v with
  | nil => simp [Tab.rising]
  | cons e t ih =>
    obtain ⟨a, b⟩ := e
    have h := ih a b
    simp only [Tab.rising, Bool.and_eq_true, decide_eq_true_eq, List.mem_cons, forall_eq_or_imp] at *
    constructor
    · rintro ⟨h1, h2⟩
      exact ⟨⟨h1, fun e he => lt_trans h1 ((h.mp h2).1 e he)⟩, h2⟩
    · rintro ⟨⟨h1, _⟩, h2⟩
      exact ⟨h1, h2⟩

/-- Keys strictly rise exactly where the list of keys is sorted. -/
theorem Tab.rising_iff {α : Type} (t : Tab α) :
    Tab.rising t = true ↔ t.Pairwise (fun a b => a.1 < b.1) := by
  induction t with
  | nil => simp [Tab.rising]
  | cons e t ih =>
    obtain ⟨k, v⟩ := e
    rw [Tab.rising_cons, ih, List.pairwise_cons]

/-- The canonical form as two properties of the list. -/
theorem Tab.wf_iff {α : Type} [DecidableEq α] (d : α) (t : Tab α) :
    Tab.wf d t = true ↔ t.Pairwise (fun a b => a.1 < b.1) ∧ ∀ e ∈ t, e.2 ≠ d := by
  simp [Tab.wf, Tab.rising_iff]

/-- Erasing a key is a filter. -/
theorem Tab.erase_eq {α : Type} (t : Tab α) (k : Nat) : Tab.erase t k = t.filter (fun e => decide (e.1 ≠ k)) := by
  induction t with
  | nil => rfl
  | cons e t ih =>
    obtain ⟨a, b⟩ := e
    simp only [Tab.erase, ih]
    by_cases h : k = a
    · simp [h]
    · simp [h, Ne.symm h]

/-- What a placed entry adds to the members. -/
theorem Tab.mem_place {α : Type} (t : Tab α) (k : Nat) (v : α) (e : Nat × α) :
    e ∈ Tab.place t k v ↔ e = (k, v) ∨ e ∈ t := by
  induction t with
  | nil => simp [Tab.place]
  | cons f t ih =>
    obtain ⟨a, b⟩ := f
    simp only [Tab.place]
    split
    · simp
    · simp only [List.mem_cons, ih]
      tauto

/-- Placing a key that is not listed keeps the keys rising. -/
theorem Tab.place_rising {α : Type} (t : Tab α) (k : Nat) (v : α) (h : t.Pairwise (fun a b => a.1 < b.1))
    (hk : ∀ e ∈ t, e.1 ≠ k) : (Tab.place t k v).Pairwise (fun a b => a.1 < b.1) := by
  induction t with
  | nil => simp [Tab.place]
  | cons f t ih =>
    obtain ⟨a, b⟩ := f
    rw [List.pairwise_cons] at h
    simp only [Tab.place]
    split
    · rename_i hlt
      refine List.pairwise_cons.mpr ⟨fun e he => ?_, List.pairwise_cons.mpr h⟩
      rcases List.mem_cons.mp he with rfl | he
      · exact hlt
      · exact lt_trans hlt (h.1 e he)
    · rename_i hlt
      have hne : a ≠ k := hk (a, b) (by simp)
      refine List.pairwise_cons.mpr ⟨fun e he => ?_, ih h.2 (fun e he => hk e (by simp [he]))⟩
      rcases (Tab.mem_place t k v e).mp he with rfl | he
      · show a < k
        omega
      · exact h.1 e he

/-- A write keeps the keys rising, whatever the default. -/
theorem Tab.set_rising {α : Type} [DecidableEq α] (d : α) (t : Tab α) (k : Nat) (v : α)
    (h : t.Pairwise (fun a b => a.1 < b.1)) : (Tab.set d t k v).Pairwise (fun a b => a.1 < b.1) := by
  unfold Tab.set
  rw [Tab.erase_eq]
  split
  · exact h.filter _
  · exact Tab.place_rising _ k v (h.filter _) (fun e he => by simpa using (List.mem_filter.mp he).2)

/-- A write keeps the canonical form. -/
theorem Tab.set_wf {α : Type} [DecidableEq α] (d : α) (t : Tab α) (k : Nat) (v : α) (h : Tab.wf d t = true) :
    Tab.wf d (Tab.set d t k v) = true := by
  rw [Tab.wf_iff] at *
  refine ⟨Tab.set_rising d t k v h.1, fun e he => ?_⟩
  unfold Tab.set at he
  rw [Tab.erase_eq] at he
  split at he
  · exact h.2 e (List.mem_filter.mp he).1
  · rcases (Tab.mem_place _ k v e).mp he with rfl | he
    · assumption
    · exact h.2 e (List.mem_filter.mp he).1

/-- A filter keeps the keys rising. -/
theorem Tab.filter_rising {α : Type} (t : Tab α) (p : Nat × α → Bool) (h : Tab.rising t = true) :
    Tab.rising (t.filter p) = true := by
  rw [Tab.rising_iff] at *
  exact h.filter _

/-- A filter keeps the canonical form. -/
theorem Tab.filter_wf {α : Type} [DecidableEq α] (d : α) (t : Tab α) (p : Nat × α → Bool) (h : Tab.wf d t = true) :
    Tab.wf d (t.filter p) = true := by
  rw [Tab.wf_iff] at *
  exact ⟨h.1.filter _, fun e he => h.2 e (List.mem_filter.mp he).1⟩

/-- Copying a slice of a table into itself keeps the canonical form. -/
theorem Tab.putSlice_wf {α : Type} [DecidableEq α] (d : α) (t : Tab α) (src dst n : Nat) (h : Tab.wf d t = true) :
    Tab.wf d (Tab.putSlice t dst n (Tab.slice t src n)) = true := by
  rw [Tab.wf_iff] at *
  obtain ⟨h1, h2⟩ := h
  have hs : (Tab.slice t src n).Pairwise (fun a b => a.1 < b.1) := by
    unfold Tab.slice
    rw [List.pairwise_map]
    refine List.Pairwise.imp_of_mem ?_ (h1.filter _)
    intro a b ha hb hab
    have ha := (List.mem_filter.mp ha).2
    have hb := (List.mem_filter.mp hb).2
    simp only [decide_eq_true_eq] at ha hb
    show a.1 - src < b.1 - src
    omega
  unfold Tab.putSlice
  refine ⟨?_, ?_⟩
  · rw [List.pairwise_append, List.pairwise_append]
    refine ⟨⟨h1.filter _, ?_, ?_⟩, h1.filter _, ?_⟩
    · rw [List.pairwise_map]
      refine (hs.filter _).imp ?_
      intro a b hab
      show a.1 + dst < b.1 + dst
      omega
    · intro a ha b hb
      have ha := (List.mem_filter.mp ha).2
      obtain ⟨c, hc, rfl⟩ := List.mem_map.mp hb
      simp only [decide_eq_true_eq] at ha
      show a.1 < c.1 + dst
      omega
    · intro a ha b hb
      have hb := (List.mem_filter.mp hb).2
      simp only [decide_eq_true_eq] at hb
      rcases List.mem_append.mp ha with ha | ha
      · have ha := (List.mem_filter.mp ha).2
        simp only [decide_eq_true_eq] at ha
        omega
      · obtain ⟨c, hc, rfl⟩ := List.mem_map.mp ha
        have hc := (List.mem_filter.mp hc).2
        simp only [decide_eq_true_eq] at hc
        show c.1 + dst < b.1
        omega
  · intro e he
    rcases List.mem_append.mp he with he | he
    · rcases List.mem_append.mp he with he | he
      · exact h2 e (List.mem_filter.mp he).1
      · obtain ⟨c, hc, rfl⟩ := List.mem_map.mp he
        have hc := (List.mem_filter.mp hc).1
        obtain ⟨f, hf, rfl⟩ := List.mem_map.mp hc
        exact h2 f (List.mem_filter.mp hf).1
    · exact h2 e (List.mem_filter.mp he).1

/-- What a key reads as after a write. -/
theorem Tab.get_set {α : Type} [DecidableEq α] (d : α) (t : Tab α) (k k' : Nat) (v : α) :
    Tab.get d (Tab.set d t k v) k' = if k' = k then v else Tab.get d t k' := by
  have herase : ∀ (t : Tab α), Tab.get d (Tab.erase t k) k' = if k' = k then d else Tab.get d t k' := by
    intro t
    induction t with
    | nil => simp [Tab.erase, Tab.get]
    | cons e t ih =>
      obtain ⟨a, b⟩ := e
      simp only [Tab.erase, Tab.get]
      split <;> split <;> simp_all [Tab.get]
  have hplace : ∀ (t : Tab α), (∀ e ∈ t, e.1 ≠ k) →
      Tab.get d (Tab.place t k v) k' = if k' = k then v else Tab.get d t k' := by
    intro t
    induction t with
    | nil => intro _; simp [Tab.place, Tab.get]
    | cons e t ih =>
      obtain ⟨a, b⟩ := e
      intro h
      have ha : a ≠ k := h (a, b) (by simp)
      have ih := ih (fun e he => h e (by simp [he]))
      simp only [Tab.place, Tab.get]
      split
      · simp only [Tab.get]
      · simp only [Tab.get, ih]
        split <;> split <;> simp_all
  unfold Tab.set
  split
  · rename_i hv
    rw [herase, hv]
  · have hmem : ∀ e ∈ Tab.erase t k, e.1 ≠ k := by
      intro e he
      rw [Tab.erase_eq] at he
      simpa using (List.mem_filter.mp he).2
    rw [hplace _ hmem, herase]
    split <;> simp_all

/-- The key just written. -/
@[simp] theorem Tab.get_set_same {α : Type} [DecidableEq α] (d : α) (t : Tab α) (k : Nat) (v : α) :
    Tab.get d (Tab.set d t k v) k = v := by simp [Tab.get_set]

/-- Every other key, whatever an unlisted key reads as. -/
theorem Tab.get_set_other {α : Type} [DecidableEq α] (d d' : α) (t : Tab α) (k k' : Nat) (v : α) (h : k' ≠ k) :
    Tab.get d' (Tab.set d t k v) k' = Tab.get d' t k' := by
  have herase : ∀ t : Tab α, Tab.get d' (Tab.erase t k) k' = Tab.get d' t k' := by
    intro t
    induction t with
    | nil => rfl
    | cons e t ih =>
      obtain ⟨a, b⟩ := e
      simp only [Tab.erase, Tab.get]
      split <;> split <;> simp_all [Tab.get]
  have hplace : ∀ t : Tab α, Tab.get d' (Tab.place t k v) k' = Tab.get d' t k' := by
    intro t
    induction t with
    | nil => simp [Tab.place, Tab.get, h]
    | cons e t ih =>
      obtain ⟨a, b⟩ := e
      simp only [Tab.place, Tab.get]
      split
      · simp [Tab.get, h]
      · simp only [Tab.get, ih]
  unfold Tab.set
  split
  · exact herase t
  · rw [hplace, herase]

/-- Every other key. -/
theorem Tab.get_set_ne {α : Type} [DecidableEq α] (d : α) (t : Tab α) (k k' : Nat) (v : α) (h : k' ≠ k) :
    Tab.get d (Tab.set d t k v) k' = Tab.get d t k' := by simp [Tab.get_set, h]

end Sys2Proof
end

