-- ==== Sys2Proof/Laws/State.lean ====
section
/-! SUPPORT. What each single write of the state leaves: its own field or key, and every other field. -/

namespace Sys2Proof.Machine

/-! ## Register fields -/

/-- A field just written reads as the value, cut to its width. -/
@[simp] theorem State.get_put_same (s : State) (f : Fld) (v : Nat) : (s.put f v).get f = v % 2 ^ f.w := by
  simp [State.get, State.put]

/-- A field at another place reads as before. -/
theorem State.get_put_ne (s : State) (f h : Fld) (v : Nat) (k : h.key ≠ f.key) : (s.put f v).get h = s.get h := by
  simp only [State.get, State.put]
  exact Tab.get_set_other f.rst h.rst s.regs f.key h.key _ k

/-! ## Hidden state, read back -/

@[simp] theorem State.ctxOf_setCtx (s : State) (g c : Nat) (x : CtxS) : (s.setCtx g c x).ctxOf g c = x := by
  simp [State.ctxOf, State.setCtx]

@[simp] theorem State.queue_setQueue (s : State) (g c e : Nat) (x : List QEntry) : (s.setQueue g c e x).queue g c e = x := by
  simp [State.queue, State.setQueue]

@[simp] theorem State.core_setCore (s : State) (g c : Nat) (x : CoreS) : (s.setCore g c x).core g c = x := by
  simp [State.core, State.setCore]

@[simp] theorem State.snOf_setSn (s : State) (j : Nat) (x : SnS) : (s.setSn j x).snOf j = x := by
  simp [State.snOf, State.setSn]

@[simp] theorem State.jobS_setJobS (s : State) (j : Nat) (x : JobS) : (s.setJobS j x).jobS j = x := by
  simp [State.jobS, State.setJobS]

@[simp] theorem State.cqOf_setCq (s : State) (q : Nat) (x : CqS) : (s.setCq q x).cqOf q = x := by
  simp [State.cqOf, State.setCq]

@[simp] theorem State.port_setPort (s : State) (p : Nat) (x : PortS) : (s.setPort p x).port p = x := by
  simp [State.port, State.setPort]

@[simp] theorem State.memByte_setMemByte (s : State) (a : Nat) (b : Byte) : (s.setMemByte a b).memByte a = b := by
  simp [State.memByte, State.setMemByte]

/-- Another byte of device memory reads as before. -/
theorem State.memByte_setMemByte_ne (s : State) (a c : Nat) (b : Byte) (h : c ≠ a) :
    (s.setMemByte a b).memByte c = s.memByte c := by
  unfold State.memByte State.setMemByte
  exact Tab.get_set_ne _ _ _ _ _ h

/-! ## What `put` leaves -/

@[simp] theorem State.put_pending (s : State) (f : Fld) (v : Nat) : (s.put f v).pending = s.pending := rfl
@[simp] theorem State.put_time (s : State) (f : Fld) (v : Nat) : (s.put f v).time = s.time := rfl
@[simp] theorem State.put_ctx (s : State) (f : Fld) (v : Nat) : (s.put f v).ctx = s.ctx := rfl
@[simp] theorem State.put_queues (s : State) (f : Fld) (v : Nat) : (s.put f v).queues = s.queues := rfl
@[simp] theorem State.put_cores (s : State) (f : Fld) (v : Nat) : (s.put f v).cores = s.cores := rfl
@[simp] theorem State.put_carry (s : State) (f : Fld) (v : Nat) : (s.put f v).carry = s.carry := rfl
@[simp] theorem State.put_pushSeq (s : State) (f : Fld) (v : Nat) : (s.put f v).pushSeq = s.pushSeq := rfl
@[simp] theorem State.put_spotter (s : State) (f : Fld) (v : Nat) : (s.put f v).spotter = s.spotter := rfl
@[simp] theorem State.put_islSeq (s : State) (f : Fld) (v : Nat) : (s.put f v).islSeq = s.islSeq := rfl
@[simp] theorem State.put_cq (s : State) (f : Fld) (v : Nat) : (s.put f v).cq = s.cq := rfl
@[simp] theorem State.put_sn (s : State) (f : Fld) (v : Nat) : (s.put f v).sn = s.sn := rfl
@[simp] theorem State.put_job (s : State) (f : Fld) (v : Nat) : (s.put f v).job = s.job := rfl
@[simp] theorem State.put_ports (s : State) (f : Fld) (v : Nat) : (s.put f v).ports = s.ports := rfl
@[simp] theorem State.put_coll (s : State) (f : Fld) (v : Nat) : (s.put f v).coll = s.coll := rfl
@[simp] theorem State.put_issueSeq (s : State) (f : Fld) (v : Nat) : (s.put f v).issueSeq = s.issueSeq := rfl
@[simp] theorem State.put_glOut (s : State) (f : Fld) (v : Nat) : (s.put f v).glOut = s.glOut := rfl
@[simp] theorem State.put_barred (s : State) (f : Fld) (v : Nat) : (s.put f v).barred = s.barred := rfl
@[simp] theorem State.put_links (s : State) (f : Fld) (v : Nat) : (s.put f v).links = s.links := rfl
@[simp] theorem State.put_linksLost (s : State) (f : Fld) (v : Nat) : (s.put f v).linksLost = s.linksLost := rfl
@[simp] theorem State.put_relay (s : State) (f : Fld) (v : Nat) : (s.put f v).relay = s.relay := rfl
@[simp] theorem State.put_ackOwed (s : State) (f : Fld) (v : Nat) : (s.put f v).ackOwed = s.ackOwed := rfl
@[simp] theorem State.put_missedBeats (s : State) (f : Fld) (v : Nat) : (s.put f v).missedBeats = s.missedBeats := rfl
@[simp] theorem State.put_hbmSelf (s : State) (f : Fld) (v : Nat) : (s.put f v).hbmSelf = s.hbmSelf := rfl
@[simp] theorem State.put_ddrSelf (s : State) (f : Fld) (v : Nat) : (s.put f v).ddrSelf = s.ddrSelf := rfl
@[simp] theorem State.put_mem (s : State) (f : Fld) (v : Nat) : (s.put f v).mem = s.mem := rfl
@[simp] theorem State.put_host (s : State) (f : Fld) (v : Nat) : (s.put f v).host = s.host := rfl
@[simp] theorem State.put_owner (s : State) (f : Fld) (v : Nat) : (s.put f v).owner = s.owner := rfl
@[simp] theorem State.put_modules (s : State) (f : Fld) (v : Nat) : (s.put f v).modules = s.modules := rfl
@[simp] theorem State.put_tlb (s : State) (f : Fld) (v : Nat) : (s.put f v).tlb = s.tlb := rfl
@[simp] theorem State.put_pageOp (s : State) (f : Fld) (v : Nat) : (s.put f v).pageOp = s.pageOp := rfl
@[simp] theorem State.put_memErrs (s : State) (f : Fld) (v : Nat) : (s.put f v).memErrs = s.memErrs := rfl
@[simp] theorem State.put_alerts (s : State) (f : Fld) (v : Nat) : (s.put f v).alerts = s.alerts := rfl
@[simp] theorem State.put_retiring (s : State) (f : Fld) (v : Nat) : (s.put f v).retiring = s.retiring := rfl
@[simp] theorem State.put_rings (s : State) (f : Fld) (v : Nat) : (s.put f v).rings = s.rings := rfl
@[simp] theorem State.put_doubler (s : State) (f : Fld) (v : Nat) : (s.put f v).doubler = s.doubler := rfl
@[simp] theorem State.put_msgs (s : State) (f : Fld) (v : Nat) : (s.put f v).msgs = s.msgs := rfl
@[simp] theorem State.put_pcie (s : State) (f : Fld) (v : Nat) : (s.put f v).pcie = s.pcie := rfl
@[simp] theorem State.put_doe (s : State) (f : Fld) (v : Nat) : (s.put f v).doe = s.doe := rfl
@[simp] theorem State.put_ide (s : State) (f : Fld) (v : Nat) : (s.put f v).ide = s.ide := rfl
@[simp] theorem State.put_aon (s : State) (f : Fld) (v : Nat) : (s.put f v).aon = s.aon := rfl
@[simp] theorem State.put_boot (s : State) (f : Fld) (v : Nat) : (s.put f v).boot = s.boot := rfl
@[simp] theorem State.put_power (s : State) (f : Fld) (v : Nat) : (s.put f v).power = s.power := rfl
@[simp] theorem State.put_hs (s : State) (f : Fld) (v : Nat) : (s.put f v).hs = s.hs := rfl
@[simp] theorem State.put_sec (s : State) (f : Fld) (v : Nat) : (s.put f v).sec = s.sec := rfl
@[simp] theorem State.put_mgmt (s : State) (f : Fld) (v : Nat) : (s.put f v).mgmt = s.mgmt := rfl
@[simp] theorem State.put_flash (s : State) (f : Fld) (v : Nat) : (s.put f v).flash = s.flash := rfl
@[simp] theorem State.put_jtag (s : State) (f : Fld) (v : Nat) : (s.put f v).jtag = s.jtag := rfl
@[simp] theorem State.put_stopped (s : State) (f : Fld) (v : Nat) : (s.put f v).stopped = s.stopped := rfl
@[simp] theorem State.put_crossings (s : State) (f : Fld) (v : Nat) : (s.put f v).crossings = s.crossings := rfl
@[simp] theorem State.put_mmioData (s : State) (f : Fld) (v : Nat) : (s.put f v).mmioData = s.mmioData := rfl
@[simp] theorem State.put_rxStamp (s : State) (f : Fld) (v : Nat) : (s.put f v).rxStamp = s.rxStamp := rfl
@[simp] theorem State.put_cqFault (s : State) (f : Fld) (v : Nat) : (s.put f v).cqFault = s.cqFault := rfl
@[simp] theorem State.put_committed (s : State) (f : Fld) (v : Nat) : (s.put f v).committed = s.committed := rfl
@[simp] theorem State.put_fresh (s : State) (f : Fld) (v : Nat) : (s.put f v).fresh = s.fresh := rfl

/-! ## What `setCtx` leaves -/

@[simp] theorem State.setCtx_get (s : State) (g c : Nat) (x : CtxS) (r : Fld) : (s.setCtx g c x).get r = s.get r := rfl
@[simp] theorem State.setCtx_pending (s : State) (g c : Nat) (x : CtxS) : (s.setCtx g c x).pending = s.pending := rfl
@[simp] theorem State.setCtx_regs (s : State) (g c : Nat) (x : CtxS) : (s.setCtx g c x).regs = s.regs := rfl
@[simp] theorem State.setCtx_time (s : State) (g c : Nat) (x : CtxS) : (s.setCtx g c x).time = s.time := rfl
@[simp] theorem State.setCtx_queues (s : State) (g c : Nat) (x : CtxS) : (s.setCtx g c x).queues = s.queues := rfl
@[simp] theorem State.setCtx_cores (s : State) (g c : Nat) (x : CtxS) : (s.setCtx g c x).cores = s.cores := rfl
@[simp] theorem State.setCtx_carry (s : State) (g c : Nat) (x : CtxS) : (s.setCtx g c x).carry = s.carry := rfl
@[simp] theorem State.setCtx_pushSeq (s : State) (g c : Nat) (x : CtxS) : (s.setCtx g c x).pushSeq = s.pushSeq := rfl
@[simp] theorem State.setCtx_spotter (s : State) (g c : Nat) (x : CtxS) : (s.setCtx g c x).spotter = s.spotter := rfl
@[simp] theorem State.setCtx_islSeq (s : State) (g c : Nat) (x : CtxS) : (s.setCtx g c x).islSeq = s.islSeq := rfl
@[simp] theorem State.setCtx_cq (s : State) (g c : Nat) (x : CtxS) : (s.setCtx g c x).cq = s.cq := rfl
@[simp] theorem State.setCtx_sn (s : State) (g c : Nat) (x : CtxS) : (s.setCtx g c x).sn = s.sn := rfl
@[simp] theorem State.setCtx_job (s : State) (g c : Nat) (x : CtxS) : (s.setCtx g c x).job = s.job := rfl
@[simp] theorem State.setCtx_ports (s : State) (g c : Nat) (x : CtxS) : (s.setCtx g c x).ports = s.ports := rfl
@[simp] theorem State.setCtx_coll (s : State) (g c : Nat) (x : CtxS) : (s.setCtx g c x).coll = s.coll := rfl
@[simp] theorem State.setCtx_issueSeq (s : State) (g c : Nat) (x : CtxS) : (s.setCtx g c x).issueSeq = s.issueSeq := rfl
@[simp] theorem State.setCtx_glOut (s : State) (g c : Nat) (x : CtxS) : (s.setCtx g c x).glOut = s.glOut := rfl
@[simp] theorem State.setCtx_barred (s : State) (g c : Nat) (x : CtxS) : (s.setCtx g c x).barred = s.barred := rfl
@[simp] theorem State.setCtx_links (s : State) (g c : Nat) (x : CtxS) : (s.setCtx g c x).links = s.links := rfl
@[simp] theorem State.setCtx_linksLost (s : State) (g c : Nat) (x : CtxS) : (s.setCtx g c x).linksLost = s.linksLost := rfl
@[simp] theorem State.setCtx_relay (s : State) (g c : Nat) (x : CtxS) : (s.setCtx g c x).relay = s.relay := rfl
@[simp] theorem State.setCtx_ackOwed (s : State) (g c : Nat) (x : CtxS) : (s.setCtx g c x).ackOwed = s.ackOwed := rfl
@[simp] theorem State.setCtx_missedBeats (s : State) (g c : Nat) (x : CtxS) : (s.setCtx g c x).missedBeats = s.missedBeats := rfl
@[simp] theorem State.setCtx_hbmSelf (s : State) (g c : Nat) (x : CtxS) : (s.setCtx g c x).hbmSelf = s.hbmSelf := rfl
@[simp] theorem State.setCtx_ddrSelf (s : State) (g c : Nat) (x : CtxS) : (s.setCtx g c x).ddrSelf = s.ddrSelf := rfl
@[simp] theorem State.setCtx_mem (s : State) (g c : Nat) (x : CtxS) : (s.setCtx g c x).mem = s.mem := rfl
@[simp] theorem State.setCtx_host (s : State) (g c : Nat) (x : CtxS) : (s.setCtx g c x).host = s.host := rfl
@[simp] theorem State.setCtx_owner (s : State) (g c : Nat) (x : CtxS) : (s.setCtx g c x).owner = s.owner := rfl
@[simp] theorem State.setCtx_modules (s : State) (g c : Nat) (x : CtxS) : (s.setCtx g c x).modules = s.modules := rfl
@[simp] theorem State.setCtx_tlb (s : State) (g c : Nat) (x : CtxS) : (s.setCtx g c x).tlb = s.tlb := rfl
@[simp] theorem State.setCtx_pageOp (s : State) (g c : Nat) (x : CtxS) : (s.setCtx g c x).pageOp = s.pageOp := rfl
@[simp] theorem State.setCtx_memErrs (s : State) (g c : Nat) (x : CtxS) : (s.setCtx g c x).memErrs = s.memErrs := rfl
@[simp] theorem State.setCtx_alerts (s : State) (g c : Nat) (x : CtxS) : (s.setCtx g c x).alerts = s.alerts := rfl
@[simp] theorem State.setCtx_retiring (s : State) (g c : Nat) (x : CtxS) : (s.setCtx g c x).retiring = s.retiring := rfl
@[simp] theorem State.setCtx_rings (s : State) (g c : Nat) (x : CtxS) : (s.setCtx g c x).rings = s.rings := rfl
@[simp] theorem State.setCtx_doubler (s : State) (g c : Nat) (x : CtxS) : (s.setCtx g c x).doubler = s.doubler := rfl
@[simp] theorem State.setCtx_msgs (s : State) (g c : Nat) (x : CtxS) : (s.setCtx g c x).msgs = s.msgs := rfl
@[simp] theorem State.setCtx_pcie (s : State) (g c : Nat) (x : CtxS) : (s.setCtx g c x).pcie = s.pcie := rfl
@[simp] theorem State.setCtx_doe (s : State) (g c : Nat) (x : CtxS) : (s.setCtx g c x).doe = s.doe := rfl
@[simp] theorem State.setCtx_ide (s : State) (g c : Nat) (x : CtxS) : (s.setCtx g c x).ide = s.ide := rfl
@[simp] theorem State.setCtx_aon (s : State) (g c : Nat) (x : CtxS) : (s.setCtx g c x).aon = s.aon := rfl
@[simp] theorem State.setCtx_boot (s : State) (g c : Nat) (x : CtxS) : (s.setCtx g c x).boot = s.boot := rfl
@[simp] theorem State.setCtx_power (s : State) (g c : Nat) (x : CtxS) : (s.setCtx g c x).power = s.power := rfl
@[simp] theorem State.setCtx_hs (s : State) (g c : Nat) (x : CtxS) : (s.setCtx g c x).hs = s.hs := rfl
@[simp] theorem State.setCtx_sec (s : State) (g c : Nat) (x : CtxS) : (s.setCtx g c x).sec = s.sec := rfl
@[simp] theorem State.setCtx_mgmt (s : State) (g c : Nat) (x : CtxS) : (s.setCtx g c x).mgmt = s.mgmt := rfl
@[simp] theorem State.setCtx_flash (s : State) (g c : Nat) (x : CtxS) : (s.setCtx g c x).flash = s.flash := rfl
@[simp] theorem State.setCtx_jtag (s : State) (g c : Nat) (x : CtxS) : (s.setCtx g c x).jtag = s.jtag := rfl
@[simp] theorem State.setCtx_stopped (s : State) (g c : Nat) (x : CtxS) : (s.setCtx g c x).stopped = s.stopped := rfl
@[simp] theorem State.setCtx_crossings (s : State) (g c : Nat) (x : CtxS) : (s.setCtx g c x).crossings = s.crossings := rfl
@[simp] theorem State.setCtx_mmioData (s : State) (g c : Nat) (x : CtxS) : (s.setCtx g c x).mmioData = s.mmioData := rfl
@[simp] theorem State.setCtx_rxStamp (s : State) (g c : Nat) (x : CtxS) : (s.setCtx g c x).rxStamp = s.rxStamp := rfl
@[simp] theorem State.setCtx_cqFault (s : State) (g c : Nat) (x : CtxS) : (s.setCtx g c x).cqFault = s.cqFault := rfl
@[simp] theorem State.setCtx_committed (s : State) (g c : Nat) (x : CtxS) : (s.setCtx g c x).committed = s.committed := rfl
@[simp] theorem State.setCtx_fresh (s : State) (g c : Nat) (x : CtxS) : (s.setCtx g c x).fresh = s.fresh := rfl

/-! ## What `setQueue` leaves -/

@[simp] theorem State.setQueue_get (s : State) (g c e : Nat) (q : List QEntry) (r : Fld) : (s.setQueue g c e q).get r = s.get r := rfl
@[simp] theorem State.setQueue_pending (s : State) (g c e : Nat) (q : List QEntry) : (s.setQueue g c e q).pending = s.pending := rfl
@[simp] theorem State.setQueue_regs (s : State) (g c e : Nat) (q : List QEntry) : (s.setQueue g c e q).regs = s.regs := rfl
@[simp] theorem State.setQueue_time (s : State) (g c e : Nat) (q : List QEntry) : (s.setQueue g c e q).time = s.time := rfl
@[simp] theorem State.setQueue_ctx (s : State) (g c e : Nat) (q : List QEntry) : (s.setQueue g c e q).ctx = s.ctx := rfl
@[simp] theorem State.setQueue_cores (s : State) (g c e : Nat) (q : List QEntry) : (s.setQueue g c e q).cores = s.cores := rfl
@[simp] theorem State.setQueue_carry (s : State) (g c e : Nat) (q : List QEntry) : (s.setQueue g c e q).carry = s.carry := rfl
@[simp] theorem State.setQueue_pushSeq (s : State) (g c e : Nat) (q : List QEntry) : (s.setQueue g c e q).pushSeq = s.pushSeq := rfl
@[simp] theorem State.setQueue_spotter (s : State) (g c e : Nat) (q : List QEntry) : (s.setQueue g c e q).spotter = s.spotter := rfl
@[simp] theorem State.setQueue_islSeq (s : State) (g c e : Nat) (q : List QEntry) : (s.setQueue g c e q).islSeq = s.islSeq := rfl
@[simp] theorem State.setQueue_cq (s : State) (g c e : Nat) (q : List QEntry) : (s.setQueue g c e q).cq = s.cq := rfl
@[simp] theorem State.setQueue_sn (s : State) (g c e : Nat) (q : List QEntry) : (s.setQueue g c e q).sn = s.sn := rfl
@[simp] theorem State.setQueue_job (s : State) (g c e : Nat) (q : List QEntry) : (s.setQueue g c e q).job = s.job := rfl
@[simp] theorem State.setQueue_ports (s : State) (g c e : Nat) (q : List QEntry) : (s.setQueue g c e q).ports = s.ports := rfl
@[simp] theorem State.setQueue_coll (s : State) (g c e : Nat) (q : List QEntry) : (s.setQueue g c e q).coll = s.coll := rfl
@[simp] theorem State.setQueue_issueSeq (s : State) (g c e : Nat) (q : List QEntry) : (s.setQueue g c e q).issueSeq = s.issueSeq := rfl
@[simp] theorem State.setQueue_glOut (s : State) (g c e : Nat) (q : List QEntry) : (s.setQueue g c e q).glOut = s.glOut := rfl
@[simp] theorem State.setQueue_barred (s : State) (g c e : Nat) (q : List QEntry) : (s.setQueue g c e q).barred = s.barred := rfl
@[simp] theorem State.setQueue_links (s : State) (g c e : Nat) (q : List QEntry) : (s.setQueue g c e q).links = s.links := rfl
@[simp] theorem State.setQueue_linksLost (s : State) (g c e : Nat) (q : List QEntry) : (s.setQueue g c e q).linksLost = s.linksLost := rfl
@[simp] theorem State.setQueue_relay (s : State) (g c e : Nat) (q : List QEntry) : (s.setQueue g c e q).relay = s.relay := rfl
@[simp] theorem State.setQueue_ackOwed (s : State) (g c e : Nat) (q : List QEntry) : (s.setQueue g c e q).ackOwed = s.ackOwed := rfl
@[simp] theorem State.setQueue_missedBeats (s : State) (g c e : Nat) (q : List QEntry) : (s.setQueue g c e q).missedBeats = s.missedBeats := rfl
@[simp] theorem State.setQueue_hbmSelf (s : State) (g c e : Nat) (q : List QEntry) : (s.setQueue g c e q).hbmSelf = s.hbmSelf := rfl
@[simp] theorem State.setQueue_ddrSelf (s : State) (g c e : Nat) (q : List QEntry) : (s.setQueue g c e q).ddrSelf = s.ddrSelf := rfl
@[simp] theorem State.setQueue_mem (s : State) (g c e : Nat) (q : List QEntry) : (s.setQueue g c e q).mem = s.mem := rfl
@[simp] theorem State.setQueue_host (s : State) (g c e : Nat) (q : List QEntry) : (s.setQueue g c e q).host = s.host := rfl
@[simp] theorem State.setQueue_owner (s : State) (g c e : Nat) (q : List QEntry) : (s.setQueue g c e q).owner = s.owner := rfl
@[simp] theorem State.setQueue_modules (s : State) (g c e : Nat) (q : List QEntry) : (s.setQueue g c e q).modules = s.modules := rfl
@[simp] theorem State.setQueue_tlb (s : State) (g c e : Nat) (q : List QEntry) : (s.setQueue g c e q).tlb = s.tlb := rfl
@[simp] theorem State.setQueue_pageOp (s : State) (g c e : Nat) (q : List QEntry) : (s.setQueue g c e q).pageOp = s.pageOp := rfl
@[simp] theorem State.setQueue_memErrs (s : State) (g c e : Nat) (q : List QEntry) : (s.setQueue g c e q).memErrs = s.memErrs := rfl
@[simp] theorem State.setQueue_alerts (s : State) (g c e : Nat) (q : List QEntry) : (s.setQueue g c e q).alerts = s.alerts := rfl
@[simp] theorem State.setQueue_retiring (s : State) (g c e : Nat) (q : List QEntry) : (s.setQueue g c e q).retiring = s.retiring := rfl
@[simp] theorem State.setQueue_rings (s : State) (g c e : Nat) (q : List QEntry) : (s.setQueue g c e q).rings = s.rings := rfl
@[simp] theorem State.setQueue_doubler (s : State) (g c e : Nat) (q : List QEntry) : (s.setQueue g c e q).doubler = s.doubler := rfl
@[simp] theorem State.setQueue_msgs (s : State) (g c e : Nat) (q : List QEntry) : (s.setQueue g c e q).msgs = s.msgs := rfl
@[simp] theorem State.setQueue_pcie (s : State) (g c e : Nat) (q : List QEntry) : (s.setQueue g c e q).pcie = s.pcie := rfl
@[simp] theorem State.setQueue_doe (s : State) (g c e : Nat) (q : List QEntry) : (s.setQueue g c e q).doe = s.doe := rfl
@[simp] theorem State.setQueue_ide (s : State) (g c e : Nat) (q : List QEntry) : (s.setQueue g c e q).ide = s.ide := rfl
@[simp] theorem State.setQueue_aon (s : State) (g c e : Nat) (q : List QEntry) : (s.setQueue g c e q).aon = s.aon := rfl
@[simp] theorem State.setQueue_boot (s : State) (g c e : Nat) (q : List QEntry) : (s.setQueue g c e q).boot = s.boot := rfl
@[simp] theorem State.setQueue_power (s : State) (g c e : Nat) (q : List QEntry) : (s.setQueue g c e q).power = s.power := rfl
@[simp] theorem State.setQueue_hs (s : State) (g c e : Nat) (q : List QEntry) : (s.setQueue g c e q).hs = s.hs := rfl
@[simp] theorem State.setQueue_sec (s : State) (g c e : Nat) (q : List QEntry) : (s.setQueue g c e q).sec = s.sec := rfl
@[simp] theorem State.setQueue_mgmt (s : State) (g c e : Nat) (q : List QEntry) : (s.setQueue g c e q).mgmt = s.mgmt := rfl
@[simp] theorem State.setQueue_flash (s : State) (g c e : Nat) (q : List QEntry) : (s.setQueue g c e q).flash = s.flash := rfl
@[simp] theorem State.setQueue_jtag (s : State) (g c e : Nat) (q : List QEntry) : (s.setQueue g c e q).jtag = s.jtag := rfl
@[simp] theorem State.setQueue_stopped (s : State) (g c e : Nat) (q : List QEntry) : (s.setQueue g c e q).stopped = s.stopped := rfl
@[simp] theorem State.setQueue_crossings (s : State) (g c e : Nat) (q : List QEntry) : (s.setQueue g c e q).crossings = s.crossings := rfl
@[simp] theorem State.setQueue_mmioData (s : State) (g c e : Nat) (q : List QEntry) : (s.setQueue g c e q).mmioData = s.mmioData := rfl
@[simp] theorem State.setQueue_rxStamp (s : State) (g c e : Nat) (q : List QEntry) : (s.setQueue g c e q).rxStamp = s.rxStamp := rfl
@[simp] theorem State.setQueue_cqFault (s : State) (g c e : Nat) (q : List QEntry) : (s.setQueue g c e q).cqFault = s.cqFault := rfl
@[simp] theorem State.setQueue_committed (s : State) (g c e : Nat) (q : List QEntry) : (s.setQueue g c e q).committed = s.committed := rfl
@[simp] theorem State.setQueue_fresh (s : State) (g c e : Nat) (q : List QEntry) : (s.setQueue g c e q).fresh = s.fresh := rfl

/-! ## What `setCore` leaves -/

@[simp] theorem State.setCore_get (s : State) (g cx : Nat) (x : CoreS) (r : Fld) : (s.setCore g cx x).get r = s.get r := rfl
@[simp] theorem State.setCore_pending (s : State) (g cx : Nat) (x : CoreS) : (s.setCore g cx x).pending = s.pending := rfl
@[simp] theorem State.setCore_regs (s : State) (g cx : Nat) (x : CoreS) : (s.setCore g cx x).regs = s.regs := rfl
@[simp] theorem State.setCore_time (s : State) (g cx : Nat) (x : CoreS) : (s.setCore g cx x).time = s.time := rfl
@[simp] theorem State.setCore_ctx (s : State) (g cx : Nat) (x : CoreS) : (s.setCore g cx x).ctx = s.ctx := rfl
@[simp] theorem State.setCore_queues (s : State) (g cx : Nat) (x : CoreS) : (s.setCore g cx x).queues = s.queues := rfl
@[simp] theorem State.setCore_carry (s : State) (g cx : Nat) (x : CoreS) : (s.setCore g cx x).carry = s.carry := rfl
@[simp] theorem State.setCore_pushSeq (s : State) (g cx : Nat) (x : CoreS) : (s.setCore g cx x).pushSeq = s.pushSeq := rfl
@[simp] theorem State.setCore_spotter (s : State) (g cx : Nat) (x : CoreS) : (s.setCore g cx x).spotter = s.spotter := rfl
@[simp] theorem State.setCore_islSeq (s : State) (g cx : Nat) (x : CoreS) : (s.setCore g cx x).islSeq = s.islSeq := rfl
@[simp] theorem State.setCore_cq (s : State) (g cx : Nat) (x : CoreS) : (s.setCore g cx x).cq = s.cq := rfl
@[simp] theorem State.setCore_sn (s : State) (g cx : Nat) (x : CoreS) : (s.setCore g cx x).sn = s.sn := rfl
@[simp] theorem State.setCore_job (s : State) (g cx : Nat) (x : CoreS) : (s.setCore g cx x).job = s.job := rfl
@[simp] theorem State.setCore_ports (s : State) (g cx : Nat) (x : CoreS) : (s.setCore g cx x).ports = s.ports := rfl
@[simp] theorem State.setCore_coll (s : State) (g cx : Nat) (x : CoreS) : (s.setCore g cx x).coll = s.coll := rfl
@[simp] theorem State.setCore_issueSeq (s : State) (g cx : Nat) (x : CoreS) : (s.setCore g cx x).issueSeq = s.issueSeq := rfl
@[simp] theorem State.setCore_glOut (s : State) (g cx : Nat) (x : CoreS) : (s.setCore g cx x).glOut = s.glOut := rfl
@[simp] theorem State.setCore_barred (s : State) (g cx : Nat) (x : CoreS) : (s.setCore g cx x).barred = s.barred := rfl
@[simp] theorem State.setCore_links (s : State) (g cx : Nat) (x : CoreS) : (s.setCore g cx x).links = s.links := rfl
@[simp] theorem State.setCore_linksLost (s : State) (g cx : Nat) (x : CoreS) : (s.setCore g cx x).linksLost = s.linksLost := rfl
@[simp] theorem State.setCore_relay (s : State) (g cx : Nat) (x : CoreS) : (s.setCore g cx x).relay = s.relay := rfl
@[simp] theorem State.setCore_ackOwed (s : State) (g cx : Nat) (x : CoreS) : (s.setCore g cx x).ackOwed = s.ackOwed := rfl
@[simp] theorem State.setCore_missedBeats (s : State) (g cx : Nat) (x : CoreS) : (s.setCore g cx x).missedBeats = s.missedBeats := rfl
@[simp] theorem State.setCore_hbmSelf (s : State) (g cx : Nat) (x : CoreS) : (s.setCore g cx x).hbmSelf = s.hbmSelf := rfl
@[simp] theorem State.setCore_ddrSelf (s : State) (g cx : Nat) (x : CoreS) : (s.setCore g cx x).ddrSelf = s.ddrSelf := rfl
@[simp] theorem State.setCore_mem (s : State) (g cx : Nat) (x : CoreS) : (s.setCore g cx x).mem = s.mem := rfl
@[simp] theorem State.setCore_host (s : State) (g cx : Nat) (x : CoreS) : (s.setCore g cx x).host = s.host := rfl
@[simp] theorem State.setCore_owner (s : State) (g cx : Nat) (x : CoreS) : (s.setCore g cx x).owner = s.owner := rfl
@[simp] theorem State.setCore_modules (s : State) (g cx : Nat) (x : CoreS) : (s.setCore g cx x).modules = s.modules := rfl
@[simp] theorem State.setCore_tlb (s : State) (g cx : Nat) (x : CoreS) : (s.setCore g cx x).tlb = s.tlb := rfl
@[simp] theorem State.setCore_pageOp (s : State) (g cx : Nat) (x : CoreS) : (s.setCore g cx x).pageOp = s.pageOp := rfl
@[simp] theorem State.setCore_memErrs (s : State) (g cx : Nat) (x : CoreS) : (s.setCore g cx x).memErrs = s.memErrs := rfl
@[simp] theorem State.setCore_alerts (s : State) (g cx : Nat) (x : CoreS) : (s.setCore g cx x).alerts = s.alerts := rfl
@[simp] theorem State.setCore_retiring (s : State) (g cx : Nat) (x : CoreS) : (s.setCore g cx x).retiring = s.retiring := rfl
@[simp] theorem State.setCore_rings (s : State) (g cx : Nat) (x : CoreS) : (s.setCore g cx x).rings = s.rings := rfl
@[simp] theorem State.setCore_doubler (s : State) (g cx : Nat) (x : CoreS) : (s.setCore g cx x).doubler = s.doubler := rfl
@[simp] theorem State.setCore_msgs (s : State) (g cx : Nat) (x : CoreS) : (s.setCore g cx x).msgs = s.msgs := rfl
@[simp] theorem State.setCore_pcie (s : State) (g cx : Nat) (x : CoreS) : (s.setCore g cx x).pcie = s.pcie := rfl
@[simp] theorem State.setCore_doe (s : State) (g cx : Nat) (x : CoreS) : (s.setCore g cx x).doe = s.doe := rfl
@[simp] theorem State.setCore_ide (s : State) (g cx : Nat) (x : CoreS) : (s.setCore g cx x).ide = s.ide := rfl
@[simp] theorem State.setCore_aon (s : State) (g cx : Nat) (x : CoreS) : (s.setCore g cx x).aon = s.aon := rfl
@[simp] theorem State.setCore_boot (s : State) (g cx : Nat) (x : CoreS) : (s.setCore g cx x).boot = s.boot := rfl
@[simp] theorem State.setCore_power (s : State) (g cx : Nat) (x : CoreS) : (s.setCore g cx x).power = s.power := rfl
@[simp] theorem State.setCore_hs (s : State) (g cx : Nat) (x : CoreS) : (s.setCore g cx x).hs = s.hs := rfl
@[simp] theorem State.setCore_sec (s : State) (g cx : Nat) (x : CoreS) : (s.setCore g cx x).sec = s.sec := rfl
@[simp] theorem State.setCore_mgmt (s : State) (g cx : Nat) (x : CoreS) : (s.setCore g cx x).mgmt = s.mgmt := rfl
@[simp] theorem State.setCore_flash (s : State) (g cx : Nat) (x : CoreS) : (s.setCore g cx x).flash = s.flash := rfl
@[simp] theorem State.setCore_jtag (s : State) (g cx : Nat) (x : CoreS) : (s.setCore g cx x).jtag = s.jtag := rfl
@[simp] theorem State.setCore_stopped (s : State) (g cx : Nat) (x : CoreS) : (s.setCore g cx x).stopped = s.stopped := rfl
@[simp] theorem State.setCore_crossings (s : State) (g cx : Nat) (x : CoreS) : (s.setCore g cx x).crossings = s.crossings := rfl
@[simp] theorem State.setCore_mmioData (s : State) (g cx : Nat) (x : CoreS) : (s.setCore g cx x).mmioData = s.mmioData := rfl
@[simp] theorem State.setCore_rxStamp (s : State) (g cx : Nat) (x : CoreS) : (s.setCore g cx x).rxStamp = s.rxStamp := rfl
@[simp] theorem State.setCore_cqFault (s : State) (g cx : Nat) (x : CoreS) : (s.setCore g cx x).cqFault = s.cqFault := rfl
@[simp] theorem State.setCore_committed (s : State) (g cx : Nat) (x : CoreS) : (s.setCore g cx x).committed = s.committed := rfl
@[simp] theorem State.setCore_fresh (s : State) (g cx : Nat) (x : CoreS) : (s.setCore g cx x).fresh = s.fresh := rfl

/-! ## What `setSn` leaves -/

@[simp] theorem State.setSn_get (s : State) (j : Nat) (x : SnS) (r : Fld) : (s.setSn j x).get r = s.get r := rfl
@[simp] theorem State.setSn_pending (s : State) (j : Nat) (x : SnS) : (s.setSn j x).pending = s.pending := rfl
@[simp] theorem State.setSn_regs (s : State) (j : Nat) (x : SnS) : (s.setSn j x).regs = s.regs := rfl
@[simp] theorem State.setSn_time (s : State) (j : Nat) (x : SnS) : (s.setSn j x).time = s.time := rfl
@[simp] theorem State.setSn_ctx (s : State) (j : Nat) (x : SnS) : (s.setSn j x).ctx = s.ctx := rfl
@[simp] theorem State.setSn_queues (s : State) (j : Nat) (x : SnS) : (s.setSn j x).queues = s.queues := rfl
@[simp] theorem State.setSn_cores (s : State) (j : Nat) (x : SnS) : (s.setSn j x).cores = s.cores := rfl
@[simp] theorem State.setSn_carry (s : State) (j : Nat) (x : SnS) : (s.setSn j x).carry = s.carry := rfl
@[simp] theorem State.setSn_pushSeq (s : State) (j : Nat) (x : SnS) : (s.setSn j x).pushSeq = s.pushSeq := rfl
@[simp] theorem State.setSn_spotter (s : State) (j : Nat) (x : SnS) : (s.setSn j x).spotter = s.spotter := rfl
@[simp] theorem State.setSn_islSeq (s : State) (j : Nat) (x : SnS) : (s.setSn j x).islSeq = s.islSeq := rfl
@[simp] theorem State.setSn_cq (s : State) (j : Nat) (x : SnS) : (s.setSn j x).cq = s.cq := rfl
@[simp] theorem State.setSn_job (s : State) (j : Nat) (x : SnS) : (s.setSn j x).job = s.job := rfl
@[simp] theorem State.setSn_ports (s : State) (j : Nat) (x : SnS) : (s.setSn j x).ports = s.ports := rfl
@[simp] theorem State.setSn_coll (s : State) (j : Nat) (x : SnS) : (s.setSn j x).coll = s.coll := rfl
@[simp] theorem State.setSn_issueSeq (s : State) (j : Nat) (x : SnS) : (s.setSn j x).issueSeq = s.issueSeq := rfl
@[simp] theorem State.setSn_glOut (s : State) (j : Nat) (x : SnS) : (s.setSn j x).glOut = s.glOut := rfl
@[simp] theorem State.setSn_barred (s : State) (j : Nat) (x : SnS) : (s.setSn j x).barred = s.barred := rfl
@[simp] theorem State.setSn_links (s : State) (j : Nat) (x : SnS) : (s.setSn j x).links = s.links := rfl
@[simp] theorem State.setSn_linksLost (s : State) (j : Nat) (x : SnS) : (s.setSn j x).linksLost = s.linksLost := rfl
@[simp] theorem State.setSn_relay (s : State) (j : Nat) (x : SnS) : (s.setSn j x).relay = s.relay := rfl
@[simp] theorem State.setSn_ackOwed (s : State) (j : Nat) (x : SnS) : (s.setSn j x).ackOwed = s.ackOwed := rfl
@[simp] theorem State.setSn_missedBeats (s : State) (j : Nat) (x : SnS) : (s.setSn j x).missedBeats = s.missedBeats := rfl
@[simp] theorem State.setSn_hbmSelf (s : State) (j : Nat) (x : SnS) : (s.setSn j x).hbmSelf = s.hbmSelf := rfl
@[simp] theorem State.setSn_ddrSelf (s : State) (j : Nat) (x : SnS) : (s.setSn j x).ddrSelf = s.ddrSelf := rfl
@[simp] theorem State.setSn_mem (s : State) (j : Nat) (x : SnS) : (s.setSn j x).mem = s.mem := rfl
@[simp] theorem State.setSn_host (s : State) (j : Nat) (x : SnS) : (s.setSn j x).host = s.host := rfl
@[simp] theorem State.setSn_owner (s : State) (j : Nat) (x : SnS) : (s.setSn j x).owner = s.owner := rfl
@[simp] theorem State.setSn_modules (s : State) (j : Nat) (x : SnS) : (s.setSn j x).modules = s.modules := rfl
@[simp] theorem State.setSn_tlb (s : State) (j : Nat) (x : SnS) : (s.setSn j x).tlb = s.tlb := rfl
@[simp] theorem State.setSn_pageOp (s : State) (j : Nat) (x : SnS) : (s.setSn j x).pageOp = s.pageOp := rfl
@[simp] theorem State.setSn_memErrs (s : State) (j : Nat) (x : SnS) : (s.setSn j x).memErrs = s.memErrs := rfl
@[simp] theorem State.setSn_alerts (s : State) (j : Nat) (x : SnS) : (s.setSn j x).alerts = s.alerts := rfl
@[simp] theorem State.setSn_retiring (s : State) (j : Nat) (x : SnS) : (s.setSn j x).retiring = s.retiring := rfl
@[simp] theorem State.setSn_rings (s : State) (j : Nat) (x : SnS) : (s.setSn j x).rings = s.rings := rfl
@[simp] theorem State.setSn_doubler (s : State) (j : Nat) (x : SnS) : (s.setSn j x).doubler = s.doubler := rfl
@[simp] theorem State.setSn_msgs (s : State) (j : Nat) (x : SnS) : (s.setSn j x).msgs = s.msgs := rfl
@[simp] theorem State.setSn_pcie (s : State) (j : Nat) (x : SnS) : (s.setSn j x).pcie = s.pcie := rfl
@[simp] theorem State.setSn_doe (s : State) (j : Nat) (x : SnS) : (s.setSn j x).doe = s.doe := rfl
@[simp] theorem State.setSn_ide (s : State) (j : Nat) (x : SnS) : (s.setSn j x).ide = s.ide := rfl
@[simp] theorem State.setSn_aon (s : State) (j : Nat) (x : SnS) : (s.setSn j x).aon = s.aon := rfl
@[simp] theorem State.setSn_boot (s : State) (j : Nat) (x : SnS) : (s.setSn j x).boot = s.boot := rfl
@[simp] theorem State.setSn_power (s : State) (j : Nat) (x : SnS) : (s.setSn j x).power = s.power := rfl
@[simp] theorem State.setSn_hs (s : State) (j : Nat) (x : SnS) : (s.setSn j x).hs = s.hs := rfl
@[simp] theorem State.setSn_sec (s : State) (j : Nat) (x : SnS) : (s.setSn j x).sec = s.sec := rfl
@[simp] theorem State.setSn_mgmt (s : State) (j : Nat) (x : SnS) : (s.setSn j x).mgmt = s.mgmt := rfl
@[simp] theorem State.setSn_flash (s : State) (j : Nat) (x : SnS) : (s.setSn j x).flash = s.flash := rfl
@[simp] theorem State.setSn_jtag (s : State) (j : Nat) (x : SnS) : (s.setSn j x).jtag = s.jtag := rfl
@[simp] theorem State.setSn_stopped (s : State) (j : Nat) (x : SnS) : (s.setSn j x).stopped = s.stopped := rfl
@[simp] theorem State.setSn_crossings (s : State) (j : Nat) (x : SnS) : (s.setSn j x).crossings = s.crossings := rfl
@[simp] theorem State.setSn_mmioData (s : State) (j : Nat) (x : SnS) : (s.setSn j x).mmioData = s.mmioData := rfl
@[simp] theorem State.setSn_rxStamp (s : State) (j : Nat) (x : SnS) : (s.setSn j x).rxStamp = s.rxStamp := rfl
@[simp] theorem State.setSn_cqFault (s : State) (j : Nat) (x : SnS) : (s.setSn j x).cqFault = s.cqFault := rfl
@[simp] theorem State.setSn_committed (s : State) (j : Nat) (x : SnS) : (s.setSn j x).committed = s.committed := rfl
@[simp] theorem State.setSn_fresh (s : State) (j : Nat) (x : SnS) : (s.setSn j x).fresh = s.fresh := rfl

/-! ## What `setJobS` leaves -/

@[simp] theorem State.setJobS_get (s : State) (j : Nat) (x : JobS) (r : Fld) : (s.setJobS j x).get r = s.get r := rfl
@[simp] theorem State.setJobS_pending (s : State) (j : Nat) (x : JobS) : (s.setJobS j x).pending = s.pending := rfl
@[simp] theorem State.setJobS_regs (s : State) (j : Nat) (x : JobS) : (s.setJobS j x).regs = s.regs := rfl
@[simp] theorem State.setJobS_time (s : State) (j : Nat) (x : JobS) : (s.setJobS j x).time = s.time := rfl
@[simp] theorem State.setJobS_ctx (s : State) (j : Nat) (x : JobS) : (s.setJobS j x).ctx = s.ctx := rfl
@[simp] theorem State.setJobS_queues (s : State) (j : Nat) (x : JobS) : (s.setJobS j x).queues = s.queues := rfl
@[simp] theorem State.setJobS_cores (s : State) (j : Nat) (x : JobS) : (s.setJobS j x).cores = s.cores := rfl
@[simp] theorem State.setJobS_carry (s : State) (j : Nat) (x : JobS) : (s.setJobS j x).carry = s.carry := rfl
@[simp] theorem State.setJobS_pushSeq (s : State) (j : Nat) (x : JobS) : (s.setJobS j x).pushSeq = s.pushSeq := rfl
@[simp] theorem State.setJobS_spotter (s : State) (j : Nat) (x : JobS) : (s.setJobS j x).spotter = s.spotter := rfl
@[simp] theorem State.setJobS_islSeq (s : State) (j : Nat) (x : JobS) : (s.setJobS j x).islSeq = s.islSeq := rfl
@[simp] theorem State.setJobS_cq (s : State) (j : Nat) (x : JobS) : (s.setJobS j x).cq = s.cq := rfl
@[simp] theorem State.setJobS_sn (s : State) (j : Nat) (x : JobS) : (s.setJobS j x).sn = s.sn := rfl
@[simp] theorem State.setJobS_ports (s : State) (j : Nat) (x : JobS) : (s.setJobS j x).ports = s.ports := rfl
@[simp] theorem State.setJobS_coll (s : State) (j : Nat) (x : JobS) : (s.setJobS j x).coll = s.coll := rfl
@[simp] theorem State.setJobS_issueSeq (s : State) (j : Nat) (x : JobS) : (s.setJobS j x).issueSeq = s.issueSeq := rfl
@[simp] theorem State.setJobS_glOut (s : State) (j : Nat) (x : JobS) : (s.setJobS j x).glOut = s.glOut := rfl
@[simp] theorem State.setJobS_barred (s : State) (j : Nat) (x : JobS) : (s.setJobS j x).barred = s.barred := rfl
@[simp] theorem State.setJobS_links (s : State) (j : Nat) (x : JobS) : (s.setJobS j x).links = s.links := rfl
@[simp] theorem State.setJobS_linksLost (s : State) (j : Nat) (x : JobS) : (s.setJobS j x).linksLost = s.linksLost := rfl
@[simp] theorem State.setJobS_relay (s : State) (j : Nat) (x : JobS) : (s.setJobS j x).relay = s.relay := rfl
@[simp] theorem State.setJobS_ackOwed (s : State) (j : Nat) (x : JobS) : (s.setJobS j x).ackOwed = s.ackOwed := rfl
@[simp] theorem State.setJobS_missedBeats (s : State) (j : Nat) (x : JobS) : (s.setJobS j x).missedBeats = s.missedBeats := rfl
@[simp] theorem State.setJobS_hbmSelf (s : State) (j : Nat) (x : JobS) : (s.setJobS j x).hbmSelf = s.hbmSelf := rfl
@[simp] theorem State.setJobS_ddrSelf (s : State) (j : Nat) (x : JobS) : (s.setJobS j x).ddrSelf = s.ddrSelf := rfl
@[simp] theorem State.setJobS_mem (s : State) (j : Nat) (x : JobS) : (s.setJobS j x).mem = s.mem := rfl
@[simp] theorem State.setJobS_host (s : State) (j : Nat) (x : JobS) : (s.setJobS j x).host = s.host := rfl
@[simp] theorem State.setJobS_owner (s : State) (j : Nat) (x : JobS) : (s.setJobS j x).owner = s.owner := rfl
@[simp] theorem State.setJobS_modules (s : State) (j : Nat) (x : JobS) : (s.setJobS j x).modules = s.modules := rfl
@[simp] theorem State.setJobS_tlb (s : State) (j : Nat) (x : JobS) : (s.setJobS j x).tlb = s.tlb := rfl
@[simp] theorem State.setJobS_pageOp (s : State) (j : Nat) (x : JobS) : (s.setJobS j x).pageOp = s.pageOp := rfl
@[simp] theorem State.setJobS_memErrs (s : State) (j : Nat) (x : JobS) : (s.setJobS j x).memErrs = s.memErrs := rfl
@[simp] theorem State.setJobS_alerts (s : State) (j : Nat) (x : JobS) : (s.setJobS j x).alerts = s.alerts := rfl
@[simp] theorem State.setJobS_retiring (s : State) (j : Nat) (x : JobS) : (s.setJobS j x).retiring = s.retiring := rfl
@[simp] theorem State.setJobS_rings (s : State) (j : Nat) (x : JobS) : (s.setJobS j x).rings = s.rings := rfl
@[simp] theorem State.setJobS_doubler (s : State) (j : Nat) (x : JobS) : (s.setJobS j x).doubler = s.doubler := rfl
@[simp] theorem State.setJobS_msgs (s : State) (j : Nat) (x : JobS) : (s.setJobS j x).msgs = s.msgs := rfl
@[simp] theorem State.setJobS_pcie (s : State) (j : Nat) (x : JobS) : (s.setJobS j x).pcie = s.pcie := rfl
@[simp] theorem State.setJobS_doe (s : State) (j : Nat) (x : JobS) : (s.setJobS j x).doe = s.doe := rfl
@[simp] theorem State.setJobS_ide (s : State) (j : Nat) (x : JobS) : (s.setJobS j x).ide = s.ide := rfl
@[simp] theorem State.setJobS_aon (s : State) (j : Nat) (x : JobS) : (s.setJobS j x).aon = s.aon := rfl
@[simp] theorem State.setJobS_boot (s : State) (j : Nat) (x : JobS) : (s.setJobS j x).boot = s.boot := rfl
@[simp] theorem State.setJobS_power (s : State) (j : Nat) (x : JobS) : (s.setJobS j x).power = s.power := rfl
@[simp] theorem State.setJobS_hs (s : State) (j : Nat) (x : JobS) : (s.setJobS j x).hs = s.hs := rfl
@[simp] theorem State.setJobS_sec (s : State) (j : Nat) (x : JobS) : (s.setJobS j x).sec = s.sec := rfl
@[simp] theorem State.setJobS_mgmt (s : State) (j : Nat) (x : JobS) : (s.setJobS j x).mgmt = s.mgmt := rfl
@[simp] theorem State.setJobS_flash (s : State) (j : Nat) (x : JobS) : (s.setJobS j x).flash = s.flash := rfl
@[simp] theorem State.setJobS_jtag (s : State) (j : Nat) (x : JobS) : (s.setJobS j x).jtag = s.jtag := rfl
@[simp] theorem State.setJobS_stopped (s : State) (j : Nat) (x : JobS) : (s.setJobS j x).stopped = s.stopped := rfl
@[simp] theorem State.setJobS_crossings (s : State) (j : Nat) (x : JobS) : (s.setJobS j x).crossings = s.crossings := rfl
@[simp] theorem State.setJobS_mmioData (s : State) (j : Nat) (x : JobS) : (s.setJobS j x).mmioData = s.mmioData := rfl
@[simp] theorem State.setJobS_rxStamp (s : State) (j : Nat) (x : JobS) : (s.setJobS j x).rxStamp = s.rxStamp := rfl
@[simp] theorem State.setJobS_cqFault (s : State) (j : Nat) (x : JobS) : (s.setJobS j x).cqFault = s.cqFault := rfl
@[simp] theorem State.setJobS_committed (s : State) (j : Nat) (x : JobS) : (s.setJobS j x).committed = s.committed := rfl
@[simp] theorem State.setJobS_fresh (s : State) (j : Nat) (x : JobS) : (s.setJobS j x).fresh = s.fresh := rfl

/-! ## What `setCq` leaves -/

@[simp] theorem State.setCq_get (s : State) (q : Nat) (x : CqS) (r : Fld) : (s.setCq q x).get r = s.get r := rfl
@[simp] theorem State.setCq_pending (s : State) (q : Nat) (x : CqS) : (s.setCq q x).pending = s.pending := rfl
@[simp] theorem State.setCq_regs (s : State) (q : Nat) (x : CqS) : (s.setCq q x).regs = s.regs := rfl
@[simp] theorem State.setCq_time (s : State) (q : Nat) (x : CqS) : (s.setCq q x).time = s.time := rfl
@[simp] theorem State.setCq_ctx (s : State) (q : Nat) (x : CqS) : (s.setCq q x).ctx = s.ctx := rfl
@[simp] theorem State.setCq_queues (s : State) (q : Nat) (x : CqS) : (s.setCq q x).queues = s.queues := rfl
@[simp] theorem State.setCq_cores (s : State) (q : Nat) (x : CqS) : (s.setCq q x).cores = s.cores := rfl
@[simp] theorem State.setCq_carry (s : State) (q : Nat) (x : CqS) : (s.setCq q x).carry = s.carry := rfl
@[simp] theorem State.setCq_pushSeq (s : State) (q : Nat) (x : CqS) : (s.setCq q x).pushSeq = s.pushSeq := rfl
@[simp] theorem State.setCq_spotter (s : State) (q : Nat) (x : CqS) : (s.setCq q x).spotter = s.spotter := rfl
@[simp] theorem State.setCq_islSeq (s : State) (q : Nat) (x : CqS) : (s.setCq q x).islSeq = s.islSeq := rfl
@[simp] theorem State.setCq_sn (s : State) (q : Nat) (x : CqS) : (s.setCq q x).sn = s.sn := rfl
@[simp] theorem State.setCq_job (s : State) (q : Nat) (x : CqS) : (s.setCq q x).job = s.job := rfl
@[simp] theorem State.setCq_ports (s : State) (q : Nat) (x : CqS) : (s.setCq q x).ports = s.ports := rfl
@[simp] theorem State.setCq_coll (s : State) (q : Nat) (x : CqS) : (s.setCq q x).coll = s.coll := rfl
@[simp] theorem State.setCq_issueSeq (s : State) (q : Nat) (x : CqS) : (s.setCq q x).issueSeq = s.issueSeq := rfl
@[simp] theorem State.setCq_glOut (s : State) (q : Nat) (x : CqS) : (s.setCq q x).glOut = s.glOut := rfl
@[simp] theorem State.setCq_barred (s : State) (q : Nat) (x : CqS) : (s.setCq q x).barred = s.barred := rfl
@[simp] theorem State.setCq_links (s : State) (q : Nat) (x : CqS) : (s.setCq q x).links = s.links := rfl
@[simp] theorem State.setCq_linksLost (s : State) (q : Nat) (x : CqS) : (s.setCq q x).linksLost = s.linksLost := rfl
@[simp] theorem State.setCq_relay (s : State) (q : Nat) (x : CqS) : (s.setCq q x).relay = s.relay := rfl
@[simp] theorem State.setCq_ackOwed (s : State) (q : Nat) (x : CqS) : (s.setCq q x).ackOwed = s.ackOwed := rfl
@[simp] theorem State.setCq_missedBeats (s : State) (q : Nat) (x : CqS) : (s.setCq q x).missedBeats = s.missedBeats := rfl
@[simp] theorem State.setCq_hbmSelf (s : State) (q : Nat) (x : CqS) : (s.setCq q x).hbmSelf = s.hbmSelf := rfl
@[simp] theorem State.setCq_ddrSelf (s : State) (q : Nat) (x : CqS) : (s.setCq q x).ddrSelf = s.ddrSelf := rfl
@[simp] theorem State.setCq_mem (s : State) (q : Nat) (x : CqS) : (s.setCq q x).mem = s.mem := rfl
@[simp] theorem State.setCq_host (s : State) (q : Nat) (x : CqS) : (s.setCq q x).host = s.host := rfl
@[simp] theorem State.setCq_owner (s : State) (q : Nat) (x : CqS) : (s.setCq q x).owner = s.owner := rfl
@[simp] theorem State.setCq_modules (s : State) (q : Nat) (x : CqS) : (s.setCq q x).modules = s.modules := rfl
@[simp] theorem State.setCq_tlb (s : State) (q : Nat) (x : CqS) : (s.setCq q x).tlb = s.tlb := rfl
@[simp] theorem State.setCq_pageOp (s : State) (q : Nat) (x : CqS) : (s.setCq q x).pageOp = s.pageOp := rfl
@[simp] theorem State.setCq_memErrs (s : State) (q : Nat) (x : CqS) : (s.setCq q x).memErrs = s.memErrs := rfl
@[simp] theorem State.setCq_alerts (s : State) (q : Nat) (x : CqS) : (s.setCq q x).alerts = s.alerts := rfl
@[simp] theorem State.setCq_retiring (s : State) (q : Nat) (x : CqS) : (s.setCq q x).retiring = s.retiring := rfl
@[simp] theorem State.setCq_rings (s : State) (q : Nat) (x : CqS) : (s.setCq q x).rings = s.rings := rfl
@[simp] theorem State.setCq_doubler (s : State) (q : Nat) (x : CqS) : (s.setCq q x).doubler = s.doubler := rfl
@[simp] theorem State.setCq_msgs (s : State) (q : Nat) (x : CqS) : (s.setCq q x).msgs = s.msgs := rfl
@[simp] theorem State.setCq_pcie (s : State) (q : Nat) (x : CqS) : (s.setCq q x).pcie = s.pcie := rfl
@[simp] theorem State.setCq_doe (s : State) (q : Nat) (x : CqS) : (s.setCq q x).doe = s.doe := rfl
@[simp] theorem State.setCq_ide (s : State) (q : Nat) (x : CqS) : (s.setCq q x).ide = s.ide := rfl
@[simp] theorem State.setCq_aon (s : State) (q : Nat) (x : CqS) : (s.setCq q x).aon = s.aon := rfl
@[simp] theorem State.setCq_boot (s : State) (q : Nat) (x : CqS) : (s.setCq q x).boot = s.boot := rfl
@[simp] theorem State.setCq_power (s : State) (q : Nat) (x : CqS) : (s.setCq q x).power = s.power := rfl
@[simp] theorem State.setCq_hs (s : State) (q : Nat) (x : CqS) : (s.setCq q x).hs = s.hs := rfl
@[simp] theorem State.setCq_sec (s : State) (q : Nat) (x : CqS) : (s.setCq q x).sec = s.sec := rfl
@[simp] theorem State.setCq_mgmt (s : State) (q : Nat) (x : CqS) : (s.setCq q x).mgmt = s.mgmt := rfl
@[simp] theorem State.setCq_flash (s : State) (q : Nat) (x : CqS) : (s.setCq q x).flash = s.flash := rfl
@[simp] theorem State.setCq_jtag (s : State) (q : Nat) (x : CqS) : (s.setCq q x).jtag = s.jtag := rfl
@[simp] theorem State.setCq_stopped (s : State) (q : Nat) (x : CqS) : (s.setCq q x).stopped = s.stopped := rfl
@[simp] theorem State.setCq_crossings (s : State) (q : Nat) (x : CqS) : (s.setCq q x).crossings = s.crossings := rfl
@[simp] theorem State.setCq_mmioData (s : State) (q : Nat) (x : CqS) : (s.setCq q x).mmioData = s.mmioData := rfl
@[simp] theorem State.setCq_rxStamp (s : State) (q : Nat) (x : CqS) : (s.setCq q x).rxStamp = s.rxStamp := rfl
@[simp] theorem State.setCq_cqFault (s : State) (q : Nat) (x : CqS) : (s.setCq q x).cqFault = s.cqFault := rfl
@[simp] theorem State.setCq_committed (s : State) (q : Nat) (x : CqS) : (s.setCq q x).committed = s.committed := rfl
@[simp] theorem State.setCq_fresh (s : State) (q : Nat) (x : CqS) : (s.setCq q x).fresh = s.fresh := rfl

/-! ## What `setPort` leaves -/

@[simp] theorem State.setPort_get (s : State) (p : Nat) (x : PortS) (r : Fld) : (s.setPort p x).get r = s.get r := rfl
@[simp] theorem State.setPort_pending (s : State) (p : Nat) (x : PortS) : (s.setPort p x).pending = s.pending := rfl
@[simp] theorem State.setPort_regs (s : State) (p : Nat) (x : PortS) : (s.setPort p x).regs = s.regs := rfl
@[simp] theorem State.setPort_time (s : State) (p : Nat) (x : PortS) : (s.setPort p x).time = s.time := rfl
@[simp] theorem State.setPort_ctx (s : State) (p : Nat) (x : PortS) : (s.setPort p x).ctx = s.ctx := rfl
@[simp] theorem State.setPort_queues (s : State) (p : Nat) (x : PortS) : (s.setPort p x).queues = s.queues := rfl
@[simp] theorem State.setPort_cores (s : State) (p : Nat) (x : PortS) : (s.setPort p x).cores = s.cores := rfl
@[simp] theorem State.setPort_carry (s : State) (p : Nat) (x : PortS) : (s.setPort p x).carry = s.carry := rfl
@[simp] theorem State.setPort_pushSeq (s : State) (p : Nat) (x : PortS) : (s.setPort p x).pushSeq = s.pushSeq := rfl
@[simp] theorem State.setPort_spotter (s : State) (p : Nat) (x : PortS) : (s.setPort p x).spotter = s.spotter := rfl
@[simp] theorem State.setPort_islSeq (s : State) (p : Nat) (x : PortS) : (s.setPort p x).islSeq = s.islSeq := rfl
@[simp] theorem State.setPort_cq (s : State) (p : Nat) (x : PortS) : (s.setPort p x).cq = s.cq := rfl
@[simp] theorem State.setPort_sn (s : State) (p : Nat) (x : PortS) : (s.setPort p x).sn = s.sn := rfl
@[simp] theorem State.setPort_job (s : State) (p : Nat) (x : PortS) : (s.setPort p x).job = s.job := rfl
@[simp] theorem State.setPort_coll (s : State) (p : Nat) (x : PortS) : (s.setPort p x).coll = s.coll := rfl
@[simp] theorem State.setPort_issueSeq (s : State) (p : Nat) (x : PortS) : (s.setPort p x).issueSeq = s.issueSeq := rfl
@[simp] theorem State.setPort_glOut (s : State) (p : Nat) (x : PortS) : (s.setPort p x).glOut = s.glOut := rfl
@[simp] theorem State.setPort_barred (s : State) (p : Nat) (x : PortS) : (s.setPort p x).barred = s.barred := rfl
@[simp] theorem State.setPort_links (s : State) (p : Nat) (x : PortS) : (s.setPort p x).links = s.links := rfl
@[simp] theorem State.setPort_linksLost (s : State) (p : Nat) (x : PortS) : (s.setPort p x).linksLost = s.linksLost := rfl
@[simp] theorem State.setPort_relay (s : State) (p : Nat) (x : PortS) : (s.setPort p x).relay = s.relay := rfl
@[simp] theorem State.setPort_ackOwed (s : State) (p : Nat) (x : PortS) : (s.setPort p x).ackOwed = s.ackOwed := rfl
@[simp] theorem State.setPort_missedBeats (s : State) (p : Nat) (x : PortS) : (s.setPort p x).missedBeats = s.missedBeats := rfl
@[simp] theorem State.setPort_hbmSelf (s : State) (p : Nat) (x : PortS) : (s.setPort p x).hbmSelf = s.hbmSelf := rfl
@[simp] theorem State.setPort_ddrSelf (s : State) (p : Nat) (x : PortS) : (s.setPort p x).ddrSelf = s.ddrSelf := rfl
@[simp] theorem State.setPort_mem (s : State) (p : Nat) (x : PortS) : (s.setPort p x).mem = s.mem := rfl
@[simp] theorem State.setPort_host (s : State) (p : Nat) (x : PortS) : (s.setPort p x).host = s.host := rfl
@[simp] theorem State.setPort_owner (s : State) (p : Nat) (x : PortS) : (s.setPort p x).owner = s.owner := rfl
@[simp] theorem State.setPort_modules (s : State) (p : Nat) (x : PortS) : (s.setPort p x).modules = s.modules := rfl
@[simp] theorem State.setPort_tlb (s : State) (p : Nat) (x : PortS) : (s.setPort p x).tlb = s.tlb := rfl
@[simp] theorem State.setPort_pageOp (s : State) (p : Nat) (x : PortS) : (s.setPort p x).pageOp = s.pageOp := rfl
@[simp] theorem State.setPort_memErrs (s : State) (p : Nat) (x : PortS) : (s.setPort p x).memErrs = s.memErrs := rfl
@[simp] theorem State.setPort_alerts (s : State) (p : Nat) (x : PortS) : (s.setPort p x).alerts = s.alerts := rfl
@[simp] theorem State.setPort_retiring (s : State) (p : Nat) (x : PortS) : (s.setPort p x).retiring = s.retiring := rfl
@[simp] theorem State.setPort_rings (s : State) (p : Nat) (x : PortS) : (s.setPort p x).rings = s.rings := rfl
@[simp] theorem State.setPort_doubler (s : State) (p : Nat) (x : PortS) : (s.setPort p x).doubler = s.doubler := rfl
@[simp] theorem State.setPort_msgs (s : State) (p : Nat) (x : PortS) : (s.setPort p x).msgs = s.msgs := rfl
@[simp] theorem State.setPort_pcie (s : State) (p : Nat) (x : PortS) : (s.setPort p x).pcie = s.pcie := rfl
@[simp] theorem State.setPort_doe (s : State) (p : Nat) (x : PortS) : (s.setPort p x).doe = s.doe := rfl
@[simp] theorem State.setPort_ide (s : State) (p : Nat) (x : PortS) : (s.setPort p x).ide = s.ide := rfl
@[simp] theorem State.setPort_aon (s : State) (p : Nat) (x : PortS) : (s.setPort p x).aon = s.aon := rfl
@[simp] theorem State.setPort_boot (s : State) (p : Nat) (x : PortS) : (s.setPort p x).boot = s.boot := rfl
@[simp] theorem State.setPort_power (s : State) (p : Nat) (x : PortS) : (s.setPort p x).power = s.power := rfl
@[simp] theorem State.setPort_hs (s : State) (p : Nat) (x : PortS) : (s.setPort p x).hs = s.hs := rfl
@[simp] theorem State.setPort_sec (s : State) (p : Nat) (x : PortS) : (s.setPort p x).sec = s.sec := rfl
@[simp] theorem State.setPort_mgmt (s : State) (p : Nat) (x : PortS) : (s.setPort p x).mgmt = s.mgmt := rfl
@[simp] theorem State.setPort_flash (s : State) (p : Nat) (x : PortS) : (s.setPort p x).flash = s.flash := rfl
@[simp] theorem State.setPort_jtag (s : State) (p : Nat) (x : PortS) : (s.setPort p x).jtag = s.jtag := rfl
@[simp] theorem State.setPort_stopped (s : State) (p : Nat) (x : PortS) : (s.setPort p x).stopped = s.stopped := rfl
@[simp] theorem State.setPort_crossings (s : State) (p : Nat) (x : PortS) : (s.setPort p x).crossings = s.crossings := rfl
@[simp] theorem State.setPort_mmioData (s : State) (p : Nat) (x : PortS) : (s.setPort p x).mmioData = s.mmioData := rfl
@[simp] theorem State.setPort_rxStamp (s : State) (p : Nat) (x : PortS) : (s.setPort p x).rxStamp = s.rxStamp := rfl
@[simp] theorem State.setPort_cqFault (s : State) (p : Nat) (x : PortS) : (s.setPort p x).cqFault = s.cqFault := rfl
@[simp] theorem State.setPort_committed (s : State) (p : Nat) (x : PortS) : (s.setPort p x).committed = s.committed := rfl
@[simp] theorem State.setPort_fresh (s : State) (p : Nat) (x : PortS) : (s.setPort p x).fresh = s.fresh := rfl

/-! ## What `setOwner` leaves -/

@[simp] theorem State.setOwner_get (s : State) (dfn o : Nat) (r : Fld) : (s.setOwner dfn o).get r = s.get r := rfl
@[simp] theorem State.setOwner_pending (s : State) (dfn o : Nat) : (s.setOwner dfn o).pending = s.pending := rfl
@[simp] theorem State.setOwner_regs (s : State) (dfn o : Nat) : (s.setOwner dfn o).regs = s.regs := rfl
@[simp] theorem State.setOwner_time (s : State) (dfn o : Nat) : (s.setOwner dfn o).time = s.time := rfl
@[simp] theorem State.setOwner_ctx (s : State) (dfn o : Nat) : (s.setOwner dfn o).ctx = s.ctx := rfl
@[simp] theorem State.setOwner_queues (s : State) (dfn o : Nat) : (s.setOwner dfn o).queues = s.queues := rfl
@[simp] theorem State.setOwner_cores (s : State) (dfn o : Nat) : (s.setOwner dfn o).cores = s.cores := rfl
@[simp] theorem State.setOwner_carry (s : State) (dfn o : Nat) : (s.setOwner dfn o).carry = s.carry := rfl
@[simp] theorem State.setOwner_pushSeq (s : State) (dfn o : Nat) : (s.setOwner dfn o).pushSeq = s.pushSeq := rfl
@[simp] theorem State.setOwner_spotter (s : State) (dfn o : Nat) : (s.setOwner dfn o).spotter = s.spotter := rfl
@[simp] theorem State.setOwner_islSeq (s : State) (dfn o : Nat) : (s.setOwner dfn o).islSeq = s.islSeq := rfl
@[simp] theorem State.setOwner_cq (s : State) (dfn o : Nat) : (s.setOwner dfn o).cq = s.cq := rfl
@[simp] theorem State.setOwner_sn (s : State) (dfn o : Nat) : (s.setOwner dfn o).sn = s.sn := rfl
@[simp] theorem State.setOwner_job (s : State) (dfn o : Nat) : (s.setOwner dfn o).job = s.job := rfl
@[simp] theorem State.setOwner_ports (s : State) (dfn o : Nat) : (s.setOwner dfn o).ports = s.ports := rfl
@[simp] theorem State.setOwner_coll (s : State) (dfn o : Nat) : (s.setOwner dfn o).coll = s.coll := rfl
@[simp] theorem State.setOwner_issueSeq (s : State) (dfn o : Nat) : (s.setOwner dfn o).issueSeq = s.issueSeq := rfl
@[simp] theorem State.setOwner_glOut (s : State) (dfn o : Nat) : (s.setOwner dfn o).glOut = s.glOut := rfl
@[simp] theorem State.setOwner_barred (s : State) (dfn o : Nat) : (s.setOwner dfn o).barred = s.barred := rfl
@[simp] theorem State.setOwner_links (s : State) (dfn o : Nat) : (s.setOwner dfn o).links = s.links := rfl
@[simp] theorem State.setOwner_linksLost (s : State) (dfn o : Nat) : (s.setOwner dfn o).linksLost = s.linksLost := rfl
@[simp] theorem State.setOwner_relay (s : State) (dfn o : Nat) : (s.setOwner dfn o).relay = s.relay := rfl
@[simp] theorem State.setOwner_ackOwed (s : State) (dfn o : Nat) : (s.setOwner dfn o).ackOwed = s.ackOwed := rfl
@[simp] theorem State.setOwner_missedBeats (s : State) (dfn o : Nat) : (s.setOwner dfn o).missedBeats = s.missedBeats := rfl
@[simp] theorem State.setOwner_hbmSelf (s : State) (dfn o : Nat) : (s.setOwner dfn o).hbmSelf = s.hbmSelf := rfl
@[simp] theorem State.setOwner_ddrSelf (s : State) (dfn o : Nat) : (s.setOwner dfn o).ddrSelf = s.ddrSelf := rfl
@[simp] theorem State.setOwner_mem (s : State) (dfn o : Nat) : (s.setOwner dfn o).mem = s.mem := rfl
@[simp] theorem State.setOwner_host (s : State) (dfn o : Nat) : (s.setOwner dfn o).host = s.host := rfl
@[simp] theorem State.setOwner_modules (s : State) (dfn o : Nat) : (s.setOwner dfn o).modules = s.modules := rfl
@[simp] theorem State.setOwner_tlb (s : State) (dfn o : Nat) : (s.setOwner dfn o).tlb = s.tlb := rfl
@[simp] theorem State.setOwner_pageOp (s : State) (dfn o : Nat) : (s.setOwner dfn o).pageOp = s.pageOp := rfl
@[simp] theorem State.setOwner_memErrs (s : State) (dfn o : Nat) : (s.setOwner dfn o).memErrs = s.memErrs := rfl
@[simp] theorem State.setOwner_alerts (s : State) (dfn o : Nat) : (s.setOwner dfn o).alerts = s.alerts := rfl
@[simp] theorem State.setOwner_retiring (s : State) (dfn o : Nat) : (s.setOwner dfn o).retiring = s.retiring := rfl
@[simp] theorem State.setOwner_rings (s : State) (dfn o : Nat) : (s.setOwner dfn o).rings = s.rings := rfl
@[simp] theorem State.setOwner_doubler (s : State) (dfn o : Nat) : (s.setOwner dfn o).doubler = s.doubler := rfl
@[simp] theorem State.setOwner_msgs (s : State) (dfn o : Nat) : (s.setOwner dfn o).msgs = s.msgs := rfl
@[simp] theorem State.setOwner_pcie (s : State) (dfn o : Nat) : (s.setOwner dfn o).pcie = s.pcie := rfl
@[simp] theorem State.setOwner_doe (s : State) (dfn o : Nat) : (s.setOwner dfn o).doe = s.doe := rfl
@[simp] theorem State.setOwner_ide (s : State) (dfn o : Nat) : (s.setOwner dfn o).ide = s.ide := rfl
@[simp] theorem State.setOwner_aon (s : State) (dfn o : Nat) : (s.setOwner dfn o).aon = s.aon := rfl
@[simp] theorem State.setOwner_boot (s : State) (dfn o : Nat) : (s.setOwner dfn o).boot = s.boot := rfl
@[simp] theorem State.setOwner_power (s : State) (dfn o : Nat) : (s.setOwner dfn o).power = s.power := rfl
@[simp] theorem State.setOwner_hs (s : State) (dfn o : Nat) : (s.setOwner dfn o).hs = s.hs := rfl
@[simp] theorem State.setOwner_sec (s : State) (dfn o : Nat) : (s.setOwner dfn o).sec = s.sec := rfl
@[simp] theorem State.setOwner_mgmt (s : State) (dfn o : Nat) : (s.setOwner dfn o).mgmt = s.mgmt := rfl
@[simp] theorem State.setOwner_flash (s : State) (dfn o : Nat) : (s.setOwner dfn o).flash = s.flash := rfl
@[simp] theorem State.setOwner_jtag (s : State) (dfn o : Nat) : (s.setOwner dfn o).jtag = s.jtag := rfl
@[simp] theorem State.setOwner_stopped (s : State) (dfn o : Nat) : (s.setOwner dfn o).stopped = s.stopped := rfl
@[simp] theorem State.setOwner_crossings (s : State) (dfn o : Nat) : (s.setOwner dfn o).crossings = s.crossings := rfl
@[simp] theorem State.setOwner_mmioData (s : State) (dfn o : Nat) : (s.setOwner dfn o).mmioData = s.mmioData := rfl
@[simp] theorem State.setOwner_rxStamp (s : State) (dfn o : Nat) : (s.setOwner dfn o).rxStamp = s.rxStamp := rfl
@[simp] theorem State.setOwner_cqFault (s : State) (dfn o : Nat) : (s.setOwner dfn o).cqFault = s.cqFault := rfl
@[simp] theorem State.setOwner_committed (s : State) (dfn o : Nat) : (s.setOwner dfn o).committed = s.committed := rfl
@[simp] theorem State.setOwner_fresh (s : State) (dfn o : Nat) : (s.setOwner dfn o).fresh = s.fresh := rfl

/-! ## What `setMemByte` leaves -/

@[simp] theorem State.setMemByte_get (s : State) (a : Nat) (b : Byte) (r : Fld) : (s.setMemByte a b).get r = s.get r := rfl
@[simp] theorem State.setMemByte_pending (s : State) (a : Nat) (b : Byte) : (s.setMemByte a b).pending = s.pending := rfl
@[simp] theorem State.setMemByte_regs (s : State) (a : Nat) (b : Byte) : (s.setMemByte a b).regs = s.regs := rfl
@[simp] theorem State.setMemByte_time (s : State) (a : Nat) (b : Byte) : (s.setMemByte a b).time = s.time := rfl
@[simp] theorem State.setMemByte_ctx (s : State) (a : Nat) (b : Byte) : (s.setMemByte a b).ctx = s.ctx := rfl
@[simp] theorem State.setMemByte_queues (s : State) (a : Nat) (b : Byte) : (s.setMemByte a b).queues = s.queues := rfl
@[simp] theorem State.setMemByte_cores (s : State) (a : Nat) (b : Byte) : (s.setMemByte a b).cores = s.cores := rfl
@[simp] theorem State.setMemByte_carry (s : State) (a : Nat) (b : Byte) : (s.setMemByte a b).carry = s.carry := rfl
@[simp] theorem State.setMemByte_pushSeq (s : State) (a : Nat) (b : Byte) : (s.setMemByte a b).pushSeq = s.pushSeq := rfl
@[simp] theorem State.setMemByte_spotter (s : State) (a : Nat) (b : Byte) : (s.setMemByte a b).spotter = s.spotter := rfl
@[simp] theorem State.setMemByte_islSeq (s : State) (a : Nat) (b : Byte) : (s.setMemByte a b).islSeq = s.islSeq := rfl
@[simp] theorem State.setMemByte_cq (s : State) (a : Nat) (b : Byte) : (s.setMemByte a b).cq = s.cq := rfl
@[simp] theorem State.setMemByte_sn (s : State) (a : Nat) (b : Byte) : (s.setMemByte a b).sn = s.sn := rfl
@[simp] theorem State.setMemByte_job (s : State) (a : Nat) (b : Byte) : (s.setMemByte a b).job = s.job := rfl
@[simp] theorem State.setMemByte_ports (s : State) (a : Nat) (b : Byte) : (s.setMemByte a b).ports = s.ports := rfl
@[simp] theorem State.setMemByte_coll (s : State) (a : Nat) (b : Byte) : (s.setMemByte a b).coll = s.coll := rfl
@[simp] theorem State.setMemByte_issueSeq (s : State) (a : Nat) (b : Byte) : (s.setMemByte a b).issueSeq = s.issueSeq := rfl
@[simp] theorem State.setMemByte_glOut (s : State) (a : Nat) (b : Byte) : (s.setMemByte a b).glOut = s.glOut := rfl
@[simp] theorem State.setMemByte_barred (s : State) (a : Nat) (b : Byte) : (s.setMemByte a b).barred = s.barred := rfl
@[simp] theorem State.setMemByte_links (s : State) (a : Nat) (b : Byte) : (s.setMemByte a b).links = s.links := rfl
@[simp] theorem State.setMemByte_linksLost (s : State) (a : Nat) (b : Byte) : (s.setMemByte a b).linksLost = s.linksLost := rfl
@[simp] theorem State.setMemByte_relay (s : State) (a : Nat) (b : Byte) : (s.setMemByte a b).relay = s.relay := rfl
@[simp] theorem State.setMemByte_ackOwed (s : State) (a : Nat) (b : Byte) : (s.setMemByte a b).ackOwed = s.ackOwed := rfl
@[simp] theorem State.setMemByte_missedBeats (s : State) (a : Nat) (b : Byte) : (s.setMemByte a b).missedBeats = s.missedBeats := rfl
@[simp] theorem State.setMemByte_hbmSelf (s : State) (a : Nat) (b : Byte) : (s.setMemByte a b).hbmSelf = s.hbmSelf := rfl
@[simp] theorem State.setMemByte_ddrSelf (s : State) (a : Nat) (b : Byte) : (s.setMemByte a b).ddrSelf = s.ddrSelf := rfl
@[simp] theorem State.setMemByte_host (s : State) (a : Nat) (b : Byte) : (s.setMemByte a b).host = s.host := rfl
@[simp] theorem State.setMemByte_owner (s : State) (a : Nat) (b : Byte) : (s.setMemByte a b).owner = s.owner := rfl
@[simp] theorem State.setMemByte_modules (s : State) (a : Nat) (b : Byte) : (s.setMemByte a b).modules = s.modules := rfl
@[simp] theorem State.setMemByte_tlb (s : State) (a : Nat) (b : Byte) : (s.setMemByte a b).tlb = s.tlb := rfl
@[simp] theorem State.setMemByte_pageOp (s : State) (a : Nat) (b : Byte) : (s.setMemByte a b).pageOp = s.pageOp := rfl
@[simp] theorem State.setMemByte_memErrs (s : State) (a : Nat) (b : Byte) : (s.setMemByte a b).memErrs = s.memErrs := rfl
@[simp] theorem State.setMemByte_alerts (s : State) (a : Nat) (b : Byte) : (s.setMemByte a b).alerts = s.alerts := rfl
@[simp] theorem State.setMemByte_retiring (s : State) (a : Nat) (b : Byte) : (s.setMemByte a b).retiring = s.retiring := rfl
@[simp] theorem State.setMemByte_rings (s : State) (a : Nat) (b : Byte) : (s.setMemByte a b).rings = s.rings := rfl
@[simp] theorem State.setMemByte_doubler (s : State) (a : Nat) (b : Byte) : (s.setMemByte a b).doubler = s.doubler := rfl
@[simp] theorem State.setMemByte_msgs (s : State) (a : Nat) (b : Byte) : (s.setMemByte a b).msgs = s.msgs := rfl
@[simp] theorem State.setMemByte_pcie (s : State) (a : Nat) (b : Byte) : (s.setMemByte a b).pcie = s.pcie := rfl
@[simp] theorem State.setMemByte_doe (s : State) (a : Nat) (b : Byte) : (s.setMemByte a b).doe = s.doe := rfl
@[simp] theorem State.setMemByte_ide (s : State) (a : Nat) (b : Byte) : (s.setMemByte a b).ide = s.ide := rfl
@[simp] theorem State.setMemByte_aon (s : State) (a : Nat) (b : Byte) : (s.setMemByte a b).aon = s.aon := rfl
@[simp] theorem State.setMemByte_boot (s : State) (a : Nat) (b : Byte) : (s.setMemByte a b).boot = s.boot := rfl
@[simp] theorem State.setMemByte_power (s : State) (a : Nat) (b : Byte) : (s.setMemByte a b).power = s.power := rfl
@[simp] theorem State.setMemByte_hs (s : State) (a : Nat) (b : Byte) : (s.setMemByte a b).hs = s.hs := rfl
@[simp] theorem State.setMemByte_sec (s : State) (a : Nat) (b : Byte) : (s.setMemByte a b).sec = s.sec := rfl
@[simp] theorem State.setMemByte_mgmt (s : State) (a : Nat) (b : Byte) : (s.setMemByte a b).mgmt = s.mgmt := rfl
@[simp] theorem State.setMemByte_flash (s : State) (a : Nat) (b : Byte) : (s.setMemByte a b).flash = s.flash := rfl
@[simp] theorem State.setMemByte_jtag (s : State) (a : Nat) (b : Byte) : (s.setMemByte a b).jtag = s.jtag := rfl
@[simp] theorem State.setMemByte_stopped (s : State) (a : Nat) (b : Byte) : (s.setMemByte a b).stopped = s.stopped := rfl
@[simp] theorem State.setMemByte_crossings (s : State) (a : Nat) (b : Byte) : (s.setMemByte a b).crossings = s.crossings := rfl
@[simp] theorem State.setMemByte_mmioData (s : State) (a : Nat) (b : Byte) : (s.setMemByte a b).mmioData = s.mmioData := rfl
@[simp] theorem State.setMemByte_rxStamp (s : State) (a : Nat) (b : Byte) : (s.setMemByte a b).rxStamp = s.rxStamp := rfl
@[simp] theorem State.setMemByte_cqFault (s : State) (a : Nat) (b : Byte) : (s.setMemByte a b).cqFault = s.cqFault := rfl
@[simp] theorem State.setMemByte_committed (s : State) (a : Nat) (b : Byte) : (s.setMemByte a b).committed = s.committed := rfl
@[simp] theorem State.setMemByte_fresh (s : State) (a : Nat) (b : Byte) : (s.setMemByte a b).fresh = s.fresh := rfl

/-! ## What `setHostByte` leaves -/

@[simp] theorem State.setHostByte_get (s : State) (a : Nat) (b : Byte) (r : Fld) : (s.setHostByte a b).get r = s.get r := rfl
@[simp] theorem State.setHostByte_pending (s : State) (a : Nat) (b : Byte) : (s.setHostByte a b).pending = s.pending := rfl
@[simp] theorem State.setHostByte_regs (s : State) (a : Nat) (b : Byte) : (s.setHostByte a b).regs = s.regs := rfl
@[simp] theorem State.setHostByte_time (s : State) (a : Nat) (b : Byte) : (s.setHostByte a b).time = s.time := rfl
@[simp] theorem State.setHostByte_ctx (s : State) (a : Nat) (b : Byte) : (s.setHostByte a b).ctx = s.ctx := rfl
@[simp] theorem State.setHostByte_queues (s : State) (a : Nat) (b : Byte) : (s.setHostByte a b).queues = s.queues := rfl
@[simp] theorem State.setHostByte_cores (s : State) (a : Nat) (b : Byte) : (s.setHostByte a b).cores = s.cores := rfl
@[simp] theorem State.setHostByte_carry (s : State) (a : Nat) (b : Byte) : (s.setHostByte a b).carry = s.carry := rfl
@[simp] theorem State.setHostByte_pushSeq (s : State) (a : Nat) (b : Byte) : (s.setHostByte a b).pushSeq = s.pushSeq := rfl
@[simp] theorem State.setHostByte_spotter (s : State) (a : Nat) (b : Byte) : (s.setHostByte a b).spotter = s.spotter := rfl
@[simp] theorem State.setHostByte_islSeq (s : State) (a : Nat) (b : Byte) : (s.setHostByte a b).islSeq = s.islSeq := rfl
@[simp] theorem State.setHostByte_cq (s : State) (a : Nat) (b : Byte) : (s.setHostByte a b).cq = s.cq := rfl
@[simp] theorem State.setHostByte_sn (s : State) (a : Nat) (b : Byte) : (s.setHostByte a b).sn = s.sn := rfl
@[simp] theorem State.setHostByte_job (s : State) (a : Nat) (b : Byte) : (s.setHostByte a b).job = s.job := rfl
@[simp] theorem State.setHostByte_ports (s : State) (a : Nat) (b : Byte) : (s.setHostByte a b).ports = s.ports := rfl
@[simp] theorem State.setHostByte_coll (s : State) (a : Nat) (b : Byte) : (s.setHostByte a b).coll = s.coll := rfl
@[simp] theorem State.setHostByte_issueSeq (s : State) (a : Nat) (b : Byte) : (s.setHostByte a b).issueSeq = s.issueSeq := rfl
@[simp] theorem State.setHostByte_glOut (s : State) (a : Nat) (b : Byte) : (s.setHostByte a b).glOut = s.glOut := rfl
@[simp] theorem State.setHostByte_barred (s : State) (a : Nat) (b : Byte) : (s.setHostByte a b).barred = s.barred := rfl
@[simp] theorem State.setHostByte_links (s : State) (a : Nat) (b : Byte) : (s.setHostByte a b).links = s.links := rfl
@[simp] theorem State.setHostByte_linksLost (s : State) (a : Nat) (b : Byte) : (s.setHostByte a b).linksLost = s.linksLost := rfl
@[simp] theorem State.setHostByte_relay (s : State) (a : Nat) (b : Byte) : (s.setHostByte a b).relay = s.relay := rfl
@[simp] theorem State.setHostByte_ackOwed (s : State) (a : Nat) (b : Byte) : (s.setHostByte a b).ackOwed = s.ackOwed := rfl
@[simp] theorem State.setHostByte_missedBeats (s : State) (a : Nat) (b : Byte) : (s.setHostByte a b).missedBeats = s.missedBeats := rfl
@[simp] theorem State.setHostByte_hbmSelf (s : State) (a : Nat) (b : Byte) : (s.setHostByte a b).hbmSelf = s.hbmSelf := rfl
@[simp] theorem State.setHostByte_ddrSelf (s : State) (a : Nat) (b : Byte) : (s.setHostByte a b).ddrSelf = s.ddrSelf := rfl
@[simp] theorem State.setHostByte_mem (s : State) (a : Nat) (b : Byte) : (s.setHostByte a b).mem = s.mem := rfl
@[simp] theorem State.setHostByte_owner (s : State) (a : Nat) (b : Byte) : (s.setHostByte a b).owner = s.owner := rfl
@[simp] theorem State.setHostByte_modules (s : State) (a : Nat) (b : Byte) : (s.setHostByte a b).modules = s.modules := rfl
@[simp] theorem State.setHostByte_tlb (s : State) (a : Nat) (b : Byte) : (s.setHostByte a b).tlb = s.tlb := rfl
@[simp] theorem State.setHostByte_pageOp (s : State) (a : Nat) (b : Byte) : (s.setHostByte a b).pageOp = s.pageOp := rfl
@[simp] theorem State.setHostByte_memErrs (s : State) (a : Nat) (b : Byte) : (s.setHostByte a b).memErrs = s.memErrs := rfl
@[simp] theorem State.setHostByte_alerts (s : State) (a : Nat) (b : Byte) : (s.setHostByte a b).alerts = s.alerts := rfl
@[simp] theorem State.setHostByte_retiring (s : State) (a : Nat) (b : Byte) : (s.setHostByte a b).retiring = s.retiring := rfl
@[simp] theorem State.setHostByte_rings (s : State) (a : Nat) (b : Byte) : (s.setHostByte a b).rings = s.rings := rfl
@[simp] theorem State.setHostByte_doubler (s : State) (a : Nat) (b : Byte) : (s.setHostByte a b).doubler = s.doubler := rfl
@[simp] theorem State.setHostByte_msgs (s : State) (a : Nat) (b : Byte) : (s.setHostByte a b).msgs = s.msgs := rfl
@[simp] theorem State.setHostByte_pcie (s : State) (a : Nat) (b : Byte) : (s.setHostByte a b).pcie = s.pcie := rfl
@[simp] theorem State.setHostByte_doe (s : State) (a : Nat) (b : Byte) : (s.setHostByte a b).doe = s.doe := rfl
@[simp] theorem State.setHostByte_ide (s : State) (a : Nat) (b : Byte) : (s.setHostByte a b).ide = s.ide := rfl
@[simp] theorem State.setHostByte_aon (s : State) (a : Nat) (b : Byte) : (s.setHostByte a b).aon = s.aon := rfl
@[simp] theorem State.setHostByte_boot (s : State) (a : Nat) (b : Byte) : (s.setHostByte a b).boot = s.boot := rfl
@[simp] theorem State.setHostByte_power (s : State) (a : Nat) (b : Byte) : (s.setHostByte a b).power = s.power := rfl
@[simp] theorem State.setHostByte_hs (s : State) (a : Nat) (b : Byte) : (s.setHostByte a b).hs = s.hs := rfl
@[simp] theorem State.setHostByte_sec (s : State) (a : Nat) (b : Byte) : (s.setHostByte a b).sec = s.sec := rfl
@[simp] theorem State.setHostByte_mgmt (s : State) (a : Nat) (b : Byte) : (s.setHostByte a b).mgmt = s.mgmt := rfl
@[simp] theorem State.setHostByte_flash (s : State) (a : Nat) (b : Byte) : (s.setHostByte a b).flash = s.flash := rfl
@[simp] theorem State.setHostByte_jtag (s : State) (a : Nat) (b : Byte) : (s.setHostByte a b).jtag = s.jtag := rfl
@[simp] theorem State.setHostByte_stopped (s : State) (a : Nat) (b : Byte) : (s.setHostByte a b).stopped = s.stopped := rfl
@[simp] theorem State.setHostByte_crossings (s : State) (a : Nat) (b : Byte) : (s.setHostByte a b).crossings = s.crossings := rfl
@[simp] theorem State.setHostByte_mmioData (s : State) (a : Nat) (b : Byte) : (s.setHostByte a b).mmioData = s.mmioData := rfl
@[simp] theorem State.setHostByte_rxStamp (s : State) (a : Nat) (b : Byte) : (s.setHostByte a b).rxStamp = s.rxStamp := rfl
@[simp] theorem State.setHostByte_cqFault (s : State) (a : Nat) (b : Byte) : (s.setHostByte a b).cqFault = s.cqFault := rfl
@[simp] theorem State.setHostByte_committed (s : State) (a : Nat) (b : Byte) : (s.setHostByte a b).committed = s.committed := rfl
@[simp] theorem State.setHostByte_fresh (s : State) (a : Nat) (b : Byte) : (s.setHostByte a b).fresh = s.fresh := rfl

end Sys2Proof.Machine
end

