-- ==== Sys2Proof/Laws/Issue.lean ====
section
/-! SUPPORT. What the shared operations of a command's meaning answer where their conditions hold: issue, BAR0 writes, the
operand ranges. -/

namespace Sys2Proof.Machine

@[simp] theorem inUnits_true (a : Ans) : inUnits true a = a := rfl

@[simp] theorem inUnits_false (a : Ans) : inUnits false a = .fault .noSuchUnit := rfl

/-- A BAR0 write that the device takes. -/
theorem State.barWrite_open {s : State} (h : s.Open) (f : State → State) : s.barWrite f = f s := by
  simp [State.barWrite, State.hostReaches, h.1, h.2.1, h.2.2]

/-- A write that reaches the device whatever the control pairs do. -/
theorem State.hostReaches_reached {s : State} (h : s.Reached) (f : State → State) : s.hostReaches f = f s := by
  simp [State.hostReaches, h.1, h.2]

/-- A BAR0 write that the device does not take. -/
theorem State.barWrite_closed {s : State} (h : ¬ s.Open) (f : State → State) : s.barWrite f = s := by
  unfold State.barWrite State.hostReaches
  unfold State.Open at h
  cases hd : s.boot.dark <;> cases ha : s.aon.down <;> cases hp : s.pairsFailed <;> simp_all

/-- An instruction of a context that may issue is run. -/
theorem State.issue_issuable {s : State} {g c : Nat} (h : s.Issuable g c) (k : State → State) :
    s.issue g c k = .next (k s) := by
  obtain ⟨hg, hc, hm, hr⟩ := h
  obtain ⟨v, hv⟩ := Option.isSome_iff_exists.mp hr
  simp [State.issue, inUnits, hg, hc, hm, hv]

/-- A control instruction that passes its checks. -/
theorem State.issueControl_issuable {s : State} {g c : Nat} (h : s.Issuable g c) {checks : State → List (Bool × Nat)}
    (hc : firstCode (checks s) = 0) (run : State → State) : s.issueControl g c checks run = .next (run s) := by
  unfold State.issueControl
  rw [State.issue_issuable h]
  simp [hc]

/-- An engine instruction that passes its checks. -/
theorem State.issueEngine_issuable {s : State} {g c : Nat} (h : s.Issuable g c) {w : Body} {sh : Shape}
    (hc : s.engineCode g c w sh = 0) : s.issueEngine g c w sh = .next (s.enqueue g c w sh) := by
  unfold State.issueEngine
  rw [State.issue_issuable h]
  simp [hc]

/-- An engine instruction that fails a check. -/
theorem State.issueEngine_rejected {s : State} {g c : Nat} (h : s.Issuable g c) {w : Body} {sh : Shape}
    (hc : s.engineCode g c w sh ≠ 0) :
    s.issueEngine g c w sh = .next (s.rejectInstr g c (s.engineCode g c w sh)) := by
  unfold State.issueEngine
  rw [State.issue_issuable h]
  simp [hc]

/-- From s to t only registers have changed, and neither the context's `CTX_PC` nor its `QDEPTH`. -/
structure Noted (g c : Nat) (s t : State) : Prop where
  only : ∃ r, t = { s with regs := r }
  pc : t.get (Reg.CTX_PC.ADDR g c) = s.get (Reg.CTX_PC.ADDR g c)
  depth : ∀ e, t.get (qdepthFld g c e) = s.get (qdepthFld g c e)

theorem Noted.refl (g c : Nat) (s : State) : Noted g c s s := ⟨⟨s.regs, rfl⟩, rfl, fun _ => rfl⟩

/-- The offset at which the counts of a context's queues stand. -/
theorem qdepthFld_off (g c e : Nat) : (qdepthFld g c e).off = 0x1000018 + g * 0x200000 + c * 0x40000 := by
  unfold qdepthFld
  split <;> rfl

/-- A field of a queue's count lies in the low bits. -/
theorem qdepthFld_lo (g c e : Nat) : (qdepthFld g c e).lo < 64 := by
  unfold qdepthFld
  split <;> simp [Reg.QDEPTH.ARRAY, Reg.QDEPTH.STREAM, Reg.QDEPTH.LANE, Reg.QDEPTH.DMA]

/-- A queue's count has five bits. -/
theorem qdepthFld_w (g c e : Nat) : (qdepthFld g c e).w = 5 := by
  unfold qdepthFld
  split <;> rfl

/-- A write of a register of the troupe's own block, above its contexts' blocks. -/
theorem Noted.put {g c : Nat} {s t : State} (h : Noted g c s t) (hc : c < 2) (f : Fld) (v : Nat)
    (hf : 0x1080000 + g * 0x200000 ≤ f.off) : Noted g c s (t.put f v) := by
  obtain ⟨⟨r, rfl⟩, h2, h3⟩ := h
  refine ⟨⟨_, rfl⟩, ?_, ?_⟩
  · rw [State.get_put_ne, h2]
    show (0x1000008 + g * 0x200000 + c * 0x40000) * 64 + 4 ≠ f.off * 64 + f.lo
    omega
  · intro e
    rw [State.get_put_ne, h3]
    have h4 := qdepthFld_lo g c e
    unfold Fld.key
    rw [qdepthFld_off]
    omega

/-- An engine instruction that passes its checks enqueues its operation, where what its issue records is noted. -/
theorem State.enqueues {i : Instr} {s : State} {g c : Nat} {w : Body} {sh : Shape} (h : s.Issuable g c)
    (hi : exec i s = s.issueEngine g c w sh) (hc : s.engineCode g c w sh = 0)
    (hd : s.get (qdepthFld g c (engineOf sh.opc)) < 16)
    (he : ∀ q, Noted g c s (sh.effect s q).1 ∧ (sh.effect s q).2.opc = q.opc ∧ (sh.effect s q).2.word = q.word ∧
      (sh.effect s q).2.pc = q.pc ∧ (sh.effect s q).2.begun = q.begun) : Enqueues i s g c w sh := by
  obtain ⟨hn, h1, h2, h3, h4⟩ := he (s.entryOf g c w sh)
  have hn' : Noted g c s ((sh.effect s (s.entryOf g c w sh)).1.noteHireg g c sh.vregs) := by
    unfold State.noteHireg
    split
    · refine hn.put h.2.1 _ _ ?_
      show 0x1080000 + g * 0x200000 ≤ 0x1090000 + g * 0x200000 + 0 * 0x8
      omega
    · exact hn
  refine ⟨(sh.effect s (s.entryOf g c w sh)).2, s.enqueued g c w sh, ?_, ⟨h1, h2, h3, h4⟩, ?_⟩
  · rw [hi, State.issueEngine_issuable h hc]
    rfl
  · obtain ⟨⟨r, hr⟩, hp, hq⟩ := hn'
    unfold State.enqueued
    dsimp only
    generalize (sh.effect s (s.entryOf g c w sh)).1.noteHireg g c sh.vregs = t at hr hp hq ⊢
    subst hr
    have hk : (Reg.CTX_PC.ADDR g c).key ≠ (qdepthFld g c (engineOf sh.opc)).key := by
      have := qdepthFld_lo g c (engineOf sh.opc)
      unfold Fld.key
      rw [qdepthFld_off]
      show (0x1000008 + g * 0x200000 + c * 0x40000) * 64 + 4 ≠ _
      omega
    refine ⟨?_, ?_, ?_, rfl, rfl, rfl, rfl⟩
    · simp [State.advance, State.setPc, State.inc, State.queue, State.setQueue, State.put, State.setCtx]
    · simp only [State.advance, State.setPc]
      rw [State.get_put_ne _ _ _ _ hk.symm, State.setCtx_get]
      show State.get (State.inc _ _ 1) _ = _
      unfold State.inc
      rw [State.get_put_same, State.setQueue_get, hq, qdepthFld_w]
      omega
    · have hx : ∀ (a : State) (n : Nat), ({ a with issueSeq := n } : State).get (Reg.CTX_PC.ADDR g c) =
          a.get (Reg.CTX_PC.ADDR g c) := fun _ _ => rfl
      have hpc : (((({ s with regs := r } : State).setQueue g c (engineOf sh.opc)
          (({ s with regs := r } : State).queue g c (engineOf sh.opc) ++
            [(sh.effect s (s.entryOf g c w sh)).2])).inc (qdepthFld g c (engineOf sh.opc)) 1).get
              (Reg.CTX_PC.ADDR g c)) = s.get (Reg.CTX_PC.ADDR g c) := by
        unfold State.inc
        rw [State.get_put_ne _ _ _ _ hk, State.setQueue_get, hp]
      unfold State.advance State.setPc
      dsimp only
      unfold State.pc
      rw [State.get_put_same, hx, hpc]
      rfl

end Sys2Proof.Machine
end

