-- ==== Sys2Proof/Laws/Kept.lean ====
section
/-! SUPPORT. What every operation of the model keeps: the queue of waiting commands, and the canonical form of the
memories and of the register table. One lemma for each primitive write; the lemmas of the operations built from them
stand in the files KeptA and on. -/

namespace Sys2Proof.Machine

/-- From s to t the queue of waiting commands is the same, and what was canonical stays canonical. -/
structure Kept (s t : State) : Prop where
  pending : t.pending = s.pending
  canon : s.Canonical → t.Canonical

/-- Nothing happens. -/
theorem Kept.refl (s : State) : Kept s s := ⟨rfl, id⟩

/-- One thing after another. -/
theorem Kept.trans {s t u : State} (h : Kept s t) (k : Kept t u) : Kept s u :=
  ⟨k.pending.trans h.pending, k.canon ∘ h.canon⟩

/-- A change that leaves the queue, the memories and the registers. -/
theorem Kept.upd {r s : State} (h : Kept r s)
    (time : TimeS) (ctx : Tab CtxS) (queues : Tab (List QEntry)) (cores : Tab CoreS) (carry : Tab (List CarryRec))
    (pushSeq : Tab Nat) (spotter : Tab Nat) (islSeq : Tab Nat) (cq : Tab CqS) (sn : Tab SnS) (job : Tab JobS) (ports
    : Tab PortS) (coll : Tab CollS) (issueSeq : Nat) (glOut : Tab Nat) (barred : List Nat) (links : Tab Nat)
    (linksLost : List Nat) (relay : Tab (Nat × Nat)) (ackOwed : Tab Nat) (missedBeats : Tab Nat) (hbmSelf : Bool)
    (ddrSelf : Bool) (modules : Tab Nat) (tlb : Tab Nat) (pageOp : Option PageOp) (memErrs : List (Nat × Nat × Nat))
    (alerts : Tab Nat) (retiring : List Nat) (rings : Tab RingS) (doubler : Tab (Option Nat)) (msgs : List
    Nat) (pcie : PcieS) (doe : Tab DoeS) (ide : Tab IdeS) (aon : AonS) (boot : BootS) (power : PowerS) (hs : HsS)
    (sec : SecS) (mgmt : MgmtS) (jtag : JtagInstr) (stopped : List Nat) (crossings : Tab (List XWord)) (mmioData : Nat)
    (rxStamp : Nat) (cqFault : Option (Nat × Nat × Nat)) (committed : Bool) (fresh : Nat) :
    Kept r (State.mk s.pending s.regs time ctx queues cores carry pushSeq spotter islSeq cq sn job ports coll
      issueSeq glOut barred links linksLost relay ackOwed missedBeats hbmSelf ddrSelf s.mem s.host s.owner
      modules tlb pageOp memErrs alerts retiring rings doubler msgs pcie doe ide aon boot power hs sec mgmt
      s.flash jtag stopped crossings mmioData rxStamp cqFault committed fresh) :=
  h.trans ⟨rfl, fun c => c⟩

/-- A fold of steps that each keep. -/
theorem Kept.foldl {α : Type} {s : State} (f : State → α → State) (l : List α) (t : State) (h : Kept s t)
    (hf : ∀ t a, Kept s t → Kept s (f t a)) : Kept s (l.foldl f t) := by
  induction l generalizing t with
  | nil => exact h
  | cons a l ih => exact ih (f t a) (hf t a h)

/-- Either branch. -/
theorem Kept.ite {s t u : State} {c : Prop} [Decidable c] (h : Kept s t) (k : Kept s u) :
    Kept s (if c then t else u) := by split <;> assumption

/-- A fold over pairs of which each step keeps the first part. -/
theorem Kept.foldlP {α β : Type} {s : State} (f : State × β → α → State × β) (l : List α) (t : State × β)
    (h : Kept s t.1) (hf : ∀ t a, Kept s t.1 → Kept s (f t a).1) : Kept s (l.foldl f t).1 := by
  induction l generalizing t with
  | nil => exact h
  | cons a l ih => exact ih (f t a) (hf t a h)

/-- The first part of a pair that an operation gave. -/
theorem Kept.fst {α : Type} {r s : State} {x : State × α} {b : α} (h : Kept r x.1) (e : x = (s, b)) : Kept r s := by
  rw [e] at h
  exact h

/-- A pair named by an equation. -/
theorem Kept.fstOf {α : Type} {r : State} {x y : State × α} (h : Kept r x.1) (e : x = y) : Kept r y.1 := by
  rw [← e]
  exact h

/-- An operation that may fail, with the state before it where it does. -/
theorem Kept.getD {r s : State} {o : Option State} (h : Kept r s) (ho : ∀ t, o = some t → Kept r t) :
    Kept r (o.getD s) := by
  cases o with
  | none => exact h
  | some t => exact ho t rfl

/-- A computation that may fail has a property of its result where it does not fail. -/
structure Yields {α : Type} (x : Run α) (p : α → Prop) : Prop where
  get : ∀ a, x = .ok a → p a

/-- What follows a computation that may fail. -/
theorem Kept.either {α β : Type} {r : State} {x : Run α} {f : Nat × Nat → State × β} {g : α → State × β}
    (hf : ∀ e, Kept r (f e).1) (hg : ∀ a, x = .ok a → Kept r (g a).1) : Kept r (Run.either x f g).1 := by
  cases x with
  | error e => exact hf e
  | ok a => exact hg a rfl

/-- The result that a computation is known to give. -/
theorem Yields.out {r s : State} {x : Run State} (h : Yields x (Kept r)) (e : x = .ok s) : Kept r s := h.get s e

/-- The state of the result that a computation is known to give. -/
theorem Yields.outP {α : Type} {r s : State} {b : α} {x : Run (State × α)} (h : Yields x (fun a => Kept r a.1))
    (e : x = .ok (s, b)) : Kept r s := h.get (s, b) e

/-- Any computation. -/
theorem Yields.any {α : Type} {x : Run α} : Yields x (fun _ => True) := ⟨fun _ _ => trivial⟩

/-- A result. -/
theorem Yields.ok {α : Type} {a : α} {p : α → Prop} (h : p a) : Yields (.ok a) p := by
  constructor
  intro b e
  cases e
  exact h

/-- A result. -/
theorem Yields.ret {α : Type} {a : α} {p : α → Prop} (h : p a) : Yields (pure a) p := Yields.ok h

/-- A failure. -/
theorem Yields.err {α : Type} {e : Nat × Nat} {p : α → Prop} : Yields (.error e) p := by
  constructor
  intro b h
  cases h

/-- One computation after another. -/
theorem Yields.bind {α β : Type} {x : Run α} {f : α → Run β} {p : β → Prop} (q : α → Prop) (h : Yields x q)
    (k : ∀ a, q a → Yields (f a) p) : Yields (x >>= f) p := by
  constructor
  intro b e
  cases x with
  | error _ => cases e
  | ok a => exact (k a (h.get a rfl)).get b e

/-- Either branch. -/
theorem Yields.ite {α : Type} {x y : Run α} {p : α → Prop} {c : Prop} [Decidable c] (h : Yields x p) (k : Yields y p) :
    Yields (if c then x else y) p := by split <;> assumption

/-- A fold. -/
theorem Yields.foldlM {α β : Type} {p : β → Prop} (f : β → α → Run β) (l : List α) (b : β) (h : p b)
    (hf : ∀ b a, p b → Yields (f b a) p) : Yields (l.foldlM f b) p := by
  induction l generalizing b with
  | nil => exact Yields.ret h
  | cons a l ih => exact Yields.bind p (hf b a h) (fun c hc => ih c hc)

/-- Where a command answers a next state, everything that an operation keeps is kept. -/
structure Goes (r : State) (a : Ans) : Prop where
  get : ∀ t, a = .next t → Kept r t

/-- A next state. -/
theorem Goes.next {r s : State} (h : Kept r s) : Goes r (.next s) := by
  constructor
  intro t e
  cases e
  exact h

/-- A fault. -/
theorem Goes.fault {r : State} {f : Fault} : Goes r (.fault f) := by
  constructor
  intro t e
  cases e

/-- A condition on the command's operands. -/
theorem Goes.inUnits {r : State} {ok : Bool} {a : Ans} (h : Goes r a) : Goes r (inUnits ok a) := by
  cases ok with
  | false => exact Goes.fault
  | true => exact h

/-- Either branch. -/
theorem Goes.ite {r : State} {a b : Ans} {c : Prop} [Decidable c] (h : Goes r a) (k : Goes r b) :
    Goes r (if c then a else b) := by split <;> assumption

end Sys2Proof.Machine
end

