-- ==== Sys2Proof/Laws/KeptOps.lean ====
section
/-! SUPPORT. What each operation of the model keeps (Ops, Ports, Events, Flags, Operands). -/

namespace Sys2Proof.Machine

theorem State.put_kept {r0 : State} (s : State) (f : Fld) (v : Nat) (h : Kept r0 s) : Kept r0 (State.put s f v) :=
  h.trans ⟨rfl, fun c => ⟨c.1, c.2.1, c.2.2.1, c.2.2.2.1, by
    have := c.2.2.2.2
    rw [Tab.rising_iff] at *
    exact Tab.set_rising _ _ _ _ this⟩⟩

theorem State.inc_kept {r0 : State} (s : State) (f : Fld) (n : Nat) (hK : Kept r0 s) :
    Kept r0 (State.inc s f n) := by
  unfold State.inc
  try dsimp only
  repeat' (first | (with_reducible assumption) | (with_reducible apply State.put_kept))

theorem State.incSat_kept {r0 : State} (s : State) (f : Fld) (n : Nat) (hK : Kept r0 s) :
    Kept r0 (State.incSat s f n) := by
  unfold State.incSat
  try dsimp only
  repeat' (first | (with_reducible assumption) | (with_reducible apply State.put_kept))

theorem State.clearRegs_kept {r0 : State} (s : State) (off bytes : Nat) (h : Kept r0 s) :
    Kept r0 (State.clearRegs s off bytes) :=
  h.trans ⟨rfl, fun c => ⟨c.1, c.2.1, c.2.2.1, c.2.2.2.1, Tab.filter_rising _ _ c.2.2.2.2⟩⟩

theorem State.clearFld_kept {r0 : State} (s : State) (f : Fld) (hK : Kept r0 s) :
    Kept r0 (State.clearFld s f) := by
  unfold State.clearFld
  try dsimp only
  repeat' (first | (with_reducible assumption) | (with_reducible apply State.put_kept))

theorem State.setCtx_kept {r0 : State} (s : State) (g c : Nat) (x : CtxS) (hK : Kept r0 s) :
    Kept r0 (State.setCtx s g c x) := by
  unfold State.setCtx
  try dsimp only
  repeat' (first | (with_reducible assumption) | (fail_if_no_progress (with_reducible apply Kept.upd)))

theorem State.setCore_kept {r0 : State} (s : State) (g cx : Nat) (x : CoreS) (hK : Kept r0 s) :
    Kept r0 (State.setCore s g cx x) := by
  unfold State.setCore
  try dsimp only
  repeat' (first | (with_reducible assumption) | (fail_if_no_progress (with_reducible apply Kept.upd)))

theorem State.setQueue_kept {r0 : State} (s : State) (g c e : Nat) (q : List QEntry) (hK : Kept r0 s) :
    Kept r0 (State.setQueue s g c e q) := by
  unfold State.setQueue
  try dsimp only
  repeat' (first | (with_reducible assumption) | (fail_if_no_progress (with_reducible apply Kept.upd)))

theorem State.setSn_kept {r0 : State} (s : State) (j : Nat) (x : SnS) (hK : Kept r0 s) :
    Kept r0 (State.setSn s j x) := by
  unfold State.setSn
  try dsimp only
  repeat' (first | (with_reducible assumption) | (fail_if_no_progress (with_reducible apply Kept.upd)))

theorem State.setRing_kept {r0 : State} (s : State) (g c : Nat) (r : List CarryRec) (hK : Kept r0 s) :
    Kept r0 (State.setRing s g c r) := by
  unfold State.setRing
  try dsimp only
  repeat' (first
      | (with_reducible assumption) | (with_reducible apply State.put_kept)
      | (fail_if_no_progress (with_reducible apply Kept.upd)))

theorem State.bumpFree_kept {r0 : State} (s : State) (hK : Kept r0 s) :
    Kept r0 (State.bumpFree s) := by
  unfold State.bumpFree
  try dsimp only
  repeat' (first | (with_reducible assumption) | (fail_if_no_progress (with_reducible apply Kept.upd)))

theorem State.setOwner_kept {r0 : State} (s : State) (dfn o : Nat) (h : Kept r0 s) : Kept r0 (State.setOwner s dfn o) :=
  h.trans ⟨rfl, fun c => ⟨c.1, c.2.1, c.2.2.1, Tab.set_wf _ _ _ _ c.2.2.2.1, c.2.2.2.2⟩⟩

theorem State.setMemByte_kept {r0 : State} (s : State) (a : Nat) (b : Byte) (h : Kept r0 s) :
    Kept r0 (State.setMemByte s a b) :=
  h.trans ⟨rfl, fun c => ⟨Tab.set_wf _ _ _ _ c.1, c.2⟩⟩

theorem State.setMemBytes_kept {r0 : State} (s : State) (a : Nat) (x0 : List Byte) (hK : Kept r0 s) :
    Kept r0 (State.setMemBytes s a x0) := by
  induction x0 generalizing s a with
  | nil =>
    unfold State.setMemBytes
    exact hK
  | cons a l ih =>
    unfold State.setMemBytes
    try dsimp only
    repeat' (first
        | (with_reducible assumption) | (with_reducible apply ih) | (with_reducible apply State.setMemByte_kept))

theorem State.setMemNat_kept {r0 : State} (s : State) (a n v : Nat) (hK : Kept r0 s) :
    Kept r0 (State.setMemNat s a n v) := by
  unfold State.setMemNat
  try dsimp only
  repeat' (first | (with_reducible assumption) | (with_reducible apply State.setMemBytes_kept))

theorem State.countMem_kept {r0 : State} (s : State) (a n : Nat) (write : Bool) (hK : Kept r0 s) :
    Kept r0 (State.countMem s a n write) := by
  unfold State.countMem
  try dsimp only
  repeat' (first
      | (with_reducible assumption) | (with_reducible apply State.inc_kept) | (with_reducible apply Kept.ite))

theorem State.copyMem_kept {r0 : State} (s : State) (src dst n : Nat) (h : Kept r0 s) :
    Kept r0 (State.copyMem s src dst n) :=
  State.countMem_kept _ _ _ _ (State.countMem_kept _ _ _ _
    (h.trans ⟨rfl, fun c => ⟨Tab.putSlice_wf _ _ _ _ _ c.1, c.2⟩⟩))

theorem State.zeroFrame_kept {r0 : State} (s : State) (dfn : Nat) (h : Kept r0 s) : Kept r0 (State.zeroFrame s dfn) :=
  State.countMem_kept _ _ _ _ (h.trans ⟨rfl, fun c => ⟨Tab.filter_wf _ _ _ c.1, c.2⟩⟩)

theorem State.setPte_kept {r0 : State} (s : State) (j vpn : Nat) (p : Pte) (hK : Kept r0 s) :
    Kept r0 (State.setPte s j vpn p) := by
  unfold State.setPte
  try dsimp only
  repeat' (first
      | (with_reducible assumption) | (with_reducible apply State.setMemNat_kept)
      | (with_reducible apply State.countMem_kept) | (split))

theorem State.copyGranules_kept {r0 : State} (s : State) (src dst set : Nat) (hK : Kept r0 s) :
    Kept r0 (State.copyGranules s src dst set) := by
  unfold State.copyGranules
  try dsimp only
  repeat' (first
      | (with_reducible assumption) | (with_reducible apply State.copyMem_kept) | (with_reducible apply Kept.ite)
      | (with_reducible refine Kept.foldl _ _ _ ?_ (fun t a ht => ?_)))

theorem State.writeLog_kept {r0 : State} (s : State) (j half i vpn : Nat) (hK : Kept r0 s) :
    Kept r0 (State.writeLog s j half i vpn) := by
  unfold State.writeLog
  try dsimp only
  repeat' (first
      | (with_reducible assumption) | (with_reducible apply State.setMemNat_kept)
      | (with_reducible apply State.countMem_kept) | (with_reducible apply Kept.ite))

theorem State.logFill_kept {r0 : State} (s : State) (j vpn : Nat) (hK : Kept r0 s) :
    Kept r0 (State.logFill s j vpn) := by
  unfold State.logFill
  try dsimp only
  repeat' (first
      | (with_reducible assumption) | (with_reducible apply State.writeLog_kept)
      | (with_reducible apply State.setSn_kept) | (with_reducible apply State.put_kept)
      | (with_reducible apply Kept.ite))

theorem State.logDrain_kept {r0 : State} (s : State) (j vpn : Nat) (hK : Kept r0 s) :
    Kept r0 (State.logDrain s j vpn) := by
  unfold State.logDrain
  try dsimp only
  repeat' (first
      | (with_reducible assumption) | (with_reducible apply State.writeLog_kept)
      | (with_reducible apply State.setSn_kept) | (with_reducible apply State.put_kept)
      | (with_reducible apply Kept.ite))

theorem State.noteMigration_kept {r0 : State} (s : State) (j vpn g : Nat) (hK : Kept r0 s) :
    Kept r0 (State.noteMigration s j vpn g) := by
  unfold State.noteMigration
  try dsimp only
  repeat' (first | (with_reducible assumption) | (fail_if_no_progress (with_reducible apply Kept.upd)) | (split))

theorem State.noteCopied_kept {r0 : State} (s : State) (j vpn set : Nat) (hK : Kept r0 s) :
    Kept r0 (State.noteCopied s j vpn set) := by
  unfold State.noteCopied
  try dsimp only
  repeat' (first
      | (with_reducible assumption) | (with_reducible apply State.noteMigration_kept)
      | (with_reducible apply Kept.ite) | (with_reducible refine Kept.foldl _ _ _ ?_ (fun t a ht => ?_)))

theorem State.firstTouch_kept {r0 : State} (s : State) (j vpn g : Nat) (hK : Kept r0 s) :
    Kept r0 (State.firstTouch s j vpn g) := by
  unfold State.firstTouch
  try dsimp only
  repeat' (first
      | (with_reducible assumption) | (with_reducible apply State.put_kept) | (with_reducible apply State.inc_kept)
      | (with_reducible apply State.setPte_kept) | (with_reducible apply State.logFill_kept)
      | (with_reducible apply State.copyGranules_kept) | (with_reducible apply State.noteCopied_kept) | (split))

theorem State.devWrite_kept {r0 : State} (s : State) (j va : Nat) (b : Byte) (hK : Kept r0 s) :
    ∀ u, State.devWrite s j va b = some u → Kept r0 u := by
  intro u hu
  unfold State.devWrite at hu
  split at hu
  · cases hu
  · dsimp only at hu
    split at hu
    · cases hu
    · cases hu
      exact State.setMemByte_kept _ _ _ (State.noteMigration_kept _ _ _ _ (State.firstTouch_kept _ _ _ _ hK))

theorem State.countAccess_kept {r0 : State} (s : State) (r j va n : Nat) (hK : Kept r0 s) :
    Kept r0 (State.countAccess s r j va n) := by
  unfold State.countAccess
  try dsimp only
  repeat' (first | (with_reducible assumption) | (fail_if_no_progress (with_reducible apply Kept.upd)))

theorem State.addUnits_kept {r0 : State} (s : State) (j vpn n : Nat) (hK : Kept r0 s) :
    Kept r0 (State.addUnits s j vpn n) := by
  unfold State.addUnits
  try dsimp only
  repeat' (first | (with_reducible assumption) | (with_reducible apply State.setPte_kept) | (split))

theorem State.flushAccess_kept {r0 : State} (s : State) (j : Nat) (hK : Kept r0 s) :
    Kept r0 (State.flushAccess s j) := by
  unfold State.flushAccess
  try dsimp only
  repeat' (first
      | (with_reducible assumption) | (with_reducible apply State.addUnits_kept)
      | (with_reducible refine Kept.foldl _ _ _ ?_ (fun t a ht => ?_))
      | (fail_if_no_progress (with_reducible apply Kept.upd)))

theorem State.setHostByte_kept {r0 : State} (s : State) (a : Nat) (b : Byte) (h : Kept r0 s) :
    Kept r0 (State.setHostByte s a b) :=
  h.trans ⟨rfl, fun c => ⟨c.1, Tab.set_wf _ _ _ _ c.2.1, c.2.2⟩⟩

theorem State.setHostBytes_kept {r0 : State} (s : State) (a : Nat) (x0 : List Byte) (hK : Kept r0 s) :
    Kept r0 (State.setHostBytes s a x0) := by
  induction x0 generalizing s a with
  | nil =>
    unfold State.setHostBytes
    exact hK
  | cons a l ih =>
    unfold State.setHostBytes
    try dsimp only
    repeat' (first
        | (with_reducible assumption) | (with_reducible apply ih) | (with_reducible apply State.setHostByte_kept))

theorem State.setSpByte_kept {r0 : State} (s : State) (g cx a : Nat) (b : Byte) (hK : Kept r0 s) :
    Kept r0 (State.setSpByte s g cx a b) := by
  unfold State.setSpByte
  try dsimp only
  repeat' (first | (with_reducible assumption) | (with_reducible apply State.setCore_kept))

theorem State.setSpBytes_kept {r0 : State} (s : State) (g cx a : Nat) (x0 : List Byte) (hK : Kept r0 s) :
    Kept r0 (State.setSpBytes s g cx a x0) := by
  induction x0 generalizing s g cx a with
  | nil =>
    unfold State.setSpBytes
    exact hK
  | cons a l ih =>
    unfold State.setSpBytes
    try dsimp only
    repeat' (first
        | (with_reducible assumption) | (with_reducible apply ih) | (with_reducible apply State.setSpByte_kept))

theorem State.setPort_kept {r0 : State} (s : State) (p : Nat) (x : PortS) (hK : Kept r0 s) :
    Kept r0 (State.setPort s p x) := by
  unfold State.setPort
  try dsimp only
  repeat' (first | (with_reducible assumption) | (fail_if_no_progress (with_reducible apply Kept.upd)))

theorem State.sendFlit_kept {r0 : State} (s : State) (p : Nat) (f : Flit) (hK : Kept r0 s) :
    Kept r0 (State.sendFlit s p f) := by
  unfold State.sendFlit
  try dsimp only
  repeat' (first
      | (with_reducible assumption) | (with_reducible apply State.setPort_kept)
      | (with_reducible apply State.inc_kept))

theorem State.sendMac_kept {r0 : State} (s : State) (p : Nat) (hK : Kept r0 s) :
    Kept r0 (State.sendMac s p) := by
  unfold State.sendMac
  try dsimp only
  repeat' (first
      | (with_reducible assumption) | (with_reducible apply State.setPort_kept)
      | (with_reducible apply State.sendFlit_kept) | (with_reducible apply State.put_kept)
      | (with_reducible apply Kept.ite))

theorem State.sendData_kept {r0 : State} (s : State) (p : Nat) (f : Flit) (hK : Kept r0 s) :
    Kept r0 (State.sendData s p f) := by
  unfold State.sendData
  try dsimp only
  repeat' (first
      | (with_reducible assumption) | (with_reducible apply State.setPort_kept)
      | (with_reducible apply State.sendFlit_kept) | (with_reducible apply State.inc_kept)
      | (with_reducible apply Kept.ite))

theorem State.pumpPort_kept {r0 : State} (s : State) (p : Nat) (x0 : Nat) (hK : Kept r0 s) :
    Kept r0 (State.pumpPort s p x0) := by
  induction x0 generalizing s p with
  | zero =>
    unfold State.pumpPort
    exact hK
  | succ n ih =>
    unfold State.pumpPort
    try dsimp only
    repeat' (first
        | (with_reducible assumption) | (with_reducible apply ih) | (with_reducible apply State.setPort_kept)
        | (with_reducible apply State.sendData_kept) | (with_reducible apply State.sendMac_kept) | (split))

theorem State.pumpOut_kept {r0 : State} (s : State) (p : Nat) (hK : Kept r0 s) :
    Kept r0 (State.pumpOut s p) := by
  unfold State.pumpOut
  try dsimp only
  repeat' (first | (with_reducible assumption) | (with_reducible apply State.pumpPort_kept))

theorem State.sendOn_kept {r0 : State} (s : State) (p : Nat) (k : Packet) (hK : Kept r0 s) :
    Kept r0 (State.sendOn s p k) := by
  unfold State.sendOn
  try dsimp only
  repeat' (first
      | (with_reducible assumption) | (with_reducible apply State.setPort_kept)
      | (with_reducible apply State.pumpOut_kept))

theorem State.sendPacket_kept {r0 : State} (s : State) (k : Packet) (hK : Kept r0 s) :
    ∀ u, State.sendPacket s k = some u → Kept r0 u := by
  intro u hu
  unfold State.sendPacket at hu
  dsimp only at hu
  rw [Option.map_eq_some_iff] at hu
  obtain ⟨p, -, rfl⟩ := hu
  exact State.sendOn_kept _ _ _ hK

theorem State.forward_kept {r0 : State} (s : State) (p : Nat) (k : Packet) (hK : Kept r0 s) :
    Kept r0 (State.forward s p k) := by
  unfold State.forward
  try dsimp only
  repeat' (first
      | (with_reducible assumption) | (with_reducible apply State.inc_kept)
      | (with_reducible apply State.sendOn_kept) | (split))

theorem State.arrive_kept {r0 : State} (s : State) (p : Nat) (k : Packet) (deliver : State → State) (hK : Kept r0 s)
    (hdeliver : ∀ c0, Kept r0 c0 → Kept r0 (deliver c0)) :
    Kept r0 (State.arrive s p k deliver) := by
  unfold State.arrive
  try dsimp only
  repeat' (first
      | (with_reducible assumption) | (with_reducible apply hdeliver) | (with_reducible apply State.forward_kept)
      | (with_reducible apply Kept.ite) | (fail_if_no_progress (with_reducible apply Kept.upd)))

theorem State.sendTo_kept {r0 : State} (s : State) (q : Nat) (k : Packet) (hK : Kept r0 s) :
    Kept r0 (State.sendTo s q k) := by
  unfold State.sendTo
  try dsimp only
  repeat' (first | (with_reducible assumption) | (with_reducible apply State.sendOn_kept) | (split))

theorem State.sendDown_kept {r0 : State} (s : State) (group gen kind body : Nat) (hK : Kept r0 s) :
    Kept r0 (State.sendDown s group gen kind body) := by
  unfold State.sendDown
  try dsimp only
  repeat' (first
      | (with_reducible assumption) | (with_reducible apply State.sendTo_kept)
      | (with_reducible refine Kept.foldl _ _ _ ?_ (fun t a ht => ?_)))

theorem State.sendUp_kept {r0 : State} (s : State) (group gen kind body : Nat) (hK : Kept r0 s) :
    Kept r0 (State.sendUp s group gen kind body) := by
  unfold State.sendUp
  try dsimp only
  repeat' (first | (with_reducible assumption) | (with_reducible apply State.sendTo_kept) | (split))

theorem State.setCq_kept {r0 : State} (s : State) (q : Nat) (x : CqS) (hK : Kept r0 s) :
    Kept r0 (State.setCq s q x) := by
  unfold State.setCq
  try dsimp only
  repeat' (first | (with_reducible assumption) | (fail_if_no_progress (with_reducible apply Kept.upd)))

theorem State.noteBack_kept {r0 : State} (s : State) (q : Nat) (write : Bool) (p : Nat) (hK : Kept r0 s) :
    Kept r0 (State.noteBack s q write p) := by
  unfold State.noteBack
  try dsimp only
  repeat' (first
      | (with_reducible assumption) | (with_reducible apply State.countMem_kept)
      | (fail_if_no_progress (with_reducible apply Kept.upd)) | (split))

theorem State.setCqBackByte_kept {r0 : State} (s : State) (q p : Nat) (b : Byte) (hK : Kept r0 s) :
    Kept r0 (State.setCqBackByte s q p b) := by
  unfold State.setCqBackByte
  try dsimp only
  repeat' (first
      | (with_reducible assumption) | (with_reducible apply State.noteBack_kept)
      | (with_reducible apply State.setMemByte_kept) | (with_reducible refine State.devWrite_kept _ _ _ _ ?_)
      | (with_reducible refine Kept.getD ?_ ?_) | (split))

theorem State.setCqByte_kept {r0 : State} (s : State) (q p : Nat) (b : Byte) (hK : Kept r0 s) :
    Kept r0 (State.setCqByte s q p b) := by
  unfold State.setCqByte
  try dsimp only
  repeat' (first
      | (with_reducible assumption) | (with_reducible apply State.setCqBackByte_kept)
      | (with_reducible apply State.setCq_kept) | (with_reducible apply Kept.ite))

theorem State.cqFlushFrom_kept {r0 : State} (s : State) (q p0 : Nat) (hK : Kept r0 s) :
    Kept r0 (State.cqFlushFrom s q p0) := by
  unfold State.cqFlushFrom
  try dsimp only
  repeat' (first
      | (with_reducible assumption) | (with_reducible apply State.setCqBackByte_kept)
      | (with_reducible apply State.setCq_kept) | (with_reducible apply Kept.ite)
      | (with_reducible refine Kept.foldl _ _ _ ?_ (fun t a ht => ?_)))

theorem State.cqFlush_kept {r0 : State} (s : State) (q : Nat) (hK : Kept r0 s) :
    Kept r0 (State.cqFlush s q) := by
  unfold State.cqFlush
  try dsimp only
  repeat' (first | (with_reducible assumption) | (with_reducible apply State.cqFlushFrom_kept))

theorem State.cqSpillBurst_kept {r0 : State} (s : State) (q : Nat) (hK : Kept r0 s) :
    Kept r0 (State.cqSpillBurst s q) := by
  unfold State.cqSpillBurst
  try dsimp only
  repeat' (first
      | (with_reducible assumption) | (with_reducible apply State.setCqBackByte_kept)
      | (with_reducible apply State.setCq_kept) | (with_reducible apply Kept.ite)
      | (with_reducible refine Kept.foldl _ _ _ ?_ (fun t a ht => ?_)))

theorem State.cqFill_kept {r0 : State} (s : State) (q : Nat) (hK : Kept r0 s) :
    Kept r0 (State.cqFill s q) := by
  unfold State.cqFill
  try dsimp only
  repeat' (first
      | (with_reducible assumption) | (with_reducible apply State.noteBack_kept)
      | (with_reducible apply State.setCq_kept) | (with_reducible apply Kept.ite)
      | (with_reducible refine Kept.foldl _ _ _ ?_ (fun t a ht => ?_)))

theorem State.cqMakeRoom_kept {r0 : State} (s : State) (q : Nat) (hK : Kept r0 s) :
    Kept r0 (State.cqMakeRoom s q) := by
  unfold State.cqMakeRoom
  try dsimp only
  repeat' (first
      | (with_reducible assumption) | (with_reducible apply State.cqFill_kept)
      | (with_reducible apply State.cqSpillBurst_kept) | (with_reducible apply Kept.ite))

theorem State.cqAppend_kept {r0 : State} (s : State) (q : Nat) (x0 : List Byte) (hK : Kept r0 s) :
    Kept r0 (State.cqAppend s q x0) := by
  induction x0 generalizing s q with
  | nil =>
    unfold State.cqAppend
    exact hK
  | cons a l ih =>
    unfold State.cqAppend
    try dsimp only
    repeat' (first
        | (with_reducible assumption) | (with_reducible apply ih) | (with_reducible apply State.cqMakeRoom_kept)
        | (with_reducible apply State.put_kept) | (with_reducible apply State.setCq_kept))

theorem State.cqAdvance_kept {r0 : State} (s : State) (q n : Nat) (hK : Kept r0 s) :
    Kept r0 (State.cqAdvance s q n) := by
  unfold State.cqAdvance
  try dsimp only
  repeat' (first
      | (with_reducible assumption) | (with_reducible apply State.setCq_kept)
      | (with_reducible apply State.put_kept))

theorem State.cqPopOne_kept {r0 : State} (s : State) (q : Nat) (hK : Kept r0 s) :
    Kept r0 (State.cqPopOne s q) := by
  unfold State.cqPopOne
  try dsimp only
  repeat' (first
      | (with_reducible assumption) | (with_reducible apply State.cqAdvance_kept) | (with_reducible apply Kept.ite))

theorem State.cqReset_kept {r0 : State} (s : State) (q : Nat) (hK : Kept r0 s) :
    Kept r0 (State.cqReset s q) := by
  unfold State.cqReset
  try dsimp only
  repeat' (first
      | (with_reducible assumption) | (with_reducible apply State.setCq_kept)
      | (with_reducible apply State.put_kept))

theorem State.sendVector_kept {r0 : State} (s : State) (v : Nat) (hK : Kept r0 s) :
    Kept r0 (State.sendVector s v) := by
  unfold State.sendVector
  try dsimp only
  repeat' (first
      | (with_reducible assumption) | (with_reducible apply State.put_kept) | (with_reducible apply Kept.ite)
      | (fail_if_no_progress (with_reducible apply Kept.upd)))

theorem State.setEvent_kept {r0 : State} (s : State) (f : Fld) (v : Nat) (hK : Kept r0 s) :
    Kept r0 (State.setEvent s f v) := by
  unfold State.setEvent
  try dsimp only
  repeat' (first
      | (with_reducible assumption) | (with_reducible apply State.put_kept)
      | (with_reducible apply State.sendVector_kept) | (with_reducible apply Kept.ite))

theorem State.cqDropFull_kept {r0 : State} (s : State) (q : Nat) (hK : Kept r0 s) :
    Kept r0 (State.cqDropFull s q) := by
  unfold State.cqDropFull
  try dsimp only
  repeat' (first
      | (with_reducible assumption) | (with_reducible apply State.incSat_kept)
      | (with_reducible apply State.put_kept) | (with_reducible apply State.setEvent_kept)
      | (with_reducible apply Kept.ite))

theorem State.cqPush_kept {r0 : State} (s : State) (q tag : Nat) (data : List Byte) (hK : Kept r0 s) :
    Kept r0 (State.cqPush s q tag data) := by
  unfold State.cqPush
  try dsimp only
  repeat' (first
      | (with_reducible assumption) | (with_reducible apply State.incSat_kept)
      | (with_reducible apply State.setCq_kept) | (with_reducible apply State.cqDropFull_kept)
      | (with_reducible apply State.cqAppend_kept) | (with_reducible apply Kept.ite))

theorem State.cqAdmitWaiting_kept {r0 : State} (s : State) (q : Nat) (hK : Kept r0 s) :
    Kept r0 (State.cqAdmitWaiting s q) := by
  unfold State.cqAdmitWaiting
  try dsimp only
  repeat' (first
      | (with_reducible assumption) | (with_reducible apply State.cqPush_kept)
      | (with_reducible apply State.setCq_kept) | (with_reducible refine Kept.foldl _ _ _ ?_ (fun t a ht => ?_)))

theorem State.trace_kept {r0 : State} (s : State) (island event : Nat) (job : Option Nat) (payload : Nat) (hK : Kept
    r0 s) :
    Kept r0 (State.trace s island event job payload) := by
  unfold State.trace
  try dsimp only
  repeat' (first
      | (with_reducible assumption) | (with_reducible apply State.cqPush_kept)
      | (fail_if_no_progress (with_reducible apply Kept.upd)))

theorem State.addJobFlag_kept {r0 : State} (s : State) (j idx n src island : Nat) (hK : Kept r0 s) :
    Kept r0 (State.addJobFlag s j idx n src island) := by
  unfold State.addJobFlag
  try dsimp only
  repeat' (first
      | (with_reducible assumption) | (with_reducible apply State.put_kept)
      | (with_reducible apply State.trace_kept) | (with_reducible apply Kept.ite))

theorem State.corrected_kept {r0 : State} (s : State) (island event payload : Nat) (hK : Kept r0 s) :
    Kept r0 (State.corrected s island event payload) := by
  unfold State.corrected
  try dsimp only
  repeat' (first
      | (with_reducible assumption) | (with_reducible apply State.trace_kept)
      | (with_reducible apply State.inc_kept) | (with_reducible apply State.setEvent_kept)
      | (with_reducible apply Kept.ite))

theorem State.countErr_kept {r0 : State} (s : State) (code : Nat) (hK : Kept r0 s) :
    Kept r0 (State.countErr s code) := by
  unfold State.countErr
  try dsimp only
  repeat' (first | (with_reducible assumption) | (with_reducible apply State.inc_kept))

theorem State.reject_kept {r0 : State} (s : State) (code off : Nat) (job : Option Nat) (hK : Kept r0 s) :
    Kept r0 (State.reject s code off job) := by
  unfold State.reject
  try dsimp only
  repeat' (first
      | (with_reducible assumption) | (with_reducible apply State.countErr_kept)
      | (with_reducible apply State.trace_kept) | (with_reducible apply State.incSat_kept) | (split))

theorem State.hostReaches_kept {r0 : State} (s : State) (f : State → State) (hK : Kept r0 s) (hf : ∀ c0, Kept r0 c0
    → Kept r0 (f c0)) :
    Kept r0 (State.hostReaches s f) := by
  unfold State.hostReaches
  try dsimp only
  repeat' (first | (with_reducible assumption) | (with_reducible apply hf) | (with_reducible apply Kept.ite))

theorem State.barWrite_kept {r0 : State} (s : State) (f : State → State) (hK : Kept r0 s) (hf : ∀ c0, Kept r0 c0 →
    Kept r0 (f c0)) :
    Kept r0 (State.barWrite s f) := by
  unfold State.barWrite
  try dsimp only
  repeat' (first
      | (with_reducible assumption) | (with_reducible apply State.hostReaches_kept)
      | (with_reducible apply Kept.ite))

theorem State.unblock_kept {r0 : State} (s : State) (g c : Nat) (hK : Kept r0 s) :
    Kept r0 (State.unblock s g c) := by
  unfold State.unblock
  try dsimp only
  repeat' (first
      | (with_reducible assumption) | (with_reducible apply State.setCtx_kept)
      | (with_reducible apply State.put_kept))

theorem State.setRingNum_kept {r0 : State} (s : State) (q : Nat) (r : RingS) (hK : Kept r0 s) :
    Kept r0 (State.setRingNum s q r) := by
  unfold State.setRingNum
  try dsimp only
  repeat' (first | (with_reducible assumption) | (fail_if_no_progress (with_reducible apply Kept.upd)))

theorem State.ringDone_kept {r0 : State} (s : State) (q idx code result : Nat) (hK : Kept r0 s) :
    Kept r0 (State.ringDone s q idx code result) := by
  unfold State.ringDone
  try dsimp only
  repeat' (first
      | (with_reducible assumption) | (with_reducible apply State.setRingNum_kept) | (with_reducible apply Kept.ite))

theorem State.pldmEvent_kept {r0 : State} (s : State) (kind : Nat) (hK : Kept r0 s) :
    Kept r0 (State.pldmEvent s kind) := by
  unfold State.pldmEvent
  try dsimp only
  repeat' (first | (with_reducible assumption) | (fail_if_no_progress (with_reducible apply Kept.upd)))

theorem State.recordFault_kept {r0 : State} (s : State) (e : ErrAt) (charged : Option Nat) (hK : Kept r0 s) :
    Kept r0 (State.recordFault s e charged) := by
  unfold State.recordFault
  try dsimp only
  repeat' (first | (with_reducible assumption) | (with_reducible apply State.put_kept))

theorem State.noteDevice_kept {r0 : State} (s : State) (e : ErrAt) (charged : Option Nat) (hK : Kept r0 s) :
    Kept r0 (State.noteDevice s e charged) := by
  unfold State.noteDevice
  try dsimp only
  repeat' (first
      | (with_reducible assumption) | (with_reducible apply State.recordFault_kept)
      | (with_reducible apply State.setEvent_kept) | (with_reducible apply State.pldmEvent_kept)
      | (with_reducible apply State.put_kept) | (split))

theorem State.noteErr_kept {r0 : State} (s : State) (e : ErrAt) (hK : Kept r0 s) :
    Kept r0 (State.noteErr s e) := by
  unfold State.noteErr
  try dsimp only
  repeat' (first
      | (with_reducible assumption) | (with_reducible apply State.countErr_kept)
      | (with_reducible apply State.trace_kept) | (with_reducible apply State.put_kept)
      | (with_reducible apply State.incSat_kept) | (with_reducible apply State.noteDevice_kept) | (split))

theorem State.coreNote_kept {r0 : State} (s : State) (g c cx eng code pc payload : Nat) (hK : Kept r0 s) :
    Kept r0 (State.coreNote s g c cx eng code pc payload) := by
  unfold State.coreNote
  try dsimp only
  repeat' (first | (with_reducible assumption) | (with_reducible apply State.noteErr_kept))

theorem State.flagPut_kept {r0 : State} (s : State) (g c f v : Nat) (hK : Kept r0 s) :
    Kept r0 (State.flagPut s g c f v) := by
  unfold State.flagPut
  try dsimp only
  repeat' (first
      | (with_reducible assumption) | (with_reducible apply State.put_kept) | (with_reducible apply Kept.ite))

theorem State.addFlag_kept {r0 : State} (s : State) (g c f n : Nat) (hK : Kept r0 s) :
    Kept r0 (State.addFlag s g c f n) := by
  unfold State.addFlag
  try dsimp only
  repeat' (first
      | (with_reducible assumption) | (with_reducible apply State.put_kept)
      | (with_reducible apply State.addJobFlag_kept) | (split))

theorem State.setPc_kept {r0 : State} (s : State) (g c a : Nat) (hK : Kept r0 s) :
    Kept r0 (State.setPc s g c a) := by
  unfold State.setPc
  try dsimp only
  repeat' (first | (with_reducible assumption) | (with_reducible apply State.put_kept))

theorem State.advance_kept {r0 : State} (s : State) (g c : Nat) (hK : Kept r0 s) :
    Kept r0 (State.advance s g c) := by
  unfold State.advance
  try dsimp only
  repeat' (first
      | (with_reducible assumption) | (with_reducible apply State.setCtx_kept)
      | (with_reducible apply State.setPc_kept))

theorem State.wake_kept {r0 : State} (s : State) (g c : Nat) (hK : Kept r0 s) :
    Kept r0 (State.wake s g c) := by
  unfold State.wake
  try dsimp only
  repeat' (first
      | (with_reducible assumption) | (with_reducible apply State.unblock_kept)
      | (with_reducible apply State.put_kept) | (with_reducible apply State.advance_kept))

theorem State.serveFlag_kept {r0 : State} (s : State) (g c f : Nat) (x0 : Nat) (hK : Kept r0 s) :
    Kept r0 (State.serveFlag s g c f x0) := by
  induction x0 generalizing s g c f with
  | zero =>
    unfold State.serveFlag
    exact hK
  | succ n ih =>
    unfold State.serveFlag
    try dsimp only
    repeat' (first
        | (with_reducible assumption) | (with_reducible apply ih) | (with_reducible apply State.flagPut_kept)
        | (with_reducible apply State.wake_kept) | (split))

theorem State.signalFlag_kept {r0 : State} (s : State) (g c f n : Nat) (hK : Kept r0 s) :
    Kept r0 (State.signalFlag s g c f n) := by
  unfold State.signalFlag
  try dsimp only
  repeat' (first
      | (with_reducible assumption) | (with_reducible apply State.addFlag_kept)
      | (with_reducible apply State.serveFlag_kept) | (with_reducible apply Kept.ite))

theorem State.spaceWrite_kept {r0 : State} (s : State) (x : At) (space base : Nat) (a : Int) (b : Byte)
    (hK : Kept r0 s) : Yields (State.spaceWrite s x space base a b) (Kept r0) := by
  unfold State.spaceWrite
  split
  · split
    · next t e =>
      apply Yields.ok
      split at e
      · exact State.devWrite_kept s x.j _ b hK t e
      · cases e
    · exact Yields.err
  · exact Yields.ok (State.setSpByte_kept _ _ _ _ _ hK)
  · exact Yields.ok (State.setSpByte_kept _ _ _ _ _ hK)
  · exact Yields.ok (State.setHostByte_kept _ _ _ hK)

theorem State.setSpaceNat_kept {r0 : State} (s : State) (x : At) (o : Opnd) (a : Int) (v : Nat) (x0 : Nat) (hK :
    Kept r0 s) :
    Yields (State.setSpaceNat s x o a v x0) (Kept r0) := by
  induction x0 generalizing s x o a v with
  | zero =>
    unfold State.setSpaceNat
    exact Yields.ok hK
  | succ n ih =>
    unfold State.setSpaceNat
    try dsimp only
    repeat' (first
        | (with_reducible assumption) | (with_reducible apply ih) | (with_reducible apply State.spaceWrite_kept)
        | (with_reducible refine Yields.bind (Kept r0) ?_ ?_) | (intro _))

theorem State.writeCode_kept {r0 : State} (s : State) (x : At) (o : Opnd) (t : List Nat) (code : Nat) (hK : Kept r0
    s) :
    Yields (State.writeCode s x o t code) (Kept r0) := by
  unfold State.writeCode
  try dsimp only
  repeat' (first
      | (with_reducible assumption) | (with_reducible apply State.setSpaceNat_kept)
      | (with_reducible apply Yields.ite) | (with_reducible refine Yields.bind _ Yields.any ?_) | (intro _))

theorem State.spotInc_kept {r0 : State} (s : State) (j cls slot w : Nat) (hK : Kept r0 s) :
    Kept r0 (State.spotInc s j cls slot w) := by
  unfold State.spotInc
  try dsimp only
  repeat' (first | (with_reducible assumption) | (fail_if_no_progress (with_reducible apply Kept.upd)))

theorem State.spotCount_kept {r0 : State} (s : State) (j tag : Nat) (f : Fmt) (r : Conv) (hK : Kept r0 s) :
    Kept r0 (State.spotCount s j tag f r) := by
  unfold State.spotCount
  try dsimp only
  repeat' (first | (with_reducible assumption) | (with_reducible apply State.spotInc_kept) | (split))

theorem State.watchNF_kept {r0 : State} (s : State) (j tag : Nat) (bad : Bool) (hK : Kept r0 s) :
    Kept r0 (State.watchNF s j tag bad) := by
  unfold State.watchNF
  try dsimp only
  repeat' (first
      | (with_reducible assumption) | (with_reducible apply State.put_kept) | (with_reducible apply Kept.ite))

theorem State.convert_kept {r0 : State} (s : State) (wr : Writer) (f : Fmt) (idx : Int) (v : Num) (hK : Kept r0 s) :
    Kept r0 (State.convert s wr f idx v).1 := by
  unfold State.convert
  try dsimp only
  repeat' (first
      | (with_reducible assumption) | (with_reducible apply State.inc_kept)
      | (with_reducible apply State.watchNF_kept) | (with_reducible apply State.spotCount_kept)
      | (with_reducible apply Kept.ite))

theorem State.writeVal_kept {r0 : State} (s : State) (x : At) (o : Opnd) (wr : Writer) (t : List Nat) (v : Num) (hK
    : Kept r0 s) :
    Yields (State.writeVal s x o wr t v) (Kept r0) := by
  unfold State.writeVal
  try dsimp only
  repeat' (first
      | (with_reducible assumption) | (with_reducible apply State.convert_kept)
      | (with_reducible apply State.writeCode_kept))

theorem State.writeBlockMasked_kept {r0 : State} (s : State) (x : At) (o : Opnd) (wr : Writer) (vs : List (List Nat
    × Num × Bool)) (hK : Kept r0 s) :
    Yields (State.writeBlockMasked s x o wr vs) (Kept r0) := by
  unfold State.writeBlockMasked
  try dsimp only
  repeat' (first
      | (with_reducible assumption) | (with_reducible apply State.convert_kept)
      | (with_reducible apply State.writeCode_kept) | (with_reducible apply State.setSpaceNat_kept)
      | (with_reducible apply Yields.ret) | (with_reducible refine Yields.bind (Kept r0) ?_ ?_)
      | (with_reducible refine Yields.foldlM _ _ _ ?_ ?_) | (intro _) | (split))

theorem State.writeBlock_kept {r0 : State} (s : State) (x : At) (o : Opnd) (wr : Writer) (vs : List (List Nat ×
    Num)) (hK : Kept r0 s) :
    Yields (State.writeBlock s x o wr vs) (Kept r0) := by
  unfold State.writeBlock
  try dsimp only
  repeat' (first | (with_reducible assumption) | (with_reducible apply State.writeBlockMasked_kept))

theorem State.writeTile_kept {r0 : State} (s : State) (x : At) (o : Opnd) (wr : Writer) (vs : List (List Nat × Num))
    (hK : Kept r0 s) :
    Yields (State.writeTile s x o wr vs) (Kept r0) := by
  unfold State.writeTile
  try dsimp only
  repeat' (first
      | (with_reducible assumption) | (with_reducible apply State.writeBlock_kept)
      | (with_reducible apply State.writeVal_kept) | (with_reducible apply Yields.ite)
      | (with_reducible refine Yields.foldlM _ _ _ ?_ ?_) | (intro _))

theorem State.writePads_kept {r0 : State} (s : State) (x : At) (o : Opnd) (wr : Writer) (ts : List (List Nat)) (hK :
    Kept r0 s) :
    Yields (State.writePads s x o wr ts) (Kept r0) := by
  unfold State.writePads
  try dsimp only
  repeat' (first
      | (with_reducible assumption) | (with_reducible apply State.writeCode_kept)
      | (with_reducible refine Yields.foldlM _ _ _ ?_ ?_) | (intro _))

theorem runList_kept {r0 : State} {α : Type} (f : State → α → Run State) (s : State) (l : List α) (hK : Kept r0 s)
    (hf : ∀ t a, Kept r0 t → Yields (f t a) (Kept r0)) : Kept r0 (runList f s l).1 := by
  induction l generalizing s with
  | nil => exact hK
  | cons a l ih =>
    unfold runList
    split
    · next t e => exact ih t ((hf s a hK).get t e)
    · exact hK

end Sys2Proof.Machine
end

