-- ==== Sys2Proof/Laws/KeptEngine.lean ====
section
/-! SUPPORT. What each operation of the model keeps (Array, Vector, Link, Dma, Matrix, Lanes, Engine, Stop, Issue). -/

namespace Sys2Proof.Machine

theorem State.accSet_kept {r0 : State} (s : State) (g cx t r j : Nat) (b : BitVec 64) (hK : Kept r0 s) :
    Kept r0 (State.accSet s g cx t r j b) := by
  unfold State.accSet
  try dsimp only
  repeat' (first | (with_reducible assumption) | (with_reducible apply State.setCore_kept))

theorem State.accZero_kept {r0 : State} (s : State) (g cx t : Nat) (hK : Kept r0 s) :
    Kept r0 (State.accZero s g cx t) := by
  unfold State.accZero
  try dsimp only
  repeat' (first | (with_reducible assumption) | (with_reducible apply State.setCore_kept))

theorem State.accUnspec_kept {r0 : State} (s : State) (g cx t : Nat) (hK : Kept r0 s) :
    Kept r0 (State.accUnspec s g cx t) := by
  unfold State.accUnspec
  try dsimp only
  repeat' (first
      | (with_reducible assumption) | (with_reducible apply State.bumpFree_kept)
      | (with_reducible apply State.setCore_kept))

theorem State.setTileE_kept {r0 : State} (s : State) (g cx t : Nat) (e : Int) (hK : Kept r0 s) :
    Kept r0 (State.setTileE s g cx t e) := by
  unfold State.setTileE
  try dsimp only
  repeat' (first | (with_reducible assumption) | (with_reducible apply State.put_kept))

theorem State.vanish_kept {r0 : State} (s : State) (g cx t n : Nat) (hK : Kept r0 s) :
    Kept r0 (State.vanish s g cx t n) := by
  unfold State.vanish
  try dsimp only
  repeat' (first
      | (with_reducible assumption) | (with_reducible apply State.incSat_kept)
      | (with_reducible apply State.inc_kept))

theorem State.accShift_kept {r0 : State} (s : State) (g cx t n : Nat) (hK : Kept r0 s) :
    Kept r0 (State.accShift s g cx t n) := by
  unfold State.accShift
  try dsimp only
  repeat' (first
      | (with_reducible assumption) | (with_reducible apply State.accSet_kept)
      | (with_reducible apply State.vanish_kept) | (with_reducible refine Kept.foldl _ _ _ ?_ (fun t a ht => ?_))
      | (split))

theorem State.loadWeights_kept {r0 : State} (s : State) (x : At) (t : WTile) (hK : Kept r0 s) :
    Kept r0 (State.loadWeights s x t) := by
  unfold State.loadWeights
  try dsimp only
  repeat' (first | (with_reducible assumption) | (with_reducible apply State.setCore_kept))

theorem State.changeBank_kept {r0 : State} (s : State) (x : At) (hK : Kept r0 s) :
    Kept r0 (State.changeBank s x) := by
  unfold State.changeBank
  try dsimp only
  repeat' (first
      | (with_reducible assumption) | (with_reducible apply State.setCore_kept) | (with_reducible apply Kept.ite))

theorem State.addRow_kept {r0 : State} (s : State) (p : Step) (g cx t r : Nat) (hK : Kept r0 s) :
    ∀ u, State.addRow s p g cx t r = .ok u → Kept r0 u := by
  intro u hu
  unfold State.addRow at hu
  dsimp only at hu
  split at hu
  · cases hu
  · cases hu
    refine Kept.foldl _ _ _ hK (fun t a ht => ?_)
    apply Kept.ite
    · exact Kept.ite (State.accSet_kept _ _ _ _ _ _ _ ht) (State.vanish_kept _ _ _ _ _ (State.accSet_kept _ _ _ _ _ _ _ ht))
    · apply State.inc_kept
      exact Kept.ite (State.accSet_kept _ _ _ _ _ _ _ ht) (State.vanish_kept _ _ _ _ _ (State.accSet_kept _ _ _ _ _ _ _ ht))

theorem State.maxRow_kept {r0 : State} (s : State) (p : Step) (mn nanp : Bool) (g cx t t1 r kBase : Nat)
    (hK : Kept r0 s) : ∀ u, State.maxRow s p mn nanp g cx t t1 r kBase = .ok u → Kept r0 u := by
  intro u hu
  unfold State.maxRow at hu
  dsimp only at hu
  split at hu
  · cases hu
  · cases hu
    refine Kept.foldl _ _ _ hK (fun t a ht => ?_)
    apply Kept.ite
    · apply Kept.ite
      · apply State.vanish_kept
        apply State.accSet_kept
        apply State.accSet_kept
        exact Kept.ite ht (State.inc_kept _ _ _ ht)
      · apply State.accSet_kept
        apply State.accSet_kept
        exact Kept.ite ht (State.inc_kept _ _ _ ht)
    · exact Kept.ite ht (State.inc_kept _ _ _ ht)

theorem State.startSelect_kept {r0 : State} (s : State) (mn : Bool) (g cx t t1 : Nat) (hK : Kept r0 s) :
    Kept r0 (State.startSelect s mn g cx t t1) := by
  unfold State.startSelect
  try dsimp only
  repeat' (first
      | (with_reducible assumption) | (with_reducible apply State.accZero_kept)
      | (with_reducible apply State.setTileE_kept) | (with_reducible apply State.put_kept)
      | (with_reducible apply State.accSet_kept) | (with_reducible refine Kept.foldl _ _ _ ?_ (fun t a ht => ?_)))

theorem State.placeWindow_kept {r0 : State} (s : State) (newwin : Bool) (h g cx t : Nat) (p : Option Int)
    (hK : Kept r0 s) : ∀ u, State.placeWindow s newwin h g cx t p = some u → Kept r0 u := by
  intro u hu
  unfold State.placeWindow at hu
  dsimp only at hu
  split at hu
  · split at hu
    · cases hu
    · cases hu
      exact State.put_kept _ _ _ (State.put_kept _ _ _ (State.setTileE_kept _ _ _ _ _ hK))
  · split at hu
    · split at hu
      · cases hu
      · cases hu
        with_reducible apply State.put_kept
        with_reducible apply Kept.ite
        · with_reducible apply State.inc_kept
          with_reducible apply State.setTileE_kept
          with_reducible apply State.accShift_kept
          exact hK
        · exact hK
    · cases hu
      exact hK
  · cases hu
    exact hK

theorem State.tileClear_kept {r0 : State} (s : State) (g cx t : Nat) (hK : Kept r0 s) :
    Kept r0 (State.tileClear s g cx t) := by
  unfold State.tileClear
  try dsimp only
  repeat' (first
      | (with_reducible assumption) | (with_reducible apply State.accZero_kept)
      | (with_reducible apply State.put_kept) | (with_reducible apply State.setTileE_kept))

theorem State.tilePreload_kept {r0 : State} (s : State) (x : At) (o : Opnd) (bcast : Bool) (cx t : Nat) (hK : Kept
    r0 s) :
    Yields (State.tilePreload s x o bcast cx t) (Kept r0) := by
  unfold State.tilePreload
  try dsimp only
  repeat' (first
      | (with_reducible assumption) | (with_reducible apply State.inc_kept)
      | (with_reducible apply State.accZero_kept) | (with_reducible apply State.put_kept)
      | (with_reducible apply State.setTileE_kept) | (with_reducible apply State.accSet_kept)
      | (with_reducible apply State.vanish_kept) | (with_reducible apply Yields.ret)
      | (with_reducible refine Yields.bind _ Yields.any ?_)
      | (with_reducible refine Kept.foldl _ _ _ ?_ (fun t a ht => ?_)) | (intro _) | (split))

theorem State.tileDrain_kept {r0 : State} (s : State) (x : At) (o : Opnd) (wr : Writer) (cx t : Nat) (hK : Kept r0
    s) :
    Yields (State.tileDrain s x o wr cx t) (Kept r0) := by
  unfold State.tileDrain
  try dsimp only
  repeat' (first
      | (with_reducible assumption) | (with_reducible apply State.writeTile_kept)
      | (with_reducible apply State.writePads_kept) | (with_reducible refine Yields.bind (Kept r0) ?_ ?_)
      | (intro _))

theorem State.setLaneRaw_kept {r0 : State} (s : State) (g cx r k : Nat) (b : BitVec 32) (hK : Kept r0 s) :
    Kept r0 (State.setLaneRaw s g cx r k b) := by
  unfold State.setLaneRaw
  try dsimp only
  repeat' (first | (with_reducible assumption) | (with_reducible apply State.setCore_kept))

theorem State.setLane_kept {r0 : State} (s : State) (x : At) (v k n : Nat) (hK : Kept r0 s) :
    Kept r0 (State.setLane s x v k n) := by
  unfold State.setLane
  try dsimp only
  repeat' (first | (with_reducible assumption) | (with_reducible apply State.setLaneRaw_kept))

theorem State.setElems_kept {r0 : State} (s : State) (x : At) (h : Bool) (v : Nat) (es : List Num) (hK : Kept r0 s) :
    Kept r0 (State.setElems s x h v es) := by
  unfold State.setElems
  try dsimp only
  repeat' (first
      | (with_reducible assumption) | (with_reducible apply State.setLane_kept) | (with_reducible apply Kept.ite)
      | (with_reducible refine Kept.foldl _ _ _ ?_ (fun t a ht => ?_)))

theorem State.setLane0_kept {r0 : State} (s : State) (x : At) (v n : Nat) (hK : Kept r0 s) :
    Kept r0 (State.setLane0 s x v n) := by
  unfold State.setLane0
  try dsimp only
  repeat' (first
      | (with_reducible assumption) | (with_reducible apply State.setLane_kept)
      | (with_reducible refine Kept.foldl _ _ _ ?_ (fun t a ht => ?_)))

theorem State.setCarryReg_kept {r0 : State} (s : State) (x : At) (valid : Bool) (kind v : Nat) (hK : Kept r0 s) :
    Kept r0 (State.setCarryReg s x valid kind v) := by
  unfold State.setCarryReg
  try dsimp only
  repeat' (first
      | (with_reducible assumption) | (with_reducible apply State.setCore_kept)
      | (with_reducible apply State.put_kept) | (with_reducible apply Kept.ite))

theorem State.setTable_kept {r0 : State} (s : State) (g cx slot bank : Nat) (img : List Byte) (hK : Kept r0 s) :
    Kept r0 (State.setTable s g cx slot bank img) := by
  unfold State.setTable
  try dsimp only
  repeat' (first | (with_reducible assumption) | (with_reducible apply State.setCore_kept))

theorem State.setJobS_kept {r0 : State} (s : State) (j : Nat) (x : JobS) (hK : Kept r0 s) :
    Kept r0 (State.setJobS s j x) := by
  unfold State.setJobS
  try dsimp only
  repeat' (first | (with_reducible assumption) | (fail_if_no_progress (with_reducible apply Kept.upd)))

theorem State.owe_kept {r0 : State} (s : State) (j x : Nat) (l : List Bool) (hK : Kept r0 s) :
    Kept r0 (State.owe s j x l) := by
  unfold State.owe
  try dsimp only
  repeat' (first | (with_reducible assumption) | (with_reducible apply State.setJobS_kept))

theorem State.cqClosed_kept {r0 : State} (s : State) (q len : Nat) (hK : Kept r0 s) :
    Kept r0 (State.cqClosed s q len) := by
  unfold State.cqClosed
  try dsimp only
  repeat' (first
      | (with_reducible assumption) | (with_reducible apply State.cqFlushFrom_kept)
      | (with_reducible apply State.setJobS_kept) | (with_reducible apply State.owe_kept) | (split))

theorem State.cqOffer_kept {r0 : State} (s : State) (q tag : Nat) (data : List Byte) (hK : Kept r0 s) :
    Kept r0 (State.cqOffer s q tag data).1 := by
  unfold State.cqOffer
  try dsimp only
  repeat' (first
      | (with_reducible assumption) | (with_reducible apply State.incSat_kept)
      | (with_reducible apply State.cqDropFull_kept) | (with_reducible apply State.cqAppend_kept)
      | (with_reducible apply State.put_kept) | (with_reducible apply State.cqClosed_kept) | (split))

theorem State.countTraffic_kept {r0 : State} (s : State) (x : At) (space : Nat) (bytes : List Int) (write : Bool)
    (hK : Kept r0 s) :
    Kept r0 (State.countTraffic s x space bytes write) := by
  unfold State.countTraffic
  try dsimp only
  repeat' (first
      | (with_reducible assumption) | (with_reducible apply State.countMem_kept)
      | (with_reducible apply State.countAccess_kept)
      | (with_reducible refine Kept.foldl _ _ _ ?_ (fun t a ht => ?_)) | (split))

theorem State.moveBits_kept {r0 : State} (s : State) (x : At) (wr : Writer) (m : Mv) (hK : Kept r0 s) :
    Yields (State.moveBits s x wr m) (Kept r0) := by
  unfold State.moveBits
  try dsimp only
  repeat' (first
      | (with_reducible assumption) | (with_reducible apply State.watchNF_kept)
      | (with_reducible apply State.writeCode_kept) | (with_reducible refine Yields.bind _ Yields.any ?_)
      | (intro _))

theorem State.moveAtomic_kept {r0 : State} (s : State) (x : At) (wr : Writer) (m : Mv) (hK : Kept r0 s) :
    Yields (State.moveAtomic s x wr m) (Kept r0) := by
  unfold State.moveAtomic
  try dsimp only
  repeat' (first
      | (with_reducible assumption) | (with_reducible apply State.convert_kept)
      | (with_reducible apply State.writeCode_kept) | (with_reducible apply State.inc_kept)
      | (with_reducible apply State.watchNF_kept) | (with_reducible apply Yields.ite)
      | (with_reducible refine Yields.bind _ Yields.any ?_) | (with_reducible apply Kept.ite) | (intro _))

theorem State.moveOne_kept {r0 : State} (s : State) (x : At) (wr : Writer) (raw : Bool) (m : Mv) (hK : Kept r0 s) :
    Yields (State.moveOne s x wr raw m) (Kept r0) := by
  unfold State.moveOne
  try dsimp only
  repeat' (first
      | (with_reducible assumption) | (with_reducible apply State.moveAtomic_kept)
      | (with_reducible apply State.moveBits_kept) | (with_reducible apply State.writeVal_kept)
      | (with_reducible apply State.writeCode_kept) | (with_reducible apply Yields.ite)
      | (with_reducible apply Yields.ok) | (with_reducible refine Yields.bind _ Yields.any ?_) | (intro _))

theorem State.moveBlock_kept {r0 : State} (s : State) (x : At) (wr : Writer) (ms : List Mv) (hK : Kept r0 s) :
    Yields (State.moveBlock s x wr ms) (Kept r0) := by
  unfold State.moveBlock
  try dsimp only
  repeat' (first
      | (with_reducible assumption) | (with_reducible apply State.writeCode_kept)
      | (with_reducible apply State.setSpaceNat_kept) | (with_reducible apply State.writeBlock_kept)
      | (with_reducible apply State.writePads_kept) | (with_reducible apply Yields.ok)
      | (with_reducible apply Yields.ret) | (with_reducible refine Yields.bind (Kept r0) ?_ ?_)
      | (with_reducible refine Yields.bind _ Yields.any ?_) | (with_reducible refine Yields.foldlM _ _ _ ?_ ?_)
      | (intro _) | (split))

theorem State.runMoves_kept {r0 : State} (s : State) (x : At) (wr : Writer) (raw : Bool) (tile : List (List Nat))
    (ms : List Mv) (hK : Kept r0 s) :
    Yields (State.runMoves s x wr raw tile ms) (Kept r0) := by
  unfold State.runMoves
  try dsimp only
  repeat' (first
      | (with_reducible assumption) | (with_reducible apply State.countTraffic_kept)
      | (with_reducible apply State.moveBlock_kept) | (with_reducible apply State.moveOne_kept)
      | (with_reducible apply State.inc_kept) | (with_reducible apply Yields.ret)
      | (with_reducible apply Yields.err) | (with_reducible refine Yields.bind (Kept r0) ?_ ?_)
      | (with_reducible refine Yields.bind _ Yields.any ?_) | (with_reducible refine Yields.foldlM _ _ _ ?_ ?_)
      | (intro _) | (split))

theorem State.moves_kept {r0 : State} (s : State) (x : At) (wr : Writer) (raw : Bool) (tile : List (List Nat)) (ms :
    List Mv) (hK : Kept r0 s) :
    Yields (State.moves s x wr raw tile ms) (Kept r0) := by
  unfold State.moves
  try dsimp only
  repeat' (first
      | (with_reducible assumption) | (with_reducible apply State.runMoves_kept) | (with_reducible apply Yields.ite)
      | (with_reducible apply Yields.ok))

theorem State.iterDmv_kept {r0 : State} (s : State) (x : At) (q : QEntry) (i : Nat) (hK : Kept r0 s) :
    Yields (State.iterDmv s x q i) (Kept r0) := by
  unfold State.iterDmv
  try dsimp only
  repeat' (first
      | (with_reducible assumption) | (with_reducible apply State.moves_kept)
      | (with_reducible refine Yields.bind _ Yields.any ?_) | (intro _))

theorem State.iterDtr_kept {r0 : State} (s : State) (x : At) (q : QEntry) (i : Nat) (hK : Kept r0 s) :
    Yields (State.iterDtr s x q i) (Kept r0) := by
  unfold State.iterDtr
  try dsimp only
  repeat' (first
      | (with_reducible assumption) | (with_reducible apply State.moves_kept)
      | (with_reducible apply State.writeCode_kept) | (with_reducible apply Yields.ite)
      | (with_reducible refine Yields.bind (Kept r0) ?_ ?_) | (with_reducible refine Yields.bind _ Yields.any ?_)
      | (with_reducible refine Yields.foldlM _ _ _ ?_ ?_) | (intro _))

theorem State.countIndex_kept {r0 : State} (s : State) (x : At) (o2 : Opnd) (ns : List Nat) (skipped : Nat) (hK :
    Kept r0 s) :
    Kept r0 (State.countIndex s x o2 ns skipped) := by
  unfold State.countIndex
  try dsimp only
  repeat' (first
      | (with_reducible assumption) | (with_reducible apply State.countTraffic_kept)
      | (with_reducible apply State.inc_kept))

theorem State.iterDgat_kept {r0 : State} (s : State) (x : At) (q : QEntry) (i : Nat) (hK : Kept r0 s) :
    Yields (State.iterDgat s x q i) (Kept r0) := by
  unfold State.iterDgat
  try dsimp only
  repeat' (first
      | (with_reducible assumption) | (with_reducible apply State.countIndex_kept)
      | (with_reducible apply State.moves_kept) | (with_reducible refine Yields.bind _ Yields.any ?_) | (intro _))

theorem State.iterDsct_kept {r0 : State} (s : State) (x : At) (q : QEntry) (i : Nat) (hK : Kept r0 s) :
    Yields (State.iterDsct s x q i) (Kept r0) := by
  unfold State.iterDsct
  try dsimp only
  repeat' (first
      | (with_reducible assumption) | (with_reducible apply State.countIndex_kept)
      | (with_reducible apply State.moves_kept) | (with_reducible apply Yields.ret)
      | (with_reducible refine Yields.bind _ Yields.any ?_) | (with_reducible refine Yields.foldlM _ _ _ ?_ ?_)
      | (intro _) | (split))

theorem State.iterDfill_kept {r0 : State} (s : State) (x : At) (q : QEntry) (i : Nat) (hK : Kept r0 s) :
    Yields (State.iterDfill s x q i) (Kept r0) := by
  unfold State.iterDfill
  try dsimp only
  repeat' (first
      | (with_reducible assumption) | (with_reducible apply State.watchNF_kept)
      | (with_reducible apply State.writeCode_kept) | (with_reducible apply State.setSpaceNat_kept)
      | (with_reducible apply State.writePads_kept) | (with_reducible apply State.countTraffic_kept)
      | (with_reducible apply State.inc_kept) | (with_reducible apply Yields.ite)
      | (with_reducible apply Yields.ret) | (with_reducible apply Yields.err)
      | (with_reducible refine Yields.bind (Kept r0) ?_ ?_) | (with_reducible refine Yields.bind _ Yields.any ?_)
      | (with_reducible refine Yields.foldlM _ _ _ ?_ ?_) | (intro _))

theorem State.packetData_kept {r0 : State} (s : State) (x : At) (wr : Writer) (o0 o1 : Opnd) (hK : Kept r0 s) :
    Yields (State.packetData s x wr o0 o1) (fun a => Kept r0 a.1) := by
  unfold State.packetData
  try dsimp only
  repeat' (first
      | (with_reducible assumption) | (with_reducible apply State.watchNF_kept)
      | (with_reducible apply State.convert_kept) | (with_reducible apply Yields.ite)
      | (with_reducible apply Yields.ret) | (with_reducible refine Yields.bind _ Yields.any ?_)
      | (with_reducible refine Yields.foldlM _ _ _ ?_ ?_) | (intro _))

theorem State.iterPacket_kept {r0 : State} (s : State) (x : At) (q : QEntry) (i : Nat) (hK : Kept r0 s) :
    Yields (State.iterPacket s x q i) (fun a => Kept r0 a.1) := by
  unfold State.iterPacket
  try dsimp only
  repeat' (first
      | (with_reducible assumption) | (with_reducible apply State.countTraffic_kept)
      | (with_reducible apply State.inc_kept) | (with_reducible apply State.packetData_kept)
      | (with_reducible apply State.cqOffer_kept) | (with_reducible apply State.sendOn_kept)
      | (with_reducible apply Yields.ret) | (with_reducible apply Yields.err)
      | (with_reducible refine Yields.bind (fun a => Kept r0 a.1) ?_ ?_)
      | (with_reducible refine Yields.bind _ Yields.any ?_) | (fail_if_no_progress (with_reducible apply Kept.upd))
      | (intro _) | (split))

theorem State.iterDma_kept {r0 : State} (s : State) (x : At) (q : QEntry) (i : Nat) (hK : Kept r0 s) :
    Yields (State.iterDma s x q i) (fun a => Kept r0 a.1) := by
  unfold State.iterDma
  try dsimp only
  repeat' (first
      | (with_reducible assumption) | (with_reducible apply State.iterPacket_kept)
      | (with_reducible apply State.iterDmv_kept) | (with_reducible apply State.iterDtr_kept)
      | (with_reducible apply State.iterDgat_kept) | (with_reducible apply State.iterDsct_kept)
      | (with_reducible apply State.iterDfill_kept) | (with_reducible apply Yields.ret)
      | (with_reducible refine Yields.bind (Kept r0) ?_ ?_) | (intro _) | (split))

theorem State.runDma_kept {r0 : State} (s : State) (x : At) (q : QEntry) (x0 : Nat) (x1 : Nat) (hK : Kept r0 s) :
    Kept r0 (State.runDma s x q x0 x1).1 := by
  induction x0 generalizing s x q x1 with
  | zero =>
    unfold State.runDma
    exact hK
  | succ n ih =>
    unfold State.runDma
    try dsimp only
    repeat' (first
        | (with_reducible assumption) | (with_reducible apply ih) | (with_reducible apply State.iterDma_kept)
        | (with_reducible refine Yields.outP ?_ (by with_reducible assumption)) | (split))

theorem State.setSteps_kept {r0 : State} (s : State) (x : At) (l : List TileStep) (hK : Kept r0 s) :
    Kept r0 (State.setSteps s x l) := by
  unfold State.setSteps
  try dsimp only
  repeat' (first | (with_reducible assumption) | (with_reducible apply State.setCore_kept))

theorem State.refreshTile_kept {r0 : State} (s : State) (g cx t : Nat) (hK : Kept r0 s) :
    Kept r0 (State.refreshTile s g cx t) := by
  unfold State.refreshTile
  try dsimp only
  repeat' (first | (with_reducible assumption) | (with_reducible apply State.put_kept))

theorem State.refreshStep_kept {r0 : State} (s : State) (x : At) (st : TileStep) (hK : Kept r0 s) :
    Kept r0 (State.refreshStep s x st) := by
  unfold State.refreshStep
  try dsimp only
  repeat' (first | (with_reducible assumption) | (with_reducible apply State.refreshTile_kept) | (split))

theorem State.loadIter_kept {r0 : State} (s : State) (x : At) (q : QEntry) (k i : Nat) (hK : Kept r0 s) :
    Yields (State.loadIter s x q k i) (Kept r0) := by
  unfold State.loadIter
  try dsimp only
  repeat' (first
      | (with_reducible assumption) | (with_reducible apply State.loadWeights_kept)
      | (with_reducible apply Yields.ret) | (with_reducible refine Yields.bind _ Yields.any ?_) | (intro _))

theorem State.beginIter_kept {r0 : State} (s : State) (x : At) (q : QEntry) (i : Nat) (hK : Kept r0 s) :
    Yields (State.beginIter s x q i) (Kept r0) := by
  unfold State.beginIter
  try dsimp only
  repeat' (first
      | (with_reducible assumption) | (with_reducible apply State.changeBank_kept)
      | (with_reducible apply State.startSelect_kept) | (with_reducible apply State.inc_kept)
      | (with_reducible apply State.setCore_kept) | (with_reducible apply State.setSteps_kept)
      | (with_reducible apply State.refreshStep_kept) | (with_reducible apply Yields.ite)
      | (with_reducible apply Yields.ret) | (with_reducible refine Yields.bind _ Yields.any ?_)
      | (with_reducible apply Kept.ite) | (intro _))

theorem State.rowTry_kept {r0 : State} (s : State) (x : At) (q : QEntry) (st : TileStep) (r : Nat) (hK : Kept r0 s) :
    ∀ u, State.rowTry s x q st r = .ok u → Kept r0 u := by
  intro u hu
  unfold State.rowTry at hu
  dsimp only at hu
  split at hu
  · exact State.maxRow_kept _ _ _ _ _ _ _ _ _ _ hK u hu
  · exact State.addRow_kept _ _ _ _ _ _ hK u hu

theorem State.rowsFrom_kept {r0 : State} (s : State) (x : At) (q : QEntry) (st : TileStep) (n r : Nat)
    (hK : Kept r0 s) : Kept r0 (State.rowsFrom s x q st n r).1 := by
  induction n generalizing s r with
  | zero => exact hK
  | succ n ih =>
    unfold State.rowsFrom
    split
    · next t e => exact ih t _ (State.rowTry_kept _ _ _ _ _ hK t e)
    · exact hK

theorem State.placeStep_kept {r0 : State} (s : State) (x : At) (q : QEntry) (st : TileStep) (hK : Kept r0 s) :
    ∀ u, State.placeStep s x q st = some u → Kept r0 u := by
  intro u hu
  unfold State.placeStep at hu
  dsimp only at hu
  split at hu
  · cases hu
    exact hK
  · exact State.placeWindow_kept _ _ _ _ _ _ _ (State.put_kept _ _ _ hK) u hu

theorem State.writeStep_kept {r0 : State} (s : State) (x : At) (q : QEntry) (st : TileStep) (hK : Kept r0 s) :
    Kept r0 (State.writeStep s x q st).1 := by
  unfold State.writeStep
  try dsimp only
  repeat' (first
      | (with_reducible assumption)
      | (with_reducible refine State.placeStep_kept _ _ _ _ ?_ _ (by with_reducible assumption))
      | (with_reducible apply State.rowsFrom_kept) | (split))

theorem State.replayShift_kept {r0 : State} (s : State) (x : At) (st : TileStep) (next : Bool) (hK : Kept r0 s) :
    Kept r0 (State.replayShift s x st next) := by
  unfold State.replayShift
  try dsimp only
  repeat' (first
      | (with_reducible assumption) | (with_reducible apply State.inc_kept)
      | (with_reducible apply State.accShift_kept) | (with_reducible apply State.setTileE_kept)
      | (with_reducible apply Kept.ite))

theorem State.replayStep_kept {r0 : State} (s : State) (x : At) (q : QEntry) (st : TileStep) (next : Bool) (hK :
    Kept r0 s) :
    Kept r0 (State.replayStep s x q st next).1 := by
  unfold State.replayStep
  try dsimp only
  repeat' (first
      | (with_reducible assumption) | (with_reducible apply State.replayShift_kept)
      | (with_reducible apply State.writeStep_kept))

theorem State.setOldest_kept {r0 : State} (s : State) (x : At) (st : TileStep) (hK : Kept r0 s) :
    Kept r0 (State.setOldest s x st) := by
  unfold State.setOldest
  try dsimp only
  repeat' (first
      | (with_reducible assumption) | (with_reducible apply State.setSteps_kept)
      | (with_reducible apply State.refreshStep_kept) | (split))

theorem State.popStep_kept {r0 : State} (s : State) (x : At) (st : TileStep) (hK : Kept r0 s) :
    Kept r0 (State.popStep s x st) := by
  unfold State.popStep
  try dsimp only
  repeat' (first
      | (with_reducible assumption) | (with_reducible apply State.setSteps_kept)
      | (with_reducible apply State.refreshStep_kept))

theorem State.finishStep_kept {r0 : State} (s : State) (x : At) (q : QEntry) (x0 : Nat) (x1 : TileStep) (hK : Kept
    r0 s) :
    Kept r0 (State.finishStep s x q x0 x1) := by
  induction x0 generalizing s x q x1 with
  | zero =>
    unfold State.finishStep
    exact hK
  | succ n ih =>
    unfold State.finishStep
    try dsimp only
    repeat' (first
        | (with_reducible assumption) | (with_reducible apply ih) | (with_reducible apply State.replayStep_kept)
        | (with_reducible apply State.writeStep_kept) | (split))

theorem State.iterAccp_kept {r0 : State} (s : State) (x : At) (q : QEntry) (i : Nat) (hK : Kept r0 s) :
    Yields (State.iterAccp s x q i) (Kept r0) := by
  unfold State.iterAccp
  try dsimp only
  repeat' (first
      | (with_reducible assumption) | (with_reducible apply State.tilePreload_kept)
      | (with_reducible refine Yields.bind _ Yields.any ?_) | (intro _))

theorem State.iterAccz_kept {r0 : State} (s : State) (x : At) (q : QEntry) (i : Nat) (hK : Kept r0 s) :
    Yields (State.iterAccz s x q i) (Kept r0) := by
  unfold State.iterAccz
  try dsimp only
  repeat' (first
      | (with_reducible assumption) | (with_reducible apply State.tileClear_kept) | (with_reducible apply Yields.ok))

theorem State.iterAccd_kept {r0 : State} (s : State) (x : At) (q : QEntry) (i : Nat) (hK : Kept r0 s) :
    Yields (State.iterAccd s x q i) (Kept r0) := by
  unfold State.iterAccd
  try dsimp only
  repeat' (first
      | (with_reducible assumption) | (with_reducible apply State.tileDrain_kept)
      | (with_reducible apply State.tileClear_kept) | (with_reducible apply Yields.ite)
      | (with_reducible apply Yields.ret) | (with_reducible apply Yields.err)
      | (with_reducible refine Yields.bind (Kept r0) ?_ ?_) | (with_reducible refine Yields.bind _ Yields.any ?_)
      | (with_reducible apply Kept.ite) | (intro _))

theorem State.coreInc_kept {r0 : State} (s : State) (x : At) (f : Nat → Nat → Fld) (n : Nat) (hK : Kept r0 s) :
    Kept r0 (State.coreInc s x f n) := by
  unfold State.coreInc
  try dsimp only
  repeat' (first | (with_reducible assumption) | (with_reducible apply State.inc_kept))

theorem State.readIn_kept {r0 : State} (s : State) (x : At) (o : Opnd) (t : List Nat) (hK : Kept r0 s) :
    Yields (State.readIn s x o t) (fun a => Kept r0 a.1) := by
  unfold State.readIn
  try dsimp only
  repeat' (first
      | (with_reducible assumption) | (with_reducible apply State.inc_kept) | (with_reducible apply Yields.ret)
      | (with_reducible refine Yields.bind _ Yields.any ?_) | (with_reducible apply Kept.ite) | (intro _))

theorem State.sxCompute_kept {r0 : State} (s : State) (x : At) (q : QEntry) (ins : List Opnd) (o3 : Opnd) (ts : List
    (List Nat)) (hK : Kept r0 s) :
    Yields (State.sxCompute s x q ins o3 ts) (fun a => Kept r0 a.1) := by
  unfold State.sxCompute
  try dsimp only
  repeat' (first
      | (with_reducible assumption) | (with_reducible apply State.readIn_kept) | (with_reducible apply Yields.ret)
      | (with_reducible refine Yields.bind (fun a => Kept r0 a.1) ?_ ?_)
      | (with_reducible refine Yields.foldlM _ _ _ ?_ ?_) | (intro _))

theorem State.sxWrite_kept {r0 : State} (s : State) (x : At) (wr : Writer) (o o3 : Opnd) (res : List (List Nat ×
    Num)) (lo hi total : Nat) (hK : Kept r0 s) :
    Yields (State.sxWrite s x wr o o3 res lo hi total) (Kept r0) := by
  unfold State.sxWrite
  try dsimp only
  repeat' (first
      | (with_reducible assumption) | (with_reducible apply State.writeBlock_kept)
      | (with_reducible apply State.writeVal_kept) | (with_reducible apply Yields.ite)
      | (with_reducible refine Yields.foldlM _ _ _ ?_ ?_) | (intro _))

theorem State.sxRun_kept {r0 : State} (s : State) (x : At) (q : QEntry) (ins outs : List Opnd) (wrs : List Writer)
    (o3 : Opnd) (ts : List (List Nat)) (w : Nat) (x0 : Nat) (x1 : Nat) (x2 : List (List Nat × Num)) (hK : Kept r0 s)
    :
    Yields (State.sxRun s x q ins outs wrs o3 ts w x0 x1 x2) (Kept r0) := by
  induction x0 generalizing s x q ins outs wrs o3 ts w x1 x2 with
  | zero =>
    unfold State.sxRun
    exact Yields.ok hK
  | succ n ih =>
    unfold State.sxRun
    try dsimp only
    repeat' (first
        | (with_reducible assumption) | (with_reducible apply ih) | (with_reducible apply State.sxCompute_kept)
        | (with_reducible apply State.sxWrite_kept) | (with_reducible refine Yields.bind (Kept r0) ?_ ?_)
        | (with_reducible refine Yields.bind (fun a => Kept r0 a.1) ?_ ?_)
        | (with_reducible refine Yields.foldlM _ _ _ ?_ ?_) | (intro _))

theorem State.iterSx_kept {r0 : State} (s : State) (x : At) (q : QEntry) (i : Nat) (hK : Kept r0 s) :
    Yields (State.iterSx s x q i) (Kept r0) := by
  unfold State.iterSx
  try dsimp only
  repeat' (first
      | (with_reducible assumption) | (with_reducible apply State.sxRun_kept)
      | (with_reducible apply State.writePads_kept) | (with_reducible apply Yields.ite)
      | (with_reducible apply Yields.err) | (with_reducible refine Yields.bind (Kept r0) ?_ ?_)
      | (with_reducible refine Yields.bind _ Yields.any ?_) | (with_reducible refine Yields.foldlM _ _ _ ?_ ?_)
      | (intro _))

theorem State.updRead_kept {r0 : State} (s : State) (x : At) (ins : List (Nat × Opnd)) (ref : Opnd) (ts : List (List
    Nat)) (hK : Kept r0 s) :
    Yields (State.updRead s x ins ref ts) (fun a => Kept r0 a.1) := by
  unfold State.updRead
  try dsimp only
  repeat' (first
      | (with_reducible assumption) | (with_reducible apply State.readIn_kept) | (with_reducible apply Yields.ret)
      | (with_reducible refine Yields.bind (fun a => Kept r0 a.1) ?_ ?_)
      | (with_reducible refine Yields.bind _ Yields.any ?_) | (with_reducible refine Yields.foldlM _ _ _ ?_ ?_)
      | (intro _) | (split))

theorem State.noteNonFinite_kept {r0 : State} (s : State) (x : At) (q : QEntry) (hK : Kept r0 s) :
    Kept r0 (State.noteNonFinite s x q) := by
  unfold State.noteNonFinite
  try dsimp only
  repeat' (first
      | (with_reducible assumption) | (with_reducible apply State.setJobS_kept)
      | (with_reducible apply State.put_kept) | (with_reducible apply State.coreNote_kept)
      | (with_reducible apply Kept.ite))

theorem State.updBlock_kept {r0 : State} (s : State) (x : At) (q : QEntry) (n : Nat) (ins outs : List (Nat × Opnd))
    (ref : Opnd) (ts : List (List Nat)) (hK : Kept r0 s) :
    Yields (State.updBlock s x q n ins outs ref ts) (Kept r0) := by
  unfold State.updBlock
  try dsimp only
  repeat' (first
      | (with_reducible assumption) | (with_reducible apply State.updRead_kept)
      | (with_reducible apply State.inc_kept) | (with_reducible apply State.noteNonFinite_kept)
      | (with_reducible apply State.writeBlockMasked_kept) | (with_reducible apply State.writeVal_kept)
      | (with_reducible apply Yields.ite) | (with_reducible refine Yields.bind (fun a => Kept r0 a.1) ?_ ?_)
      | (with_reducible refine Yields.foldlM _ _ _ ?_ ?_) | (with_reducible apply Kept.ite) | (intro _))

theorem State.iterUpd_kept {r0 : State} (s : State) (x : At) (q : QEntry) (i : Nat) (hK : Kept r0 s) :
    Yields (State.iterUpd s x q i) (Kept r0) := by
  unfold State.iterUpd
  try dsimp only
  repeat' (first
      | (with_reducible assumption) | (with_reducible apply State.bumpFree_kept)
      | (with_reducible apply State.updBlock_kept) | (with_reducible apply State.writePads_kept)
      | (with_reducible apply Yields.ret) | (with_reducible apply Yields.err)
      | (with_reducible refine Yields.bind (Kept r0) ?_ ?_) | (with_reducible refine Yields.bind _ Yields.any ?_)
      | (with_reducible refine Yields.foldlM _ _ _ ?_ ?_) | (intro _) | (split))

theorem State.iterLd_kept {r0 : State} (s : State) (x : At) (q : QEntry) (i : Nat) (hK : Kept r0 s) :
    Yields (State.iterLd s x q i) (Kept r0) := by
  unfold State.iterLd
  try dsimp only
  repeat' (first
      | (with_reducible assumption) | (with_reducible apply State.inc_kept)
      | (with_reducible apply State.readIn_kept) | (with_reducible apply State.setElems_kept)
      | (with_reducible apply Yields.ite) | (with_reducible apply Yields.ret)
      | (with_reducible refine Yields.bind (fun a => Kept r0 a.1) ?_ ?_)
      | (with_reducible refine Yields.bind _ Yields.any ?_) | (with_reducible refine Yields.foldlM _ _ _ ?_ ?_)
      | (with_reducible apply Kept.ite) | (intro _))

theorem State.iterSt_kept {r0 : State} (s : State) (x : At) (q : QEntry) (i : Nat) (hK : Kept r0 s) :
    Yields (State.iterSt s x q i) (Kept r0) := by
  unfold State.iterSt
  try dsimp only
  repeat' (first
      | (with_reducible assumption) | (with_reducible apply State.writeTile_kept)
      | (with_reducible apply Yields.ite) | (with_reducible apply Yields.err)
      | (with_reducible refine Yields.bind _ Yields.any ?_) | (intro _))

theorem State.laneArith_kept {r0 : State} (s : State) (x : At) (q : QEntry) (hK : Kept r0 s) :
    Kept r0 (State.laneArith s x q) := by
  unfold State.laneArith
  try dsimp only
  repeat' (first | (with_reducible assumption) | (with_reducible apply State.setElems_kept))

theorem State.laneRed_kept {r0 : State} (s : State) (x : At) (q : QEntry) (hK : Kept r0 s) :
    Kept r0 (State.laneRed s x q) := by
  unfold State.laneRed
  try dsimp only
  repeat' (first | (with_reducible assumption) | (with_reducible apply State.setLane0_kept))

theorem State.lanePerm_kept {r0 : State} (s : State) (x : At) (q : QEntry) (hK : Kept r0 s) :
    Kept r0 (State.lanePerm s x q) := by
  unfold State.lanePerm
  try dsimp only
  repeat' (first
      | (with_reducible assumption) | (with_reducible apply State.coreInc_kept)
      | (with_reducible apply State.put_kept) | (with_reducible apply State.setLane_kept)
      | (with_reducible apply Kept.ite) | (with_reducible refine Kept.foldl _ _ _ ?_ (fun t a ht => ?_)))

theorem State.scanCore_kept {r0 : State} (s : State) (x : At) (q : QEntry) (carry : Option Num) (hK : Kept r0 s) :
    Kept r0 (State.scanCore s x q carry).1 := by
  unfold State.scanCore
  try dsimp only
  repeat' (first | (with_reducible assumption) | (with_reducible apply State.setElems_kept))

theorem State.laneScanLocal_kept {r0 : State} (s : State) (x : At) (q : QEntry) (hK : Kept r0 s) :
    Kept r0 (State.laneScanLocal s x q) := by
  unfold State.laneScanLocal
  try dsimp only
  repeat' (first
      | (with_reducible assumption) | (with_reducible apply State.scanCore_kept)
      | (with_reducible apply State.setCarryReg_kept))

theorem State.laneTriple_kept {r0 : State} (s : State) (x : At) (q : QEntry) (hK : Kept r0 s) :
    Kept r0 (State.laneTriple s x q).1 := by
  unfold State.laneTriple
  try dsimp only
  repeat' (first | (with_reducible assumption) | (with_reducible apply State.coreInc_kept))

theorem State.putTriple_kept {r0 : State} (s : State) (x : At) (q : QEntry) (t : List Nat) (hK : Kept r0 s) :
    Kept r0 (State.putTriple s x q t) := by
  unfold State.putTriple
  try dsimp only
  repeat' (first
      | (with_reducible assumption) | (with_reducible apply State.setLane0_kept)
      | (with_reducible refine Kept.foldl _ _ _ ?_ (fun t a ht => ?_)))

theorem State.laneStat_kept {r0 : State} (s : State) (x : At) (q : QEntry) (hK : Kept r0 s) :
    Kept r0 (State.laneStat s x q) := by
  unfold State.laneStat
  try dsimp only
  repeat' (first
      | (with_reducible assumption) | (with_reducible apply State.coreInc_kept)
      | (with_reducible apply State.setLane_kept) | (with_reducible apply State.laneTriple_kept)
      | (with_reducible apply State.putTriple_kept) | (with_reducible apply Kept.ite)
      | (with_reducible refine Kept.foldl _ _ _ ?_ (fun t a ht => ?_)))

theorem State.setRow_kept {r0 : State} (s : State) (x : At) (r : RowState) (hK : Kept r0 s) :
    Kept r0 (State.setRow s x r) := by
  unfold State.setRow
  try dsimp only
  repeat' (first | (with_reducible assumption) | (with_reducible apply State.setCore_kept))

theorem State.rowEmpty_kept {r0 : State} (s : State) (x : At) (q : QEntry) (hK : Kept r0 s) :
    Kept r0 (State.rowEmpty s x q) := by
  unfold State.rowEmpty
  try dsimp only
  repeat' (first
      | (with_reducible assumption) | (with_reducible apply State.coreInc_kept)
      | (with_reducible apply State.coreNote_kept))

theorem State.laneSoftmax_kept {r0 : State} (s : State) (x : At) (q : QEntry) (hK : Kept r0 s) :
    Kept r0 (State.laneSoftmax s x q) := by
  unfold State.laneSoftmax
  try dsimp only
  repeat' (first
      | (with_reducible assumption) | (with_reducible apply State.coreInc_kept)
      | (with_reducible apply State.rowEmpty_kept) | (with_reducible apply State.setElems_kept)
      | (with_reducible apply State.setRow_kept) | (split))

theorem State.laneSfn_kept {r0 : State} (s : State) (x : At) (q : QEntry) (hK : Kept r0 s) :
    Kept r0 (State.laneSfn s x q) := by
  unfold State.laneSfn
  try dsimp only
  repeat' (first | (with_reducible assumption) | (with_reducible apply State.setElems_kept))

theorem State.laneVl_kept {r0 : State} (s : State) (x : At) (q : QEntry) (hK : Kept r0 s) :
    Kept r0 (State.laneVl s x q) := by
  unfold State.laneVl
  try dsimp only
  repeat' (first | (with_reducible assumption) | (with_reducible apply State.put_kept))

theorem State.iterLane_kept {r0 : State} (s : State) (x : At) (q : QEntry) (i : Nat) (hK : Kept r0 s) :
    Yields (State.iterLane s x q i) (Kept r0) := by
  unfold State.iterLane
  try dsimp only
  repeat' (first
      | (with_reducible assumption) | (with_reducible apply State.coreInc_kept)
      | (with_reducible apply State.laneVl_kept) | (with_reducible apply State.iterLd_kept)
      | (with_reducible apply State.iterSt_kept) | (with_reducible apply State.laneRed_kept)
      | (with_reducible apply State.lanePerm_kept) | (with_reducible apply State.laneScanLocal_kept)
      | (with_reducible apply State.laneStat_kept) | (with_reducible apply State.laneSoftmax_kept)
      | (with_reducible apply State.laneSfn_kept) | (with_reducible apply State.laneArith_kept)
      | (with_reducible apply Yields.ok) | (split))

theorem State.setEntry_kept {r0 : State} (s : State) (g c e : Nat) (q : QEntry) (hK : Kept r0 s) :
    Kept r0 (State.setEntry s g c e q) := by
  unfold State.setEntry
  try dsimp only
  repeat' (first | (with_reducible assumption) | (with_reducible apply State.setQueue_kept))

theorem State.noteTurn_kept {r0 : State} (s : State) (g cx e c : Nat) (both : Bool) (hK : Kept r0 s) :
    Kept r0 (State.noteTurn s g cx e c both) := by
  unfold State.noteTurn
  try dsimp only
  repeat' (first | (with_reducible assumption) | (with_reducible apply State.setCore_kept))

theorem State.doSplit_kept {r0 : State} (s : State) (g : Nat) (on : Bool) (hK : Kept r0 s) :
    Kept r0 (State.doSplit s g on) := by
  unfold State.doSplit
  try dsimp only
  repeat' (first
      | (with_reducible assumption) | (with_reducible apply State.put_kept)
      | (with_reducible apply State.setCore_kept) | (with_reducible apply Kept.ite)
      | (with_reducible refine Kept.foldl _ _ _ ?_ (fun t a ht => ?_)))

theorem State.beginIn_kept {r0 : State} (s : State) (g c e : Nat) (q : QEntry) (cx : Nat) (hK : Kept r0 s) :
    Kept r0 (State.beginIn s g c e q cx) := by
  unfold State.beginIn
  try dsimp only
  repeat' (first
      | (with_reducible assumption) | (with_reducible apply State.setEntry_kept)
      | (with_reducible apply State.noteTurn_kept) | (with_reducible apply State.coreInc_kept)
      | (with_reducible apply Kept.ite))

theorem State.beginSplit_kept {r0 : State} (s : State) (g c : Nat) (q : QEntry) (hK : Kept r0 s) :
    Kept r0 (State.beginSplit s g c q) := by
  unfold State.beginSplit
  try dsimp only
  repeat' (first
      | (with_reducible assumption) | (with_reducible apply State.setEntry_kept)
      | (with_reducible apply State.doSplit_kept) | (with_reducible apply Kept.ite))

theorem State.tryBegin_kept {r0 : State} (s : State) (g c e seq cx : Nat) (hK : Kept r0 s) :
    Kept r0 (State.tryBegin s g c e seq cx) := by
  unfold State.tryBegin
  try dsimp only
  repeat' (first | (with_reducible assumption) | (with_reducible apply State.beginIn_kept) | (split))

theorem State.pumpEntry_kept {r0 : State} (s : State) (g c e : Nat) (q : QEntry) (hK : Kept r0 s) :
    Kept r0 (State.pumpEntry s g c e q) := by
  unfold State.pumpEntry
  try dsimp only
  repeat' (first
      | (with_reducible assumption) | (with_reducible apply State.setEntry_kept)
      | (with_reducible apply State.beginSplit_kept) | (with_reducible apply State.tryBegin_kept)
      | (with_reducible apply Kept.ite) | (with_reducible refine Kept.foldl _ _ _ ?_ (fun t a ht => ?_)))

theorem State.pumpQueue_kept {r0 : State} (s : State) (g c e : Nat) (hK : Kept r0 s) :
    Kept r0 (State.pumpQueue s g c e) := by
  unfold State.pumpQueue
  try dsimp only
  repeat' (first
      | (with_reducible assumption) | (with_reducible apply State.pumpEntry_kept)
      | (with_reducible refine Kept.foldl _ _ _ ?_ (fun t a ht => ?_)) | (split))

theorem State.pump_kept {r0 : State} (s : State) (g : Nat) (hK : Kept r0 s) :
    Kept r0 (State.pump s g) := by
  unfold State.pump
  try dsimp only
  repeat' (first
      | (with_reducible assumption) | (with_reducible apply State.pumpQueue_kept)
      | (with_reducible refine Kept.foldl _ _ _ ?_ (fun t a ht => ?_)))

theorem ranOr_kept {r0 : State} (s : State) (r : Run State) (hK : Kept r0 s) (hr : Yields r (Kept r0)) :
    Kept r0 (ranOr s r).1 := by
  unfold ranOr
  split
  · next t => exact hr.get t rfl
  · exact hK

theorem State.runIter_kept {r0 : State} (s : State) (x : At) (q : QEntry) (i : Nat) (hK : Kept r0 s) :
    Kept r0 (State.runIter s x q i).1 := by
  unfold State.runIter
  try dsimp only
  repeat' (first
      | (with_reducible assumption) | (with_reducible apply State.coreInc_kept) | (with_reducible apply ranOr_kept)
      | (with_reducible apply State.iterAccp_kept) | (with_reducible apply State.iterAccz_kept)
      | (with_reducible apply State.iterAccd_kept) | (with_reducible apply State.iterUpd_kept)
      | (with_reducible apply State.iterDma_kept) | (with_reducible apply State.iterSx_kept)
      | (with_reducible apply State.iterLane_kept)
      | (with_reducible refine Yields.outP ?_ (by with_reducible assumption)) | (split))

theorem State.runNext_kept {r0 : State} (s : State) (g c e cx : Nat) (q : QEntry) (hK : Kept r0 s) :
    Kept r0 (State.runNext s g c e cx q).1 := by
  unfold State.runNext
  try dsimp only
  repeat' (first
      | (with_reducible assumption) | (with_reducible apply State.runIter_kept)
      | (with_reducible apply State.coreNote_kept) | (with_reducible apply State.setEntry_kept) | (split))

theorem State.serveTo_kept {r0 : State} (s : State) (g c e cx : Nat) (x0 : Nat) (hK : Kept r0 s) :
    Kept r0 (State.serveTo s g c e cx x0).1 := by
  induction x0 generalizing s g c e cx with
  | zero =>
    unfold State.serveTo
    exact hK
  | succ n ih =>
    unfold State.serveTo
    try dsimp only
    repeat' (first
        | (with_reducible assumption) | (with_reducible apply ih) | (with_reducible apply State.noteTurn_kept)
        | (with_reducible apply State.runNext_kept) | (split))

theorem State.serve_kept {r0 : State} (s : State) (g c e cx : Nat) (hK : Kept r0 s) :
    Kept r0 (State.serve s g c e cx).1 := by
  unfold State.serve
  try dsimp only
  repeat' (first | (with_reducible assumption) | (with_reducible apply State.serveTo_kept))

theorem State.runSome_kept {r0 : State} (s : State) (g c e cx : Nat) (x0 : Nat) (hK : Kept r0 s) :
    Kept r0 (State.runSome s g c e cx x0) := by
  induction x0 generalizing s g c e cx with
  | zero =>
    unfold State.runSome
    exact hK
  | succ n ih =>
    unfold State.runSome
    try dsimp only
    repeat' (first
        | (with_reducible assumption) | (with_reducible apply ih) | (with_reducible apply State.runNext_kept)
        | (split))

theorem State.endExec_kept {r0 : State} (s : State) (g c : Nat) (hK : Kept r0 s) :
    Kept r0 (State.endExec s g c) := by
  unfold State.endExec
  try dsimp only
  repeat' (first
      | (with_reducible assumption) | (with_reducible apply State.bumpFree_kept)
      | (with_reducible apply State.finishStep_kept) | (with_reducible apply State.runSome_kept)
      | (with_reducible refine Kept.foldl _ _ _ ?_ (fun t a ht => ?_)) | (split))

theorem State.writeFrame_kept {r0 : State} (s : State) (j slot : Nat) (now : Nat) (hK : Kept r0 s) :
    Kept r0 (State.writeFrame s j slot now) := by
  unfold State.writeFrame
  try dsimp only
  repeat' (first
      | (with_reducible assumption) | (with_reducible apply State.incSat_kept)
      | (with_reducible apply State.setHostBytes_kept) | (with_reducible apply State.inc_kept)
      | (with_reducible apply State.sendVector_kept) | (with_reducible apply Kept.ite))

theorem State.noteCurtain_kept {r0 : State} (s : State) (g c : Nat) (hK : Kept r0 s) :
    Kept r0 (State.noteCurtain s g c) := by
  unfold State.noteCurtain
  try dsimp only
  repeat' (first | (with_reducible assumption) | (with_reducible apply State.put_kept) | (split))

theorem State.testCtx_kept {r0 : State} (s : State) (g c : Nat) (hK : Kept r0 s) :
    Kept r0 (State.testCtx s g c) := by
  unfold State.testCtx
  try dsimp only
  repeat' (first
      | (with_reducible assumption) | (with_reducible apply State.wake_kept)
      | (with_reducible apply State.setCtx_kept) | (with_reducible apply State.setJobS_kept)
      | (with_reducible apply State.writeFrame_kept) | (with_reducible apply State.noteCurtain_kept) | (split))

theorem State.retireHead_kept {r0 : State} (s : State) (g c e : Nat) (q : QEntry) (hK : Kept r0 s) :
    Kept r0 (State.retireHead s g c e q) := by
  unfold State.retireHead
  try dsimp only
  repeat' (first
      | (with_reducible assumption) | (with_reducible apply State.setQueue_kept)
      | (with_reducible apply State.put_kept) | (with_reducible apply State.setCtx_kept)
      | (with_reducible apply State.testCtx_kept) | (with_reducible apply State.signalFlag_kept)
      | (with_reducible apply Kept.ite))

theorem State.retireCore_kept {r0 : State} (s : State) (g c e cx : Nat) (q : QEntry) (hK : Kept r0 s) :
    Kept r0 (State.retireCore s g c e cx q) := by
  unfold State.retireCore
  try dsimp only
  repeat' (first
      | (with_reducible assumption) | (with_reducible apply State.coreInc_kept)
      | (with_reducible apply State.setEntry_kept) | (with_reducible apply State.retireHead_kept)
      | (with_reducible apply State.pump_kept) | (with_reducible apply Kept.ite))

theorem State.filterRegs_kept {r0 : State} (s : State) (p : Nat × Nat → Bool) (hK : Kept r0 s) :
    Kept r0 { s with regs := s.regs.filter p } :=
  hK.trans ⟨rfl, fun c => ⟨c.1, c.2.1, c.2.2.1, c.2.2.2.1, Tab.filter_rising _ _ c.2.2.2.2⟩⟩

theorem State.clearInflight_kept {r0 : State} (s : State) (g c : Nat) (hK : Kept r0 s) :
    Kept r0 (State.clearInflight s g c) := by
  unfold State.clearInflight
  exact Kept.foldl _ _ _ (State.filterRegs_kept s _ hK) (fun t a ht => State.setCore_kept _ _ _ _ ht)

theorem State.dropQueues_kept {r0 : State} (s : State) (g c : Nat) (hK : Kept r0 s) :
    Kept r0 (State.dropQueues s g c) := by
  unfold State.dropQueues
  try dsimp only
  repeat' (first
      | (with_reducible assumption) | (with_reducible apply State.setQueue_kept)
      | (with_reducible apply State.put_kept) | (with_reducible apply State.clearInflight_kept)
      | (with_reducible refine Kept.foldl _ _ _ ?_ (fun t a ht => ?_)))

theorem State.haltCtx_kept {r0 : State} (s : State) (g c : Nat) (hK : Kept r0 s) :
    Kept r0 (State.haltCtx s g c) := by
  unfold State.haltCtx
  try dsimp only
  repeat' (first
      | (with_reducible assumption) | (with_reducible apply State.unblock_kept)
      | (with_reducible apply State.endExec_kept) | (with_reducible apply State.dropQueues_kept))

theorem State.stopCtx_kept {r0 : State} (s : State) (g c : Nat) (hK : Kept r0 s) :
    Kept r0 (State.stopCtx s g c) := by
  unfold State.stopCtx
  try dsimp only
  repeat' (first
      | (with_reducible assumption) | (with_reducible apply State.haltCtx_kept)
      | (with_reducible apply State.put_kept) | (with_reducible apply Kept.ite))

theorem State.pumpJob_kept {r0 : State} (s : State) (j : Nat) (hK : Kept r0 s) :
    Kept r0 (State.pumpJob s j) := by
  unfold State.pumpJob
  try dsimp only
  repeat' (first
      | (with_reducible assumption) | (with_reducible apply State.pump_kept)
      | (with_reducible refine Kept.foldl _ _ _ ?_ (fun t a ht => ?_)))

theorem State.haltRecord_kept {r0 : State} (s : State) (j : Nat) (e : ErrAt) (hK : Kept r0 s) :
    Kept r0 (State.haltRecord s j e) := by
  unfold State.haltRecord
  try dsimp only
  repeat' (first | (with_reducible assumption) | (with_reducible apply State.put_kept))

theorem State.applyHeld_kept {r0 : State} (s : State) (j : Nat) (a : Nat × Nat × Nat) (hK : Kept r0 s) :
    Kept r0 (State.applyHeld s j a) := by
  unfold State.applyHeld
  try dsimp only
  repeat' (first
      | (with_reducible assumption) | (with_reducible apply State.addJobFlag_kept)
      | (with_reducible apply State.ringDone_kept) | (with_reducible apply Kept.ite))

theorem State.abandonCurtain_kept {r0 : State} (s : State) (j : Nat) (hK : Kept r0 s) :
    Kept r0 (State.abandonCurtain s j) := by
  unfold State.abandonCurtain
  try dsimp only
  repeat' (first
      | (with_reducible assumption) | (with_reducible apply State.applyHeld_kept)
      | (with_reducible apply State.setSn_kept) | (with_reducible apply State.put_kept)
      | (with_reducible apply State.inc_kept) | (with_reducible apply Kept.ite)
      | (with_reducible refine Kept.foldl _ _ _ ?_ (fun t a ht => ?_))
      | (fail_if_no_progress (with_reducible apply Kept.upd)))

theorem State.dropColl_kept {r0 : State} (s : State) (j : Nat) (hK : Kept r0 s) :
    Kept r0 (State.dropColl s j) := by
  unfold State.dropColl
  try dsimp only
  repeat' (first
      | (with_reducible assumption) | (with_reducible apply Kept.ite)
      | (with_reducible refine Kept.foldl _ _ _ ?_ (fun t a ht => ?_))
      | (fail_if_no_progress (with_reducible apply Kept.upd)))

theorem State.stopJob_kept {r0 : State} (s : State) (j : Nat) (e : ErrAt) (hK : Kept r0 s) :
    Kept r0 (State.stopJob s j e) := by
  unfold State.stopJob
  try dsimp only
  repeat' (first
      | (with_reducible assumption) | (with_reducible apply State.abandonCurtain_kept)
      | (with_reducible apply State.dropColl_kept) | (with_reducible apply State.haltRecord_kept)
      | (with_reducible apply State.put_kept) | (with_reducible apply State.stopCtx_kept)
      | (with_reducible apply State.setSn_kept) | (with_reducible apply State.setEvent_kept)
      | (with_reducible apply State.pumpJob_kept) | (with_reducible refine Kept.foldl _ _ _ ?_ (fun t a ht => ?_)))

theorem State.doubleUp_kept {r0 : State} (s : State) (g cx : Nat) (hK : Kept r0 s) :
    Kept r0 (State.doubleUp s g cx) := by
  unfold State.doubleUp
  try dsimp only
  repeat' (first
      | (with_reducible assumption) | (with_reducible apply State.put_kept)
      | (fail_if_no_progress (with_reducible apply Kept.upd)) | (split))

theorem State.applyDoubling_kept {r0 : State} (s : State) (j : Nat) (hK : Kept r0 s) :
    Kept r0 (State.applyDoubling s j) := by
  unfold State.applyDoubling
  try dsimp only
  repeat' (first
      | (with_reducible assumption) | (with_reducible apply State.doubleUp_kept)
      | (with_reducible refine Kept.foldl _ _ _ ?_ (fun t a ht => ?_)))

theorem State.endPageOp_kept {r0 : State} (s : State) (o : PageOp) (code : Nat) (hK : Kept r0 s) :
    Kept r0 (State.endPageOp s o code) := by
  unfold State.endPageOp
  try dsimp only
  repeat' (first
      | (with_reducible assumption) | (with_reducible apply State.put_kept)
      | (with_reducible apply State.ringDone_kept) | (fail_if_no_progress (with_reducible apply Kept.upd)) | (split))

theorem State.abandonMigration_kept {r0 : State} (s : State) (j : Nat) (hK : Kept r0 s) :
    Kept r0 (State.abandonMigration s j) := by
  unfold State.abandonMigration
  try dsimp only
  repeat' (first
      | (with_reducible assumption) | (with_reducible apply State.endPageOp_kept)
      | (with_reducible apply State.setOwner_kept) | (split))

theorem State.quiesceCtxs_kept {r0 : State} (s : State) (j : Nat) (hK : Kept r0 s) :
    Kept r0 (State.quiesceCtxs s j) := by
  unfold State.quiesceCtxs
  try dsimp only
  repeat' (first
      | (with_reducible assumption) | (with_reducible apply State.haltCtx_kept)
      | (with_reducible apply State.put_kept) | (with_reducible refine Kept.foldl _ _ _ ?_ (fun t a ht => ?_)))

theorem State.announceRestore_kept {r0 : State} (s : State) (j : Nat) (hK : Kept r0 s) :
    Kept r0 (State.announceRestore s j) := by
  unfold State.announceRestore
  try dsimp only
  repeat' (first
      | (with_reducible assumption) | (with_reducible apply State.sendDown_kept)
      | (with_reducible apply State.sendUp_kept) | (with_reducible apply Kept.ite))

theorem State.stopCopies_kept {r0 : State} (s : State) (j : Nat) (hK : Kept r0 s) :
    Kept r0 (State.stopCopies s j) := by
  unfold State.stopCopies
  try dsimp only
  repeat' (first
      | (with_reducible assumption) | (with_reducible apply State.ringDone_kept)
      | (with_reducible refine Kept.foldl _ _ _ ?_ (fun t a ht => ?_)))

theorem State.beginRestore_kept {r0 : State} (s : State) (j : Nat) (hK : Kept r0 s) :
    Kept r0 (State.beginRestore s j) := by
  unfold State.beginRestore
  try dsimp only
  repeat' (first
      | (with_reducible assumption) | (with_reducible apply State.abandonCurtain_kept)
      | (with_reducible apply State.abandonMigration_kept) | (with_reducible apply State.stopCopies_kept)
      | (with_reducible apply State.quiesceCtxs_kept) | (with_reducible apply State.dropColl_kept)
      | (with_reducible apply State.put_kept) | (with_reducible apply State.inc_kept)
      | (with_reducible apply State.setSn_kept) | (with_reducible apply State.pumpJob_kept)
      | (with_reducible apply Kept.ite))

theorem State.stopUnrestored_kept {r0 : State} (s : State) (j : Nat) (e : ErrAt) (hK : Kept r0 s) :
    Kept r0 (State.stopUnrestored s j e) := by
  unfold State.stopUnrestored
  try dsimp only
  repeat' (first
      | (with_reducible assumption) | (with_reducible apply State.put_kept)
      | (with_reducible apply State.stopJob_kept))

theorem State.restoreOr_kept {r0 : State} (s : State) (j : Nat) (e : ErrAt) (spent : Bool) (go : State → State) (hK
    : Kept r0 s) (hgo : ∀ c0, Kept r0 c0 → Kept r0 (go c0)) :
    Kept r0 (State.restoreOr s j e spent go) := by
  unfold State.restoreOr
  try dsimp only
  repeat' (first
      | (with_reducible assumption) | (with_reducible apply hgo) | (with_reducible apply State.stopUnrestored_kept)
      | (with_reducible apply Kept.ite))

theorem State.faultJob_kept {r0 : State} (s : State) (j : Nat) (e : ErrAt) (hK : Kept r0 s) :
    Kept r0 (State.faultJob s j e) := by
  unfold State.faultJob
  try dsimp only
  repeat' (first
      | (with_reducible assumption) | (with_reducible apply State.put_kept)
      | (with_reducible apply State.stopJob_kept) | (with_reducible apply State.restoreOr_kept)
      | (with_reducible apply State.setSn_kept) | (with_reducible apply State.beginRestore_kept)
      | (with_reducible apply State.announceRestore_kept) | (with_reducible apply Kept.ite) | (intro _))

theorem State.joinFault_kept {r0 : State} (s : State) (j : Nat) (e : ErrAt) (hK : Kept r0 s) :
    Kept r0 (State.joinFault s j e) := by
  unfold State.joinFault
  try dsimp only
  repeat' (first
      | (with_reducible assumption) | (with_reducible apply State.countErr_kept)
      | (with_reducible apply State.trace_kept) | (with_reducible apply State.recordFault_kept)
      | (with_reducible apply State.put_kept) | (with_reducible apply State.setSn_kept)
      | (with_reducible apply State.stopJob_kept) | (with_reducible apply State.stopUnrestored_kept)
      | (with_reducible apply Kept.ite))

theorem State.raiseErr_kept {r0 : State} (s : State) (e : ErrAt) (trap : Bool) (hK : Kept r0 s) :
    Kept r0 (State.raiseErr s e trap) := by
  unfold State.raiseErr
  try dsimp only
  repeat' (first
      | (with_reducible assumption) | (with_reducible apply State.noteErr_kept)
      | (with_reducible apply State.joinFault_kept) | (with_reducible apply State.stopJob_kept)
      | (with_reducible apply State.faultJob_kept) | (split))

theorem State.settleCq_kept {r0 : State} (s : State) (hK : Kept r0 s) :
    Kept r0 (State.settleCq s) := by
  unfold State.settleCq
  try dsimp only
  repeat' (first
      | (with_reducible assumption) | (with_reducible apply State.raiseErr_kept)
      | (fail_if_no_progress (with_reducible apply Kept.upd)) | (split))

theorem State.ctxErr_kept {r0 : State} (s : State) (g c code pc payload : Nat) (hK : Kept r0 s) :
    Kept r0 (State.ctxErr s g c code pc payload) := by
  unfold State.ctxErr
  try dsimp only
  repeat' (first | (with_reducible assumption) | (with_reducible apply State.raiseErr_kept))

theorem State.coreErr_kept {r0 : State} (s : State) (g c cx eng code pc payload : Nat) (trap : Bool) (hK : Kept r0
    s) :
    Kept r0 (State.coreErr s g c cx eng code pc payload trap) := by
  unfold State.coreErr
  try dsimp only
  repeat' (first | (with_reducible assumption) | (with_reducible apply State.raiseErr_kept))

theorem State.opErr_kept {r0 : State} (s : State) (x : At) (q : QEntry) (code payload : Nat) (hK : Kept r0 s) :
    Kept r0 (State.opErr s x q code payload) := by
  unfold State.opErr
  try dsimp only
  repeat' (first | (with_reducible assumption) | (with_reducible apply State.coreErr_kept))

theorem State.permTrap_kept {r0 : State} (s : State) (g c cx : Nat) (q : QEntry) (hK : Kept r0 s) :
    Kept r0 (State.permTrap s g c cx q) := by
  unfold State.permTrap
  try dsimp only
  repeat' (first
      | (with_reducible assumption) | (with_reducible apply State.lanePerm_kept)
      | (with_reducible apply State.coreErr_kept) | (with_reducible refine Kept.foldl _ _ _ ?_ (fun t a ht => ?_)))

theorem State.raiseEnd_kept {r0 : State} (s : State) (g c cx : Nat) (q : QEntry) (code payload : Nat) (hK : Kept r0
    s) :
    Kept r0 (State.raiseEnd s g c cx q code payload) := by
  unfold State.raiseEnd
  try dsimp only
  repeat' (first
      | (with_reducible assumption) | (with_reducible apply State.permTrap_kept)
      | (with_reducible apply State.opErr_kept) | (with_reducible apply Kept.ite))

theorem State.issue_kept {r0 : State} (s : State) (g c : Nat) (k : State → State) (hK : Kept r0 s)
    (hk : ∀ t, Kept r0 t → Kept r0 (k t)) : Goes r0 (State.issue s g c k) := by
  unfold State.issue
  apply Goes.inUnits
  apply Goes.next
  apply Kept.ite hK
  split
  · exact State.ctxErr_kept _ _ _ _ _ _ hK
  · exact hk s hK

theorem State.rejectInstr_kept {r0 : State} (s : State) (g c code : Nat) (hK : Kept r0 s) :
    Kept r0 (State.rejectInstr s g c code) := by
  unfold State.rejectInstr
  try dsimp only
  repeat' (first
      | (with_reducible assumption) | (with_reducible apply State.incSat_kept)
      | (with_reducible apply State.ctxErr_kept) | (with_reducible apply Kept.ite))

theorem State.noteHireg_kept {r0 : State} (s : State) (g c : Nat) (vs : List Nat) (hK : Kept r0 s) :
    Kept r0 (State.noteHireg s g c vs) := by
  unfold State.noteHireg
  try dsimp only
  repeat' (first
      | (with_reducible assumption) | (with_reducible apply State.put_kept) | (with_reducible apply Kept.ite))

theorem State.enqueued_kept {r0 : State} (s : State) (g c : Nat) (w : Body) (sh : Shape) (hK : Kept r0 s)
    (hs : ∀ t q, Kept r0 t → Kept r0 (sh.effect t q).1) : Kept r0 (State.enqueued s g c w sh) := by
  unfold State.enqueued
  dsimp only
  apply State.advance_kept
  have h1 := State.noteHireg_kept _ g c sh.vregs (hs s (s.entryOf g c w sh) hK)
  have h2 := State.setQueue_kept _ g c (engineOf sh.opc)
    (((sh.effect s (s.entryOf g c w sh)).1.noteHireg g c sh.vregs).queue g c (engineOf sh.opc) ++
      [(sh.effect s (s.entryOf g c w sh)).2]) h1
  have h3 := State.inc_kept _ (qdepthFld g c (engineOf sh.opc)) 1 h2
  exact Kept.upd h3 ..

theorem State.enqueue_kept {r0 : State} (s : State) (g c : Nat) (w : Body) (sh : Shape) (hK : Kept r0 s)
    (hs : ∀ t q, Kept r0 t → Kept r0 (sh.effect t q).1) : Kept r0 (State.enqueue s g c w sh) := by
  unfold State.enqueue
  exact State.pump_kept _ _ (State.enqueued_kept _ _ _ _ _ hK hs)

theorem State.issueEngine_kept {r0 : State} (s : State) (g c : Nat) (w : Body) (sh : Shape) (hK : Kept r0 s)
    (hs : ∀ t q, Kept r0 t → Kept r0 (sh.effect t q).1) : Goes r0 (State.issueEngine s g c w sh) := by
  unfold State.issueEngine
  apply State.issue_kept _ _ _ _ hK
  intro t ht
  exact Kept.ite (State.rejectInstr_kept _ _ _ _ ht) (State.enqueue_kept _ _ _ _ _ ht hs)

end Sys2Proof.Machine
end

