-- ==== Sys2Proof/Laws/KeptInstr.lean ====
section
/-! SUPPORT. What each operation of the model keeps (Sched, Control, InsDma, InsArray, InsStream, InsLane). -/

namespace Sys2Proof.Machine

theorem State.setPtr_kept {r0 : State} (s : State) (j i remain : Nat) (hK : Kept r0 s) :
    Kept r0 (State.setPtr s j i remain) := by
  unfold State.setPtr
  try dsimp only
  repeat' (first
      | (with_reducible assumption) | (with_reducible apply State.setJobS_kept)
      | (with_reducible apply State.put_kept))

theorem State.loadPtr_kept {r0 : State} (s : State) (j i : Nat) (hK : Kept r0 s) :
    Kept r0 (State.loadPtr s j i) := by
  unfold State.loadPtr
  try dsimp only
  repeat' (first | (with_reducible assumption) | (with_reducible apply State.setPtr_kept))

theorem State.schedWrap_kept {r0 : State} (s : State) (j : Nat) (hK : Kept r0 s) :
    Kept r0 (State.schedWrap s j) := by
  unfold State.schedWrap
  try dsimp only
  repeat' (first
      | (with_reducible assumption) | (with_reducible apply State.put_kept)
      | (with_reducible apply State.loadPtr_kept) | (with_reducible apply Kept.ite))

theorem State.schedFlags_kept {r0 : State} (s : State) (g c fbase kind stage mb : Nat) (hK : Kept r0 s) :
    Kept r0 (State.schedFlags s g c fbase kind stage mb) := by
  unfold State.schedFlags
  try dsimp only
  repeat' (first | (with_reducible assumption) | (with_reducible apply State.put_kept))

theorem State.dropPosted_kept {r0 : State} (s : State) (j x : Nat) (hK : Kept r0 s) :
    Kept r0 (State.dropPosted s j x) := by
  unfold State.dropPosted
  try dsimp only
  repeat' (first | (with_reducible assumption) | (with_reducible apply State.setJobS_kept))

theorem State.handOut_kept {r0 : State} (s : State) (g c fbase x : Nat) (hK : Kept r0 s) :
    Kept r0 (State.handOut s g c fbase x) := by
  unfold State.handOut
  try dsimp only
  repeat' (first
      | (with_reducible assumption) | (with_reducible apply State.cqPopOne_kept)
      | (with_reducible apply State.dropPosted_kept) | (with_reducible apply State.schedFlags_kept)
      | (with_reducible apply State.inc_kept) | (with_reducible apply State.setJobS_kept)
      | (with_reducible apply State.setCtx_kept) | (with_reducible apply State.loadPtr_kept)
      | (with_reducible apply State.setPtr_kept) | (with_reducible apply State.schedWrap_kept)
      | (with_reducible apply Kept.ite))

theorem State.closeElastic_kept {r0 : State} (s : State) (g c fbase : Nat) (hK : Kept r0 s) :
    Kept r0 (State.closeElastic s g c fbase) := by
  unfold State.closeElastic
  try dsimp only
  repeat' (first
      | (with_reducible assumption) | (with_reducible apply State.schedFlags_kept)
      | (with_reducible apply State.put_kept))

theorem State.schedServe_kept {r0 : State} (s : State) (g c fbase stages : Nat) (hK : Kept r0 s) :
    ∀ u, State.schedServe s g c fbase stages = some u → Kept r0 u := by
  intro u hu
  unfold State.schedServe at hu
  split at hu
  · cases hu
    exact State.handOut_kept _ _ _ _ _ hK
  · cases hu
    exact State.closeElastic_kept _ _ _ _ hK
  · cases hu

theorem State.serveSched_kept {r0 : State} (s : State) (j : Nat) (x0 : Nat) (hK : Kept r0 s) :
    Kept r0 (State.serveSched s j x0) := by
  induction x0 generalizing s j with
  | zero =>
    unfold State.serveSched
    exact hK
  | succ n ih =>
    unfold State.serveSched
    try dsimp only
    repeat' (first
        | (with_reducible assumption) | (with_reducible apply ih)
        | (with_reducible refine State.schedServe_kept _ _ _ _ _ ?_ _ (by with_reducible assumption))
        | (with_reducible apply State.wake_kept) | (split))

theorem State.closeTokens_kept {r0 : State} (s : State) (g c : Nat) (hK : Kept r0 s) :
    Kept r0 (State.closeTokens s g c) := by
  unfold State.closeTokens
  try dsimp only
  repeat' (first | (with_reducible assumption) | (with_reducible apply State.setCtx_kept))

theorem State.postToken_kept {r0 : State} (s : State) (j x : Nat) (hK : Kept r0 s) :
    Kept r0 (State.postToken s j x) := by
  unfold State.postToken
  try dsimp only
  repeat' (first
      | (with_reducible assumption) | (with_reducible apply State.setJobS_kept)
      | (with_reducible apply State.inc_kept) | (with_reducible apply State.incSat_kept)
      | (with_reducible apply State.cqAppend_kept) | (split))

theorem State.popMany_kept {r0 : State} (s : State) (q : Nat) (x0 : Nat) (hK : Kept r0 s) :
    Kept r0 (State.popMany s q x0) := by
  induction x0 generalizing s q with
  | zero =>
    unfold State.popMany
    exact hK
  | succ n ih =>
    unfold State.popMany
    try dsimp only
    repeat' (first
        | (with_reducible assumption) | (with_reducible apply ih) | (with_reducible apply State.cqPopOne_kept))

theorem State.popComplete_kept {r0 : State} (s : State) (j x : Nat) (x0 : Nat) (hK : Kept r0 s) :
    Kept r0 (State.popComplete s j x x0) := by
  induction x0 generalizing s j x with
  | zero =>
    unfold State.popComplete
    exact hK
  | succ n ih =>
    unfold State.popComplete
    try dsimp only
    repeat' (first
        | (with_reducible assumption) | (with_reducible apply ih) | (with_reducible apply State.setJobS_kept)
        | (with_reducible apply State.popMany_kept) | (split))

theorem State.completeToken_kept {r0 : State} (s : State) (g c : Nat) (t : Token) (hK : Kept r0 s) :
    Kept r0 (State.completeToken s g c t) := by
  unfold State.completeToken
  try dsimp only
  repeat' (first
      | (with_reducible assumption) | (with_reducible apply State.setJobS_kept)
      | (with_reducible apply State.put_kept) | (with_reducible apply State.popComplete_kept)
      | (with_reducible apply Kept.ite))

theorem State.openBeat_kept {r0 : State} (s : State) (j n a : Nat) (hK : Kept r0 s) :
    Kept r0 (State.openBeat s j n a) := by
  unfold State.openBeat
  try dsimp only
  repeat' (first
      | (with_reducible assumption) | (with_reducible apply State.put_kept)
      | (with_reducible apply State.setJobS_kept))

theorem State.wakeBeat_kept {r0 : State} (s : State) (j : Nat) (hK : Kept r0 s) :
    Kept r0 (State.wakeBeat s j) := by
  unfold State.wakeBeat
  try dsimp only
  repeat' (first
      | (with_reducible assumption) | (with_reducible apply State.wake_kept)
      | (with_reducible refine Kept.foldl _ _ _ ?_ (fun t a ht => ?_)) | (split))

theorem State.issueControl_kept {r0 : State} (s : State) (g c : Nat) (checks : State → List (Bool × Nat))
    (run : State → State) (hK : Kept r0 s) (hr : ∀ t, Kept r0 t → Kept r0 (run t)) :
    Goes r0 (State.issueControl s g c checks run) := by
  unfold State.issueControl
  apply State.issue_kept _ _ _ _ hK
  intro t ht
  exact Kept.ite (State.rejectInstr_kept _ _ _ _ ht) (hr t ht)

theorem State.blockIn_kept {r0 : State} (s : State) (g c : Nat) (b : Block) (code : Nat) (hK : Kept r0 s) :
    Kept r0 (State.blockIn s g c b code) := by
  unfold State.blockIn
  try dsimp only
  repeat' (first
      | (with_reducible assumption) | (with_reducible apply State.setCtx_kept)
      | (with_reducible apply State.put_kept))

theorem execLoop_kept {r0 : State} (g c : Nat) (w : Body) (s : State) (hK : Kept r0 s) :
    Goes r0 (execLoop g c w s) := by
  unfold execLoop
  try dsimp only
  repeat' (first
      | (with_reducible assumption) | (with_reducible apply State.issueControl_kept)
      | (with_reducible apply State.setCtx_kept) | (with_reducible apply State.setPc_kept) | (intro _))

theorem execBr_kept {r0 : State} (g c : Nat) (w : Body) (s : State) (hK : Kept r0 s) :
    Goes r0 (execBr g c w s) := by
  unfold execBr
  try dsimp only
  repeat' (first
      | (with_reducible assumption) | (with_reducible apply State.issueControl_kept)
      | (with_reducible apply State.setCtx_kept) | (with_reducible apply State.setPc_kept)
      | (with_reducible apply State.advance_kept) | (with_reducible apply Kept.ite) | (intro _))

theorem execFset_kept {r0 : State} (g c : Nat) (w : Body) (s : State) (hK : Kept r0 s) :
    Goes r0 (execFset g c w s) := by
  unfold execFset
  try dsimp only
  repeat' (first
      | (with_reducible assumption) | (with_reducible apply State.issueControl_kept)
      | (with_reducible apply State.advance_kept) | (with_reducible apply State.signalFlag_kept) | (intro _))

theorem execFwait_kept {r0 : State} (g c : Nat) (w : Body) (s : State) (hK : Kept r0 s) :
    Goes r0 (execFwait g c w s) := by
  unfold execFwait
  try dsimp only
  repeat' (first
      | (with_reducible assumption) | (with_reducible apply State.issueControl_kept)
      | (with_reducible apply State.flagPut_kept) | (with_reducible apply State.advance_kept)
      | (with_reducible apply State.blockIn_kept) | (with_reducible apply State.put_kept)
      | (with_reducible apply Kept.ite) | (intro _))

theorem execQwait_kept {r0 : State} (g c : Nat) (w : Body) (s : State) (hK : Kept r0 s) :
    Goes r0 (execQwait g c w s) := by
  unfold execQwait
  try dsimp only
  repeat' (first
      | (with_reducible assumption) | (with_reducible apply State.issueControl_kept)
      | (with_reducible apply State.advance_kept) | (with_reducible apply State.blockIn_kept)
      | (with_reducible apply Kept.ite) | (intro _))

theorem State.beatInstr_kept {r0 : State} (s : State) (g c : Nat) (w : Body) (hK : Kept r0 s) :
    Goes r0 (State.beatInstr s g c w) := by
  unfold State.beatInstr
  try dsimp only
  repeat' (first
      | (with_reducible assumption) | (with_reducible apply State.issueControl_kept)
      | (with_reducible apply State.closeTokens_kept) | (with_reducible apply State.setCtx_kept)
      | (with_reducible apply State.blockIn_kept) | (with_reducible apply State.noteCurtain_kept)
      | (with_reducible apply State.advance_kept) | (with_reducible apply State.testCtx_kept)
      | (with_reducible apply Kept.ite) | (intro _))

theorem execBeatWait_kept {r0 : State} (g c : Nat) (w : Body) (s : State) (hK : Kept r0 s) :
    Goes r0 (execBeatWait g c w s) := by
  unfold execBeatWait
  try dsimp only
  repeat' (first | (with_reducible assumption) | (with_reducible apply State.beatInstr_kept))

theorem execBeatMark_kept {r0 : State} (g c : Nat) (w : Body) (s : State) (hK : Kept r0 s) :
    Goes r0 (execBeatMark g c w s) := by
  unfold execBeatMark
  try dsimp only
  repeat' (first | (with_reducible assumption) | (with_reducible apply State.beatInstr_kept))

theorem execCurtain_kept {r0 : State} (g c : Nat) (w : Body) (s : State) (hK : Kept r0 s) :
    Goes r0 (execCurtain g c w s) := by
  unfold execCurtain
  try dsimp only
  repeat' (first
      | (with_reducible assumption) | (with_reducible apply State.issueControl_kept)
      | (with_reducible apply State.setCtx_kept) | (with_reducible apply State.noteCurtain_kept)
      | (with_reducible apply State.advance_kept) | (with_reducible apply Kept.ite) | (intro _))

theorem execTstamp_kept {r0 : State} (g c : Nat) (w : Body) (s : State) (hK : Kept r0 s) :
    Goes r0 (execTstamp g c w s) := by
  unfold execTstamp
  try dsimp only
  repeat' (first
      | (with_reducible assumption) | (with_reducible apply State.issueControl_kept)
      | (with_reducible apply State.trace_kept) | (with_reducible apply State.advance_kept) | (intro _))

theorem execSched_kept {r0 : State} (g c : Nat) (w : Body) (s : State) (hK : Kept r0 s) :
    Goes r0 (execSched g c w s) := by
  unfold execSched
  try dsimp only
  repeat' (first
      | (with_reducible assumption) | (with_reducible apply State.issueControl_kept)
      | (with_reducible apply State.closeTokens_kept) | (with_reducible apply State.schedWrap_kept)
      | (with_reducible refine State.schedServe_kept _ _ _ _ _ ?_ _ (by with_reducible assumption))
      | (with_reducible apply State.advance_kept) | (with_reducible apply State.serveSched_kept)
      | (with_reducible apply State.blockIn_kept) | (intro _) | (split))

theorem execHalt_kept {r0 : State} (g c : Nat) (w : Body) (s : State) (hK : Kept r0 s) :
    Goes r0 (execHalt g c w s) := by
  unfold execHalt
  try dsimp only
  repeat' (first
      | (with_reducible assumption) | (with_reducible apply State.issueControl_kept)
      | (with_reducible apply State.closeTokens_kept) | (with_reducible apply State.setCtx_kept)
      | (with_reducible apply State.put_kept) | (with_reducible apply State.advance_kept) | (intro _))

theorem execDmv_kept {r0 : State} (g c : Nat) (w : Body) (s : State) (hK : Kept r0 s) :
    Goes r0 (execDmv g c w s) := by
  unfold execDmv
  apply State.issueEngine_kept _ _ _ _ _ hK
  intro t q ht
  dsimp only [dmvShape]
  repeat' (with_reducible assumption)

theorem execDtr_kept {r0 : State} (g c : Nat) (w : Body) (s : State) (hK : Kept r0 s) :
    Goes r0 (execDtr g c w s) := by
  unfold execDtr
  apply State.issueEngine_kept _ _ _ _ _ hK
  intro t q ht
  dsimp only [dtrShape]
  repeat' (with_reducible assumption)

theorem execDgat_kept {r0 : State} (g c : Nat) (w : Body) (s : State) (hK : Kept r0 s) :
    Goes r0 (execDgat g c w s) := by
  unfold execDgat
  apply State.issueEngine_kept _ _ _ _ _ hK
  intro t q ht
  dsimp only [indexShape]
  repeat' (with_reducible assumption)

theorem execDsct_kept {r0 : State} (g c : Nat) (w : Body) (s : State) (hK : Kept r0 s) :
    Goes r0 (execDsct g c w s) := by
  unfold execDsct
  apply State.issueEngine_kept _ _ _ _ _ hK
  intro t q ht
  dsimp only [indexShape]
  repeat' (with_reducible assumption)

theorem execDfill_kept {r0 : State} (g c : Nat) (w : Body) (s : State) (hK : Kept r0 s) :
    Goes r0 (execDfill g c w s) := by
  unfold execDfill
  apply State.issueEngine_kept _ _ _ _ _ hK
  intro t q ht
  dsimp only [dfillShape]
  repeat' (with_reducible assumption)

theorem State.noteLoad_kept {r0 : State} (s : State) (g c cls : Nat) (hK : Kept r0 s) :
    Kept r0 (State.noteLoad s g c cls) := by
  unfold State.noteLoad
  try dsimp only
  repeat' (first | (with_reducible assumption) | (with_reducible apply State.put_kept))

theorem execMwl_kept {r0 : State} (g c : Nat) (w : Body) (s : State) (hK : Kept r0 s) :
    Goes r0 (execMwl g c w s) := by
  unfold execMwl
  apply State.issueEngine_kept _ _ _ _ _ hK
  intro t q ht
  dsimp only [mwlShape]
  repeat' (first | (with_reducible assumption) | (with_reducible apply State.noteLoad_kept))

theorem execMma_kept {r0 : State} (g c : Nat) (w : Body) (s : State) (hK : Kept r0 s) :
    Goes r0 (execMma g c w s) := by
  unfold execMma
  apply State.issueEngine_kept _ _ _ _ _ hK
  intro t q ht
  dsimp only [mmaShape]
  repeat' (first
      | (with_reducible assumption) | (with_reducible apply State.noteLoad_kept) | (with_reducible apply Kept.ite))

theorem execMmx_kept {r0 : State} (g c : Nat) (w : Body) (s : State) (hK : Kept r0 s) :
    Goes r0 (execMmx g c w s) := by
  unfold execMmx
  apply State.issueEngine_kept _ _ _ _ _ hK
  intro t q ht
  dsimp only [mmaShape]
  repeat' (first
      | (with_reducible assumption) | (with_reducible apply State.noteLoad_kept) | (with_reducible apply Kept.ite))

theorem execAccp_kept {r0 : State} (g c : Nat) (w : Body) (s : State) (hK : Kept r0 s) :
    Goes r0 (execAccp g c w s) := by
  unfold execAccp
  apply State.issueEngine_kept _ _ _ _ _ hK
  intro t q ht
  dsimp only [accpShape]
  repeat' (with_reducible assumption)

theorem execAccz_kept {r0 : State} (g c : Nat) (w : Body) (s : State) (hK : Kept r0 s) :
    Goes r0 (execAccz g c w s) := by
  unfold execAccz
  apply State.issueEngine_kept _ _ _ _ _ hK
  intro t q ht
  dsimp only [acczShape]
  repeat' (with_reducible assumption)

theorem execAccd_kept {r0 : State} (g c : Nat) (w : Body) (s : State) (hK : Kept r0 s) :
    Goes r0 (execAccd g c w s) := by
  unfold execAccd
  apply State.issueEngine_kept _ _ _ _ _ hK
  intro t q ht
  dsimp only [accdShape]
  repeat' (with_reducible assumption)

theorem execAsplit_kept {r0 : State} (g c : Nat) (w : Body) (s : State) (hK : Kept r0 s) :
    Goes r0 (execAsplit g c w s) := by
  unfold execAsplit
  apply State.issueEngine_kept _ _ _ _ _ hK
  intro t q ht
  dsimp only [asplitShape]
  repeat' (first | (with_reducible assumption) | (with_reducible apply State.put_kept) | (split))

theorem State.noteSlot_kept {r0 : State} (s : State) (g c n : Nat) (hK : Kept r0 s) :
    Kept r0 (State.noteSlot s g c n) := by
  unfold State.noteSlot
  try dsimp only
  repeat' (first
      | (with_reducible assumption) | (with_reducible apply State.put_kept) | (with_reducible apply Kept.ite))

theorem State.stampSlot_kept {r0 : State} (s : State) (g c slot : Nat) (q : QEntry) (hK : Kept r0 s) :
    Kept r0 (State.stampSlot s g c slot q).1 := by
  unfold State.stampSlot
  try dsimp only
  repeat' (first | (with_reducible assumption) | (with_reducible apply State.noteSlot_kept) | (split))

theorem execSxAdd_kept {r0 : State} (g c : Nat) (w : Body) (s : State) (hK : Kept r0 s) :
    Goes r0 (execSxAdd g c w s) := by
  unfold execSxAdd
  apply State.issueEngine_kept _ _ _ _ _ hK
  intro t q ht
  dsimp only [sxShape]
  repeat' (first | (with_reducible assumption) | (with_reducible apply State.stampSlot_kept) | (split))

theorem execSxSub_kept {r0 : State} (g c : Nat) (w : Body) (s : State) (hK : Kept r0 s) :
    Goes r0 (execSxSub g c w s) := by
  unfold execSxSub
  apply State.issueEngine_kept _ _ _ _ _ hK
  intro t q ht
  dsimp only [sxShape]
  repeat' (first | (with_reducible assumption) | (with_reducible apply State.stampSlot_kept) | (split))

theorem execSxMul_kept {r0 : State} (g c : Nat) (w : Body) (s : State) (hK : Kept r0 s) :
    Goes r0 (execSxMul g c w s) := by
  unfold execSxMul
  apply State.issueEngine_kept _ _ _ _ _ hK
  intro t q ht
  dsimp only [sxShape]
  repeat' (first | (with_reducible assumption) | (with_reducible apply State.stampSlot_kept) | (split))

theorem execSxFma_kept {r0 : State} (g c : Nat) (w : Body) (s : State) (hK : Kept r0 s) :
    Goes r0 (execSxFma g c w s) := by
  unfold execSxFma
  apply State.issueEngine_kept _ _ _ _ _ hK
  intro t q ht
  dsimp only [sxShape]
  repeat' (first | (with_reducible assumption) | (with_reducible apply State.stampSlot_kept) | (split))

theorem execSxMin_kept {r0 : State} (g c : Nat) (w : Body) (s : State) (hK : Kept r0 s) :
    Goes r0 (execSxMin g c w s) := by
  unfold execSxMin
  apply State.issueEngine_kept _ _ _ _ _ hK
  intro t q ht
  dsimp only [sxShape]
  repeat' (first | (with_reducible assumption) | (with_reducible apply State.stampSlot_kept) | (split))

theorem execSxMax_kept {r0 : State} (g c : Nat) (w : Body) (s : State) (hK : Kept r0 s) :
    Goes r0 (execSxMax g c w s) := by
  unfold execSxMax
  apply State.issueEngine_kept _ _ _ _ _ hK
  intro t q ht
  dsimp only [sxShape]
  repeat' (first | (with_reducible assumption) | (with_reducible apply State.stampSlot_kept) | (split))

theorem execSxCmp_kept {r0 : State} (g c : Nat) (w : Body) (s : State) (hK : Kept r0 s) :
    Goes r0 (execSxCmp g c w s) := by
  unfold execSxCmp
  apply State.issueEngine_kept _ _ _ _ _ hK
  intro t q ht
  dsimp only [sxShape]
  repeat' (first | (with_reducible assumption) | (with_reducible apply State.stampSlot_kept) | (split))

theorem execSxSel_kept {r0 : State} (g c : Nat) (w : Body) (s : State) (hK : Kept r0 s) :
    Goes r0 (execSxSel g c w s) := by
  unfold execSxSel
  apply State.issueEngine_kept _ _ _ _ _ hK
  intro t q ht
  dsimp only [sxShape]
  repeat' (first | (with_reducible assumption) | (with_reducible apply State.stampSlot_kept) | (split))

theorem execSxAbs_kept {r0 : State} (g c : Nat) (w : Body) (s : State) (hK : Kept r0 s) :
    Goes r0 (execSxAbs g c w s) := by
  unfold execSxAbs
  apply State.issueEngine_kept _ _ _ _ _ hK
  intro t q ht
  dsimp only [sxShape]
  repeat' (first | (with_reducible assumption) | (with_reducible apply State.stampSlot_kept) | (split))

theorem execSxCvt_kept {r0 : State} (g c : Nat) (w : Body) (s : State) (hK : Kept r0 s) :
    Goes r0 (execSxCvt g c w s) := by
  unfold execSxCvt
  apply State.issueEngine_kept _ _ _ _ _ hK
  intro t q ht
  dsimp only [sxShape]
  repeat' (first | (with_reducible assumption) | (with_reducible apply State.stampSlot_kept) | (split))

theorem execSxClamp_kept {r0 : State} (g c : Nat) (w : Body) (s : State) (hK : Kept r0 s) :
    Goes r0 (execSxClamp g c w s) := by
  unfold execSxClamp
  apply State.issueEngine_kept _ _ _ _ _ hK
  intro t q ht
  dsimp only [sxShape]
  repeat' (first | (with_reducible assumption) | (with_reducible apply State.stampSlot_kept) | (split))

theorem execSxSfn_kept {r0 : State} (g c : Nat) (w : Body) (s : State) (hK : Kept r0 s) :
    Goes r0 (execSxSfn g c w s) := by
  unfold execSxSfn
  apply State.issueEngine_kept _ _ _ _ _ hK
  intro t q ht
  dsimp only [sxShape]
  repeat' (first | (with_reducible assumption) | (with_reducible apply State.stampSlot_kept) | (split))

theorem execUpd_kept {r0 : State} (g c : Nat) (w : Body) (s : State) (hK : Kept r0 s) :
    Goes r0 (execUpd g c w s) := by
  unfold execUpd
  apply State.issueEngine_kept _ _ _ _ _ hK
  intro t q ht
  dsimp only [updShape]
  repeat' (with_reducible assumption)

theorem execLvVl_kept {r0 : State} (g c : Nat) (w : Body) (s : State) (hK : Kept r0 s) :
    Goes r0 (execLvVl g c w s) := by
  unfold execLvVl
  apply State.issueEngine_kept _ _ _ _ _ hK
  intro t q ht
  dsimp only [lvVlShape, laneShape]
  repeat' (with_reducible assumption)

theorem execLvLd_kept {r0 : State} (g c : Nat) (w : Body) (s : State) (hK : Kept r0 s) :
    Goes r0 (execLvLd g c w s) := by
  unfold execLvLd
  apply State.issueEngine_kept _ _ _ _ _ hK
  intro t q ht
  dsimp only [lvLdShape, laneShape]
  repeat' (with_reducible assumption)

theorem execLvSt_kept {r0 : State} (g c : Nat) (w : Body) (s : State) (hK : Kept r0 s) :
    Goes r0 (execLvSt g c w s) := by
  unfold execLvSt
  apply State.issueEngine_kept _ _ _ _ _ hK
  intro t q ht
  dsimp only [lvStShape, laneShape]
  repeat' (with_reducible assumption)

theorem execLvAdd_kept {r0 : State} (g c : Nat) (w : Body) (s : State) (hK : Kept r0 s) :
    Goes r0 (execLvAdd g c w s) := by
  unfold execLvAdd
  apply State.issueEngine_kept _ _ _ _ _ hK
  intro t q ht
  dsimp only [lvAddShape, laneShape]
  repeat' (with_reducible assumption)

theorem execLvMul_kept {r0 : State} (g c : Nat) (w : Body) (s : State) (hK : Kept r0 s) :
    Goes r0 (execLvMul g c w s) := by
  unfold execLvMul
  apply State.issueEngine_kept _ _ _ _ _ hK
  intro t q ht
  dsimp only [lvMulShape, laneShape]
  repeat' (with_reducible assumption)

theorem execLvFma_kept {r0 : State} (g c : Nat) (w : Body) (s : State) (hK : Kept r0 s) :
    Goes r0 (execLvFma g c w s) := by
  unfold execLvFma
  apply State.issueEngine_kept _ _ _ _ _ hK
  intro t q ht
  dsimp only [lvFmaShape, laneShape]
  repeat' (with_reducible assumption)

theorem execLvMax_kept {r0 : State} (g c : Nat) (w : Body) (s : State) (hK : Kept r0 s) :
    Goes r0 (execLvMax g c w s) := by
  unfold execLvMax
  apply State.issueEngine_kept _ _ _ _ _ hK
  intro t q ht
  dsimp only [lvMaxShape, laneShape]
  repeat' (with_reducible assumption)

theorem execLvMin_kept {r0 : State} (g c : Nat) (w : Body) (s : State) (hK : Kept r0 s) :
    Goes r0 (execLvMin g c w s) := by
  unfold execLvMin
  apply State.issueEngine_kept _ _ _ _ _ hK
  intro t q ht
  dsimp only [lvMinShape, laneShape]
  repeat' (with_reducible assumption)

theorem execLvRed_kept {r0 : State} (g c : Nat) (w : Body) (s : State) (hK : Kept r0 s) :
    Goes r0 (execLvRed g c w s) := by
  unfold execLvRed
  apply State.issueEngine_kept _ _ _ _ _ hK
  intro t q ht
  dsimp only [lvRedShape, laneShape]
  repeat' (with_reducible assumption)

theorem execLperm_kept {r0 : State} (g c : Nat) (w : Body) (s : State) (hK : Kept r0 s) :
    Goes r0 (execLperm g c w s) := by
  unfold execLperm
  apply State.issueEngine_kept _ _ _ _ _ hK
  intro t q ht
  dsimp only [lpermShape, laneShape]
  repeat' (with_reducible assumption)

theorem State.noteScan_kept {r0 : State} (s : State) (g c : Nat) (w : Body) (hK : Kept r0 s) :
    Kept r0 (State.noteScan s g c w) := by
  unfold State.noteScan
  try dsimp only
  repeat' (first | (with_reducible assumption) | (with_reducible apply State.put_kept))

theorem execLscan_kept {r0 : State} (g c : Nat) (w : Body) (s : State) (hK : Kept r0 s) :
    Goes r0 (execLscan g c w s) := by
  unfold execLscan
  apply State.issueEngine_kept _ _ _ _ _ hK
  intro t q ht
  dsimp only [lscanShape, laneShape]
  repeat' (first | (with_reducible assumption) | (with_reducible apply State.noteScan_kept))

theorem execLstat_kept {r0 : State} (g c : Nat) (w : Body) (s : State) (hK : Kept r0 s) :
    Goes r0 (execLstat g c w s) := by
  unfold execLstat
  apply State.issueEngine_kept _ _ _ _ _ hK
  intro t q ht
  dsimp only [lstatShape, laneShape]
  repeat' (with_reducible assumption)

theorem execLsoftmax_kept {r0 : State} (g c : Nat) (w : Body) (s : State) (hK : Kept r0 s) :
    Goes r0 (execLsoftmax g c w s) := by
  unfold execLsoftmax
  apply State.issueEngine_kept _ _ _ _ _ hK
  intro t q ht
  dsimp only [lsoftmaxShape, laneShape]
  repeat' (first
      | (with_reducible assumption) | (with_reducible apply Kept.ite) | (with_reducible apply State.put_kept))

theorem execSfn_kept {r0 : State} (g c : Nat) (w : Body) (s : State) (hK : Kept r0 s) :
    Goes r0 (execSfn g c w s) := by
  unfold execSfn
  apply State.issueEngine_kept _ _ _ _ _ hK
  intro t q ht
  dsimp only [sfnShape, laneShape]
  repeat' (first | (with_reducible assumption) | (with_reducible apply State.stampSlot_kept))

theorem execTload_kept {r0 : State} (g c : Nat) (w : Body) (s : State) (hK : Kept r0 s) :
    Goes r0 (execTload g c w s) := by
  unfold execTload
  apply State.issueEngine_kept _ _ _ _ _ hK
  intro t q ht
  dsimp only [tloadShape, laneShape]
  repeat' (first
      | (with_reducible assumption) | (with_reducible apply State.noteSlot_kept)
      | (with_reducible apply State.put_kept))

theorem execTswap_kept {r0 : State} (g c : Nat) (w : Body) (s : State) (hK : Kept r0 s) :
    Goes r0 (execTswap g c w s) := by
  unfold execTswap
  apply State.issueEngine_kept _ _ _ _ _ hK
  intro t q ht
  dsimp only [tswapShape, laneShape]
  repeat' (first
      | (with_reducible assumption) | (with_reducible apply State.noteSlot_kept)
      | (with_reducible apply State.put_kept))

end Sys2Proof.Machine
end

