-- ==== Sys2Proof/Laws/KeptJobs.lean ====
section
/-! SUPPORT. What each operation of the model keeps (Crossings, Jobs, ArrayEvents, EngineEvents, VectorEvents, Scratch). -/

namespace Sys2Proof.Machine

theorem State.setCrossing_kept {r0 : State} (s : State) (i : Nat) (l : List XWord) (hK : Kept r0 s) :
    Kept r0 (State.setCrossing s i l) := by
  unfold State.setCrossing
  try dsimp only
  repeat' (first | (with_reducible assumption) | (fail_if_no_progress (with_reducible apply Kept.upd)))

theorem State.pushWord_kept {r0 : State} (s : State) (off : Nat) (w : XWord) (hK : Kept r0 s) :
    Kept r0 (State.pushWord s off w) := by
  unfold State.pushWord
  try dsimp only
  repeat' (first | (with_reducible assumption) | (with_reducible apply State.setCrossing_kept) | (split))

theorem State.atIsland_kept {r0 : State} (s : State) (off val : Nat) (f : State → State) (hK : Kept r0 s) (hf : ∀
    c0, Kept r0 c0 → Kept r0 (f c0)) :
    Kept r0 (State.atIsland s off val f) := by
  unfold State.atIsland
  try dsimp only
  repeat' (first
      | (with_reducible assumption) | (with_reducible apply hf) | (with_reducible apply State.pushWord_kept)
      | (with_reducible apply Kept.ite))

theorem State.beginShared_kept {r0 : State} (s : State) (g : Nat) (alone : Option Nat) (hK : Kept r0 s) :
    Kept r0 (State.beginShared s g alone) := by
  unfold State.beginShared
  try dsimp only
  repeat' (first
      | (with_reducible assumption) | (with_reducible apply State.put_kept)
      | (with_reducible apply State.setCore_kept) | (with_reducible refine Kept.foldl _ _ _ ?_ (fun t a ht => ?_))
      | (split))

theorem State.endShared_kept {r0 : State} (s : State) (g : Nat) (rest : Option Nat) (hK : Kept r0 s) :
    Kept r0 (State.endShared s g rest) := by
  unfold State.endShared
  try dsimp only
  repeat' (first
      | (with_reducible assumption) | (with_reducible apply State.put_kept)
      | (with_reducible apply State.setCore_kept) | (with_reducible refine Kept.foldl _ _ _ ?_ (fun t a ht => ?_))
      | (split))

theorem State.noteBinding_kept {r0 : State} (s : State) (g : Nat) (alone : Option Nat) (hK : Kept r0 s) :
    Kept r0 (State.noteBinding s g alone) := by
  unfold State.noteBinding
  try dsimp only
  repeat' (first
      | (with_reducible assumption) | (with_reducible apply State.beginShared_kept)
      | (with_reducible apply State.endShared_kept) | (with_reducible apply Kept.ite))

theorem State.clearSlots_kept {r0 : State} (s : State) (g : Nat) (slots : List Nat) (hK : Kept r0 s) :
    Kept r0 (State.clearSlots s g slots) := by
  unfold State.clearSlots
  try dsimp only
  repeat' (first | (with_reducible assumption) | (with_reducible apply State.put_kept))

theorem State.endFence_kept {r0 : State} (s : State) (g c : Nat) (hK : Kept r0 s) :
    Kept r0 (State.endFence s g c) := by
  unfold State.endFence
  try dsimp only
  repeat' (first
      | (with_reducible assumption) | (with_reducible apply State.put_kept)
      | (with_reducible refine Kept.foldl _ _ _ ?_ (fun t a ht => ?_)))

theorem State.emptyRing_kept {r0 : State} (s : State) (g c : Nat) (hK : Kept r0 s) :
    Kept r0 (State.emptyRing s g c) := by
  unfold State.emptyRing
  try dsimp only
  repeat' (first
      | (with_reducible assumption) | (with_reducible apply State.setRing_kept)
      | (with_reducible apply State.put_kept))

theorem State.unbindCtx_kept {r0 : State} (s : State) (g c : Nat) (hK : Kept r0 s) :
    Kept r0 (State.unbindCtx s g c) := by
  unfold State.unbindCtx
  try dsimp only
  repeat' (first
      | (with_reducible assumption) | (with_reducible apply State.clearRegs_kept)
      | (with_reducible apply State.emptyRing_kept) | (with_reducible apply State.setCtx_kept)
      | (with_reducible apply State.dropQueues_kept) | (with_reducible apply State.endFence_kept)
      | (with_reducible apply State.doSplit_kept) | (with_reducible apply State.clearSlots_kept)
      | (with_reducible apply State.noteBinding_kept) | (with_reducible apply Kept.ite))

theorem State.bindCtx_kept {r0 : State} (s : State) (g c j : Nat) (hK : Kept r0 s) :
    Kept r0 (State.bindCtx s g c j) := by
  unfold State.bindCtx
  try dsimp only
  repeat' (first
      | (with_reducible assumption) | (with_reducible apply State.put_kept)
      | (with_reducible apply State.clearSlots_kept) | (with_reducible apply State.noteBinding_kept)
      | (with_reducible apply Kept.ite))

theorem State.setMask_kept {r0 : State} (s : State) (j m : Nat) (hK : Kept r0 s) :
    Kept r0 (State.setMask s j m) := by
  unfold State.setMask
  try dsimp only
  repeat' (first
      | (with_reducible assumption) | (with_reducible apply State.unbindCtx_kept)
      | (with_reducible apply State.bindCtx_kept) | (with_reducible apply State.put_kept)
      | (with_reducible refine Kept.foldl _ _ _ ?_ (fun t a ht => ?_)))

theorem State.writeMask_kept {r0 : State} (s : State) (j m : Nat) (hK : Kept r0 s) :
    Kept r0 (State.writeMask s j m) := by
  unfold State.writeMask
  try dsimp only
  repeat' (first
      | (with_reducible assumption) | (with_reducible apply State.setMask_kept)
      | (with_reducible apply State.reject_kept) | (with_reducible apply Kept.ite))

theorem execJobCtxMaskBind_kept {r0 : State} (j mask : Nat) (s : State) (hK : Kept r0 s) :
    Goes r0 (execJobCtxMaskBind j mask s) := by
  unfold execJobCtxMaskBind
  try dsimp only
  repeat' (first
      | (with_reducible assumption) | (with_reducible apply State.barWrite_kept)
      | (with_reducible apply State.writeMask_kept) | (with_reducible apply Goes.inUnits)
      | (with_reducible apply Goes.next) | (intro _))

theorem execJobCtxMaskUnbind_kept {r0 : State} (j : Nat) (s : State) (hK : Kept r0 s) :
    Goes r0 (execJobCtxMaskUnbind j s) := by
  unfold execJobCtxMaskUnbind
  try dsimp only
  repeat' (first
      | (with_reducible assumption) | (with_reducible apply State.barWrite_kept)
      | (with_reducible apply State.writeMask_kept) | (with_reducible apply Goes.inUnits)
      | (with_reducible apply Goes.next) | (intro _))

theorem State.resetLane_kept {r0 : State} (s : State) (g c : Nat) (hK : Kept r0 s) :
    Kept r0 (State.resetLane s g c) := by
  unfold State.resetLane
  try dsimp only
  repeat' (first
      | (with_reducible assumption) | (with_reducible apply State.bumpFree_kept)
      | (with_reducible apply State.setCore_kept) | (with_reducible apply State.put_kept)
      | (with_reducible apply Kept.ite) | (with_reducible refine Kept.foldl _ _ _ ?_ (fun t a ht => ?_)))

theorem State.freshCtx_kept {r0 : State} (s : State) (g c : Nat) (hK : Kept r0 s) :
    Kept r0 (State.freshCtx s g c) := by
  unfold State.freshCtx
  try dsimp only
  repeat' (first
      | (with_reducible assumption) | (with_reducible apply State.resetLane_kept)
      | (with_reducible apply State.endFence_kept) | (with_reducible apply State.put_kept)
      | (with_reducible apply Kept.ite))

theorem State.startJob_kept {r0 : State} (s : State) (j : Nat) (hK : Kept r0 s) :
    Kept r0 (State.startJob s j) := by
  unfold State.startJob
  try dsimp only
  repeat' (first
      | (with_reducible assumption) | (with_reducible apply State.freshCtx_kept)
      | (with_reducible apply State.clearSlots_kept) | (with_reducible apply State.setCtx_kept)
      | (with_reducible apply State.put_kept) | (with_reducible apply State.setSn_kept)
      | (with_reducible apply State.loadPtr_kept) | (with_reducible apply State.openBeat_kept)
      | (with_reducible apply State.setJobS_kept) | (with_reducible apply Kept.ite)
      | (with_reducible refine Kept.foldl _ _ _ ?_ (fun t a ht => ?_))
      | (fail_if_no_progress (with_reducible apply Kept.upd)))

theorem State.haltJob_kept {r0 : State} (s : State) (j : Nat) (hK : Kept r0 s) :
    Kept r0 (State.haltJob s j) := by
  unfold State.haltJob
  try dsimp only
  repeat' (first | (with_reducible assumption) | (with_reducible apply State.stopJob_kept))

theorem State.freeFrames_kept {r0 : State} (s : State) (j : Nat) (h : Kept r0 s) : Kept r0 (State.freeFrames s j) :=
  h.trans ⟨rfl, fun c => ⟨c.1, c.2.1, c.2.2.1, Tab.filter_wf _ _ _ c.2.2.2.1, c.2.2.2.2⟩⟩

theorem State.endDoubling_kept {r0 : State} (s : State) (g : Nat) (hK : Kept r0 s) :
    Kept r0 (State.endDoubling s g) := by
  unfold State.endDoubling
  try dsimp only
  repeat' (first
      | (with_reducible assumption) | (with_reducible apply State.put_kept) | (with_reducible apply Kept.ite)
      | (fail_if_no_progress (with_reducible apply Kept.upd)))

theorem State.releaseJob_kept {r0 : State} (s : State) (j : Nat) (hK : Kept r0 s) :
    Kept r0 (State.releaseJob s j) := by
  unfold State.releaseJob
  try dsimp only
  repeat' (first
      | (with_reducible assumption) | (with_reducible apply State.clearSlots_kept)
      | (with_reducible apply State.unbindCtx_kept) | (with_reducible apply State.endDoubling_kept)
      | (with_reducible apply State.clearRegs_kept) | (with_reducible apply State.put_kept)
      | (with_reducible apply State.setSn_kept) | (with_reducible apply State.setJobS_kept)
      | (with_reducible apply State.freeFrames_kept) | (with_reducible apply State.cqReset_kept)
      | (with_reducible refine Kept.foldl _ _ _ ?_ (fun t a ht => ?_))
      | (fail_if_no_progress (with_reducible apply Kept.upd)))

theorem State.runJobCmd_kept {r0 : State} (s : State) (j cmd : Nat) (hK : Kept r0 s) :
    Kept r0 (State.runJobCmd s j cmd) := by
  unfold State.runJobCmd
  try dsimp only
  repeat' (first
      | (with_reducible assumption) | (with_reducible apply State.startJob_kept)
      | (with_reducible apply State.haltJob_kept) | (with_reducible apply State.releaseJob_kept) | (split))

theorem State.writeJobCtrl_kept {r0 : State} (s : State) (j cmd : Nat) (hK : Kept r0 s) :
    Kept r0 (State.writeJobCtrl s j cmd) := by
  unfold State.writeJobCtrl
  try dsimp only
  repeat' (first
      | (with_reducible assumption) | (with_reducible apply State.runJobCmd_kept)
      | (with_reducible apply State.reject_kept) | (with_reducible apply Kept.ite))

theorem execStart_kept {r0 : State} (j : Nat) (s : State) (hK : Kept r0 s) :
    Goes r0 (execStart j s) := by
  unfold execStart
  try dsimp only
  repeat' (first
      | (with_reducible assumption) | (with_reducible apply State.barWrite_kept)
      | (with_reducible apply State.writeJobCtrl_kept) | (with_reducible apply Goes.inUnits)
      | (with_reducible apply Goes.next) | (intro _))

theorem execHaltCommand_kept {r0 : State} (j : Nat) (s : State) (hK : Kept r0 s) :
    Goes r0 (execHaltCommand j s) := by
  unfold execHaltCommand
  try dsimp only
  repeat' (first
      | (with_reducible assumption) | (with_reducible apply State.barWrite_kept)
      | (with_reducible apply State.writeJobCtrl_kept) | (with_reducible apply Goes.inUnits)
      | (with_reducible apply Goes.next) | (intro _))

theorem execRelease_kept {r0 : State} (j : Nat) (s : State) (hK : Kept r0 s) :
    Goes r0 (execRelease j s) := by
  unfold execRelease
  try dsimp only
  repeat' (first
      | (with_reducible assumption) | (with_reducible apply State.barWrite_kept)
      | (with_reducible apply State.writeJobCtrl_kept) | (with_reducible apply Goes.inUnits)
      | (with_reducible apply Goes.next) | (intro _))

theorem State.hostAdd_kept {r0 : State} (s : State) (j idx n : Nat) (ring : Option Nat) (hK : Kept r0 s) :
    Kept r0 (State.hostAdd s j idx n ring) := by
  unfold State.hostAdd
  try dsimp only
  repeat' (first
      | (with_reducible assumption) | (with_reducible apply State.setSn_kept)
      | (with_reducible apply State.applyHeld_kept) | (with_reducible apply Kept.ite))

theorem State.writeFlagAdd_kept {r0 : State} (s : State) (j idx n : Nat) (hK : Kept r0 s) :
    Kept r0 (State.writeFlagAdd s j idx n) := by
  unfold State.writeFlagAdd
  try dsimp only
  repeat' (first
      | (with_reducible assumption) | (with_reducible apply State.hostAdd_kept)
      | (with_reducible apply State.reject_kept) | (with_reducible apply Kept.ite))

theorem execJobFlagAdd_kept {r0 : State} (j idx add : Nat) (s : State) (hK : Kept r0 s) :
    Goes r0 (execJobFlagAdd j idx add s) := by
  unfold execJobFlagAdd
  try dsimp only
  repeat' (first
      | (with_reducible assumption) | (with_reducible apply State.barWrite_kept)
      | (with_reducible apply State.writeFlagAdd_kept) | (with_reducible apply Goes.inUnits)
      | (with_reducible apply Goes.next) | (intro _))

theorem State.feedCore_kept {r0 : State} (s : State) (x : At) (x0 : Nat) (hK : Kept r0 s) :
    Kept r0 (State.feedCore s x x0) := by
  induction x0 generalizing s x with
  | zero =>
    unfold State.feedCore
    exact hK
  | succ n ih =>
    unfold State.feedCore
    try dsimp only
    repeat' (first
        | (with_reducible assumption) | (with_reducible apply ih) | (with_reducible apply State.beginIter_kept)
        | (with_reducible apply State.setEntry_kept) | (with_reducible apply State.opErr_kept)
        | (with_reducible refine Yields.out ?_ (by with_reducible assumption)) | (split))

theorem State.feed_kept {r0 : State} (s : State) (g : Nat) (hK : Kept r0 s) :
    Kept r0 (State.feed s g) := by
  unfold State.feed
  try dsimp only
  repeat' (first
      | (with_reducible assumption) | (with_reducible apply State.feedCore_kept)
      | (with_reducible apply State.pump_kept) | (with_reducible refine Kept.foldl _ _ _ ?_ (fun t a ht => ?_)))

theorem rowsEnded_kept {r0 : State} (x : At) (q : QEntry) (r : State × TileStep × RowsEnd) (hK : Kept r0 r.1) :
    Kept r0 (rowsEnded x q r) := by
  unfold rowsEnded
  have h := State.setOldest_kept _ x r.2.1 hK
  dsimp only
  split
  · exact State.opErr_kept _ _ _ _ _ h
  · exact h
  · exact h

theorem State.stepRetires_kept {r0 : State} (s : State) (x : At) (st : TileStep) (q : QEntry) (hK : Kept r0 s) :
    Kept r0 (State.stepRetires s x st q) := by
  unfold State.stepRetires
  try dsimp only
  repeat' (first
      | (with_reducible assumption) | (with_reducible apply State.popStep_kept)
      | (with_reducible apply State.setEntry_kept) | (with_reducible apply State.feed_kept))

theorem State.iterRetire_kept {r0 : State} (s : State) (x : At) (hK : Kept r0 s) : Kept r0 (State.iterRetire s x) := by
  unfold State.iterRetire
  have h := State.feed_kept s x.g hK
  dsimp only
  split
  · exact h
  · next st q _ =>
    split
    · exact h
    · have k := State.writeStep_kept (s.feed x.g) x q st h
      split
      · exact State.stepRetires_kept _ _ _ _ k
      · exact rowsEnded_kept _ _ _ k

theorem execIterationRetire_kept {r0 : State} (g c cx : Nat) (s : State) (hK : Kept r0 s) :
    Goes r0 (execIterationRetire g c cx s) := by
  unfold execIterationRetire
  try dsimp only
  repeat' (first
      | (with_reducible assumption) | (with_reducible apply State.iterRetire_kept)
      | (with_reducible apply Goes.inUnits) | (with_reducible apply Goes.next))

theorem State.spillOf_kept {r0 : State} (s : State) (x : At) (st : TileStep) (q : QEntry) (hK : Kept r0 s) :
    Kept r0 (State.spillOf s x st q).1 := by
  unfold State.spillOf
  try dsimp only
  repeat' (first | (with_reducible assumption) | (with_reducible apply State.writeStep_kept) | (split))

theorem State.overflowReplay_kept {r0 : State} (s : State) (x : At) (hK : Kept r0 s) :
    Kept r0 (State.overflowReplay s x) := by
  unfold State.overflowReplay
  have h := State.feed_kept s x.g hK
  dsimp only
  split
  · exact h
  · next st q _ =>
    have k := State.spillOf_kept (s.feed x.g) x st q h
    split
    · exact h
    · exact rowsEnded_kept _ _ _ k
    · exact rowsEnded_kept _ _ _ (State.replayStep_kept _ _ _ _ _ k)

theorem execAccOverflowReplay_kept {r0 : State} (g c cx : Nat) (s : State) (hK : Kept r0 s) :
    Goes r0 (execAccOverflowReplay g c cx s) := by
  unfold execAccOverflowReplay
  try dsimp only
  repeat' (first
      | (with_reducible assumption) | (with_reducible apply State.overflowReplay_kept)
      | (with_reducible apply Goes.inUnits) | (with_reducible apply Goes.next))

theorem State.loadDone_kept {r0 : State} (s : State) (x : At) (hK : Kept r0 s) :
    Kept r0 (State.loadDone s x) := by
  unfold State.loadDone
  try dsimp only
  repeat' (first
      | (with_reducible assumption) | (with_reducible apply State.feed_kept)
      | (with_reducible apply State.loadIter_kept) | (with_reducible apply State.opErr_kept)
      | (with_reducible apply State.setEntry_kept)
      | (with_reducible refine Yields.out ?_ (by with_reducible assumption)) | (split))

theorem execWeightLoadDone_kept {r0 : State} (g c cx : Nat) (s : State) (hK : Kept r0 s) :
    Goes r0 (execWeightLoadDone g c cx s) := by
  unfold execWeightLoadDone
  try dsimp only
  repeat' (first
      | (with_reducible assumption) | (with_reducible apply State.loadDone_kept)
      | (with_reducible apply Goes.inUnits) | (with_reducible apply Goes.next))

theorem execLatchRewrite_kept {r0 : State} (g cx : Nat) (s : State) (hK : Kept r0 s) :
    Goes r0 (execLatchRewrite g cx s) := by
  unfold execLatchRewrite
  try dsimp only
  repeat' (first
      | (with_reducible assumption) | (with_reducible apply State.setCore_kept)
      | (with_reducible apply State.inc_kept) | (with_reducible apply State.feed_kept)
      | (with_reducible apply Goes.inUnits) | (with_reducible apply Goes.next) | (with_reducible apply Kept.ite))

theorem execSharedModeCopy_kept {r0 : State} (g cx : Nat) (s : State) (hK : Kept r0 s) :
    Goes r0 (execSharedModeCopy g cx s) := by
  unfold execSharedModeCopy
  try dsimp only
  repeat' (first
      | (with_reducible assumption) | (with_reducible apply State.setCore_kept)
      | (with_reducible apply State.feed_kept) | (with_reducible apply Goes.inUnits)
      | (with_reducible apply Goes.next) | (with_reducible apply Kept.ite))

theorem State.beginRise_kept {r0 : State} (s : State) (g cx h : Nat) (hK : Kept r0 s) :
    Kept r0 (State.beginRise s g cx h) := by
  unfold State.beginRise
  try dsimp only
  repeat' (first
      | (with_reducible assumption) | (with_reducible apply State.put_kept) | (with_reducible apply State.inc_kept)
      | (with_reducible apply Kept.ite))

theorem State.drumRise_kept {r0 : State} (s : State) (g h : Nat) (hK : Kept r0 s) :
    Kept r0 (State.drumRise s g h) := by
  unfold State.drumRise
  try dsimp only
  repeat' (first
      | (with_reducible assumption) | (with_reducible apply State.incSat_kept)
      | (with_reducible apply State.beginRise_kept) | (with_reducible refine Kept.foldl _ _ _ ?_ (fun t a ht => ?_))
      | (split))

theorem execDrumrollRise_kept {r0 : State} (g h : Nat) (s : State) (hK : Kept r0 s) :
    Goes r0 (execDrumrollRise g h s) := by
  unfold execDrumrollRise
  try dsimp only
  repeat' (first
      | (with_reducible assumption) | (with_reducible apply State.drumRise_kept)
      | (with_reducible apply Goes.inUnits) | (with_reducible apply Goes.next) | (with_reducible apply Kept.ite))

theorem State.drumStep_kept {r0 : State} (s : State) (g cx h : Nat) (hK : Kept r0 s) :
    Kept r0 (State.drumStep s g cx h) := by
  unfold State.drumStep
  try dsimp only
  repeat' (first
      | (with_reducible assumption) | (with_reducible apply State.put_kept)
      | (with_reducible apply State.setCore_kept) | (split))

theorem execDrumrollLevelStep_kept {r0 : State} (g cx h : Nat) (s : State) (hK : Kept r0 s) :
    Goes r0 (execDrumrollLevelStep g cx h s) := by
  unfold execDrumrollLevelStep
  try dsimp only
  repeat' (first
      | (with_reducible assumption) | (with_reducible apply State.drumStep_kept)
      | (with_reducible apply State.feed_kept) | (with_reducible apply Goes.inUnits)
      | (with_reducible apply Goes.next))

theorem execDrumrollFall_kept {r0 : State} (g cx h : Nat) (s : State) (hK : Kept r0 s) :
    Goes r0 (execDrumrollFall g cx h s) := by
  unfold execDrumrollFall
  try dsimp only
  repeat' (first
      | (with_reducible assumption) | (with_reducible apply State.put_kept) | (with_reducible apply Goes.inUnits)
      | (with_reducible apply Goes.next) | (with_reducible apply Kept.ite))

theorem State.fence_kept {r0 : State} (s : State) (g h : Nat) (hK : Kept r0 s) :
    Kept r0 (State.fence s g h) := by
  unfold State.fence
  try dsimp only
  repeat' (first
      | (with_reducible assumption) | (with_reducible apply State.clearInflight_kept)
      | (with_reducible apply State.put_kept) | (with_reducible apply State.accUnspec_kept)
      | (with_reducible refine Kept.foldl _ _ _ ?_ (fun t a ht => ?_)))

theorem State.halfFence_kept {r0 : State} (s : State) (g h : Nat) (parity : Bool) (hK : Kept r0 s) :
    Kept r0 (State.halfFence s g h parity) := by
  unfold State.halfFence
  try dsimp only
  repeat' (first
      | (with_reducible assumption) | (with_reducible apply State.fence_kept)
      | (with_reducible apply State.coreErr_kept) | (with_reducible apply Kept.ite))

theorem execHalfFence_kept {r0 : State} (g h : Nat) (parity : Bool) (s : State) (hK : Kept r0 s) :
    Goes r0 (execHalfFence g h parity s) := by
  unfold execHalfFence
  try dsimp only
  repeat' (first
      | (with_reducible assumption) | (with_reducible apply State.halfFence_kept)
      | (with_reducible apply Goes.inUnits) | (with_reducible apply Goes.next))

theorem State.writeArrCfg_kept {r0 : State} (s : State) (g cx val : Nat) (hK : Kept r0 s) :
    Kept r0 (State.writeArrCfg s g cx val) := by
  unfold State.writeArrCfg
  try dsimp only
  repeat' (first
      | (with_reducible assumption) | (with_reducible apply State.reject_kept)
      | (with_reducible apply State.put_kept) | (with_reducible apply Kept.ite))

theorem execArrCfgNarrow_kept {r0 : State} (g cx val : Nat) (s : State) (hK : Kept r0 s) :
    Goes r0 (execArrCfgNarrow g cx val s) := by
  unfold execArrCfgNarrow
  try dsimp only
  repeat' (first
      | (with_reducible assumption) | (with_reducible apply State.barWrite_kept)
      | (with_reducible apply State.atIsland_kept) | (with_reducible apply State.writeArrCfg_kept)
      | (with_reducible apply Goes.inUnits) | (with_reducible apply Goes.next) | (intro _))

theorem State.waitDone_kept {r0 : State} (s : State) (g c e : Nat) (hK : Kept r0 s) :
    Kept r0 (State.waitDone s g c e) := by
  unfold State.waitDone
  try dsimp only
  repeat' (first
      | (with_reducible assumption) | (with_reducible apply State.flagPut_kept)
      | (with_reducible apply State.setEntry_kept) | (with_reducible apply State.pump_kept)
      | (with_reducible apply State.serveFlag_kept) | (split))

theorem execEngineWaitSatisfied_kept {r0 : State} (g c e : Nat) (s : State) (hK : Kept r0 s) :
    Goes r0 (execEngineWaitSatisfied g c e s) := by
  unfold execEngineWaitSatisfied
  try dsimp only
  repeat' (first
      | (with_reducible assumption) | (with_reducible apply State.waitDone_kept)
      | (with_reducible apply Goes.inUnits) | (with_reducible apply Goes.next))

theorem execEngineWaitTimeout_kept {r0 : State} (g c e : Nat) (s : State) (hK : Kept r0 s) :
    Goes r0 (execEngineWaitTimeout g c e s) := by
  unfold execEngineWaitTimeout
  try dsimp only
  repeat' (first
      | (with_reducible assumption) | (with_reducible apply State.ctxErr_kept) | (with_reducible apply Goes.inUnits)
      | (with_reducible apply Goes.next) | (split))

theorem execFwaitTimeout_kept {r0 : State} (g c : Nat) (s : State) (hK : Kept r0 s) :
    Goes r0 (execFwaitTimeout g c s) := by
  unfold execFwaitTimeout
  try dsimp only
  repeat' (first
      | (with_reducible assumption) | (with_reducible apply State.ctxErr_kept) | (with_reducible apply Goes.inUnits)
      | (with_reducible apply Goes.next) | (with_reducible apply Kept.ite))

theorem State.sxSkip_kept {r0 : State} (s : State) (g c cx : Nat) (x0 : Nat) (hK : Kept r0 s) :
    Kept r0 (State.sxSkip s g c cx x0).1 := by
  induction x0 generalizing s g c cx with
  | zero =>
    unfold State.sxSkip
    exact hK
  | succ n ih =>
    unfold State.sxSkip
    try dsimp only
    repeat' (first
        | (with_reducible assumption) | (with_reducible apply ih) | (with_reducible apply State.runNext_kept)
        | (split))

theorem State.runOut_kept {r0 : State} (s : State) (g c e cx : Nat) (q : QEntry) (hK : Kept r0 s) :
    Kept r0 (State.runOut s g c e cx q).1 := by
  unfold State.runOut
  try dsimp only
  repeat' (first
      | (with_reducible assumption) | (with_reducible apply State.serve_kept)
      | (with_reducible apply State.sxSkip_kept) | (split))

theorem State.endOldest_kept {r0 : State} (s : State) (g c e cx : Nat) (hK : Kept r0 s) :
    Kept r0 (State.endOldest s g c e cx) := by
  unfold State.endOldest
  try dsimp only
  repeat' (first
      | (with_reducible assumption) | (with_reducible apply State.retireCore_kept)
      | (with_reducible apply State.feed_kept) | (split))

theorem State.opRetire_kept {r0 : State} (s : State) (g c e cx : Nat) (hK : Kept r0 s) :
    Kept r0 (State.opRetire s g c e cx) := by
  unfold State.opRetire
  try dsimp only
  repeat' (first
      | (with_reducible assumption) | (with_reducible apply State.runOut_kept)
      | (with_reducible apply State.raiseEnd_kept) | (with_reducible apply State.endOldest_kept) | (split))

theorem execEngineOpRetire_kept {r0 : State} (g c e cx : Nat) (s : State) (hK : Kept r0 s) :
    Goes r0 (execEngineOpRetire g c e cx s) := by
  unfold execEngineOpRetire
  try dsimp only
  repeat' (first
      | (with_reducible assumption) | (with_reducible apply State.opRetire_kept)
      | (with_reducible apply Goes.inUnits) | (with_reducible apply Goes.next))

theorem execFlagSignalVisible_kept {r0 : State} (j f : Nat) (s : State) (hK : Kept r0 s) :
    Goes r0 (execFlagSignalVisible j f s) := by
  unfold execFlagSignalVisible
  try dsimp only
  repeat' (first
      | (with_reducible assumption) | (with_reducible apply State.serveFlag_kept)
      | (with_reducible apply Goes.inUnits) | (with_reducible apply Goes.next) | (split))

theorem State.raiseCycle_kept {r0 : State} (s : State) (j : Nat) (hK : Kept r0 s) :
    Kept r0 (State.raiseCycle s j) := by
  unfold State.raiseCycle
  try dsimp only
  repeat' (first
      | (with_reducible assumption) | (with_reducible apply State.trace_kept)
      | (with_reducible apply State.raiseErr_kept) | (with_reducible apply State.put_kept)
      | (with_reducible refine Kept.foldl _ _ _ ?_ (fun t a ht => ?_)))

theorem execWaitCycle_kept {r0 : State} (j : Nat) (s : State) (hK : Kept r0 s) :
    Goes r0 (execWaitCycle j s) := by
  unfold execWaitCycle
  try dsimp only
  repeat' (first
      | (with_reducible assumption) | (with_reducible apply State.raiseCycle_kept)
      | (with_reducible apply Goes.inUnits) | (with_reducible apply Goes.next) | (with_reducible apply Kept.ite))

theorem execJobStopIdle_kept {r0 : State} (j : Nat) (s : State) (hK : Kept r0 s) :
    Goes r0 (execJobStopIdle j s) := by
  unfold execJobStopIdle
  try dsimp only
  repeat' (first
      | (with_reducible assumption) | (with_reducible apply State.put_kept) | (with_reducible apply Goes.inUnits)
      | (with_reducible apply Goes.next) | (with_reducible apply Kept.ite))

theorem State.ctxDone_kept {r0 : State} (s : State) (g c : Nat) (hK : Kept r0 s) :
    Kept r0 (State.ctxDone s g c) := by
  unfold State.ctxDone
  try dsimp only
  repeat' (first
      | (with_reducible assumption) | (with_reducible apply State.put_kept)
      | (with_reducible apply State.setEvent_kept) | (with_reducible apply Kept.ite))

theorem execContextDrainDone_kept {r0 : State} (g c : Nat) (s : State) (hK : Kept r0 s) :
    Goes r0 (execContextDrainDone g c s) := by
  unfold execContextDrainDone
  try dsimp only
  repeat' (first
      | (with_reducible assumption) | (with_reducible apply State.ctxDone_kept)
      | (with_reducible apply Goes.inUnits) | (with_reducible apply Goes.next) | (with_reducible apply Kept.ite))

theorem State.sxBegin_kept {r0 : State} (s : State) (x : At) (q : QEntry) (hK : Kept r0 s) :
    Kept r0 (State.sxBegin s x q).1 := by
  unfold State.sxBegin
  try dsimp only
  repeat' (first
      | (with_reducible assumption) | (with_reducible apply State.noteTurn_kept)
      | (with_reducible apply State.runNext_kept) | (split))

theorem State.countChunk_kept {r0 : State} (s : State) (x : At) (q : QEntry) (stall raw : Nat) (hK : Kept r0 s) :
    Kept r0 (State.countChunk s x q stall raw) := by
  unfold State.countChunk
  try dsimp only
  repeat' (first
      | (with_reducible assumption) | (with_reducible apply State.setEntry_kept)
      | (with_reducible apply State.coreInc_kept))

theorem State.chunkAdvance_kept {r0 : State} (s : State) (x : At) (stall raw : Nat) (hK : Kept r0 s) :
    Kept r0 (State.chunkAdvance s x stall raw) := by
  unfold State.chunkAdvance
  try dsimp only
  repeat' (first
      | (with_reducible assumption) | (with_reducible apply State.countChunk_kept)
      | (with_reducible apply State.sxSkip_kept) | (with_reducible apply State.raiseEnd_kept)
      | (with_reducible apply State.sxBegin_kept) | (with_reducible apply State.pump_kept) | (split))

theorem execStreamChunkAdvance_kept {r0 : State} (g c cx stall raw : Nat) (s : State) (hK : Kept r0 s) :
    Goes r0 (execStreamChunkAdvance g c cx stall raw s) := by
  unfold execStreamChunkAdvance
  try dsimp only
  repeat' (first
      | (with_reducible assumption) | (with_reducible apply State.chunkAdvance_kept)
      | (with_reducible apply Goes.inUnits) | (with_reducible apply Goes.next))

theorem State.hopScan_kept {r0 : State} (s : State) (x : At) (q : QEntry) (first : Bool) (hK : Kept r0 s) :
    Kept r0 (State.hopScan s x q first).1 := by
  unfold State.hopScan
  try dsimp only
  repeat' (first | (with_reducible assumption) | (with_reducible apply State.scanCore_kept))

theorem State.hopStat_kept {r0 : State} (s : State) (x : At) (q : QEntry) (first : Bool) (hK : Kept r0 s) :
    Kept r0 (State.hopStat s x q first).1 := by
  unfold State.hopStat
  try dsimp only
  repeat' (first
      | (with_reducible assumption) | (with_reducible apply State.laneTriple_kept)
      | (with_reducible apply State.coreInc_kept) | (split))

theorem State.roundEnd_kept {r0 : State} (s : State) (g c : Nat) (q : QEntry) (carry : List Nat) (hK : Kept r0 s) :
    Kept r0 (State.roundEnd s g c q carry) := by
  unfold State.roundEnd
  try dsimp only
  repeat' (first
      | (with_reducible assumption) | (with_reducible apply State.setCarryReg_kept)
      | (with_reducible apply State.putTriple_kept) | (with_reducible apply Kept.ite)
      | (with_reducible refine Kept.foldl _ _ _ ?_ (fun t a ht => ?_)))

theorem State.paradeHop_kept {r0 : State} (s : State) (g c : Nat) (hK : Kept r0 s) :
    Kept r0 (State.paradeHop s g c) := by
  unfold State.paradeHop
  try dsimp only
  repeat' (first
      | (with_reducible assumption) | (with_reducible apply State.hopScan_kept)
      | (with_reducible apply State.hopStat_kept) | (with_reducible apply State.setEntry_kept)
      | (with_reducible apply State.roundEnd_kept) | (with_reducible apply State.pump_kept) | (split))

theorem execParadeHop_kept {r0 : State} (g c : Nat) (s : State) (hK : Kept r0 s) :
    Goes r0 (execParadeHop g c s) := by
  unfold execParadeHop
  try dsimp only
  repeat' (first
      | (with_reducible assumption) | (with_reducible apply State.paradeHop_kept)
      | (with_reducible apply Goes.inUnits) | (with_reducible apply Goes.next))

theorem State.carryPush_kept {r0 : State} (s : State) (g c : Nat) (hK : Kept r0 s) :
    Kept r0 (State.carryPush s g c) := by
  unfold State.carryPush
  try dsimp only
  repeat' (first
      | (with_reducible assumption) | (with_reducible apply State.setRing_kept)
      | (with_reducible apply State.put_kept) | (with_reducible apply State.setEntry_kept)
      | (with_reducible apply State.addJobFlag_kept) | (fail_if_no_progress (with_reducible apply Kept.upd))
      | (split))

theorem execCarryRecordPush_kept {r0 : State} (g c : Nat) (s : State) (hK : Kept r0 s) :
    Goes r0 (execCarryRecordPush g c s) := by
  unfold execCarryRecordPush
  try dsimp only
  repeat' (first
      | (with_reducible assumption) | (with_reducible apply State.carryPush_kept)
      | (with_reducible apply Goes.inUnits) | (with_reducible apply Goes.next))

theorem State.carryPop_kept {r0 : State} (s : State) (g c : Nat) (hK : Kept r0 s) :
    Kept r0 (State.carryPop s g c) := by
  unfold State.carryPop
  try dsimp only
  repeat' (first
      | (with_reducible assumption) | (with_reducible apply State.setRing_kept)
      | (with_reducible apply State.put_kept) | (with_reducible apply State.coreErr_kept)
      | (with_reducible apply State.setEntry_kept) | (split))

theorem execCarryRecordPop_kept {r0 : State} (g c : Nat) (s : State) (hK : Kept r0 s) :
    Goes r0 (execCarryRecordPop g c s) := by
  unfold execCarryRecordPop
  try dsimp only
  repeat' (first
      | (with_reducible assumption) | (with_reducible apply State.carryPop_kept)
      | (with_reducible apply Goes.inUnits) | (with_reducible apply Goes.next))

theorem execCarryRingTimeout_kept {r0 : State} (g c : Nat) (s : State) (hK : Kept r0 s) :
    Goes r0 (execCarryRingTimeout g c s) := by
  unfold execCarryRingTimeout
  try dsimp only
  repeat' (first
      | (with_reducible assumption) | (with_reducible apply State.coreErr_kept)
      | (with_reducible apply Goes.inUnits) | (with_reducible apply Goes.next) | (split))

theorem State.writeImage_kept {r0 : State} (s : State) (x : At) (q : QEntry) (img : List Byte) (hK : Kept r0 s) :
    Kept r0 (State.writeImage s x q img) := by
  unfold State.writeImage
  try dsimp only
  repeat' (first
      | (with_reducible assumption) | (with_reducible apply State.setTable_kept)
      | (with_reducible apply State.setEntry_kept) | (with_reducible apply State.pump_kept))

theorem State.imageArrive_kept {r0 : State} (s : State) (x : At) (hK : Kept r0 s) :
    Kept r0 (State.imageArrive s x) := by
  unfold State.imageArrive
  try dsimp only
  repeat' (first
      | (with_reducible assumption) | (with_reducible apply State.writeImage_kept)
      | (with_reducible apply State.coreErr_kept) | (split))

theorem execTloadImageArrive_kept {r0 : State} (g c cx : Nat) (s : State) (hK : Kept r0 s) :
    Goes r0 (execTloadImageArrive g c cx s) := by
  unfold execTloadImageArrive
  try dsimp only
  repeat' (first
      | (with_reducible assumption) | (with_reducible apply State.imageArrive_kept)
      | (with_reducible apply Goes.inUnits) | (with_reducible apply Goes.next))

theorem State.dmaEnded_kept {r0 : State} (s : State) (x : At) (seq : Nat) (hK : Kept r0 s) :
    Kept r0 (State.dmaEnded s x seq) := by
  unfold State.dmaEnded
  try dsimp only
  repeat' (first
      | (with_reducible assumption) | (with_reducible apply State.setEntry_kept)
      | (with_reducible apply State.pump_kept) | (split))

theorem State.transferDone_kept {r0 : State} (s : State) (x : At) (q : QEntry) (hK : Kept r0 s) :
    Kept r0 (State.transferDone s x q) := by
  unfold State.transferDone
  try dsimp only
  repeat' (first
      | (with_reducible assumption) | (with_reducible apply State.serve_kept)
      | (with_reducible apply State.raiseEnd_kept) | (with_reducible apply State.dmaEnded_kept) | (split))

theorem State.dmaComplete_kept {r0 : State} (s : State) (x : At) (res : DmaResult) (hK : Kept r0 s) :
    Kept r0 (State.dmaComplete s x res) := by
  unfold State.dmaComplete
  try dsimp only
  repeat' (first
      | (with_reducible assumption) | (with_reducible apply State.transferDone_kept)
      | (with_reducible apply State.opErr_kept) | (with_reducible apply State.raiseErr_kept) | (split))

theorem execDmaRequestComplete_kept {r0 : State} (g c cx : Nat) (res : DmaResult) (s : State) (hK : Kept r0 s) :
    Goes r0 (execDmaRequestComplete g c cx res s) := by
  unfold execDmaRequestComplete
  try dsimp only
  repeat' (first
      | (with_reducible assumption) | (with_reducible apply State.dmaComplete_kept)
      | (with_reducible apply Goes.inUnits) | (with_reducible apply Goes.next))

theorem State.setSpLine_kept {r0 : State} (s : State) (g cx line : Nat) (bs : List (Nat × Nat)) (hK : Kept r0 s) :
    Kept r0 (State.setSpLine s g cx line bs) := by
  unfold State.setSpLine
  try dsimp only
  repeat' (first | (with_reducible assumption) | (with_reducible apply State.setCore_kept))

theorem State.serveBank_kept {r0 : State} (s : State) (g cx : Nat) (r : BankReq) (hK : Kept r0 s) :
    Kept r0 (State.serveBank s g cx r) := by
  unfold State.serveBank
  try dsimp only
  repeat' (first | (with_reducible assumption) | (with_reducible apply State.setSpLine_kept) | (split))

theorem State.countBanks_kept {r0 : State} (s : State) (g cx : Nat) (granted denied : List BankWait) (hK : Kept r0
    s) :
    Kept r0 (State.countBanks s g cx granted denied) := by
  unfold State.countBanks
  try dsimp only
  repeat' (first
      | (with_reducible assumption) | (with_reducible apply State.inc_kept) | (with_reducible apply Kept.ite))

theorem State.bankGrant_kept {r0 : State} (s : State) (g cx : Nat) (rs : List BankReq) (hK : Kept r0 s) :
    Kept r0 (State.bankGrant s g cx rs) := by
  unfold State.bankGrant
  try dsimp only
  repeat' (first
      | (with_reducible assumption) | (with_reducible apply State.serveBank_kept)
      | (with_reducible apply State.setCore_kept) | (with_reducible apply State.countBanks_kept)
      | (with_reducible apply Kept.ite) | (with_reducible refine Kept.foldl _ _ _ ?_ (fun t a ht => ?_))
      | (fail_if_no_progress (with_reducible apply Kept.upd)))

theorem execBankGrant_kept {r0 : State} (g cx : Nat) (reqs : List BankReq) (s : State) (hK : Kept r0 s) :
    Goes r0 (execBankGrant g cx reqs s) := by
  unfold execBankGrant
  try dsimp only
  repeat' (first
      | (with_reducible assumption) | (with_reducible apply State.bankGrant_kept)
      | (with_reducible apply Goes.inUnits) | (with_reducible apply Goes.next))

theorem State.atomicOp_kept {r0 : State} (s : State) (g cx line kind : Nat) (els : List (Nat × Nat)) (hK : Kept r0
    s) :
    Kept r0 (State.atomicOp s g cx line kind els) := by
  unfold State.atomicOp
  try dsimp only
  repeat' (first
      | (with_reducible assumption) | (with_reducible apply State.inc_kept)
      | (with_reducible apply State.setSpLine_kept) | (with_reducible apply Kept.ite)
      | (fail_if_no_progress (with_reducible apply Kept.upd)))

theorem execAtomicOp_kept {r0 : State} (g cx line kind : Nat) (els : List (Nat × Nat)) (s : State) (hK : Kept r0 s) :
    Goes r0 (execAtomicOp g cx line kind els s) := by
  unfold execAtomicOp
  try dsimp only
  repeat' (first
      | (with_reducible assumption) | (with_reducible apply State.atomicOp_kept)
      | (with_reducible apply Goes.inUnits) | (with_reducible apply Goes.next))

theorem State.coreFault_kept {r0 : State} (s : State) (g cx code payload : Nat) (job : Option Nat) (op : Option
    OpRef) (hK : Kept r0 s) :
    Kept r0 (State.coreFault s g cx code payload job op) := by
  unfold State.coreFault
  try dsimp only
  repeat' (first | (with_reducible assumption) | (with_reducible apply State.raiseErr_kept))

theorem State.coreFaultAll_kept {r0 : State} (s : State) (g cx code payload : Nat) (hK : Kept r0 s) :
    Kept r0 (State.coreFaultAll s g cx code payload) := by
  unfold State.coreFaultAll
  try dsimp only
  repeat' (first
      | (with_reducible assumption) | (with_reducible apply State.coreFault_kept)
      | (with_reducible refine Kept.foldl _ _ _ ?_ (fun t a ht => ?_)) | (split))

theorem execSpEccCorrect_kept {r0 : State} (g cx : Nat) (s : State) (hK : Kept r0 s) :
    Goes r0 (execSpEccCorrect g cx s) := by
  unfold execSpEccCorrect
  try dsimp only
  repeat' (first
      | (with_reducible assumption) | (with_reducible apply State.inc_kept) | (with_reducible apply State.put_kept)
      | (with_reducible apply Goes.inUnits) | (with_reducible apply Goes.next))

theorem execSpEccUncorr_kept {r0 : State} (g cx : Nat) (job : Option Nat) (op : Option OpRef) (s : State) (hK : Kept
    r0 s) :
    Goes r0 (execSpEccUncorr g cx job op s) := by
  unfold execSpEccUncorr
  try dsimp only
  repeat' (first
      | (with_reducible assumption) | (with_reducible apply State.coreFault_kept)
      | (with_reducible apply State.coreFaultAll_kept) | (with_reducible apply Goes.inUnits)
      | (with_reducible apply Goes.next) | (split))

theorem State.coreClear_kept {r0 : State} (s : State) (g cx : Nat) (hK : Kept r0 s) :
    Kept r0 (State.coreClear s g cx) := by
  unfold State.coreClear
  try dsimp only
  repeat' (first
      | (with_reducible assumption) | (with_reducible apply State.setCore_kept)
      | (with_reducible apply State.clearRegs_kept) | (with_reducible apply State.put_kept))

theorem execBtRegionStart_kept {r0 : State} (g cx : Nat) (s : State) (hK : Kept r0 s) :
    Goes r0 (execBtRegionStart g cx s) := by
  unfold execBtRegionStart
  try dsimp only
  repeat' (first
      | (with_reducible assumption) | (with_reducible apply State.put_kept) | (with_reducible apply Goes.inUnits)
      | (with_reducible apply Goes.next) | (with_reducible apply Kept.ite))

theorem State.latchRun_kept {r0 : State} (s : State) (regs : Tab Nat) (gone : Bool) (r : ShadowRun) (hK : Kept r0 s) :
    Kept r0 (State.latchRun s regs gone r) := by
  unfold State.latchRun
  try dsimp only
  repeat' (first
      | (with_reducible assumption) | (with_reducible apply State.put_kept)
      | (with_reducible refine Kept.foldl _ _ _ ?_ (fun t a ht => ?_)))

theorem State.coreWord_kept {r0 : State} (s : State) (w : XWord) (hK : Kept r0 s) :
    Kept r0 (State.coreWord s w) := by
  unfold State.coreWord
  try dsimp only
  repeat' (first
      | (with_reducible assumption) | (with_reducible apply State.reject_kept)
      | (with_reducible apply State.put_kept) | (with_reducible refine Kept.foldl _ _ _ ?_ (fun t a ht => ?_))
      | (fail_if_no_progress (with_reducible apply Kept.upd)) | (split))

theorem State.markRetired_kept {r0 : State} (s : State) (g cx : Nat) (hK : Kept r0 s) :
    Kept r0 (State.markRetired s g cx) := by
  unfold State.markRetired
  try dsimp only
  repeat' (first
      | (with_reducible assumption) | (with_reducible apply State.coreWord_kept)
      | (with_reducible apply State.latchRun_kept) | (with_reducible apply State.put_kept)
      | (with_reducible refine Kept.foldl _ _ _ ?_ (fun t a ht => ?_))
      | (fail_if_no_progress (with_reducible apply Kept.upd)))

theorem State.coreLost_kept {r0 : State} (s : State) (g cx : Nat) (hK : Kept r0 s) :
    Kept r0 (State.coreLost s g cx) := by
  unfold State.coreLost
  try dsimp only
  repeat' (first
      | (with_reducible assumption) | (with_reducible apply State.markRetired_kept)
      | (with_reducible apply State.coreFaultAll_kept))

theorem State.btDone_kept {r0 : State} (s : State) (g cx : Nat) (bad : Option Nat) (hK : Kept r0 s) :
    Kept r0 (State.btDone s g cx bad) := by
  unfold State.btDone
  try dsimp only
  repeat' (first
      | (with_reducible assumption) | (with_reducible apply State.put_kept) | (with_reducible apply State.inc_kept)
      | (with_reducible apply State.coreLost_kept) | (split))

theorem execBtRegionDone_kept {r0 : State} (g cx : Nat) (bad : Option Nat) (s : State) (hK : Kept r0 s) :
    Goes r0 (execBtRegionDone g cx bad s) := by
  unfold execBtRegionDone
  try dsimp only
  repeat' (first
      | (with_reducible assumption) | (with_reducible apply State.btDone_kept) | (with_reducible apply Goes.inUnits)
      | (with_reducible apply Goes.next))

theorem execHomTest_kept {r0 : State} (g cx : Nat) (pass : Bool) (s : State) (hK : Kept r0 s) :
    Goes r0 (execHomTest g cx pass s) := by
  unfold execHomTest
  try dsimp only
  repeat' (first
      | (with_reducible assumption) | (with_reducible apply State.coreLost_kept)
      | (with_reducible apply Goes.inUnits) | (with_reducible apply Goes.next) | (with_reducible apply Kept.ite))

theorem State.cqAdmit_kept {r0 : State} (s : State) (q : Nat) (hK : Kept r0 s) :
    Kept r0 (State.cqAdmit s q) := by
  unfold State.cqAdmit
  try dsimp only
  repeat' (first
      | (with_reducible assumption) | (with_reducible apply State.incSat_kept)
      | (with_reducible apply State.cqDropFull_kept) | (with_reducible apply State.put_kept)
      | (with_reducible apply State.cqAppend_kept) | (with_reducible apply State.setCq_kept)
      | (with_reducible apply Kept.ite))

theorem execCqAdmit_kept {r0 : State} (q : Nat) (s : State) (hK : Kept r0 s) :
    Goes r0 (execCqAdmit q s) := by
  unfold execCqAdmit
  try dsimp only
  repeat' (first
      | (with_reducible assumption) | (with_reducible apply State.cqAdmit_kept)
      | (with_reducible apply State.settleCq_kept) | (with_reducible apply Goes.inUnits)
      | (with_reducible apply Goes.next))

theorem State.setCqBytes_kept {r0 : State} (s : State) (q p : Nat) (x0 : List Byte) (hK : Kept r0 s) :
    Kept r0 (State.setCqBytes s q p x0) := by
  induction x0 generalizing s q p with
  | nil =>
    unfold State.setCqBytes
    exact hK
  | cons a l ih =>
    unfold State.setCqBytes
    try dsimp only
    repeat' (first
        | (with_reducible assumption) | (with_reducible apply ih) | (with_reducible apply State.setCqByte_kept))

theorem State.cqFinish_kept {r0 : State} (s : State) (q p tag : Nat) (trunc : Bool) (data : List Byte) (hK : Kept r0
    s) :
    Kept r0 (State.cqFinish s q p tag trunc data) := by
  unfold State.cqFinish
  try dsimp only
  repeat' (first
      | (with_reducible assumption) | (with_reducible apply State.cqAppend_kept)
      | (with_reducible apply State.setCqBytes_kept) | (with_reducible apply State.setCq_kept)
      | (with_reducible apply State.put_kept) | (with_reducible apply State.incSat_kept)
      | (with_reducible apply State.cqClosed_kept) | (with_reducible apply State.cqAdmitWaiting_kept)
      | (with_reducible apply State.raiseErr_kept) | (with_reducible apply Kept.ite))

theorem execCqClose_kept {r0 : State} (q tag : Nat) (data : List (BitVec 8)) (s : State) (hK : Kept r0 s) :
    Goes r0 (execCqClose q tag data s) := by
  unfold execCqClose
  try dsimp only
  repeat' (first
      | (with_reducible assumption) | (with_reducible apply State.cqFinish_kept)
      | (with_reducible apply State.settleCq_kept) | (with_reducible apply Goes.inUnits)
      | (with_reducible apply Goes.next) | (split))

theorem execCqTruncate_kept {r0 : State} (q tag : Nat) (data : List (BitVec 8)) (s : State) (hK : Kept r0 s) :
    Goes r0 (execCqTruncate q tag data s) := by
  unfold execCqTruncate
  try dsimp only
  repeat' (first
      | (with_reducible assumption) | (with_reducible apply State.cqFinish_kept)
      | (with_reducible apply State.settleCq_kept) | (with_reducible apply Goes.inUnits)
      | (with_reducible apply Goes.next) | (split))

theorem execCqPop_kept {r0 : State} (q : Nat) (s : State) (hK : Kept r0 s) :
    Goes r0 (execCqPop q s) := by
  unfold execCqPop
  try dsimp only
  repeat' (first
      | (with_reducible assumption) | (with_reducible apply State.cqPopOne_kept)
      | (with_reducible apply Goes.inUnits) | (with_reducible apply Goes.next))

theorem State.cqSpill_kept {r0 : State} (s : State) (q : Nat) (hK : Kept r0 s) :
    Kept r0 (State.cqSpill s q) := by
  unfold State.cqSpill
  try dsimp only
  repeat' (first
      | (with_reducible assumption) | (with_reducible apply State.cqFill_kept)
      | (with_reducible apply State.cqSpillBurst_kept) | (with_reducible apply Kept.ite))

theorem execCqSpill_kept {r0 : State} (q : Nat) (s : State) (hK : Kept r0 s) :
    Goes r0 (execCqSpill q s) := by
  unfold execCqSpill
  try dsimp only
  repeat' (first
      | (with_reducible assumption) | (with_reducible apply State.cqSpill_kept)
      | (with_reducible apply State.settleCq_kept) | (with_reducible apply Goes.inUnits)
      | (with_reducible apply Goes.next))

theorem execCqHeadFill_kept {r0 : State} (q : Nat) (s : State) (hK : Kept r0 s) :
    Goes r0 (execCqHeadFill q s) := by
  unfold execCqHeadFill
  try dsimp only
  repeat' (first
      | (with_reducible assumption) | (with_reducible apply State.cqFill_kept)
      | (with_reducible apply State.settleCq_kept) | (with_reducible apply Goes.inUnits)
      | (with_reducible apply Goes.next) | (with_reducible apply Kept.ite))

theorem State.cqCfgWrite_kept {r0 : State} (s : State) (q word val : Nat) (hK : Kept r0 s) :
    Kept r0 (State.cqCfgWrite s q word val) := by
  unfold State.cqCfgWrite
  try dsimp only
  repeat' (first
      | (with_reducible assumption) | (with_reducible apply State.reject_kept)
      | (with_reducible apply State.put_kept) | (with_reducible apply Kept.ite))

theorem execCqCfgWrite_kept {r0 : State} (q word val : Nat) (s : State) (hK : Kept r0 s) :
    Goes r0 (execCqCfgWrite q word val s) := by
  unfold execCqCfgWrite
  try dsimp only
  repeat' (first
      | (with_reducible assumption) | (with_reducible apply State.barWrite_kept)
      | (with_reducible apply State.cqCfgWrite_kept) | (with_reducible apply Goes.inUnits)
      | (with_reducible apply Goes.next) | (intro _))

end Sys2Proof.Machine
end

