-- ==== Sys2Proof/Laws/KeptMem.lean ====
section
/-! SUPPORT. What each operation of the model keeps (Showtime, Islands, DevMem, SafetyNet, Training). -/

namespace Sys2Proof.Machine

theorem State.steerRate_kept {r0 : State} (s : State) (offset : Int) (hK : Kept r0 s) :
    Kept r0 (State.steerRate s offset) := by
  unfold State.steerRate
  try dsimp only
  repeat' (first
      | (with_reducible assumption) | (with_reducible apply State.put_kept)
      | (with_reducible apply State.bumpFree_kept))

theorem State.clearFilters_kept {r0 : State} (s : State) (hK : Kept r0 s) :
    Kept r0 (State.clearFilters s) := by
  unfold State.clearFilters
  try dsimp only
  repeat' (first | (with_reducible assumption) | (fail_if_no_progress (with_reducible apply Kept.upd)))

theorem State.leaveParent_kept {r0 : State} (s : State) (hK : Kept r0 s) :
    Kept r0 (State.leaveParent s) := by
  unfold State.leaveParent
  try dsimp only
  repeat' (first
      | (with_reducible assumption) | (with_reducible apply State.clearFilters_kept)
      | (with_reducible apply State.put_kept) | (fail_if_no_progress (with_reducible apply Kept.upd)))

theorem State.setLock_kept {r0 : State} (s : State) (st : Nat) (hK : Kept r0 s) :
    Kept r0 (State.setLock s st) := by
  unfold State.setLock
  try dsimp only
  repeat' (first
      | (with_reducible assumption) | (with_reducible apply State.put_kept) | (with_reducible apply Kept.ite)
      | (fail_if_no_progress (with_reducible apply Kept.upd)))

theorem State.reacquire_kept {r0 : State} (s : State) (hK : Kept r0 s) :
    Kept r0 (State.reacquire s) := by
  unfold State.reacquire
  try dsimp only
  repeat' (first
      | (with_reducible assumption) | (with_reducible apply State.setLock_kept) | (with_reducible apply Kept.ite))

theorem State.loseLock_kept {r0 : State} (s : State) (hK : Kept r0 s) :
    Kept r0 (State.loseLock s) := by
  unfold State.loseLock
  try dsimp only
  repeat' (first
      | (with_reducible assumption) | (with_reducible apply State.setLock_kept) | (with_reducible apply Kept.ite))

theorem State.freezePassed_kept {r0 : State} (s : State) (hK : Kept r0 s) :
    Kept r0 (State.freezePassed s) := by
  unfold State.freezePassed
  try dsimp only
  repeat' (first
      | (with_reducible assumption) | (with_reducible apply Kept.ite)
      | (fail_if_no_progress (with_reducible apply Kept.upd)))

theorem State.setRoot_kept {r0 : State} (s : State) (n frac : Nat) (hK : Kept r0 s) :
    Kept r0 (State.setRoot s n frac) := by
  unfold State.setRoot
  try dsimp only
  repeat' (first
      | (with_reducible assumption) | (with_reducible apply State.freezePassed_kept)
      | (fail_if_no_progress (with_reducible apply Kept.upd)))

theorem State.rootTick_kept {r0 : State} (s : State) (hK : Kept r0 s) :
    Kept r0 (State.rootTick s) := by
  unfold State.rootTick
  try dsimp only
  repeat' (first | (with_reducible assumption) | (with_reducible apply State.setRoot_kept))

theorem execShowtimeRootTick_kept {r0 : State} (s : State) (hK : Kept r0 s) :
    Goes r0 (execShowtimeRootTick s) := by
  unfold execShowtimeRootTick
  try dsimp only
  repeat' (first
      | (with_reducible assumption) | (with_reducible apply State.rootTick_kept) | (with_reducible apply Goes.next))

theorem State.replicaFaults_kept {r0 : State} (s : State) (i : Nat) (hK : Kept r0 s) :
    Kept r0 (State.replicaFaults s i) := by
  unfold State.replicaFaults
  try dsimp only
  repeat' (first
      | (with_reducible assumption) | (with_reducible apply State.put_kept)
      | (with_reducible apply State.raiseErr_kept) | (fail_if_no_progress (with_reducible apply Kept.upd)))

theorem State.jumpReplica_kept {r0 : State} (s : State) (i : Nat) (d : Int) (hK : Kept r0 s) :
    Kept r0 (State.jumpReplica s i d) := by
  unfold State.jumpReplica
  try dsimp only
  repeat' (first | (with_reducible assumption) | (fail_if_no_progress (with_reducible apply Kept.upd)))

theorem State.slewReplica_kept {r0 : State} (s : State) (i : Nat) (corr : Int) (hK : Kept r0 s) :
    Kept r0 (State.slewReplica s i corr) := by
  unfold State.slewReplica
  try dsimp only
  repeat' (first | (with_reducible assumption) | (fail_if_no_progress (with_reducible apply Kept.upd)))

theorem State.syncWord_kept {r0 : State} (s : State) (i : Nat) (corr : Int) (hK : Kept r0 s) :
    Kept r0 (State.syncWord s i corr) := by
  unfold State.syncWord
  try dsimp only
  repeat' (first
      | (with_reducible assumption) | (with_reducible apply State.jumpReplica_kept)
      | (with_reducible apply State.replicaFaults_kept) | (with_reducible apply State.slewReplica_kept)
      | (with_reducible apply State.freezePassed_kept) | (with_reducible apply Kept.ite)
      | (fail_if_no_progress (with_reducible apply Kept.upd)))

theorem execSyncWord_kept {r0 : State} (island : Nat) (corr : Int) (s : State) (hK : Kept r0 s) :
    Goes r0 (execSyncWord island corr s) := by
  unfold execSyncWord
  try dsimp only
  repeat' (first
      | (with_reducible assumption) | (with_reducible apply State.syncWord_kept)
      | (with_reducible apply Goes.inUnits) | (with_reducible apply Goes.next))

theorem execReplicaFault_kept {r0 : State} (island : Nat) (_missed : Bool) (s : State) (hK : Kept r0 s) :
    Goes r0 (execReplicaFault island _missed s) := by
  unfold execReplicaFault
  try dsimp only
  repeat' (first
      | (with_reducible assumption) | (with_reducible apply State.replicaFaults_kept)
      | (with_reducible apply Goes.inUnits) | (with_reducible apply Goes.next))

theorem State.missExchange_kept {r0 : State} (s : State) (hK : Kept r0 s) :
    Kept r0 (State.missExchange s) := by
  unfold State.missExchange
  try dsimp only
  repeat' (first
      | (with_reducible assumption) | (with_reducible apply State.put_kept)
      | (with_reducible apply State.loseLock_kept) | (with_reducible apply Kept.ite)
      | (fail_if_no_progress (with_reducible apply Kept.upd)))

theorem State.takeOffset_kept {r0 : State} (s : State) (x : Int) (bound : Nat) (hK : Kept r0 s) :
    Kept r0 (State.takeOffset s x bound) := by
  unfold State.takeOffset
  try dsimp only
  repeat' (first
      | (with_reducible assumption) | (with_reducible apply State.reacquire_kept)
      | (with_reducible apply State.steerRate_kept) | (fail_if_no_progress (with_reducible apply Kept.upd)))

theorem State.timeExchange_kept {r0 : State} (s : State) (t1 t2 t3 t4 : Nat) (hK : Kept r0 s) :
    Kept r0 (State.timeExchange s t1 t2 t3 t4) := by
  unfold State.timeExchange
  try dsimp only
  repeat' (first
      | (with_reducible assumption) | (with_reducible apply State.missExchange_kept)
      | (with_reducible apply State.put_kept) | (with_reducible apply State.takeOffset_kept)
      | (with_reducible apply Kept.ite) | (fail_if_no_progress (with_reducible apply Kept.upd)))

theorem execTimeExchange_kept {r0 : State} (t1 t2 t3 t4 : Nat) (s : State) (hK : Kept r0 s) :
    Goes r0 (execTimeExchange t1 t2 t3 t4 s) := by
  unfold execTimeExchange
  try dsimp only
  repeat' (first
      | (with_reducible assumption) | (with_reducible apply State.timeExchange_kept)
      | (with_reducible apply Goes.next))

theorem execTimeExchangeMissed_kept {r0 : State} (s : State) (hK : Kept r0 s) :
    Goes r0 (execTimeExchangeMissed s) := by
  unfold execTimeExchangeMissed
  try dsimp only
  repeat' (first
      | (with_reducible assumption) | (with_reducible apply State.missExchange_kept)
      | (with_reducible apply Goes.next) | (with_reducible apply Kept.ite))

theorem execLockAcquired_kept {r0 : State} (s : State) (hK : Kept r0 s) :
    Goes r0 (execLockAcquired s) := by
  unfold execLockAcquired
  try dsimp only
  repeat' (first
      | (with_reducible assumption) | (with_reducible apply State.setLock_kept) | (with_reducible apply Goes.next)
      | (with_reducible apply Kept.ite))

theorem State.ppsEdge_kept {r0 : State} (s : State) (stamp : Nat) (hK : Kept r0 s) :
    Kept r0 (State.ppsEdge s stamp) := by
  unfold State.ppsEdge
  try dsimp only
  repeat' (first
      | (with_reducible assumption) | (with_reducible apply State.takeOffset_kept) | (with_reducible apply Kept.ite)
      | (fail_if_no_progress (with_reducible apply Kept.upd)))

theorem execPpsInEdge_kept {r0 : State} (stamp : Nat) (s : State) (hK : Kept r0 s) :
    Goes r0 (execPpsInEdge stamp s) := by
  unfold execPpsInEdge
  try dsimp only
  repeat' (first
      | (with_reducible assumption) | (with_reducible apply State.ppsEdge_kept) | (with_reducible apply Goes.next))

theorem execPpsLost_kept {r0 : State} (s : State) (hK : Kept r0 s) :
    Goes r0 (execPpsLost s) := by
  unfold execPpsLost
  try dsimp only
  repeat' (first
      | (with_reducible assumption) | (with_reducible apply State.put_kept)
      | (with_reducible apply State.loseLock_kept) | (with_reducible apply Goes.next)
      | (with_reducible apply Kept.ite))

theorem execTrefLost_kept {r0 : State} (s : State) (hK : Kept r0 s) :
    Goes r0 (execTrefLost s) := by
  unfold execTrefLost
  try dsimp only
  repeat' (first
      | (with_reducible assumption) | (with_reducible apply State.put_kept)
      | (with_reducible apply State.loseLock_kept) | (with_reducible apply Goes.next)
      | (with_reducible apply Kept.ite))

theorem execTref10mRegained_kept {r0 : State} (cycles : Nat) (s : State) (hK : Kept r0 s) :
    Goes r0 (execTref10mRegained cycles s) := by
  unfold execTref10mRegained
  try dsimp only
  repeat' (first
      | (with_reducible assumption) | (with_reducible apply State.reacquire_kept)
      | (with_reducible apply State.put_kept) | (with_reducible apply Goes.next) | (with_reducible apply Kept.ite))

theorem execPpsOutHigh_kept {r0 : State} (s : State) (hK : Kept r0 s) :
    Goes r0 (execPpsOutHigh s) := by
  unfold execPpsOutHigh
  try dsimp only
  repeat' (first
      | (with_reducible assumption) | (with_reducible apply Goes.next) | (with_reducible apply Kept.ite)
      | (fail_if_no_progress (with_reducible apply Kept.upd)))

theorem execPpsOutLow_kept {r0 : State} (s : State) (hK : Kept r0 s) :
    Goes r0 (execPpsOutLow s) := by
  unfold execPpsOutLow
  try dsimp only
  repeat' (first
      | (with_reducible assumption) | (with_reducible apply Goes.next) | (with_reducible apply Kept.ite)
      | (fail_if_no_progress (with_reducible apply Kept.upd)))

theorem State.writeStCtrl_kept {r0 : State} (s : State) (val : Nat) (hK : Kept r0 s) :
    Kept r0 (State.writeStCtrl s val) := by
  unfold State.writeStCtrl
  try dsimp only
  repeat' (first
      | (with_reducible assumption) | (with_reducible apply State.put_kept)
      | (with_reducible apply State.setLock_kept) | (with_reducible apply Kept.ite))

theorem State.sendNotice_kept {r0 : State} (s : State) (sec instant : Nat) (hK : Kept r0 s) :
    Kept r0 (State.sendNotice s sec instant) := by
  unfold State.sendNotice
  try dsimp only
  repeat' (first
      | (with_reducible assumption) | (with_reducible apply State.sendTo_kept)
      | (with_reducible refine Kept.foldl _ _ _ ?_ (fun t a ht => ?_)))

theorem State.writeSetSec_kept {r0 : State} (s : State) (val : Nat) (hK : Kept r0 s) :
    Kept r0 (State.writeSetSec s val) := by
  unfold State.writeSetSec
  try dsimp only
  repeat' (first
      | (with_reducible assumption) | (with_reducible apply State.bumpFree_kept)
      | (with_reducible apply State.reject_kept) | (with_reducible apply State.sendNotice_kept)
      | (with_reducible apply Kept.ite) | (fail_if_no_progress (with_reducible apply Kept.upd)))

theorem execStSetSec_kept {r0 : State} (val : Nat) (s : State) (hK : Kept r0 s) :
    Goes r0 (execStSetSec val s) := by
  unfold execStSetSec
  try dsimp only
  repeat' (first
      | (with_reducible assumption) | (with_reducible apply State.barWrite_kept)
      | (with_reducible apply State.writeSetSec_kept) | (with_reducible apply Goes.next) | (intro _))

theorem State.applyStep_kept {r0 : State} (s : State) (sec instant : Nat) (hK : Kept r0 s) :
    Kept r0 (State.applyStep s sec instant) := by
  unfold State.applyStep
  try dsimp only
  repeat' (first
      | (with_reducible assumption) | (with_reducible apply State.setRoot_kept)
      | (with_reducible apply State.put_kept) | (with_reducible apply Kept.ite)
      | (fail_if_no_progress (with_reducible apply Kept.upd)))

theorem execSecondsStepApply_kept {r0 : State} (notice : Option (Nat × Nat)) (s : State) (hK : Kept r0 s) :
    Goes r0 (execSecondsStepApply notice s) := by
  unfold execSecondsStepApply
  try dsimp only
  repeat' (first
      | (with_reducible assumption) | (with_reducible apply State.applyStep_kept)
      | (with_reducible apply State.sendNotice_kept) | (with_reducible apply Goes.next) | (split))

theorem State.writeSnapCtrl_kept {r0 : State} (s : State) (val : Nat) (hK : Kept r0 s) :
    Kept r0 (State.writeSnapCtrl s val) := by
  unfold State.writeSnapCtrl
  try dsimp only
  repeat' (first
      | (with_reducible assumption) | (with_reducible apply State.reject_kept)
      | (with_reducible apply State.put_kept) | (with_reducible apply State.freezePassed_kept)
      | (with_reducible apply Kept.ite) | (fail_if_no_progress (with_reducible apply Kept.upd)))

theorem execStSnapArm_kept {r0 : State} (s : State) (hK : Kept r0 s) :
    Goes r0 (execStSnapArm s) := by
  unfold execStSnapArm
  try dsimp only
  repeat' (first
      | (with_reducible assumption) | (with_reducible apply State.barWrite_kept)
      | (with_reducible apply State.writeSnapCtrl_kept) | (with_reducible apply Goes.next) | (intro _))

theorem State.writeSnapT_kept {r0 : State} (s : State) (val : Nat) (hK : Kept r0 s) :
    Kept r0 (State.writeSnapT s val) := by
  unfold State.writeSnapT
  try dsimp only
  repeat' (first
      | (with_reducible assumption) | (with_reducible apply State.reject_kept)
      | (with_reducible apply State.put_kept) | (with_reducible apply Kept.ite))

theorem State.zeroShadows_kept {r0 : State} (s : State) (i : Nat) (hK : Kept r0 s) :
    Kept r0 (State.zeroShadows s i) := by
  unfold State.zeroShadows
  try dsimp only
  repeat' (first
      | (with_reducible assumption) | (with_reducible apply State.latchRun_kept)
      | (with_reducible refine Kept.foldl _ _ _ ?_ (fun t a ht => ?_)))

theorem State.latchSpotter_kept {r0 : State} (s : State) (counts : Tab Nat) (hK : Kept r0 s) :
    Kept r0 (State.latchSpotter s counts) := by
  unfold State.latchSpotter
  try dsimp only
  repeat' (first
      | (with_reducible assumption) | (with_reducible apply State.clearRegs_kept)
      | (with_reducible apply State.put_kept) | (with_reducible refine Kept.foldl _ _ _ ?_ (fun t a ht => ?_)))

theorem State.latchIsland_kept {r0 : State} (s : State) (i : Nat) (hK : Kept r0 s) :
    Kept r0 (State.latchIsland s i) := by
  unfold State.latchIsland
  try dsimp only
  repeat' (first
      | (with_reducible assumption) | (with_reducible apply State.latchRun_kept)
      | (with_reducible apply State.latchSpotter_kept) | (with_reducible apply Kept.ite)
      | (with_reducible refine Kept.foldl _ _ _ ?_ (fun t a ht => ?_))
      | (fail_if_no_progress (with_reducible apply Kept.upd)))

theorem execSnapshotLatch_kept {r0 : State} (island : Nat) (s : State) (hK : Kept r0 s) :
    Goes r0 (execSnapshotLatch island s) := by
  unfold execSnapshotLatch
  try dsimp only
  repeat' (first
      | (with_reducible assumption) | (with_reducible apply State.latchIsland_kept)
      | (with_reducible apply Goes.inUnits) | (with_reducible apply Goes.next))

theorem execSnapshotDone_kept {r0 : State} (s : State) (hK : Kept r0 s) :
    Goes r0 (execSnapshotDone s) := by
  unfold execSnapshotDone
  try dsimp only
  repeat' (first
      | (with_reducible assumption) | (with_reducible apply State.put_kept) | (with_reducible apply State.inc_kept)
      | (with_reducible apply Goes.next) | (with_reducible apply Kept.ite))

theorem State.islandFault_kept {r0 : State} (s : State) (island code payload : Nat) (job : Option Nat) (op : Option
    OpRef) (hK : Kept r0 s) :
    Kept r0 (State.islandFault s island code payload job op) := by
  unfold State.islandFault
  try dsimp only
  repeat' (first
      | (with_reducible assumption) | (with_reducible apply State.coreFault_kept)
      | (with_reducible apply State.raiseErr_kept) | (with_reducible apply Kept.ite))

theorem execCrossingTimeout_kept {r0 : State} (island : Nat) (job : Option Nat) (op : Option OpRef) (s : State) (hK
    : Kept r0 s) :
    Goes r0 (execCrossingTimeout island job op s) := by
  unfold execCrossingTimeout
  try dsimp only
  repeat' (first
      | (with_reducible assumption) | (with_reducible apply State.setCrossing_kept)
      | (with_reducible apply State.islandFault_kept) | (with_reducible apply Goes.inUnits)
      | (with_reducible apply Goes.next))

theorem State.moduleRetire_kept {r0 : State} (s : State) (l m : Nat) (hK : Kept r0 s) :
    Kept r0 (State.moduleRetire s l m) := by
  unfold State.moduleRetire
  try dsimp only
  repeat' (first
      | (with_reducible assumption) | (with_reducible apply State.corrected_kept) | (with_reducible apply Kept.ite)
      | (fail_if_no_progress (with_reducible apply Kept.upd)))

theorem execUcieModuleRetire_kept {r0 : State} (link mdl : Nat) (s : State) (hK : Kept r0 s) :
    Goes r0 (execUcieModuleRetire link mdl s) := by
  unfold execUcieModuleRetire
  try dsimp only
  repeat' (first
      | (with_reducible assumption) | (with_reducible apply State.moduleRetire_kept)
      | (with_reducible apply Goes.inUnits) | (with_reducible apply Goes.next))

theorem State.linkLost_kept {r0 : State} (s : State) (l jobs : Nat) (hK : Kept r0 s) :
    Kept r0 (State.linkLost s l jobs) := by
  unfold State.linkLost
  try dsimp only
  repeat' (first
      | (with_reducible assumption) | (with_reducible apply State.islandFault_kept)
      | (with_reducible apply Kept.ite) | (with_reducible refine Kept.foldl _ _ _ ?_ (fun t a ht => ?_))
      | (fail_if_no_progress (with_reducible apply Kept.upd)))

theorem execDieLinkLost_kept {r0 : State} (link jobs : Nat) (s : State) (hK : Kept r0 s) :
    Goes r0 (execDieLinkLost link jobs s) := by
  unfold execDieLinkLost
  try dsimp only
  repeat' (first
      | (with_reducible assumption) | (with_reducible apply State.linkLost_kept)
      | (with_reducible apply Goes.inUnits) | (with_reducible apply Goes.next))

theorem State.giveFrame_kept {r0 : State} (s : State) (j dfn : Nat) (hK : Kept r0 s) :
    Kept r0 (State.giveFrame s j dfn) := by
  unfold State.giveFrame
  try dsimp only
  repeat' (first
      | (with_reducible assumption) | (with_reducible apply State.zeroFrame_kept)
      | (with_reducible apply State.setOwner_kept) | (with_reducible apply Kept.ite))

theorem State.takeSpare_kept {r0 : State} (s : State) (ok : Nat → Bool) (x0 : Nat) (hK : Kept r0 s) :
    Kept r0 (State.takeSpare s ok x0).1 := by
  induction x0 generalizing s ok with
  | zero =>
    unfold State.takeSpare
    exact hK
  | succ n ih =>
    unfold State.takeSpare
    try dsimp only
    repeat' (first
        | (with_reducible assumption) | (with_reducible apply ih) | (with_reducible apply State.put_kept) | (split))

theorem State.spare_kept {r0 : State} (s : State) (ok : Nat → Bool) (hK : Kept r0 s) :
    Kept r0 (State.spare s ok).1 := by
  unfold State.spare
  try dsimp only
  repeat' (first | (with_reducible assumption) | (with_reducible apply State.takeSpare_kept))

theorem State.mirrorReplaced_kept {r0 : State} (s : State) (j vpn m : Nat) (hK : Kept r0 s) :
    Kept r0 (State.mirrorReplaced s j vpn m) := by
  unfold State.mirrorReplaced
  try dsimp only
  repeat' (first
      | (with_reducible assumption) | (with_reducible apply State.setPte_kept)
      | (with_reducible apply State.logDrain_kept) | (with_reducible apply State.put_kept) | (split))

theorem State.frameRetired_kept {r0 : State} (s : State) (dfn dev off : Nat) (hK : Kept r0 s) :
    Kept r0 (State.frameRetired s dfn dev off) := by
  unfold State.frameRetired
  try dsimp only
  repeat' (first
      | (with_reducible assumption) | (with_reducible apply State.setOwner_kept)
      | (with_reducible apply State.corrected_kept))

theorem State.replaceMirror_kept {r0 : State} (s : State) (j vpn : Nat) (hK : Kept r0 s) :
    Kept r0 (State.replaceMirror s j vpn) := by
  unfold State.replaceMirror
  try dsimp only
  repeat' (first
      | (with_reducible assumption) | (with_reducible apply State.spare_kept)
      | (with_reducible apply State.giveFrame_kept) | (with_reducible apply State.mirrorReplaced_kept)
      | (with_reducible apply State.setPte_kept) | (with_reducible apply State.put_kept) | (split))

theorem State.setPhase_kept {r0 : State} (s : State) (o : PageOp) (ph : Nat) (hK : Kept r0 s) :
    Kept r0 (State.setPhase s o ph) := by
  unfold State.setPhase
  try dsimp only
  repeat' (first
      | (with_reducible assumption) | (with_reducible apply State.put_kept)
      | (fail_if_no_progress (with_reducible apply Kept.upd)))

theorem State.beginCopy_kept {r0 : State} (s : State) (o : PageOp) (hK : Kept r0 s) :
    Kept r0 (State.beginCopy s o) := by
  unfold State.beginCopy
  try dsimp only
  repeat' (first
      | (with_reducible assumption) | (with_reducible apply State.setPhase_kept)
      | (with_reducible apply State.abandonMigration_kept) | (with_reducible apply State.copyMem_kept)
      | (with_reducible apply Kept.ite))

theorem State.beginMigrate_kept {r0 : State} (s : State) (o : PageOp) (hK : Kept r0 s) :
    Kept r0 (State.beginMigrate s o) := by
  unfold State.beginMigrate
  try dsimp only
  repeat' (first
      | (with_reducible assumption) | (with_reducible apply State.giveFrame_kept)
      | (with_reducible apply State.setPhase_kept) | (with_reducible apply State.beginCopy_kept)
      | (with_reducible apply Kept.ite))

theorem State.retireFrame_kept {r0 : State} (s : State) (o : PageOp) (dfn : Nat) (hK : Kept r0 s) :
    Kept r0 (State.retireFrame s o dfn) := by
  unfold State.retireFrame
  try dsimp only
  repeat' (first
      | (with_reducible assumption) | (with_reducible apply State.frameRetired_kept)
      | (with_reducible apply State.spare_kept) | (with_reducible apply State.beginMigrate_kept)
      | (with_reducible apply State.replaceMirror_kept) | (split))

theorem State.moveLost_kept {r0 : State} (s : State) (j vpn : Nat) (hK : Kept r0 s) :
    Kept r0 (State.moveLost s j vpn).1 := by
  unfold State.moveLost
  try dsimp only
  repeat' (first
      | (with_reducible assumption) | (with_reducible apply State.put_kept)
      | (with_reducible apply State.setPte_kept) | (with_reducible apply State.spare_kept)
      | (with_reducible apply State.zeroFrame_kept) | (with_reducible apply State.setOwner_kept) | (split))

theorem State.moveAll_kept {r0 : State} (s : State) (j : Nat) (x0 : List Nat) (hK : Kept r0 s) :
    Kept r0 (State.moveAll s j x0).1 := by
  induction x0 generalizing s j with
  | nil =>
    unfold State.moveAll
    exact hK
  | cons a l ih =>
    unfold State.moveAll
    try dsimp only
    repeat' (first
        | (with_reducible assumption) | (with_reducible apply ih) | (with_reducible apply State.moveLost_kept)
        | (split))

theorem State.loseJob_kept {r0 : State} (s : State) (j code island : Nat) (hK : Kept r0 s) :
    Kept r0 (State.loseJob s j code island) := by
  unfold State.loseJob
  try dsimp only
  repeat' (first
      | (with_reducible assumption) | (with_reducible apply State.moveAll_kept)
      | (with_reducible apply State.replaceMirror_kept) | (with_reducible apply State.raiseErr_kept)
      | (with_reducible apply Kept.ite) | (with_reducible refine Kept.foldl _ _ _ ?_ (fun t a ht => ?_)))

theorem State.dropLostMigration_kept {r0 : State} (s : State) (hK : Kept r0 s) :
    Kept r0 (State.dropLostMigration s) := by
  unfold State.dropLostMigration
  try dsimp only
  repeat' (first
      | (with_reducible assumption) | (with_reducible apply State.endPageOp_kept)
      | (with_reducible apply State.setOwner_kept) | (split))

theorem State.loseStack_kept {r0 : State} (s : State) (st : Nat) (hK : Kept r0 s) :
    Kept r0 (State.loseStack s st) := by
  unfold State.loseStack
  try dsimp only
  repeat' (first
      | (with_reducible assumption) | (with_reducible apply State.put_kept)
      | (with_reducible apply State.pldmEvent_kept) | (with_reducible apply State.zeroShadows_kept)
      | (with_reducible apply State.dropLostMigration_kept) | (with_reducible apply State.loseJob_kept)
      | (with_reducible apply Kept.ite) | (with_reducible refine Kept.foldl _ _ _ ?_ (fun t a ht => ?_)))

theorem State.loseChannel_kept {r0 : State} (s : State) (ch : Nat) (hK : Kept r0 s) :
    Kept r0 (State.loseChannel s ch) := by
  unfold State.loseChannel
  try dsimp only
  repeat' (first
      | (with_reducible assumption) | (with_reducible apply State.put_kept)
      | (with_reducible apply State.pldmEvent_kept) | (with_reducible apply State.zeroShadows_kept)
      | (with_reducible apply State.dropLostMigration_kept) | (with_reducible apply State.loseJob_kept)
      | (with_reducible apply Kept.ite) | (with_reducible refine Kept.foldl _ _ _ ?_ (fun t a ht => ?_)))

theorem State.startPageOp_kept {r0 : State} (s : State) (op j vpn arg1 : Nat) (entry : Option Nat) (hK : Kept r0 s) :
    Kept r0 (State.startPageOp s op j vpn arg1 entry) := by
  unfold State.startPageOp
  try dsimp only
  repeat' (first
      | (with_reducible assumption) | (with_reducible apply State.put_kept)
      | (with_reducible apply State.giveFrame_kept) | (with_reducible apply State.beginMigrate_kept)
      | (with_reducible apply State.retireFrame_kept) | (with_reducible apply State.loseStack_kept)
      | (with_reducible apply State.flushAccess_kept)
      | (with_reducible refine Kept.foldl _ _ _ ?_ (fun t a ht => ?_))
      | (fail_if_no_progress (with_reducible apply Kept.upd)) | (split))

theorem State.pageCmd_kept {r0 : State} (s : State) (op : Nat) (hK : Kept r0 s) :
    Kept r0 (State.pageCmd s op) := by
  unfold State.pageCmd
  try dsimp only
  repeat' (first
      | (with_reducible assumption) | (with_reducible apply State.startPageOp_kept)
      | (with_reducible apply State.reject_kept) | (with_reducible apply Kept.ite))

theorem execMap_kept {r0 : State} (s : State) (hK : Kept r0 s) :
    Goes r0 (execMap s) := by
  unfold execMap
  try dsimp only
  repeat' (first
      | (with_reducible assumption) | (with_reducible apply State.barWrite_kept)
      | (with_reducible apply State.pageCmd_kept) | (with_reducible apply Goes.next) | (intro _))

theorem execUnmap_kept {r0 : State} (s : State) (hK : Kept r0 s) :
    Goes r0 (execUnmap s) := by
  unfold execUnmap
  try dsimp only
  repeat' (first
      | (with_reducible assumption) | (with_reducible apply State.barWrite_kept)
      | (with_reducible apply State.pageCmd_kept) | (with_reducible apply Goes.next) | (intro _))

theorem execMigrate_kept {r0 : State} (s : State) (hK : Kept r0 s) :
    Goes r0 (execMigrate s) := by
  unfold execMigrate
  try dsimp only
  repeat' (first
      | (with_reducible assumption) | (with_reducible apply State.barWrite_kept)
      | (with_reducible apply State.pageCmd_kept) | (with_reducible apply Goes.next) | (intro _))

theorem execSetMirror_kept {r0 : State} (s : State) (hK : Kept r0 s) :
    Goes r0 (execSetMirror s) := by
  unfold execSetMirror
  try dsimp only
  repeat' (first
      | (with_reducible assumption) | (with_reducible apply State.barWrite_kept)
      | (with_reducible apply State.pageCmd_kept) | (with_reducible apply Goes.next) | (intro _))

theorem execRetireFrame_kept {r0 : State} (s : State) (hK : Kept r0 s) :
    Goes r0 (execRetireFrame s) := by
  unfold execRetireFrame
  try dsimp only
  repeat' (first
      | (with_reducible assumption) | (with_reducible apply State.barWrite_kept)
      | (with_reducible apply State.pageCmd_kept) | (with_reducible apply Goes.next) | (intro _))

theorem execRetireStack_kept {r0 : State} (s : State) (hK : Kept r0 s) :
    Goes r0 (execRetireStack s) := by
  unfold execRetireStack
  try dsimp only
  repeat' (first
      | (with_reducible assumption) | (with_reducible apply State.barWrite_kept)
      | (with_reducible apply State.pageCmd_kept) | (with_reducible apply Goes.next) | (intro _))

theorem execCtrFlush_kept {r0 : State} (s : State) (hK : Kept r0 s) :
    Goes r0 (execCtrFlush s) := by
  unfold execCtrFlush
  try dsimp only
  repeat' (first
      | (with_reducible assumption) | (with_reducible apply State.barWrite_kept)
      | (with_reducible apply State.pageCmd_kept) | (with_reducible apply Goes.next) | (intro _))

theorem State.phaseDone_kept {r0 : State} (s : State) (hK : Kept r0 s) :
    Kept r0 (State.phaseDone s) := by
  unfold State.phaseDone
  try dsimp only
  repeat' (first
      | (with_reducible assumption) | (with_reducible apply State.beginCopy_kept)
      | (with_reducible apply State.setPhase_kept) | (with_reducible apply State.copyGranules_kept) | (split))

theorem execMigratePhaseDone_kept {r0 : State} (s : State) (hK : Kept r0 s) :
    Goes r0 (execMigratePhaseDone s) := by
  unfold execMigratePhaseDone
  try dsimp only
  repeat' (first
      | (with_reducible assumption) | (with_reducible apply State.phaseDone_kept) | (with_reducible apply Goes.next)
      | (with_reducible apply Kept.ite))

theorem State.evictPage_kept {r0 : State} (s : State) (j vpn : Nat) (hK : Kept r0 s) :
    Kept r0 (State.evictPage s j vpn) := by
  unfold State.evictPage
  try dsimp only
  repeat' (first
      | (with_reducible assumption) | (with_reducible apply State.addUnits_kept)
      | (with_reducible refine Kept.foldl _ _ _ ?_ (fun t a ht => ?_))
      | (fail_if_no_progress (with_reducible apply Kept.upd)))

theorem State.releaseFrame_kept {r0 : State} (s : State) (dfn : Nat) (hK : Kept r0 s) :
    Kept r0 (State.releaseFrame s dfn) := by
  unfold State.releaseFrame
  try dsimp only
  repeat' (first
      | (with_reducible assumption) | (with_reducible apply State.setOwner_kept) | (with_reducible apply Kept.ite))

theorem State.commitPageOp_kept {r0 : State} (s : State) (o : PageOp) (hK : Kept r0 s) :
    Kept r0 (State.commitPageOp s o) := by
  unfold State.commitPageOp
  try dsimp only
  repeat' (first
      | (with_reducible assumption) | (with_reducible apply State.evictPage_kept)
      | (with_reducible apply State.setPte_kept) | (with_reducible apply State.releaseFrame_kept)
      | (with_reducible apply State.copyGranules_kept) | (with_reducible apply State.frameRetired_kept)
      | (with_reducible apply State.mirrorReplaced_kept) | (split))

theorem execPageOpDone_kept {r0 : State} (s : State) (hK : Kept r0 s) :
    Goes r0 (execPageOpDone s) := by
  unfold execPageOpDone
  try dsimp only
  repeat' (first
      | (with_reducible assumption) | (with_reducible apply State.commitPageOp_kept)
      | (with_reducible apply State.endPageOp_kept) | (with_reducible apply Goes.next) | (split))

theorem State.translate_kept {r0 : State} (s : State) (j ring va len : Nat) (write bad : Bool) (hK : Kept r0 s) :
    Kept r0 (State.translate s j ring va len write bad) := by
  unfold State.translate
  try dsimp only
  repeat' (first
      | (with_reducible assumption) | (with_reducible apply State.islandFault_kept)
      | (with_reducible apply State.countAccess_kept) | (with_reducible apply Kept.ite)
      | (fail_if_no_progress (with_reducible apply Kept.upd)))

theorem execTranslation_kept {r0 : State} (j ring va len : Nat) (write bad : Bool) (s : State) (hK : Kept r0 s) :
    Goes r0 (execTranslation j ring va len write bad s) := by
  unfold execTranslation
  try dsimp only
  repeat' (first
      | (with_reducible assumption) | (with_reducible apply State.translate_kept)
      | (with_reducible apply Goes.inUnits) | (with_reducible apply Goes.next))

theorem execZeroFill_kept {r0 : State} (dfn : Nat) (s : State) (hK : Kept r0 s) :
    Goes r0 (execZeroFill dfn s) := by
  unfold execZeroFill
  try dsimp only
  repeat' (first
      | (with_reducible assumption) | (with_reducible apply State.zeroFrame_kept)
      | (with_reducible apply State.setOwner_kept) | (with_reducible apply Goes.inUnits)
      | (with_reducible apply Goes.next) | (with_reducible apply Kept.ite))

theorem execPatrolScrub_kept {r0 : State} (dfn : Nat) (s : State) (hK : Kept r0 s) :
    Goes r0 (execPatrolScrub dfn s) := by
  unfold execPatrolScrub
  try dsimp only
  repeat' (first
      | (with_reducible assumption) | (with_reducible apply Goes.inUnits) | (with_reducible apply Goes.next))

theorem execHbmRefresh_kept {r0 : State} (st : Nat) (s : State) (hK : Kept r0 s) :
    Goes r0 (execHbmRefresh st s) := by
  unfold execHbmRefresh
  try dsimp only
  repeat' (first
      | (with_reducible assumption) | (with_reducible apply Goes.inUnits) | (with_reducible apply Goes.next))

theorem execDdr5Refresh_kept {r0 : State} (ch : Nat) (s : State) (hK : Kept r0 s) :
    Goes r0 (execDdr5Refresh ch s) := by
  unfold execDdr5Refresh
  try dsimp only
  repeat' (first
      | (with_reducible assumption) | (with_reducible apply Goes.inUnits) | (with_reducible apply Goes.next))

theorem execMemCorrectedError_kept {r0 : State} (dfn dev off : Nat) (s : State) (hK : Kept r0 s) :
    Goes r0 (execMemCorrectedError dfn dev off s) := by
  unfold execMemCorrectedError
  try dsimp only
  repeat' (first
      | (with_reducible assumption) | (with_reducible apply State.inc_kept)
      | (with_reducible apply State.corrected_kept) | (with_reducible apply Goes.inUnits)
      | (with_reducible apply Goes.next))

theorem State.uncorrRetire_kept {r0 : State} (s : State) (dfn dev off : Nat) (hK : Kept r0 s) :
    Kept r0 (State.uncorrRetire s dfn dev off) := by
  unfold State.uncorrRetire
  try dsimp only
  repeat' (first
      | (with_reducible assumption) | (with_reducible apply State.frameRetired_kept)
      | (with_reducible apply State.replaceMirror_kept) | (fail_if_no_progress (with_reducible apply Kept.upd))
      | (split))

theorem State.memUncorr_kept {r0 : State} (s : State) (dfn dev off : Nat) (job : Option Nat) (op : Option OpRef) (hK
    : Kept r0 s) :
    Kept r0 (State.memUncorr s dfn dev off job op) := by
  unfold State.memUncorr
  try dsimp only
  repeat' (first
      | (with_reducible assumption) | (with_reducible apply State.endPageOp_kept)
      | (with_reducible apply State.frameRetired_kept) | (with_reducible apply State.setOwner_kept)
      | (with_reducible apply State.uncorrRetire_kept) | (with_reducible apply State.islandFault_kept)
      | (with_reducible apply State.loseChannel_kept) | (with_reducible apply State.loseStack_kept)
      | (fail_if_no_progress (with_reducible apply Kept.upd)) | (split))

theorem execMemUncorrectable_kept {r0 : State} (dfn dev off : Nat) (job : Option Nat) (op : Option OpRef) (s :
    State) (hK : Kept r0 s) :
    Goes r0 (execMemUncorrectable dfn dev off job op s) := by
  unfold execMemUncorrectable
  try dsimp only
  repeat' (first
      | (with_reducible assumption) | (with_reducible apply State.memUncorr_kept)
      | (with_reducible apply Goes.inUnits) | (with_reducible apply Goes.next))

theorem execStackLost_kept {r0 : State} (st : Nat) (s : State) (hK : Kept r0 s) :
    Goes r0 (execStackLost st s) := by
  unfold execStackLost
  try dsimp only
  repeat' (first
      | (with_reducible assumption) | (with_reducible apply State.loseStack_kept)
      | (with_reducible apply Goes.inUnits) | (with_reducible apply Goes.next))

theorem execDdrChannelLost_kept {r0 : State} (ch : Nat) (s : State) (hK : Kept r0 s) :
    Goes r0 (execDdrChannelLost ch s) := by
  unfold execDdrChannelLost
  try dsimp only
  repeat' (first
      | (with_reducible assumption) | (with_reducible apply State.loseChannel_kept)
      | (with_reducible apply Goes.inUnits) | (with_reducible apply Goes.next))

theorem State.alertRetry_kept {r0 : State} (s : State) (ch cmd dfn dev off : Nat) (job : Option Nat) (op : Option
    OpRef) (hK : Kept r0 s) :
    Kept r0 (State.alertRetry s ch cmd dfn dev off job op) := by
  unfold State.alertRetry
  try dsimp only
  repeat' (first
      | (with_reducible assumption) | (with_reducible apply State.memUncorr_kept)
      | (with_reducible apply State.inc_kept) | (with_reducible apply State.corrected_kept)
      | (with_reducible apply Kept.ite) | (fail_if_no_progress (with_reducible apply Kept.upd)))

theorem execDdrAlertRetry_kept {r0 : State} (ch cmd dfn dev off : Nat) (job : Option Nat) (op : Option OpRef) (s :
    State) (hK : Kept r0 s) :
    Goes r0 (execDdrAlertRetry ch cmd dfn dev off job op s) := by
  unfold execDdrAlertRetry
  try dsimp only
  repeat' (first
      | (with_reducible assumption) | (with_reducible apply State.alertRetry_kept)
      | (with_reducible apply Goes.inUnits) | (with_reducible apply Goes.next))

theorem State.tellParts_kept {r0 : State} (s : State) (j kind body : Nat) (hK : Kept r0 s) :
    Kept r0 (State.tellParts s j kind body) := by
  unfold State.tellParts
  try dsimp only
  repeat' (first
      | (with_reducible assumption) | (with_reducible apply State.sendDown_kept) | (with_reducible apply Kept.ite))

theorem State.requestCurtain_kept {r0 : State} (s : State) (j tm : Nat) (hK : Kept r0 s) :
    Kept r0 (State.requestCurtain s j tm) := by
  unfold State.requestCurtain
  try dsimp only
  repeat' (first | (with_reducible assumption) | (with_reducible apply State.setSn_kept))

theorem State.writeSnReq_kept {r0 : State} (s : State) (j tm : Nat) (hK : Kept r0 s) :
    Kept r0 (State.writeSnReq s j tm) := by
  unfold State.writeSnReq
  try dsimp only
  repeat' (first
      | (with_reducible assumption) | (with_reducible apply State.requestCurtain_kept)
      | (with_reducible apply State.reject_kept) | (with_reducible apply Kept.ite))

theorem execSnReq_kept {r0 : State} (j tm : Nat) (s : State) (hK : Kept r0 s) :
    Goes r0 (execSnReq j tm s) := by
  unfold execSnReq
  try dsimp only
  repeat' (first
      | (with_reducible assumption) | (with_reducible apply State.barWrite_kept)
      | (with_reducible apply State.writeSnReq_kept) | (with_reducible apply Goes.inUnits)
      | (with_reducible apply Goes.next) | (intro _))

theorem execCurtainMaxInterval_kept {r0 : State} (j : Nat) (s : State) (hK : Kept r0 s) :
    Goes r0 (execCurtainMaxInterval j s) := by
  unfold execCurtainMaxInterval
  try dsimp only
  repeat' (first
      | (with_reducible assumption) | (with_reducible apply State.requestCurtain_kept)
      | (with_reducible apply Goes.inUnits) | (with_reducible apply Goes.next) | (with_reducible apply Kept.ite))

theorem State.armPart_kept {r0 : State} (s : State) (j tm : Nat) (hK : Kept r0 s) :
    Kept r0 (State.armPart s j tm) := by
  unfold State.armPart
  try dsimp only
  repeat' (first
      | (with_reducible assumption) | (with_reducible apply State.abandonMigration_kept)
      | (with_reducible apply State.setSn_kept) | (with_reducible apply State.put_kept))

theorem State.curtainArm_kept {r0 : State} (s : State) (j : Nat) (hK : Kept r0 s) :
    Kept r0 (State.curtainArm s j) := by
  unfold State.curtainArm
  try dsimp only
  repeat' (first
      | (with_reducible assumption) | (with_reducible apply State.armPart_kept)
      | (with_reducible apply State.tellParts_kept) | (split))

theorem execCurtainArm_kept {r0 : State} (j : Nat) (s : State) (hK : Kept r0 s) :
    Goes r0 (execCurtainArm j s) := by
  unfold execCurtainArm
  try dsimp only
  repeat' (first
      | (with_reducible assumption) | (with_reducible apply State.curtainArm_kept)
      | (with_reducible apply Goes.inUnits) | (with_reducible apply Goes.next))

theorem State.releaseCtxs_kept {r0 : State} (s : State) (j : Nat) (hK : Kept r0 s) :
    Kept r0 (State.releaseCtxs s j) := by
  unfold State.releaseCtxs
  try dsimp only
  repeat' (first
      | (with_reducible assumption) | (with_reducible apply State.setCtx_kept)
      | (with_reducible apply State.put_kept) | (with_reducible apply State.advance_kept)
      | (with_reducible apply State.wake_kept) | (with_reducible apply Kept.ite)
      | (with_reducible refine Kept.foldl _ _ _ ?_ (fun t a ht => ?_)))

theorem State.giveUpCurtain_kept {r0 : State} (s : State) (j : Nat) (hK : Kept r0 s) :
    Kept r0 (State.giveUpCurtain s j) := by
  unfold State.giveUpCurtain
  try dsimp only
  repeat' (first
      | (with_reducible assumption) | (with_reducible apply State.releaseCtxs_kept)
      | (with_reducible apply State.abandonCurtain_kept) | (with_reducible apply State.tellParts_kept)
      | (with_reducible apply Kept.ite))

theorem execCurtainAbandon_kept {r0 : State} (j : Nat) (s : State) (hK : Kept r0 s) :
    Goes r0 (execCurtainAbandon j s) := by
  unfold execCurtainAbandon
  try dsimp only
  repeat' (first
      | (with_reducible assumption) | (with_reducible apply State.giveUpCurtain_kept)
      | (with_reducible apply Goes.inUnits) | (with_reducible apply Goes.next) | (with_reducible apply Kept.ite))

theorem execCurtainTReached_kept {r0 : State} (j : Nat) (s : State) (hK : Kept r0 s) :
    Goes r0 (execCurtainTReached j s) := by
  unfold execCurtainTReached
  try dsimp only
  repeat' (first
      | (with_reducible assumption) | (with_reducible apply State.put_kept)
      | (with_reducible apply State.giveUpCurtain_kept) | (with_reducible apply Goes.inUnits)
      | (with_reducible apply Goes.next) | (with_reducible apply Kept.ite))

theorem State.sendMarkers_kept {r0 : State} (s : State) (j : Nat) (hK : Kept r0 s) :
    Kept r0 (State.sendMarkers s j) := by
  unfold State.sendMarkers
  try dsimp only
  repeat' (first
      | (with_reducible assumption) | (with_reducible apply State.setSn_kept)
      | (with_reducible apply State.sendOn_kept) | (with_reducible apply Kept.ite)
      | (with_reducible refine Kept.foldl _ _ _ ?_ (fun t a ht => ?_)))

theorem State.passReady_kept {r0 : State} (s : State) (group gen : Nat) (hK : Kept r0 s) :
    Kept r0 (State.passReady s group gen) := by
  unfold State.passReady
  try dsimp only
  repeat' (first
      | (with_reducible assumption) | (with_reducible apply State.sendUp_kept)
      | (fail_if_no_progress (with_reducible apply Kept.upd)) | (split))

theorem State.curtainReady_kept {r0 : State} (s : State) (j : Nat) (hK : Kept r0 s) :
    Kept r0 (State.curtainReady s j) := by
  unfold State.curtainReady
  try dsimp only
  repeat' (first
      | (with_reducible assumption) | (with_reducible apply State.sendMarkers_kept)
      | (with_reducible apply State.put_kept) | (with_reducible apply State.setSn_kept)
      | (with_reducible apply State.passReady_kept) | (with_reducible apply Kept.ite)
      | (with_reducible refine Kept.foldl _ _ _ ?_ (fun t a ht => ?_)))

theorem execCurtainReady_kept {r0 : State} (j : Nat) (s : State) (hK : Kept r0 s) :
    Goes r0 (execCurtainReady j s) := by
  unfold execCurtainReady
  try dsimp only
  repeat' (first
      | (with_reducible assumption) | (with_reducible apply State.curtainReady_kept)
      | (with_reducible apply Goes.inUnits) | (with_reducible apply Goes.next))

theorem State.gatherLoaders_kept {r0 : State} (s : State) (j : Nat) (hK : Kept r0 s) :
    Kept r0 (State.gatherLoaders s j) := by
  unfold State.gatherLoaders
  try dsimp only
  repeat' (first
      | (with_reducible assumption) | (with_reducible apply State.put_kept)
      | (with_reducible refine Kept.foldl _ _ _ ?_ (fun t a ht => ?_)))

theorem State.stepEpochs_kept {r0 : State} (s : State) (j : Nat) (hK : Kept r0 s) :
    Kept r0 (State.stepEpochs s j) := by
  unfold State.stepEpochs
  try dsimp only
  repeat' (first
      | (with_reducible assumption) | (with_reducible apply State.inc_kept) | (with_reducible apply State.put_kept))

theorem State.toBuddy_kept {r0 : State} (s : State) (j ofs : Nat) (data : List Byte) (hK : Kept r0 s) :
    Kept r0 (State.toBuddy s j ofs data) := by
  unfold State.toBuddy
  try dsimp only
  repeat' (first
      | (with_reducible assumption) | (with_reducible apply State.setSn_kept)
      | (with_reducible refine State.sendPacket_kept _ _ ?_) | (with_reducible apply Kept.ite)
      | (with_reducible refine Kept.getD ?_ ?_))

theorem State.granulesToBuddy_kept {r0 : State} (s : State) (j vpn live set : Nat) (hK : Kept r0 s) :
    Kept r0 (State.granulesToBuddy s j vpn live set) := by
  unfold State.granulesToBuddy
  try dsimp only
  repeat' (first
      | (with_reducible assumption) | (with_reducible apply State.toBuddy_kept) | (with_reducible apply Kept.ite)
      | (with_reducible refine Kept.foldl _ _ _ ?_ (fun t a ht => ?_)))

theorem State.recordToBuddy_kept {r0 : State} (s : State) (j half : Nat) (r : Record) (hK : Kept r0 s) :
    Kept r0 (State.recordToBuddy s j half r) := by
  unfold State.recordToBuddy
  try dsimp only
  repeat' (first | (with_reducible assumption) | (with_reducible apply State.toBuddy_kept))

theorem State.turnLogs_kept {r0 : State} (s : State) (j : Nat) (hK : Kept r0 s) :
    Kept r0 (State.turnLogs s j) := by
  unfold State.turnLogs
  try dsimp only
  repeat' (first
      | (with_reducible assumption) | (with_reducible apply State.setSn_kept)
      | (with_reducible apply State.logDrain_kept) | (with_reducible refine Kept.foldl _ _ _ ?_ (fun t a ht => ?_)))

theorem State.flushQueues_kept {r0 : State} (s : State) (j : Nat) (hK : Kept r0 s) :
    Kept r0 (State.flushQueues s j) := by
  unfold State.flushQueues
  try dsimp only
  repeat' (first
      | (with_reducible assumption) | (with_reducible apply State.cqFlush_kept)
      | (with_reducible refine Kept.foldl _ _ _ ?_ (fun t a ht => ?_)))

theorem State.commitCurtain_kept {r0 : State} (s : State) (j tc : Nat) (hK : Kept r0 s) :
    Kept r0 (State.commitCurtain s j tc) := by
  unfold State.commitCurtain
  try dsimp only
  repeat' (first
      | (with_reducible assumption) | (with_reducible apply State.flushAccess_kept)
      | (with_reducible apply State.stepEpochs_kept) | (with_reducible apply State.gatherLoaders_kept)
      | (with_reducible apply State.releaseCtxs_kept) | (with_reducible apply State.setSn_kept)
      | (with_reducible apply State.put_kept) | (with_reducible apply State.turnLogs_kept)
      | (with_reducible apply State.recordToBuddy_kept) | (with_reducible apply State.applyHeld_kept)
      | (with_reducible apply State.inc_kept) | (with_reducible refine Kept.foldl _ _ _ ?_ (fun t a ht => ?_))
      | (fail_if_no_progress (with_reducible apply Kept.upd)))

theorem State.curtainCommit_kept {r0 : State} (s : State) (j tc : Nat) (hK : Kept r0 s) :
    Kept r0 (State.curtainCommit s j tc) := by
  unfold State.curtainCommit
  try dsimp only
  repeat' (first
      | (with_reducible assumption) | (with_reducible apply State.tellParts_kept)
      | (with_reducible apply State.setSn_kept) | (with_reducible apply State.put_kept)
      | (with_reducible apply State.flushQueues_kept) | (with_reducible apply State.settleCq_kept)
      | (with_reducible apply State.commitCurtain_kept) | (with_reducible apply Kept.ite))

theorem execCurtainCommit_kept {r0 : State} (j tc : Nat) (s : State) (hK : Kept r0 s) :
    Goes r0 (execCurtainCommit j tc s) := by
  unfold execCurtainCommit
  try dsimp only
  repeat' (first
      | (with_reducible assumption) | (with_reducible apply State.curtainCommit_kept)
      | (with_reducible apply Goes.inUnits) | (with_reducible apply Goes.next))

theorem State.mirrorPage_kept {r0 : State} (s : State) (j vpn : Nat) (hK : Kept r0 s) :
    Kept r0 (State.mirrorPage s j vpn) := by
  unfold State.mirrorPage
  try dsimp only
  repeat' (first
      | (with_reducible assumption) | (with_reducible apply State.copyMem_kept)
      | (with_reducible apply State.copyGranules_kept) | (with_reducible apply State.setPte_kept)
      | (with_reducible apply State.granulesToBuddy_kept) | (split))

theorem execMirrorEngineStep_kept {r0 : State} (j : Nat) (s : State) (hK : Kept r0 s) :
    Goes r0 (execMirrorEngineStep j s) := by
  unfold execMirrorEngineStep
  try dsimp only
  repeat' (first
      | (with_reducible assumption) | (with_reducible apply State.setSn_kept)
      | (with_reducible apply State.mirrorPage_kept) | (with_reducible apply Goes.inUnits)
      | (with_reducible apply Goes.next) | (split))

theorem State.secured_kept {r0 : State} (s : State) (j : Nat) (hK : Kept r0 s) :
    Kept r0 (State.secured s j) := by
  unfold State.secured
  try dsimp only
  repeat' (first
      | (with_reducible assumption) | (with_reducible apply State.put_kept)
      | (with_reducible apply State.setSn_kept) | (with_reducible apply Kept.ite))

theorem execCurtainSecured_kept {r0 : State} (j : Nat) (s : State) (hK : Kept r0 s) :
    Goes r0 (execCurtainSecured j s) := by
  unfold execCurtainSecured
  try dsimp only
  repeat' (first
      | (with_reducible assumption) | (with_reducible apply State.secured_kept)
      | (with_reducible apply Goes.inUnits) | (with_reducible apply Goes.next))

theorem execBuddyAck_kept {r0 : State} (j : Nat) (s : State) (hK : Kept r0 s) :
    Goes r0 (execBuddyAck j s) := by
  unfold execBuddyAck
  try dsimp only
  repeat' (first
      | (with_reducible assumption) | (with_reducible apply State.setSn_kept) | (with_reducible apply Goes.inUnits)
      | (with_reducible apply Goes.next) | (with_reducible apply Kept.ite))

theorem execProtectedWrite_kept {r0 : State} (j va : Nat) (s : State) (hK : Kept r0 s) :
    Goes r0 (execProtectedWrite j va s) := by
  unfold execProtectedWrite
  try dsimp only
  repeat' (first
      | (with_reducible assumption) | (with_reducible apply State.firstTouch_kept)
      | (with_reducible apply Goes.inUnits) | (with_reducible apply Goes.next) | (split))

theorem State.ageEpoch_kept {r0 : State} (s : State) (j vpn : Nat) (hK : Kept r0 s) :
    Kept r0 (State.ageEpoch s j vpn) := by
  unfold State.ageEpoch
  try dsimp only
  repeat' (first | (with_reducible assumption) | (with_reducible apply State.setPte_kept) | (split))

theorem execEpochWalk_kept {r0 : State} (j : Nat) (s : State) (hK : Kept r0 s) :
    Goes r0 (execEpochWalk j s) := by
  unfold execEpochWalk
  try dsimp only
  repeat' (first
      | (with_reducible assumption) | (with_reducible apply State.ageEpoch_kept)
      | (with_reducible apply State.setSn_kept) | (with_reducible apply Goes.inUnits)
      | (with_reducible apply Goes.next) | (with_reducible apply Kept.ite)
      | (with_reducible refine Kept.foldl _ _ _ ?_ (fun t a ht => ?_)))

theorem execFaultRestore_kept {r0 : State} (j code island : Nat) (s : State) (hK : Kept r0 s) :
    Goes r0 (execFaultRestore j code island s) := by
  unfold execFaultRestore
  try dsimp only
  repeat' (first
      | (with_reducible assumption) | (with_reducible apply State.markRetired_kept)
      | (with_reducible apply State.islandFault_kept) | (with_reducible apply Goes.inUnits)
      | (with_reducible apply Goes.next) | (with_reducible apply Kept.ite))

theorem State.reloadFields_kept {r0 : State} (s : State) (j : Nat) (r : Record) (hK : Kept r0 s) :
    Kept r0 (State.reloadFields s j r) := by
  unfold State.reloadFields
  try dsimp only
  repeat' (first
      | (with_reducible assumption) | (with_reducible apply State.put_kept)
      | (with_reducible refine Kept.foldl _ _ _ ?_ (fun t a ht => ?_)) | (split))

theorem State.putMasked_kept {r0 : State} (s : State) (f : Fld) (m v : Nat) (hK : Kept r0 s) :
    Kept r0 (State.putMasked s f m v) := by
  unfold State.putMasked
  try dsimp only
  repeat' (first | (with_reducible assumption) | (with_reducible apply State.put_kept))

theorem State.reloadTables_kept {r0 : State} (s : State) (j : Nat) (r : Record) (hK : Kept r0 s) :
    Kept r0 (State.reloadTables s j r) := by
  unfold State.reloadTables
  try dsimp only
  repeat' (first
      | (with_reducible assumption) | (with_reducible apply State.putMasked_kept)
      | (with_reducible apply State.setCore_kept) | (with_reducible refine Kept.foldl _ _ _ ?_ (fun t a ht => ?_)))

theorem State.reloadLoaders_kept {r0 : State} (s : State) (j : Nat) (r : Record) (hK : Kept r0 s) :
    Kept r0 (State.reloadLoaders s j r) := by
  unfold State.reloadLoaders
  try dsimp only
  repeat' (first
      | (with_reducible assumption) | (with_reducible apply State.setSpBytes_kept)
      | (with_reducible refine Kept.foldl _ _ _ ?_ (fun t a ht => ?_)))

theorem State.rollQueue_kept {r0 : State} (s : State) (q put get : Nat) (hK : Kept r0 s) :
    Kept r0 (State.rollQueue s q put get) := by
  unfold State.rollQueue
  try dsimp only
  repeat' (first
      | (with_reducible assumption) | (with_reducible apply State.setCq_kept)
      | (with_reducible apply State.put_kept) | (with_reducible apply State.cqFill_kept)
      | (with_reducible apply Kept.ite))

theorem State.reloadQueues_kept {r0 : State} (s : State) (j : Nat) (r : Record) (hK : Kept r0 s) :
    Kept r0 (State.reloadQueues s j r) := by
  unfold State.reloadQueues
  try dsimp only
  repeat' (first
      | (with_reducible assumption) | (with_reducible apply State.rollQueue_kept)
      | (with_reducible refine Kept.foldl _ _ _ ?_ (fun t a ht => ?_)))

theorem State.checkDraws_kept {r0 : State} (s : State) (j : Nat) (r : Record) (hK : Kept r0 s) :
    Kept r0 (State.checkDraws s j r) := by
  unfold State.checkDraws
  try dsimp only
  repeat' (first
      | (with_reducible assumption) | (with_reducible apply State.raiseErr_kept) | (with_reducible apply Kept.ite))

theorem State.switchRetired_kept {r0 : State} (s : State) (j : Nat) (hK : Kept r0 s) :
    Kept r0 (State.switchRetired s j) := by
  unfold State.switchRetired
  try dsimp only
  repeat' (first
      | (with_reducible assumption) | (with_reducible apply State.spare_kept)
      | (with_reducible apply State.giveFrame_kept) | (with_reducible apply State.copyMem_kept)
      | (with_reducible apply State.evictPage_kept) | (with_reducible apply State.setPte_kept)
      | (with_reducible refine Kept.foldl _ _ _ ?_ (fun t a ht => ?_))
      | (fail_if_no_progress (with_reducible apply Kept.upd)) | (split))

theorem State.resumeBeat_kept {r0 : State} (s : State) (j : Nat) (hK : Kept r0 s) :
    Kept r0 (State.resumeBeat s j) := by
  unfold State.resumeBeat
  try dsimp only
  repeat' (first
      | (with_reducible assumption) | (with_reducible apply State.openBeat_kept)
      | (with_reducible apply State.put_kept) | (with_reducible apply State.wakeBeat_kept)
      | (with_reducible apply Kept.ite))

theorem State.reload_kept {r0 : State} (s : State) (j : Nat) (r : Record) (hK : Kept r0 s) :
    Kept r0 (State.reload s j r) := by
  unfold State.reload
  try dsimp only
  repeat' (first
      | (with_reducible assumption) | (with_reducible apply State.freshCtx_kept)
      | (with_reducible apply State.applyDoubling_kept) | (with_reducible apply State.setCtx_kept)
      | (with_reducible apply State.setJobS_kept) | (with_reducible apply State.reloadFields_kept)
      | (with_reducible apply State.setRing_kept) | (with_reducible apply State.reloadTables_kept)
      | (with_reducible apply State.reloadLoaders_kept) | (with_reducible apply State.reloadQueues_kept)
      | (with_reducible apply State.checkDraws_kept) | (with_reducible apply State.switchRetired_kept)
      | (with_reducible refine Kept.foldl _ _ _ ?_ (fun t a ht => ?_))
      | (fail_if_no_progress (with_reducible apply Kept.upd)))

theorem State.restoreDone_kept {r0 : State} (s : State) (j : Nat) (hK : Kept r0 s) :
    Kept r0 (State.restoreDone s j) := by
  unfold State.restoreDone
  try dsimp only
  repeat' (first
      | (with_reducible assumption) | (with_reducible apply State.reload_kept)
      | (with_reducible apply State.resumeBeat_kept) | (with_reducible apply State.setSn_kept)
      | (with_reducible apply State.put_kept) | (with_reducible apply State.inc_kept)
      | (with_reducible apply State.settleCq_kept) | (with_reducible apply State.setEvent_kept) | (split))

theorem execRestoreComplete_kept {r0 : State} (j : Nat) (s : State) (hK : Kept r0 s) :
    Goes r0 (execRestoreComplete j s) := by
  unfold execRestoreComplete
  try dsimp only
  repeat' (first
      | (with_reducible assumption) | (with_reducible apply State.restoreDone_kept)
      | (with_reducible apply Goes.inUnits) | (with_reducible apply Goes.next))

theorem State.resolvePage_kept {r0 : State} (s : State) (j : Nat) (hK : Kept r0 s) :
    Kept r0 (State.resolvePage s j) := by
  unfold State.resolvePage
  try dsimp only
  repeat' (first
      | (with_reducible assumption) | (with_reducible apply State.copyGranules_kept)
      | (with_reducible apply State.noteCopied_kept) | (with_reducible apply State.setPte_kept)
      | (with_reducible apply State.put_kept) | (split))

theorem execResolvePage_kept {r0 : State} (j : Nat) (s : State) (hK : Kept r0 s) :
    Goes r0 (execResolvePage j s) := by
  unfold execResolvePage
  try dsimp only
  repeat' (first
      | (with_reducible assumption) | (with_reducible apply State.resolvePage_kept)
      | (with_reducible apply Goes.inUnits) | (with_reducible apply Goes.next))

theorem State.restartRestore_kept {r0 : State} (s : State) (j : Nat) (hK : Kept r0 s) :
    Kept r0 (State.restartRestore s j) := by
  unfold State.restartRestore
  try dsimp only
  repeat' (first
      | (with_reducible assumption) | (with_reducible apply State.restoreOr_kept)
      | (with_reducible apply State.beginRestore_kept) | (with_reducible apply State.announceRestore_kept)
      | (intro _))

theorem State.takeOver_kept {r0 : State} (s : State) (hK : Kept r0 s) :
    Kept r0 (State.takeOver s) := by
  unfold State.takeOver
  try dsimp only
  repeat' (first
      | (with_reducible assumption) | (with_reducible apply State.put_kept)
      | (with_reducible apply State.setSn_kept) | (with_reducible apply State.restartRestore_kept)
      | (with_reducible apply State.giveUpCurtain_kept) | (with_reducible apply Kept.ite)
      | (with_reducible refine Kept.foldl _ _ _ ?_ (fun t a ht => ?_)))

theorem execLockstep_kept {r0 : State} (s : State) (hK : Kept r0 s) :
    Goes r0 (execLockstep s) := by
  unfold execLockstep
  try dsimp only
  repeat' (first
      | (with_reducible assumption) | (with_reducible apply State.raiseErr_kept)
      | (with_reducible apply State.put_kept) | (with_reducible apply State.takeOver_kept)
      | (with_reducible apply Goes.next) | (with_reducible apply Kept.ite))

theorem State.netLost_kept {r0 : State} (s : State) (hK : Kept r0 s) :
    Kept r0 (State.netLost s) := by
  unfold State.netLost
  try dsimp only
  repeat' (first
      | (with_reducible assumption) | (with_reducible apply State.put_kept)
      | (with_reducible apply State.setSn_kept) | (with_reducible apply State.quiesceCtxs_kept)
      | (with_reducible apply State.dropColl_kept) | (with_reducible apply State.raiseErr_kept)
      | (with_reducible apply State.setEvent_kept) | (with_reducible apply State.pldmEvent_kept)
      | (with_reducible refine State.sendPacket_kept _ _ ?_) | (with_reducible apply Kept.ite)
      | (with_reducible refine Kept.foldl _ _ _ ?_ (fun t a ht => ?_)) | (with_reducible refine Kept.getD ?_ ?_)
      | (fail_if_no_progress (with_reducible apply Kept.upd)))

theorem execNetLost_kept {r0 : State} (s : State) (hK : Kept r0 s) :
    Goes r0 (execNetLost s) := by
  unfold execNetLost
  try dsimp only
  repeat' (first
      | (with_reducible assumption) | (with_reducible apply State.netLost_kept) | (with_reducible apply Goes.next))

theorem State.postTokens_kept {r0 : State} (s : State) (j x : Nat) (x0 : Nat) (hK : Kept r0 s) :
    Kept r0 (State.postTokens s j x x0) := by
  induction x0 generalizing s j x with
  | zero =>
    unfold State.postTokens
    exact hK
  | succ n ih =>
    unfold State.postTokens
    try dsimp only
    repeat' (first
        | (with_reducible assumption) | (with_reducible apply ih) | (with_reducible apply State.postToken_kept))

theorem State.servePosts_kept {r0 : State} (s : State) (j : Nat) (hK : Kept r0 s) :
    Kept r0 (State.servePosts s j) := by
  unfold State.servePosts
  try dsimp only
  repeat' (first
      | (with_reducible assumption) | (with_reducible apply State.serveSched_kept) | (with_reducible apply Kept.ite))

theorem execTokenPost_kept {r0 : State} (j x : Nat) (s : State) (hK : Kept r0 s) :
    Goes r0 (execTokenPost j x s) := by
  unfold execTokenPost
  try dsimp only
  repeat' (first
      | (with_reducible assumption) | (with_reducible apply State.postToken_kept)
      | (with_reducible apply State.servePosts_kept) | (with_reducible apply State.settleCq_kept)
      | (with_reducible apply Goes.inUnits) | (with_reducible apply Goes.next))

theorem State.writeInject_kept {r0 : State} (s : State) (j val : Nat) (hK : Kept r0 s) :
    Kept r0 (State.writeInject s j val) := by
  unfold State.writeInject
  try dsimp only
  repeat' (first
      | (with_reducible assumption) | (with_reducible apply State.reject_kept)
      | (with_reducible apply State.owe_kept) | (with_reducible apply State.postTokens_kept)
      | (with_reducible apply State.servePosts_kept) | (with_reducible apply State.settleCq_kept)
      | (with_reducible apply Kept.ite))

theorem execSchedInject_kept {r0 : State} (j val : Nat) (s : State) (hK : Kept r0 s) :
    Goes r0 (execSchedInject j val s) := by
  unfold execSchedInject
  try dsimp only
  repeat' (first
      | (with_reducible assumption) | (with_reducible apply State.barWrite_kept)
      | (with_reducible apply State.writeInject_kept) | (with_reducible apply Goes.inUnits)
      | (with_reducible apply Goes.next) | (intro _))

theorem execTokenComplete_kept {r0 : State} (g c : Nat) (s : State) (hK : Kept r0 s) :
    Goes r0 (execTokenComplete g c s) := by
  unfold execTokenComplete
  try dsimp only
  repeat' (first
      | (with_reducible assumption) | (with_reducible apply State.setCtx_kept)
      | (with_reducible apply State.completeToken_kept) | (with_reducible apply Goes.inUnits)
      | (with_reducible apply Goes.next) | (split))

theorem State.applyScales_kept {r0 : State} (s : State) (j : Nat) (hK : Kept r0 s) :
    Kept r0 (State.applyScales s j) := by
  unfold State.applyScales
  try dsimp only
  repeat' (first
      | (with_reducible assumption) | (with_reducible apply State.put_kept) | (with_reducible apply Kept.ite)
      | (with_reducible refine Kept.foldl _ _ _ ?_ (fun t a ht => ?_)))

theorem State.newStep_kept {r0 : State} (s : State) (j v : Nat) (hK : Kept r0 s) :
    Kept r0 (State.newStep s j v) := by
  unfold State.newStep
  try dsimp only
  repeat' (first
      | (with_reducible assumption) | (with_reducible apply State.put_kept)
      | (with_reducible apply State.applyScales_kept) | (with_reducible apply State.setJobS_kept)
      | (with_reducible refine Kept.foldl _ _ _ ?_ (fun t a ht => ?_)))

theorem State.writeStepSeq_kept {r0 : State} (s : State) (j val : Nat) (hK : Kept r0 s) :
    Kept r0 (State.writeStepSeq s j val) := by
  unfold State.writeStepSeq
  try dsimp only
  repeat' (first
      | (with_reducible assumption) | (with_reducible apply State.reject_kept)
      | (with_reducible apply State.newStep_kept) | (with_reducible apply State.schedWrap_kept)
      | (with_reducible apply State.serveSched_kept) | (with_reducible apply State.pumpJob_kept)
      | (with_reducible apply Kept.ite))

theorem execStepSeqWrite_kept {r0 : State} (j val : Nat) (s : State) (hK : Kept r0 s) :
    Goes r0 (execStepSeqWrite j val s) := by
  unfold execStepSeqWrite
  try dsimp only
  repeat' (first
      | (with_reducible assumption) | (with_reducible apply State.barWrite_kept)
      | (with_reducible apply State.writeStepSeq_kept) | (with_reducible apply Goes.inUnits)
      | (with_reducible apply Goes.next) | (intro _))

theorem State.writeScale_kept {r0 : State} (s : State) (j t val : Nat) (hK : Kept r0 s) :
    Kept r0 (State.writeScale s j t val) := by
  unfold State.writeScale
  try dsimp only
  repeat' (first
      | (with_reducible assumption) | (with_reducible apply State.reject_kept)
      | (with_reducible apply State.put_kept) | (with_reducible apply Kept.ite))

theorem execScaleWrite_kept {r0 : State} (j t val : Nat) (s : State) (hK : Kept r0 s) :
    Goes r0 (execScaleWrite j t val s) := by
  unfold execScaleWrite
  try dsimp only
  repeat' (first
      | (with_reducible assumption) | (with_reducible apply State.barWrite_kept)
      | (with_reducible apply State.writeScale_kept) | (with_reducible apply Goes.inUnits)
      | (with_reducible apply Goes.next) | (intro _))

theorem execUpdStepStale_kept {r0 : State} (g c : Nat) (s : State) (hK : Kept r0 s) :
    Goes r0 (execUpdStepStale g c s) := by
  unfold execUpdStepStale
  try dsimp only
  repeat' (first
      | (with_reducible assumption) | (with_reducible apply State.coreErr_kept)
      | (with_reducible apply Goes.inUnits) | (with_reducible apply Goes.next) | (split))

theorem State.gatePass_kept {r0 : State} (s : State) (g c : Nat) (q : QEntry) (hK : Kept r0 s) :
    Kept r0 (State.gatePass s g c q) := by
  unfold State.gatePass
  try dsimp only
  repeat' (first
      | (with_reducible assumption) | (with_reducible apply State.setEntry_kept)
      | (with_reducible apply State.pump_kept) | (with_reducible apply State.inc_kept)
      | (with_reducible apply State.put_kept) | (with_reducible apply Kept.ite))

theorem execUpdNfGatePass_kept {r0 : State} (g c : Nat) (s : State) (hK : Kept r0 s) :
    Goes r0 (execUpdNfGatePass g c s) := by
  unfold execUpdNfGatePass
  try dsimp only
  repeat' (first
      | (with_reducible assumption) | (with_reducible apply State.gatePass_kept)
      | (with_reducible apply Goes.inUnits) | (with_reducible apply Goes.next) | (split))

theorem State.beatArrive_kept {r0 : State} (s : State) (g c : Nat) (hK : Kept r0 s) :
    Kept r0 (State.beatArrive s g c) := by
  unfold State.beatArrive
  try dsimp only
  repeat' (first
      | (with_reducible assumption) | (with_reducible apply State.setJobS_kept) | (with_reducible apply Kept.ite))

theorem execBeatArrival_kept {r0 : State} (g c : Nat) (s : State) (hK : Kept r0 s) :
    Goes r0 (execBeatArrival g c s) := by
  unfold execBeatArrival
  try dsimp only
  repeat' (first
      | (with_reducible assumption) | (with_reducible apply State.beatArrive_kept)
      | (with_reducible apply Goes.inUnits) | (with_reducible apply Goes.next))

theorem State.releaseBeat_kept {r0 : State} (s : State) (j n a : Nat) (hK : Kept r0 s) :
    Kept r0 (State.releaseBeat s j n a) := by
  unfold State.releaseBeat
  try dsimp only
  repeat' (first
      | (with_reducible assumption) | (with_reducible apply State.armPart_kept)
      | (with_reducible apply State.setSn_kept) | (with_reducible apply State.put_kept)
      | (with_reducible apply State.noteCurtain_kept) | (with_reducible apply State.wakeBeat_kept)
      | (with_reducible apply Kept.ite) | (with_reducible refine Kept.foldl _ _ _ ?_ (fun t a ht => ?_)))

theorem State.firstRelease_kept {r0 : State} (s : State) (j : Nat) (hK : Kept r0 s) :
    Kept r0 (State.firstRelease s j) := by
  unfold State.firstRelease
  try dsimp only
  repeat' (first
      | (with_reducible assumption) | (with_reducible apply State.setJobS_kept)
      | (with_reducible apply State.releaseBeat_kept))

theorem State.countOverrun_kept {r0 : State} (s : State) (j n m : Nat) (hK : Kept r0 s) :
    Kept r0 (State.countOverrun s j n m) := by
  unfold State.countOverrun
  try dsimp only
  repeat' (first
      | (with_reducible assumption) | (with_reducible apply State.put_kept)
      | (with_reducible apply State.setJobS_kept) | (with_reducible apply Kept.ite))

theorem State.beatRelease_kept {r0 : State} (s : State) (j : Nat) (hK : Kept r0 s) :
    Kept r0 (State.beatRelease s j) := by
  unfold State.beatRelease
  try dsimp only
  repeat' (first
      | (with_reducible assumption) | (with_reducible apply State.put_kept)
      | (with_reducible apply State.countOverrun_kept) | (with_reducible apply State.trace_kept)
      | (with_reducible apply State.openBeat_kept) | (with_reducible apply State.releaseBeat_kept)
      | (with_reducible apply Kept.ite))

theorem execBeatRelease_kept {r0 : State} (j : Nat) (s : State) (hK : Kept r0 s) :
    Goes r0 (execBeatRelease j s) := by
  unfold execBeatRelease
  try dsimp only
  repeat' (first
      | (with_reducible assumption) | (with_reducible apply State.firstRelease_kept)
      | (with_reducible apply State.beatRelease_kept) | (with_reducible apply Goes.inUnits)
      | (with_reducible apply Goes.next) | (with_reducible apply Kept.ite))

theorem execBeatDeadline_kept {r0 : State} (g c : Nat) (s : State) (hK : Kept r0 s) :
    Goes r0 (execBeatDeadline g c s) := by
  unfold execBeatDeadline
  try dsimp only
  repeat' (first
      | (with_reducible assumption) | (with_reducible apply State.closeElastic_kept)
      | (with_reducible apply State.wake_kept) | (with_reducible apply Goes.inUnits)
      | (with_reducible apply Goes.next) | (split))

theorem execBeatOverrun_kept {r0 : State} (j : Nat) (s : State) (hK : Kept r0 s) :
    Goes r0 (execBeatOverrun j s) := by
  unfold execBeatOverrun
  try dsimp only
  repeat' (first
      | (with_reducible assumption) | (with_reducible apply State.setJobS_kept)
      | (with_reducible apply State.raiseErr_kept) | (with_reducible apply State.put_kept)
      | (with_reducible apply Goes.inUnits) | (with_reducible apply Goes.next) | (split))

end Sys2Proof.Machine
end

