-- ==== Sys2Proof/Laws/KeptNet.lean ====
section
/-! SUPPORT. What each operation of the model keeps (Guyline, Collective, Window). -/

namespace Sys2Proof.Machine

theorem State.setPortState_kept {r0 : State} (s : State) (p st : Nat) (hK : Kept r0 s) :
    Kept r0 (State.setPortState s p st) := by
  unfold State.setPortState
  try dsimp only
  repeat' (first
      | (with_reducible assumption) | (with_reducible apply State.put_kept) | (with_reducible apply Kept.ite))

theorem State.clearLink_kept {r0 : State} (s : State) (p : Nat) (hK : Kept r0 s) :
    Kept r0 (State.clearLink s p) := by
  unfold State.clearLink
  try dsimp only
  repeat' (first | (with_reducible assumption) | (with_reducible apply State.setPort_kept))

theorem State.writePortCfg_kept {r0 : State} (s : State) (p val : Nat) (hK : Kept r0 s) :
    Kept r0 (State.writePortCfg s p val) := by
  unfold State.writePortCfg
  try dsimp only
  repeat' (first
      | (with_reducible assumption) | (with_reducible apply State.reject_kept)
      | (with_reducible apply State.put_kept) | (with_reducible apply State.clearLink_kept)
      | (with_reducible apply State.setPortState_kept) | (split))

theorem State.portWrite_kept {r0 : State} (s : State) (p off val : Nat) (f : State → State) (hK : Kept r0 s) (hf : ∀
    c0, Kept r0 c0 → Kept r0 (f c0)) :
    Kept r0 (State.portWrite s p off val f) := by
  unfold State.portWrite
  try dsimp only
  repeat' (first
      | (with_reducible assumption) | (with_reducible apply State.atIsland_kept)
      | (with_reducible apply State.reject_kept) | (with_reducible apply Kept.ite))

theorem execPortEnWrite_kept {r0 : State} (p val : Nat) (s : State) (hK : Kept r0 s) :
    Goes r0 (execPortEnWrite p val s) := by
  unfold execPortEnWrite
  try dsimp only
  repeat' (first
      | (with_reducible assumption) | (with_reducible apply State.barWrite_kept)
      | (with_reducible apply State.portWrite_kept) | (with_reducible apply State.writePortCfg_kept)
      | (with_reducible apply Goes.inUnits) | (with_reducible apply Goes.next) | (intro _))

theorem State.sendCtl_kept {r0 : State} (s : State) (p : Nat) (nak : Bool) (cred : List Nat) (hK : Kept r0 s) :
    Kept r0 (State.sendCtl s p nak cred) := by
  unfold State.sendCtl
  try dsimp only
  repeat' (first | (with_reducible assumption) | (with_reducible apply State.setPort_kept))

theorem State.replay_kept {r0 : State} (s : State) (p : Nat) (hK : Kept r0 s) :
    Kept r0 (State.replay s p) := by
  unfold State.replay
  try dsimp only
  repeat' (first
      | (with_reducible assumption) | (with_reducible apply State.setPort_kept)
      | (with_reducible apply State.inc_kept) | (split))

theorem State.retrain_kept {r0 : State} (s : State) (p : Nat) (hK : Kept r0 s) :
    Kept r0 (State.retrain s p) := by
  unfold State.retrain
  try dsimp only
  repeat' (first
      | (with_reducible assumption) | (with_reducible apply State.setPort_kept)
      | (with_reducible apply State.setPortState_kept))

theorem State.linkUp_kept {r0 : State} (s : State) (p st lanes peer : Nat) (hK : Kept r0 s) :
    Kept r0 (State.linkUp s p st lanes peer) := by
  unfold State.linkUp
  try dsimp only
  repeat' (first
      | (with_reducible assumption) | (with_reducible apply State.setPortState_kept)
      | (with_reducible apply State.put_kept) | (with_reducible apply State.corrected_kept)
      | (with_reducible apply State.sendCtl_kept) | (with_reducible apply State.replay_kept)
      | (with_reducible apply State.pumpOut_kept) | (with_reducible apply Kept.ite))

theorem execPortTrainingDone_kept {r0 : State} (p lanes peer : Nat) (s : State) (hK : Kept r0 s) :
    Goes r0 (execPortTrainingDone p lanes peer s) := by
  unfold execPortTrainingDone
  try dsimp only
  repeat' (first
      | (with_reducible assumption) | (with_reducible apply State.linkUp_kept) | (with_reducible apply Goes.inUnits)
      | (with_reducible apply Goes.next) | (split))

theorem State.losePort_kept {r0 : State} (s : State) (p jobs : Nat) (hK : Kept r0 s) :
    Kept r0 (State.losePort s p jobs) := by
  unfold State.losePort
  try dsimp only
  repeat' (first
      | (with_reducible assumption) | (with_reducible apply State.setPortState_kept)
      | (with_reducible apply State.clearLink_kept) | (with_reducible apply State.raiseErr_kept)
      | (with_reducible apply Kept.ite) | (with_reducible refine Kept.foldl _ _ _ ?_ (fun t a ht => ?_)))

theorem execPortLost_kept {r0 : State} (p jobs : Nat) (s : State) (hK : Kept r0 s) :
    Goes r0 (execPortLost p jobs s) := by
  unfold execPortLost
  try dsimp only
  repeat' (first
      | (with_reducible assumption) | (with_reducible apply State.losePort_kept)
      | (with_reducible apply Goes.inUnits) | (with_reducible apply Goes.next) | (with_reducible apply Kept.ite))

theorem execPortRetrain_kept {r0 : State} (p : Nat) (s : State) (hK : Kept r0 s) :
    Goes r0 (execPortRetrain p s) := by
  unfold execPortRetrain
  try dsimp only
  repeat' (first
      | (with_reducible assumption) | (with_reducible apply State.retrain_kept)
      | (with_reducible apply Goes.inUnits) | (with_reducible apply Goes.next) | (with_reducible apply Kept.ite))

theorem execAckSend_kept {r0 : State} (p : Nat) (s : State) (hK : Kept r0 s) :
    Goes r0 (execAckSend p s) := by
  unfold execAckSend
  try dsimp only
  repeat' (first
      | (with_reducible assumption) | (with_reducible apply State.sendCtl_kept)
      | (with_reducible apply Goes.inUnits) | (with_reducible apply Goes.next) | (with_reducible apply Kept.ite))

theorem State.ackArrive_kept {r0 : State} (s : State) (p seq : Nat) (hK : Kept r0 s) :
    Kept r0 (State.ackArrive s p seq) := by
  unfold State.ackArrive
  try dsimp only
  repeat' (first
      | (with_reducible assumption) | (with_reducible apply State.retrain_kept)
      | (with_reducible apply State.setPort_kept) | (with_reducible apply State.pumpOut_kept) | (split))

theorem execAckReceive_kept {r0 : State} (p seq : Nat) (s : State) (hK : Kept r0 s) :
    Goes r0 (execAckReceive p seq s) := by
  unfold execAckReceive
  try dsimp only
  repeat' (first
      | (with_reducible assumption) | (with_reducible apply State.ackArrive_kept)
      | (with_reducible apply Goes.inUnits) | (with_reducible apply Goes.next) | (with_reducible apply Kept.ite))

theorem State.nakArrive_kept {r0 : State} (s : State) (p seq : Nat) (hK : Kept r0 s) :
    Kept r0 (State.nakArrive s p seq) := by
  unfold State.nakArrive
  try dsimp only
  repeat' (first
      | (with_reducible assumption) | (with_reducible apply State.retrain_kept)
      | (with_reducible apply State.setPort_kept) | (with_reducible apply State.replay_kept) | (split))

theorem execNakReplay_kept {r0 : State} (p seq : Nat) (s : State) (hK : Kept r0 s) :
    Goes r0 (execNakReplay p seq s) := by
  unfold execNakReplay
  try dsimp only
  repeat' (first
      | (with_reducible assumption) | (with_reducible apply State.nakArrive_kept)
      | (with_reducible apply Goes.inUnits) | (with_reducible apply Goes.next) | (with_reducible apply Kept.ite))

theorem State.addCredit_kept {r0 : State} (s : State) (p v n : Nat) (hK : Kept r0 s) :
    Kept r0 (State.addCredit s p v n) := by
  unfold State.addCredit
  try dsimp only
  repeat' (first | (with_reducible assumption) | (with_reducible apply State.setPort_kept))

theorem execCreditReturn_kept {r0 : State} (p vl n : Nat) (s : State) (hK : Kept r0 s) :
    Goes r0 (execCreditReturn p vl n s) := by
  unfold execCreditReturn
  try dsimp only
  repeat' (first
      | (with_reducible assumption) | (with_reducible apply State.sendCtl_kept)
      | (with_reducible apply Goes.inUnits) | (with_reducible apply Goes.next) | (with_reducible apply Kept.ite))

theorem State.badFlit_kept {r0 : State} (s : State) (p : Nat) (hK : Kept r0 s) :
    Kept r0 (State.badFlit s p) := by
  unfold State.badFlit
  try dsimp only
  repeat' (first
      | (with_reducible assumption) | (with_reducible apply State.inc_kept)
      | (with_reducible apply State.sendCtl_kept) | (with_reducible apply Kept.ite))

theorem State.takeFlit_kept {r0 : State} (s : State) (p ft seq : Nat) (hK : Kept r0 s) :
    Kept r0 (State.takeFlit s p ft seq) := by
  unfold State.takeFlit
  try dsimp only
  repeat' (first
      | (with_reducible assumption) | (with_reducible apply State.setPort_kept)
      | (with_reducible apply State.inc_kept) | (with_reducible apply State.sendCtl_kept)
      | (with_reducible apply Kept.ite))

theorem State.ctlArrive_kept {r0 : State} (s : State) (p : Nat) (body : List Byte) (hK : Kept r0 s) :
    Kept r0 (State.ctlArrive s p body) := by
  unfold State.ctlArrive
  try dsimp only
  repeat' (first
      | (with_reducible assumption) | (with_reducible apply State.addCredit_kept)
      | (with_reducible apply State.nakArrive_kept) | (with_reducible apply State.ackArrive_kept)
      | (with_reducible apply Kept.ite) | (with_reducible refine Kept.foldl _ _ _ ?_ (fun t a ht => ?_)))

theorem State.flitArrive_kept {r0 : State} (s : State) (p : Nat) (flit : List Byte) (hK : Kept r0 s) :
    Kept r0 (State.flitArrive s p flit) := by
  unfold State.flitArrive
  try dsimp only
  repeat' (first
      | (with_reducible assumption) | (with_reducible apply State.badFlit_kept)
      | (with_reducible apply State.addCredit_kept) | (with_reducible apply State.takeFlit_kept)
      | (with_reducible apply State.ctlArrive_kept) | (with_reducible apply State.pumpOut_kept)
      | (with_reducible apply Kept.ite))

theorem execFlitReceive_kept {r0 : State} (p : Nat) (flit : List (BitVec 8)) (s : State) (hK : Kept r0 s) :
    Goes r0 (execFlitReceive p flit s) := by
  unfold execFlitReceive
  try dsimp only
  repeat' (first
      | (with_reducible assumption) | (with_reducible apply State.flitArrive_kept)
      | (with_reducible apply Goes.inUnits) | (with_reducible apply Goes.next) | (with_reducible apply Kept.ite))

theorem State.checkTag_kept {r0 : State} (s : State) (p : Nat) (ok : Bool) (keyId : Nat) (hK : Kept r0 s) :
    Kept r0 (State.checkTag s p ok keyId) := by
  unfold State.checkTag
  try dsimp only
  repeat' (first
      | (with_reducible assumption) | (with_reducible apply State.setPort_kept)
      | (with_reducible apply State.sendCtl_kept) | (with_reducible apply State.put_kept)
      | (with_reducible apply State.losePort_kept) | (with_reducible apply Kept.ite))

theorem execMacFlitCheck_kept {r0 : State} (p : Nat) (ok : Bool) (keyId : Nat) (s : State) (hK : Kept r0 s) :
    Goes r0 (execMacFlitCheck p ok keyId s) := by
  unfold execMacFlitCheck
  try dsimp only
  repeat' (first
      | (with_reducible assumption) | (with_reducible apply State.checkTag_kept)
      | (with_reducible apply Goes.inUnits) | (with_reducible apply Goes.next) | (with_reducible apply Kept.ite))

theorem execEncCounterLimit_kept {r0 : State} (p : Nat) (s : State) (hK : Kept r0 s) :
    Goes r0 (execEncCounterLimit p s) := by
  unfold execEncCounterLimit
  try dsimp only
  repeat' (first
      | (with_reducible assumption) | (with_reducible apply State.losePort_kept)
      | (with_reducible apply Goes.inUnits) | (with_reducible apply Goes.next) | (with_reducible apply Kept.ite))

theorem State.oweAck_kept {r0 : State} (s : State) (src group : Nat) (hK : Kept r0 s) :
    Kept r0 (State.oweAck s src group) := by
  unfold State.oweAck
  try dsimp only
  repeat' (first | (with_reducible assumption) | (fail_if_no_progress (with_reducible apply Kept.upd)))

theorem State.dataArrive_kept {r0 : State} (s : State) (p : Nat) (h : PktHead) (q tag : Nat) (data : List Byte) (hK
    : Kept r0 s) :
    Kept r0 (State.dataArrive s p h q tag data) := by
  unfold State.dataArrive
  try dsimp only
  repeat' (first
      | (with_reducible assumption) | (with_reducible apply State.inc_kept)
      | (with_reducible apply State.oweAck_kept) | (with_reducible apply State.cqOffer_kept)
      | (with_reducible apply State.settleCq_kept) | (with_reducible apply State.raiseErr_kept) | (split))

theorem execDataPacketReceive_kept {r0 : State} (p : Nat) (h : PktHead) (q tag : Nat) (data : List (BitVec 8)) (s :
    State) (hK : Kept r0 s) :
    Goes r0 (execDataPacketReceive p h q tag data s) := by
  unfold execDataPacketReceive
  try dsimp only
  repeat' (first
      | (with_reducible assumption) | (with_reducible apply State.arrive_kept)
      | (with_reducible apply State.dataArrive_kept) | (with_reducible apply Goes.inUnits)
      | (with_reducible apply Goes.next) | (intro _))

theorem State.sendAcks_kept {r0 : State} (s : State) (src : Nat) (hK : Kept r0 s) :
    Kept r0 (State.sendAcks s src) := by
  unfold State.sendAcks
  try dsimp only
  repeat' (first
      | (with_reducible assumption) | (with_reducible refine State.sendPacket_kept _ _ ?_)
      | (with_reducible refine Kept.getD ?_ ?_) | (fail_if_no_progress (with_reducible apply Kept.upd)) | (split))

theorem State.ackPackets_kept {r0 : State} (s : State) (group n : Nat) (hK : Kept r0 s) :
    Kept r0 (State.ackPackets s group n) := by
  unfold State.ackPackets
  try dsimp only
  repeat' (first
      | (with_reducible assumption) | (with_reducible apply State.put_kept)
      | (fail_if_no_progress (with_reducible apply Kept.upd)) | (split))

theorem execDeliveryAck_kept {r0 : State} (p : Nat) (h : PktHead) (acks : List (Nat × Nat)) (sent : Bool) (s :
    State) (hK : Kept r0 s) :
    Goes r0 (execDeliveryAck p h acks sent s) := by
  unfold execDeliveryAck
  try dsimp only
  repeat' (first
      | (with_reducible assumption) | (with_reducible apply State.sendAcks_kept)
      | (with_reducible apply State.arrive_kept) | (with_reducible apply State.ackPackets_kept)
      | (with_reducible apply Goes.inUnits) | (with_reducible apply Goes.next) | (with_reducible apply Kept.ite)
      | (with_reducible refine Kept.foldl _ _ _ ?_ (fun t a ht => ?_)) | (intro _))

theorem State.sendBeat_kept {r0 : State} (s : State) (grp : Nat) (hK : Kept r0 s) :
    Kept r0 (State.sendBeat s grp) := by
  unfold State.sendBeat
  try dsimp only
  repeat' (first
      | (with_reducible assumption) | (with_reducible refine State.sendPacket_kept _ _ ?_)
      | (with_reducible refine Kept.getD ?_ ?_) | (split))

theorem execHeartbeat_kept {r0 : State} (grp : Nat) (got : Bool) (s : State) (hK : Kept r0 s) :
    Goes r0 (execHeartbeat grp got s) := by
  unfold execHeartbeat
  try dsimp only
  repeat' (first
      | (with_reducible assumption) | (with_reducible apply State.sendBeat_kept)
      | (with_reducible apply Goes.inUnits) | (with_reducible apply Goes.next) | (with_reducible apply Kept.ite)
      | (fail_if_no_progress (with_reducible apply Kept.upd)))

theorem State.abortCurtains_kept {r0 : State} (s : State) (hK : Kept r0 s) :
    Kept r0 (State.abortCurtains s) := by
  unfold State.abortCurtains
  try dsimp only
  repeat' (first
      | (with_reducible assumption) | (with_reducible apply State.giveUpCurtain_kept)
      | (with_reducible apply Kept.ite) | (with_reducible refine Kept.foldl _ _ _ ?_ (fun t a ht => ?_)))

theorem State.takeMaster_kept {r0 : State} (s : State) (grp : Nat) (hK : Kept r0 s) :
    Kept r0 (State.takeMaster s grp) := by
  unfold State.takeMaster
  try dsimp only
  repeat' (first
      | (with_reducible assumption) | (with_reducible apply State.put_kept)
      | (with_reducible apply State.leaveParent_kept) | (with_reducible refine State.sendPacket_kept _ _ ?_)
      | (with_reducible apply State.abortCurtains_kept) | (with_reducible apply Kept.ite)
      | (with_reducible refine Kept.foldl _ _ _ ?_ (fun t a ht => ?_)) | (with_reducible refine Kept.getD ?_ ?_)
      | (fail_if_no_progress (with_reducible apply Kept.upd)))

theorem execDeputyTakeover_kept {r0 : State} (grp : Nat) (s : State) (hK : Kept r0 s) :
    Goes r0 (execDeputyTakeover grp s) := by
  unfold execDeputyTakeover
  try dsimp only
  repeat' (first
      | (with_reducible assumption) | (with_reducible apply State.takeMaster_kept)
      | (with_reducible apply Goes.inUnits) | (with_reducible apply Goes.next) | (with_reducible apply Kept.ite))

theorem State.newMaster_kept {r0 : State} (s : State) (grp master : Nat) (hK : Kept r0 s) :
    Kept r0 (State.newMaster s grp master) := by
  unfold State.newMaster
  try dsimp only
  repeat' (first
      | (with_reducible assumption) | (with_reducible apply State.put_kept)
      | (with_reducible apply State.clearFilters_kept) | (with_reducible apply State.setLock_kept)
      | (with_reducible apply Kept.ite))

theorem execTakeoverReceive_kept {r0 : State} (p : Nat) (h : PktHead) (grp master : Nat) (s : State) (hK : Kept r0 s) :
    Goes r0 (execTakeoverReceive p h grp master s) := by
  unfold execTakeoverReceive
  with_reducible apply Goes.inUnits
  with_reducible apply Goes.next
  refine State.arrive_kept _ _ _ _ hK (fun t ht => ?_)
  exact Kept.ite (State.newMaster_kept _ _ _ ht) ht

theorem State.joinRestore_kept {r0 : State} (s : State) (j gen : Nat) (hK : Kept r0 s) :
    Kept r0 (State.joinRestore s j gen) := by
  unfold State.joinRestore
  try dsimp only
  repeat' (first
      | (with_reducible assumption) | (with_reducible apply State.bumpFree_kept)
      | (with_reducible apply State.restoreOr_kept) | (with_reducible apply State.setSn_kept)
      | (with_reducible apply State.beginRestore_kept) | (with_reducible apply State.put_kept)
      | (with_reducible apply Kept.ite) | (intro _))

theorem State.readyArrive_kept {r0 : State} (s : State) (group gen n : Nat) (hK : Kept r0 s) :
    Kept r0 (State.readyArrive s group gen n) := by
  unfold State.readyArrive
  try dsimp only
  repeat' (first
      | (with_reducible assumption) | (with_reducible apply State.setSn_kept)
      | (with_reducible apply State.passReady_kept) | (fail_if_no_progress (with_reducible apply Kept.upd))
      | (split))

theorem State.partMessage_kept {r0 : State} (s : State) (j kind body : Nat) (hK : Kept r0 s) :
    Kept r0 (State.partMessage s j kind body) := by
  unfold State.partMessage
  try dsimp only
  repeat' (first
      | (with_reducible assumption) | (with_reducible apply State.armPart_kept)
      | (with_reducible apply State.setSn_kept) | (with_reducible apply State.put_kept)
      | (with_reducible apply State.giveUpCurtain_kept) | (with_reducible apply State.joinRestore_kept) | (split))

theorem State.restoreUp_kept {r0 : State} (s : State) (group gen body : Nat) (hK : Kept r0 s) :
    Kept r0 (State.restoreUp s group gen body) := by
  unfold State.restoreUp
  try dsimp only
  repeat' (first
      | (with_reducible assumption) | (with_reducible apply State.sendUp_kept)
      | (with_reducible apply State.sendDown_kept) | (with_reducible apply State.partMessage_kept) | (split))

theorem State.snMessage_kept {r0 : State} (s : State) (from_ group gen kind body : Nat) (hK : Kept r0 s) :
    Kept r0 (State.snMessage s from_ group gen kind body) := by
  unfold State.snMessage
  try dsimp only
  repeat' (first
      | (with_reducible assumption) | (with_reducible apply State.readyArrive_kept)
      | (with_reducible apply State.restoreUp_kept) | (with_reducible apply State.sendDown_kept)
      | (with_reducible apply State.partMessage_kept) | (with_reducible apply State.passReady_kept)
      | (fail_if_no_progress (with_reducible apply Kept.upd)) | (split))

theorem execSnMessageReceive_kept {r0 : State} (p : Nat) (h : PktHead) (kind body : Nat) (s : State) (hK : Kept r0
    s) :
    Goes r0 (execSnMessageReceive p h kind body s) := by
  unfold execSnMessageReceive
  try dsimp only
  repeat' (first
      | (with_reducible assumption) | (with_reducible apply State.arrive_kept)
      | (with_reducible apply State.snMessage_kept) | (with_reducible apply Goes.inUnits)
      | (with_reducible apply Goes.next) | (intro _))

theorem State.drainMarker_kept {r0 : State} (s : State) (p group gen : Nat) (hK : Kept r0 s) :
    Kept r0 (State.drainMarker s p group gen) := by
  unfold State.drainMarker
  try dsimp only
  repeat' (first
      | (with_reducible assumption) | (with_reducible apply State.setSn_kept)
      | (with_reducible apply State.sendOn_kept) | (split))

theorem execDrainMarkerReceive_kept {r0 : State} (p : Nat) (h : PktHead) (s : State) (hK : Kept r0 s) :
    Goes r0 (execDrainMarkerReceive p h s) := by
  unfold execDrainMarkerReceive
  try dsimp only
  repeat' (first
      | (with_reducible assumption) | (with_reducible apply State.arrive_kept)
      | (with_reducible apply State.drainMarker_kept) | (with_reducible apply Goes.inUnits)
      | (with_reducible apply Goes.next) | (intro _))

theorem State.changeParent_kept {r0 : State} (s : State) (parent : Option Nat) (hK : Kept r0 s) :
    Kept r0 (State.changeParent s parent) := by
  unfold State.changeParent
  try dsimp only
  repeat' (first
      | (with_reducible assumption) | (with_reducible apply State.clearFilters_kept)
      | (with_reducible apply State.setLock_kept) | (with_reducible apply State.loseLock_kept)
      | (fail_if_no_progress (with_reducible apply Kept.upd)) | (split))

theorem execTimeParentChange_kept {r0 : State} (parent : Option Nat) (s : State) (hK : Kept r0 s) :
    Goes r0 (execTimeParentChange parent s) := by
  unfold execTimeParentChange
  try dsimp only
  repeat' (first
      | (with_reducible assumption) | (with_reducible apply State.changeParent_kept)
      | (with_reducible apply Goes.next) | (with_reducible apply Kept.ite))

theorem State.updateRole_kept {r0 : State} (s : State) (hK : Kept r0 s) :
    Kept r0 (State.updateRole s) := by
  unfold State.updateRole
  try dsimp only
  repeat' (first
      | (with_reducible assumption) | (with_reducible apply State.put_kept)
      | (with_reducible apply State.clearFilters_kept) | (with_reducible apply State.setLock_kept)
      | (with_reducible apply State.leaveParent_kept) | (split))

theorem State.writeDevId_kept {r0 : State} (s : State) (val : Nat) (hK : Kept r0 s) :
    Kept r0 (State.writeDevId s val) := by
  unfold State.writeDevId
  try dsimp only
  repeat' (first
      | (with_reducible assumption) | (with_reducible apply State.reject_kept)
      | (with_reducible apply State.put_kept) | (with_reducible apply State.retrain_kept)
      | (with_reducible apply State.updateRole_kept) | (with_reducible apply Kept.ite)
      | (with_reducible refine Kept.foldl _ _ _ ?_ (fun t a ht => ?_)))

theorem execGlDevIdWrite_kept {r0 : State} (val : Nat) (s : State) (hK : Kept r0 s) :
    Goes r0 (execGlDevIdWrite val s) := by
  unfold execGlDevIdWrite
  try dsimp only
  repeat' (first
      | (with_reducible assumption) | (with_reducible apply State.barWrite_kept)
      | (with_reducible apply State.writeDevId_kept) | (with_reducible apply Goes.next) | (intro _))

theorem State.writeTopo_kept {r0 : State} (s : State) (val : Nat) (hK : Kept r0 s) :
    Kept r0 (State.writeTopo s val) := by
  unfold State.writeTopo
  try dsimp only
  repeat' (first
      | (with_reducible assumption) | (with_reducible apply State.reject_kept)
      | (with_reducible apply State.put_kept) | (with_reducible apply State.updateRole_kept)
      | (with_reducible apply Kept.ite))

theorem execGlTopoWrite_kept {r0 : State} (val : Nat) (s : State) (hK : Kept r0 s) :
    Goes r0 (execGlTopoWrite val s) := by
  unfold execGlTopoWrite
  try dsimp only
  repeat' (first
      | (with_reducible assumption) | (with_reducible apply State.barWrite_kept)
      | (with_reducible apply State.writeTopo_kept) | (with_reducible apply Goes.next) | (intro _))

theorem State.setColl_kept {r0 : State} (s : State) (j d : Nat) (x : CollS) (hK : Kept r0 s) :
    Kept r0 (State.setColl s j d x) := by
  unfold State.setColl
  try dsimp only
  repeat' (first | (with_reducible assumption) | (fail_if_no_progress (with_reducible apply Kept.upd)))

theorem State.sendPart_kept {r0 : State} (s : State) (j i : Nat) (d : CollD) (st : Stage) (lo n : Nat) (hK : Kept r0
    s) :
    Kept r0 (State.sendPart s j i d st lo n) := by
  unfold State.sendPart
  try dsimp only
  repeat' (first
      | (with_reducible assumption) | (with_reducible refine State.sendPacket_kept _ _ ?_)
      | (with_reducible refine Kept.getD ?_ ?_))

theorem State.sendChunk_kept {r0 : State} (s : State) (j i : Nat) (d : CollD) (st : Stage) (r : Nat × Nat) (hK :
    Kept r0 s) :
    Kept r0 (State.sendChunk s j i d st r) := by
  unfold State.sendChunk
  try dsimp only
  repeat' (first
      | (with_reducible assumption) | (with_reducible apply State.sendPart_kept)
      | (with_reducible refine Kept.foldl _ _ _ ?_ (fun t a ht => ?_)))

theorem State.enterStages_kept {r0 : State} (s : State) (j i : Nat) (d : CollD) (x0 : Nat) (hK : Kept r0 s) :
    Kept r0 (State.enterStages s j i d x0) := by
  induction x0 generalizing s j i d with
  | zero =>
    unfold State.enterStages
    exact hK
  | succ n ih =>
    unfold State.enterStages
    try dsimp only
    repeat' (first
        | (with_reducible assumption) | (with_reducible apply ih) | (with_reducible apply State.sendChunk_kept)
        | (with_reducible apply State.setColl_kept) | (split))

theorem State.takePacket_kept {r0 : State} (s : State) (j i : Nat) (d : CollD) (st : Stage) (ofs n : Nat) (nf :
    Bool) (data : List Byte) (hK : Kept r0 s) :
    Kept r0 (State.takePacket s j i d st ofs n nf data) := by
  unfold State.takePacket
  try dsimp only
  repeat' (first
      | (with_reducible assumption) | (with_reducible apply State.setColl_kept)
      | (with_reducible apply State.sendPart_kept) | (with_reducible apply State.enterStages_kept)
      | (with_reducible apply Kept.ite))

theorem State.takeWaiting_kept {r0 : State} (s : State) (j i : Nat) (d : CollD) (x0 : Nat) (hK : Kept r0 s) :
    Kept r0 (State.takeWaiting s j i d x0) := by
  induction x0 generalizing s j i d with
  | zero =>
    unfold State.takeWaiting
    exact hK
  | succ n ih =>
    unfold State.takeWaiting
    try dsimp only
    repeat' (first
        | (with_reducible assumption) | (with_reducible apply ih) | (with_reducible apply State.setColl_kept)
        | (with_reducible apply State.raiseErr_kept) | (with_reducible apply State.takePacket_kept) | (split))

theorem State.launch_kept {r0 : State} (s : State) (j i : Nat) (d : CollD) (hK : Kept r0 s) :
    Kept r0 (State.launch s j i d) := by
  unfold State.launch
  try dsimp only
  repeat' (first
      | (with_reducible assumption) | (with_reducible apply State.put_kept)
      | (with_reducible apply State.raiseErr_kept) | (with_reducible apply State.setColl_kept)
      | (with_reducible apply State.enterStages_kept) | (with_reducible apply State.takeWaiting_kept) | (split))

theorem execCollectiveLaunch_kept {r0 : State} (j d : Nat) (s : State) (hK : Kept r0 s) :
    Goes r0 (execCollectiveLaunch j d s) := by
  unfold execCollectiveLaunch
  try dsimp only
  repeat' (first
      | (with_reducible assumption) | (with_reducible apply State.launch_kept) | (with_reducible apply Goes.inUnits)
      | (with_reducible apply Goes.next) | (with_reducible apply Kept.ite))

theorem State.collPacket_kept {r0 : State} (s : State) (j i inst : Nat) (nf : Bool) (ofs : Nat) (data : List Byte)
    (hK : Kept r0 s) :
    Kept r0 (State.collPacket s j i inst nf ofs data) := by
  unfold State.collPacket
  try dsimp only
  repeat' (first
      | (with_reducible assumption) | (with_reducible apply State.setColl_kept)
      | (with_reducible apply State.takeWaiting_kept) | (with_reducible apply Kept.ite))

theorem execCollectivePacket_kept {r0 : State} (p : Nat) (h : PktHead) (d inst : Nat) (nf : Bool) (ofs : Nat) (data
    : List (BitVec 8)) (s : State) (hK : Kept r0 s) :
    Goes r0 (execCollectivePacket p h d inst nf ofs data s) := by
  unfold execCollectivePacket
  try dsimp only
  repeat' (first
      | (with_reducible assumption) | (with_reducible apply State.arrive_kept)
      | (with_reducible apply State.collPacket_kept) | (with_reducible apply Goes.inUnits)
      | (with_reducible apply Goes.next) | (intro _) | (split))

theorem State.devWrites_kept {r0 : State} (s : State) (j a : Nat) (l : List (Nat × Byte)) (hK : Kept r0 s) :
    ∀ u, l.foldlM (fun (u : State) e => match u.devWrite j (a + e.1) e.2 with
        | some w => Except.ok w
        | none => .error (u.accessFail j (a + e.1 : Nat) true)) s = .ok u → Kept r0 u := by
  induction l generalizing s with
  | nil =>
    intro u hu
    cases hu
    exact hK
  | cons e l ih =>
    intro u hu
    rw [List.foldlM_cons] at hu
    split at hu
    · next v hv => exact ih v (State.devWrite_kept s j _ _ hK v hv) u hu
    · cases hu

theorem State.writeElems_kept {r0 : State} (s : State) (j a size : Nat) (l : List Nat) (hK : Kept r0 s) :
    ∀ u, State.writeElems s j a size l = .ok u → Kept r0 u := by
  induction l generalizing s a with
  | nil =>
    intro u hu
    cases hu
    exact hK
  | cons e l ih =>
    intro u hu
    unfold State.writeElems at hu
    change Except.bind _ _ = _ at hu
    unfold Except.bind at hu
    split at hu
    · cases hu
    · next v hx => exact ih v _ (State.devWrites_kept s j a _ hK v hx) u hu

theorem State.collFinish_kept {r0 : State} (s : State) (j i : Nat) (d : CollD) (hK : Kept r0 s) :
    Kept r0 (State.collFinish s j i d) := by
  unfold State.collFinish
  dsimp only
  split
  · exact State.raiseErr_kept _ _ _ hK
  · next u hu =>
    have h := State.writeElems_kept _ _ _ _ _ hK u hu
    apply State.addJobFlag_kept
    apply Kept.ite
    · apply State.incSat_kept
      apply State.put_kept
      exact State.setColl_kept _ _ _ _ h
    · exact State.setColl_kept _ _ _ _ h

theorem execCollectiveComplete_kept {r0 : State} (j d : Nat) (s : State) (hK : Kept r0 s) :
    Goes r0 (execCollectiveComplete j d s) := by
  unfold execCollectiveComplete
  try dsimp only
  repeat' (first
      | (with_reducible assumption) | (with_reducible apply State.collFinish_kept)
      | (with_reducible apply Goes.inUnits) | (with_reducible apply Goes.next) | (with_reducible apply Kept.ite))

theorem execCollectiveTimeout_kept {r0 : State} (j d : Nat) (s : State) (hK : Kept r0 s) :
    Goes r0 (execCollectiveTimeout j d s) := by
  unfold execCollectiveTimeout
  try dsimp only
  repeat' (first
      | (with_reducible assumption) | (with_reducible apply State.raiseErr_kept)
      | (with_reducible apply Goes.inUnits) | (with_reducible apply Goes.next) | (with_reducible apply Kept.ite))

theorem execPcieLinkL0_kept {r0 : State} (rate width : Nat) (s : State) (hK : Kept r0 s) :
    Goes r0 (execPcieLinkL0 rate width s) := by
  unfold execPcieLinkL0
  try dsimp only
  repeat' (first
      | (with_reducible assumption) | (with_reducible apply Goes.inUnits) | (with_reducible apply Goes.next)
      | (with_reducible apply Kept.ite) | (fail_if_no_progress (with_reducible apply Kept.upd)))

theorem State.haltAll_kept {r0 : State} (s : State) (hK : Kept r0 s) :
    Kept r0 (State.haltAll s) := by
  unfold State.haltAll
  try dsimp only
  repeat' (first
      | (with_reducible assumption) | (with_reducible apply State.haltJob_kept) | (with_reducible apply Kept.ite)
      | (with_reducible refine Kept.foldl _ _ _ ?_ (fun t a ht => ?_)))

theorem State.enterD3hot_kept {r0 : State} (s : State) (hK : Kept r0 s) :
    Kept r0 (State.enterD3hot s) := by
  unfold State.enterD3hot
  try dsimp only
  repeat' (first
      | (with_reducible assumption) | (with_reducible apply State.haltAll_kept)
      | (fail_if_no_progress (with_reducible apply Kept.upd)))

theorem execD3hotEntry_kept {r0 : State} (s : State) (hK : Kept r0 s) :
    Goes r0 (execD3hotEntry s) := by
  unfold execD3hotEntry
  try dsimp only
  repeat' (first
      | (with_reducible assumption) | (with_reducible apply State.enterD3hot_kept)
      | (with_reducible apply Goes.next))

theorem State.configWrite_kept {r0 : State} (s : State) (x0 : ConfigReq) (hK : Kept r0 s) :
    Kept r0 (State.configWrite s x0) := by
  unfold State.configWrite
  try dsimp only
  repeat' (first
      | (with_reducible assumption) | (with_reducible apply State.enterD3hot_kept)
      | (fail_if_no_progress (with_reducible apply Kept.upd)) | (split))

theorem execConfigRequest_kept {r0 : State} (req : ConfigReq) (s : State) (hK : Kept r0 s) :
    Goes r0 (execConfigRequest req s) := by
  unfold execConfigRequest
  try dsimp only
  repeat' (first
      | (with_reducible assumption) | (with_reducible apply State.configWrite_kept)
      | (with_reducible apply Goes.next) | (with_reducible apply Kept.ite))

theorem State.msixSend_kept {r0 : State} (s : State) (v : Nat) (hK : Kept r0 s) :
    Kept r0 (State.msixSend s v) := by
  unfold State.msixSend
  try dsimp only
  repeat' (first
      | (with_reducible assumption) | (with_reducible apply State.put_kept) | (with_reducible apply Kept.ite)
      | (fail_if_no_progress (with_reducible apply Kept.upd)))

theorem execMsixSend_kept {r0 : State} (v : Nat) (s : State) (hK : Kept r0 s) :
    Goes r0 (execMsixSend v s) := by
  unfold execMsixSend
  try dsimp only
  repeat' (first
      | (with_reducible assumption) | (with_reducible apply State.msixSend_kept)
      | (with_reducible apply Goes.inUnits) | (with_reducible apply Goes.next))

theorem State.tableWrite_kept {r0 : State} (s : State) (a : Nat) (b : Byte) (hK : Kept r0 s) :
    Kept r0 (State.tableWrite s a b) := by
  unfold State.tableWrite
  try dsimp only
  repeat' (first
      | (with_reducible assumption) | (with_reducible apply State.setMemByte_kept)
      | (with_reducible apply State.setMemNat_kept) | (with_reducible apply Kept.ite))

theorem State.winWrite_kept {r0 : State} (s : State) (a : Nat) (b : Byte) (hK : Kept r0 s) :
    Kept r0 (State.winWrite s a b).1 := by
  unfold State.winWrite
  try dsimp only
  repeat' (first
      | (with_reducible assumption) | (with_reducible apply State.tableWrite_kept)
      | (with_reducible apply State.countMem_kept)
      | (with_reducible refine State.devWrite_kept _ _ _ _ ?_ _ (by with_reducible assumption)) | (split))

theorem State.winRefuse_kept {r0 : State} (s : State) (code : Nat) (hK : Kept r0 s) :
    Kept r0 (State.winRefuse s code) := by
  unfold State.winRefuse
  try dsimp only
  repeat' (first
      | (with_reducible assumption) | (with_reducible apply State.raiseErr_kept) | (with_reducible apply Kept.ite))

theorem State.windowRead_kept {r0 : State} (s : State) (o n : Nat) (hK : Kept r0 s) :
    Kept r0 (State.windowRead s o n) := by
  unfold State.windowRead
  try dsimp only
  repeat' (first
      | (with_reducible assumption) | (with_reducible apply State.countMem_kept)
      | (with_reducible apply State.winRefuse_kept) | (with_reducible apply Kept.ite)
      | (with_reducible refine Kept.foldl _ _ _ ?_ (fun t a ht => ?_))
      | (fail_if_no_progress (with_reducible apply Kept.upd)))

theorem execWindowRead_kept {r0 : State} (off n : Nat) (s : State) (hK : Kept r0 s) :
    Goes r0 (execWindowRead off n s) := by
  unfold execWindowRead
  try dsimp only
  repeat' (first
      | (with_reducible assumption) | (with_reducible apply State.windowRead_kept)
      | (with_reducible apply Goes.inUnits) | (with_reducible apply Goes.next) | (with_reducible apply Kept.ite))

theorem State.winWriteAll_kept {r0 : State} (s : State) (a : Nat) (x0 : List Byte) (hK : Kept r0 s) :
    Kept r0 (State.winWriteAll s a x0).1 := by
  induction x0 generalizing s a with
  | nil =>
    unfold State.winWriteAll
    exact hK
  | cons a l ih =>
    unfold State.winWriteAll
    try dsimp only
    repeat' (first
        | (with_reducible assumption) | (with_reducible apply ih) | (with_reducible apply State.winWrite_kept))

theorem execWindowWrite_kept {r0 : State} (off : Nat) (data : List (BitVec 8)) (s : State) (hK : Kept r0 s) :
    Goes r0 (execWindowWrite off data s) := by
  unfold execWindowWrite
  try dsimp only
  repeat' (first
      | (with_reducible assumption) | (with_reducible apply State.winWriteAll_kept)
      | (with_reducible apply State.winRefuse_kept) | (with_reducible apply Goes.inUnits)
      | (with_reducible apply Goes.next) | (with_reducible apply Kept.ite))

theorem State.writeHifWin_kept {r0 : State} (s : State) (val : Nat) (hK : Kept r0 s) :
    Kept r0 (State.writeHifWin s val) := by
  unfold State.writeHifWin
  try dsimp only
  repeat' (first
      | (with_reducible assumption) | (with_reducible apply State.reject_kept)
      | (with_reducible apply State.put_kept) | (with_reducible apply Kept.ite))

theorem execHifWinWrite_kept {r0 : State} (val : Nat) (s : State) (hK : Kept r0 s) :
    Goes r0 (execHifWinWrite val s) := by
  unfold execHifWinWrite
  try dsimp only
  repeat' (first
      | (with_reducible assumption) | (with_reducible apply State.barWrite_kept)
      | (with_reducible apply State.writeHifWin_kept) | (with_reducible apply Goes.next) | (intro _))

theorem State.resetWindow_kept {r0 : State} (s : State) (hK : Kept r0 s) :
    Kept r0 (State.resetWindow s) := by
  unfold State.resetWindow
  try dsimp only
  repeat' (first | (with_reducible assumption) | (with_reducible apply State.clearFld_kept))

theorem execBar2Resize_kept {r0 : State} (log2 : Nat) (s : State) (hK : Kept r0 s) :
    Goes r0 (execBar2Resize log2 s) := by
  unfold execBar2Resize
  try dsimp only
  repeat' (first
      | (with_reducible assumption) | (with_reducible apply State.resetWindow_kept)
      | (with_reducible apply Goes.inUnits) | (with_reducible apply Goes.next) | (with_reducible apply Kept.ite)
      | (fail_if_no_progress (with_reducible apply Kept.upd)))

theorem State.setMailbox_kept {r0 : State} (s : State) (m : Nat) (x : DoeS) (hK : Kept r0 s) :
    Kept r0 (State.setMailbox s m x) := by
  unfold State.setMailbox
  try dsimp only
  repeat' (first | (with_reducible assumption) | (fail_if_no_progress (with_reducible apply Kept.upd)))

theorem State.doeReply_kept {r0 : State} (s : State) (m : Nat) (resp : List Byte) (hK : Kept r0 s) :
    Kept r0 (State.doeReply s m resp) := by
  unfold State.doeReply
  try dsimp only
  repeat' (first
      | (with_reducible assumption) | (with_reducible apply State.setMailbox_kept)
      | (with_reducible apply State.sendVector_kept))

theorem State.doeArrive_kept {r0 : State} (s : State) (m : Nat) (obj : List Byte) (hK : Kept r0 s) :
    Kept r0 (State.doeArrive s m obj) := by
  unfold State.doeArrive
  try dsimp only
  repeat' (first
      | (with_reducible assumption) | (with_reducible apply State.bumpFree_kept)
      | (with_reducible apply State.doeReply_kept) | (with_reducible apply State.setMailbox_kept)
      | (with_reducible apply Kept.ite))

theorem execDoeObject_kept {r0 : State} (mb : Nat) (obj : List (BitVec 8)) (s : State) (hK : Kept r0 s) :
    Goes r0 (execDoeObject mb obj s) := by
  unfold execDoeObject
  try dsimp only
  repeat' (first
      | (with_reducible assumption) | (with_reducible apply State.doeArrive_kept)
      | (with_reducible apply Goes.inUnits) | (with_reducible apply Goes.next))

theorem State.setStream_kept {r0 : State} (s : State) (n : Nat) (x : IdeS) (hK : Kept r0 s) :
    Kept r0 (State.setStream s n x) := by
  unfold State.setStream
  try dsimp only
  repeat' (first | (with_reducible assumption) | (fail_if_no_progress (with_reducible apply Kept.upd)))

theorem execIdeCheckFail_kept {r0 : State} (stream : Nat) (s : State) (hK : Kept r0 s) :
    Goes r0 (execIdeCheckFail stream s) := by
  unfold execIdeCheckFail
  try dsimp only
  repeat' (first
      | (with_reducible assumption) | (with_reducible apply State.raiseErr_kept)
      | (with_reducible apply State.setStream_kept) | (with_reducible apply Goes.inUnits)
      | (with_reducible apply Goes.next))

end Sys2Proof.Machine
end

