-- ==== Sys2Proof/Laws/KeptPower.lean ====
section
/-! SUPPORT. What each operation of the model keeps (Power, Striker, Security, Playbill, Mgmt). -/

namespace Sys2Proof.Machine

theorem State.liftLevels_kept {r0 : State} (s : State) (hK : Kept r0 s) :
    Kept r0 (State.liftLevels s) := by
  unfold State.liftLevels
  try dsimp only
  repeat' (first
      | (with_reducible assumption) | (with_reducible apply State.put_kept)
      | (with_reducible refine Kept.foldl _ _ _ ?_ (fun t a ht => ?_)))

theorem State.setPoint_kept {r0 : State} (s : State) (r vf : Nat) (hK : Kept r0 s) :
    Kept r0 (State.setPoint s r vf) := by
  unfold State.setPoint
  try dsimp only
  repeat' (first
      | (with_reducible assumption) | (with_reducible apply State.put_kept)
      | (fail_if_no_progress (with_reducible apply Kept.upd)))

theorem State.ringHot_kept {r0 : State} (s : State) (r : Nat) (hK : Kept r0 s) :
    Kept r0 (State.ringHot s r) := by
  unfold State.ringHot
  try dsimp only
  repeat' (first
      | (with_reducible assumption) | (with_reducible apply State.put_kept)
      | (with_reducible apply State.pldmEvent_kept) | (with_reducible apply State.setPoint_kept)
      | (with_reducible apply Kept.ite) | (fail_if_no_progress (with_reducible apply Kept.upd)))

theorem State.checkHot_kept {r0 : State} (s : State) (r : Nat) (hK : Kept r0 s) :
    Kept r0 (State.checkHot s r) := by
  unfold State.checkHot
  try dsimp only
  repeat' (first
      | (with_reducible assumption) | (with_reducible apply State.ringHot_kept) | (with_reducible apply Kept.ite)
      | (fail_if_no_progress (with_reducible apply Kept.upd)))

theorem State.sensorUpdate_kept {r0 : State} (s : State) (i : Nat) (temp : Int) (hK : Kept r0 s) :
    Kept r0 (State.sensorUpdate s i temp) := by
  unfold State.sensorUpdate
  try dsimp only
  repeat' (first
      | (with_reducible assumption) | (with_reducible apply State.put_kept)
      | (with_reducible apply State.checkHot_kept) | (with_reducible apply State.liftLevels_kept)
      | (with_reducible refine Kept.foldl _ _ _ ?_ (fun t a ht => ?_))
      | (fail_if_no_progress (with_reducible apply Kept.upd)))

theorem execSensorUpdate_kept {r0 : State} (i : Nat) (temp : Int) (s : State) (hK : Kept r0 s) :
    Goes r0 (execSensorUpdate i temp s) := by
  unfold execSensorUpdate
  try dsimp only
  repeat' (first
      | (with_reducible assumption) | (with_reducible apply State.sensorUpdate_kept)
      | (with_reducible apply Goes.inUnits) | (with_reducible apply Goes.next) | (with_reducible apply Kept.ite))

theorem State.hotPeriod_kept {r0 : State} (s : State) (r : Nat) (hK : Kept r0 s) :
    Kept r0 (State.hotPeriod s r) := by
  unfold State.hotPeriod
  try dsimp only
  repeat' (first | (with_reducible assumption) | (fail_if_no_progress (with_reducible apply Kept.upd)))

theorem State.capRing_kept {r0 : State} (s : State) (outside : Int) (r p : Nat) (hK : Kept r0 s) :
    Kept r0 (State.capRing s outside r p) := by
  unfold State.capRing
  try dsimp only
  repeat' (first
      | (with_reducible assumption) | (with_reducible apply State.hotPeriod_kept)
      | (with_reducible apply State.put_kept) | (with_reducible apply State.inc_kept)
      | (fail_if_no_progress (with_reducible apply Kept.upd)))

theorem State.capLoop_kept {r0 : State} (s : State) (pkg : Nat) (ring : List Nat) (hK : Kept r0 s) :
    Kept r0 (State.capLoop s pkg ring) := by
  unfold State.capLoop
  try dsimp only
  repeat' (first
      | (with_reducible assumption) | (with_reducible apply State.bumpFree_kept)
      | (with_reducible apply State.put_kept) | (with_reducible apply State.capRing_kept)
      | (with_reducible apply State.inc_kept) | (with_reducible apply Kept.ite)
      | (with_reducible refine Kept.foldl _ _ _ ?_ (fun t a ht => ?_))
      | (fail_if_no_progress (with_reducible apply Kept.upd)))

theorem execCapLoop_kept {r0 : State} (pkg : Nat) (ring : List Nat) (s : State) (hK : Kept r0 s) :
    Goes r0 (execCapLoop pkg ring s) := by
  unfold execCapLoop
  try dsimp only
  repeat' (first
      | (with_reducible assumption) | (with_reducible apply State.capLoop_kept)
      | (with_reducible apply Goes.inUnits) | (with_reducible apply Goes.next) | (with_reducible apply Kept.ite))

theorem execThrottleWindow_kept {r0 : State} (g cx : Nat) (s : State) (hK : Kept r0 s) :
    Goes r0 (execThrottleWindow g cx s) := by
  unfold execThrottleWindow
  try dsimp only
  repeat' (first
      | (with_reducible assumption) | (with_reducible apply State.inc_kept) | (with_reducible apply Goes.inUnits)
      | (with_reducible apply Goes.next))

theorem State.vfChange_kept {r0 : State} (s : State) (r vf : Nat) (hK : Kept r0 s) :
    Kept r0 (State.vfChange s r vf) := by
  unfold State.vfChange
  try dsimp only
  repeat' (first
      | (with_reducible assumption) | (with_reducible apply State.setPoint_kept) | (with_reducible apply Kept.ite)
      | (fail_if_no_progress (with_reducible apply Kept.upd)))

theorem execVfChange_kept {r0 : State} (r vf : Nat) (s : State) (hK : Kept r0 s) :
    Goes r0 (execVfChange r vf s) := by
  unfold execVfChange
  try dsimp only
  repeat' (first
      | (with_reducible assumption) | (with_reducible apply State.vfChange_kept)
      | (with_reducible apply Goes.inUnits) | (with_reducible apply Goes.next) | (with_reducible apply Kept.ite))

theorem execAvsCompletion_kept {r0 : State} (r mv : Nat) (s : State) (hK : Kept r0 s) :
    Goes r0 (execAvsCompletion r mv s) := by
  unfold execAvsCompletion
  try dsimp only
  repeat' (first
      | (with_reducible assumption) | (with_reducible apply State.put_kept)
      | (with_reducible apply State.setPoint_kept) | (with_reducible apply Goes.inUnits)
      | (with_reducible apply Goes.next) | (split))

theorem execAvsFailure_kept {r0 : State} (r : Nat) (s : State) (hK : Kept r0 s) :
    Goes r0 (execAvsFailure r s) := by
  unfold execAvsFailure
  try dsimp only
  repeat' (first
      | (with_reducible assumption) | (with_reducible apply State.put_kept) | (with_reducible apply Goes.inUnits)
      | (with_reducible apply Goes.next) | (fail_if_no_progress (with_reducible apply Kept.upd)))

theorem execThrottleInAssert_kept {r0 : State} (s : State) (hK : Kept r0 s) :
    Goes r0 (execThrottleInAssert s) := by
  unfold execThrottleInAssert
  try dsimp only
  repeat' (first
      | (with_reducible assumption) | (with_reducible apply State.put_kept)
      | (with_reducible apply State.liftLevels_kept) | (with_reducible apply Goes.next))

theorem execThrottleInDeassert_kept {r0 : State} (s : State) (hK : Kept r0 s) :
    Goes r0 (execThrottleInDeassert s) := by
  unfold execThrottleInDeassert
  try dsimp only
  repeat' (first
      | (with_reducible assumption) | (with_reducible apply State.put_kept) | (with_reducible apply Goes.next))

theorem execPinGlitch_kept {r0 : State} (pin : Nat) (s : State) (hK : Kept r0 s) :
    Goes r0 (execPinGlitch pin s) := by
  unfold execPinGlitch
  try dsimp only
  repeat' (first
      | (with_reducible assumption) | (with_reducible apply State.incSat_kept)
      | (with_reducible apply State.setEvent_kept) | (with_reducible apply Goes.inUnits)
      | (with_reducible apply Goes.next))

theorem execHbmHot_kept {r0 : State} (st temp : Nat) (s : State) (hK : Kept r0 s) :
    Goes r0 (execHbmHot st temp s) := by
  unfold execHbmHot
  try dsimp only
  repeat' (first
      | (with_reducible assumption) | (with_reducible apply State.put_kept) | (with_reducible apply Goes.inUnits)
      | (with_reducible apply Goes.next) | (with_reducible apply Kept.ite)
      | (fail_if_no_progress (with_reducible apply Kept.upd)))

theorem State.shutdown_kept {r0 : State} (s : State) (hK : Kept r0 s) :
    Kept r0 (State.shutdown s) := by
  unfold State.shutdown
  try dsimp only
  repeat' (first
      | (with_reducible assumption) | (with_reducible apply State.stopCtx_kept)
      | (with_reducible apply State.clearLink_kept) | (with_reducible apply State.put_kept)
      | (with_reducible apply Kept.ite) | (with_reducible refine Kept.foldl _ _ _ ?_ (fun t a ht => ?_))
      | (fail_if_no_progress (with_reducible apply Kept.upd)))

theorem State.thermtrip_kept {r0 : State} (s : State) (sensor : Option Nat) (hK : Kept r0 s) :
    Kept r0 (State.thermtrip s sensor) := by
  unfold State.thermtrip
  try dsimp only
  repeat' (first
      | (with_reducible assumption) | (with_reducible apply State.bumpFree_kept)
      | (with_reducible apply State.shutdown_kept) | (with_reducible apply Kept.ite)
      | (fail_if_no_progress (with_reducible apply Kept.upd)))

theorem execThermtrip_kept {r0 : State} (sensor : Option Nat) (s : State) (hK : Kept r0 s) :
    Goes r0 (execThermtrip sensor s) := by
  unfold execThermtrip
  try dsimp only
  repeat' (first
      | (with_reducible assumption) | (with_reducible apply State.thermtrip_kept)
      | (with_reducible apply Goes.inUnits) | (with_reducible apply Goes.next))

theorem execSupplyFault_kept {r0 : State} (rail : Nat) (s : State) (hK : Kept r0 s) :
    Goes r0 (execSupplyFault rail s) := by
  unfold execSupplyFault
  try dsimp only
  repeat' (first
      | (with_reducible assumption) | (with_reducible apply State.shutdown_kept)
      | (with_reducible apply Goes.inUnits) | (with_reducible apply Goes.next) | (with_reducible apply Kept.ite)
      | (fail_if_no_progress (with_reducible apply Kept.upd)))

theorem execReferenceMeasurement_kept {r0 : State} (badPcie badBref badGl : Bool) (s : State) (hK : Kept r0 s) :
    Goes r0 (execReferenceMeasurement badPcie badBref badGl s) := by
  unfold execReferenceMeasurement
  try dsimp only
  repeat' (first
      | (with_reducible assumption) | (with_reducible apply State.put_kept) | (with_reducible apply Goes.next))

theorem execRefClockSwitch_kept {r0 : State} (s : State) (hK : Kept r0 s) :
    Goes r0 (execRefClockSwitch s) := by
  unfold execRefClockSwitch
  try dsimp only
  repeat' (first
      | (with_reducible assumption) | (with_reducible apply State.put_kept) | (with_reducible apply Goes.next)
      | (with_reducible apply Kept.ite))

theorem execRefClocksBad_kept {r0 : State} (s : State) (hK : Kept r0 s) :
    Goes r0 (execRefClocksBad s) := by
  unfold execRefClocksBad
  try dsimp only
  repeat' (first
      | (with_reducible assumption) | (with_reducible apply State.raiseErr_kept) | (with_reducible apply Goes.next)
      | (with_reducible apply Kept.ite))

theorem execClockLockLoss_kept {r0 : State} (island : Nat) (s : State) (hK : Kept r0 s) :
    Goes r0 (execClockLockLoss island s) := by
  unfold execClockLockLoss
  try dsimp only
  repeat' (first
      | (with_reducible assumption) | (with_reducible apply Goes.inUnits) | (with_reducible apply Goes.next)
      | (fail_if_no_progress (with_reducible apply Kept.upd)))

theorem State.hsReport_kept {r0 : State} (s : State) (res : Nat) (hK : Kept r0 s) :
    Kept r0 (State.hsReport s res) := by
  unfold State.hsReport
  try dsimp only
  repeat' (first
      | (with_reducible assumption) | (with_reducible apply State.put_kept) | (with_reducible apply State.inc_kept)
      | (with_reducible apply State.trace_kept) | (with_reducible apply Kept.ite))

theorem State.writeHsCmd_kept {r0 : State} (s : State) (val : Nat) (hK : Kept r0 s) :
    Kept r0 (State.writeHsCmd s val) := by
  unfold State.writeHsCmd
  try dsimp only
  repeat' (first
      | (with_reducible assumption) | (with_reducible apply State.reject_kept)
      | (with_reducible apply State.put_kept) | (with_reducible apply State.hsReport_kept)
      | (with_reducible apply State.inc_kept) | (with_reducible apply Kept.ite)
      | (fail_if_no_progress (with_reducible apply Kept.upd)))

theorem execHsCmd_kept {r0 : State} (val : Nat) (s : State) (hK : Kept r0 s) :
    Goes r0 (execHsCmd val s) := by
  unfold execHsCmd
  try dsimp only
  repeat' (first
      | (with_reducible assumption) | (with_reducible apply State.barWrite_kept)
      | (with_reducible apply State.writeHsCmd_kept) | (with_reducible apply Goes.next) | (intro _))

theorem State.hsRestore_kept {r0 : State} (s : State) (cut : Nat) (hK : Kept r0 s) :
    Kept r0 (State.hsRestore s cut) := by
  unfold State.hsRestore
  try dsimp only
  repeat' (first
      | (with_reducible assumption) | (with_reducible apply State.put_kept)
      | (fail_if_no_progress (with_reducible apply Kept.upd)))

theorem State.hsRelease_kept {r0 : State} (s : State) (hK : Kept r0 s) :
    Kept r0 (State.hsRelease s) := by
  unfold State.hsRelease
  try dsimp only
  repeat' (first
      | (with_reducible assumption) | (with_reducible apply State.put_kept) | (with_reducible apply State.pump_kept)
      | (with_reducible apply Kept.ite) | (fail_if_no_progress (with_reducible apply Kept.upd)))

theorem State.hsPhaseDone_kept {r0 : State} (s : State) (hK : Kept r0 s) :
    Kept r0 (State.hsPhaseDone s) := by
  unfold State.hsPhaseDone
  try dsimp only
  repeat' (first
      | (with_reducible assumption) | (with_reducible apply State.hsRestore_kept)
      | (with_reducible apply State.put_kept) | (with_reducible apply State.hsRelease_kept)
      | (with_reducible apply Kept.ite))

theorem execHsArrivalAbandon_kept {r0 : State} (s : State) (hK : Kept r0 s) :
    Goes r0 (execHsArrivalAbandon s) := by
  unfold execHsArrivalAbandon
  try dsimp only
  repeat' (first
      | (with_reducible assumption) | (with_reducible apply State.hsRestore_kept) | (with_reducible apply Goes.next)
      | (with_reducible apply Kept.ite) | (fail_if_no_progress (with_reducible apply Kept.upd)))

theorem execHsWindowExit_kept {r0 : State} (s : State) (hK : Kept r0 s) :
    Goes r0 (execHsWindowExit s) := by
  unfold execHsWindowExit
  try dsimp only
  repeat' (first
      | (with_reducible assumption) | (with_reducible apply State.hsRestore_kept) | (with_reducible apply Goes.next)
      | (with_reducible apply Kept.ite))

theorem State.logicFail_kept {r0 : State} (s : State) (hK : Kept r0 s) :
    Kept r0 (State.logicFail s) := by
  unfold State.logicFail
  try dsimp only
  repeat' (first
      | (with_reducible assumption) | (with_reducible apply State.coreLost_kept)
      | (with_reducible apply State.raiseErr_kept) | (with_reducible apply Kept.ite)
      | (fail_if_no_progress (with_reducible apply Kept.upd)))

theorem State.hsResult_kept {r0 : State} (s : State) (sig : Nat) (hK : Kept r0 s) :
    Kept r0 (State.hsResult s sig) := by
  unfold State.hsResult
  try dsimp only
  repeat' (first
      | (with_reducible assumption) | (with_reducible apply State.hsReport_kept)
      | (with_reducible apply State.put_kept) | (with_reducible apply State.logicFail_kept)
      | (with_reducible apply Kept.ite))

theorem execHsResult_kept {r0 : State} (sig : Nat) (s : State) (hK : Kept r0 s) :
    Goes r0 (execHsResult sig s) := by
  unfold execHsResult
  try dsimp only
  repeat' (first
      | (with_reducible assumption) | (with_reducible apply State.hsResult_kept) | (with_reducible apply Goes.next))

theorem State.analogueDone_kept {r0 : State} (s : State) (value : Int) (hK : Kept r0 s) :
    Kept r0 (State.analogueDone s value) := by
  unfold State.analogueDone
  try dsimp only
  repeat' (first
      | (with_reducible assumption) | (with_reducible apply State.put_kept)
      | (with_reducible apply State.hsReport_kept) | (with_reducible apply State.clearLink_kept)
      | (with_reducible apply State.setPortState_kept) | (fail_if_no_progress (with_reducible apply Kept.upd))
      | (split))

theorem execAnalogueCheckDone_kept {r0 : State} (value : Int) (s : State) (hK : Kept r0 s) :
    Goes r0 (execAnalogueCheckDone value s) := by
  unfold execAnalogueCheckDone
  try dsimp only
  repeat' (first
      | (with_reducible assumption) | (with_reducible apply State.analogueDone_kept)
      | (with_reducible apply Goes.next))

theorem State.noteSvn_kept {r0 : State} (s : State) (typ : Nat) (b : List Byte) (hK : Kept r0 s) :
    Kept r0 (State.noteSvn s typ b) := by
  unfold State.noteSvn
  try dsimp only
  repeat' (first | (with_reducible assumption) | (fail_if_no_progress (with_reducible apply Kept.upd)) | (split))

theorem State.setMeas_kept {r0 : State} (s : State) (i : Nat) (v : List Byte) (hK : Kept r0 s) :
    Kept r0 (State.setMeas s i v) := by
  unfold State.setMeas
  try dsimp only
  repeat' (first
      | (with_reducible assumption) | (with_reducible apply State.put_kept)
      | (with_reducible refine Kept.foldl _ _ _ ?_ (fun t a ht => ?_)))

theorem State.extendMeas_kept {r0 : State} (s : State) (i : Nat) (d : List Byte) (hK : Kept r0 s) :
    Kept r0 (State.extendMeas s i d) := by
  unfold State.extendMeas
  try dsimp only
  repeat' (first | (with_reducible assumption) | (with_reducible apply State.setMeas_kept))

theorem State.secDone_kept {r0 : State} (s : State) (code : Nat) (hK : Kept r0 s) :
    Kept r0 (State.secDone s code) := by
  unfold State.secDone
  try dsimp only
  repeat' (first | (with_reducible assumption) | (with_reducible apply State.put_kept))

theorem State.secData_kept {r0 : State} (s : State) (v : List Byte) (hK : Kept r0 s) :
    Kept r0 (State.secData s v) := by
  unfold State.secData
  try dsimp only
  repeat' (first
      | (with_reducible assumption) | (with_reducible apply State.put_kept)
      | (with_reducible refine Kept.foldl _ _ _ ?_ (fun t a ht => ?_)))

theorem State.secNonce_kept {r0 : State} (s : State) (hK : Kept r0 s) :
    Kept r0 (State.secNonce s) := by
  unfold State.secNonce
  try dsimp only
  repeat' (first
      | (with_reducible assumption) | (with_reducible apply State.bumpFree_kept)
      | (with_reducible apply State.secData_kept) | (with_reducible apply State.secDone_kept)
      | (fail_if_no_progress (with_reducible apply Kept.upd)))

theorem State.secIdentity_kept {r0 : State} (s : State) (hK : Kept r0 s) :
    Kept r0 (State.secIdentity s) := by
  unfold State.secIdentity
  try dsimp only
  repeat' (first
      | (with_reducible assumption) | (with_reducible apply State.secData_kept)
      | (with_reducible apply State.secDone_kept))

theorem State.secVerify_kept {r0 : State} (s : State) (hK : Kept r0 s) :
    Kept r0 (State.secVerify s) := by
  unfold State.secVerify
  try dsimp only
  repeat' (first
      | (with_reducible assumption) | (with_reducible apply State.noteSvn_kept)
      | (with_reducible apply State.extendMeas_kept) | (with_reducible apply State.secDone_kept)
      | (with_reducible apply Kept.ite))

theorem State.secCommit_kept {r0 : State} (s : State) (k : Nat) (hK : Kept r0 s) :
    Kept r0 (State.secCommit s k) := by
  unfold State.secCommit
  try dsimp only
  repeat' (first
      | (with_reducible assumption) | (with_reducible apply State.put_kept)
      | (with_reducible apply State.secDone_kept))

theorem State.secRevoke_kept {r0 : State} (s : State) (hK : Kept r0 s) :
    Kept r0 (State.secRevoke s) := by
  unfold State.secRevoke
  try dsimp only
  repeat' (first
      | (with_reducible assumption) | (with_reducible apply State.secDone_kept)
      | (with_reducible apply State.put_kept) | (with_reducible apply Kept.ite))

theorem State.clearKeys_kept {r0 : State} (s : State) (hK : Kept r0 s) :
    Kept r0 (State.clearKeys s) := by
  unfold State.clearKeys
  try dsimp only
  repeat' (first
      | (with_reducible assumption) | (with_reducible apply State.setPort_kept)
      | (with_reducible apply State.losePort_kept) | (with_reducible apply Kept.ite)
      | (with_reducible refine Kept.foldl _ _ _ ?_ (fun t a ht => ?_)))

theorem State.stopIde_kept {r0 : State} (s : State) (hK : Kept r0 s) :
    Kept r0 (State.stopIde s) := by
  unfold State.stopIde
  try dsimp only
  repeat' (first | (with_reducible assumption) | (fail_if_no_progress (with_reducible apply Kept.upd)))

theorem State.openDebug_kept {r0 : State} (s : State) (b : List Byte) (hK : Kept r0 s) :
    Kept r0 (State.openDebug s b) := by
  unfold State.openDebug
  try dsimp only
  repeat' (first
      | (with_reducible assumption) | (with_reducible apply State.extendMeas_kept)
      | (with_reducible apply State.stopIde_kept) | (with_reducible apply State.clearKeys_kept)
      | (with_reducible apply State.put_kept) | (fail_if_no_progress (with_reducible apply Kept.upd)))

theorem State.secDebug_kept {r0 : State} (s : State) (hK : Kept r0 s) :
    Kept r0 (State.secDebug s) := by
  unfold State.secDebug
  try dsimp only
  repeat' (first
      | (with_reducible assumption) | (with_reducible apply State.openDebug_kept)
      | (with_reducible apply State.secDone_kept) | (with_reducible apply Kept.ite)
      | (fail_if_no_progress (with_reducible apply Kept.upd)))

theorem State.secCmd_kept {r0 : State} (s : State) (op arg : Nat) (hK : Kept r0 s) :
    Kept r0 (State.secCmd s op arg) := by
  unfold State.secCmd
  try dsimp only
  repeat' (first
      | (with_reducible assumption) | (with_reducible apply State.reject_kept)
      | (with_reducible apply State.secNonce_kept) | (with_reducible apply State.secIdentity_kept)
      | (with_reducible apply State.secVerify_kept) | (with_reducible apply State.secCommit_kept)
      | (with_reducible apply State.secRevoke_kept) | (with_reducible apply State.secDebug_kept) | (split))

theorem execGetNonce_kept {r0 : State} (s : State) (hK : Kept r0 s) :
    Goes r0 (execGetNonce s) := by
  unfold execGetNonce
  try dsimp only
  repeat' (first
      | (with_reducible assumption) | (with_reducible apply State.barWrite_kept)
      | (with_reducible apply State.secCmd_kept) | (with_reducible apply Goes.next) | (intro _))

theorem execGetIdentity_kept {r0 : State} (s : State) (hK : Kept r0 s) :
    Goes r0 (execGetIdentity s) := by
  unfold execGetIdentity
  try dsimp only
  repeat' (first
      | (with_reducible assumption) | (with_reducible apply State.barWrite_kept)
      | (with_reducible apply State.secCmd_kept) | (with_reducible apply Goes.next) | (intro _))

theorem execVerify_kept {r0 : State} (s : State) (hK : Kept r0 s) :
    Goes r0 (execVerify s) := by
  unfold execVerify
  try dsimp only
  repeat' (first
      | (with_reducible assumption) | (with_reducible apply State.barWrite_kept)
      | (with_reducible apply State.secCmd_kept) | (with_reducible apply Goes.next) | (intro _))

theorem execSvnCommit_kept {r0 : State} (arg : Nat) (s : State) (hK : Kept r0 s) :
    Goes r0 (execSvnCommit arg s) := by
  unfold execSvnCommit
  try dsimp only
  repeat' (first
      | (with_reducible assumption) | (with_reducible apply State.barWrite_kept)
      | (with_reducible apply State.secCmd_kept) | (with_reducible apply Goes.next) | (intro _))

theorem execRevoke_kept {r0 : State} (s : State) (hK : Kept r0 s) :
    Goes r0 (execRevoke s) := by
  unfold execRevoke
  try dsimp only
  repeat' (first
      | (with_reducible assumption) | (with_reducible apply State.barWrite_kept)
      | (with_reducible apply State.secCmd_kept) | (with_reducible apply Goes.next) | (intro _))

theorem execDebugOpen_kept {r0 : State} (s : State) (hK : Kept r0 s) :
    Goes r0 (execDebugOpen s) := by
  unfold execDebugOpen
  try dsimp only
  repeat' (first
      | (with_reducible assumption) | (with_reducible apply State.barWrite_kept)
      | (with_reducible apply State.secCmd_kept) | (with_reducible apply Goes.next) | (intro _))

theorem State.spdmReply_kept {r0 : State} (s : State) (tr : Nat) (ok : Bool) (data : List Byte) (hK : Kept r0 s) :
    Kept r0 (State.spdmReply s tr ok data) := by
  unfold State.spdmReply
  try dsimp only
  repeat' (first
      | (with_reducible assumption) | (with_reducible apply State.doeReply_kept) | (with_reducible apply Kept.ite)
      | (fail_if_no_progress (with_reducible apply Kept.upd)))

theorem State.spdmServe_kept {r0 : State} (s : State) (tr : Nat) (f : State → State) (hK : Kept r0 s) (hf : ∀ c0,
    Kept r0 c0 → Kept r0 (f c0)) :
    Kept r0 (State.spdmServe s tr f) := by
  unfold State.spdmServe
  try dsimp only
  repeat' (first | (with_reducible assumption) | (with_reducible apply hf) | (with_reducible apply Kept.ite))

theorem execGetVersion_kept {r0 : State} (tr : Nat) (s : State) (hK : Kept r0 s) :
    Goes r0 (execGetVersion tr s) := by
  unfold execGetVersion
  try dsimp only
  repeat' (first
      | (with_reducible assumption) | (with_reducible apply State.spdmServe_kept)
      | (with_reducible apply State.spdmReply_kept) | (with_reducible apply Goes.inUnits)
      | (with_reducible apply Goes.next) | (intro _))

theorem execGetCapabilities_kept {r0 : State} (tr : Nat) (s : State) (hK : Kept r0 s) :
    Goes r0 (execGetCapabilities tr s) := by
  unfold execGetCapabilities
  try dsimp only
  repeat' (first
      | (with_reducible assumption) | (with_reducible apply State.spdmServe_kept)
      | (with_reducible apply State.spdmReply_kept) | (with_reducible apply Goes.inUnits)
      | (with_reducible apply Goes.next) | (intro _))

theorem execNegotiateAlgorithms_kept {r0 : State} (tr : Nat) (supported : Bool) (s : State) (hK : Kept r0 s) :
    Goes r0 (execNegotiateAlgorithms tr supported s) := by
  unfold execNegotiateAlgorithms
  try dsimp only
  repeat' (first
      | (with_reducible assumption) | (with_reducible apply State.spdmServe_kept)
      | (with_reducible apply State.spdmReply_kept) | (with_reducible apply Goes.inUnits)
      | (with_reducible apply Goes.next) | (intro _))

theorem execGetDigests_kept {r0 : State} (tr : Nat) (s : State) (hK : Kept r0 s) :
    Goes r0 (execGetDigests tr s) := by
  unfold execGetDigests
  try dsimp only
  repeat' (first
      | (with_reducible assumption) | (with_reducible apply State.spdmServe_kept)
      | (with_reducible apply State.spdmReply_kept) | (with_reducible apply Goes.inUnits)
      | (with_reducible apply Goes.next) | (intro _))

theorem execGetCertificate_kept {r0 : State} (tr slot off len : Nat) (s : State) (hK : Kept r0 s) :
    Goes r0 (execGetCertificate tr slot off len s) := by
  unfold execGetCertificate
  try dsimp only
  repeat' (first
      | (with_reducible assumption) | (with_reducible apply State.spdmServe_kept)
      | (with_reducible apply State.spdmReply_kept) | (with_reducible apply Goes.inUnits)
      | (with_reducible apply Goes.next) | (with_reducible apply Kept.ite) | (intro _))

theorem execChallenge_kept {r0 : State} (tr slot : Nat) (nonce : List (BitVec 8)) (s : State) (hK : Kept r0 s) :
    Goes r0 (execChallenge tr slot nonce s) := by
  unfold execChallenge
  try dsimp only
  repeat' (first
      | (with_reducible assumption) | (with_reducible apply State.spdmServe_kept)
      | (with_reducible apply State.spdmReply_kept) | (with_reducible apply Goes.inUnits)
      | (with_reducible apply Goes.next) | (with_reducible apply Kept.ite) | (intro _))

theorem execGetMeasurements_kept {r0 : State} (tr idx : Nat) (signed : Bool) (nonce : List (BitVec 8)) (s : State)
    (hK : Kept r0 s) :
    Goes r0 (execGetMeasurements tr idx signed nonce s) := by
  unfold execGetMeasurements
  try dsimp only
  repeat' (first
      | (with_reducible assumption) | (with_reducible apply State.spdmServe_kept)
      | (with_reducible apply State.spdmReply_kept) | (with_reducible apply Goes.inUnits)
      | (with_reducible apply Goes.next) | (with_reducible apply Kept.ite) | (intro _))

theorem State.setSession_kept {r0 : State} (s : State) (n : Nat) (x : Option SessS) (hK : Kept r0 s) :
    Kept r0 (State.setSession s n x) := by
  unfold State.setSession
  try dsimp only
  repeat' (first | (with_reducible assumption) | (fail_if_no_progress (with_reducible apply Kept.upd)))

theorem State.sessServe_kept {r0 : State} (s : State) (ses : Nat) (f : State → State) (hK : Kept r0 s) (hf : ∀ c0,
    Kept r0 c0 → Kept r0 (f c0)) :
    Kept r0 (State.sessServe s ses f) := by
  unfold State.sessServe
  try dsimp only
  repeat' (first | (with_reducible assumption) | (with_reducible apply State.spdmServe_kept))

theorem State.sessReply_kept {r0 : State} (s : State) (ses : Nat) (ok : Bool) (hK : Kept r0 s) :
    Kept r0 (State.sessReply s ses ok) := by
  unfold State.sessReply
  try dsimp only
  repeat' (first | (with_reducible assumption) | (with_reducible apply State.spdmReply_kept))

theorem execKeyExchange_kept {r0 : State} (tr : Nat) (s : State) (hK : Kept r0 s) :
    Goes r0 (execKeyExchange tr s) := by
  unfold execKeyExchange
  try dsimp only
  repeat' (first
      | (with_reducible assumption) | (with_reducible apply State.spdmServe_kept)
      | (with_reducible apply State.setSession_kept) | (with_reducible apply State.spdmReply_kept)
      | (with_reducible apply Goes.inUnits) | (with_reducible apply Goes.next) | (intro _) | (split))

theorem execFinish_kept {r0 : State} (ses : Nat) (ok : Bool) (s : State) (hK : Kept r0 s) :
    Goes r0 (execFinish ses ok s) := by
  unfold execFinish
  try dsimp only
  repeat' (first
      | (with_reducible assumption) | (with_reducible apply State.sessServe_kept)
      | (with_reducible apply State.setSession_kept) | (with_reducible apply State.sessReply_kept)
      | (with_reducible apply Goes.inUnits) | (with_reducible apply Goes.next) | (intro _) | (split))

theorem execHeartbeatSpdm_kept {r0 : State} (ses : Nat) (s : State) (hK : Kept r0 s) :
    Goes r0 (execHeartbeatSpdm ses s) := by
  unfold execHeartbeatSpdm
  try dsimp only
  repeat' (first
      | (with_reducible assumption) | (with_reducible apply State.sessServe_kept)
      | (with_reducible apply State.sessReply_kept) | (with_reducible apply Goes.inUnits)
      | (with_reducible apply Goes.next) | (intro _))

theorem execKeyUpdate_kept {r0 : State} (ses : Nat) (s : State) (hK : Kept r0 s) :
    Goes r0 (execKeyUpdate ses s) := by
  unfold execKeyUpdate
  try dsimp only
  repeat' (first
      | (with_reducible assumption) | (with_reducible apply State.sessServe_kept)
      | (with_reducible apply State.setSession_kept) | (with_reducible apply State.sessReply_kept)
      | (with_reducible apply Goes.inUnits) | (with_reducible apply Goes.next) | (intro _) | (split))

theorem execEndSession_kept {r0 : State} (ses : Nat) (s : State) (hK : Kept r0 s) :
    Goes r0 (execEndSession ses s) := by
  unfold execEndSession
  try dsimp only
  repeat' (first
      | (with_reducible assumption) | (with_reducible apply State.sessServe_kept)
      | (with_reducible apply State.sessReply_kept) | (with_reducible apply State.setSession_kept)
      | (with_reducible apply Goes.inUnits) | (with_reducible apply Goes.next) | (with_reducible apply Kept.ite)
      | (intro _))

theorem execKeyProg_kept {r0 : State} (ses stream keySet : Nat) (key : List (BitVec 8)) (s : State) (hK : Kept r0 s) :
    Goes r0 (execKeyProg ses stream keySet key s) := by
  unfold execKeyProg
  try dsimp only
  repeat' (first
      | (with_reducible assumption) | (with_reducible apply State.sessServe_kept)
      | (with_reducible apply State.setStream_kept) | (with_reducible apply State.sessReply_kept)
      | (with_reducible apply Goes.inUnits) | (with_reducible apply Goes.next) | (with_reducible apply Kept.ite)
      | (intro _))

theorem execKSetGo_kept {r0 : State} (ses stream keySet : Nat) (s : State) (hK : Kept r0 s) :
    Goes r0 (execKSetGo ses stream keySet s) := by
  unfold execKSetGo
  try dsimp only
  repeat' (first
      | (with_reducible assumption) | (with_reducible apply State.sessServe_kept)
      | (with_reducible apply State.setStream_kept) | (with_reducible apply State.sessReply_kept)
      | (with_reducible apply Goes.inUnits) | (with_reducible apply Goes.next) | (with_reducible apply Kept.ite)
      | (intro _))

theorem execKSetStop_kept {r0 : State} (ses stream keySet : Nat) (s : State) (hK : Kept r0 s) :
    Goes r0 (execKSetStop ses stream keySet s) := by
  unfold execKSetStop
  try dsimp only
  repeat' (first
      | (with_reducible assumption) | (with_reducible apply State.sessServe_kept)
      | (with_reducible apply State.setStream_kept) | (with_reducible apply State.sessReply_kept)
      | (with_reducible apply Goes.inUnits) | (with_reducible apply Goes.next) | (with_reducible apply Kept.ite)
      | (intro _))

theorem State.keyServe_kept {r0 : State} (s : State) (ses port : Nat) (f : State → State) (hK : Kept r0 s) (hf : ∀
    c0, Kept r0 c0 → Kept r0 (f c0)) :
    Kept r0 (State.keyServe s ses port f) := by
  unfold State.keyServe
  try dsimp only
  repeat' (first
      | (with_reducible assumption) | (with_reducible apply hf) | (with_reducible apply State.sessServe_kept)
      | (with_reducible apply State.sessReply_kept) | (with_reducible apply State.reject_kept)
      | (with_reducible apply Kept.ite) | (intro _))

theorem execGlKeyProg_kept {r0 : State} (ses port dir slot keyId : Nat) (key : List (BitVec 8)) (s : State) (hK :
    Kept r0 s) :
    Goes r0 (execGlKeyProg ses port dir slot keyId key s) := by
  unfold execGlKeyProg
  try dsimp only
  repeat' (first
      | (with_reducible assumption) | (with_reducible apply State.keyServe_kept)
      | (with_reducible apply State.sessReply_kept) | (with_reducible apply State.setPort_kept)
      | (with_reducible apply Goes.inUnits) | (with_reducible apply Goes.next) | (with_reducible apply Kept.ite)
      | (intro _))

theorem execGlKeyGo_kept {r0 : State} (ses port : Nat) (s : State) (hK : Kept r0 s) :
    Goes r0 (execGlKeyGo ses port s) := by
  unfold execGlKeyGo
  try dsimp only
  repeat' (first
      | (with_reducible assumption) | (with_reducible apply State.keyServe_kept)
      | (with_reducible apply State.setPort_kept) | (with_reducible apply State.sessReply_kept)
      | (with_reducible apply Goes.inUnits) | (with_reducible apply Goes.next) | (intro _))

theorem State.pbRegisters_kept {r0 : State} (s : State) (b : List Byte) (hK : Kept r0 s) :
    Kept r0 (State.pbRegisters s b) := by
  unfold State.pbRegisters
  try dsimp only
  repeat' (first
      | (with_reducible assumption) | (with_reducible apply State.put_kept)
      | (with_reducible apply State.updateRole_kept) | (with_reducible apply Kept.ite)
      | (with_reducible refine Kept.foldl _ _ _ ?_ (fun t a ht => ?_))
      | (fail_if_no_progress (with_reducible apply Kept.upd)))

theorem State.pbCommit_kept {r0 : State} (s : State) (r : PbResult) (obj : Option (List Byte)) (hK : Kept r0 s) :
    Kept r0 (State.pbCommit s r obj) := by
  unfold State.pbCommit
  try dsimp only
  repeat' (first
      | (with_reducible assumption) | (with_reducible apply State.pbRegisters_kept)
      | (with_reducible apply State.put_kept) | (with_reducible apply State.setMeas_kept)
      | (fail_if_no_progress (with_reducible apply Kept.upd)) | (split))

theorem State.setFlash_kept {r0 : State} (s : State) (a : Nat) (b : Byte) (hK : Kept r0 s) :
    Kept r0 { s with flash := Tab.set 0xFF s.flash a b } :=
  hK.trans ⟨rfl, fun c => ⟨c.1, c.2.1, Tab.set_wf _ _ _ _ c.2.2.1, c.2.2.2⟩⟩

theorem State.writeFlash_kept {r0 : State} (s : State) (a : Nat) (l : List Byte) (hK : Kept r0 s) :
    Kept r0 (State.writeFlash s a l) := by
  induction l generalizing s a with
  | nil => exact hK
  | cons b t ih =>
    unfold State.writeFlash
    exact ih _ _ (State.setFlash_kept _ _ _ hK)

theorem State.answer_kept {r0 : State} (s : State) (code : PldmCode) (data : List Nat) (hK : Kept r0 s) :
    Kept r0 (State.answer s code data) := by
  unfold State.answer
  try dsimp only
  repeat' (first | (with_reducible assumption) | (fail_if_no_progress (with_reducible apply Kept.upd)))

theorem State.pldm_kept {r0 : State} (s : State) (ty : Nat) (f : State → State) (hK : Kept r0 s) (hf : ∀ c0, Kept r0
    c0 → Kept r0 (f c0)) :
    Goes r0 (State.pldm s ty f) := by
  unfold State.pldm
  try dsimp only
  repeat' (first
      | (with_reducible assumption) | (with_reducible apply hf) | (with_reducible apply State.answer_kept)
      | (with_reducible apply Goes.next) | (with_reducible apply Kept.ite))

theorem execSetEndpointId_kept {r0 : State} (eid : Nat) (s : State) (hK : Kept r0 s) :
    Goes r0 (execSetEndpointId eid s) := by
  unfold execSetEndpointId
  try dsimp only
  repeat' (first
      | (with_reducible assumption) | (with_reducible apply State.pldm_kept) | (with_reducible apply State.put_kept)
      | (with_reducible apply State.answer_kept) | (with_reducible apply Goes.inUnits) | (intro _))

theorem execI3cAddressAssign_kept {r0 : State} (addr : Nat) (s : State) (hK : Kept r0 s) :
    Goes r0 (execI3cAddressAssign addr s) := by
  unfold execI3cAddressAssign
  try dsimp only
  repeat' (first
      | (with_reducible assumption) | (with_reducible apply State.put_kept) | (with_reducible apply Goes.inUnits)
      | (with_reducible apply Goes.next) | (fail_if_no_progress (with_reducible apply Kept.upd)))

theorem execRstdaa_kept {r0 : State} (s : State) (hK : Kept r0 s) :
    Goes r0 (execRstdaa s) := by
  unfold execRstdaa
  try dsimp only
  repeat' (first
      | (with_reducible assumption) | (with_reducible apply State.put_kept) | (with_reducible apply Goes.next)
      | (fail_if_no_progress (with_reducible apply Kept.upd)))

theorem execGetTid_kept {r0 : State} (s : State) (hK : Kept r0 s) :
    Goes r0 (execGetTid s) := by
  unfold execGetTid
  try dsimp only
  repeat' (first
      | (with_reducible assumption) | (with_reducible apply State.pldm_kept)
      | (with_reducible apply State.answer_kept) | (intro _))

theorem execSetTid_kept {r0 : State} (tid : Nat) (s : State) (hK : Kept r0 s) :
    Goes r0 (execSetTid tid s) := by
  unfold execSetTid
  try dsimp only
  repeat' (first
      | (with_reducible assumption) | (with_reducible apply State.pldm_kept)
      | (with_reducible apply State.answer_kept) | (with_reducible apply Goes.inUnits)
      | (fail_if_no_progress (with_reducible apply Kept.upd)) | (intro _))

theorem execGetPldmVersion_kept {r0 : State} (ty : Nat) (s : State) (hK : Kept r0 s) :
    Goes r0 (execGetPldmVersion ty s) := by
  unfold execGetPldmVersion
  try dsimp only
  repeat' (first
      | (with_reducible assumption) | (with_reducible apply State.pldm_kept)
      | (with_reducible apply State.bumpFree_kept) | (with_reducible apply State.answer_kept)
      | (with_reducible apply Kept.ite) | (intro _))

theorem execGetPldmTypes_kept {r0 : State} (s : State) (hK : Kept r0 s) :
    Goes r0 (execGetPldmTypes s) := by
  unfold execGetPldmTypes
  try dsimp only
  repeat' (first
      | (with_reducible assumption) | (with_reducible apply State.pldm_kept)
      | (with_reducible apply State.answer_kept) | (intro _))

theorem execGetPldmCommands_kept {r0 : State} (ty : Nat) (s : State) (hK : Kept r0 s) :
    Goes r0 (execGetPldmCommands ty s) := by
  unfold execGetPldmCommands
  try dsimp only
  repeat' (first
      | (with_reducible assumption) | (with_reducible apply State.pldm_kept)
      | (with_reducible apply State.answer_kept) | (with_reducible apply Kept.ite) | (intro _))

theorem execGetPdrRepositoryInfo_kept {r0 : State} (s : State) (hK : Kept r0 s) :
    Goes r0 (execGetPdrRepositoryInfo s) := by
  unfold execGetPdrRepositoryInfo
  try dsimp only
  repeat' (first
      | (with_reducible assumption) | (with_reducible apply State.pldm_kept)
      | (with_reducible apply State.answer_kept) | (intro _))

theorem execGetPdr_kept {r0 : State} (rec : Nat) (s : State) (hK : Kept r0 s) :
    Goes r0 (execGetPdr rec s) := by
  unfold execGetPdr
  try dsimp only
  repeat' (first
      | (with_reducible assumption) | (with_reducible apply State.pldm_kept)
      | (with_reducible apply State.answer_kept) | (with_reducible apply Kept.ite) | (intro _))

theorem execGetSensorReading_kept {r0 : State} (sensor : Nat) (s : State) (hK : Kept r0 s) :
    Goes r0 (execGetSensorReading sensor s) := by
  unfold execGetSensorReading
  try dsimp only
  repeat' (first
      | (with_reducible assumption) | (with_reducible apply State.pldm_kept)
      | (with_reducible apply State.answer_kept) | (intro _) | (split))

theorem execGetStateSensorReadings_kept {r0 : State} (sensor : Nat) (s : State) (hK : Kept r0 s) :
    Goes r0 (execGetStateSensorReadings sensor s) := by
  unfold execGetStateSensorReadings
  try dsimp only
  repeat' (first
      | (with_reducible assumption) | (with_reducible apply State.pldm_kept)
      | (with_reducible apply State.answer_kept) | (intro _) | (split))

theorem execSetEventReceiver_kept {r0 : State} (addr : Nat) (s : State) (hK : Kept r0 s) :
    Goes r0 (execSetEventReceiver addr s) := by
  unfold execSetEventReceiver
  try dsimp only
  repeat' (first
      | (with_reducible assumption) | (with_reducible apply State.pldm_kept)
      | (with_reducible apply State.answer_kept) | (with_reducible apply Goes.inUnits)
      | (fail_if_no_progress (with_reducible apply Kept.upd)) | (intro _))

theorem execPollForPlatformEvent_kept {r0 : State} (s : State) (hK : Kept r0 s) :
    Goes r0 (execPollForPlatformEvent s) := by
  unfold execPollForPlatformEvent
  try dsimp only
  repeat' (first
      | (with_reducible assumption) | (with_reducible apply State.pldm_kept)
      | (with_reducible apply State.answer_kept) | (fail_if_no_progress (with_reducible apply Kept.upd)) | (intro _))

theorem execPlatformEventMessage_kept {r0 : State} (s : State) (hK : Kept r0 s) :
    Goes r0 (execPlatformEventMessage s) := by
  unfold execPlatformEventMessage
  try dsimp only
  repeat' (first
      | (with_reducible assumption) | (with_reducible apply State.answer_kept) | (with_reducible apply Goes.next)
      | (with_reducible apply Kept.ite) | (fail_if_no_progress (with_reducible apply Kept.upd)))

theorem State.toUpd_kept {r0 : State} (s : State) (st : Nat) (hK : Kept r0 s) :
    Kept r0 (State.toUpd s st) := by
  unfold State.toUpd
  try dsimp only
  repeat' (first | (with_reducible assumption) | (with_reducible apply State.put_kept))

theorem State.betweenComps_kept {r0 : State} (s : State) (hK : Kept r0 s) :
    Kept r0 (State.betweenComps s) := by
  unfold State.betweenComps
  try dsimp only
  repeat' (first | (with_reducible assumption) | (with_reducible apply State.toUpd_kept))

theorem execQueryDeviceIdentifiers_kept {r0 : State} (s : State) (hK : Kept r0 s) :
    Goes r0 (execQueryDeviceIdentifiers s) := by
  unfold execQueryDeviceIdentifiers
  try dsimp only
  repeat' (first
      | (with_reducible assumption) | (with_reducible apply State.pldm_kept)
      | (with_reducible apply State.bumpFree_kept) | (with_reducible apply State.answer_kept) | (intro _))

theorem execGetFirmwareParameters_kept {r0 : State} (s : State) (hK : Kept r0 s) :
    Goes r0 (execGetFirmwareParameters s) := by
  unfold execGetFirmwareParameters
  try dsimp only
  repeat' (first
      | (with_reducible assumption) | (with_reducible apply State.pldm_kept)
      | (with_reducible apply State.answer_kept) | (intro _))

theorem execRequestUpdate_kept {r0 : State} (s : State) (hK : Kept r0 s) :
    Goes r0 (execRequestUpdate s) := by
  unfold execRequestUpdate
  try dsimp only
  repeat' (first
      | (with_reducible assumption) | (with_reducible apply State.pldm_kept)
      | (with_reducible apply State.answer_kept) | (with_reducible apply State.toUpd_kept)
      | (with_reducible apply Kept.ite) | (fail_if_no_progress (with_reducible apply Kept.upd)) | (intro _))

theorem execPassComponentTable_kept {r0 : State} (comps : List Nat) (s : State) (hK : Kept r0 s) :
    Goes r0 (execPassComponentTable comps s) := by
  unfold execPassComponentTable
  try dsimp only
  repeat' (first
      | (with_reducible assumption) | (with_reducible apply State.pldm_kept)
      | (with_reducible apply State.answer_kept) | (with_reducible apply Kept.ite)
      | (fail_if_no_progress (with_reducible apply Kept.upd)) | (intro _))

theorem execUpdateComponent_kept {r0 : State} (comp : Nat) (s : State) (hK : Kept r0 s) :
    Goes r0 (execUpdateComponent comp s) := by
  unfold execUpdateComponent
  try dsimp only
  repeat' (first
      | (with_reducible assumption) | (with_reducible apply State.pldm_kept)
      | (with_reducible apply State.toUpd_kept) | (with_reducible apply State.answer_kept)
      | (with_reducible apply Kept.ite) | (fail_if_no_progress (with_reducible apply Kept.upd)) | (intro _))

theorem execRequestFirmwareData_kept {r0 : State} (off : Nat) (data : List (BitVec 8)) (s : State) (hK : Kept r0 s) :
    Goes r0 (execRequestFirmwareData off data s) := by
  unfold execRequestFirmwareData
  try dsimp only
  repeat' (first
      | (with_reducible assumption) | (with_reducible apply State.pldm_kept)
      | (with_reducible apply State.answer_kept) | (with_reducible apply State.writeFlash_kept)
      | (with_reducible apply Goes.inUnits) | (with_reducible apply Kept.ite)
      | (fail_if_no_progress (with_reducible apply Kept.upd)) | (intro _))

theorem execTransferComplete_kept {r0 : State} (s : State) (hK : Kept r0 s) :
    Goes r0 (execTransferComplete s) := by
  unfold execTransferComplete
  try dsimp only
  repeat' (first
      | (with_reducible assumption) | (with_reducible apply State.pldm_kept)
      | (with_reducible apply State.answer_kept) | (with_reducible apply State.betweenComps_kept)
      | (with_reducible apply State.toUpd_kept) | (with_reducible apply Kept.ite) | (intro _))

theorem execVerifyComplete_kept {r0 : State} (s : State) (hK : Kept r0 s) :
    Goes r0 (execVerifyComplete s) := by
  unfold execVerifyComplete
  try dsimp only
  repeat' (first
      | (with_reducible assumption) | (with_reducible apply State.pldm_kept)
      | (with_reducible apply State.answer_kept) | (with_reducible apply State.put_kept)
      | (with_reducible apply State.noteSvn_kept) | (with_reducible apply State.toUpd_kept)
      | (with_reducible apply State.betweenComps_kept) | (with_reducible apply Kept.ite) | (intro _))

theorem execApplyComplete_kept {r0 : State} (s : State) (hK : Kept r0 s) :
    Goes r0 (execApplyComplete s) := by
  unfold execApplyComplete
  try dsimp only
  repeat' (first
      | (with_reducible assumption) | (with_reducible apply State.pldm_kept)
      | (with_reducible apply State.answer_kept) | (with_reducible apply State.toUpd_kept)
      | (with_reducible apply Kept.ite) | (fail_if_no_progress (with_reducible apply Kept.upd)) | (intro _))

theorem State.writeDirectory_kept {r0 : State} (s : State) (hK : Kept r0 s) :
    Kept r0 (State.writeDirectory s) := by
  unfold State.writeDirectory
  try dsimp only
  repeat' (first
      | (with_reducible assumption) | (with_reducible apply State.writeFlash_kept)
      | (with_reducible apply State.put_kept))

theorem State.endUpdate_kept {r0 : State} (s : State) (hK : Kept r0 s) :
    Kept r0 (State.endUpdate s) := by
  unfold State.endUpdate
  try dsimp only
  repeat' (first
      | (with_reducible assumption) | (with_reducible apply State.toUpd_kept)
      | (fail_if_no_progress (with_reducible apply Kept.upd)))

theorem execActivateFirmware_kept {r0 : State} (s : State) (hK : Kept r0 s) :
    Goes r0 (execActivateFirmware s) := by
  unfold execActivateFirmware
  try dsimp only
  repeat' (first
      | (with_reducible assumption) | (with_reducible apply State.pldm_kept)
      | (with_reducible apply State.writeDirectory_kept) | (with_reducible apply State.endUpdate_kept)
      | (with_reducible apply State.answer_kept) | (with_reducible apply Kept.ite) | (intro _))

theorem execGetStatus_kept {r0 : State} (s : State) (hK : Kept r0 s) :
    Goes r0 (execGetStatus s) := by
  unfold execGetStatus
  try dsimp only
  repeat' (first
      | (with_reducible assumption) | (with_reducible apply State.pldm_kept)
      | (with_reducible apply State.answer_kept) | (intro _))

theorem execCancelUpdateComponent_kept {r0 : State} (s : State) (hK : Kept r0 s) :
    Goes r0 (execCancelUpdateComponent s) := by
  unfold execCancelUpdateComponent
  try dsimp only
  repeat' (first
      | (with_reducible assumption) | (with_reducible apply State.pldm_kept)
      | (with_reducible apply State.betweenComps_kept) | (with_reducible apply State.answer_kept)
      | (with_reducible apply Kept.ite) | (intro _))

theorem execCancelUpdate_kept {r0 : State} (s : State) (hK : Kept r0 s) :
    Goes r0 (execCancelUpdate s) := by
  unfold execCancelUpdate
  try dsimp only
  repeat' (first
      | (with_reducible assumption) | (with_reducible apply State.pldm_kept)
      | (with_reducible apply State.endUpdate_kept) | (with_reducible apply State.answer_kept)
      | (with_reducible apply Kept.ite) | (intro _))

end Sys2Proof.Machine
end

