-- ==== Sys2Proof/Laws/KeptHost.lean ====
section
/-! SUPPORT. What each operation of the model keeps (Boot, HostRegs, Rings). -/

namespace Sys2Proof.Machine

theorem State.deviceReset_kept {r0 : State} (s : State) (kind : Nat) (hK : Kept r0 s) :
    Kept r0 (State.deviceReset s kind) := by
  unfold State.deviceReset
  have h : Kept r0 { s with regs := s.regs.filter (fun e => keptReg kind (e.1 / 64)), mem := [], owner := [] } :=
    hK.trans ⟨rfl, fun c => ⟨rfl, c.2.1, c.2.2.1, rfl, Tab.filter_rising _ _ c.2.2.2.2⟩⟩
  apply State.put_kept
  apply Kept.ite
  · refine Kept.foldl _ _ _ (Kept.upd h _ _ _ _ _ _ _ _ _ _ _ _ _ _ _ _ _ _ _ _ _ _ _ _ _ _ _ _ _ _ _ _ _ _ _ _ _ _
      _ _ _ _ _ _ _ _ _ _ _) (fun t a ht => State.put_kept _ _ _ ht)
  · exact Kept.upd h _ _ _ _ _ _ _ _ _ _ _ _ _ _ _ _ _ _ _ _ _ _ _ _ _ _ _ _ _ _ _ _ _ _ _ _ _ _ _ _ _ _ _ _ _ _ _ _ _

theorem State.bootLogAt_kept {r0 : State} (s : State) (stamp event payload : Nat) (hK : Kept r0 s) :
    Kept r0 (State.bootLogAt s stamp event payload) := by
  unfold State.bootLogAt
  try dsimp only
  repeat' (first
      | (with_reducible assumption) | (with_reducible apply State.put_kept)
      | (with_reducible apply State.incSat_kept) | (with_reducible apply Kept.ite)
      | (with_reducible refine Kept.foldl _ _ _ ?_ (fun t a ht => ?_))
      | (fail_if_no_progress (with_reducible apply Kept.upd)))

theorem State.bootLog_kept {r0 : State} (s : State) (event payload : Nat) (hK : Kept r0 s) :
    Kept r0 (State.bootLog s event payload) := by
  unfold State.bootLog
  try dsimp only
  repeat' (first | (with_reducible assumption) | (with_reducible apply State.bootLogAt_kept))

theorem State.stepDone_kept {r0 : State} (s : State) (n us : Nat) (hK : Kept r0 s) :
    Kept r0 (State.stepDone s n us) := by
  unfold State.stepDone
  try dsimp only
  repeat' (first
      | (with_reducible assumption) | (with_reducible apply State.bootLog_kept)
      | (with_reducible apply State.put_kept) | (fail_if_no_progress (with_reducible apply Kept.upd)))

theorem State.stepFailed_kept {r0 : State} (s : State) (n cause reason : Nat) (hK : Kept r0 s) :
    Kept r0 (State.stepFailed s n cause reason) := by
  unfold State.stepFailed
  try dsimp only
  repeat' (first | (with_reducible assumption) | (with_reducible apply State.bootLog_kept))

theorem State.bootStop_kept {r0 : State} (s : State) (n cause reason : Nat) (hK : Kept r0 s) :
    Kept r0 (State.bootStop s n cause reason) := by
  unfold State.bootStop
  try dsimp only
  repeat' (first
      | (with_reducible assumption) | (with_reducible apply State.stepFailed_kept)
      | (with_reducible apply State.put_kept) | (fail_if_no_progress (with_reducible apply Kept.upd)))

theorem State.startUp_kept {r0 : State} (s : State) (straps : Nat) (hK : Kept r0 s) :
    Kept r0 (State.startUp s straps) := by
  unfold State.startUp
  try dsimp only
  repeat' (first
      | (with_reducible assumption) | (with_reducible apply State.put_kept)
      | (with_reducible apply State.bootLog_kept) | (with_reducible apply State.bootLogAt_kept)
      | (with_reducible apply State.stepDone_kept) | (fail_if_no_progress (with_reducible apply Kept.upd)) | (split))

theorem State.imageFail_kept {r0 : State} (s : State) (n cause reason : Nat) (hK : Kept r0 s) :
    Kept r0 (State.imageFail s n cause reason) := by
  unfold State.imageFail
  try dsimp only
  repeat' (first
      | (with_reducible assumption) | (with_reducible apply State.stepFailed_kept)
      | (with_reducible apply State.put_kept) | (with_reducible apply State.bootStop_kept)
      | (with_reducible apply Kept.ite) | (fail_if_no_progress (with_reducible apply Kept.upd)))

theorem State.bootRead_kept {r0 : State} (s : State) (us : Nat) (imageOk playbillOk testOk : Bool) (hK : Kept r0 s) :
    Kept r0 (State.bootRead s us imageOk playbillOk testOk) := by
  unfold State.bootRead
  try dsimp only
  repeat' (first
      | (with_reducible assumption) | (with_reducible apply State.put_kept)
      | (with_reducible apply State.bootLog_kept) | (with_reducible apply State.stepDone_kept)
      | (with_reducible apply State.bumpFree_kept) | (with_reducible apply State.imageFail_kept)
      | (with_reducible apply Kept.ite) | (fail_if_no_progress (with_reducible apply Kept.upd)))

theorem State.bootNote_kept {r0 : State} (s : State) (typ reason : Nat) (obj : Option (List Byte)) (hK : Kept r0 s) :
    Kept r0 (State.bootNote s typ reason obj) := by
  unfold State.bootNote
  try dsimp only
  repeat' (first
      | (with_reducible assumption) | (with_reducible apply State.noteSvn_kept)
      | (with_reducible apply State.stepFailed_kept) | (with_reducible apply Kept.ite))

theorem State.bootCheck_kept {r0 : State} (s : State) (us : Nat) (hK : Kept r0 s) :
    Kept r0 (State.bootCheck s us) := by
  unfold State.bootCheck
  try dsimp only
  repeat' (first
      | (with_reducible assumption) | (with_reducible apply State.imageFail_kept)
      | (with_reducible apply State.bootNote_kept) | (with_reducible apply State.put_kept)
      | (with_reducible apply State.setMeas_kept) | (with_reducible apply State.stepDone_kept)
      | (with_reducible apply Kept.ite) | (fail_if_no_progress (with_reducible apply Kept.upd)))

theorem State.bootCommit_kept {r0 : State} (s : State) (us : Nat) (obj : Option (List Byte)) (hK : Kept r0 s) :
    Kept r0 (State.bootCommit s us obj) := by
  unfold State.bootCommit
  try dsimp only
  repeat' (first
      | (with_reducible assumption) | (with_reducible apply State.pbCommit_kept)
      | (with_reducible apply State.bootLog_kept) | (with_reducible apply State.stepDone_kept)
      | (with_reducible refine Kept.foldl _ _ _ ?_ (fun t a ht => ?_)))

theorem State.bootControl_kept {r0 : State} (s : State) (us : Nat) (hK : Kept r0 s) :
    Kept r0 (State.bootControl s us) := by
  unfold State.bootControl
  try dsimp only
  repeat' (first
      | (with_reducible assumption) | (with_reducible apply State.setMeas_kept)
      | (with_reducible apply State.stepDone_kept))

theorem State.bootSelfTest_kept {r0 : State} (s : State) (us : Nat) (cores : List Nat) (analogue : Nat) (otherFail :
    Bool) (hK : Kept r0 s) :
    Kept r0 (State.bootSelfTest s us cores analogue otherFail) := by
  unfold State.bootSelfTest
  try dsimp only
  repeat' (first
      | (with_reducible assumption) | (with_reducible apply State.coreLost_kept)
      | (with_reducible apply State.bootLog_kept) | (with_reducible apply State.put_kept)
      | (with_reducible apply State.setMeas_kept) | (with_reducible apply State.bootStop_kept)
      | (with_reducible apply State.stepDone_kept) | (with_reducible apply Kept.ite)
      | (with_reducible refine Kept.foldl _ _ _ ?_ (fun t a ht => ?_)))

theorem State.enablePorts_kept {r0 : State} (s : State) (hK : Kept r0 s) :
    Kept r0 (State.enablePorts s) := by
  unfold State.enablePorts
  try dsimp only
  repeat' (first
      | (with_reducible assumption) | (with_reducible apply State.put_kept)
      | (with_reducible apply State.clearLink_kept) | (with_reducible apply State.setPortState_kept)
      | (with_reducible apply Kept.ite) | (with_reducible refine Kept.foldl _ _ _ ?_ (fun t a ht => ?_)))

theorem State.noOwners_kept {r0 : State} (s : State) (m : Tab Nat) (hK : Kept r0 s) :
    Kept r0 { s with modules := m, owner := [] } :=
  hK.trans ⟨rfl, fun c => ⟨c.1, c.2.1, c.2.2.1, rfl, c.2.2.2.2⟩⟩

theorem State.bootMemory_kept {r0 : State} (s : State) (us : Nat) (stacksLost : List Nat) (mods : List DdrModule)
    (tables : List Nat) (hK : Kept r0 s) :
    Kept r0 (State.bootMemory s us stacksLost mods tables) := by
  unfold State.bootMemory
  try dsimp only
  repeat' (first
      | (with_reducible assumption) | (with_reducible apply State.put_kept)
      | (with_reducible apply State.bootLog_kept) | (with_reducible apply State.bootStop_kept)
      | (with_reducible apply State.setOwner_kept) | (with_reducible apply State.stepDone_kept)
      | (with_reducible apply State.enablePorts_kept) | (with_reducible apply State.noOwners_kept)
      | (with_reducible apply Kept.ite) | (with_reducible refine Kept.foldl _ _ _ ?_ (fun t a ht => ?_)))

theorem State.bootLinks_kept {r0 : State} (s : State) (us : Nat) (hK : Kept r0 s) :
    Kept r0 (State.bootLinks s us) := by
  unfold State.bootLinks
  try dsimp only
  repeat' (first
      | (with_reducible assumption) | (with_reducible apply State.bootLog_kept)
      | (with_reducible apply State.stepDone_kept) | (with_reducible refine Kept.foldl _ _ _ ?_ (fun t a ht => ?_)))

theorem State.bootReady_kept {r0 : State} (s : State) (us : Nat) (hK : Kept r0 s) :
    Kept r0 (State.bootReady s us) := by
  unfold State.bootReady
  try dsimp only
  repeat' (first
      | (with_reducible assumption) | (with_reducible apply State.stepDone_kept)
      | (with_reducible apply State.put_kept) | (with_reducible apply State.setEvent_kept)
      | (fail_if_no_progress (with_reducible apply Kept.upd)))

theorem State.bootRom_kept {r0 : State} (s : State) (us : Nat) (hK : Kept r0 s) :
    Kept r0 (State.bootRom s us) := by
  unfold State.bootRom
  try dsimp only
  repeat' (first
      | (with_reducible assumption) | (with_reducible apply State.bootStop_kept)
      | (with_reducible apply State.stepDone_kept) | (with_reducible apply Kept.ite)
      | (fail_if_no_progress (with_reducible apply Kept.upd)))

theorem State.bootFail_kept {r0 : State} (s : State) (us cause : Nat) (hK : Kept r0 s) :
    Kept r0 (State.bootFail s us cause) := by
  unfold State.bootFail
  try dsimp only
  repeat' (first
      | (with_reducible assumption) | (with_reducible apply State.imageFail_kept)
      | (with_reducible apply State.stepFailed_kept) | (with_reducible apply State.bootCommit_kept)
      | (with_reducible apply State.bootLinks_kept) | (with_reducible apply State.bootStop_kept) | (split))

theorem State.bootStep_kept {r0 : State} (s : State) (x0 : BootResult) (hK : Kept r0 s) :
    Kept r0 (State.bootStep s x0) := by
  unfold State.bootStep
  try dsimp only
  repeat' (first
      | (with_reducible assumption) | (with_reducible apply State.stepDone_kept)
      | (with_reducible apply State.bootRom_kept) | (with_reducible apply State.bootCheck_kept)
      | (with_reducible apply State.bootCommit_kept) | (with_reducible apply State.bootControl_kept)
      | (with_reducible apply State.bootLinks_kept) | (with_reducible apply State.bootReady_kept)
      | (with_reducible apply State.bootRead_kept) | (with_reducible apply State.bootSelfTest_kept)
      | (with_reducible apply State.bootMemory_kept) | (with_reducible apply State.bootFail_kept)
      | (fail_if_no_progress (with_reducible apply Kept.upd)) | (split))

theorem execBootStepComplete_kept {r0 : State} (res : BootResult) (s : State) (hK : Kept r0 s) :
    Goes r0 (execBootStepComplete res s) := by
  unfold execBootStepComplete
  try dsimp only
  repeat' (first
      | (with_reducible assumption) | (with_reducible apply State.bootStep_kept)
      | (with_reducible apply State.put_kept) | (with_reducible apply Goes.next)
      | (fail_if_no_progress (with_reducible apply Kept.upd)) | (split))

theorem execBootStepTimeout_kept {r0 : State} (s : State) (hK : Kept r0 s) :
    Goes r0 (execBootStepTimeout s) := by
  unfold execBootStepTimeout
  try dsimp only
  repeat' (first
      | (with_reducible assumption) | (with_reducible apply State.bootFail_kept) | (with_reducible apply Goes.next)
      | (with_reducible apply Kept.ite))

theorem execPowerOnReset_kept {r0 : State} (s : State) (hK : Kept r0 s) :
    Goes r0 (execPowerOnReset s) := by
  unfold execPowerOnReset
  try dsimp only
  repeat' (first
      | (with_reducible assumption) | (with_reducible apply State.deviceReset_kept)
      | (with_reducible apply Goes.next))

theorem execPerstAssert_kept {r0 : State} (s : State) (hK : Kept r0 s) :
    Goes r0 (execPerstAssert s) := by
  unfold execPerstAssert
  try dsimp only
  repeat' (first
      | (with_reducible assumption) | (with_reducible apply State.deviceReset_kept)
      | (with_reducible apply Goes.next) | (with_reducible apply Kept.ite))

theorem execPerstDeassert_kept {r0 : State} (straps : Nat) (s : State) (hK : Kept r0 s) :
    Goes r0 (execPerstDeassert straps s) := by
  unfold execPerstDeassert
  try dsimp only
  repeat' (first
      | (with_reducible assumption) | (with_reducible apply State.startUp_kept) | (with_reducible apply Goes.next)
      | (with_reducible apply Kept.ite))

theorem State.writeDevReset_kept {r0 : State} (s : State) (val straps : Nat) (hK : Kept r0 s) :
    Kept r0 (State.writeDevReset s val straps) := by
  unfold State.writeDevReset
  try dsimp only
  repeat' (first
      | (with_reducible assumption) | (with_reducible apply State.reject_kept)
      | (with_reducible apply State.deviceReset_kept) | (with_reducible apply State.startUp_kept)
      | (with_reducible apply Kept.ite) | (fail_if_no_progress (with_reducible apply Kept.upd)))

theorem execDevReset_kept {r0 : State} (val straps : Nat) (s : State) (hK : Kept r0 s) :
    Goes r0 (execDevReset val straps s) := by
  unfold execDevReset
  try dsimp only
  repeat' (first
      | (with_reducible assumption) | (with_reducible apply State.writeDevReset_kept)
      | (with_reducible apply Goes.next) | (with_reducible apply Kept.ite))

theorem State.flr_kept {r0 : State} (s : State) (hK : Kept r0 s) :
    Kept r0 (State.flr s) := by
  unfold State.flr
  try dsimp only
  repeat' (first
      | (with_reducible assumption) | (with_reducible apply State.haltJob_kept)
      | (with_reducible apply State.put_kept) | (with_reducible apply State.releaseJob_kept)
      | (with_reducible apply State.resetWindow_kept) | (with_reducible apply State.clearRegs_kept)
      | (with_reducible apply State.stopIde_kept) | (with_reducible apply Kept.ite)
      | (with_reducible refine Kept.foldl _ _ _ ?_ (fun t a ht => ?_))
      | (fail_if_no_progress (with_reducible apply Kept.upd)))

theorem execFlr_kept {r0 : State} (s : State) (hK : Kept r0 s) :
    Goes r0 (execFlr s) := by
  unfold execFlr
  try dsimp only
  repeat' (first
      | (with_reducible assumption) | (with_reducible apply State.flr_kept) | (with_reducible apply Goes.next))

theorem State.reloadPairs_kept {r0 : State} (s : State) (readOk : Bool) (hK : Kept r0 s) :
    Kept r0 (State.reloadPairs s readOk) := by
  unfold State.reloadPairs
  try dsimp only
  repeat' (first
      | (with_reducible assumption) | (with_reducible apply State.put_kept)
      | (with_reducible apply State.noteSvn_kept) | (with_reducible apply State.setMeas_kept)
      | (with_reducible apply Kept.ite))

theorem State.resume_kept {r0 : State} (s : State) (hK : Kept r0 s) :
    Kept r0 (State.resume s) := by
  unfold State.resume
  try dsimp only
  repeat' (first
      | (with_reducible assumption) | (with_reducible apply State.put_kept)
      | (with_reducible apply State.restartRestore_kept) | (with_reducible apply Kept.ite)
      | (with_reducible refine Kept.foldl _ _ _ ?_ (fun t a ht => ?_))
      | (fail_if_no_progress (with_reducible apply Kept.upd)))

theorem State.writeRcv_kept {r0 : State} (s : State) (cmd : Nat) (readOk : Bool) (hK : Kept r0 s) :
    Kept r0 (State.writeRcv s cmd readOk) := by
  unfold State.writeRcv
  try dsimp only
  repeat' (first
      | (with_reducible assumption) | (with_reducible apply State.reject_kept)
      | (with_reducible apply State.reloadPairs_kept) | (with_reducible apply State.resume_kept)
      | (with_reducible apply Kept.ite))

theorem execReload_kept {r0 : State} (readOk : Bool) (s : State) (hK : Kept r0 s) :
    Goes r0 (execReload readOk s) := by
  unfold execReload
  try dsimp only
  repeat' (first
      | (with_reducible assumption) | (with_reducible apply State.hostReaches_kept)
      | (with_reducible apply State.writeRcv_kept) | (with_reducible apply Goes.next) | (intro _))

theorem execResume_kept {r0 : State} (s : State) (hK : Kept r0 s) :
    Goes r0 (execResume s) := by
  unfold execResume
  try dsimp only
  repeat' (first
      | (with_reducible assumption) | (with_reducible apply State.hostReaches_kept)
      | (with_reducible apply State.writeRcv_kept) | (with_reducible apply Goes.next) | (intro _))

theorem execJtagInstruction_kept {r0 : State} (ins : JtagInstr) (s : State) (hK : Kept r0 s) :
    Goes r0 (execJtagInstruction ins s) := by
  unfold execJtagInstruction
  try dsimp only
  repeat' (first
      | (with_reducible assumption) | (with_reducible apply Goes.next) | (with_reducible apply Kept.ite)
      | (fail_if_no_progress (with_reducible apply Kept.upd)))

theorem State.clearRc_kept {r0 : State} (s : State) (off ev : Nat) (hK : Kept r0 s) :
    Kept r0 (State.clearRc s off ev) := by
  unfold State.clearRc
  try dsimp only
  repeat' (first
      | (with_reducible assumption) | (with_reducible apply State.put_kept)
      | (with_reducible refine Kept.foldl _ _ _ ?_ (fun t a ht => ?_))
      | (fail_if_no_progress (with_reducible apply Kept.upd)) | (split))

theorem State.readNow_kept {r0 : State} (s : State) (off ev : Nat) (hK : Kept r0 s) :
    Kept r0 (State.readNow s off ev) := by
  unfold State.readNow
  try dsimp only
  repeat' (first
      | (with_reducible assumption) | (with_reducible apply State.clearRc_kept) | (with_reducible apply Kept.ite)
      | (fail_if_no_progress (with_reducible apply Kept.upd)))

theorem State.readClear_kept {r0 : State} (s : State) (off ev : Nat) (hK : Kept r0 s) :
    Kept r0 (State.readClear s off ev) := by
  unfold State.readClear
  try dsimp only
  repeat' (first
      | (with_reducible assumption) | (with_reducible apply State.pushWord_kept)
      | (with_reducible apply State.readNow_kept) | (with_reducible apply Kept.ite))

theorem execRcRead_kept {r0 : State} (off ev : Nat) (s : State) (hK : Kept r0 s) :
    Goes r0 (execRcRead off ev s) := by
  unfold execRcRead
  try dsimp only
  repeat' (first
      | (with_reducible assumption) | (with_reducible apply State.readClear_kept) | (with_reducible apply Goes.next)
      | (with_reducible apply Kept.ite) | (fail_if_no_progress (with_reducible apply Kept.upd)))

theorem State.w1cBit_kept {r0 : State} (s : State) (row : RegRow) (ix : List Nat) (off : Nat) (wr hw : Bool) (f :
    FieldRow) (hK : Kept r0 s) :
    Kept r0 (State.w1cBit s row ix off wr hw f) := by
  unfold State.w1cBit
  try dsimp only
  repeat' (first
      | (with_reducible assumption) | (with_reducible apply State.put_kept)
      | (with_reducible apply State.incSat_kept) | (split))

theorem State.w1cWrite_kept {r0 : State} (s : State) (row : RegRow) (ix : List Nat) (off mask hw : Nat) (hK : Kept
    r0 s) :
    Kept r0 (State.w1cWrite s row ix off mask hw) := by
  unfold State.w1cWrite
  try dsimp only
  repeat' (first
      | (with_reducible assumption) | (with_reducible apply State.w1cBit_kept)
      | (with_reducible apply State.sendVector_kept) | (with_reducible apply Kept.ite)
      | (with_reducible refine Kept.foldl _ _ _ ?_ (fun t a ht => ?_)))

theorem State.w1cClear_kept {r0 : State} (s : State) (off mask hw : Nat) (hK : Kept r0 s) :
    Kept r0 (State.w1cClear s off mask hw) := by
  unfold State.w1cClear
  try dsimp only
  repeat' (first
      | (with_reducible assumption) | (with_reducible apply State.reject_kept)
      | (with_reducible apply State.w1cWrite_kept) | (with_reducible apply State.pushWord_kept) | (split))

theorem State.hostWrite_kept {r0 : State} (s : State) (off : Nat) (f : State → State) (hK : Kept r0 s) (hf : ∀ c0,
    Kept r0 c0 → Kept r0 (f c0)) :
    Kept r0 (State.hostWrite s off f) := by
  unfold State.hostWrite
  try dsimp only
  repeat' (first
      | (with_reducible assumption) | (with_reducible apply hf) | (with_reducible apply State.hostReaches_kept)
      | (with_reducible apply State.barWrite_kept) | (with_reducible apply Kept.ite))

theorem execW1cClear_kept {r0 : State} (off mask hw : Nat) (s : State) (hK : Kept r0 s) :
    Goes r0 (execW1cClear off mask hw s) := by
  unfold execW1cClear
  try dsimp only
  repeat' (first
      | (with_reducible assumption) | (with_reducible apply State.hostWrite_kept)
      | (with_reducible apply State.w1cClear_kept) | (with_reducible apply Goes.next) | (intro _))

theorem State.putFields_kept {r0 : State} (s : State) (row : RegRow) (ix : List Nat) (off val : Nat) (hK : Kept r0
    s) :
    Kept r0 (State.putFields s row ix off val) := by
  unfold State.putFields
  try dsimp only
  repeat' (first
      | (with_reducible assumption) | (with_reducible apply State.put_kept) | (with_reducible apply Kept.ite)
      | (with_reducible refine Kept.foldl _ _ _ ?_ (fun t a ht => ?_)))

theorem State.writeRingCfg_kept {r0 : State} (s : State) (q val : Nat) (hK : Kept r0 s) :
    Kept r0 (State.writeRingCfg s q val) := by
  unfold State.writeRingCfg
  try dsimp only
  repeat' (first
      | (with_reducible assumption) | (with_reducible apply State.put_kept)
      | (with_reducible apply State.setRingNum_kept) | (with_reducible apply Kept.ite))

theorem State.popRecords_kept {r0 : State} (s : State) (q : Nat) (x0 : Nat) (hK : Kept r0 s) :
    Kept r0 (State.popRecords s q x0) := by
  induction x0 generalizing s q with
  | zero =>
    unfold State.popRecords
    exact hK
  | succ n ih =>
    unfold State.popRecords
    try dsimp only
    repeat' (first
        | (with_reducible assumption) | (with_reducible apply ih) | (with_reducible apply State.cqPopOne_kept))

theorem State.applyReg_kept {r0 : State} (s : State) (row : RegRow) (ix : List Nat) (off val : Nat) (hK : Kept r0 s) :
    Kept r0 (State.applyReg s row ix off val) := by
  unfold State.applyReg
  try dsimp only
  repeat' (first
      | (with_reducible assumption) | (with_reducible apply State.writeRingCfg_kept)
      | (with_reducible apply State.popRecords_kept) | (with_reducible apply State.putFields_kept)
      | (with_reducible apply State.updateRole_kept) | (with_reducible apply State.put_kept)
      | (with_reducible apply State.w1cWrite_kept) | (split))

theorem State.genericWrite_kept {r0 : State} (s : State) (row : RegRow) (ix : List Nat) (off val : Nat) (hK : Kept
    r0 s) :
    Kept r0 (State.genericWrite s row ix off val) := by
  unfold State.genericWrite
  try dsimp only
  repeat' (first
      | (with_reducible assumption) | (with_reducible apply State.reject_kept)
      | (with_reducible apply State.applyReg_kept) | (with_reducible apply Kept.ite))

theorem State.writeNow_kept {r0 : State} (s : State) (off val : Nat) (hK : Kept r0 s) :
    Kept r0 (State.writeNow s off val) := by
  unfold State.writeNow
  try dsimp only
  repeat' (first
      | (with_reducible assumption) | (with_reducible apply State.reject_kept)
      | (with_reducible apply State.writeJobCtrl_kept) | (with_reducible apply State.writeMask_kept)
      | (with_reducible apply State.writeFlagAdd_kept) | (with_reducible apply State.writeArrCfg_kept)
      | (with_reducible apply State.cqCfgWrite_kept) | (with_reducible apply State.writeStCtrl_kept)
      | (with_reducible apply State.writeSetSec_kept) | (with_reducible apply State.writeSnapCtrl_kept)
      | (with_reducible apply State.writeSnapT_kept) | (with_reducible apply State.pageCmd_kept)
      | (with_reducible apply State.writeSnReq_kept) | (with_reducible apply State.writeInject_kept)
      | (with_reducible apply State.writeStepSeq_kept) | (with_reducible apply State.writeScale_kept)
      | (with_reducible apply State.writePortCfg_kept) | (with_reducible apply State.writeDevId_kept)
      | (with_reducible apply State.writeTopo_kept) | (with_reducible apply State.writeHsCmd_kept)
      | (with_reducible apply State.secCmd_kept) | (with_reducible apply State.writeRcv_kept)
      | (with_reducible apply State.writeDevReset_kept) | (with_reducible apply State.writeHifWin_kept)
      | (with_reducible apply State.genericWrite_kept) | (split))

theorem State.regWrite_kept {r0 : State} (s : State) (off val : Nat) (hK : Kept r0 s) :
    Kept r0 (State.regWrite s off val) := by
  unfold State.regWrite
  try dsimp only
  repeat' (first
      | (with_reducible assumption) | (with_reducible apply State.pushWord_kept)
      | (with_reducible apply State.writeNow_kept) | (with_reducible apply Kept.ite))

theorem State.deliver_kept {r0 : State} (s : State) (w : XWord) (hK : Kept r0 s) :
    Kept r0 (State.deliver s w) := by
  unfold State.deliver
  try dsimp only
  repeat' (first
      | (with_reducible assumption) | (with_reducible apply State.writeNow_kept)
      | (with_reducible apply State.readNow_kept) | (with_reducible apply Kept.ite))

theorem State.deliverAll_kept {r0 : State} (s : State) (i : Nat) (hK : Kept r0 s) :
    Kept r0 (State.deliverAll s i) := by
  unfold State.deliverAll
  try dsimp only
  repeat' (first
      | (with_reducible assumption) | (with_reducible apply State.deliver_kept)
      | (with_reducible apply State.setCrossing_kept)
      | (with_reducible refine Kept.foldl _ _ _ ?_ (fun t a ht => ?_)))

theorem execCoreClear_kept {r0 : State} (g cx : Nat) (s : State) (hK : Kept r0 s) :
    Goes r0 (execCoreClear g cx s) := by
  unfold execCoreClear
  try dsimp only
  repeat' (first
      | (with_reducible assumption) | (with_reducible apply State.coreClear_kept)
      | (with_reducible apply State.deliverAll_kept) | (with_reducible apply Goes.inUnits)
      | (with_reducible apply Goes.next) | (with_reducible apply Kept.ite))

theorem execHsPhaseDone_kept {r0 : State} (s : State) (hK : Kept r0 s) :
    Goes r0 (execHsPhaseDone s) := by
  unfold execHsPhaseDone
  try dsimp only
  repeat' (first
      | (with_reducible assumption) | (with_reducible apply State.hsPhaseDone_kept)
      | (with_reducible apply State.deliverAll_kept) | (with_reducible apply Goes.next) | (split))

theorem execRegisterWrite_kept {r0 : State} (off val : Nat) (s : State) (hK : Kept r0 s) :
    Goes r0 (execRegisterWrite off val s) := by
  unfold execRegisterWrite
  try dsimp only
  repeat' (first
      | (with_reducible assumption) | (with_reducible apply State.hostWrite_kept)
      | (with_reducible apply State.regWrite_kept) | (with_reducible apply Goes.next) | (intro _))

theorem execRingCfgEnWrite_kept {r0 : State} (q val : Nat) (s : State) (hK : Kept r0 s) :
    Goes r0 (execRingCfgEnWrite q val s) := by
  unfold execRingCfgEnWrite
  try dsimp only
  repeat' (first
      | (with_reducible assumption) | (with_reducible apply State.barWrite_kept)
      | (with_reducible apply State.regWrite_kept) | (with_reducible apply Goes.inUnits)
      | (with_reducible apply Goes.next) | (intro _))

theorem execTrcPop_kept {r0 : State} (q n : Nat) (s : State) (hK : Kept r0 s) :
    Goes r0 (execTrcPop q n s) := by
  unfold execTrcPop
  try dsimp only
  repeat' (first
      | (with_reducible assumption) | (with_reducible apply State.barWrite_kept)
      | (with_reducible apply State.regWrite_kept) | (with_reducible apply Goes.inUnits)
      | (with_reducible apply Goes.next) | (intro _))

theorem State.accessPacket_kept {r0 : State} (s : State) (p src : Nat) (write : Bool) (off val : Nat) (hK : Kept r0
    s) :
    Kept r0 (State.accessPacket s p src write off val) := by
  unfold State.accessPacket
  try dsimp only
  repeat' (first
      | (with_reducible assumption) | (with_reducible apply State.inc_kept)
      | (with_reducible apply State.hostWrite_kept) | (with_reducible apply State.regWrite_kept)
      | (with_reducible apply State.clearRc_kept)
      | (with_reducible refine State.sendPacket_kept _ _ ?_ _ (by with_reducible assumption))
      | (with_reducible apply Kept.ite) | (with_reducible refine Kept.getD ?_ ?_) | (intro _))

theorem execRegisterAccessPacket_kept {r0 : State} (p : Nat) (h : PktHead) (write : Bool) (off val : Nat) (s :
    State) (hK : Kept r0 s) :
    Goes r0 (execRegisterAccessPacket p h write off val s) := by
  unfold execRegisterAccessPacket
  try dsimp only
  repeat' (first
      | (with_reducible assumption) | (with_reducible apply State.arrive_kept)
      | (with_reducible apply State.accessPacket_kept) | (with_reducible apply Goes.inUnits)
      | (with_reducible apply Goes.next) | (intro _))

theorem State.bellReject_kept {r0 : State} (s : State) (code q o : Nat) (hK : Kept r0 s) :
    Kept r0 (State.bellReject s code q o) := by
  unfold State.bellReject
  try dsimp only
  repeat' (first | (with_reducible assumption) | (with_reducible apply State.reject_kept))

theorem State.bellTail_kept {r0 : State} (s : State) (q val : Nat) (hK : Kept r0 s) :
    Kept r0 (State.bellTail s q val) := by
  unfold State.bellTail
  try dsimp only
  repeat' (first
      | (with_reducible assumption) | (with_reducible apply State.bellReject_kept)
      | (with_reducible apply State.put_kept) | (with_reducible apply Kept.ite))

theorem execDoorbellTail_kept {r0 : State} (q val : Nat) (s : State) (hK : Kept r0 s) :
    Goes r0 (execDoorbellTail q val s) := by
  unfold execDoorbellTail
  try dsimp only
  repeat' (first
      | (with_reducible assumption) | (with_reducible apply State.bellTail_kept)
      | (with_reducible apply Goes.inUnits) | (with_reducible apply Goes.next) | (with_reducible apply Kept.ite))

theorem State.bellCplHead_kept {r0 : State} (s : State) (q val : Nat) (hK : Kept r0 s) :
    Kept r0 (State.bellCplHead s q val) := by
  unfold State.bellCplHead
  try dsimp only
  repeat' (first
      | (with_reducible assumption) | (with_reducible apply State.bellReject_kept)
      | (with_reducible apply State.put_kept) | (with_reducible apply Kept.ite))

theorem execDoorbellCplHead_kept {r0 : State} (q val : Nat) (s : State) (hK : Kept r0 s) :
    Goes r0 (execDoorbellCplHead q val s) := by
  unfold execDoorbellCplHead
  try dsimp only
  repeat' (first
      | (with_reducible assumption) | (with_reducible apply State.bellCplHead_kept)
      | (with_reducible apply Goes.inUnits) | (with_reducible apply Goes.next) | (with_reducible apply Kept.ite))

theorem State.bellFrHead_kept {r0 : State} (s : State) (q val : Nat) (hK : Kept r0 s) :
    Kept r0 (State.bellFrHead s q val) := by
  unfold State.bellFrHead
  try dsimp only
  repeat' (first
      | (with_reducible assumption) | (with_reducible apply State.bellReject_kept)
      | (with_reducible apply State.put_kept) | (with_reducible apply Kept.ite))

theorem execDoorbellFrHead_kept {r0 : State} (q val : Nat) (s : State) (hK : Kept r0 s) :
    Goes r0 (execDoorbellFrHead q val s) := by
  unfold execDoorbellFrHead
  try dsimp only
  repeat' (first
      | (with_reducible assumption) | (with_reducible apply State.bellFrHead_kept)
      | (with_reducible apply Goes.inUnits) | (with_reducible apply Goes.next) | (with_reducible apply Kept.ite))

theorem State.ringReject_kept {r0 : State} (s : State) (q idx code : Nat) (job : Option Nat) (hK : Kept r0 s) :
    Kept r0 (State.ringReject s q idx code job) := by
  unfold State.ringReject
  try dsimp only
  repeat' (first
      | (with_reducible assumption) | (with_reducible apply State.reject_kept)
      | (with_reducible apply State.ringDone_kept))

theorem State.takeEntry_kept {r0 : State} (s : State) (q : Nat) (b : List Byte) (hK : Kept r0 s) :
    Kept r0 (State.takeEntry s q b) := by
  unfold State.takeEntry
  try dsimp only
  repeat' (first
      | (with_reducible assumption) | (with_reducible apply State.setRingNum_kept)
      | (with_reducible apply State.put_kept) | (with_reducible apply State.ringReject_kept)
      | (with_reducible apply Kept.ite))

theorem State.stopRing_kept {r0 : State} (s : State) (q : Nat) (hK : Kept r0 s) :
    Kept r0 (State.stopRing s q) := by
  unfold State.stopRing
  try dsimp only
  repeat' (first
      | (with_reducible assumption) | (with_reducible apply State.put_kept)
      | (with_reducible apply State.sendVector_kept))

theorem execRingEntryFetch_kept {r0 : State} (q : Nat) (ok : Bool) (s : State) (hK : Kept r0 s) :
    Goes r0 (execRingEntryFetch q ok s) := by
  unfold execRingEntryFetch
  try dsimp only
  repeat' (first
      | (with_reducible assumption) | (with_reducible apply State.takeEntry_kept)
      | (with_reducible apply State.stopRing_kept) | (with_reducible apply Goes.inUnits)
      | (with_reducible apply Goes.next) | (with_reducible apply Kept.ite))

theorem State.ringRun_kept {r0 : State} (s : State) (q opc : Nat) (f : RingCmd → State) (hK : Kept r0 s) (hf : ∀ c0,
    Kept r0 (f c0)) :
    Kept r0 (State.ringRun s q opc f) := by
  unfold State.ringRun
  try dsimp only
  repeat' (first | (with_reducible assumption) | (with_reducible apply hf) | (split))

theorem execCmdNop_kept {r0 : State} (q : Nat) (s : State) (hK : Kept r0 s) :
    Goes r0 (execCmdNop q s) := by
  unfold execCmdNop
  try dsimp only
  repeat' (first
      | (with_reducible assumption) | (with_reducible apply State.ringRun_kept)
      | (with_reducible apply State.ringDone_kept) | (with_reducible apply Goes.inUnits)
      | (with_reducible apply Goes.next) | (intro _))

theorem State.ringWrite_kept {r0 : State} (s : State) (q : Nat) (c : RingCmd) (hK : Kept r0 s) :
    Kept r0 (State.ringWrite s q c) := by
  unfold State.ringWrite
  try dsimp only
  repeat' (first
      | (with_reducible assumption) | (with_reducible apply State.regWrite_kept)
      | (with_reducible apply State.ringDone_kept) | (with_reducible apply State.ringReject_kept)
      | (with_reducible apply Kept.ite))

theorem execRegWrite_kept {r0 : State} (q : Nat) (s : State) (hK : Kept r0 s) :
    Goes r0 (execRegWrite q s) := by
  unfold execRegWrite
  try dsimp only
  repeat' (first
      | (with_reducible assumption) | (with_reducible apply State.ringRun_kept)
      | (with_reducible apply State.ringWrite_kept) | (with_reducible apply Goes.inUnits)
      | (with_reducible apply Goes.next) | (intro _))

theorem State.ringRead_kept {r0 : State} (s : State) (q : Nat) (c : RingCmd) (hK : Kept r0 s) :
    Kept r0 (State.ringRead s q c) := by
  unfold State.ringRead
  try dsimp only
  repeat' (first
      | (with_reducible assumption) | (with_reducible apply State.clearRc_kept)
      | (with_reducible apply State.ringDone_kept) | (with_reducible apply State.ringReject_kept)
      | (with_reducible apply Kept.ite))

theorem execRegRead_kept {r0 : State} (q : Nat) (s : State) (hK : Kept r0 s) :
    Goes r0 (execRegRead q s) := by
  unfold execRegRead
  try dsimp only
  repeat' (first
      | (with_reducible assumption) | (with_reducible apply State.ringRun_kept)
      | (with_reducible apply State.ringRead_kept) | (with_reducible apply Goes.inUnits)
      | (with_reducible apply Goes.next) | (intro _))

theorem State.copyRun_kept {r0 : State} (s : State) (q opc : Nat) (f : RingCmd → State) (hK : Kept r0 s) (hf : ∀ c0,
    Kept r0 (f c0)) :
    Kept r0 (State.copyRun s q opc f) := by
  unfold State.copyRun
  try dsimp only
  repeat' (first
      | (with_reducible assumption) | (with_reducible apply hf) | (with_reducible apply State.ringReject_kept)
      | (split))

theorem State.copyMoved_kept {r0 : State} (s : State) (q : Nat) (c : RingCmd) (n : Nat) (hK : Kept r0 s) :
    Kept r0 (State.copyMoved s q c n) := by
  unfold State.copyMoved
  try dsimp only
  repeat' (first
      | (with_reducible assumption) | (with_reducible apply State.ringDone_kept)
      | (with_reducible apply State.setRingNum_kept) | (with_reducible apply Kept.ite))

theorem State.copyIn_kept {r0 : State} (s : State) (j src va : Nat) (x0 : Nat) (hK : Kept r0 s) :
    Kept r0 (State.copyIn s j src va x0).1 := by
  induction x0 generalizing s j src va with
  | zero =>
    unfold State.copyIn
    exact hK
  | succ n ih =>
    unfold State.copyIn
    try dsimp only
    repeat' (first
        | (with_reducible assumption) | (with_reducible apply ih)
        | (with_reducible refine State.devWrite_kept _ _ _ _ ?_ _ (by with_reducible assumption))
        | (with_reducible apply State.countMem_kept) | (split))

theorem State.copyOut_kept {r0 : State} (s : State) (j dst va : Nat) (x0 : Nat) (hK : Kept r0 s) :
    Kept r0 (State.copyOut s j dst va x0).1 := by
  induction x0 generalizing s j dst va with
  | zero =>
    unfold State.copyOut
    exact hK
  | succ n ih =>
    unfold State.copyOut
    try dsimp only
    repeat' (first
        | (with_reducible assumption) | (with_reducible apply ih) | (with_reducible apply State.countMem_kept)
        | (with_reducible apply State.setHostByte_kept) | (split))

theorem State.copyFault_kept {r0 : State} (s : State) (q : Nat) (c : RingCmd) (code space a moved : Nat) (hK : Kept
    r0 s) :
    Kept r0 (State.copyFault s q c code space a moved) := by
  unfold State.copyFault
  try dsimp only
  repeat' (first
      | (with_reducible assumption) | (with_reducible apply State.raiseErr_kept)
      | (with_reducible apply State.ringDone_kept))

theorem State.copyToDev_kept {r0 : State} (s : State) (q : Nat) (c : RingCmd) (hostOk : Bool) (hK : Kept r0 s) :
    Kept r0 (State.copyToDev s q c hostOk) := by
  unfold State.copyToDev
  try dsimp only
  repeat' (first
      | (with_reducible assumption) | (with_reducible apply State.bumpFree_kept)
      | (with_reducible apply State.copyIn_kept) | (with_reducible apply State.copyFault_kept)
      | (with_reducible apply State.copyMoved_kept) | (with_reducible apply Kept.ite))

theorem execCopyToDev_kept {r0 : State} (q : Nat) (hostOk : Bool) (s : State) (hK : Kept r0 s) :
    Goes r0 (execCopyToDev q hostOk s) := by
  unfold execCopyToDev
  try dsimp only
  repeat' (first
      | (with_reducible assumption) | (with_reducible apply State.copyRun_kept)
      | (with_reducible apply State.copyToDev_kept) | (with_reducible apply Goes.inUnits)
      | (with_reducible apply Goes.next) | (intro _))

theorem State.copyFromDev_kept {r0 : State} (s : State) (q : Nat) (c : RingCmd) (hK : Kept r0 s) :
    Kept r0 (State.copyFromDev s q c) := by
  unfold State.copyFromDev
  try dsimp only
  repeat' (first
      | (with_reducible assumption) | (with_reducible apply State.copyOut_kept)
      | (with_reducible apply State.copyFault_kept) | (with_reducible apply State.copyMoved_kept)
      | (with_reducible apply Kept.ite))

theorem execCopyFromDev_kept {r0 : State} (q : Nat) (s : State) (hK : Kept r0 s) :
    Goes r0 (execCopyFromDev q s) := by
  unfold execCopyFromDev
  try dsimp only
  repeat' (first
      | (with_reducible assumption) | (with_reducible apply State.copyRun_kept)
      | (with_reducible apply State.copyFromDev_kept) | (with_reducible apply Goes.inUnits)
      | (with_reducible apply Goes.next) | (intro _))

theorem State.ringFlagAdd_kept {r0 : State} (s : State) (q : Nat) (c : RingCmd) (hK : Kept r0 s) :
    Kept r0 (State.ringFlagAdd s q c) := by
  unfold State.ringFlagAdd
  try dsimp only
  repeat' (first
      | (with_reducible assumption) | (with_reducible apply State.ringReject_kept)
      | (with_reducible apply State.setRingNum_kept) | (with_reducible apply State.hostAdd_kept)
      | (with_reducible apply Kept.ite))

theorem execFlagAdd_kept {r0 : State} (q : Nat) (s : State) (hK : Kept r0 s) :
    Goes r0 (execFlagAdd q s) := by
  unfold execFlagAdd
  try dsimp only
  repeat' (first
      | (with_reducible assumption) | (with_reducible apply State.ringRun_kept)
      | (with_reducible apply State.ringFlagAdd_kept) | (with_reducible apply Goes.inUnits)
      | (with_reducible apply Goes.next) | (intro _))

theorem State.ringJobCmd_kept {r0 : State} (s : State) (c : RingCmd) (hK : Kept r0 s) :
    Kept r0 (State.ringJobCmd s c) := by
  unfold State.ringJobCmd
  try dsimp only
  repeat' (first
      | (with_reducible assumption) | (with_reducible apply State.ringReject_kept)
      | (with_reducible apply State.runJobCmd_kept) | (with_reducible apply State.ringDone_kept)
      | (with_reducible apply Kept.ite))

theorem execJobCmd_kept {r0 : State} (s : State) (hK : Kept r0 s) :
    Goes r0 (execJobCmd s) := by
  unfold execJobCmd
  try dsimp only
  repeat' (first
      | (with_reducible assumption) | (with_reducible apply State.ringRun_kept)
      | (with_reducible apply State.ringJobCmd_kept) | (with_reducible apply Goes.next) | (intro _))

theorem State.ringPageOp_kept {r0 : State} (s : State) (c : RingCmd) (hK : Kept r0 s) :
    Kept r0 (State.ringPageOp s c) := by
  unfold State.ringPageOp
  try dsimp only
  repeat' (first
      | (with_reducible assumption) | (with_reducible apply State.ringReject_kept)
      | (with_reducible apply State.setRingNum_kept) | (with_reducible apply State.startPageOp_kept)
      | (with_reducible apply Kept.ite))

theorem execPageOp_kept {r0 : State} (s : State) (hK : Kept r0 s) :
    Goes r0 (execPageOp s) := by
  unfold execPageOp
  try dsimp only
  repeat' (first
      | (with_reducible assumption) | (with_reducible apply State.ringRun_kept)
      | (with_reducible apply State.ringPageOp_kept) | (with_reducible apply Goes.next) | (intro _))

theorem State.completeCmd_kept {r0 : State} (s : State) (q idx : Nat) (hK : Kept r0 s) :
    Kept r0 (State.completeCmd s q idx) := by
  unfold State.completeCmd
  try dsimp only
  repeat' (first
      | (with_reducible assumption) | (with_reducible apply State.setHostBytes_kept)
      | (with_reducible apply State.setRingNum_kept) | (with_reducible apply State.sendVector_kept) | (split))

theorem execCommandComplete_kept {r0 : State} (q idx : Nat) (s : State) (hK : Kept r0 s) :
    Goes r0 (execCommandComplete q idx s) := by
  unfold execCommandComplete
  try dsimp only
  repeat' (first
      | (with_reducible assumption) | (with_reducible apply State.completeCmd_kept)
      | (with_reducible apply Goes.inUnits) | (with_reducible apply Goes.next) | (with_reducible apply Kept.ite))

end Sys2Proof.Machine
end

