-- ==== Sys2Proof/Tests/Slice0.lean ====
section
/-! SUPPORT. Tests on small states: terms that `Instr.wf` refuses, a witness for each statement's hypotheses (named
`wit_` with the statement's name, and the part's where a statement has several; one line for each clause), and commands on
small states, most of them one step. The expected results of the steps are the spec's own numbers or follow from its rules
by hand. -/

namespace Sys2Proof.Tests

-- One theorem at a time: `decide` holds a thread until the theorems before it are checked.
set_option Elab.async false

open Sys2Proof Sys2Proof.Machine

/-! ## Small states -/

/-- A state with some register fields written. -/
def put (s : State) (l : List (Fld × Nat)) : State := l.foldl (fun t p => t.put p.1 p.2) s

/-- A body from fields (lowest bit, value). -/
def word (l : List (Nat × Nat)) : Body := BitVec.ofNat 120 (l.foldl (fun a p => a + 2 ^ p.1 * p.2) 0)

/-- Job j's page tables at `MEM_PT_ROOT` 4j + 1, with page v's entry of the given words. -/
def page (s : State) (j v w0 w1 : Nat) : State :=
  let s := put s [(Reg.MEM_PT_ROOT.ADDR j, 4 * j + 1), (Reg.MEM_PT_ROOT2.ADDR j, 4 * j + 1)]
  let s := s.setMemNat (2 ^ 18 * (4 * j + 1)) 8 (2 ^ 63 + 2 ^ 20 * (8 * j + 8))
  (s.setMemNat (2 ^ 20 * (8 * j + 8) + 16 * v) 8 w0).setMemNat (2 ^ 20 * (8 * j + 8) + 16 * v + 8) 8 w1

/-- A valid writable page, not protected, in frame 9. -/
def plain : Nat := mkW0 true false false false 9 0

/-- Context 0 of troupe 0 is in RUN for job 0, whose page 0 is valid; core 0 is enabled. -/
def run : State := put (page .reset 0 0 plain 0)
  [(Reg.CTX_CFG.BOUND 0 0, 1), (Reg.CTX_STATUS.STATE 0 0, 1), (Reg.JOB_STATUS.STATE 0, 2), (Reg.CTX_CFG.CORE_EN 0 0, 1),
   (Reg.JOB_CTX_MASK.MASK 0, 1)]

/-- Context 1 of troupe 23 is in RUN for job 7. -/
def last : State := put (page .reset 7 0 plain 0)
  [(Reg.CTX_CFG.BOUND 23 1, 1), (Reg.CTX_CFG.JOB 23 1, 7), (Reg.CTX_STATUS.STATE 23 1, 1), (Reg.JOB_STATUS.STATE 7, 2),
   (Reg.CTX_CFG.CORE_EN 23 1, 0x8000), (Reg.JOB_CTX_MASK.MASK 7, 2 ^ 47)]

/-- Write descriptor d of context 0: format, space, layout, dimensions, base, strides and dimension words. -/
def desc (s : State) (d fmt space layout dims base : Nat) (str dimw : List Nat) : State :=
  put s ([(Reg.DESC.W 0 0 d 0, base),
    (Reg.DESC.W 0 0 d 1, 2 ^ 32 * fmt + 2 ^ 40 * space + 2 ^ 44 * layout + 2 ^ 48 * dims),
    (Reg.DESC.W 0 0 d 2, str.getD 0 0 + 2 ^ 32 * str.getD 1 0),
    (Reg.DESC.W 0 0 d 5, dimw.getD 0 0 + 2 ^ 32 * dimw.getD 1 0)])

/-- `run` with descriptors: 1 an FP32 element, 2 an INT32 element, 3 a BF16 activation row, 4 a BF16 weight tile,
5 another FP32 element, 6 a row of 32 FP32 elements, 7 a table image. -/
def ops : State :=
  let s := desc run 1 1 1 0 1 0 [1] []
  let s := desc s 2 5 1 0 1 0x100 [1] []
  let s := desc s 3 2 1 1 2 0x1000 [1, 64] [63 + 2 ^ 16 * 63, 0]
  let s := desc s 4 2 1 2 2 0x40000 [1, 64] [63 + 2 ^ 16 * 63, 63 + 2 ^ 16 * 63]
  let s := desc s 5 1 1 0 1 0x200 [1] []
  let s := desc s 6 1 1 0 1 0x400 [1] [31 + 2 ^ 16 * 31]
  let s := desc s 7 1 1 0 1 0x800 [1] [783 + 2 ^ 16 * 783]
  put s [(Reg.UPD_PROG.W 0 0 0, 1 + 2 ^ 16), (Reg.RM_SFN.LOADED1 0, 1)]

/-! ## Witnesses: the queue, issue and control -/

/-- `halt`. -/
def haltWord : Body := 0

/-- A well-formed command that fits, and one that is ill formed. -/
theorem wit_WellFormedCommandsComplete :
    ((Instr.halt 23 1 0).wf = true ∧ (Instr.halt 23 1 0).fits .reset = true) ∧ (Instr.halt 24 1 0).wf = false := by
  decide +kernel

/-- A command waits; the queue is empty. -/
theorem wit_StepRunsTheFrontCommand :
    ({ State.reset with pending := [.lockstep] } : State).pending = .lockstep :: [] ∧ State.reset.pending = [] := by
  decide +kernel

/-- The state after reset is canonical, and steps. -/
theorem wit_StepKeepsCanonicalForm :
    State.reset.Canonical ∧ ∃ t, step State.reset = .next t := ⟨by
  unfold State.Canonical; decide +kernel, _, rfl⟩

/-- `loop` at the fourth level, and at the first with the greatest `LEN`; `br` taken and not. -/
theorem wit_LoopAndBranchComplete :
    (last.Issuable 23 1 ∧ onlyBits (word [(92, 4095), (104, 65535)]).toNat [(92, 28)] = true ∧
      fbits (word [(92, 4095), (104, 65535)]) 92 12 ≠ 0 ∧ (last.ctxOf 23 1).loops.length < 4 ∧
      (last.ctxOf 23 1).loops.head? = none) ∧
    (let s := run.setCtx 0 0 { run.ctxOf 0 0 with loops := [⟨0, 32, 1, 0⟩, ⟨0, 64, 1, 0⟩, ⟨0, 64, 1, 0⟩] };
      s.Issuable 0 0 ∧ (s.ctxOf 0 0).loops.length < 4 ∧ s.pc 0 0 + 16 + 16 * fbits (word [(92, 1)]) 92 12 ≤ 32) ∧
    (let w := word [(118, 3), (109, 319), (93, 65535), (0, 0xFFFFFFFF)];
      onlyBits w.toNat [(93, 27), (0, 32)] = true ∧ fbits w 109 9 < 320 ∧ fbits w 118 2 ≠ 0 ∧
      brTaken (fbits w 118 2) (run.flagGet 0 0 (fbits w 109 9)) (fbits w 93 16) = false ∧
      brTaken (fbits w 118 2) ((put run [(Reg.JOB_FLAG.COUNT 0 255, 65535)]).flagGet 0 0 319) (fbits w 93 16) = true ∧
      (put run [(Reg.JOB_FLAG.COUNT 0 255, 65535)]).Issuable 0 0) ∧
    (brTaken (fbits haltWord 118 2) (run.flagGet 0 0 0) 0 = true ∧ fbits haltWord 109 9 = 0 ∧ fbits haltWord 93 16 = 0) := by
  decide +kernel

/-- `fset`, `fwait` with enough and with too little, `qwait` at and above its depth. -/
theorem wit_FlagInstructionsComplete :
    (last.Issuable 23 1 ∧ onlyBits (word [(111, 319), (95, 65535)]).toNat [(95, 25)] = true ∧
      fbits (word [(111, 319), (95, 65535)]) 111 9 < 320) ∧
    (let s := put run [(Reg.CTX_FLAG.COUNT 0 0 63, 2)];
      let w := word [(111, 63), (95, 2), (89, 34)];
      s.Issuable 0 0 ∧ onlyBits w.toNat [(89, 31)] = true ∧ fbits w 111 9 < 320 ∧ fbits w 95 16 ≠ 0 ∧
      tmoOk (fbits w 89 6) = true ∧ fbits w 95 16 ≤ s.flagGet 0 0 (fbits w 111 9) ∧
      s.waiters 0 0 (fbits w 111 9) = []) ∧
    (let w := word [(111, 63), (95, 1)];
      tmoOk (fbits w 89 6) = true ∧ run.flagGet 0 0 (fbits w 111 9) < fbits w 95 16 ∧ run.Issuable 0 0) ∧
    (let w := word [(118, 3), (113, 16)];
      onlyBits w.toNat [(113, 7)] = true ∧ fbits w 113 5 ≤ 16 ∧ run.get (qdepthFld 0 0 (fbits w 118 2)) ≤ fbits w 113 5) ∧
    (let s := put run [(Reg.QDEPTH.ARRAY 0 0, 1)];
      fbits haltWord 113 5 < s.get (qdepthFld 0 0 (fbits haltWord 118 2)) ∧ s.Issuable 0 0) := by
  decide +kernel

/-- A job with a beat, with and without a mark; a Curtain that stops and none; a schedule with a token and one
without. -/
theorem wit_BeatCurtainSchedHaltComplete :
    (let s := put run [(Reg.CAL_CFG.EN 0, 1)];
      s.Issuable 0 0 ∧ s.hasBeat (s.jobOf 0 0) = true ∧ (s.ctxOf 0 0).mark = none ∧
      (let t := s.setCtx 0 0 { s.ctxOf 0 0 with mark := some [] };
        t.Issuable 0 0 ∧ t.hasBeat (t.jobOf 0 0) = true ∧ (t.ctxOf 0 0).mark.isSome = true)) ∧
    (let w := word [(116, 8), (94, 0x3FFFC0)];
      onlyBits w.toNat [(94, 26)] = true ∧ fbits w 116 4 ≤ 8 ∧ fbits w 94 22 % 8 = 0 ∧
      fbits w 94 22 + 8 * fbits w 116 4 ≤ 2 ^ 22 ∧ run.curtainStops (run.jobOf 0 0) = false ∧
      (let s := put run [(Reg.SN_JOB_STATUS.PHASE 0, 2)];
        s.Issuable 0 0 ∧ s.curtainStops (s.jobOf 0 0) = true)) ∧
    onlyBits (word [(112, 255), (64, 2 ^ 48 - 1)]).toNat [(64, 56)] = true ∧
    (let w := word [(114, 61), (106, 255), (100, 10)];
      let s := put run [(Reg.SCHED_CFG.LEN 0, 1)];
      onlyBits w.toNat [(100, 20)] = true ∧ fbits w 114 6 ≤ 61 ∧ fbits w 106 8 ≠ 0 ∧ tmoOk (fbits w 100 6) = true ∧
      s.Issuable 0 0 ∧ s.get (Reg.SCHED_CFG.LEN (s.jobOf 0 0)) ≠ 0 ∧
      ((s.closeTokens 0 0).schedWrap (s.jobOf 0 0)).schedServe 0 0 (fbits w 114 6) (fbits w 106 8) = none) := by
  decide +kernel

/-- Every Juggler and array instruction has a body that passes its checks. -/
theorem wit_JugglerAndArrayInstructionsEnqueue :
    ops.Issuable 0 0 ∧ ops.get (Reg.QDEPTH.DMA 0 0) < 16 ∧
    (let w := word [(80, 1), (72, 5)];
      let d := word [(80, 1), (72, 5), (64, 2)];
      ops.engineCode 0 0 w (dmvShape 0 0) = 0 ∧
      ops.engineCode 0 0 (word [(80, 1), (72, 5), (22, 0o543210)]) (dtrShape 0 0 (word [(80, 1), (72, 5), (22, 0o543210)])) = 0 ∧
      ops.engineCode 0 0 d (indexShape 0x22 0 0 0 d) = 0 ∧ ops.engineCode 0 0 d (indexShape 0x23 0 0 1 d) = 0 ∧
      ops.engineCode 0 0 (word [(80, 1)]) (dfillShape 0 0) = 0) ∧
    ops.get (Reg.QDEPTH.ARRAY 0 0) < 16 ∧
    (let m := word [(91, 1), (80, 3), (72, 4)];
      ops.engineCode 0 0 (word [(80, 4)]) (mwlShape 0 0) = 0 ∧ ops.engineCode 0 0 m (mmaShape 0x31 0 0 m) = 0 ∧
      ops.engineCode 0 0 m (mmaShape 0x32 0 0 m) = 0 ∧ ops.engineCode 0 0 (word [(80, 1)]) (accpShape 0 0) = 0 ∧
      ops.engineCode 0 0 (word [(35, 31)]) acczShape = 0 ∧
      ops.engineCode 0 0 (word [(80, 1)]) (accdShape 0 0 (word [(80, 1)])) = 0 ∧
      ops.engineCode 0 0 (word [(93, 1)]) (asplitShape 0) = 0) := by
  decide +kernel

/-- Every Stream instruction and `upd` has a body that passes its checks; so with 15 operations in the queue. -/
theorem wit_StreamInstructionsEnqueue :
    (let s := put ops [(Reg.QDEPTH.STREAM 0 0, 15)];
      s.Issuable 0 0 ∧ s.get (Reg.QDEPTH.STREAM 0 0) < 16 ∧
      ([0x40, 0x41, 0x42, 0x44, 0x45, 0x46].all fun o =>
        s.engineCode 0 0 (word [(80, 1), (72, 1), (56, 5)]) (sxShape o 0 0 (word [(80, 1), (72, 1), (56, 5)])) = 0) = true ∧
      ([0x43, 0x47, 0x4A].all fun o => s.engineCode 0 0 (word [(80, 1), (72, 1), (64, 1), (56, 5)])
        (sxShape o 0 0 (word [(80, 1), (72, 1), (64, 1), (56, 5)])) = 0) = true ∧
      ([0x48, 0x49, 0x4B].all fun o =>
        s.engineCode 0 0 (word [(80, 1), (56, 5)]) (sxShape o 0 0 (word [(80, 1), (56, 5)])) = 0) = true ∧
      s.engineCode 0 0 (word [(32, 6)]) (updShape (s.progNat (s.jobOf 0 0) (wMod (word [(32, 6)]) % 8)) 0 0
        (word [(32, 6)])) = 0) := by
  decide +kernel

/-- Every Lane and special-function instruction has a body that passes its checks. -/
theorem wit_LaneInstructionsEnqueue :
    ops.Issuable 0 0 ∧ ops.get (Reg.QDEPTH.LANE 0 0) < 16 ∧
    ops.engineCode 0 0 (word [(0, 256)]) (lvVlShape (word [(0, 256)])) = 0 ∧
    ([lvLdShape, lvStShape].all fun f => ops.engineCode 0 0 (word [(80, 1)]) (f (word [(80, 1)])) = 0) = true ∧
    ([lvAddShape, lvMulShape, lvFmaShape, lvMaxShape, lvMinShape, lvRedShape, lpermShape, lscanShape 0 0, lstatShape 0 0,
      lsoftmaxShape 0 0, sfnShape 0 0].all fun f => ops.engineCode 0 0 (word [(35, 29)]) (f (word [(35, 29)])) = 0) = true ∧
    ops.engineCode 0 0 (word [(80, 7), (36, 1)]) (tloadShape 0 0 (word [(80, 7), (36, 1)])) = 0 ∧
    ops.engineCode 0 0 0 (tswapShape 0 0 0) = 0 := by
  decide +kernel

/-- A context that may not issue, and one whose page does not translate. -/
theorem wit_IssueNeedsARunningContextAndAPage :
    State.reset.mayIssue 23 1 = false ∧ Instr.halt 0 0 0 ∈ contextInstrs 0 0 0 ∧
    (let s := put run [(Reg.CTX_PC.ADDR 0 0, 2 ^ 17)];
      s.mayIssue 0 0 = true ∧ s.readAddr (s.jobOf 0 0) (s.pc 0 0) = none) := by
  decide +kernel

/-- An `accz` with a bit outside its fields fails its checks. -/
theorem wit_FailedChecksRejectTheInstruction :
    run.Issuable 0 0 ∧ (run.engineInstrs 0 0 1).any (fun p => p.1 = .accz 0 0 1 ∧ run.engineCode 0 0 1 p.2 ≠ 0) = true := by
  decide +kernel

/-- Control instructions that fail a check of their fields, and ones whose state does not allow them. -/
theorem wit_FailedChecksRejectTheInstruction_control :
    (onlyBits (1 : Body).toNat [(92, 28)] = false ∧ onlyBits (word [(40, 1)]).toNat [(93, 27), (0, 32)] = false ∧
      [[(95, 25)], [(89, 31)], [(113, 7)], [(118, 2)], [(94, 26)], [(64, 56)], [(100, 20)]].all
        (fun l => !onlyBits (1 : Body).toNat l) = true ∧ (1 : Body) ≠ 0 ∧ 1 < fbits (word [(118, 2)]) 118 2) ∧
    (let w := word [(92, 1)];
      let l : LoopLevel := ⟨0, 1000, 1, 0⟩;
      onlyBits w.toNat [(92, 28)] = true ∧ fbits w 92 12 ≠ 0 ∧
      4 ≤ ((run.setCtx 0 0 { run.ctxOf 0 0 with loops := [l, l, l, l] }).ctxOf 0 0).loops.length) ∧
    (onlyBits (0 : Body).toNat [(118, 2)] = true ∧ fbits (0 : Body) 118 2 ≤ 1 ∧ run.hasBeat (run.jobOf 0 0) = false) ∧
    (let w := word [(106, 1)];
      onlyBits w.toNat [(100, 20)] = true ∧ fbits w 114 6 ≤ 61 ∧ fbits w 106 8 ≠ 0 ∧ tmoOk (fbits w 100 6) = true ∧
      run.get (Reg.SCHED_CFG.LEN (run.jobOf 0 0)) = 0) := by
  decide +kernel
/-! ## Witnesses: jobs, waits and engines -/

/-- A device that is READY. -/
def ready : State := put .reset [(Reg.DEV_STATUS.READY, 1)]

/-- Job 7 in a state. -/
def job7 (n : Nat) : State := put ready [(Reg.JOB_STATUS.STATE 7, n)]

/-- A mask that is bound, one that a state refuses, and a LOADED job unbound. -/
theorem wit_BindAndUnbindComplete :
    (ready.Open ∧ ready.maskCode 7 ((2 ^ 48 - 1) % 2 ^ 48) = 0) ∧
    (State.reset.Open ∧ State.reset.maskCode 7 ((2 ^ 64 - 1) % 2 ^ 48) ≠ 0) ∧
    ((job7 1).Open ∧ (job7 1).flag Reg.DEV_STATUS.READY = true ∧ (job7 1).jobState 7 = 1) := by
  decide +kernel

/-- START accepted and refused; HALT and RELEASE in each state that allows them, and refused in LOADED. -/
theorem wit_StartHaltReleaseComplete :
    (let s := put (job7 1) [(Reg.JOB_CTX_MASK.MASK 7, 2), (Reg.CTX_CFG.BOUND 0 1, 1), (Reg.CTX_CFG.JOB 0 1, 7),
        (Reg.MEM_PT_ROOT.ADDR 7, 2 ^ 24), (Reg.MEM_PT_ROOT2.ADDR 7, 2 ^ 24 + 2 ^ 21)];
      s.Open ∧ s.startCode 7 = 0) ∧
    ((job7 2).jobState 7 = 2 ∧ (job7 3).jobState 7 = 3 ∧ (job7 2).Open ∧ (job7 3).Open) ∧
    ((job7 5).jobState 7 = 5 ∧ (job7 6).jobState 7 = 6 ∧ (job7 5).Open ∧ (job7 6).Open) ∧
    ((job7 0).startCode 7 ≠ 0 ∧ (job7 1).jobState 7 ≠ 2 ∧ (job7 1).jobState 7 ≠ 3 ∧ (job7 1).jobState 7 ≠ 5 ∧
      (job7 1).jobState 7 ≠ 6 ∧ (job7 0).Open ∧ (job7 1).Open) := by
  decide +kernel

/-- A declared flag at 0xFFFE, one while a Curtain holds, one that is not declared, one that saturates. -/
theorem wit_HostFlagAddCompletes :
    (let s := put ready [(Reg.JOB_HOSTFLAGS.MASK 7 3, 2 ^ 63), (Reg.JOB_FLAG.COUNT 7 255, 0xFFFE)];
      s.Open ∧ s.hostFlag 7 (255 % 256) = true ∧ s.holdsAdds 7 = false ∧
      s.get (Reg.JOB_FLAG.COUNT 7 (255 % 256)) + 1 % 65536 ≤ 0xFFFF ∧
      0xFFFF < s.get (Reg.JOB_FLAG.COUNT 7 255) + 2 ∧
      (put s [(Reg.SN_JOB_STATUS.PHASE 7, 4)]).holdsAdds 7 = true ∧ (put s [(Reg.SN_JOB_STATUS.PHASE 7, 4)]).Open ∧
      (put s [(Reg.SN_JOB_STATUS.PHASE 7, 4)]).hostFlag 7 (255 % 256) = true) ∧
    ready.hostFlag 7 (256 % 256) = false := by
  decide +kernel

/-- A head that its flag serves, one at its timeout, a blocked `fwait` and `sched`, a job with a context and one without. -/
theorem wit_WaitsAndRetirementsComplete_WaitEventsComplete :
    (let q : QEntry := { opc := 0x34, word := word [(113, 1), (104, 319)], since := some 0 };
      let s := put (run.setQueue 0 0 3 [q]) [(Reg.JOB_FLAG.COUNT 0 255, 1)];
      s.frontier 0 0 3 = some q ∧ s.engineWait 0 0 3 = some (319, 0) ∧ s.servesNext 0 0 3 319 = true ∧
      s.bounded 0 0 3 = some q ∧ s.get (Reg.CTX_CFG.WAIT_TMO 0 0) ≠ 0) ∧
    (let s := last.setCtx 23 1 { last.ctxOf 23 1 with block := some (.fwait 319 1 34, 0) };
      (s.ctxOf 23 1).block = some (.fwait 319 1 34, 0)) ∧
    (let s := last.setCtx 23 1 { last.ctxOf 23 1 with block := some (.sched 61 1 10, 0) };
      (s.ctxOf 23 1).block = some (.sched 61 1 10, 0)) ∧
    (last.jobCtxs 7 = (23, 1) :: [] ∧ State.reset.jobCtxs 7 = []) := by
  decide +kernel

/-- A core with its part of an operation done, one with a part to run, and one that meets an error in it; another core to come
and none. -/
theorem wit_WaitsAndRetirementsComplete_OperationsRetire :
    (let q : QEntry := { opc := 0x24, begun := 0x8001, since := some 0, done := 0x8001 };
      let s := put (run.setQueue 0 0 3 [q]) [(Reg.CTX_CFG.CORE_EN 0 0, 0x8001), (Reg.QDEPTH.DMA 0 0, 1)];
      s.oldestIn 0 0 3 15 = some q ∧ q.begunIn 15 = true ∧ (s.runOut 0 0 3 15 q).2 = .done ∧ s.coreDone 0 0 q 15 = true ∧
      (s.coresOf 0 0).all ({ q with retired := setBit q.retired 15 true } : QEntry).retiredIn = false ∧
      (let r : QEntry := { q with retired := 1 };
        (s.coresOf 0 0).all ({ r with retired := setBit r.retired 15 true } : QEntry).retiredIn = true ∧ r.word = 0 ∧
        (s.ctxOf 0 0).block = none ∧ (s.ctxOf 0 0).mark = none) ∧
      (let p : QEntry := { q with done := 0 };
        (s.setQueue 0 0 3 [p]).oldestIn 0 0 3 15 = some p ∧ (s.setQueue 0 0 3 [p]).coreDone 0 0 p 15 = false)) ∧
    (let q : QEntry := { opc := 0x50, word := word [(0, 256)], begun := 1, since := some 0 };
      let s := ops.setQueue 0 0 2 [q];
      s.oldestIn 0 0 2 0 = some q ∧ q.begunIn 0 = true ∧ (s.runOut 0 0 2 0 q).2 = .done) := by
  decide +kernel

/-- A context stuck on its own flag; a job that stops; a context in DRAIN, the only one of its job and one of two. -/
theorem wit_CyclesStopsAndDrainsComplete :
    (let s := put (run.setCtx 0 0 { run.ctxOf 0 0 with block := some (.fwait 0 1 0, 0) })
        [(Reg.CTX_STATUS.STATE 0 0, 2), (Reg.JOB_CTX_MASK.MASK 0, 1)];
      s.isCycle 0 = true) ∧
    (job7 4).jobState 7 = 4 ∧
    (let s := put last [(Reg.CTX_STATUS.STATE 23 1, 3), (Reg.JOB_CTX_MASK.MASK 7, 2 ^ 47)];
      let u := s.put (Reg.CTX_STATUS.STATE 23 1) 4;
      s.get (Reg.CTX_STATUS.STATE 23 1) = 3 ∧ s.ctxDrained 23 1 = true ∧
      (u.jobCtxs (u.jobOf 23 1)).all (fun p => u.get (Reg.CTX_STATUS.STATE p.1 p.2) = 4) = true ∧
      (let v := put u [(Reg.JOB_CTX_MASK.MASK 7, 2 ^ 47 + 1)];
        (v.jobCtxs (v.jobOf 23 1)).all (fun p => v.get (Reg.CTX_STATUS.STATE p.1 p.2) = 4) = false)) := by
  decide +kernel

/-- The entry of an `mma` of 64 rows, begun in core 0 with its weights loaded. -/
def mmaEntry : QEntry := { opc := 0x31, word := word [(91, 1), (80, 3), (72, 4)], begun := 1, since := some 0, prog := [(16, 1)] }

/-- `ops` with an `mma` begun. -/
def mma (q : QEntry) : State := put (ops.setQueue 0 0 0 [q]) [(drumState 0 0 0, 2)]

/-- A tile step without rows, with rows, one that waits for its replay; loads of an `mwl` and of an `mma`; 64 cross
iterations; a context that ran alone. -/
theorem wit_ArrayEventsComplete :
    (let q : QEntry := { mmaEntry with prog := [(16, 1), (32, 1)] };
      let st (n : Nat) : TileStep := { p := { m := n } };
      let s (l : List TileStep) := (mma q).setSteps ((mma q).at 0 0 0) l;
      (((s [st 0]).feed 0).oldestStep ((s [st 0]).at 0 0 0) = some (st 0, q)) ∧ (st 0).spilled = false ∧
      (((s [st 1]).feed 0).drumOn ((s [st 1]).at 0 0 0) = true) ∧
      (let sp : TileStep := { spilled := true };
        ((s [sp]).feed 0).oldestStep ((s [sp]).at 0 0 0) = some (sp, q))) ∧
    (let q : QEntry := { mmaEntry with prog := [] };
      ((mma q).feed 0).nextLoad ((mma q).at 0 0 0) = some (q, 1, 0)) ∧
    (let q : QEntry := { opc := 0x30, word := word [(80, 4)], begun := 1, since := some 0 };
      ((mma q).feed 0).nextLoad ((mma q).at 0 0 0) = some (q, 0, 0)) ∧
    64 ≤ ((run.setCore 23 15 { run.core 23 15 with crossIt := 64 }).core 23 15).crossIt ∧
    (let s := run.setCore 23 15 { run.core 23 15 with own := [(0, 2)] };
      Tab.get 0 (s.core 23 15).own 0 = 1 + 1 ∧ s.engineBusy 23 0 0 15 = false ∧ s.engineBusy 23 1 0 15 = false) := by
  decide +kernel

/-- A begun `mma` with its core OFF, in and out of the troupe's slot; the Drumroll at its levels. -/
theorem wit_ArrayEventsComplete_DrumrollCompletes :
    (let s := put (mma mmaEntry) [(drumState 0 0 0, 0)];
      s.riseFor 0 0 = some (0, mmaEntry) ∧ 0 ∈ s.coresOf 0 0 ∧ s.get (drumState 0 (s.view 0 0).cx 0) = 0 ∧
      s.stamp (rmIsland 0) % 288 / 12 = 0 ∧
      ({ s with time := { root := 12 } } : State).stamp (rmIsland 0) % 288 / 12 ≠ 0) ∧
    ((put run [(Reg.RM_ARR.SPLIT 23, 1)]).isSplit 23 = true) ∧
    (let s (st l : Nat) := put run [(drumState 23 15 1, st), (drumLevel 23 15 1, l)];
      (s 1 7).get (drumState 23 15 1) = 1 ∧ (s 1 7).get (drumLevel 23 15 1) < 8 ∧
      8 ≤ (s 1 8).get (drumLevel 23 15 1) ∧ (s 3 2).get (drumState 23 15 1) = 3 ∧
      1 < (s 3 2).get (drumLevel 23 15 1) ∧ (s 3 1).get (drumLevel 23 15 1) ≤ 1 ∧
      (s 2 8).get (drumState 23 15 1) = 2) := by
  decide +kernel

/-- A half whose job stops and one with a parity fault; `LINGER` at its ends; a refused `ARR_CFG`. -/
theorem wit_FencesAndArrayConfiguration :
    (let s := put last [(Reg.RM_ARR.SPLIT 23, 1), (Reg.JOB_STATUS.STATE 7, 4)];
      s.isSplit 23 = true ∧ s.ctxJob 23 1 = some 7 ∧ s.jobState 7 = 4) ∧
    (last.Open ∧ last.accessHeld (coreOff 22 15 0x200) = false ∧ 64 ≤ bits (64 + 2 ^ 16) 0 16 ∧ bits 4096 0 16 ≤ 4096 ∧
      bits (64 + 2 ^ 16) 16 1 ≠ last.get (Reg.ARR_CFG.NARROW 22 15) ∧ last.get (drumState 22 15 0) = 0 ∧
      last.get (drumState 22 15 1) = 0 ∧ last.ctxAside 22 0 = true ∧ last.ctxAside 22 1 = true) ∧
    (bits 4096 16 1 = last.get (Reg.ARR_CFG.NARROW 23 15)) ∧
    (bits 63 0 16 < 64 ∧ 4096 < bits 4097 0 16 ∧ last.ctxAside 23 1 = false ∧
      bits (64 + 2 ^ 16) 16 1 ≠ last.get (Reg.ARR_CFG.NARROW 23 15)) ∧
    ({ last with stopped := [383] } : State).accessHeld (coreOff 23 15 0x200) = true := by
  decide +kernel

/-- The hypotheses of the two cases of R156. -/
theorem wit_NarrowChangesWhileTheArrayIsOff :
    (last.Open ∧ last.accessHeld (coreOff 23 15 0x200) = false ∧ 64 ≤ bits (4096 + 2 ^ 16) 0 16 ∧ bits (4096 + 2 ^ 16) 0 16 ≤ 4096 ∧
      bits (4096 + 2 ^ 16) 16 1 ≠ last.get (Reg.ARR_CFG.NARROW 23 15)) ∧
    (last.ctxAside 23 1 = false ∧ last.ctxAside 0 0 = true ∧ last.ctxAside 0 1 = true ∧ last.get (drumState 0 15 0) = 0 ∧
      last.get (drumState 0 15 1) = 0 ∧ bits (4096 + 2 ^ 16) 16 1 ≠ last.get (Reg.ARR_CFG.NARROW 0 15)) := by
  decide +kernel

/-- A Stream operation between two chunks, and one at the start of an iteration; a Parade round's middle and last core; a
record to push, to pop, of the wrong kind; a round that waits at its ring. -/
theorem wit_StreamAndParadeEventsComplete :
    (let q : QEntry := { opc := 0x40, word := word [(80, 1), (72, 1), (56, 5)], begun := 1, since := some 0 };
      let s := ops.setQueue 0 0 1 [q];
      let x := s.at 0 0 0;
      let k := s.sxSkip 0 0 0 (s.itersOf 0 0 q);
      s.sxEntry x = some q ∧ s.midIter 0 0 (s.view 0 0).cx = false ∧ k.2 = .done ∧ k.1.sxEntry x = some q ∧
      (k.1.sxBegin x q).2 = .ran ∧ ((k.1.sxBegin x q).1.sxEntry x).isSome = true) ∧
    (let q : QEntry := { opc := 0x40, word := word [(80, 6), (72, 6), (56, 6)], begun := 1, since := some 0, prog := [(32, 1)] };
      let s := ops.setQueue 0 0 1 [q];
      s.sxEntry (s.at 0 0 0) = some q ∧ s.midIter 0 0 (s.view 0 0).cx = true) ∧
    (let q : QEntry := { opc := 0x5A, word := word [(90, 2)], begun := 3, since := some 0 };
      let s := put (run.setQueue 0 0 2 [q]) [(Reg.CTX_CFG.CORE_EN 0 0, 3)];
      s.paradeHead 0 0 = some q ∧ q.hop < s.itersOf 0 0 q * (s.coresOf 0 0).length ∧ s.pushDue 0 0 q = false ∧
      s.popDue 0 0 q = false ∧ q.begunIn ((s.coresOf 0 0).getD 0 0) = true ∧
      q.hop % (s.coresOf 0 0).length + 1 ≠ (s.coresOf 0 0).length ∧
      run.coresOf 0 0 = [0] ∧ (run.setQueue 0 0 2 [q]).paradeHead 0 0 = some q ∧
      (run.setQueue 0 0 2 [q]).popDue 0 0 q = false ∧
      (let p : QEntry := { q with hop := 1, carry := [5, 0, 0] };
        let t := put (run.setQueue 0 0 2 [p]) [(Reg.RM_PARADE.DN_EN 0 0, 1), (Reg.RM_PARADE.DN_TROUPE 0 0, 23),
          (Reg.RM_PARADE.DN_CTX 0 0, 1)];
        t.paradeHead 0 0 = some p ∧ t.downOf 0 0 = (23, 1) ∧ t.pushDue 0 0 p = true ∧ (t.ring 23 1).length < 4 ∧
        t.get (Reg.RM_PARADE.UP_FLAG 23 1) = 0 ∧
        (let u := t.setRing 23 1 [{}, {}, {}, {}];
          u.paradeHead 0 0 = some p ∧ u.ringWait 0 0 p = some 0 ∧ u.get (Reg.CTX_CFG.WAIT_TMO 0 0) ≠ 0))) ∧
    (let q : QEntry := { opc := 0x5A, word := word [(90, 3)], begun := 1, since := some 0 };
      let s := (run.setQueue 0 0 2 [q]).setRing 0 0 [{ kind := wantedKind q }];
      let t := (run.setQueue 0 0 2 [q]).setRing 0 0 [{ kind := 4 }];
      s.paradeHead 0 0 = some q ∧ s.ring 0 0 = { kind := wantedKind q } :: [] ∧ s.popDue 0 0 q = true ∧
      t.paradeHead 0 0 = some q ∧ t.ring 0 0 = { kind := 4 } :: [] ∧ t.popDue 0 0 q = true ∧ 4 ≠ wantedKind q) := by
  decide +kernel

/-- A table image that passes its checks, and one that does not; a transfer that completes, and one that reads host memory. -/
theorem wit_ImagesAndTransfersComplete :
    (let q : QEntry := { opc := 0x61, word := word [(80, 1), (36, 1)], begun := 1, since := some 0 };
      let s := ops.setQueue 0 0 2 [q];
      s.begunOf 0 0 2 0 [0x61] = some q ∧ bit q.done 0 = false ∧ s.captured 0 0 q = none ∧
      (let r : QEntry := { q with image := some [] };
        (ops.setQueue 0 0 2 [r]).begunOf 0 0 2 0 [0x61] = some r ∧ (ops.setQueue 0 0 2 [r]).captured 0 0 r = some [])) ∧
    (let q : QEntry := { opc := 0x20, word := word [(80, 1), (72, 5)], begun := 1, since := some 0 };
      let s := desc (ops.setQueue 0 0 3 [q]) 1 1 3 0 1 0 [1] [];
      s.dmaEntry (s.at 0 0 0) = some q ∧ s.readsHost 0 0 q = true ∧
      (let t := ops.setQueue 0 0 3 [q]; t.dmaEntry (t.at 0 0 0) = some q ∧ (t.serve 0 0 3 0).2 = .done)) := by
  decide +kernel

/-! ## Witnesses: the scratchpad, queues, Showtime and memory -/

/-- Requests at a bank's last line, alone and two at one bank, with and without a core that clears; the ends of an atomic
operation's range, at a line that a tile step holds and one that none does. -/
theorem wit_BankAccessesComplete :
    (let r : BankReq := ⟨4, false, 16383, none⟩;
      let d : BankReq := ⟨5, false, 31, none⟩;
      let w : BankReq := ⟨5, false, 16383, some [(255, 1)]⟩;
      bankReqOk r = true ∧ bankReqOk d = true ∧ bankReqOk w = true ∧ r.level ≤ 4 ∧ d.level = 5 ∧ r.line % 32 = d.line % 32 ∧
      r.write = none ∧ d.write = none ∧ w.write = some [(255, 1)] ∧ ready.lineHeld 23 15 16383 = false) ∧
    (ready.clearing 23 15 = false ∧ (ready.core 23 15).waits = [] ∧
      (put ready [(Reg.SP_STATUS.CLEARING 23 15, 1)]).clearing 23 15 = true) ∧
    ([(63, 1)].all fun e : Nat × Nat => e.1 < 256 / atomicWidth 0) = true ∧
    (let s := run.setCore 0 0 { run.core 0 0 with steps := [(0, [{ ranges := [(256 * 16383, 256 * 16383)] }])] };
      s.lineHeld 0 0 16383 = true ∧ s.lineHeld 0 0 16382 = false ∧ s.clearing 0 0 = false) := by
  decide +kernel

/-- A core that no job uses, and one that a job does; an access by no operation and by one. -/
theorem wit_ScratchpadErrorsAndTestsComplete_ScratchpadErrorsAndClearing :
    ready.coreJobs 23 15 = [] ∧ last.coreJobs 23 15 ≠ [] ∧ opRefOk (some ⟨23, 1, 3⟩) = true ∧
      (ready.coreClear 23 15).islandHeld (coreIsland 23 15) = false ∧
      (({ ready with stopped := [383] } : State).coreClear 23 15).islandHeld (coreIsland 23 15) = true := by
  decide +kernel

/-- A region to start, to pass and to fail; 256 regions tested. -/
theorem wit_ScratchpadErrorsAndTestsComplete_BackgroundTestCompletes :
    (let s := put ready [(Reg.SP_CFG.BT_EN 23 15, 1), (Reg.SP_STATUS.CLEARING 23 15, 0)];
      s.pairsFailed = false ∧ s.btOn 23 15 = true ∧ s.get (Reg.SP_STATUS.CLEARING 23 15) = 0 ∧ s.coreHeld 23 15 = false) ∧
    (let s := put ready [(Reg.SP_STATUS.BT_ACTIVE 23 15, 1), (Reg.SP_STATUS.BT_REGION 23 15, 1023)];
      s.get (Reg.SP_STATUS.BT_ACTIVE 23 15) ≠ 0 ∧ 16383 / 16 = s.get (Reg.SP_STATUS.BT_REGION 23 15)) ∧
    (let s := put ready [(Reg.SP_CFG.BT_EN 23 15, 1), (Reg.SP_BT_REGIONS.N 23 15, 256)];
      s.btOn 23 15 = true ∧ 256 ≤ s.get (Reg.SP_BT_REGIONS.N 23 15)) := by
  decide +kernel

/-- Queue 264 is the last one: enabled with room; with an open packet; with a closed one at its front; with bytes in its
tail, next to its head and a burst away; refused and accepted configurations. -/
theorem wit_CarouselQueuesComplete :
    (let s := put ready [((cqFlds 264).en, 1), ((cqFlds 264).maxpkt, 64), ((cqFlds 264).sizeLog2, 16)];
      264 < cqCount ∧ s.flag (cqFlds 264).en = true ∧ s.cqHolds 264 = false ∧ s.cqRoom 264 = true ∧
      ((s.setCq 264 { opened := some 0 }).cqOf 264).opened = some 0 ∧
      [0, 0].length ≤ (s.setCq 264 { opened := some 0 }).get (cqFlds 264).maxpkt ∧
      (s.setCq 264 { opened := some 0 }).get (cqFlds 264).maxpkt < (List.replicate 65 (0 : Byte)).length ∧
      (let t := (put s [((cqFlds 264).put, 8)]).setCq 264 { bytes := [(7, 128)] };
        t.cqReady 264 = true) ∧
      (let t := put s [((cqFlds 264).put, 8)];
        (t.cqOf 264).spilled < t.get (cqFlds 264).put ∧ (t.cqOf 264).head = (t.cqOf 264).spilled ∧
        (t.cqOf 264).head < t.get (cqFlds 264).get + 4096) ∧
      (let t := (put s [((cqFlds 264).put, 5120)]).setCq 264 { head := 4096, spilled := 4608 };
        (t.cqOf 264).head ≠ (t.cqOf 264).spilled ∧ t.cqNoBack 264 = false ∧
        ((t.cqOf 264).spilled / 512 + 1) * 512 ≤ t.get (cqFlds 264).put ∧ (t.cqOf 264).head < (t.cqOf 264).spilled)) ∧
    (ready.Open ∧ ready.cqCfgCode 0 0 (32 * 2 ^ 24 + 16 * 2 ^ 12 + 3) = 0 ∧ ready.cqCfgCode 0 1 0 = 0 ∧
      ready.cqCfgCode 264 0 0 ≠ 0 ∧ ready.cqCfgCode 0 1 (2 ^ 16) ≠ 0) := by
  decide +kernel

/-- Replicas sound and faulted, at and past 16 st; lock at 16 good offsets; a second and a third missed exchange; the pulse
output's rise at the last stamp it may, and its fall. -/
theorem wit_ShowtimeComplete_ShowtimeClocksComplete :
    (542 ∉ ready.time.faulted ∧ (-16 : Int).natAbs ≤ 16 ∧ 16 < (-17 : Int).natAbs ∧
      542 ∈ ({ ready with time := { faulted := [542] } } : State).time.faulted) ∧
    (let s := put { State.reset with time := { good := 16 } } [(Reg.ST_STATUS.STATE, 1)];
      s.lockState = 1 ∧ 16 ≤ s.time.good) ∧
    (let s (n : Nat) := put { State.reset with time := { parent := some 0, missed := n } } [(Reg.ST_CTRL.ROLE, 1)];
      (s 2).get Reg.ST_CTRL.ROLE = 1 ∧ (s 2).time.parent.isSome = true ∧ (s 1).time.missed < 2 ∧ 2 ≤ (s 2).time.missed) ∧
    (let s := put { State.reset with time := { root := 2 ^ 30 + 12 } } [(Reg.ST_CTRL.PPS_OUT_EN, 1)];
      s.get Reg.ST_CTRL.PPS_OUT_EN = 1 ∧ s.stamp 541 % 2 ^ 30 < ppsReach) ∧
    (let s : State := { State.reset with time := { root := 2 ^ 27, ppsOut := true } };
      s.time.ppsOut = true ∧ s.time.ppsRise + 2 ^ 27 ≤ s.stamp 541) := by
  decide +kernel

/-- Exchanges below and at 2^23 st; the System Master's references, with a step that waits for an edge, at the last count it
may come, and without; a rate word in range; a 10 MHz reference in and out of range. -/
theorem wit_ShowtimeComplete_ShowtimeReferencesComplete :
    (let s := put { State.reset with time := { parent := some 0 } } [(Reg.ST_CTRL.ROLE, 1)];
      s.get Reg.ST_CTRL.ROLE = 1 ∧ s.time.parent.isSome = true ∧
      ((2 ^ 23 - 1) % 2 ^ 24 + 2 ^ 24 - 0 % 2 ^ 24) % 2 ^ 24 < 2 ^ 23 ∧
      2 ^ 23 ≤ ((2 ^ 23) % 2 ^ 24 + 2 ^ 24 - 0 % 2 ^ 24) % 2 ^ 24) ∧
    (let s := put ready [(Reg.ST_CTRL.ROLE, 2), (Reg.ST_CTRL.PPS_EN, 1), (Reg.ST_CTRL.TREF_EN, 1)];
      s.isSystemMaster = true ∧ s.get Reg.ST_CTRL.PPS_EN = 1 ∧ s.get Reg.ST_CTRL.TREF_EN = 1 ∧ s.time.stepPps = false ∧
      (let t : State := { s with time := { stepPps := true, stepStamp := 5, root := 5 + 3 * 2 ^ 29 } };
        t.time.stepPps = true ∧ t.time.stepEdge = none ∧ t.time.root ≤ t.time.stepStamp + 3 * 2 ^ 29)) ∧
    (rateNominal - rateSlew ≤ ready.get Reg.ST_RATE.RATE ∧ ready.get Reg.ST_RATE.RATE ≤ rateNominal + rateSlew) ∧
    trefOk 99970000 = true ∧ trefOk 99969999 = false := by
  decide +kernel

/-- The replicas of a device that was reset stand with the root, which may tick. -/
theorem reset_close : State.reset.time.Close := by
  intro k _
  simp [State.reset, Tab.get]

/-- A tick, a sync word and a fault from there. -/
theorem wit_ReplicasStayCloseAndNeverDecrease_ReplicasNeverDecrease :
    State.reset.time.Close ∧
    State.reset.time.root + (State.reset.time.frac + State.reset.get Reg.ST_RATE.RATE) / 2 ^ 32 < 2 ^ 63 ∧
    542 ∉ State.reset.time.faulted ∧ (∃ t, exec .showtimeRootTick .reset = .next t) ∧
    (∃ t, exec (.syncWord 542 2) .reset = .next t) ∧ ∃ t, exec (.replicaFault 542 true) .reset = .next t :=
  ⟨reset_close, by decide +kernel, by decide +kernel, ⟨_, rfl⟩, ⟨_, rfl⟩, _, rfl⟩

/-- The same commands. -/
theorem wit_ReplicasStayCloseAndNeverDecrease_SyncWordsKeepReplicasClose :
    State.reset.time.Close ∧ (∃ t, exec .showtimeRootTick .reset = .next t) ∧
    (∃ t, exec (.syncWord 542 (-16)) .reset = .next t) ∧ ∃ t, exec (.replicaFault 542 false) .reset = .next t :=
  ⟨reset_close, ⟨_, rfl⟩, ⟨_, rfl⟩, _, rfl⟩

/-- A System Master. -/
def master : State := put ready [(Reg.ST_CTRL.ROLE, 2)]

/-- A second to come is accepted on it, unless the free value of log 39 has a job run elsewhere in the cascade. -/
theorem wit_StepsAndSnapshotsComplete_second (h : (Config.freeWord master.fresh 0).toNat % 2 ≠ 1) :
    master.setSecCode (bits 1 0 34) = 0 := by
  have e : master.othersRun = false := by
    simp only [State.othersRun, State.takeFree, h, decide_false, Bool.and_false]
  unfold State.setSecCode
  rw [e]
  decide +kernel

/-- A second that has passed, with and without PPS_IN; a step before and at its instant; a member; a snapshot
armed, refused, latched and done. -/
theorem wit_StepsAndSnapshotsComplete :
    (master.Open ∧ master.setSecCode (bits 0 0 34) ≠ 0 ∧
      (master.flag Reg.ST_CTRL.PPS_EN && !master.flag Reg.ST_STATUS.PPS_LOST) = false ∧
      (let t := put master [(Reg.ST_CTRL.PPS_EN, 1)]; (t.flag Reg.ST_CTRL.PPS_EN && !t.flag Reg.ST_STATUS.PPS_LOST) = true)) ∧
    (let s (b : Bool) (r : Nat) : State := { State.reset with time := { step := some 1, stepPps := b, root := r } };
      (s false 0).time.step = some 1 ∧ (s false 0).time.root < (s false 0).stepInstant ∧
      (s false (2 ^ 32)).stepInstant ≤ (s false (2 ^ 32)).time.root ∧
      (s true (2 ^ 32)).stepInstant ≤ (s true (2 ^ 32)).time.root ∧ (s true (2 ^ 32)).time.stepPps = true) ∧
    (let s := put { State.reset with time := { root := 7 } } [(Reg.ST_CTRL.ROLE, 1)];
      s.get Reg.ST_CTRL.ROLE = 1 ∧ 7 ≤ s.time.root ∧ s.time.root < 2 ^ 30 * 1 + (s.time.root - 7) ∧
      2 ^ 30 * 1 + (s.time.root - 7) < 2 ^ 64 ∧ 2 ^ 30 * 0 + (s.time.root - 7) ≤ s.time.root) ∧
    (let s := put ready [(Reg.ST_SNAP_T.T, 2 ^ 14)]; s.Open ∧ s.snapCtrlCode 1 = 0) ∧
    (ready.Open ∧ ready.snapCtrlCode 1 ≠ 0) ∧
    (let s := put ready [(Reg.ST_SNAP_CTRL.ARMED, 1)];
      s.get Reg.ST_SNAP_CTRL.ARMED = 1 ∧ s.get Reg.ST_SNAP_T.T ≤ s.stamp 542 ∧ 542 ∉ s.time.latched ∧
      (let t : State := { s with time := { latched := List.range 543 } };
        t.get Reg.ST_SNAP_CTRL.ARMED = 1 ∧ t.time.latched.length = 543)) := by
  decide +kernel

/-- Each link's last module in place, and gone; the links not lost, and lost. -/
theorem wit_IslandEventsComplete :
    (13 < 14 ∧ 0 < linkModules 13 ∧ bit (Tab.get 0 ready.links 13) 0 = false ∧ 17 < linkModules 3 ∧
      bit (Tab.get 0 ready.links 3) 17 = false ∧
      bit (Tab.get 0 ({ ready with links := [(3, 2 ^ 17)] } : State).links 3) 17 = true) ∧ 13 ∉ ready.linksLost ∧
    13 ∈ ({ ready with linksLost := [13] } : State).linksLost ∧ opRefOk (some ⟨23, 1, 3⟩) = true := by
  decide +kernel

/-- A job with tables: page 1 is not mapped and page 0 is. -/
def mapped : State := put (page ready 7 0 plain 0) [(Reg.JOB_STATUS.STATE 7, 1), (Reg.MEM_OP_ARG0.JOB, 7)]

/-- Each page operation accepted, and refused. -/
theorem wit_PageOperationsComplete_PageOperationsStart :
    (let s := put mapped [(Reg.MEM_OP_ARG0.VPN, 1), (Reg.MEM_OP_ARG1.W, 11 * 2 ^ 26)];
      s.Open ∧ 7 = s.get Reg.MEM_OP_ARG0.JOB ∧ s.pageOpCode 1 7 1 (11 * 2 ^ 26) false = 0 ∧
      s.pageOpCode 2 7 1 (11 * 2 ^ 26) false ≠ 0 ∧ s.pageOpCode 5 7 1 (11 * 2 ^ 26) false = 0 ∧
      s.pageOpCode 6 7 1 (11 * 2 ^ 26) false = 0 ∧ s.pageOpCode 7 7 1 (11 * 2 ^ 26) false = 0) ∧
    (let s := put mapped [(Reg.MEM_OP_ARG0.VPN, 0), (Reg.MEM_OP_ARG1.W, 11 * 2 ^ 26)];
      s.Open ∧ s.pageOpCode 2 7 0 (11 * 2 ^ 26) false = 0 ∧ s.pageOpCode 3 7 0 (11 * 2 ^ 26) false = 0 ∧
      s.pageOpCode 1 7 0 (11 * 2 ^ 26) false ≠ 0) ∧
    (let s := { (put (page ready 7 0 (plain + 2 ^ 62) 0) [(Reg.JOB_STATUS.STATE 7, 1)]) with modules := [(0, 1)] };
      s.pageOpCode 4 7 0 0x200000 false = 0) ∧
    ((Pte.mk (11 * 2 ^ 26) 0).live = 11 ∧ (Pte.mk (11 * 2 ^ 26) 0).mv = false ∧ ready.frameLost 11 = false ∧
      ready.ownerOf 11 = 0xE) ∧
    ready.pageOpCode 3 (ready.get Reg.MEM_OP_ARG0.JOB) (ready.get Reg.MEM_OP_ARG0.VPN) (ready.get Reg.MEM_OP_ARG1.W)
      false ≠ 0 := by
  decide +kernel

/-- A migration in each phase, with 4 and with 5 granules, after two passes and three; one that is ready; the pairs failed. -/
theorem wit_PageOperationsComplete :
    (let o (p d n : Nat) : PageOp := { op := 3, phase := p, dirty := d, passes := n };
      popCount 32 (o 3 15 0).dirty ≤ 4 ∧ 4 < popCount 32 (o 3 31 2).dirty ∧ (o 3 31 2).passes < 3 ∧ 3 ≤ (o 3 31 3).passes ∧
      (o 4 0 0).ready = true ∧ ({ ready with pageOp := some (o 1 0 0) } : State).pageOp = some (o 1 0 0) ∧
      (ready.setPhase (o 1 0 0) 2).jobState 0 ≠ 3) ∧
    ready.pairsFailed = false ∧ ready.get (Reg.SN_JOB_STATUS.PHASE 0) = 0 ∧
    (put ready [(Reg.RCV_STATUS.STATE, 1)]).pairsFailed = true := by
  decide +kernel

/-- The last byte of a mapped page, read and written; pages not valid, read-only and without tables; a frame that is
`DIRTY`. -/
theorem wit_TranslationFramesAndErrorsComplete_TranslationAndFramesComplete :
    (bits (2 ^ 21 - 1) 0 21 + 1 ≤ 2 ^ 21 ∧ mapped.pte 7 (bits (2 ^ 21 - 1) 21 31) = some ⟨plain, 0⟩ ∧
      mapped.accessCode 7 (2 ^ 21 - 1) true false = 0 ∧ (Pte.mk plain 0).v = true ∧ (Pte.mk plain 0).ro = false ∧
      mapped.frameExists (Pte.mk plain 0).live = true ∧ mapped.pairsFailed = false ∧
      mapped.readAddr 7 (2 ^ 21 - 1) = some (9 * 2 ^ 21 + 2 ^ 21 - 1)) ∧
    (ready.accessCode 7 (2 ^ 52 - 1) false false ≠ 0 ∧ (Pte.mk 0 0).v = false ∧ (Pte.mk (2 ^ 61) 0).ro = true) ∧
    (ready.frameExists 0xD7FFF = true ∧ ready.frameLost 0xD7FFF = false ∧ ready.ownerOf 0xD7FFF = 0xE) := by
  decide +kernel

/-- A free frame, a stack and a channel in use; a first and a ninth ALERT of a command. -/
theorem wit_TranslationFramesAndErrorsComplete_MemoryErrorsComplete :
    (isDdr 0xD7FFF = false ∧ (ready.setOwner 0xD7FFF 0xF).ownerOf 0xD7FFF = 0xF ∧
      (ready.setOwner 0xD7FFF 0xF).frameLost 0xD7FFF = false ∧ (ready.setOwner 0xD7FFF 0xF).frameExists 0xD7FFF = true ∧
      ready.memErrs = [] ∧ ready.pageOp = none) ∧
    (bit (ready.get Reg.MEM_HBM_STATUS.RETIRED) 23 = false ∧ (∀ j < 8, ready.jobPages j = []) ∧
      bit ((put ready [(Reg.MEM_HBM_STATUS.RETIRED, 2 ^ 23)]).get Reg.MEM_HBM_STATUS.RETIRED) 23 = true ∧
      bit ((put ready [(Reg.MEM_DDR_STATUS.RETIRED, 2 ^ 7)]).get Reg.MEM_DDR_STATUS.RETIRED) 7 = true) ∧
    (let s : State := { ready with modules := [(7, 1)] };
      s.frameExists 0x3C0000 = true ∧ isDdr 0x3C0000 = true ∧ ddrChannel 0x3C0000 = 7 ∧
      Tab.get 0 s.alerts (8 * 9 + 7) < 8 ∧
      8 ≤ Tab.get 0 ({ s with alerts := [(8 * 9 + 7, 8)] } : State).alerts (8 * 9 + 7)) := by
  decide +kernel

/-! ## Witnesses: the Safety Net and training -/

/-- Job 7 RUNNING in context 1 of troupe 23, with the Safety Net on and a schedule; page 0 protected with a mirror. -/
def safe : State := put (page last 7 0 (mkW0 true true false true 9 0x200000) 0)
  [(Reg.SN_CFG.EN 7, 1), (Reg.SN_CFG.LOG2 7, 10), (Reg.SN_JOB_STATUS.INCOMPLETE 7, 0)]

/-- `safe` in a phase of a Curtain. -/
def curtain (n : Nat) : State := put safe [(Reg.SN_JOB_STATUS.PHASE 7, n)]

/-- A request in time and one too early; `MAX_MS` past; a Curtain deferred and one requested; a Curtain in each of its
phases. -/
theorem wit_CurtainsComplete :
    (safe.Open ∧ safe.snReqCode 7 (2 ^ 14 % 2 ^ 64) = 0 ∧ safe.snReqCode 7 ((2 ^ 14 - 1) % 2 ^ 64) ≠ 0) ∧
    ({ safe with time := { root := 2 ^ 41 } } : State).maxDue 7 = true ∧
    (let s := safe.setSn 7 { safe.snOf 7 with req := some 5 };
      (s.snOf 7).req = some 5 ∧ (s.snOf 7).armDue = none ∧ s.curtainMay 7 = true ∧ s.coordinates 7 = true ∧
      s.pairsFailed = false ∧
      ((s.setSn 7 { s.snOf 7 with armDue := some 6 }).snOf 7).armDue = some 6) ∧
    ((curtain 1).jobState 7 = 2 ∧ (curtain 1).phase 7 = 1 ∧ ((curtain 1).snOf 7).t ≤ (curtain 1).netNow ∧
      (curtain 1).group 7 = 0 ∧ (let s := put (curtain 1) [(Reg.SN_CFG.GROUP 7, 9)]; s.group 7 ≠ 0 ∧ s.lockState ≠ 2)) ∧
    (let s := (curtain 2).setCtx 23 1 { (curtain 2).ctxOf 23 1 with curtain := some (8, 0x3FFFC0) };
      s.jobState 7 = 2 ∧ s.phase 7 = 2 ∧ s.group 7 = 0 ∧ s.quiesced 7 = true ∧ Tab.get 0 s.glOut 7 = 0 ∧
      (let t := put s [(Reg.SN_JOB_STATUS.PHASE 7, 4)];
        t.jobState 7 = 2 ∧ t.phase 7 = 4 ∧ (t.snOf 7).tc = 0 ∧ 0 ≤ t.netNow ∧ (t.flushQueues 7).cqFault = none ∧
        (∀ u ∈ t.loaderUses 7, u.2.1 ≤ 8) ∧ t.flag (Reg.SN_CFG.BUDDY 7) = false)) ∧
    (let s := (curtain 3).setSn 7 { (curtain 3).snOf 7 with readyAt := some 0 };
      s.mayCommit 7 (2 ^ 16) = true ∧ s.netNow < 2 ^ 16) ∧
    ((curtain 3).phase 7 = 3 ∧ ((curtain 3).snOf 7).heldAdds = []) := by
  decide +kernel

/-- A page in the drain log, PENDING; an empty one, with and without whole pages to copy. -/
theorem wit_SecuringAndTouchingComplete_SecuringCompletes :
    (let s := (curtain 5).setSn 7 { (curtain 5).snOf 7 with drain := [0] };
      (s.snOf 7).drain = 0 :: [] ∧ s.phase 7 = 5 ∧ s.pairsFailed = false) ∧
    (let p : Pte := ⟨mkW0 true true false true 9 0x200000, 1⟩;
      let s := put (page safe 7 0 p.w0 1) [(Reg.SN_EPOCH.CUR 7, 1), (Reg.SN_EPOCH.BASE 7, 1)];
      s.pte 7 0 = some p ∧ p.v = true ∧ p.prot = true ∧ p.mv = true ∧ s.pageState 7 p = .pending ∧
      (s.snOf 7).wholeCopy = false) ∧
    (((curtain 5).snOf 7).drain = [] ∧ ((curtain 5).snOf 7).owed = 0 ∧ ((curtain 5).snOf 7).wholeCopy = false ∧
      (((curtain 5).setSn 7 { wholeCopy := true }).snOf 7).wholeCopy = true) := by
  decide +kernel

/-- A page SECURED, CURRENT and PENDING. -/
theorem wit_SecuringAndTouchingComplete_ProtectedWritesTouch :
    (let p : Pte := ⟨mkW0 true true false true 9 0x200000, 0⟩;
      let s (cur base touch : Nat) := put (page safe 7 0 (mkW0 true true false true 9 0x200000) touch)
        [(Reg.SN_EPOCH.CUR 7, cur), (Reg.SN_EPOCH.BASE 7, base)];
      (s 1 1 0).pte 7 (bits (2 ^ 21 - 1) 21 31) = some p ∧ p.v = true ∧ p.ro = false ∧ p.prot = true ∧ p.mv = true ∧
      (s 1 1 0).pairsFailed = false ∧ (s 1 1 0).pageState 7 p = .secured ∧ (s 0 0 0).pageState 7 p = .current ∧
      bit p.touch (bits (2 ^ 21 - 1) 0 21 / 65536) = false ∧ (s 0 0 0).pte 7 0 = some p ∧
      (s 1 1 1).pte 7 0 = some ⟨p.w0, 1⟩ ∧ (s 1 1 1).pageState 7 ⟨p.w0, 1⟩ = .pending) := by
  decide +kernel

/-- A restore with a record; resolving with no page and with two. -/
theorem wit_RestoresAndRecoveryComplete_RestoresComplete :
    (let s := put (safe.setSn 7 { recs := [(0, some {})] }) [(Reg.JOB_STATUS.STATE 7, 3)];
      s.jobState 7 = 3 ∧ s.get Reg.RCV_STATUS.STATE = 0 ∧ s.switching 7 = false ∧ s.lastRecord 7 = some {}) ∧
    (let s := put safe [(Reg.SN_JOB_STATUS.RESOLVING 7, 1)];
      s.pairsFailed = false ∧ s.get (Reg.SN_JOB_STATUS.RESOLVING 7) ≠ 0 ∧ s.resolveList 7 = []) ∧
    (let w := mkW0 true true false true 9 0x200000;
      let s := put ((page (page safe 7 0 w 0) 7 1 w 0).setSn 7 { fill := [0, 1] })
        [(Reg.SN_JOB_STATUS.RESOLVING 7, 1), (Reg.SN_EPOCH.CUR 7, 1)];
      s.resolveList 7 = [0, 1] ∧ s.pte 7 0 = some ⟨w, 0⟩ ∧ s.pairsFailed = false ∧
      (((s.copyGranules 0x200000 9 0).noteCopied 7 0 0).setPte 7 0 ⟨w, mkW1 1 0 0⟩).resolveList 7 ≠ []) := by
  decide +kernel

/-- A standby pair that is fit and none; the recovery console in each state; no job that waits. -/
theorem wit_RestoresAndRecoveryComplete_RecoveryControllersComplete :
    (let u (s : State) := (s.raiseErr { code := 0x11, island := 536 }).put Reg.NC_STATUS.LOCKSTEP_EVT 1;
      (u (put ready [(Reg.NC_STATUS.STANDBY_OK, 1)])).get Reg.NC_STATUS.STANDBY_OK ≠ 0 ∧
      (u (put ready [(Reg.NC_STATUS.STANDBY_OK, 0)])).get Reg.NC_STATUS.STANDBY_OK = 0) ∧
    (ready.get Reg.RCV_STATUS.STATE ≠ 1 ∧ ready.get Reg.RCV_STATUS.STATE ≠ 3 ∧ ready.Reached ∧
      (put ready [(Reg.RCV_STATUS.STATE, 1)]).get Reg.RCV_STATUS.STATE = 1 ∧
      (put ready [(Reg.RCV_STATUS.STATE, 1)]).Reached) ∧
    (let s := put ready [(Reg.RCV_STATUS.STATE, 3)];
      s.Reached ∧ s.get Reg.RCV_STATUS.STATE = 3 ∧ ∀ j < 8, s.jobState j ≠ 3) := by
  decide +kernel

/-- A protected job at a fault. -/
theorem wit_FaultsOfProtectedJobsRestore :
    safe.jobState 7 = 2 ∧ safe.flag (Reg.SN_CFG.EN 7) = true ∧ safe.get (Reg.SN_JOB_STATUS.INCOMPLETE 7) = 0 ∧
      safe.pairsFailed = false ∧ safe.coreBars 7 = false ∧ safe.get (Reg.SN_EPOCH.CUR 7) = safe.get (Reg.SN_EPOCH.BASE 7) ∧ safe.phase 7 = 0 ∧
      safe.group 7 = 0 ∧ safe.coll = [] ∧ safe.pageOp = none := by
  decide +kernel

/-- A token owed to a queue with room, and to one that is disabled; an injection; a token past; a step, for a job that does not
run; scales. -/
theorem wit_TokensStepsAndScalesComplete :
    (let s := put ((job7 1).setJobS 7 { owed := [(15, [true])] }) [((cqFlds (jobQueue 7 31)).en, 1),
        ((cqFlds (jobQueue 7 31)).maxpkt, 8), ((cqFlds (jobQueue 7 31)).sizeLog2, 16)];
      s.owedOf 7 15 = true :: [] ∧ s.cqHolds (jobQueue 7 (16 + 15)) = false ∧
      s.flag (cqFlds (jobQueue 7 (16 + 15))).en = true ∧
      (put s [((cqFlds (jobQueue 7 31)).en, 0)]).cqHolds (jobQueue 7 (16 + 15)) = false) ∧
    ((job7 1).Open ∧ (job7 1).injectCode 7 (bits (15 * 2 ^ 16 + 1) 16 4) (bits (15 * 2 ^ 16 + 1) 0 16) = 0 ∧
      (job7 1).injectCode 7 (bits (15 * 2 ^ 16) 16 4) (bits (15 * 2 ^ 16) 0 16) ≠ 0) ∧
    (let t : Token := { x := 0, mb := 0, at_ := 0, left := some [0, 0, 0, 0] };
      let s := last.setCtx 23 1 { tokens := [t] };
      (s.ctxOf 23 1).tokens.find? Token.isPast = some t) ∧
    ((job7 1).stepSeqCode 7 (1 % 2 ^ 48) = 0 ∧ (((job7 1).newStep 7 (1 % 2 ^ 48)).schedWrap 7).jobState 7 ≠ 2 ∧
      (job7 2).Open ∧ (job7 2).stepSeqCode 7 (0 % 2 ^ 48) ≠ 0) ∧
    ((job7 1).scaleCode 7 255 (2 ^ 32 * 63 + 0xC0) = 0 ∧ (job7 1).scaleCode 7 255 64 ≠ 0) := by
  decide +kernel

/-- A stale update; a gate that passes and that skips. -/
theorem wit_UpdatesAndBeatsComplete_UpdateWaitsComplete :
    (let q : QEntry := { opc := 0x70, since := some 0 };
      let s := put (run.setQueue 0 0 1 [q]) [(Reg.STEP_SEQ.SEQ 0, 1)];
      s.updHead 0 0 = some q ∧ s.overtaken 0 0 q = true ∧
      (put s [(Reg.UPD_CFG.STEP_TMO 0, 1)]).get (Reg.UPD_CFG.STEP_TMO ((put s []).jobOf 0 0)) ≠ 0) ∧
    (let q : QEntry := { opc := 0x70, since := some 0, carry := [1] };
      let s := put (run.setQueue 0 0 1 [q]) [(Reg.UPD_CFG.NF_GATE 0, 1), (Reg.UPD_CFG.NF_STEP_SKIP 0, 1)];
      s.updHead 0 0 = some q ∧ q.carry ≠ [] ∧ s.flag (Reg.UPD_CFG.NF_GATE (s.jobOf 0 0)) = true ∧ wWV q.word = false ∧
      s.get (Reg.UPD_CFG.NF_COLLS (s.jobOf 0 0)) ≤ s.get (Reg.STEP_NF.DONE (s.jobOf 0 0)) ∧
      s.nfDecision (s.jobOf 0 0) = false ∧
      (put s [(Reg.STEP_NF.LOCAL 0, 1)]).nfDecision ((put s [(Reg.STEP_NF.LOCAL 0, 1)]).jobOf 0 0) = true ∧
      (put s [(Reg.STEP_NF.LOCAL 0, 1)]).flag (Reg.UPD_CFG.NF_STEP_SKIP 0) = true) := by
  decide +kernel

/-- A context at the end of its beat, the first beat to be released, and a beat all have ended; a wait past the deadline; an
overrun. -/
theorem wit_UpdatesAndBeatsComplete_BeatEventsComplete :
    (let s := put ((last.setCtx 23 1 { block := some (.beat 0, 0), arriveLeft := some [0, 0, 0, 0] }).setJobS 7
          { released := true }) [(Reg.CAL_CFG.EN 7, 1), (Reg.CAL_CTX_MASK.MASK 7, 2 ^ 47), (Reg.CAL_PERIOD.DEN 7, 1)];
      7 = s.jobOf 23 1 ∧ s.jobState 7 = 2 ∧ s.hasBeat 7 = true ∧ (s.jobS 7).released = true ∧ 2 * 23 + 1 ∈ s.calCtxs 7 ∧
      2 * 23 + 1 ∉ (s.jobS 7).arrived ∧ s.atBeatEnd 23 1 = true ∧
      ((s.setJobS 7 {}).jobS 7).released = false ∧ s.get (Reg.CAL_RELEASE.T 7) ≤ s.stamp 532 ∧
      (let t := s.setJobS 7 { arrived := [47], released := true };
        t.beatEnded 7 = true ∧ t.nextRelease 7 ≤ t.stamp 532 ∧ t.carriesCurtain 7 (t.get (Reg.CAL_BEAT.N 7) + 1) = false ∧
        t.jobState 7 = 2 ∧ t.hasBeat 7 = true)) ∧
    (let s := put (last.setCtx 23 1 { block := some (.sched 61 255 0, 0) })
        [(Reg.CAL_CFG.EN 7, 1), (Reg.CAL_STATUS.CLOSED 7, 1)];
      (s.ctxOf 23 1).block = some (.sched 61 255 0, 0) ∧ s.hasBeat (s.jobOf 23 1) = true ∧
      s.schedFind (s.jobOf 23 1) 255 (s.stamp (rmIsland 23)) = .closed) ∧
    ((ready.setJobS 7 { overrun := some 1 }).jobS 7).overrun = some 1 := by
  decide +kernel

/-! ## Witnesses: Guyline and collectives -/

/-- The last port in a state. -/
def port (n : Nat) : State := put ready [(Reg.GL_PORT_STATUS.STATE 15 , n)]

/-- A port off, on, and at a stopped island, with a value that the checks refuse; one that is fused off; one in training that
completes and that does not; live; and up. -/
theorem wit_PortStatesComplete :
    (ready.Open ∧ ready.portPresent 15 = true ∧ ready.accessHeld (0xB00000 + 15 * 0x10000) = false ∧ portCfgCode 15 1 = 0 ∧
      ready.committed = false ∧ ready.flag (Reg.GL_PORT_CFG.EN 15) = false ∧ bit 1 0 = true ∧ ready.hs.loop = none ∧
      (put ready [(Reg.GL_PORT_CFG.EN 15, 1)]).flag (Reg.GL_PORT_CFG.EN 15) = true ∧ portCfgCode 15 0 = 0 ∧
      portCfgCode 15 48 ≠ 0 ∧ ({ ready with stopped := [519] } : State).accessHeld (0xB00000 + 15 * 0x10000) = true) ∧
    (let s := put ready [(Reg.DEV_GRADE.GL_PORT_MASK, 0x7FFF)]; s.Open ∧ s.portPresent 15 = false) ∧
    ((port 1).portState 15 = 1 ∧ (port 1).trained 15 15 = some 2 ∧ (port 1).trained 15 1 = none ∧
      ((port 1).port 15).waiting = [] ∧ ((port 1).port 15).retry = [] ∧ ((port 1).port 15).txMac = 0) ∧
    ((port 3).portLive 15 = true ∧ ∀ j < 8, (port 3).jobState j ≠ 2 ∧ (port 3).jobState j ≠ 3) ∧
    (port 2).portUp 15 = true := by
  decide +kernel

/-- The bytes of four-byte numbers give the numbers back. -/
theorem leNat_leBytes_four (v : Nat) : leNat (leBytes 4 v) = v % 2 ^ 32 := by
  simp only [leBytes, leNat, BitVec.toNat_ofNat]
  omega

/-- The first 252 bytes of a control flit of sequence 0. -/
def flitHead : List Byte := 0 :: 0 :: 0 :: 64 :: List.replicate 248 0

/-- A flit with a given CRC. -/
def flit (v : Nat) : List Byte := flitHead ++ leBytes 4 v

/-- Its first 252 bytes. -/
theorem flitHead_length : flitHead.length = 252 := by decide +kernel

/-- Whether its CRC holds. -/
theorem flit_crc (v : Nat) : crcOk (flit v) = decide (v % 2 ^ 32 = (crc32 flitHead).toNat) := by
  unfold crcOk flit
  rw [List.drop_left' flitHead_length, List.take_left' flitHead_length, leNat_leBytes_four]

/-- Its length. -/
theorem flit_length (v : Nat) : (flit v).length = 256 := by simp [flit, flitHead_length, leBytes]

/-- Its first word. -/
theorem flit_take (v : Nat) : (flit v).take 4 = [0, 0, 0, 64] := rfl

/-- A flit whose CRC fails and one whose CRC holds: its sequence is the one expected. -/
theorem wit_LinkLayerComplete_flits :
    (∃ f : List Byte, f.length = 256 ∧ crcOk f = false) ∧
    ∃ f : List Byte, f.length = 256 ∧ crcOk f = true ∧ bits (leNat (f.take 4)) 30 2 = 1 ∧
      bits (leNat (f.take 4)) 18 12 = ((port 2).port 15).rxSeq := by
  have h := (crc32 flitHead).isLt
  refine ⟨⟨flit ((crc32 flitHead).toNat + 1), flit_length _, ?_⟩, flit (crc32 flitHead).toNat,
    flit_length _, ?_, ?_, ?_⟩
  · rw [flit_crc]
    simp only [decide_eq_false_iff_not]
    omega
  · rw [flit_crc]
    simp only [decide_eq_true_eq]
    omega
  · rw [flit_take]
    decide +kernel
  · rw [flit_take]
    decide +kernel

/-- A port that is up; an `ACK` or `NAK` of a flit, of none, and outside the retry buffer; with and without a `NAK`
outstanding; the fifteenth `NAK` and the sixteenth. -/
theorem wit_LinkLayerComplete :
    ((port 2).portUp 15 = true ∧ ((port 2).port 15).covered 5 = none ∧ ((port 2).port 15).covered 0 = some 0 ∧
      ((port 2).port 15).nakOut = false ∧ ((port 2).port 15).naks < 15) ∧
    (let s := (port 3).setPort 15 { retry := [{ seq := 4094 }, { seq := 4095 }], naks := 15, nakOut := true };
      s.portUp 15 = true ∧ (s.port 15).covered 4095 = some 1 ∧ (s.port 15).covered 4094 = some 0 ∧
      15 ≤ (s.port 15).naks ∧ (s.port 15).nakOut = true) := by
  decide +kernel

/-- An encrypted port with a key known; a first and a second failed tag; a key used up. -/
theorem wit_LinkLayerComplete_LinkEncryptionComplete :
    (let s := (put (port 2) [(Reg.GL_PORT_CFG.ENC 15, 1), (Reg.GL_ENC_CTR.FLITS 15, 2 ^ 48 - 2 ^ 20)]).setPort 15
        { keys := [(3, some (5, []))] };
      s.portUp 15 = true ∧ s.flag (Reg.GL_PORT_CFG.ENC 15) = true ∧ s.knowsKey 15 5 = true ∧ s.knowsKey 15 6 = false ∧
      (s.port 15).macFails = 0 ∧ 2 ^ 48 - 2 ^ 20 ≤ s.get (Reg.GL_ENC_CTR.FLITS 15) ∧
      ((s.setPort 15 { macFails := 1 }).port 15).macFails ≠ 0) := by
  decide +kernel

/-- A header for a device, from the device that is System Master after reset. -/
def head (dst group : Nat) : PktHead := ⟨dst, 0, 7, true, group, 0, 2 ^ 24 - 1⟩

/-- A packet for no job, one for job 7's last queue, which takes it or drops it, and one for another device; a group with and
without a job; a message of the job's own generation. -/
theorem wit_CascadePacketsComplete :
    (headOk (head 65535 65535) = true ∧ (port 2).portUp 15 = true ∧ (port 2).pairsFailed = false ∧
      (head 0 7).dst = (port 2).get Reg.GL_DEV_ID.ID ∧ (head 65535 7).dst ≠ (port 2).get Reg.GL_DEV_ID.ID ∧
      (port 2).packetQueue (head 0 65535) 15 = none ∧
      (port 2).jobOfGroup 65535 = none ∧ (port 2).staleMessage 65535 0 2 = false) ∧
    (let s := put (port 2) [(Reg.JOB_STATUS.STATE 7, 2), (Reg.SN_CFG.GROUP 7, 65535), (Reg.JOB_CTX_MASK.MASK 7, 1),
        ((cqFlds (jobQueue 7 15)).en, 1), ((cqFlds (jobQueue 7 15)).maxpkt, 8), ((cqFlds (jobQueue 7 15)).sizeLog2, 16),
        (Reg.SN_JOB_STATUS.PHASE 7, 2)];
      let r := s.cqOffer (jobQueue 7 15) 255 (List.replicate 8 1);
      s.portUp 15 = true ∧ s.packetQueue (head 0 65535) 15 = some 7 ∧ r.2 = .closed 8 ∧
      (r.1.oweAck 0 65535).settleCq.hoLenOk (jobQueue 7 15) 8 = true ∧ s.jobOfGroup 65535 = some 7 ∧
      15 ∉ (s.snOf 7).drained ∧ s.gen 7 = (head 0 65535).gen ∧
      (put s [(Reg.SN_JOB_STATUS.GEN 7, 1)]).gen 7 ≠ (head 0 65535).gen) := by
  decide +kernel

/-- A device outside a group; a deputy with 0 and with 3 missed heartbeats; a group of one; a master displaced. -/
theorem wit_MastersAndIdentityComplete_MastersAndDeputiesComplete :
    (ready.inGroup 16 = false ∧ ready.pairsFailed = false ∧ ready.membersOf 15 = []) ∧
    (let s := put (ready.setMemNat 30 2 5) [(Reg.GRP_CFG.V 15, 1), (Reg.GRP_CFG.RANK 15, 15), (Reg.GRP_ROLES.DEPUTY 15, 15),
        (Reg.GL_DEV_ID.ID, 5)];
      s.inGroup 15 = true ∧ s.isDeputy 15 = true ∧ (s.sendBeat 15).isDeputy 15 = true ∧
      3 ≤ Tab.get 0 ({ s with missedBeats := [(15, 3)] } : State).missedBeats 15 ∧
      ({ s with missedBeats := [(15, 3)] } : State).isDeputy 15 = true) ∧
    (let s := put ready [(Reg.ST_CTRL.ROLE, 2)];
      s.get Reg.ST_CTRL.ROLE = 2 ∧ 65534 ≠ s.get Reg.GL_DEV_ID.ID) ∧
    (headOk (head 0 0) = true ∧ (port 2).portUp 15 = true ∧ (head 0 0).dst = (port 2).get Reg.GL_DEV_ID.ID) := by
  decide +kernel

/-- A member whose parent changes to none; identities and tori accepted and refused; packets from others and from the System
Master. -/
theorem wit_MastersAndIdentityComplete_CascadeIdentityComplete :
    (let s := put { ready with time := { parent := some 15 } } [(Reg.ST_CTRL.ROLE, 1), (Reg.ST_STATUS.STATE, 2)];
      s.get Reg.ST_CTRL.ROLE = 1 ∧ s.time.parent ≠ none ∧ s.routeParent = none ∧ s.lockState = 2) ∧
    (let s := put (port 2) [(Reg.ST_CTRL.ROLE, 1), (Reg.GL_ROUTE_OVR.V 0, 1), (Reg.GL_ROUTE_OVR.DST 0, 3),
        (Reg.GL_ROUTE_OVR.PORT 0, 15), (Reg.GL_MASTER.SYS, 3), (Reg.GL_PORT_STATUS.PEER 15, 3)];
      s.time.parent ≠ some 3 ∧ s.routeParent = some 3) ∧
    (ready.Open ∧ ready.devIdCode = 0 ∧ (put ready [(Reg.ST_CTRL.ROLE, 2)]).devIdCode ≠ 0 ∧ ready.topoCode 0xFFFF = 0 ∧
      (job7 2).Open ∧ (job7 2).topoCode 0 ≠ 0) ∧
    ((head 0 0).src = (port 2).get Reg.GL_MASTER.SYS ∧
      (head 0 0).src ≠ (put ready [(Reg.GL_MASTER.SYS, 1)]).get Reg.GL_MASTER.SYS ∧ packetReg 0xB08008 = true ∧
      packetReg 0 = false) := by
  decide +kernel

/-- Descriptor 63 of job 7 with an operation, `NGRP`, flags and `TMO`. -/
def coll (op ngrp cfl : Nat) : State := put (ready.setMemNat (2 ^ 12 + 64 * 63) 64
    (2 ^ 160 * op + 2 ^ 176 + 2 ^ 184 * cfl + 2 ^ 192 * ngrp))
  [(Reg.JOB_STATUS.STATE 7, 2), (Reg.GL_COLL_BASE.ADDR 7, 1), (Reg.JOB_FLAG.COUNT 7 0, 1)]

/-- A launch, and one whose check fails; packets of an instance that does not run and of one that does; one that is done; one with
a timeout. -/
theorem wit_CollectivesComplete :
    (let s := coll 1 1 0;
      s.jobState 7 = 2 ∧ s.get (Reg.GL_COLL_BASE.ADDR 7) ≠ 0 ∧ (s.collDesc 7 63).ngrp ≠ 0 ∧
      (s.collOf 7 63).running = false ∧ s.engLoad (s.collDesc 7 63).eng < 8 ∧
      s.launchReady 7 (s.collDesc 7 63) = true ∧ (coll 0xFF 1 0).collCode ((coll 0xFF 1 0).collDesc 7 63) ≠ 0) ∧
    ((port 2).packetJob 65535 0 = none ∧
      (let s := put (port 2) [(Reg.JOB_STATUS.STATE 7, 2), (Reg.SN_CFG.GROUP 7, 65535), (Reg.JOB_CTX_MASK.MASK 7, 1)];
        s.packetJob 65535 0 = some 7 ∧ (s.collOf 7 63).running = false ∧
        ((s.setColl 7 63 { running := true }).collOf 7 63).running = true)) ∧
    (let s := (coll 1 1 (2 ^ 3 * 7)).setColl 7 63 { running := true, stage := 99 };
      s.jobState 7 = 2 ∧ (s.collOf 7 63).running = true ∧ s.collDone 7 63 (s.collDesc 7 63) = true ∧
      (s.collDesc 7 63).nf = false ∧ (s.collDesc 7 63).tmo ≠ 0 ∧
      (match s.writeElems 7 (s.collDesc 7 63).dsta (s.collDesc 7 63).esize
        (s.collOut (s.collDesc 7 63) (s.collOf 7 63).acc) with | .ok _ => true | .error _ => false) = true) := by
  decide +kernel

/-! ## Witnesses: the host interface, power, security, management and start-up -/

/-- A device whose host link is up, with interrupts enabled. -/
def linked : State := { ready with
  aon := { perst := false, up := true },
  pcie := { linkL0 := true, ready := true, busMaster := true, msixEnable := true, rate := 64, width := 8 } }

/-- A link not ready and ready; a pending vector; a mailbox; windows onto a `TABLE` frame, a job's page and neither. -/
theorem wit_HostLinkComplete :
    (linkRates.contains 64 = true ∧ linkWidths.contains 8 = true ∧ linked.aon.perst = false ∧ linked.aon.down = false ∧
      ready.pcie.ready = false ∧ linked.pcie.ready = true) ∧
    ((job7 3).jobState 7 = 2 ∨ (job7 3).jobState 7 = 3) ∧
    (let s := put linked [(Reg.MSIX_PBA.PENDING, 2 ^ 63), (Reg.MSIX_TABLE.W 63 1, 0)];
      bit (s.get Reg.MSIX_PBA.PENDING) 63 = true ∧ s.sendable 63 = true) ∧
    (bit (linked.get Reg.MSIX_PBA.PENDING) 63 = false ∧ State.reset.sendable 63 = false) ∧
    ((ready.mailbox 1).req = none ∧ ([1, 0, 2, 0] : List Byte).length ≤ 16384 ∧ doeType [1, 0, 2, 0] = (1, 1 + 1) ∧
      ((ready.setMailbox 1 { req := some [] }).mailbox 1).req ≠ none ∧ doeType [1, 0, 3, 0] ≠ (1, 0) ∧
      doeType [1, 0, 3, 0] ≠ (1, 1 + 1)) ∧
    (let s := ready.setOwner (dfnOf (ready.winAddr (2 ^ 34 - 1))) 0xD;
      s.inWindow (2 ^ 34 - 1) 1 = true ∧ s.aon.down = false ∧ s.pairsFailed = false ∧ s.get Reg.HIF_WIN.MODE = 0 ∧
      s.frameExists (dfnOf (s.winAddr (2 ^ 34 - 1))) = true ∧ s.ownerOf (dfnOf (s.winAddr (2 ^ 34 - 1))) = 0xD ∧
      ready.frameExists (dfnOf (ready.winAddr (2 ^ 34 - 1))) = true ∧
      ready.ownerOf (dfnOf (ready.winAddr (2 ^ 34 - 1))) ≠ 0xD ∧
      (let u := put ready [(Reg.HIF_WIN.BASE, 2 ^ 18 - 1)];
        u.inWindow 0 1 = true ∧ u.aon.down = false ∧ u.pairsFailed = false ∧ u.get Reg.HIF_WIN.MODE = 0 ∧ u.frameExists (dfnOf (u.winAddr 0)) = false)) ∧
    (let s := put mapped [(Reg.HIF_WIN.MODE, 1), (Reg.HIF_WIN.JOB, 7)];
      s.inWindow (2 ^ 21 - 1) 1 = true ∧ s.aon.down = false ∧ s.pairsFailed = false ∧
      (put s [(Reg.RCV_STATUS.STATE, 1)]).inWindow (2 ^ 21 - 1) 1 = true ∧
      (put s [(Reg.RCV_STATUS.STATE, 1)]).pairsFailed = true ∧ s.get Reg.HIF_WIN.MODE = 1 ∧ s.winJob (s.get Reg.HIF_WIN.JOB) = true ∧
      s.devRead (s.get Reg.HIF_WIN.JOB) (s.winAddr (2 ^ 21 - 1)) = some 0 ∧
      (s.devWrite (s.get Reg.HIF_WIN.JOB) (s.winAddr (2 ^ 21 - 1)) 1).isSome = true ∧
      (s.pte (s.get Reg.HIF_WIN.JOB) (bits (s.winAddr (2 ^ 21 - 1)) 21 31)).isSome = true ∧
      (s.devRead 7 (s.winAddr (2 ^ 21)) = none ∧ s.accessCode 7 (s.winAddr (2 ^ 21)) false = 0x0A ∧
        s.devWrite 7 (s.winAddr (2 ^ 21)) 1 = none ∧ s.accessCode 7 (s.winAddr (2 ^ 21)) true = 0x0A) ∧
      (put s [(Reg.HIF_WIN.JOB, 0)]).get Reg.HIF_WIN.MODE = 1 ∧
      (put s [(Reg.HIF_WIN.JOB, 0)]).winJob ((put s [(Reg.HIF_WIN.JOB, 0)]).get Reg.HIF_WIN.JOB) = false) ∧
    (ready.Open ∧ ready.hifWinCode (2 ^ 34) = 0 ∧
      ({ ready with pcie := { bar2Log2 := 42 } } : State).hifWinCode (2 ^ 34) ≠ 0 ∧ 42 ≠ ready.pcie.bar2Log2) := by
  decide +kernel

/-- Points that may rise, fall and must fall; a regulator in mid-change. -/
theorem wit_PowerCommandsComplete :
    ([0, 0, 0, 2 ^ 16].length = 4 ∧ ready.aon.down = false) ∧
    (let s : State := { put ready [(Reg.PWR_CAP.CAP_W, 1000), (Reg.RING_PWR.VF 3, 2)] with
        power := { high := [(3, 100)], zero := [(3, 100)] } };
      s.pointOk 3 3 = true ∧ s.get (Reg.RING_PWR.VF 3) < 3 ∧ s.pointOk 3 1 = true ∧ 1 ≤ s.get (Reg.RING_PWR.VF 3)) ∧
    ((put ready [(Reg.RING_PWR.VF 3, 3), (Reg.PWR_CAP.CAP_W, 1200)]).pointOk 3 0 = true) ∧
    (Tab.get none ready.power.rise 3 = none ∧
      Tab.get none ({ ready with power := { rise := [(3, some 0)] } } : State).power.rise 3 = some 0) ∧
    ready.get Reg.PWR_CAP.THROT_IN_LEVEL % 64 ≤ 63 := by
  decide +kernel

/-- Temperatures that admit less and no less; a sensor at 115 °C; references bad one by one. -/
theorem wit_SensorsClocksAndShutdownComplete :
    (ready.admitLevel 0 ≤ Tab.get 0 ready.power.admits 23 ∧ Tab.get 0 ready.power.admits 23 < ready.admitLevel 255) ∧
    (1840 ≤ (ready.sensorUpdate 63 1840).effTemp 63 ∧ linked.aon.down = false ∧ linked.aon.trip = none ∧
      linked.aon.supply = none ∧ linked.aon.perst = false) ∧
    (let s := put ready [(Reg.CLK_STATUS.BAD_PCIE, 1)];
      s.refBad (s.get Reg.CLK_STATUS.SRC) = true ∧ s.refBad (1 - s.get Reg.CLK_STATUS.SRC) = false ∧
      (put s [(Reg.CLK_STATUS.BAD_BREF, 1)]).refBad 0 = true ∧ (put s [(Reg.CLK_STATUS.BAD_BREF, 1)]).refBad 1 = true) ∧
    542 ∉ ready.stopped := by
  decide +kernel

/-- A verified reference block with a logic entry of class 1 at depth 2 and an entry for sensors at depth 1. -/
def refBlock : List Byte :=
  leBytes 64 (1 + 2 ^ 16 * 2 + 2 ^ 32) ++ leBytes 32 (1 + 2 ^ 8 * 2 + 2 ^ 128 * 77) ++
    leBytes 32 (7 + 2 ^ 8 + 2 ^ 128 * (5 + 2 ^ 32 * 9))

/-- A test in a class, index and phase. -/
def striking (cls idx ph : Nat) : State := put ready
  [(Reg.HS_STATUS.BUSY, 1), (Reg.HS_STATUS.TARGET, 4096 * cls + idx), (Reg.HS_STATUS.PHASE, ph), (Reg.HS_REF.V, 5)]

/-- Commands rejected, refused and accepted; each phase; each kind of result. -/
theorem wit_StrikerComplete :
    (ready.Open ∧ ready.hsCode (bits 0 12 4) (bits 0 0 12) (bits 0 16 2) ≠ 0 ∧
      ready.hsCode (bits 0x11017 12 4) (bits 0x11017 0 12) (bits 0x11017 16 2) = 0 ∧
      ready.hsRefusal (bits 0x11017 12 4) (bits 0x11017 0 12) (bits 0x11017 16 2) ≠ 0) ∧
    (let s : State := { put ready [(Reg.RING_PWR.VF 3, 1), (Reg.RING_PWR.MV 3, 750)] with boot := { refs := some refBlock } };
      s.Open ∧ s.hsCode (bits 0x21017 12 4) (bits 0x21017 0 12) (bits 0x21017 16 2) = 0 ∧
      s.hsRefusal (bits 0x21017 12 4) (bits 0x21017 0 12) (bits 0x21017 16 2) = 0 ∧
      s.hsRefusal (bits 0x1703F 12 4) (bits 0x1703F 0 12) (bits 0x1703F 16 2) = 0) ∧
    ((striking 1 23 1).logicPhase 1 = true ∧ (striking 1 23 1).hs.early = false ∧
      ({ striking 1 23 1 with hs := { early := true } } : State).logicPhase 1 = true ∧
      (striking 1 23 1).testArrivals = false ∧ (striking 0 383 2).testArrivals = false ∧
      ((striking 1 23 1).setCrossing (rmIsland 23) [{ off := 0 }]).testArrivals = true ∧
      ((striking 0 383 2).setCrossing 383 [{ off := 0 }]).testArrivals = true ∧
      ((striking 0 383 2).setCrossing 383 [{ off := 0 }]).logicPhase 2 = true ∧
      (striking 0 383 2).logicPhase 2 = true ∧ (striking 0 383 3).logicPhase 3 = true ∧
      (striking 0 383 3).testIsland = some 383 ∧ (striking 1 23 3).hsTarget.1 = 1 ∧
      (put (striking 0 383 2) [(Reg.RING_PWR.VF 3, 2)]).logicPhase 2 = true ∧
      (put (striking 0 383 2) [(Reg.RING_PWR.VF 3, 2)]).inTestWindow
        (put (striking 0 383 2) [(Reg.RING_PWR.VF 3, 2)]).hsTarget.1
        (put (striking 0 383 2) [(Reg.RING_PWR.VF 3, 2)]).hsTarget.2 = false) ∧
    (let s : State := { striking 1 23 3 with hs := { ended := true } };
      s.flag Reg.HS_STATUS.BUSY = true ∧ s.hsTarget.1 ≤ 1 ∧ s.hs.ended = true ∧ s.hs.cut = 0 ∧
      5 % 2 ^ 64 = s.get Reg.HS_REF.V ∧ 6 % 2 ^ 64 ≠ s.get Reg.HS_REF.V ∧
      ({ s with hs := { ended := true, cut := 3 } } : State).hs.cut ≠ 0 ∧ s.hsTarget.1 = 1 ∧
      s.hsTarget.2 ∉ s.barred ∧ (striking 0 383 3).hsTarget.1 = 0) ∧
    ((striking 6 542 2).flag Reg.HS_STATUS.BUSY = true ∧ 2 ≤ (striking 6 542 2).hsTarget.1 ∧
      (striking 6 542 2).hsTarget.1 ≠ 7 ∧ (striking 6 542 2).hs.loop = none) ∧
    ((striking 7 63 2).flag Reg.HS_STATUS.BUSY = true ∧ (striking 7 63 2).hsTarget.1 = 7 ∧
      (striking 7 63 2).hs.loop = none ∧ 4 < signed 32 ((striking 7 63 2).get Reg.HS_REF.V)) := by
  decide +kernel

/-- Each mailbox command accepted, and one rejected. -/
theorem wit_SecurityMailboxComplete :
    (let s : State := { ready.setOwner 0 0xD with sec := { last := [(3, some 65)] } };
      s.Open ∧ (∀ op ∈ [1, 2, 3, 5, 6], s.secCode op 0 = 0) ∧ s.secCode 4 3 = 0 ∧ Tab.get none s.sec.last 3 = some 65) ∧
    (ready.Open ∧ (3, Instr.verify) ∈ [(1, Instr.getNonce), (2, .getIdentity), (3, .verify), (5, .revoke), (6, .debugOpen),
      (4, .svnCommit 255)] ∧ ready.secCode 3 0 ≠ 0 ∧ ready.secCode 4 255 ≠ 0) := by
  decide +kernel

/-- Requests waiting in both mailboxes, with and without a certificate; sessions free, open and completed; IDE keys. -/
theorem wit_SpdmAndKeysComplete :
    (let s := ready.setMailbox 1 { req := some [] };
      (s.mailbox 1).req.isSome = true ∧ s.flag Reg.SEC_STATUS.CERT_OK = false ∧
      (put s [(Reg.SEC_STATUS.CERT_OK, 1)]).flag Reg.SEC_STATUS.CERT_OK = true) ∧
    ((List.range 4).find? (fun k => (ready.session k).isNone) = some 0) ∧
    (let x : SessS := { tr := 2 };
      let s : State := { ready with sec := { sessions := [(0, some x), (1, some x), (2, some x), (3, some x)] } };
      (List.range 4).find? (fun k => (s.session k).isNone) = none ∧ s.session 3 = some x ∧ x.tr = 2 ∧ x.up = false) ∧
    (let x : SessS := { tr := 2, up := true };
      let s : State := { ready with sec := { sessions := [(3, some x)] } };
      s.session 3 = some x ∧ x.up = true ∧ s.sessTr 3 = 2 ∧ s.sessUp 3 = true ∧ s.portPresent 15 = true ∧
      s.keyBusy 15 1 1 = false) ∧
    (let x : SessS := { tr := 1, up := true };
      let i : IdeS := { keys := [(1, [1])], active := some 1 };
      let s : State := { linked with sec := { sessions := [(3, some x)] }, doe := [(1, { req := some [] })], ide := [(3, i)] };
      s.ideMay 3 = true ∧ (s.mailbox 1).req.isSome = true ∧ (List.replicate 32 (0 : Byte)).length = 32 ∧
      Tab.get [] (s.stream 3).keys 1 ≠ [] ∧ (s.stream 3).active = some 1) := by
  decide +kernel

/-- A device whose start-up is at step n. -/
def starting (n : Nat) : State := { ready with
  aon := { perst := false, up := true }, boot := { running := true, cur := n } }

/-- All types served; the last reading and the last state; an event and a receiver; a type not served. -/
theorem wit_ManagementRequestsAnswered :
    (let s : State := { starting 10 with mgmt := { events := [3], receiver := some 255 } };
      s.aon.down = false ∧ s.typeServed 0 = true ∧ s.typeServed 2 = true ∧ s.readings[s.readings.length - 1]? = some 0 ∧
      s.stateReadings[48]? = some 0 ∧ s.mgmt.events = 3 :: [] ∧ s.mgmt.receiver.isSome = true) ∧
    ((starting 9).aon.down = false ∧ (starting 9).typeServed 2 = false) := by
  decide +kernel

/-- An update in each of its states. -/
theorem wit_FirmwareUpdatesComplete :
    (let s (n : Nat) : State := put { starting 10 with mgmt := { named := [3], comp := 3, slot := 1 } }
        [(Reg.MGMT_STATUS.UPD_STATE, n)];
      (∀ n < 6, (s n).aon.down = false ∧ (s n).typeServed 5 = true ∧ (s n).updState = n) ∧ 3 ∈ (s 1).mgmt.named ∧
      2 ^ 20 - 1 + [0].length ≤ (flashSlot (s 2).mgmt.comp (s 2).mgmt.slot).2 ∧ (s 2).mgmt.bad = false) := by
  decide +kernel

/-- PERST# asserted and not; a warm reset accepted and rejected. -/
theorem wit_ResetsComplete :
    (linked.aon.perst = false ∧ State.reset.aon.perst = true) ∧
    (linked.aon.down = false ∧ linked.devResetCode 0xA5 = 0 ∧ linked.devResetCode 0xA4 ≠ 0) := by
  decide +kernel

/-- Each step of start-up; a test port that may and may not. -/
theorem wit_StartUpStepsComplete :
    (∀ n ∈ [1, 2, 6, 9, 10], (starting n).boot.running = true ∧ (starting n).boot.waiting = false ∧
      (starting n).boot.cur = n) ∧
    ((starting 2).get Reg.DEV_BOOT.BOOT_MODE < 3 ∧
      (put (starting 2) [(Reg.DEV_BOOT.BOOT_MODE, 3)]).get Reg.DEV_BOOT.BOOT_MODE = 3 ∧
      (put (starting 9) [(Reg.ST_STATUS.STATE, 1)]).step9Ready = false) ∧
    (State.reset.jtagMay .extest = true ∧ JtagInstr.extest ≠ .idcode ∧ linked.jtagMay .extest = false) := by
  decide +kernel

/-- Port 3's island has lost its clock: a word to it waits. -/
def held : State := { ready with stopped := [507] }

/-- The last offset of BAR0 is no register's; nor is the last one of a port, whose island is held. -/
theorem wit_UnassignedOffsetsReadZero :
    (ready.fusedPort (2 ^ 26 - 8) = false ∧ (regAt (2 ^ 26 - 8)).isNone = true ∧ ready.accessHeld (2 ^ 26 - 8) = false ∧
      ready.aon.down = false) ∧
    (held.fusedPort 0xB3FFF8 = false ∧ (regAt 0xB3FFF8).isNone = true ∧ held.accessHeld 0xB3FFF8 = true ∧ held.Open) := by
  decide +kernel

/-- An island that is not held and one that is; shares in and out of range; a trace of one record. -/
theorem wit_HostAccessesComplete :
    (ready.Open ∧ bits (2 ^ 31) 0 32 ≠ 0 ∧ bits (2 ^ 32) 0 32 = 0 ∧ ready.fusedPort 0x10 = false ∧
      ready.accessHeld 0x10 = false) ∧
    (held.Open ∧ held.fusedPort 0xB30000 = false ∧ held.accessHeld 0xB30000 = true) ∧
    ready.Reached ∧ (put ready [((cqFlds 8).put, 80), ((cqFlds 8).get, 40)]).traceAvail 8 = 1 := by
  decide +kernel

/-- Ring 8 enabled, with 16 entries. -/
def ring8 : State := put linked [(Reg.RING_CFG.EN 8, 1), (Reg.RING_CFG.SIZE_LOG2 8, 4)]

/-- Doorbells in and out of range, of a ring that is enabled and one that is not; sizes in and out of range. -/
theorem wit_DoorbellsComplete :
    (ring8.aon.down = false ∧ ring8.pairsFailed = false ∧ ring8.tailCode 8 16 = 0 ∧ ring8.tailCode 8 17 ≠ 0 ∧ ring8.cplHeadCode 8 0 = 0 ∧
      ring8.cplHeadCode 8 1 ≠ 0) ∧
    (linked.tailCode 8 0 ≠ 0 ∧ linked.frHeadCode 7 0 ≠ 0 ∧ (put linked [(Reg.FR_CFG.EN 7, 1)]).frHeadCode 7 0 = 0) ∧
    (linked.Open ∧ 4 ≤ bits (2 ^ 18 + 1) 16 4 ∧ bit (2 ^ 18 + 1) 0 = true ∧ linked.flag (Reg.RING_CFG.EN 8) = false ∧
      bits (3 * 2 ^ 16) 16 4 < 4) ∧
    (put linked [(Reg.RCV_STATUS.STATE, 1)]).pairsFailed = true := by
  decide +kernel

/-- Ring q with a command. -/
def cmd (q : Nat) (c : RingCmd) : State := { mapped with
  pcie := { busMaster := true }, rings := [(q, { cmds := [c] })] }

/-- An entry to fetch; a `NOP`; register commands to an island that runs and to one that is held. -/
theorem wit_RingCommandsComplete :
    (let s := (put ring8 [(Reg.RING_STATUS.TAIL 8, 1)]).setHostBytes 0 (leBytes 64 0x10);
      s.mayFetch 8 = true ∧ (entryCmd 8 (s.get (Reg.RING_STATUS.HEAD 8)) (s.hostBytes
        (s.get (Reg.RING_BASE.ADDR 8) * 64 + 64 * (s.get (Reg.RING_STATUS.HEAD 8) % s.ringSize 8)) 64)).2 = true) ∧
    ((cmd 8 { opc := 1 }).pairsFailed = false ∧ (cmd 8 { opc := 1 }).nextCmd 8 1 = some { opc := 1 }) ∧
    (let c (o : Nat) : RingCmd := { opc := o, a0 := 0x800010 };
      (cmd 8 (c 2)).nextCmd 8 2 = some (c 2) ∧ (cmd 8 (c 3)).nextCmd 8 3 = some (c 3) ∧
      (cmd 8 (c 3)).accessHeld 0x800010 = false ∧ ringOffOk 8 (bits (c 2).a0 0 26) = true ∧
      (cmd 8 (c 3)).fusedPort (bits (c 3).a0 0 26) = false ∧ ringOffOk 7 (bits (c 2).a0 0 26) = false) ∧
    (let c (o : Nat) : RingCmd := { opc := o, a0 := 0xB30000 };
      let s (o : Nat) : State := { cmd 8 (c o) with stopped := [507] };
      (s 2).nextCmd 8 2 = some (c 2) ∧ (s 3).nextCmd 8 3 = some (c 3) ∧ (s 2).accessHeld 0xB30000 = true ∧
      (s 2).fusedPort 0xB30000 = false) := by
  decide +kernel

/-- A copy's last byte of a page and its first beyond it, each way; one that is rejected. -/
theorem wit_RingCommandsComplete_RingCopies :
    (let c (o n : Nat) : RingCmd := { opc := o, a1 := 2 ^ 21 - 1, a2 := n };
      (cmd 7 (c 4 1)).hostReach = true ∧ (cmd 7 (c 4 1)).copyNext 7 4 = some (c 4 1) ∧
      (cmd 7 (c 4 1)).copyCode 7 (c 4 1) = 0 ∧ copyPiece (c 4 1) = 1 ∧ copyPiece (c 4 2) = 1 ∧
      ((cmd 7 (c 4 1)).copyIn 7 0 (2 ^ 21 - 1) 1).2 = 1 ∧
      (cmd 7 (c 5 1)).copyNext 7 5 = some (c 5 1) ∧ (cmd 7 (c 5 1)).copyCode 7 (c 5 1) = 0 ∧
      ((cmd 7 (c 5 1)).copyOut 7 0 (2 ^ 21 - 1) 1).2 = 1) ∧
    (let c (o : Nat) : RingCmd := { opc := o, a1 := 2 ^ 21 - 1, a2 := 2, moved := 1, started := true };
      (cmd 7 (c 4)).copyNext 7 4 = some (c 4) ∧ (cmd 7 (c 5)).copyNext 7 5 = some (c 5) ∧
      ((cmd 7 (c 4)).copyIn 7 1 (2 ^ 21) (copyPiece (c 4))).2 < copyPiece (c 4) ∧
      ((cmd 7 (c 5)).copyOut 7 1 (2 ^ 21) (copyPiece (c 5))).2 < copyPiece (c 5)) ∧
    (let c : RingCmd := { opc := 4, a1 := 2 ^ 52, a2 := 0 };
      (cmd 7 c).copyNext 7 4 = some c ∧ c.started = false ∧ (cmd 7 c).copyCode 7 c ≠ 0) := by
  decide +kernel

/-- A flag add, a job command and a page operation, each accepted; a command that is done. -/
theorem wit_RingCommandsComplete_RingJobCommands :
    (let c : RingCmd := { opc := 6, a0 := 255, a1 := 1 };
      let s := put (cmd 7 c) [(Reg.JOB_HOSTFLAGS.MASK 7 3, 2 ^ 63)];
      s.nextCmd 7 6 = some c ∧ s.flagAddCode 7 (bits c.a0 0 8) = 0 ∧ (cmd 7 c).flagAddCode 7 (bits c.a0 0 8) ≠ 0) ∧
    (let c : RingCmd := { opc := 16, a0 := 7, a1 := 2 };
      let s := put (cmd 8 c) [(Reg.JOB_STATUS.STATE 7, 2)];
      s.nextCmd 8 16 = some c ∧ s.flag Reg.DEV_STATUS.READY = true ∧ s.jobCmdCode (bits c.a0 0 3) (bits c.a1 0 4) = 0 ∧
      (put s [(Reg.JOB_STATUS.STATE 7, 0)]).jobCmdCode (bits c.a0 0 3) (bits c.a1 0 4) ≠ 0 ∧
      (put s [(Reg.DEV_STATUS.READY, 0)]).flag Reg.DEV_STATUS.READY = false) ∧
    (let c : RingCmd := { opc := 17, a0 := 7 * 2 ^ 32 + 1, a1 := 11 * 2 ^ 26, a2 := 1 };
      (cmd 8 c).nextCmd 8 17 = some c ∧ (cmd 8 c).pageOp = none ∧
      (cmd 8 c).pageOpCode (bits c.a2 0 4) (bits c.a0 32 3) (bits c.a0 0 31) c.a1 true = 0 ∧
      (put (cmd 8 c) [(Reg.DEV_STATUS.READY, 0)]).pageOpCode (bits c.a2 0 4) (bits c.a0 32 3) (bits c.a0 0 31) c.a1
        true ≠ 0) ∧
    (let c : RingCmd := { idx := 65535, opc := 1, started := true, done := true };
      let s : State := { cmd 8 c with rings := [(8, { cmds := [c], order := [65535] })] };
      s.hostReach = true ∧ (s.ringOfNum 8).order.head? = some 65535 ∧
      (s.ringOfNum 8).cmds.find? (fun d => d.idx = 65535 && d.done) = some c ∧ bit c.flg 1 = false ∧
      (s.ringOfNum 8).order.head? ≠ some 0) := by
  decide +kernel

/-- An error of the last context. -/
theorem wit_ContextErrorsStopTheJob :
    last.flag (Reg.CTX_CFG.BOUND 23 1) = true ∧ last.jobOf 23 1 < 8 ∧ last.jobState (last.jobOf 23 1) = 2 := by
  decide +kernel

/-- An `accz` whose tile is quiet, and the last entry of the last tile. -/
theorem wit_AcczClearsTheTile :
    ({ opc := 0x34 } : QEntry).opc = 0x34 ∧ run.tileQuiet ⟨0, 0, 0, 0⟩ { opc := 0x34 } 0 = true ∧ 31 < 32 ∧ 63 < 64 ∧
      30 ≠ 31 := by decide +kernel

/-- `PEAK` of the last sensor. -/
theorem wit_RcReadsKeepTheirEvents :
    ready.Open ∧ ready.fusedPort 0x8002F8 = false ∧ ready.accessHeld 0x8002F8 = false ∧
      ((regAt 0x8002F8).map fun r => r.1.fields.any (fun f => f.acc == .rc)) = some true := by
  decide +kernel

/-- An `accz` that waits on no flag may begin; one of a core that begun it may not; a tile with rows in flight. -/
theorem wit_HeadsThatMayStartAct :
    (∀ o ∈ [0x34, 0x50, 0x62], let q : QEntry := { opc := o, since := some 0 };
      let s := run.setQueue 0 0 (engineOf o) [q];
      s.entrySeq 0 0 (engineOf o) 0 = some q ∧ s.mayBegin 0 0 (engineOf o) q 0 = true ∧
        s.turnOk 0 0 (engineOf o) (s.view 0 0).cx = true ∧ s.mayBegin 0 0 (engineOf o) { q with begun := 1 } 0 = false) ∧
    (put run [(Reg.ACC_TILE.INFLIGHT 0 0 0, 1)]).tileQuiet ⟨0, 0, 0, 0⟩ { opc := 0x34 } 0 = false := by
  decide +kernel

/-! ## Terms that are not well formed -/

/-- A header whose fields all fit. -/
def anyHead : PktHead := ⟨0, 0, 0, false, 0, 0, 0⟩

/-- A context instruction of troupe 24, and of context 2. -/
theorem refused_contexts :
    (contextInstrs 24 0 0).all (fun i => !i.wf) = true ∧ (contextInstrs 0 2 0).all (fun i => !i.wf) = true ∧
      (Instr.upd 24 0 0).wf = false ∧ (Instr.upd 0 2 0).wf = false ∧ (contextInstrs 23 1 0).all Instr.wf = true := by
  decide +kernel

/-- Each term breaks one check. -/
theorem refused_1 :
    ([
      .engineWaitSatisfied 24 0 0, .engineWaitSatisfied 0 2 0, .engineWaitSatisfied 0 0 4,
      .engineWaitTimeout 24 0 0, .engineWaitTimeout 0 2 0, .engineWaitTimeout 0 0 4, .fwaitTimeout 24 0,
      .fwaitTimeout 0 2, .engineOpRetire 24 0 0 0, .engineOpRetire 0 2 0 0, .engineOpRetire 0 0 4 0,
      .engineOpRetire 0 0 0 16, .flagSignalVisible 8 0, .flagSignalVisible 0 256, .waitCycle 8, .jobStopIdle 8,
      .contextDrainDone 24 0, .contextDrainDone 0 2, .jobCtxMaskBind 8 0, .jobCtxMaskUnbind 8, .start 8,
      .haltCommand 8, .release 8, .jobFlagAdd 8 0 0] : List Instr).all (fun i => !i.wf) = true := by
  decide +kernel

/-- Each term breaks one check. -/
theorem refused_2 :
    ([
      .snapshotLatch 543, .syncWord 543 0, .replicaFault 543 true, .crossingTimeout 543 none none,
      .crossingTimeout 0 (some 8) none, .ucieModuleRetire 14 0, .ucieModuleRetire 0 18, .dieLinkLost 14 0,
      .iterationRetire 24 0 0, .iterationRetire 0 2 0, .iterationRetire 0 0 16, .accOverflowReplay 24 0 0,
      .accOverflowReplay 0 2 0, .accOverflowReplay 0 0 16, .weightLoadDone 24 0 0, .weightLoadDone 0 2 0,
      .weightLoadDone 0 0 16, .latchRewrite 24 0, .latchRewrite 0 16, .sharedModeCopy 24 0, .sharedModeCopy 0 16,
      .drumrollRise 24 0, .drumrollRise 0 2, .drumrollLevelStep 24 0 0] : List Instr).all (fun i => !i.wf) = true := by
  decide +kernel

/-- Each term breaks one check. -/
theorem refused_3 :
    ([
      .drumrollLevelStep 0 16 0, .drumrollLevelStep 0 0 2, .drumrollFall 24 0 0, .drumrollFall 0 16 0,
      .drumrollFall 0 0 2, .halfFence 24 0 true, .halfFence 0 2 true, .arrCfgNarrow 24 0 0, .arrCfgNarrow 0 16 0,
      .streamChunkAdvance 24 0 0 0 0, .streamChunkAdvance 0 2 0 0 0, .streamChunkAdvance 0 0 16 0 0,
      .paradeHop 24 0, .paradeHop 0 2, .carryRecordPush 24 0, .carryRecordPush 0 2, .carryRecordPop 24 0,
      .carryRecordPop 0 2, .carryRingTimeout 24 0, .carryRingTimeout 0 2, .tloadImageArrive 24 0 0,
      .tloadImageArrive 0 2 0, .tloadImageArrive 0 0 16, .bankGrant 24 0 []] : List Instr).all (fun i => !i.wf) = true := by
  decide +kernel

/-- Each term breaks one check. -/
theorem refused_4 :
    ([
      .bankGrant 0 16 [], .atomicOp 24 0 0 0 [], .atomicOp 0 16 0 0 [], .atomicOp 0 0 16384 0 [],
      .atomicOp 0 0 0 4 [], .spEccCorrect 24 0, .spEccCorrect 0 16, .spEccUncorr 24 0 none none,
      .spEccUncorr 0 16 none none, .spEccUncorr 0 0 (some 8) none, .coreClear 24 0, .coreClear 0 16,
      .btRegionStart 24 0, .btRegionStart 0 16, .btRegionDone 24 0 none, .btRegionDone 0 16 none,
      .homTest 24 0 true, .homTest 0 16 true, .cqAdmit 265, .cqTruncate 265 0 [], .cqClose 265 0 [], .cqPop 265,
      .cqSpill 265, .cqHeadFill 265] : List Instr).all (fun i => !i.wf) = true := by
  decide +kernel

/-- Each term breaks one check. -/
theorem refused_5 :
    ([
      .cqCfgWrite 265 0 0, .cqCfgWrite 0 2 0, .dmaRequestComplete 24 0 0 .ok, .dmaRequestComplete 0 2 0 .ok,
      .dmaRequestComplete 0 0 16 .ok, .translation 8 0 0 1 true true, .translation 0 4 0 1 true true,
      .translation 0 0 (2 ^ 52) 1 true true, .translation 0 0 0 0 true true, .memCorrectedError 0 0 (2 ^ 21),
      .memUncorrectable 0 0 (2 ^ 21) none none, .memUncorrectable 0 0 0 (some 8) none, .stackLost 24,
      .ddrAlertRetry 8 0 0x200000 0 0 none none, .ddrAlertRetry 0 0 0x200000 0 (2 ^ 21) none none,
      .ddrAlertRetry 0 0 0x200000 0 0 (some 8) none, .ddrChannelLost 8, .hbmRefresh 24, .tokenPost 8 0,
      .tokenPost 0 16, .schedInject 8 0, .tokenComplete 24 0, .tokenComplete 0 2, .stepSeqWrite 8 0] : List Instr).all (fun i => !i.wf) = true := by
  decide +kernel

/-- Each term breaks one check. -/
theorem refused_6 :
    ([
      .scaleWrite 8 0 0, .scaleWrite 0 256 0, .updStepStale 24 0, .updStepStale 0 2, .updNfGatePass 24 0,
      .updNfGatePass 0 2, .beatArrival 24 0, .beatArrival 0 2, .beatRelease 8, .beatDeadline 24 0,
      .beatDeadline 0 2, .beatOverrun 8, .snReq 8 0, .curtainMaxInterval 8, .curtainArm 8, .curtainTReached 8,
      .curtainReady 8, .curtainCommit 8 0, .curtainAbandon 8, .mirrorEngineStep 8, .curtainSecured 8,
      .protectedWrite 8 0, .protectedWrite 0 (2 ^ 52), .epochWalk 8] : List Instr).all (fun i => !i.wf) = true := by
  decide +kernel

/-- Each term breaks one check. -/
theorem refused_7 :
    ([
      .buddyAck 8, .faultRestore 8 16 0, .faultRestore 0 15 0, .faultRestore 0 23 0, .faultRestore 0 16 543,
      .restoreComplete 8, .resolvePage 8, .portEnWrite 16 0, .portTrainingDone 16 0 0, .portLost 16 0,
      .flitReceive 16 (List.replicate 256 0), .flitReceive 0 (List.replicate 257 0), .nakReplay 16 0,
      .nakReplay 0 4096, .ackReceive 16 0, .ackReceive 0 4096, .ackSend 16, .portRetrain 16, .creditReturn 16 0 0,
      .creditReturn 0 8 0, .creditReturn 0 0 128, .macFlitCheck 16 true 0, .encCounterLimit 16,
      .dataPacketReceive 16 anyHead 0 0 []] : List Instr).all (fun i => !i.wf) = true := by
  decide +kernel

/-- Each term breaks one check. -/
theorem refused_8 :
    ([
      .dataPacketReceive 0 anyHead 16 0 [], .dataPacketReceive 0 anyHead 0 (2 ^ 32) [],
      .dataPacketReceive 0 anyHead 0 0 (List.replicate 65537 0), .deliveryAck 16 anyHead [] true,
      .heartbeat 17 true, .deputyTakeover 17, .takeoverReceive 16 anyHead 0 0, .takeoverReceive 0 anyHead 17 0,
      .snMessageReceive 16 anyHead 1 0, .snMessageReceive 0 anyHead 0 0, .snMessageReceive 0 anyHead 7 0,
      .snMessageReceive 0 anyHead 1 (2 ^ 88), .drainMarkerReceive 16 anyHead,
      .registerAccessPacket 16 anyHead true 0 0, .registerAccessPacket 0 anyHead true (2 ^ 32) 0,
      .registerAccessPacket 0 anyHead true 0 (2 ^ 64), .collectiveLaunch 8 0, .collectiveLaunch 0 64,
      .collectivePacket 16 anyHead 0 0 true 0 [], .collectivePacket 0 anyHead 64 0 true 0 [],
      .collectivePacket 0 anyHead 0 0 true 0 (List.replicate 65537 0), .collectiveComplete 8 0,
      .collectiveComplete 0 64, .collectiveTimeout 8 0] : List Instr).all (fun i => !i.wf) = true := by
  decide +kernel

/-- Each term breaks one check. -/
theorem refused_9 :
    ([
      .collectiveTimeout 0 64, .bar2Resize 33, .bar2Resize 43, .doorbellTail 16 0, .doorbellCplHead 16 0,
      .doorbellFrHead 16 0, .ringEntryFetch 9 true, .cmdNop 9, .regWrite 9, .regRead 9, .copyToDev 8 true,
      .copyFromDev 8, .flagAdd 8, .commandComplete 9 0, .ringCfgEnWrite 9 0, .msixSend 64, .doeObject 2 [],
      .ideCheckFail 4, .capLoop 0 (List.replicate 5 0), .throttleWindow 24 0, .throttleWindow 0 16, .vfChange 4 0,
      .vfChange 0 4, .avsCompletion 4 550] : List Instr).all (fun i => !i.wf) = true := by
  decide +kernel

/-- Each term breaks one check. -/
theorem refused_10 :
    ([
      .avsCompletion 0 549, .avsCompletion 0 851, .avsFailure 4, .pinGlitch 4, .sensorUpdate 64 0,
      .sensorUpdate 0 32768, .hbmHot 24 0, .hbmHot 0 256, .thermtrip (some 64), .clockLockLoss 543, .supplyFault 9,
      .getVersion 3, .getCapabilities 3, .negotiateAlgorithms 3 true, .getDigests 3, .getCertificate 3 0 0 0,
      .challenge 3 0 [], .getMeasurements 3 0 true [], .keyExchange 3, .finish 4 true, .heartbeatSpdm 4,
      .keyUpdate 4, .endSession 4, .keyProg 4 0 0 (List.replicate 32 0)] : List Instr).all (fun i => !i.wf) = true := by
  decide +kernel

/-- Each term breaks one check. -/
theorem refused_11 :
    ([
      .keyProg 0 4 0 (List.replicate 32 0), .keyProg 0 0 2 (List.replicate 32 0),
      .keyProg 0 0 0 (List.replicate 33 0), .kSetGo 4 0 0, .kSetGo 0 4 0, .kSetGo 0 0 2, .kSetStop 4 0 0,
      .kSetStop 0 4 0, .kSetStop 0 0 2, .glKeyProg 4 0 0 0 0 (List.replicate 32 0),
      .glKeyProg 0 16 0 0 0 (List.replicate 32 0), .glKeyProg 0 0 2 0 0 (List.replicate 32 0),
      .glKeyProg 0 0 0 2 0 (List.replicate 32 0), .glKeyProg 0 0 0 0 (2 ^ 32) (List.replicate 32 0),
      .glKeyProg 0 0 0 0 0 (List.replicate 33 0), .glKeyGo 4 0, .glKeyGo 0 16, .setEndpointId 256,
      .i3cAddressAssign 128, .setTid 256, .setEventReceiver 256, .requestFirmwareData 0 (List.replicate 4097 0),
      .trcPop 9 0, .pcieLinkL0 16 8] : List Instr).all (fun i => !i.wf) = true := by
  decide +kernel

/-- Each term breaks one check. -/
theorem refused_12 :
    ([
      .pcieLinkL0 32 16, .ddr5Refresh 8, .atomicOp 0 0 0 0 [(64, 0)], .sensorUpdate 0 (-32769),
      .translation 0 0 1 (2 ^ 21) true true, .ddrAlertRetry 1 0 0x200000 0 0 none none,
      .ddrAlertRetry 0 0 0 0 0 none none, .ddrAlertRetry 0 0 0x200000 0 0 none (some ⟨24, 0, 0⟩),
      .crossingTimeout 0 none (some ⟨24, 0, 0⟩), .spEccUncorr 0 0 none (some ⟨0, 2, 0⟩),
      .memUncorrectable 0 0 0 none (some ⟨0, 0, 4⟩), .dataPacketReceive 0 { anyHead with dst := 65536 } 0 0 [],
      .deliveryAck 0 { anyHead with src := 65536 } [] true, .takeoverReceive 0 { anyHead with lane := 8 } 0 0,
      .snMessageReceive 0 { anyHead with group := 65536 } 1 0, .drainMarkerReceive 0 { anyHead with gen := 256 },
      .registerAccessPacket 0 { anyHead with stamp := 2 ^ 24 } true 0 0,
      .collectivePacket 0 { anyHead with dst := 65536 } 0 0 true 0 []] : List Instr).all (fun i => !i.wf) = true := by
  decide +kernel

/-! ## Single commands -/

/-- The next state of a command has a property. -/
def after (i : Instr) (s : State) (p : State → Bool) : Bool :=
  match exec i s with
  | .next t => p t
  | _ => false

/-- The state after one command and then another has a property. -/
def after2 (i j : Instr) (s : State) (p : State → Bool) : Bool := after i s (after j · p)

/-- `ops` with 1.5 at byte 0, and 0.25 at byte 0x200, of core 0's scratchpad. -/
def data : State := (ops.setSpBytes 0 0 0 (leBytes 4 0x3FC00000)).setSpBytes 0 0 0x200 (leBytes 4 0x3E800000)

/-- `sx.add`: 1.5 + 0.25 = 1.75. -/
theorem test_sx_add : after2 (.sxAdd 0 0 (word [(80, 1), (72, 5), (56, 5)])) (.streamChunkAdvance 0 0 0 0 1) data
    (fun t => t.spNat 0 0 0x200 4 = 0x3FE00000 ∧ t.spNat 0 0 0 4 = 0x3FC00000) = true := by decide +kernel

/-- `sx.sub`: 0.25 - 1.5 = -1.25; the operands are not exchanged. -/
theorem test_sx_sub : after2 (.sxSub 0 0 (word [(80, 5), (72, 1), (56, 1)])) (.streamChunkAdvance 0 0 0 0 1) data
    (fun t => t.spNat 0 0 0 4 = 0xBFA00000) = true := by decide +kernel

/-- `sx.mul`: 1.5 × 1.5 = 2.25, into an input's place. -/
theorem test_sx_mul : after2 (.sxMul 0 0 (word [(80, 1), (72, 1), (56, 1)])) (.streamChunkAdvance 0 0 0 0 1) data
    (fun t => t.spNat 0 0 0 4 = 0x40100000) = true := by decide +kernel

/-- `sx.fma`: 1.5 × 0.25 + 1.5 = 1.875. -/
theorem test_sx_fma : after2 (.sxFma 0 0 (word [(80, 1), (72, 5), (64, 1), (56, 5)])) (.streamChunkAdvance 0 0 0 0 1) data
    (fun t => t.spNat 0 0 0x200 4 = 0x3FF00000) = true := by decide +kernel

/-- `sx.cvt` from FP32 1.5 to INT32 rounds to the even 2. -/
theorem test_sx_cvt : after2 (.sxCvt 0 0 (word [(80, 1), (56, 2)])) (.streamChunkAdvance 0 0 0 0 1) data
    (fun t => t.spNat 0 0 0x100 4 = 2) = true := by decide +kernel

/-- `dfill` writes its 32-bit field to the element. -/
theorem test_dfill : after2 (.dfill 0 0 (word [(80, 1), (8, 0xDEADBEEF)])) (.dmaRequestComplete 0 0 0 .ok) ops
    (fun t => t.spNat 0 0 0 4 = 0xDEADBEEF) = true := by decide +kernel

/-- `dmv` moves the element. -/
theorem test_dmv : after2 (.dmv 0 0 (word [(80, 1), (72, 5)])) (.dmaRequestComplete 0 0 0 .ok) data
    (fun t => t.spNat 0 0 0x200 4 = 0x3FC00000) = true := by decide +kernel

/-- `accz` puts tile 0 at zero, not placed. -/
theorem test_accz : after2 (.accz 0 0 0) (.engineOpRetire 0 0 0 0) (put (run.setCore 0 0 { acc := [(65, some 7)] }) [(Reg.ACC_TILE.PLACED 0 0 0, 1)])
    (fun t => t.accGet 0 0 0 1 1 = 0 ∧ t.get (Reg.ACC_TILE.PLACED 0 0 0) = 0) = true := by decide +kernel

/-- `lv.vl` sets the length; one of 257 is rejected, and the job is HALTING (R73, R119). -/
theorem test_lv_vl : after2 (.lvVl 0 0 (word [(0, 100)])) (.engineOpRetire 0 0 2 0) ops (fun t => t.get (Reg.LANE_STATUS.VL0 0 0) = 100) = true ∧
    after (.lvVl 0 0 (word [(0, 257)])) ops (fun t => t.jobState 0 = 4) = true := by decide +kernel

/-- `br` by -1 goes back 16 bytes (R98). -/
theorem test_br : after (.br 0 0 (word [(0, 0xFFFFFFFF)])) (put run [(Reg.CTX_PC.ADDR 0 0, 16)])
    (fun t => t.pc 0 0 = 240) = true := by decide +kernel

/-- `fset` adds to a context flag. -/
theorem test_fset : after (.fset 0 0 (word [(111, 5), (95, 2)])) (put run [(Reg.CTX_FLAG.COUNT 0 0 5, 1)])
    (fun t => t.get (Reg.CTX_FLAG.COUNT 0 0 5) = 3) = true := by decide +kernel

/-- START of job 7 (R77) makes it RUNNING. -/
theorem test_start : after (.start 7) (put (job7 1) [(Reg.JOB_CTX_MASK.MASK 7, 2), (Reg.CTX_CFG.BOUND 0 1, 1),
    (Reg.CTX_CFG.JOB 0 1, 7), (Reg.MEM_PT_ROOT.ADDR 7, 2 ^ 24), (Reg.MEM_PT_ROOT2.ADDR 7, 2 ^ 24 + 2 ^ 21)])
    (fun t => t.jobState 7 = 2) = true := by decide +kernel

/-- Root time carries out of its fraction. -/
theorem test_tick : after .showtimeRootTick
    (put { State.reset with time := { root := 2 ^ 32 - 1, frac := 2 ^ 31 } } [(Reg.ST_RATE.RATE, 2 ^ 31)])
    (fun t => t.time.root = 2 ^ 32 ∧ t.time.frac = 0) = true := by decide +kernel

/-- IDCODE, little end first. -/
theorem test_idcode : after (.jtagInstruction .idcode) .reset (fun t => t.mmioData = 0x12472B87) = true := by decide +kernel

/-- A device reset needs 0xA5. -/
theorem test_devReset : after (.devReset 0xA4 0) linked (fun t => t.get Reg.DEV_BOOT.RESET_KIND = linked.get
    Reg.DEV_BOOT.RESET_KIND ∧ t.get (Reg.ERR_CNT.N 0x06) = 1) = true := by decide +kernel

/-- The host reads what it wrote to a word of the register space. -/
theorem test_registerWrite : after (.registerWrite 0xC00008 0x123456789ABCDEF0) ready
    (fun t => t.barRead 0xC00008 = 0x123456789ABCDEF0) = true := by decide +kernel

/-- An event that meets its clear stands (R9). -/
theorem test_w1c : after (.w1cClear 0xC00018 (2 ^ 32) (2 ^ 32)) ready
    (fun t => t.get Reg.MEM_OP_STATUS.DONE_EVT = 1) = true := by decide +kernel

/-- An INT32 atomic add carries across its bytes, lowest first (R278, R279). -/
theorem test_atomic : after (.atomicOp 0 0 1 0 [(0, 1)]) (ready.setSpLine 0 0 1 [(0, 255), (1, 255), (2, 7)])
    (fun t => (t.spLine 0 0 1).take 5 = [0, 0, 8, 0, 0]) = true := by decide +kernel

/-- The page tables translate the last byte of a page. -/
theorem test_translation : after (.translation 7 0 (2 ^ 21 - 1) 1 false false) mapped
    (fun t => t.jobState 7 = 1 ∧ t.memErrs = []) = true := by decide +kernel

/-- Enabling port 15 puts it, and no other, in training. -/
theorem test_portEn : after (.portEnWrite 15 1) ready
    (fun t => t.get (Reg.GL_PORT_STATUS.STATE 15) = 1 ∧ t.get (Reg.GL_PORT_STATUS.STATE 14) = 0) = true := by decide +kernel

/-- 1,234 W over a period of 10 µs is 12.34 mJ: 12 counted, 34 hundredths carried (R488). -/
theorem test_capLoop : after (.capLoop 1234 [0, 0, 0, 0]) linked
    (fun t => t.get Reg.PWR_ENERGY.N = 12 ∧ t.power.pkgRem = 34) = true := by decide +kernel

/-- A ring's `NOP` is done. -/
theorem test_nop : after (.cmdNop 8) (cmd 8 { opc := 1 })
    (fun t => (t.ringOfNum 8).cmds.all (fun c => c.done)) = true := by decide +kernel

end Sys2Proof.Tests
end

section
/-! Register accesses of the host at offsets that no chapter assigns to a register (R18, R23). -/

namespace Sys2Proof.Machine

/-! ## Where an access of the host goes -/

theorem exec_registerWrite (off v : Nat) (s : State) :
    exec (.registerWrite off v) s = .next (s.hostWrite off (fun t => t.regWrite off v)) := rfl

theorem exec_rcRead_of_up {s : State} (h : s.aon.down = false) (off ev : Nat) : exec (.rcRead off ev) s =
    .next (if s.boot.dark && 0x100000 ≤ off then { s with mmioData := 0 } else s.readClear off ev) := by
  show execRcRead off ev s = _
  simp [execRcRead, h]

/-- A write that changes nothing, changes nothing wherever the host's writes are let through (R425, R522). -/
theorem State.hostWrite_of_fixed {s : State} {f : State → State} (off : Nat) (hf : f s = s) : s.hostWrite off f = s := by
  simp [State.hostWrite, State.hostReaches, State.barWrite, hf]

/-- While BAR0 takes a write, every block of it does (R425, R522). -/
theorem State.hostWrite_open {s : State} (h : s.Open) (off : Nat) (f : State → State) : s.hostWrite off f = f s := by
  have ⟨hdark, hdown, _⟩ := h
  simp [State.hostWrite, State.hostReaches_reached ⟨hdark, hdown⟩, State.barWrite_open h, hdown]

/-- At an island that is not held a write takes effect at once. -/
theorem State.regWrite_of_not_held {s : State} {off : Nat} (h : s.accessHeld off = false) (v : Nat) :
    s.regWrite off v = s.writeNow off v := by
  simp [State.regWrite, h]

/-- At an island that is held a write waits in the crossing (R18); of fused ports none waits (R4). -/
theorem State.regWrite_of_held {s : State} {off : Nat} (h : s.accessHeld off = true) (hport : s.fusedPort off = false)
    (v : Nat) : s.regWrite off v = s.pushWord off { off := off, val := v } := by
  simp [State.regWrite, h, hport]

/-- At an island that is not held a read shows the register at once. -/
theorem State.readClear_of_not_held {s : State} {off : Nat} (h : s.accessHeld off = false) (ev : Nat) :
    s.readClear off ev = s.readNow off ev := by
  simp [State.readClear, h]

/-! ## An offset without a register (R23) -/

theorem State.regRead_of_unassigned (s : State) {off : Nat} (hreg : regAt off = none) : s.regRead off = 0 := by
  simp [State.regRead, hreg]

theorem State.barRead_of_unassigned (s : State) {off : Nat} (hreg : regAt off = none) : s.barRead off = 0 := by
  simp [State.barRead, s.regRead_of_unassigned hreg]

theorem State.clearRc_of_unassigned (s : State) {off : Nat} (hreg : regAt off = none) (ev : Nat) :
    s.clearRc off ev = s := by
  simp [State.clearRc, hreg]

theorem State.readNow_of_unassigned (s : State) {off : Nat} (hreg : regAt off = none) (ev : Nat) :
    s.readNow off ev = { s with mmioData := 0 } := by
  simp [State.readNow, s.clearRc_of_unassigned hreg, s.regRead_of_unassigned hreg]

theorem State.writeNow_of_unassigned {s : State} {off : Nat} (hport : s.fusedPort off = false)
    (hreg : regAt off = none) (v : Nat) : s.writeNow off v = s := by
  simp [State.writeNow, hport, hreg]

/-- A write to an island that is not held is discarded. -/
theorem execRegisterWrite_of_unassigned {s : State} {off : Nat} (hport : s.fusedPort off = false)
    (hreg : regAt off = none) (hheld : s.accessHeld off = false) (v : Nat) :
    exec (.registerWrite off v) s = .next s := by
  have hw : s.regWrite off v = s := by
    rw [State.regWrite_of_not_held hheld, State.writeNow_of_unassigned hport hreg]
  rw [exec_registerWrite, State.hostWrite_of_fixed off hw]

/-- A read by the host at an island that is not held returns zero, whether BAR0 is dark there (R522) or not. -/
theorem execRcRead_of_unassigned {s : State} {off : Nat} (hreg : regAt off = none) (hheld : s.accessHeld off = false)
    (hdown : s.aon.down = false) (ev : Nat) : exec (.rcRead off ev) s = .next { s with mmioData := 0 } := by
  have hread : s.readClear off ev = { s with mmioData := 0 } := by
    rw [State.readClear_of_not_held hheld, s.readNow_of_unassigned hreg]
  rw [exec_rcRead_of_up hdown, hread, ite_self]

/-- A write to an island that is held waits in its crossing (R18), whether or not a register stands at the offset. -/
theorem execRegisterWrite_of_held {s : State} {off : Nat} (hopen : s.Open) (hport : s.fusedPort off = false)
    (hheld : s.accessHeld off = true) (v : Nat) :
    exec (.registerWrite off v) s = .next (s.pushWord off { off := off, val := v }) := by
  rw [exec_registerWrite, State.hostWrite_open hopen, State.regWrite_of_held hheld hport]

end Sys2Proof.Machine

namespace Sys2Proof.Proofs
open Sys2Proof.Machine

/-- Settles O52, by whether the offset's island is held: an access to one that is not meets no register and changes
nothing, and a write to one that is held goes to the crossing before the register map is asked. -/
theorem unassignedOffsetsReadZero : Obligations.UnassignedOffsetsReadZero := by
  unfold Obligations.UnassignedOffsetsReadZero
  intro off v s hport hreg
  refine ⟨s.barRead_of_unassigned hreg, State.writeNow_of_unassigned hport hreg v, s.readNow_of_unassigned hreg v, ?_, ?_⟩
  · intro hheld
    exact ⟨execRegisterWrite_of_unassigned hport hreg hheld v, fun hdown => execRcRead_of_unassigned hreg hheld hdown v⟩
  · intro hheld hopen
    exact execRegisterWrite_of_held hopen hport hheld v

end Sys2Proof.Proofs
end

section
/-! A rejected write of `ARR_CFG` where the device's trace stream is backed past the HBM4 stacks (R156, R285, R347).

The trace record of a rejection may send positions of the device's trace queue to its backing area, and the write counter of
their stack counts their bytes. The model numbers a stack by its frame alone. The counters of the 24 stacks stand apart from
every `ARR_CFG`, but that of a stack 654880 would stand at 0xC01100 + 8 × 654880 = 0x1100200, which is `ARR_CFG` of core 0 of
troupe 0. No backing area of a size that R297 allows reaches that stack; the obligation does not bound the size. -/

namespace Sys2Proof.Proofs
open Sys2Proof.Machine

/-- The last position of the first burst whose backing addresses lie in stack 654880, of 36864 frames like each stack. -/
def lingerPosition : Nat := 654880 * 36864 * 2 ^ 21 + 511

/-- The array of core 0 of troupe 0 is ON. The device's trace queue has a backing area of 2 ^ 56 bytes; its head stage is full,
and its tail stage, which begins at `lingerPosition`, has room for all of a trace record of 40 bytes but the last. -/
def traceSpillsIntoLinger : State :=
  (((((State.reset.setCq 0 { spilled := lingerPosition, head := lingerPosition }).put
    (Reg.TQ_CFG.SIZE_LOG2 0) 56).put (Reg.TQ_BASE.ADDR 0) 1).put
    (Reg.TQ_GET.COUNT 0) (lingerPosition - 4096)).put (Reg.TQ_PUT.COUNT 0) (lingerPosition + 4096 - 39)).put
    (drumState 0 0 0) 2

/-- BAR0 takes writes, and the core's island is not held. -/
theorem traceSpillsIntoLinger_takes_write :
    traceSpillsIntoLinger.Open ∧ traceSpillsIntoLinger.accessHeld (coreOff 0 0 0x200) = false := by
  decide +kernel

theorem traceSpillsIntoLinger_array_on : traceSpillsIntoLinger.get (drumState 0 0 0) = 2 := by
  decide +kernel

theorem traceSpillsIntoLinger_narrow : traceSpillsIntoLinger.get (Reg.ARR_CFG.NARROW 0 0) = 0 := by
  decide +kernel

theorem traceSpillsIntoLinger_linger : traceSpillsIntoLinger.get (Reg.ARR_CFG.LINGER 0 0) = 256 := by
  decide +kernel

/-- The counter of stack 654880, 1 once the rejection is traced, is what `LINGER` reads as. -/
theorem traceSpillsIntoLinger_reject_linger :
    (traceSpillsIntoLinger.reject 0x04 (coreOff 0 0 0x200) none).get (Reg.ARR_CFG.LINGER 0 0) = 1 := by
  decide +kernel

/-- Refutes O58: the write of `NARROW` is rejected while the array is ON, but the record of the rejection sends a byte to stack
654880, whose count overwrites `ARR_CFG.LINGER`: it goes from 256 to 1. -/
theorem not_narrowChangesWhileTheArrayIsOff : ¬ Obligations.NarrowChangesWhileTheArrayIsOff := by
  unfold Obligations.NarrowChangesWhileTheArrayIsOff
  intro h
  obtain ⟨hopen, hheld⟩ := traceSpillsIntoLinger_takes_write
  have hchanges : bits (2 ^ 16 + 64) 16 1 ≠ traceSpillsIntoLinger.get (Reg.ARR_CFG.NARROW 0 0) := by
    simp [traceSpillsIntoLinger_narrow, bits]
  have hon : traceSpillsIntoLinger.get (drumState 0 0 0) ≠ 0 := by
    simp [traceSpillsIntoLinger_array_on]
  obtain ⟨-, hrejected⟩ := h 0 0 (2 ^ 16 + 64) traceSpillsIntoLinger (by decide) (by decide) hopen hheld (by decide)
    (by decide) hchanges
  obtain ⟨-, -, hlinger⟩ := hrejected (fun hoff => hon hoff.1)
  simp [traceSpillsIntoLinger_reject_linger, traceSpillsIntoLinger_linger] at hlinger

end Sys2Proof.Proofs
end

section
/-! `accz` on one core: what an iteration of it leaves in the entries and the registers of its tile, and in the other tiles
(R161, R177). -/

namespace Sys2Proof

/-- What a key reads as once a range of keys is dropped: the default inside the range, as before outside it. -/
theorem Tab.get_clearRange {α : Type} (d : α) (t : Tab α) (lo n k : Nat) :
    Tab.get d (Tab.clearRange t lo n) k = if lo ≤ k ∧ k < lo + n then d else Tab.get d t k := by
  induction t with
  | nil => simp [Tab.clearRange, Tab.get]
  | cons e t ih =>
    obtain ⟨a, v⟩ := e
    have hcons : Tab.clearRange ((a, v) :: t) lo n =
        if a < lo ∨ lo + n ≤ a then (a, v) :: Tab.clearRange t lo n else Tab.clearRange t lo n := by
      simp [Tab.clearRange, List.filter_cons]
    rw [hcons]
    by_cases hka : k = a
    · subst hka
      split
      · rw [if_neg (by omega)]
        simp [Tab.get]
      · rw [ih, if_pos (by omega), if_pos (by omega)]
    · split <;> simp [Tab.get, hka, ih]

end Sys2Proof

namespace Sys2Proof.Machine

/-! ## Entries of a tile -/

/-- Every entry of a tile made zero reads as zero. -/
theorem State.accGet_accZero_same (s : State) (g cx t : Nat) {r j : Nat} (hr : r < 64) (hj : j < 64) :
    (s.accZero g cx t).accGet g cx t r j = 0 := by
  have hin : t * 4096 ≤ t * 4096 + r * 64 + j ∧ t * 4096 + r * 64 + j < t * 4096 + 4096 := by omega
  simp [State.accGet, State.accZero, Tab.get_clearRange, hin]

/-- The entries of the other tiles of the core stay. -/
theorem State.accGet_accZero_ne (s : State) (g cx : Nat) {t m r j : Nat} (hm : m ≠ t) (hr : r < 64) (hj : j < 64) :
    (s.accZero g cx t).accGet g cx m r j = s.accGet g cx m r j := by
  have hout : ¬ (t * 4096 ≤ m * 4096 + r * 64 + j ∧ m * 4096 + r * 64 + j < t * 4096 + 4096) := by omega
  simp [State.accGet, State.accZero, Tab.get_clearRange, hout, Tab.get_set_ne _ _ _ _ _ hm]

/-! ## A tile cleared (R177) -/

/-- Another field of the register just written reads as before. -/
theorem State.get_put_of_lo_ne (s : State) {f h : Fld} (v : Nat) (hoff : h.off = f.off) (hlo : h.lo ≠ f.lo) :
    (s.put f v).get h = s.get h := by
  apply State.get_put_ne
  simp only [Fld.key, hoff]
  omega

/-- After its entries `accz` clears registers only. -/
theorem State.accGet_tileClear (s : State) (g cx t m r j : Nat) :
    (s.tileClear g cx t).accGet g cx m r j = (s.accZero g cx t).accGet g cx m r j := rfl

theorem State.tileClear_mem (s : State) (g cx t : Nat) : (s.tileClear g cx t).mem = s.mem := rfl

/-- The fields of `ACC_TILE` stand apart in their register, so each holds what the clearing wrote to it. -/
theorem State.tileClear_fields (s : State) (g cx t : Nat) :
    (s.tileClear g cx t).get (Reg.ACC_TILE.PLACED g cx t) = 0 ∧ (s.tileClear g cx t).tileE g cx t = 0 ∧
    (s.tileClear g cx t).get (Reg.ACC_TILE.HSTEP g cx t) = 8 ∧ (s.tileClear g cx t).get (Reg.ACC_TILE.VANISH g cx t) = 0 ∧
    (s.tileClear g cx t).get (Reg.ACC_TILE.REPLAYS g cx t) = 0 := by
  have hE : signed 10 (unsigned 10 0 % 1024) = 0 := by decide
  simp [State.tileClear, State.setTileE, State.tileE, State.get_put_of_lo_ne, hE, Reg.ACC_TILE.PLACED, Reg.ACC_TILE.E,
    Reg.ACC_TILE.HSTEP, Reg.ACC_TILE.VANISH, Reg.ACC_TILE.REPLAYS]

/-! ## The iteration -/

/-- An `accz` writes no scratchpad operand, so no tile step holds it back (R173). -/
theorem State.iterHeld_accz {q : QEntry} (h : q.opc = 0x34) (s : State) (x : At) (i : Nat) : s.iterHeld x q i = false := by
  simp [State.iterHeld, State.outsOf, h, engineOf]

theorem State.runIter_accz {q : QEntry} (h : q.opc = 0x34) {s : State} {x : At} {i : Nat} (hq : s.tileQuiet x q i = true) :
    s.runIter x q i = (s.tileClear x.g (s.view x.g x.cx).cx (s.opTile x q i), .ran) := by
  simp [State.runIter, s.iterHeld_accz h, h, hq, State.iterAccz, ranOr]

end Sys2Proof.Machine

namespace Sys2Proof.Proofs
open Sys2Proof.Machine

/-- Settles O57: an `accz` whose tile is quiet clears it at once, and the clearing drops the 4096 entries of that tile and
no others, then writes the fields of its register one by one. -/
theorem acczClearsTheTile : Obligations.AcczClearsTheTile := by
  unfold Obligations.AcczClearsTheTile
  refine ⟨fun x q i s hopc hquiet => State.runIter_accz hopc hquiet, ?_⟩
  intro g cx k s _
  obtain ⟨hplaced, hE, hhstep, hvanish, hreplays⟩ := s.tileClear_fields g cx k
  refine ⟨?_, hplaced, hE, hhstep, hvanish, hreplays, s.tileClear_mem g cx k, ?_⟩
  · intro r j hr hj
    rw [State.accGet_tileClear, s.accGet_accZero_same g cx k hr hj]
  · intro m r j hm hr hj
    rw [State.accGet_tileClear, s.accGet_accZero_ne g cx hm hr hj]

end Sys2Proof.Proofs
end

section
/-! Every command keeps the canonical forms and leaves the queue behind it alone, and the step that runs it. -/

namespace Sys2Proof.Machine

/-- What a command answers keeps the queue of waiting commands and the canonical forms, by the law of its own meaning. -/
theorem exec_goes (i : Instr) (s : State) : Goes s (exec i s) := by
  cases i with
  | loop g c w => exact execLoop_kept g c w s (Kept.refl s)
  | br g c w => exact execBr_kept g c w s (Kept.refl s)
  | fset g c w => exact execFset_kept g c w s (Kept.refl s)
  | fwait g c w => exact execFwait_kept g c w s (Kept.refl s)
  | qwait g c w => exact execQwait_kept g c w s (Kept.refl s)
  | beatWait g c w => exact execBeatWait_kept g c w s (Kept.refl s)
  | beatMark g c w => exact execBeatMark_kept g c w s (Kept.refl s)
  | curtain g c w => exact execCurtain_kept g c w s (Kept.refl s)
  | tstamp g c w => exact execTstamp_kept g c w s (Kept.refl s)
  | sched g c w => exact execSched_kept g c w s (Kept.refl s)
  | halt g c w => exact execHalt_kept g c w s (Kept.refl s)
  | dmv g c w => exact execDmv_kept g c w s (Kept.refl s)
  | dtr g c w => exact execDtr_kept g c w s (Kept.refl s)
  | dgat g c w => exact execDgat_kept g c w s (Kept.refl s)
  | dsct g c w => exact execDsct_kept g c w s (Kept.refl s)
  | dfill g c w => exact execDfill_kept g c w s (Kept.refl s)
  | mwl g c w => exact execMwl_kept g c w s (Kept.refl s)
  | mma g c w => exact execMma_kept g c w s (Kept.refl s)
  | mmx g c w => exact execMmx_kept g c w s (Kept.refl s)
  | accp g c w => exact execAccp_kept g c w s (Kept.refl s)
  | accz g c w => exact execAccz_kept g c w s (Kept.refl s)
  | accd g c w => exact execAccd_kept g c w s (Kept.refl s)
  | asplit g c w => exact execAsplit_kept g c w s (Kept.refl s)
  | sxAdd g c w => exact execSxAdd_kept g c w s (Kept.refl s)
  | sxSub g c w => exact execSxSub_kept g c w s (Kept.refl s)
  | sxMul g c w => exact execSxMul_kept g c w s (Kept.refl s)
  | sxFma g c w => exact execSxFma_kept g c w s (Kept.refl s)
  | sxMin g c w => exact execSxMin_kept g c w s (Kept.refl s)
  | sxMax g c w => exact execSxMax_kept g c w s (Kept.refl s)
  | sxCmp g c w => exact execSxCmp_kept g c w s (Kept.refl s)
  | sxSel g c w => exact execSxSel_kept g c w s (Kept.refl s)
  | sxAbs g c w => exact execSxAbs_kept g c w s (Kept.refl s)
  | sxCvt g c w => exact execSxCvt_kept g c w s (Kept.refl s)
  | sxClamp g c w => exact execSxClamp_kept g c w s (Kept.refl s)
  | sxSfn g c w => exact execSxSfn_kept g c w s (Kept.refl s)
  | lvVl g c w => exact execLvVl_kept g c w s (Kept.refl s)
  | lvLd g c w => exact execLvLd_kept g c w s (Kept.refl s)
  | lvSt g c w => exact execLvSt_kept g c w s (Kept.refl s)
  | lvAdd g c w => exact execLvAdd_kept g c w s (Kept.refl s)
  | lvMul g c w => exact execLvMul_kept g c w s (Kept.refl s)
  | lvFma g c w => exact execLvFma_kept g c w s (Kept.refl s)
  | lvMax g c w => exact execLvMax_kept g c w s (Kept.refl s)
  | lvMin g c w => exact execLvMin_kept g c w s (Kept.refl s)
  | lvRed g c w => exact execLvRed_kept g c w s (Kept.refl s)
  | lperm g c w => exact execLperm_kept g c w s (Kept.refl s)
  | lscan g c w => exact execLscan_kept g c w s (Kept.refl s)
  | lstat g c w => exact execLstat_kept g c w s (Kept.refl s)
  | lsoftmax g c w => exact execLsoftmax_kept g c w s (Kept.refl s)
  | sfn g c w => exact execSfn_kept g c w s (Kept.refl s)
  | tload g c w => exact execTload_kept g c w s (Kept.refl s)
  | tswap g c w => exact execTswap_kept g c w s (Kept.refl s)
  | upd g c w => exact execUpd_kept g c w s (Kept.refl s)
  | engineWaitSatisfied g c e => exact execEngineWaitSatisfied_kept g c e s (Kept.refl s)
  | engineWaitTimeout g c e => exact execEngineWaitTimeout_kept g c e s (Kept.refl s)
  | fwaitTimeout g c => exact execFwaitTimeout_kept g c s (Kept.refl s)
  | engineOpRetire g c e cx => exact execEngineOpRetire_kept g c e cx s (Kept.refl s)
  | flagSignalVisible j f => exact execFlagSignalVisible_kept j f s (Kept.refl s)
  | waitCycle j => exact execWaitCycle_kept j s (Kept.refl s)
  | jobStopIdle j => exact execJobStopIdle_kept j s (Kept.refl s)
  | contextDrainDone g c => exact execContextDrainDone_kept g c s (Kept.refl s)
  | jobCtxMaskBind j mask => exact execJobCtxMaskBind_kept j mask s (Kept.refl s)
  | jobCtxMaskUnbind j => exact execJobCtxMaskUnbind_kept j s (Kept.refl s)
  | start j => exact execStart_kept j s (Kept.refl s)
  | haltCommand j => exact execHaltCommand_kept j s (Kept.refl s)
  | release j => exact execRelease_kept j s (Kept.refl s)
  | jobFlagAdd j idx add => exact execJobFlagAdd_kept j idx add s (Kept.refl s)
  | registerWrite off val => exact execRegisterWrite_kept off val s (Kept.refl s)
  | w1cClear off mask hw => exact execW1cClear_kept off mask hw s (Kept.refl s)
  | rcRead off ev => exact execRcRead_kept off ev s (Kept.refl s)
  | stSetSec val => exact execStSetSec_kept val s (Kept.refl s)
  | secondsStepApply notice => exact execSecondsStepApply_kept notice s (Kept.refl s)
  | stSnapArm => exact execStSnapArm_kept s (Kept.refl s)
  | snapshotLatch island => exact execSnapshotLatch_kept island s (Kept.refl s)
  | snapshotDone => exact execSnapshotDone_kept s (Kept.refl s)
  | showtimeRootTick => exact execShowtimeRootTick_kept s (Kept.refl s)
  | syncWord island corr => exact execSyncWord_kept island corr s (Kept.refl s)
  | replicaFault island missed => exact execReplicaFault_kept island missed s (Kept.refl s)
  | timeExchange t1 t2 t3 t4 => exact execTimeExchange_kept t1 t2 t3 t4 s (Kept.refl s)
  | timeExchangeMissed => exact execTimeExchangeMissed_kept s (Kept.refl s)
  | lockAcquired => exact execLockAcquired_kept s (Kept.refl s)
  | ppsInEdge stamp => exact execPpsInEdge_kept stamp s (Kept.refl s)
  | ppsLost => exact execPpsLost_kept s (Kept.refl s)
  | trefLost => exact execTrefLost_kept s (Kept.refl s)
  | ppsOutHigh => exact execPpsOutHigh_kept s (Kept.refl s)
  | ppsOutLow => exact execPpsOutLow_kept s (Kept.refl s)
  | crossingTimeout island job op => exact execCrossingTimeout_kept island job op s (Kept.refl s)
  | ucieModuleRetire link mdl => exact execUcieModuleRetire_kept link mdl s (Kept.refl s)
  | dieLinkLost link jobs => exact execDieLinkLost_kept link jobs s (Kept.refl s)
  | iterationRetire g c cx => exact execIterationRetire_kept g c cx s (Kept.refl s)
  | accOverflowReplay g c cx => exact execAccOverflowReplay_kept g c cx s (Kept.refl s)
  | weightLoadDone g c cx => exact execWeightLoadDone_kept g c cx s (Kept.refl s)
  | latchRewrite g cx => exact execLatchRewrite_kept g cx s (Kept.refl s)
  | sharedModeCopy g cx => exact execSharedModeCopy_kept g cx s (Kept.refl s)
  | drumrollRise g h => exact execDrumrollRise_kept g h s (Kept.refl s)
  | drumrollLevelStep g cx h => exact execDrumrollLevelStep_kept g cx h s (Kept.refl s)
  | drumrollFall g cx h => exact execDrumrollFall_kept g cx h s (Kept.refl s)
  | halfFence g h parity => exact execHalfFence_kept g h parity s (Kept.refl s)
  | arrCfgNarrow g cx val => exact execArrCfgNarrow_kept g cx val s (Kept.refl s)
  | streamChunkAdvance g c cx stall raw => exact execStreamChunkAdvance_kept g c cx stall raw s (Kept.refl s)
  | paradeHop g c => exact execParadeHop_kept g c s (Kept.refl s)
  | carryRecordPush g c => exact execCarryRecordPush_kept g c s (Kept.refl s)
  | carryRecordPop g c => exact execCarryRecordPop_kept g c s (Kept.refl s)
  | carryRingTimeout g c => exact execCarryRingTimeout_kept g c s (Kept.refl s)
  | tloadImageArrive g c cx => exact execTloadImageArrive_kept g c cx s (Kept.refl s)
  | bankGrant g cx reqs => exact execBankGrant_kept g cx reqs s (Kept.refl s)
  | atomicOp g cx line kind els => exact execAtomicOp_kept g cx line kind els s (Kept.refl s)
  | spEccCorrect g cx => exact execSpEccCorrect_kept g cx s (Kept.refl s)
  | spEccUncorr g cx job op => exact execSpEccUncorr_kept g cx job op s (Kept.refl s)
  | coreClear g cx => exact execCoreClear_kept g cx s (Kept.refl s)
  | btRegionStart g cx => exact execBtRegionStart_kept g cx s (Kept.refl s)
  | btRegionDone g cx bad => exact execBtRegionDone_kept g cx bad s (Kept.refl s)
  | homTest g cx pass => exact execHomTest_kept g cx pass s (Kept.refl s)
  | cqAdmit q => exact execCqAdmit_kept q s (Kept.refl s)
  | cqTruncate q tag data => exact execCqTruncate_kept q tag data s (Kept.refl s)
  | cqClose q tag data => exact execCqClose_kept q tag data s (Kept.refl s)
  | cqPop q => exact execCqPop_kept q s (Kept.refl s)
  | cqSpill q => exact execCqSpill_kept q s (Kept.refl s)
  | cqHeadFill q => exact execCqHeadFill_kept q s (Kept.refl s)
  | cqCfgWrite q word val => exact execCqCfgWrite_kept q word val s (Kept.refl s)
  | dmaRequestComplete g c cx res => exact execDmaRequestComplete_kept g c cx res s (Kept.refl s)
  | translation j ring va len write bad => exact execTranslation_kept j ring va len write bad s (Kept.refl s)
  | map => exact execMap_kept s (Kept.refl s)
  | unmap => exact execUnmap_kept s (Kept.refl s)
  | migrate => exact execMigrate_kept s (Kept.refl s)
  | migratePhaseDone => exact execMigratePhaseDone_kept s (Kept.refl s)
  | setMirror => exact execSetMirror_kept s (Kept.refl s)
  | retireFrame => exact execRetireFrame_kept s (Kept.refl s)
  | retireStack => exact execRetireStack_kept s (Kept.refl s)
  | ctrFlush => exact execCtrFlush_kept s (Kept.refl s)
  | pageOpDone => exact execPageOpDone_kept s (Kept.refl s)
  | zeroFill dfn => exact execZeroFill_kept dfn s (Kept.refl s)
  | patrolScrub dfn => exact execPatrolScrub_kept dfn s (Kept.refl s)
  | memCorrectedError dfn dev off => exact execMemCorrectedError_kept dfn dev off s (Kept.refl s)
  | memUncorrectable dfn dev off job op => exact execMemUncorrectable_kept dfn dev off job op s (Kept.refl s)
  | stackLost st => exact execStackLost_kept st s (Kept.refl s)
  | ddrAlertRetry ch cmd dfn dev off job op => exact execDdrAlertRetry_kept ch cmd dfn dev off job op s (Kept.refl s)
  | ddrChannelLost ch => exact execDdrChannelLost_kept ch s (Kept.refl s)
  | hbmRefresh st => exact execHbmRefresh_kept st s (Kept.refl s)
  | tokenPost j x => exact execTokenPost_kept j x s (Kept.refl s)
  | schedInject j val => exact execSchedInject_kept j val s (Kept.refl s)
  | tokenComplete g c => exact execTokenComplete_kept g c s (Kept.refl s)
  | stepSeqWrite j val => exact execStepSeqWrite_kept j val s (Kept.refl s)
  | scaleWrite j t val => exact execScaleWrite_kept j t val s (Kept.refl s)
  | updStepStale g c => exact execUpdStepStale_kept g c s (Kept.refl s)
  | updNfGatePass g c => exact execUpdNfGatePass_kept g c s (Kept.refl s)
  | beatArrival g c => exact execBeatArrival_kept g c s (Kept.refl s)
  | beatRelease j => exact execBeatRelease_kept j s (Kept.refl s)
  | beatDeadline g c => exact execBeatDeadline_kept g c s (Kept.refl s)
  | beatOverrun j => exact execBeatOverrun_kept j s (Kept.refl s)
  | snReq j tm => exact execSnReq_kept j tm s (Kept.refl s)
  | curtainMaxInterval j => exact execCurtainMaxInterval_kept j s (Kept.refl s)
  | curtainArm j => exact execCurtainArm_kept j s (Kept.refl s)
  | curtainTReached j => exact execCurtainTReached_kept j s (Kept.refl s)
  | curtainReady j => exact execCurtainReady_kept j s (Kept.refl s)
  | curtainCommit j tc => exact execCurtainCommit_kept j tc s (Kept.refl s)
  | curtainAbandon j => exact execCurtainAbandon_kept j s (Kept.refl s)
  | mirrorEngineStep j => exact execMirrorEngineStep_kept j s (Kept.refl s)
  | curtainSecured j => exact execCurtainSecured_kept j s (Kept.refl s)
  | protectedWrite j va => exact execProtectedWrite_kept j va s (Kept.refl s)
  | epochWalk j => exact execEpochWalk_kept j s (Kept.refl s)
  | buddyAck j => exact execBuddyAck_kept j s (Kept.refl s)
  | faultRestore j code island => exact execFaultRestore_kept j code island s (Kept.refl s)
  | restoreComplete j => exact execRestoreComplete_kept j s (Kept.refl s)
  | resolvePage j => exact execResolvePage_kept j s (Kept.refl s)
  | lockstep => exact execLockstep_kept s (Kept.refl s)
  | netLost => exact execNetLost_kept s (Kept.refl s)
  | reload readOk => exact execReload_kept readOk s (Kept.refl s)
  | resume => exact execResume_kept s (Kept.refl s)
  | portEnWrite p val => exact execPortEnWrite_kept p val s (Kept.refl s)
  | portTrainingDone p lanes peer => exact execPortTrainingDone_kept p lanes peer s (Kept.refl s)
  | portLost p jobs => exact execPortLost_kept p jobs s (Kept.refl s)
  | flitReceive p flit => exact execFlitReceive_kept p flit s (Kept.refl s)
  | nakReplay p seq => exact execNakReplay_kept p seq s (Kept.refl s)
  | ackReceive p seq => exact execAckReceive_kept p seq s (Kept.refl s)
  | ackSend p => exact execAckSend_kept p s (Kept.refl s)
  | portRetrain p => exact execPortRetrain_kept p s (Kept.refl s)
  | creditReturn p vl n => exact execCreditReturn_kept p vl n s (Kept.refl s)
  | macFlitCheck p ok keyId => exact execMacFlitCheck_kept p ok keyId s (Kept.refl s)
  | encCounterLimit p => exact execEncCounterLimit_kept p s (Kept.refl s)
  | dataPacketReceive p h q tag data => exact execDataPacketReceive_kept p h q tag data s (Kept.refl s)
  | deliveryAck p h acks sent => exact execDeliveryAck_kept p h acks sent s (Kept.refl s)
  | heartbeat grp got => exact execHeartbeat_kept grp got s (Kept.refl s)
  | deputyTakeover grp => exact execDeputyTakeover_kept grp s (Kept.refl s)
  | takeoverReceive p h grp master => exact execTakeoverReceive_kept p h grp master s (Kept.refl s)
  | snMessageReceive p h kind body => exact execSnMessageReceive_kept p h kind body s (Kept.refl s)
  | drainMarkerReceive p h => exact execDrainMarkerReceive_kept p h s (Kept.refl s)
  | registerAccessPacket p h write off val => exact execRegisterAccessPacket_kept p h write off val s (Kept.refl s)
  | timeParentChange parent => exact execTimeParentChange_kept parent s (Kept.refl s)
  | collectiveLaunch j d => exact execCollectiveLaunch_kept j d s (Kept.refl s)
  | collectivePacket p h d inst nf ofs data => exact execCollectivePacket_kept p h d inst nf ofs data s (Kept.refl s)
  | collectiveComplete j d => exact execCollectiveComplete_kept j d s (Kept.refl s)
  | collectiveTimeout j d => exact execCollectiveTimeout_kept j d s (Kept.refl s)
  | glDevIdWrite val => exact execGlDevIdWrite_kept val s (Kept.refl s)
  | glTopoWrite val => exact execGlTopoWrite_kept val s (Kept.refl s)
  | configRequest req => exact execConfigRequest_kept req s (Kept.refl s)
  | windowRead off n => exact execWindowRead_kept off n s (Kept.refl s)
  | windowWrite off data => exact execWindowWrite_kept off data s (Kept.refl s)
  | hifWinWrite val => exact execHifWinWrite_kept val s (Kept.refl s)
  | bar2Resize log2 => exact execBar2Resize_kept log2 s (Kept.refl s)
  | doorbellTail q val => exact execDoorbellTail_kept q val s (Kept.refl s)
  | doorbellCplHead q val => exact execDoorbellCplHead_kept q val s (Kept.refl s)
  | doorbellFrHead q val => exact execDoorbellFrHead_kept q val s (Kept.refl s)
  | ringEntryFetch q ok => exact execRingEntryFetch_kept q ok s (Kept.refl s)
  | cmdNop q => exact execCmdNop_kept q s (Kept.refl s)
  | regWrite q => exact execRegWrite_kept q s (Kept.refl s)
  | regRead q => exact execRegRead_kept q s (Kept.refl s)
  | copyToDev q hostOk => exact execCopyToDev_kept q hostOk s (Kept.refl s)
  | copyFromDev q => exact execCopyFromDev_kept q s (Kept.refl s)
  | flagAdd q => exact execFlagAdd_kept q s (Kept.refl s)
  | jobCmd => exact execJobCmd_kept s (Kept.refl s)
  | pageOp => exact execPageOp_kept s (Kept.refl s)
  | commandComplete q idx => exact execCommandComplete_kept q idx s (Kept.refl s)
  | ringCfgEnWrite q val => exact execRingCfgEnWrite_kept q val s (Kept.refl s)
  | msixSend v => exact execMsixSend_kept v s (Kept.refl s)
  | flr => exact execFlr_kept s (Kept.refl s)
  | d3hotEntry => exact execD3hotEntry_kept s (Kept.refl s)
  | doeObject mb obj => exact execDoeObject_kept mb obj s (Kept.refl s)
  | ideCheckFail stream => exact execIdeCheckFail_kept stream s (Kept.refl s)
  | capLoop pkg ring => exact execCapLoop_kept pkg ring s (Kept.refl s)
  | throttleWindow g cx => exact execThrottleWindow_kept g cx s (Kept.refl s)
  | vfChange r vf => exact execVfChange_kept r vf s (Kept.refl s)
  | avsCompletion r mv => exact execAvsCompletion_kept r mv s (Kept.refl s)
  | avsFailure r => exact execAvsFailure_kept r s (Kept.refl s)
  | throttleInAssert => exact execThrottleInAssert_kept s (Kept.refl s)
  | throttleInDeassert => exact execThrottleInDeassert_kept s (Kept.refl s)
  | pinGlitch pin => exact execPinGlitch_kept pin s (Kept.refl s)
  | sensorUpdate n temp => exact execSensorUpdate_kept n temp s (Kept.refl s)
  | hbmHot st temp => exact execHbmHot_kept st temp s (Kept.refl s)
  | thermtrip sensor => exact execThermtrip_kept sensor s (Kept.refl s)
  | refClockSwitch => exact execRefClockSwitch_kept s (Kept.refl s)
  | refClocksBad => exact execRefClocksBad_kept s (Kept.refl s)
  | clockLockLoss island => exact execClockLockLoss_kept island s (Kept.refl s)
  | supplyFault rail => exact execSupplyFault_kept rail s (Kept.refl s)
  | powerOnReset => exact execPowerOnReset_kept s (Kept.refl s)
  | perstAssert => exact execPerstAssert_kept s (Kept.refl s)
  | perstDeassert straps => exact execPerstDeassert_kept straps s (Kept.refl s)
  | devReset val straps => exact execDevReset_kept val straps s (Kept.refl s)
  | bootStepComplete res => exact execBootStepComplete_kept res s (Kept.refl s)
  | bootStepTimeout => exact execBootStepTimeout_kept s (Kept.refl s)
  | hsCmd val => exact execHsCmd_kept val s (Kept.refl s)
  | hsPhaseDone => exact execHsPhaseDone_kept s (Kept.refl s)
  | hsArrivalAbandon => exact execHsArrivalAbandon_kept s (Kept.refl s)
  | hsWindowExit => exact execHsWindowExit_kept s (Kept.refl s)
  | hsResult sig => exact execHsResult_kept sig s (Kept.refl s)
  | analogueCheckDone value => exact execAnalogueCheckDone_kept value s (Kept.refl s)
  | getNonce => exact execGetNonce_kept s (Kept.refl s)
  | getIdentity => exact execGetIdentity_kept s (Kept.refl s)
  | verify => exact execVerify_kept s (Kept.refl s)
  | svnCommit arg => exact execSvnCommit_kept arg s (Kept.refl s)
  | revoke => exact execRevoke_kept s (Kept.refl s)
  | debugOpen => exact execDebugOpen_kept s (Kept.refl s)
  | getVersion tr => exact execGetVersion_kept tr s (Kept.refl s)
  | getCapabilities tr => exact execGetCapabilities_kept tr s (Kept.refl s)
  | negotiateAlgorithms tr supported => exact execNegotiateAlgorithms_kept tr supported s (Kept.refl s)
  | getDigests tr => exact execGetDigests_kept tr s (Kept.refl s)
  | getCertificate tr slot off len => exact execGetCertificate_kept tr slot off len s (Kept.refl s)
  | challenge tr slot nonce => exact execChallenge_kept tr slot nonce s (Kept.refl s)
  | getMeasurements tr idx signed nonce => exact execGetMeasurements_kept tr idx signed nonce s (Kept.refl s)
  | keyExchange tr => exact execKeyExchange_kept tr s (Kept.refl s)
  | finish ses ok => exact execFinish_kept ses ok s (Kept.refl s)
  | heartbeatSpdm ses => exact execHeartbeatSpdm_kept ses s (Kept.refl s)
  | keyUpdate ses => exact execKeyUpdate_kept ses s (Kept.refl s)
  | endSession ses => exact execEndSession_kept ses s (Kept.refl s)
  | keyProg ses stream keySet key => exact execKeyProg_kept ses stream keySet key s (Kept.refl s)
  | kSetGo ses stream keySet => exact execKSetGo_kept ses stream keySet s (Kept.refl s)
  | kSetStop ses stream keySet => exact execKSetStop_kept ses stream keySet s (Kept.refl s)
  | glKeyProg ses port dir slot keyId key => exact execGlKeyProg_kept ses port dir slot keyId key s (Kept.refl s)
  | glKeyGo ses port => exact execGlKeyGo_kept ses port s (Kept.refl s)
  | setEndpointId eid => exact execSetEndpointId_kept eid s (Kept.refl s)
  | i3cAddressAssign addr => exact execI3cAddressAssign_kept addr s (Kept.refl s)
  | rstdaa => exact execRstdaa_kept s (Kept.refl s)
  | getTid => exact execGetTid_kept s (Kept.refl s)
  | setTid tid => exact execSetTid_kept tid s (Kept.refl s)
  | getPldmVersion ty => exact execGetPldmVersion_kept ty s (Kept.refl s)
  | getPldmTypes => exact execGetPldmTypes_kept s (Kept.refl s)
  | getPldmCommands ty => exact execGetPldmCommands_kept ty s (Kept.refl s)
  | getPdrRepositoryInfo => exact execGetPdrRepositoryInfo_kept s (Kept.refl s)
  | getPdr rec => exact execGetPdr_kept rec s (Kept.refl s)
  | getSensorReading sensor => exact execGetSensorReading_kept sensor s (Kept.refl s)
  | getStateSensorReadings sensor => exact execGetStateSensorReadings_kept sensor s (Kept.refl s)
  | setEventReceiver addr => exact execSetEventReceiver_kept addr s (Kept.refl s)
  | pollForPlatformEvent => exact execPollForPlatformEvent_kept s (Kept.refl s)
  | platformEventMessage => exact execPlatformEventMessage_kept s (Kept.refl s)
  | queryDeviceIdentifiers => exact execQueryDeviceIdentifiers_kept s (Kept.refl s)
  | getFirmwareParameters => exact execGetFirmwareParameters_kept s (Kept.refl s)
  | requestUpdate => exact execRequestUpdate_kept s (Kept.refl s)
  | passComponentTable comps => exact execPassComponentTable_kept comps s (Kept.refl s)
  | updateComponent comp => exact execUpdateComponent_kept comp s (Kept.refl s)
  | requestFirmwareData off data => exact execRequestFirmwareData_kept off data s (Kept.refl s)
  | transferComplete => exact execTransferComplete_kept s (Kept.refl s)
  | verifyComplete => exact execVerifyComplete_kept s (Kept.refl s)
  | applyComplete => exact execApplyComplete_kept s (Kept.refl s)
  | activateFirmware => exact execActivateFirmware_kept s (Kept.refl s)
  | getStatus => exact execGetStatus_kept s (Kept.refl s)
  | cancelUpdateComponent => exact execCancelUpdateComponent_kept s (Kept.refl s)
  | cancelUpdate => exact execCancelUpdate_kept s (Kept.refl s)
  | trcPop q n => exact execTrcPop_kept q n s (Kept.refl s)
  | pcieLinkL0 rate width => exact execPcieLinkL0_kept rate width s (Kept.refl s)
  | ddr5Refresh ch => exact execDdr5Refresh_kept ch s (Kept.refl s)
  | tref10mRegained cycles => exact execTref10mRegained_kept cycles s (Kept.refl s)
  | referenceMeasurement badPcie badBref badGl => exact execReferenceMeasurement_kept badPcie badBref badGl s (Kept.refl s)
  | jtagInstruction ins => exact execJtagInstruction_kept ins s (Kept.refl s)

/-- The queue is no part of the canonical forms. -/
theorem State.Canonical.withPending {s : State} (h : s.Canonical) (l : List Instr) :
    ({ s with pending := l } : State).Canonical := h

/-- On an empty queue the block idles (log 1). -/
theorem step_of_pending_nil {s : State} (h : s.pending = []) : step s = .next s := by
  simp only [step, h]

/-- A step runs the front command on the queue's rest. -/
theorem step_of_pending_cons {s : State} {c : Instr} {rest : List Instr} (h : s.pending = c :: rest) :
    step s = exec c { s with pending := rest } := by
  simp only [step, h]

end Sys2Proof.Machine

namespace Sys2Proof.Proofs
open Sys2Proof.Machine

/-- Settles O1, by the two branches of the step. -/
theorem stepRunsTheFrontCommand : Obligations.StepRunsTheFrontCommand :=
  ⟨fun _ _ _ h => step_of_pending_cons h, fun _ h => step_of_pending_nil h⟩

/-- Settles O3: an idle step changes nothing, and another is one command on the queue's rest, which every command keeps. -/
theorem stepKeepsCanonicalForm : Obligations.StepKeepsCanonicalForm := by
  unfold Obligations.StepKeepsCanonicalForm
  intro s t hcanon hstep
  cases hp : s.pending with
  | nil =>
    rw [step_of_pending_nil hp] at hstep
    cases hstep
    exact ⟨hcanon, hp⟩
  | cons c rest =>
    rw [step_of_pending_cons hp] at hstep
    obtain ⟨hpending, hkeeps⟩ := (exec_goes c _).get t hstep
    exact ⟨hkeeps (hcanon.withPending rest), hpending⟩

/-- Settles O4: nothing is listed in any memory and no command waits. -/
theorem resetIsCanonical : Obligations.ResetIsCanonical := by
  unfold Obligations.ResetIsCanonical
  exact ⟨⟨rfl, rfl, rfl, rfl, rfl⟩, rfl⟩

end Sys2Proof.Proofs
end

section
/-! Which commands are answered: those whose operands name units that exist (log 18). -/

namespace Sys2Proof.Machine

/-- An answer guarded by a condition is guarded by any that is equal to it. -/
theorem exists_inUnits_of_eq {a : Ans} {ok ok' : Bool} (h : ∃ t, a = inUnits ok (.next t)) (he : ok = ok') :
    ∃ t, a = inUnits ok' (.next t) :=
  he ▸ h

/-- Every command answers a next state where its operands are well formed and fit, and the fault `noSuchUnit` otherwise.
Only the commands that `Instr.fits` names look at the state for that. -/
theorem exec_eq_inUnits (c : Instr) (s : State) : ∃ t, exec c s = inUnits (c.wf && c.fits s) (.next t) := by
  cases c with
  | btRegionDone g cx bad => exact ⟨_, rfl⟩
  | zeroFill dfn => exact ⟨_, rfl⟩
  | patrolScrub dfn => exact ⟨_, rfl⟩
  | windowRead off n => exact ⟨_, rfl⟩
  | windowWrite off data => exact ⟨_, rfl⟩
  | memCorrectedError dfn dev off =>
    exact exists_inUnits_of_eq (ok := s.frameExists dfn && off < 2 ^ 21) ⟨_, rfl⟩ (Bool.and_comm _ _)
  | memUncorrectable dfn dev off job op =>
    refine exists_inUnits_of_eq (ok := s.frameExists dfn && off < 2 ^ 21 && job.all (· < 8) && opRefOk op) ⟨_, rfl⟩ ?_
    simp only [Instr.wf, Instr.fits]
    ac_rfl
  | ddrAlertRetry ch cmd dfn dev off job op =>
    refine exists_inUnits_of_eq (ok := ch < 8 && s.frameExists dfn && isDdr dfn && ddrChannel dfn = ch && off < 2 ^ 21 &&
      job.all (· < 8) && opRefOk op) ⟨_, rfl⟩ ?_
    simp only [Instr.wf, Instr.fits]
    ac_rfl
  | _ => exact exists_inUnits_of_eq ⟨_, rfl⟩ (Bool.and_true _).symm

end Sys2Proof.Machine

namespace Sys2Proof.Proofs
open Sys2Proof.Machine

/-- Settles O2: every command's answer stands under the condition that its operands are well formed and fit. -/
theorem wellFormedCommandsComplete : Obligations.WellFormedCommandsComplete := by
  unfold Obligations.WellFormedCommandsComplete
  intro c s
  obtain ⟨t, ht⟩ := exec_eq_inUnits c s
  refine ⟨fun hwf hfits => ⟨t, ?_⟩, fun hwf => ?_⟩
  · rw [ht, hwf, hfits, Bool.and_self, inUnits_true]
  · rw [ht, hwf, Bool.false_and, inUnits_false]

end Sys2Proof.Proofs
end

section
/-! What the issue of each engine instruction records beside its queue, and with it that each enters its queue (R50, R62, R63). -/

namespace Sys2Proof.Machine

/-- What the issue of an instruction of this shape records leaves the context's `CTX_PC` and `QDEPTH`, and of the new entry
its opcode, its word, its address and that it has begun nowhere. -/
def Shape.Notes (sh : Shape) (g c : Nat) : Prop :=
  ∀ s q, Noted g c s (sh.effect s q).1 ∧ (sh.effect s q).2.opc = q.opc ∧ (sh.effect s q).2.word = q.word ∧
    (sh.effect s q).2.pc = q.pc ∧ (sh.effect s q).2.begun = q.begun

/-- An instruction whose shape notes no more than that enters its queue once it passes its checks. -/
theorem Shape.Notes.enqueues {i : Instr} {s : State} {g c : Nat} {w : Body} {sh : Shape} (h : sh.Notes g c)
    (hissue : s.Issuable g c) (hi : exec i s = s.issueEngine g c w sh)
    (hdepth : s.get (qdepthFld g c (engineOf sh.opc)) < 16) (hcode : s.engineCode g c w sh = 0) : Enqueues i s g c w sh :=
  State.enqueues hissue hi hcode hdepth (h s)

/-- A shape whose issue records nothing. -/
theorem Shape.notes_of_effect_id {sh : Shape} (g c : Nat) (h : ∀ s q, sh.effect s q = (s, q)) : sh.Notes g c := by
  intro s q
  rw [h]
  exact ⟨Noted.refl g c s, rfl, rfl, rfl, rfl⟩

/-! ## The registers that issue records in -/

theorem Noted.put_wvalid {g c : Nat} {s t : State} (h : Noted g c s t) (hc : c < 2) (k v : Nat) :
    Noted g c s (t.put (wvalidFld g k) v) := by
  unfold wvalidFld
  split <;> exact h.put hc _ v (Nat.le_refl _)

theorem Noted.put_class {g c : Nat} {s t : State} (h : Noted g c s t) (hc : c < 2) (k v : Nat) :
    Noted g c s (t.put (classFld g k) v) := by
  unfold classFld
  split <;> exact h.put hc _ v (Nat.le_refl _)

theorem Noted.noteLoad {g c : Nat} {s t : State} (h : Noted g c s t) (hc : c < 2) (k cls : Nat) :
    Noted g c s (t.noteLoad g k cls) :=
  (h.put_wvalid hc k 1).put_class hc k cls

/-- The registers of the Parade and of the special functions stand above the contexts' blocks of their troupe. -/
theorem Noted.put_parade {g c : Nat} {s t : State} (h : Noted g c s t) (hc : c < 2) {f : Fld} {i : Nat} (v : Nat)
    (hf : f.off = 0x1090000 + g * 0x200000 + i * 0x8) : Noted g c s (t.put f v) :=
  h.put hc f v (by omega)

theorem Noted.put_sfn {g c : Nat} {s t : State} (h : Noted g c s t) (hc : c < 2) {f : Fld} (v : Nat)
    (hf : f.off = 0x10A0000 + g * 0x200000) : Noted g c s (t.put f v) :=
  h.put hc f v (by omega)

theorem Noted.noteSlot {g c : Nat} {s t : State} (h : Noted g c s t) (hc : c < 2) (n : Nat) :
    Noted g c s (t.noteSlot g c n) := by
  unfold State.noteSlot
  split
  · exact h.put_sfn hc 1 rfl
  · exact h

theorem loadedFld_off (g bank : Nat) : (loadedFld g bank).off = 0x10A0000 + g * 0x200000 := by
  unfold loadedFld
  split <;> rfl

theorem sfmOpenFld_off (g c : Nat) : (sfmOpenFld g c).off = 0x10A0000 + g * 0x200000 := by
  unfold sfmOpenFld
  split <;> rfl

/-- The stamped bank is a field of the entry, and `HISLOT` one of `RM_SFN`. -/
theorem stampSlot_notes {g c : Nat} (hc : c < 2) (slot : Nat) (s : State) (q : QEntry) :
    Noted g c s (s.stampSlot g c slot q).1 ∧ (s.stampSlot g c slot q).2.opc = q.opc ∧
      (s.stampSlot g c slot q).2.word = q.word ∧ (s.stampSlot g c slot q).2.pc = q.pc ∧
      (s.stampSlot g c slot q).2.begun = q.begun := by
  unfold State.stampSlot
  split
  · exact ⟨Noted.refl g c s, rfl, rfl, rfl, rfl⟩
  · exact ⟨(Noted.refl g c s).noteSlot hc _, rfl, rfl, rfl, rfl⟩

/-! ## The shapes that record something -/

theorem mwlShape_notes {g c : Nat} (hc : c < 2) : (mwlShape g c).Notes g c :=
  fun s _ => ⟨(Noted.refl g c s).noteLoad hc c _, rfl, rfl, rfl, rfl⟩

/-- `mma` and `mmx` record a load where they load (R138). -/
theorem mmaShape_notes {g c : Nat} (hc : c < 2) (opc : Nat) (w : Body) : (mmaShape opc g c w).Notes g c := by
  intro s q
  refine ⟨?_, rfl, rfl, rfl, rfl⟩
  show Noted g c s (if mWL q.word then s.noteLoad g c (s.qClass g c q 1) else s)
  split
  · exact (Noted.refl g c s).noteLoad hc c _
  · exact Noted.refl g c s

/-- An `asplit` to the mode already planned has no effect; another makes both contexts' weights unknown (R115, R138). -/
theorem asplitShape_notes {g c : Nat} (hc : c < 2) : (asplitShape g).Notes g c := by
  intro s q
  simp only [asplitShape]
  split
  · exact ⟨Noted.refl g c s, rfl, rfl, rfl, rfl⟩
  · exact ⟨((Noted.refl g c s).put_wvalid hc 0 0).put_wvalid hc 1 0, rfl, rfl, rfl, rfl⟩

/-- Of the Stream instructions `sx.sfn` alone names a slot. -/
theorem sxShape_notes {g c : Nat} (hc : c < 2) (opc : Nat) (w : Body) : (sxShape opc g c w).Notes g c := by
  intro s q
  simp only [sxShape]
  split
  · exact stampSlot_notes hc _ s q
  · exact ⟨Noted.refl g c s, rfl, rfl, rfl, rfl⟩

theorem updShape_notes (n g c : Nat) (w : Body) : (updShape n g c w).Notes g c :=
  fun s _ => ⟨Noted.refl g c s, rfl, rfl, rfl, rfl⟩

theorem lscanShape_notes {g c : Nat} (hc : c < 2) (w : Body) : (lscanShape g c w).Notes g c :=
  fun s _ => ⟨((Noted.refl g c s).put_parade hc (i := c) _ rfl).put_parade hc (i := c) _ rfl, rfl, rfl, rfl, rfl⟩

theorem lsoftmaxShape_notes {g c : Nat} (hc : c < 2) (w : Body) : (lsoftmaxShape g c w).Notes g c := by
  intro s q
  refine ⟨?_, rfl, rfl, rfl, rfl⟩
  show Noted g c s (if sfmPart w = 1 then s.put (sfmOpenFld g c) 1 else s)
  split
  · exact (Noted.refl g c s).put_sfn hc 1 (sfmOpenFld_off g c)
  · exact Noted.refl g c s

theorem sfnShape_notes {g c : Nat} (hc : c < 2) (w : Body) : (sfnShape g c w).Notes g c :=
  fun s q => stampSlot_notes hc _ s q

theorem tloadShape_notes {g c : Nat} (hc : c < 2) (w : Body) : (tloadShape g c w).Notes g c :=
  fun s _ => ⟨((Noted.refl g c s).put_sfn hc _ (loadedFld_off g _)).noteSlot hc _, rfl, rfl, rfl, rfl⟩

theorem tswapShape_notes {g c : Nat} (hc : c < 2) (w : Body) : (tswapShape g c w).Notes g c :=
  fun s _ => ⟨((Noted.refl g c s).put_sfn hc _ rfl).noteSlot hc _, rfl, rfl, rfl, rfl⟩

end Sys2Proof.Machine

namespace Sys2Proof.Proofs
open Sys2Proof.Machine

/-- Settles O8: the Juggler's instructions and `accp`, `accz` and `accd` record nothing at issue, the others fields of
`RM_ARR`. -/
theorem jugglerAndArrayInstructionsEnqueue : Obligations.JugglerAndArrayInstructionsEnqueue := by
  unfold Obligations.JugglerAndArrayInstructionsEnqueue
  refine ⟨fun g c w s h hdepth => ?_, fun g c w s h hdepth => ?_⟩
  · have plain {sh : Shape} (hid : ∀ s q, sh.effect s q = (s, q)) := Shape.notes_of_effect_id g c hid
    exact ⟨(plain fun _ _ => rfl).enqueues h rfl hdepth, (plain fun _ _ => rfl).enqueues h rfl hdepth,
      (plain fun _ _ => rfl).enqueues h rfl hdepth, (plain fun _ _ => rfl).enqueues h rfl hdepth,
      (plain fun _ _ => rfl).enqueues h rfl hdepth⟩
  · have plain {sh : Shape} (hid : ∀ s q, sh.effect s q = (s, q)) := Shape.notes_of_effect_id g c hid
    obtain ⟨-, hc, -, -⟩ := id h
    exact ⟨(mwlShape_notes hc).enqueues h rfl hdepth, (mmaShape_notes hc _ w).enqueues h rfl hdepth,
      (mmaShape_notes hc _ w).enqueues h rfl hdepth, (plain fun _ _ => rfl).enqueues h rfl hdepth,
      (plain fun _ _ => rfl).enqueues h rfl hdepth, (plain fun _ _ => rfl).enqueues h rfl hdepth,
      (asplitShape_notes hc).enqueues h rfl hdepth⟩

/-- Settles O9: issue of a Stream instruction records at most the bank of the slot it names. -/
theorem streamInstructionsEnqueue : Obligations.StreamInstructionsEnqueue := by
  unfold Obligations.StreamInstructionsEnqueue
  intro g c w s h hdepth
  obtain ⟨-, hc, -, -⟩ := id h
  have sx {i : Instr} (opc : Nat) (hi : exec i s = s.issueEngine g c w (sxShape opc g c w))
      (hopc : s.get (qdepthFld g c (engineOf opc)) < 16) := (sxShape_notes hc opc w).enqueues h hi hopc
  exact ⟨sx 0x40 rfl hdepth, sx 0x41 rfl hdepth, sx 0x42 rfl hdepth, sx 0x43 rfl hdepth, sx 0x44 rfl hdepth,
    sx 0x45 rfl hdepth, sx 0x46 rfl hdepth, sx 0x47 rfl hdepth, sx 0x48 rfl hdepth, sx 0x49 rfl hdepth,
    sx 0x4A rfl hdepth, sx 0x4B rfl hdepth, (updShape_notes _ g c w).enqueues h rfl hdepth⟩

/-- Settles O10: issue of a Lane instruction records fields of `RM_PARADE` and `RM_SFN`, or nothing. -/
theorem laneInstructionsEnqueue : Obligations.LaneInstructionsEnqueue := by
  unfold Obligations.LaneInstructionsEnqueue
  refine ⟨fun g c w s h hdepth => ?_, fun g c w s h hdepth => ?_⟩
  · have plain {sh : Shape} (hid : ∀ s q, sh.effect s q = (s, q)) := Shape.notes_of_effect_id g c hid
    obtain ⟨-, hc, -, -⟩ := id h
    exact ⟨(plain fun _ _ => rfl).enqueues h rfl hdepth, (plain fun _ _ => rfl).enqueues h rfl hdepth,
      (plain fun _ _ => rfl).enqueues h rfl hdepth, (plain fun _ _ => rfl).enqueues h rfl hdepth,
      (plain fun _ _ => rfl).enqueues h rfl hdepth, (plain fun _ _ => rfl).enqueues h rfl hdepth,
      (plain fun _ _ => rfl).enqueues h rfl hdepth, (plain fun _ _ => rfl).enqueues h rfl hdepth,
      (plain fun _ _ => rfl).enqueues h rfl hdepth, (plain fun _ _ => rfl).enqueues h rfl hdepth,
      (lscanShape_notes hc w).enqueues h rfl hdepth⟩
  · obtain ⟨-, hc, -, -⟩ := id h
    exact ⟨(Shape.notes_of_effect_id g c fun _ _ => rfl).enqueues h rfl hdepth, (lsoftmaxShape_notes hc w).enqueues h rfl hdepth,
      (sfnShape_notes hc w).enqueues h rfl hdepth, (tloadShape_notes hc w).enqueues h rfl hdepth,
      (tswapShape_notes hc w).enqueues h rfl hdepth⟩

end Sys2Proof.Proofs
end

section
/-! The control instructions: what each answers where its checks pass (R68, R69, R76, R97 to R103), and that a failed check,
of a control or of an engine instruction, rejects it (R61, R88). -/

namespace Sys2Proof.Machine

/-! ## Checks -/

@[simp] theorem firstCode_nil : firstCode [] = 0 := rfl

@[simp] theorem firstCode_cons (ok : Bool) (code : Nat) (l : List (Bool × Nat)) :
    firstCode ((ok, code) :: l) = if ok then firstCode l else code := rfl

/-- A control instruction that fails a check. -/
theorem State.issueControl_rejected {s : State} {g c code : Nat} (h : s.Issuable g c) {checks : State → List (Bool × Nat)}
    (hcode : firstCode (checks s) = code) (hne : code ≠ 0) (run : State → State) :
    s.issueControl g c checks run = .next (s.rejectInstr g c code) := by
  unfold State.issueControl
  rw [State.issue_issuable h]
  simp [hcode, hne]

/-- The body of a new loop lies within the innermost one where there is one (R97). -/
def loopFits (stop : Nat) (ls : List LoopLevel) : Bool :=
  match ls with
  | l :: _ => decide (stop ≤ l.stop)
  | [] => true

theorem loopFits_iff (stop : Nat) (ls : List LoopLevel) : loopFits stop ls = true ↔ ∀ l ∈ ls.head?, stop ≤ l.stop := by
  cases ls <;> simp [loopFits]

theorem loopFits_eq_false_iff (stop : Nat) (ls : List LoopLevel) :
    loopFits stop ls = false ↔ ∃ l ∈ ls.head?, l.stop < stop := by
  cases ls <;> simp [loopFits]

/-- The bytes of scratchpad that a job's cores have: half of them where it doubles (R421). -/
def State.padBytes (s : State) (j : Nat) : Nat := if s.flag (Reg.SN_CFG.DOUBLE j) then 2 ^ 21 else 2 ^ 22

/-! ## The checks of each instruction, each with its code, in their order -/

/-- Of `loop`: its fields, and a level and a body that fit (R97). -/
def loopChecks (g c : Nat) (w : Body) (s : State) : List (Bool × Nat) :=
  [(onlyBits w.toNat [(92, 28)] && fbits w 92 12 ≠ 0, 0x06),
    ((s.ctxOf g c).loops.length < 4 && loopFits (s.pc g c + 16 + 16 * fbits w 92 12) (s.ctxOf g c).loops, 0x04)]

/-- Of `br` (R98). -/
def brChecks (w : Body) : List (Bool × Nat) :=
  [(onlyBits w.toNat [(93, 27), (0, 32)] && fbits w 109 9 < 320 &&
    (fbits w 118 2 ≠ 0 || (fbits w 109 9 = 0 && fbits w 93 16 = 0)), 0x06)]

/-- Of `fset` (R68). -/
def fsetChecks (w : Body) : List (Bool × Nat) := [(onlyBits w.toNat [(95, 25)] && fbits w 111 9 < 320, 0x06)]

/-- Of `fwait` (R69). -/
def fwaitChecks (w : Body) : List (Bool × Nat) :=
  [(onlyBits w.toNat [(89, 31)] && fbits w 111 9 < 320 && fbits w 95 16 ≠ 0 && tmoOk (fbits w 89 6), 0x06)]

/-- Of `qwait` (R65). -/
def qwaitChecks (w : Body) : List (Bool × Nat) := [(onlyBits w.toNat [(113, 7)] && fbits w 113 5 ≤ 16, 0x06)]

/-- Of `beat`: its `MODE`, and a job with a beat (R100). -/
def beatChecks (g c : Nat) (w : Body) (s : State) : List (Bool × Nat) :=
  [(onlyBits w.toNat [(118, 2)] && fbits w 118 2 ≤ 1, 0x06), (s.hasBeat (s.jobOf g c), 0x04)]

/-- Of `curtain`: its loader records, within the scratchpad (R101). -/
def curtainChecks (g c : Nat) (w : Body) (s : State) : List (Bool × Nat) :=
  [(onlyBits w.toNat [(94, 26)] && fbits w 116 4 ≤ 8 && fbits w 94 22 % 8 = 0 &&
    fbits w 94 22 + 8 * fbits w 116 4 ≤ s.padBytes (s.jobOf g c), 0x06)]

/-- Of `tstamp` (R102). -/
def tstampChecks (w : Body) : List (Bool × Nat) := [(onlyBits w.toNat [(64, 56)], 0x06)]

/-- Of `sched`: its fields, and a job with a schedule (R103). -/
def schedChecks (g c : Nat) (w : Body) (s : State) : List (Bool × Nat) :=
  [(onlyBits w.toNat [(100, 20)] && fbits w 114 6 ≤ 61 && fbits w 106 8 ≠ 0 && tmoOk (fbits w 100 6), 0x06),
    (s.get (Reg.SCHED_CFG.LEN (s.jobOf g c)) ≠ 0, 0x04)]

/-- Of `halt` (R76). -/
def haltChecks (w : Body) : List (Bool × Nat) := [(w = 0, 0x06)]

/-! ## Each instruction is issue with its checks and its effect -/

theorem exec_loop (g c : Nat) (w : Body) (s : State) :
    exec (.loop g c w) s = s.issueControl g c (loopChecks g c w) (fun t => (t.setCtx g c { t.ctxOf g c with
      loops := ⟨t.pc g c + 16, t.pc g c + 16 + 16 * fbits w 92 12, fbits w 104 16 + 1, 0⟩ :: (t.ctxOf g c).loops }).setPc
      g c (t.pc g c + 16)) := rfl

theorem exec_br (g c : Nat) (w : Body) (s : State) :
    exec (.br g c w) s = s.issueControl g c (fun _ => brChecks w) (fun t =>
      if brTaken (fbits w 118 2) (t.flagGet g c (fbits w 109 9)) (fbits w 93 16) then (t.setCtx g c { t.ctxOf g c with
        loops := leaveLoops (unsigned 52 ((t.pc g c : Int) + 16 * signed 32 (fbits w 0 32))) (t.ctxOf g c).loops }).setPc
        g c (unsigned 52 ((t.pc g c : Int) + 16 * signed 32 (fbits w 0 32)))
      else t.advance g c) := rfl

theorem exec_fset (g c : Nat) (w : Body) (s : State) : exec (.fset g c w) s = s.issueControl g c (fun _ => fsetChecks w)
    (fun t => (t.advance g c).signalFlag g c (fbits w 111 9) (fbits w 95 16)) := rfl

theorem exec_qwait (g c : Nat) (w : Body) (s : State) : exec (.qwait g c w) s = s.issueControl g c (fun _ => qwaitChecks w)
    (fun t => if t.get (qdepthFld g c (fbits w 118 2)) ≤ fbits w 113 5 then t.advance g c
      else t.blockIn g c (.qwait (fbits w 118 2) (fbits w 113 5)) 2) := rfl

theorem exec_curtain (g c : Nat) (w : Body) (s : State) : exec (.curtain g c w) s = s.issueControl g c (curtainChecks g c w)
    (fun t => if t.curtainStops (t.jobOf g c) then (t.setCtx g c { t.ctxOf g c with
        curtain := some (fbits w 116 4, fbits w 94 22) }).noteCurtain g c
      else t.advance g c) := rfl

theorem exec_tstamp (g c : Nat) (w : Body) (s : State) : exec (.tstamp g c w) s = s.issueControl g c (fun _ => tstampChecks w)
    (fun t => (t.trace (rmIsland g) (0x8000 + fbits w 112 8) (t.ctxJob g c)
      (2 ^ 48 * ((t.loopIndex g c).getD 0 % 2 ^ 16) + fbits w 64 48)).advance g c) := rfl

theorem exec_halt (g c : Nat) (w : Body) (s : State) : exec (.halt g c w) s = s.issueControl g c (fun _ => haltChecks w)
    (fun t => (((t.closeTokens g c).setCtx g c { (t.closeTokens g c).ctxOf g c with
      halted := true, arriveLeft := some ((t.closeTokens g c).queued g c) }).put (Reg.CTX_STATUS.STATE g c) 3).advance
      g c) := rfl

/-- What `fwait` does once its checks pass (R69, R70). -/
def State.fwaitRun (s : State) (g c f n k : Nat) : State :=
  if n ≤ s.flagGet g c f && ((s.waiters g c f).filter (fun o => o.need ≤ s.flagGet g c f)).isEmpty then
    (s.flagPut g c f (s.flagGet g c f - n)).advance g c
  else
    let u := s.blockIn g c (.fwait f n k) (if s.isBarrier (s.jobOf g c) f then 5 else 1)
    (u.put (Reg.CTX_WAIT.FLAG g c) f).put (Reg.CTX_WAIT.SINCE g c) (u.stamp (rmIsland g))

theorem exec_fwait (g c : Nat) (w : Body) (s : State) : exec (.fwait g c w) s = s.issueControl g c (fun _ => fwaitChecks w)
    (fun t => t.fwaitRun g c (fbits w 111 9) (fbits w 95 16) (fbits w 89 6)) := rfl

/-- The count suffices and no other wait on the flag is served first. -/
theorem State.fwaitRun_served {s : State} {g c f n : Nat} (hcount : n ≤ s.flagGet g c f)
    (hfirst : ∀ o ∈ s.waiters g c f, s.flagGet g c f < o.need) (k : Nat) :
    s.fwaitRun g c f n k = (s.flagPut g c f (s.flagGet g c f - n)).advance g c := by
  have hnone : (s.waiters g c f).filter (fun o => o.need ≤ s.flagGet g c f) = [] := by
    simpa [List.filter_eq_nil_iff] using hfirst
  simp [State.fwaitRun, hcount, hnone]

/-- The count does not suffice, or another wait comes first. -/
theorem State.fwaitRun_blocked {s u : State} {g c f n k : Nat}
    (hwaits : s.flagGet g c f < n ∨ ∃ o ∈ s.waiters g c f, o.need ≤ s.flagGet g c f)
    (hu : u = s.blockIn g c (.fwait f n k) (if s.isBarrier (s.jobOf g c) f = true then 5 else 1)) :
    s.fwaitRun g c f n k = (u.put (Reg.CTX_WAIT.FLAG g c) f).put (Reg.CTX_WAIT.SINCE g c) (u.stamp (rmIsland g)) := by
  subst hu
  unfold State.fwaitRun
  rw [if_neg]
  rcases hwaits with hless | ⟨o, ho, hneed⟩
  · simp [Nat.not_le.mpr hless]
  · simp only [Bool.and_eq_true, List.isEmpty_iff, List.filter_eq_nil_iff, not_and]
    exact fun _ hnone => hnone o ho (by simpa using hneed)

/-- What `beat` does with `MODE` 0: it blocks until the next boundary (R100). -/
def State.beatBlock (s : State) (g c j : Nat) : State :=
  let v := s.setCtx g c { s.ctxOf g c with arriveLeft := some (s.queued g c) }
  (v.blockIn g c (.beat (v.nextBoundary j)) 3).noteCurtain g c

/-- What `beat` does with `MODE` 1: it marks the end of the must-work, unless a mark is pending (R365). -/
def State.beatNote (s : State) (g c : Nat) (pending : Bool) (slot : Nat) : State :=
  let v := s.advance g c
  let v := if pending then v else v.setCtx g c { v.ctxOf g c with mark := some (v.queued g c), markSlot := slot }
  v.testCtx g c

/-- `beat`, of either name (R100). -/
theorem exec_beat {g c : Nat} {w : Body} {i : Instr} (hi : i = .beatWait g c w ∨ i = .beatMark g c w) (s : State) :
    exec i s = s.issueControl g c (beatChecks g c w) (fun t =>
      if fbits w 118 2 = 0 then (t.closeTokens g c).beatBlock g c (t.jobOf g c)
      else (t.closeTokens g c).beatNote g c (t.ctxOf g c).mark.isSome ((t.loopIndex g c).getD 0)) := by
  rcases hi with rfl | rfl <;> rfl

/-- What `sched` does once the context's tokens are closed and the schedule has wrapped (R353). -/
def State.schedRun (s : State) (g c j fb st k : Nat) : State :=
  match s.schedServe g c fb st with
  | some t => (t.advance g c).serveSched j 48
  | none => s.blockIn g c (.sched fb st k) 4

theorem State.schedRun_of_some {s t : State} {g c fb st : Nat} (h : s.schedServe g c fb st = some t) (j k : Nat) :
    s.schedRun g c j fb st k = (t.advance g c).serveSched j 48 := by
  simp only [State.schedRun, h]

theorem State.schedRun_of_none {s : State} {g c fb st : Nat} (h : s.schedServe g c fb st = none) (j k : Nat) :
    s.schedRun g c j fb st k = s.blockIn g c (.sched fb st k) 4 := by
  simp only [State.schedRun, h]

theorem exec_sched (g c : Nat) (w : Body) (s : State) : exec (.sched g c w) s = s.issueControl g c (schedChecks g c w)
    (fun t => ((t.closeTokens g c).schedWrap (t.jobOf g c)).schedRun g c
      (((t.closeTokens g c).schedWrap (t.jobOf g c)).jobOf g c) (fbits w 114 6) (fbits w 106 8) (fbits w 100 6)) := rfl

/-! ## Engine instructions -/

/-- Each engine instruction is issue with its shape. -/
theorem exec_of_mem_engineInstrs {s : State} {g c : Nat} {w : Body} :
    ∀ p ∈ s.engineInstrs g c w, exec p.1 s = s.issueEngine g c w p.2 := by
  simp only [State.engineInstrs, List.forall_mem_cons]
  and_intros
  all_goals first
    | rfl
    | exact fun p hp => absurd hp List.not_mem_nil

end Sys2Proof.Machine

namespace Sys2Proof.Proofs
open Sys2Proof.Machine

/-- Settles O5: the checks pass, so each instruction is its effect. -/
theorem loopAndBranchComplete : Obligations.LoopAndBranchComplete := by
  unfold Obligations.LoopAndBranchComplete
  refine ⟨fun g c w s h hbits hlen hlevels hinside => ?_, fun g c w s h hbits hflag hplain => ?_⟩
  · have hfits := (loopFits_iff _ _).mpr hinside
    rw [exec_loop, State.issueControl_issuable h (by simp [loopChecks, hbits, hlen, hlevels, hfits])]
  · have hchecks : firstCode (brChecks w) = 0 := by
      by_cases hcond : fbits w 118 2 = 0
      · simp [brChecks, hbits, hcond, hplain hcond]
      · simp [brChecks, hbits, hcond, hflag]
    rw [exec_br, State.issueControl_issuable h hchecks]
    refine ⟨fun htaken => ?_, fun htaken => ?_⟩
    · rw [if_pos htaken]
    · rw [htaken, if_neg Bool.false_ne_true]

/-- Settles O6: whether a wait completes or blocks is the branch that its effect takes. -/
theorem flagInstructionsComplete : Obligations.FlagInstructionsComplete := by
  unfold Obligations.FlagInstructionsComplete
  refine ⟨fun g c w s h hbits hflag => ?_, fun g c f n k w s u h hbits hf hn hk hflag hpos htmo hu => ?_,
    fun g c w s h hbits hn => ?_⟩
  · rw [exec_fset, State.issueControl_issuable h (by simp [fsetChecks, hbits, hflag])]
  · subst hf hn hk
    rw [exec_fwait, State.issueControl_issuable h (by simp [fwaitChecks, hbits, hflag, hpos, htmo])]
    exact ⟨fun hcount hfirst => congrArg _ (State.fwaitRun_served hcount hfirst _),
      fun hwaits => congrArg _ (State.fwaitRun_blocked hwaits hu)⟩
  · rw [exec_qwait, State.issueControl_issuable h (by simp [qwaitChecks, hbits, hn])]
    exact ⟨fun hdepth => congrArg _ (if_pos hdepth), fun hdepth => congrArg _ (if_neg (Nat.not_le.mpr hdepth))⟩

/-- Settles O7: the checks of each pass, and its conditions choose the branch of its effect. -/
theorem beatCurtainSchedHaltComplete : Obligations.BeatCurtainSchedHaltComplete := by
  unfold Obligations.BeatCurtainSchedHaltComplete
  refine ⟨fun g c w s u v i h hbeat hi hbits hu hv => ?_, fun g c w s h hbits hcount halign hend => ?_,
    fun g c w s h hbits => ?_, fun g c w s u h hbits hfb hst htmo hlen hu => ?_, fun g c s u h hu => ?_⟩
  · subst hu hv
    have hrun (hmode : fbits w 118 2 ≤ 1) := State.issueControl_issuable h (checks := beatChecks g c w)
      (by simp [beatChecks, hbits, hmode, hbeat])
    refine ⟨fun hmode => ?_, fun hmode hmark => ?_, fun hmode hmark => ?_⟩
    · rw [exec_beat hi, hrun (by omega), if_pos hmode]
      rfl
    · rw [exec_beat hi, hrun (by omega), if_neg (by omega), hmark]
      rfl
    · rw [exec_beat hi, hrun (by omega), if_neg (by omega), hmark]
      rfl
  · rw [exec_curtain, State.issueControl_issuable h
      (by simpa [curtainChecks, State.padBytes, hbits, hcount, halign] using hend)]
    refine ⟨fun hstops => ?_, fun hstops => ?_⟩
    · rw [if_pos hstops]
    · rw [hstops, if_neg Bool.false_ne_true]
  · rw [exec_tstamp, State.issueControl_issuable h (by simp [tstampChecks, hbits])]
  · subst hu
    rw [exec_sched, State.issueControl_issuable h (by simp [schedChecks, hbits, hfb, hst, htmo, hlen])]
    exact ⟨fun t hserve => congrArg _ (State.schedRun_of_some hserve _ _),
      fun hserve => congrArg _ (State.schedRun_of_none hserve _ _)⟩
  · subst hu
    rw [exec_halt, State.issueControl_issuable h (by simp [haltChecks])]

/-- Settles O12: a failed check makes the first code that of the check, with which issue rejects. -/
theorem failedChecksRejectTheInstruction : Obligations.FailedChecksRejectTheInstruction := by
  unfold Obligations.FailedChecksRejectTheInstruction
  refine ⟨fun g c w s h p hp hcode => ?_, fun g c w s h => ?_⟩
  · rw [exec_of_mem_engineInstrs p hp, State.issueEngine_rejected h hcode]
  have hrejects {i : Instr} {checks run} (code : Nat) (hi : exec i s = s.issueControl g c checks run)
      (hcode : firstCode (checks s) = code) (hne : code ≠ 0) : exec i s = .next (s.rejectInstr g c code) :=
    hi.trans (State.issueControl_rejected h hcode hne run)
  refine ⟨fun hbad => ?_, fun hbits hlen hbad => ?_, fun hbad => ?_, fun hbad => ?_, fun hbad => ?_, fun hbad => ?_,
    fun hbad => ?_, fun hbits hmode hbeat => ?_, fun hbad => ?_, fun hbad => ?_, fun hbad => ?_,
    fun hbits hfb hst htmo hlen => ?_, fun hbad => ?_⟩
  · refine hrejects 0x06 (exec_loop g c w s) ?_ (by decide)
    rcases hbad with h | h <;> simp [loopChecks, h]
  · refine hrejects 0x04 (exec_loop g c w s) ?_ (by decide)
    rcases hbad with h | h
    · simp [loopChecks, hbits, hlen, Nat.not_lt.mpr h]
    · simp [loopChecks, hbits, hlen, (loopFits_eq_false_iff _ _).mpr h]
  · refine hrejects 0x06 (exec_br g c w s) ?_ (by decide)
    rcases hbad with h | h | ⟨hcond, h | h⟩
    · simp [brChecks, h]
    · simp [brChecks, Nat.not_lt.mpr h]
    · simp [brChecks, hcond, h]
    · simp [brChecks, hcond, h]
  · refine hrejects 0x06 (exec_fset g c w s) ?_ (by decide)
    rcases hbad with h | h
    · simp [fsetChecks, h]
    · simp [fsetChecks, Nat.not_lt.mpr h]
  · refine hrejects 0x06 (exec_fwait g c w s) ?_ (by decide)
    rcases hbad with h | h | h | h
    · simp [fwaitChecks, h]
    · simp [fwaitChecks, Nat.not_lt.mpr h]
    · simp [fwaitChecks, h]
    · simp [fwaitChecks, h]
  · refine hrejects 0x06 (exec_qwait g c w s) ?_ (by decide)
    rcases hbad with h | h
    · simp [qwaitChecks, h]
    · simp [qwaitChecks, Nat.not_le.mpr h]
  · have hcode : firstCode (beatChecks g c w s) = 0x06 := by
      rcases hbad with h | h
      · simp [beatChecks, h]
      · simp [beatChecks, Nat.not_le.mpr h]
    exact ⟨hrejects 0x06 (exec_beat (.inl rfl) s) hcode (by decide), hrejects 0x06 (exec_beat (.inr rfl) s) hcode (by decide)⟩
  · have hcode : firstCode (beatChecks g c w s) = 0x04 := by simp [beatChecks, hbits, hmode, hbeat]
    exact ⟨hrejects 0x04 (exec_beat (.inl rfl) s) hcode (by decide), hrejects 0x04 (exec_beat (.inr rfl) s) hcode (by decide)⟩
  · refine hrejects 0x06 (exec_curtain g c w s) ?_ (by decide)
    rcases hbad with h | h | h | h
    · simp [curtainChecks, h]
    · simp [curtainChecks, Nat.not_le.mpr h]
    · simp [curtainChecks, h]
    · simp [curtainChecks, Nat.not_le.mpr (show s.padBytes (s.jobOf g c) < _ from h)]
  · exact hrejects 0x06 (exec_tstamp g c w s) (by simp [tstampChecks, hbad]) (by decide)
  · refine hrejects 0x06 (exec_sched g c w s) ?_ (by decide)
    rcases hbad with h | h | h | h
    · simp [schedChecks, h]
    · simp [schedChecks, Nat.not_le.mpr h]
    · simp [schedChecks, h]
    · simp [schedChecks, h]
  · exact hrejects 0x04 (exec_sched g c w s) (by simp [schedChecks, hbits, hfb, hst, htmo, hlen]) (by decide)
  · refine hrejects 0x06 (exec_halt g c w s) ?_ (by decide)
    rw [haltChecks, firstCode_cons, decide_eq_false hbad]
    rfl

end Sys2Proof.Proofs
end

section
/-! The fetch of an instruction whose page is valid and names a frame that the part does not have (R49, R323). -/

namespace Sys2Proof.Machine

/-- A fetch that does not translate fails as the access does. -/
theorem State.issue_of_unreadable {s : State} {g c : Nat} (hg : g < 24) (hc : c < 2) (hmay : s.mayIssue g c = true)
    (hread : s.readAddr (s.jobOf g c) (s.pc g c) = none) (k : State → State) :
    s.issue g c k = .next (s.ctxErr g c (s.accessFail (s.jobOf g c) (s.pc g c) false).1 (s.pc g c)
      (s.accessFail (s.jobOf g c) (s.pc g c) false).2) := by
  simp [State.issue, inUnits, hg, hc, hmay, hread]

end Sys2Proof.Machine

namespace Sys2Proof.Proofs
open Sys2Proof.Machine

/-- Context 0 of troupe 0 runs job 0 at address 0. The job's level-1 table stands at 2 ^ 18, its only entry leads to the table
at 0, and the entry of page 0 there is valid with all bits of `LIVE` set, a frame beyond every fitted memory. -/
def fetchesFromNoFrame : State :=
  (((({ State.reset with mem := [(3, 0xFC), (4, 0xFF), (5, 0xFF), (7, 0x80), (2 ^ 18 + 7, 0x80)] } : State).put
    (Reg.MEM_PT_ROOT.ADDR 0) 1).put (Reg.CTX_CFG.BOUND 0 0) 1).put (Reg.CTX_STATUS.STATE 0 0) 1).put
    (Reg.JOB_STATUS.STATE 0) 2

theorem fetchesFromNoFrame_mayIssue : fetchesFromNoFrame.mayIssue 0 0 = true := by decide +kernel

theorem fetchesFromNoFrame_readAddr :
    fetchesFromNoFrame.readAddr (fetchesFromNoFrame.jobOf 0 0) (fetchesFromNoFrame.pc 0 0) = none := by
  decide +kernel

theorem fetchesFromNoFrame_accessFail :
    fetchesFromNoFrame.accessFail (fetchesFromNoFrame.jobOf 0 0) (fetchesFromNoFrame.pc 0 0) false = (0x06, 0) := by
  decide +kernel

/-- The code of an error of the context is what the job's halt record then holds. -/
theorem fetchesFromNoFrame_haltCode :
    (fetchesFromNoFrame.ctxErr 0 0 0x06 (fetchesFromNoFrame.pc 0 0) 0).get (Reg.JOB_HALT_INFO.CODE 0) = 0x06 ∧
    (fetchesFromNoFrame.ctxErr 0 0 0x0A (fetchesFromNoFrame.pc 0 0) (faultPayload 0 (fetchesFromNoFrame.pc 0 0))).get
      (Reg.JOB_HALT_INFO.CODE 0) = 0x0A := by
  decide +kernel

/-- Refutes O11: the fetch of a `halt` through a valid entry that names no frame of the part raises `FIELD_RANGE` (R323), not
`PAGE_FAULT`. -/
theorem not_issueNeedsARunningContextAndAPage : ¬ Obligations.IssueNeedsARunningContextAndAPage := by
  unfold Obligations.IssueNeedsARunningContextAndAPage
  rintro ⟨-, hfault⟩
  have hclaim := hfault 0 0 0 fetchesFromNoFrame (by decide) (by decide) fetchesFromNoFrame_mayIssue
    fetchesFromNoFrame_readAddr (.halt 0 0 0) (by simp [contextInstrs])
  rw [exec_halt, State.issueControl, State.issue_of_unreadable (by decide) (by decide) fetchesFromNoFrame_mayIssue
    fetchesFromNoFrame_readAddr, fetchesFromNoFrame_accessFail] at hclaim
  obtain ⟨hcode6, hcodeA⟩ := fetchesFromNoFrame_haltCode
  have hsame := congrArg (State.get · (Reg.JOB_HALT_INFO.CODE 0)) (Host.Outcome.next.inj hclaim)
  simp only [hcode6, hcodeA] at hsame
  exact absurd hsame (by decide)

end Sys2Proof.Proofs
end

section
/-! Queue heads that begin in a core, and the iterations that have no event of their own (R51, R52, R62, R94). -/

namespace Sys2Proof

/-! ## One bit of a number set -/

/-- A number with one bit set, by the bits above it and those below. -/
theorem setBit_eq (n i : Nat) (b : Bool) : setBit n i b = (2 * (n / 2 ^ i / 2) + ofBool b) * 2 ^ i + n % 2 ^ i := by
  have hq : n / 2 ^ i * 2 ^ i = 2 * (n / 2 ^ i / 2) * 2 ^ i + n / 2 ^ i % 2 * 2 ^ i := by
    rw [← Nat.add_mul, Nat.div_add_mod]
  have hn := Nat.div_add_mod n (2 ^ i)
  rw [Nat.mul_comm] at hn
  rw [setBit, Nat.add_mul]
  omega

@[simp] theorem bit_setBit_same (n i : Nat) (b : Bool) : bit (setBit n i b) i = b := by
  have hdiv : setBit n i b / 2 ^ i = 2 * (n / 2 ^ i / 2) + ofBool b := by
    rw [setBit_eq, Nat.mul_comm, Nat.mul_add_div (Nat.two_pow_pos i), Nat.div_eq_of_lt (Nat.mod_lt _ (Nat.two_pow_pos i)),
      Nat.add_zero]
  rw [bit, hdiv]
  cases b <;> simp [ofBool]

end Sys2Proof

namespace Sys2Proof.Machine

/-! ## Entries of a queue -/

/-- Replacing the entry of an issue number makes the new one the one that is found. -/
theorem find?_map_replaceSeq {l : List QEntry} {q q' : QEntry} {seq : Nat}
    (h : l.find? (fun p => decide (p.seq = seq)) = some q) (hseq : q'.seq = seq) :
    (l.map (fun p => if p.seq = q'.seq then q' else p)).find? (fun p => decide (p.seq = seq)) = some q' := by
  induction l with
  | nil => simp at h
  | cons a l ih =>
    by_cases ha : a.seq = seq
    · simp [ha, hseq]
    · simp only [List.find?_cons, ha, decide_false] at h
      simpa [ha, hseq] using ih h

theorem State.entrySeq_setEntry {s : State} {g c e seq : Nat} {q q' : QEntry} (h : s.entrySeq g c e seq = some q)
    (hseq : q'.seq = q.seq) : (s.setEntry g c e q').entrySeq g c e seq = some q' := by
  have hq : q.seq = seq := by simpa using List.find?_some h
  unfold State.entrySeq State.setEntry
  rw [State.queue_setQueue]
  exact find?_map_replaceSeq h (hseq.trans hq)

/-! ## What beginning leaves of the queues -/

theorem State.coreInc_queues (s : State) (x : At) (f : Nat → Nat → Fld) (n : Nat) : (s.coreInc x f n).queues = s.queues := rfl

theorem State.noteTurn_queues (s : State) (g cx e c : Nat) (both : Bool) : (s.noteTurn g cx e c both).queues = s.queues := rfl

theorem State.entrySeq_congr {s t : State} (h : t.queues = s.queues) (g c e seq : Nat) :
    t.entrySeq g c e seq = s.entrySeq g c e seq := by
  simp only [State.entrySeq, State.queue, h]

/-- The entry as it stands once the operation has begun in a core (R62). -/
def State.begunEntry (s : State) (g : Nat) (q : QEntry) (cx : Nat) : QEntry :=
  { q with begun := setBit q.begun cx true, since := if q.begun = 0 then some (s.stamp (rmIsland g)) else q.since }

theorem State.beginIn_eq (s : State) (g c e : Nat) (q : QEntry) (cx : Nat) :
    s.beginIn g c e q cx =
      (if e = 0 then
        (s.setEntry g c e (s.begunEntry g q cx)).noteTurn g (s.view g cx).cx 0 c (s.arrayReady g (1 - c) (s.view g cx).cx)
      else if e = 3 then
        (if s.runsOrdered (s.at g c cx) (s.begunEntry g q cx) then
          (s.setEntry g c e (s.begunEntry g q cx)).coreInc (s.at g c cx) Reg.DMA_ORDERED.N 1
        else s.setEntry g c e (s.begunEntry g q cx))
      else if isParade (s.begunEntry g q cx) || (s.begunEntry g q cx).opc = 0x61 then
        (s.setEntry g c e (s.begunEntry g q cx)).coreInc (s.at g c cx) Reg.LN_OPS.N (s.itersOf g c (s.begunEntry g q cx))
      else s.setEntry g c e (s.begunEntry g q cx)) := rfl

/-- Beside the entry, what begins changes counters and turns. -/
theorem State.beginIn_queues (s : State) (g c e : Nat) (q : QEntry) (cx : Nat) :
    (s.beginIn g c e q cx).queues = (s.setEntry g c e (s.begunEntry g q cx)).queues := by
  rw [State.beginIn_eq]
  simp only [apply_ite State.queues, State.coreInc_queues, State.noteTurn_queues, ite_self]

/-- The operation stands begun in its queue. -/
theorem State.entrySeq_beginIn {s : State} {g c e seq : Nat} {q : QEntry} (h : s.entrySeq g c e seq = some q) (cx : Nat) :
    (s.beginIn g c e q cx).entrySeq g c e seq = some (s.begunEntry g q cx) := by
  rw [State.entrySeq_congr (s.beginIn_queues g c e q cx), State.entrySeq_setEntry (q' := s.begunEntry g q cx) h rfl]

theorem State.tryBegin_of_may {s : State} {g c e seq cx : Nat} {q : QEntry} (h : s.entrySeq g c e seq = some q)
    (hmay : s.mayBegin g c e q cx = true) (hturn : s.turnOk g c e (s.view g cx).cx = true) :
    s.tryBegin g c e seq cx = s.beginIn g c e q cx := by
  simp [State.tryBegin, h, hmay, hturn]

theorem State.tryBegin_of_may_not {s : State} {g c e seq cx : Nat} {q : QEntry} (h : s.entrySeq g c e seq = some q)
    (hmay : s.mayBegin g c e q cx = false) : s.tryBegin g c e seq cx = s := by
  simp [State.tryBegin, h, hmay]

/-! ## Iterations without an event -/

/-- An operation without scratchpad outputs is held back by no tile step (R173). -/
theorem State.iterHeld_of_outsOf_nil {s : State} {x : At} {q : QEntry} {i : Nat} (h : s.outsOf x q i = .ok []) :
    s.iterHeld x q i = false := by
  simp [State.iterHeld, h]

theorem State.runIter_accz_busy {q : QEntry} (h : q.opc = 0x34) {s : State} {x : At} {i : Nat}
    (hq : s.tileQuiet x q i = false) : s.runIter x q i = (s, .waits) := by
  simp [State.runIter, s.iterHeld_accz h, h, hq]

theorem State.runIter_vl {q : QEntry} (h : q.opc = 0x50) (s : State) (x : At) (i : Nat) :
    s.runIter x q i = ((s.coreInc x Reg.LN_OPS.N 1).laneVl x q, .ran) := by
  have hheld := State.iterHeld_of_outsOf_nil (s := s) (x := x) (q := q) (i := i) (by simp [State.outsOf, h, engineOf])
  simp [State.runIter, hheld, h, engineOf, State.iterLane, ranOr]

theorem State.runIter_tswap {q : QEntry} (h : q.opc = 0x62) (s : State) (x : At) (i : Nat) :
    s.runIter x q i = (s.coreInc x Reg.LN_OPS.N 1, .ran) := by
  have hheld := State.iterHeld_of_outsOf_nil (s := s) (x := x) (q := q) (i := i) (by simp [State.outsOf, h, engineOf])
  simp [State.runIter, hheld, h, engineOf, State.iterLane, ranOr]

end Sys2Proof.Machine

namespace Sys2Proof.Proofs
open Sys2Proof.Machine

/-- Settles O60: an operation that begins takes the place of its entry with the core marked, and the three iterations are the
branches of their opcodes. -/
theorem headsThatMayStartAct : Obligations.HeadsThatMayStartAct := by
  unfold Obligations.HeadsThatMayStartAct
  refine ⟨fun g c e seq cx q s hq hmay hturn => ?_, fun g c e seq cx q s hq hmay => State.tryBegin_of_may_not hq hmay,
    fun x q i s => ⟨fun h => ?_, fun h => State.runIter_vl h s x i, fun h => State.runIter_tswap h s x i⟩⟩
  · exact ⟨State.tryBegin_of_may hq hmay hturn, _, State.entrySeq_beginIn hq cx, bit_setBit_same _ _ _, rfl, rfl⟩
  · cases hquiet : s.tileQuiet x q i with
    | true => simp [State.runIter_accz h hquiet]
    | false => simp [State.runIter_accz_busy h hquiet]

end Sys2Proof.Proofs
end

section
/-! Reads of registers whose fields clear on the read (R7, R10). -/

namespace Sys2Proof.Machine

/-! ## The rows of the register map -/

theorem findRow_mem {t : List RegRow} {off : Nat} {row : RegRow} {ix : List Nat} (h : findRow t off = some (row, ix)) :
    row ∈ t := by
  induction t with
  | nil => simp [findRow] at h
  | cons r t ih =>
    rw [findRow] at h
    split at h
    · simp only [Option.some.injEq, Prod.mk.injEq] at h
      simp [h.1]
    · exact List.mem_cons_of_mem _ (ih h)

/-- The fields of every row begin at different bits. -/
theorem regMap_fields_apart {row : RegRow} (h : row ∈ regMap) : (row.fields.map (·.lo)).Nodup := by
  have hall : ∀ part ∈ [regMap0, regMap1, regMap2, regMap3, regMap4, regMap5, regMap6, regMap7, regMap8, regMap9],
      part.all (fun r => decide (r.fields.map (·.lo)).Nodup) = true := by decide
  have hpart : ∃ part ∈ [regMap0, regMap1, regMap2, regMap3, regMap4, regMap5, regMap6, regMap7, regMap8, regMap9],
      row ∈ part := by
    simpa [regMap, or_assoc] using h
  obtain ⟨part, hmem, hrow⟩ := hpart
  simpa using List.all_eq_true.mp (hall part hmem) row hrow

/-! ## Clearing fold -/

/-- Writing the RC fields of a list leaves a field that begins elsewhere. -/
theorem State.get_clearFields_of_lo_ne (fs : List FieldRow) (id : RegId) (ix : List Nat) (off ev : Nat) {f : FieldRow}
    (h : f.lo ∉ fs.map (·.lo)) (s : State) :
    (fs.foldl (fun (t : State) f => if f.acc = .rc then t.put (rowFld id ix off f) (bits ev f.lo f.w) else t) s).get
      (rowFld id ix off f) = s.get (rowFld id ix off f) := by
  induction fs generalizing s with
  | nil => rfl
  | cons a fs ih =>
    simp only [List.map_cons, List.mem_cons, not_or] at h
    rw [List.foldl_cons, ih h.2]
    split
    · exact State.get_put_of_lo_ne s _ rfl h.1
    · rfl

/-- Each RC field of a list holds its event once the list is written. -/
theorem State.get_clearFields (fs : List FieldRow) (id : RegId) (ix : List Nat) (off ev : Nat) {f : FieldRow}
    (hf : f ∈ fs) (hrc : f.acc = .rc) (hnd : (fs.map (·.lo)).Nodup) (s : State) :
    (fs.foldl (fun (t : State) f => if f.acc = .rc then t.put (rowFld id ix off f) (bits ev f.lo f.w) else t) s).get
      (rowFld id ix off f) = bits ev f.lo f.w := by
  induction fs generalizing s with
  | nil => simp at hf
  | cons a fs ih =>
    simp only [List.map_cons, List.nodup_cons] at hnd
    rw [List.foldl_cons]
    rcases List.mem_cons.mp hf with rfl | hmem
    · rw [State.get_clearFields_of_lo_ne fs id ix off ev hnd.1, if_pos hrc, State.get_put_same]
      simp [bits, rowFld]
    · exact ih hmem hnd.2 _

/-- An RC field of the register at an offset holds its event once it is cleared. -/
theorem State.get_clearRc {off : Nat} {row : RegRow} {ix : List Nat} {f : FieldRow} (hreg : regAt off = some (row, ix))
    (hf : f ∈ row.fields) (hrc : f.acc = .rc) (s : State) (ev : Nat) :
    (s.clearRc off ev).get (rowFld row.id ix off f) = bits ev f.lo f.w := by
  rw [← State.get_clearFields row.fields row.id ix off ev hf hrc (regMap_fields_apart (findRow_mem hreg)) s]
  simp only [State.clearRc, hreg]
  split <;> rfl

/-- A read of a register of a port that is there shows the value and clears the register. -/
theorem State.readNow_of_present {s : State} {off : Nat} (h : s.fusedPort off = false) (ev : Nat) :
    s.readNow off ev = { s.clearRc off ev with mmioData := s.regRead off } := by
  simp [State.readNow, h]

end Sys2Proof.Machine

namespace Sys2Proof.Proofs
open Sys2Proof.Machine

/-- Settles O59: the read takes its value before it clears, and the fields of a row lie apart, so none overwrites another. -/
theorem rcReadsKeepTheirEvents : Obligations.RcReadsKeepTheirEvents := by
  unfold Obligations.RcReadsKeepTheirEvents
  intro off ev row ix f s hdark hdown hport hheld hreg hf hrc
  refine ⟨s.readNow off ev, ?_, rfl, ?_⟩
  · simp [exec_rcRead_of_up hdown, hdark, State.readClear_of_not_held hheld]
  · rw [State.readNow_of_present hport]
    exact State.get_clearRc hreg hf hrc s ev

end Sys2Proof.Proofs
end

section
/-! What a trace record, an event bit and the noting of an error can change (R42, R285, R379, R385, R391). -/

namespace Sys2Proof.Machine

/-! ## The registers that a trace record can change -/

/-- The registers that a trace record can change: those of the trace queues but for `BASE` and `SIZE_LOG2`, `ERR_DEV_STATUS`,
`MSIX_PBA`, and whole registers from the access counters of the memories on, whose stack number has no bound. -/
def traceKey (k : Nat) : Prop :=
  (0x702000 * 64 ≤ k ∧ k < 0x703000 * 64 ∧ k % 64 ≠ 12 ∧ k % 64 ≠ 16) ∨ (0x700000 * 64 ≤ k ∧ k < 0x700000 * 64 + 64) ∨
    (0x80800 * 64 ≤ k ∧ k < 0x80800 * 64 + 64) ∨ (0xC01000 * 64 ≤ k ∧ k % 64 = 0)

/-- The registers that the noting of an error can change beside: those of the error block, the codes of a job and a context,
and the count of further errors in a halt record. -/
def noteKey (k : Nat) : Prop :=
  traceKey k ∨ (0x700000 * 64 ≤ k ∧ k < 0x702000 * 64) ∨
    (∃ j, k = (Reg.JOB_STATUS.LAST_CODE j).key ∨ k = (Reg.JOB_HALT_INFO.EXTRA j).key) ∨
    ∃ g c, k = (Reg.CTX_STATUS.CODE g c).key

/-- A set of registers that holds all that a trace record changes and leaves where the trace queues lie. -/
structure TraceKeys (K : Nat → Prop) : Prop where
  all : ∀ k, traceKey k → K k
  area : ∀ k, 0x702000 * 64 ≤ k → k < 0x703000 * 64 → k % 64 = 12 ∨ k % 64 = 16 → ¬ K k

/-- The state without what trace records and notices change beside device memory and registers: the Carousel stages, the
records' numbers, the messages sent and the events that wait for the receiver. -/
def State.unnoted (s : State) : State :=
  { s with regs := [], cq := [], mem := [], islSeq := [], msgs := [], mgmt := { s.mgmt with events := [] } }

/-- From state r to state s only records were written: registers of a set changed, and device memory in the backing areas of
the trace queues. -/
structure Recorded (K : Nat → Prop) (r s : State) : Prop where
  rest : s.unnoted = r.unnoted
  regs : ∀ f : Fld, ¬ K f.key → s.get f = r.get f
  mem : r.memKept s

theorem Recorded.refl (K : Nat → Prop) (s : State) : Recorded K s s := ⟨rfl, fun _ _ => rfl, fun _ _ => rfl⟩

section
variable {K : Nat → Prop} {r s t : State}

theorem Recorded.mono {L : Nat → Prop} (h : Recorded K r s) (hKL : ∀ k, K k → L k) : Recorded L r s :=
  ⟨h.rest, fun f hf => h.regs f (fun hk => hf (hKL _ hk)), h.mem⟩

/-- The fields that say where a trace queue's backing area lies. -/
theorem TraceKeys.not_base (hK : TraceKeys K) {q : Nat} (hq : q < 9) : ¬ K (cqFlds q).base.key := by
  apply hK.area <;> simp [cqFlds, hq, Reg.TQ_BASE.ADDR, Fld.key] <;> omega

theorem TraceKeys.not_sizeLog2 (hK : TraceKeys K) {q : Nat} (hq : q < 9) : ¬ K (cqFlds q).sizeLog2.key := by
  apply hK.area <;> simp [cqFlds, hq, Reg.TQ_CFG.SIZE_LOG2, Fld.key] <;> omega

theorem Recorded.cqNoBack_eq (h : Recorded K r s) (hK : TraceKeys K) {q : Nat} (hq : q < 9) : s.cqNoBack q = r.cqNoBack q := by
  simp [State.cqNoBack, h.regs _ (hK.not_base hq)]

theorem Recorded.cqAddr_eq (h : Recorded K r s) (hK : TraceKeys K) {q : Nat} (hq : q < 9) (p : Nat) :
    s.cqAddr q p = r.cqAddr q p := by
  simp [State.cqAddr, h.regs _ (hK.not_base hq), h.regs _ (hK.not_sizeLog2 hq)]

theorem Recorded.traceArea_iff (h : Recorded K r s) (hK : TraceKeys K) (a : Nat) : s.traceArea a ↔ r.traceArea a := by
  constructor <;> rintro ⟨q, p, hq, hback, ha⟩ <;> refine ⟨q, p, hq, ?_, ?_⟩
  · rw [← h.cqNoBack_eq hK hq, hback]
  · rw [ha, h.cqAddr_eq hK hq]
  · rw [h.cqNoBack_eq hK hq, hback]
  · rw [ha, h.cqAddr_eq hK hq]

theorem Recorded.trans (hK : TraceKeys K) (h : Recorded K r s) (k : Recorded K s t) : Recorded K r t :=
  ⟨k.rest.trans h.rest, fun f hf => (k.regs f hf).trans (h.regs f hf),
    fun a ha => (k.mem a (fun hs => ha ((h.traceArea_iff hK a).mp hs))).trans (h.mem a ha)⟩

theorem Recorded.foldl {α : Type} (f : State → α → State) (l : List α) (hs : Recorded K r s)
    (hf : ∀ t a, Recorded K r t → Recorded K r (f t a)) : Recorded K r (l.foldl f s) := by
  induction l generalizing s with
  | nil => exact hs
  | cons a l ih => exact ih (hf s a hs)

/-! ## What it leaves -/

theorem Recorded.time_eq (h : Recorded K r s) : s.time = r.time := by simpa [State.unnoted] using congrArg State.time h.rest
theorem Recorded.sn_eq (h : Recorded K r s) : s.sn = r.sn := by simpa [State.unnoted] using congrArg State.sn h.rest
theorem Recorded.host_eq (h : Recorded K r s) : s.host = r.host := by simpa [State.unnoted] using congrArg State.host h.rest

theorem Recorded.stamp_eq (h : Recorded K r s) (i : Nat) : s.stamp i = r.stamp i := by simp [State.stamp, h.time_eq]

/-! ## Steps -/

theorem Recorded.put (h : Recorded K r s) (hK : TraceKeys K) {f : Fld} (hf : K f.key) (v : Nat) : Recorded K r (s.put f v) :=
  h.trans hK ⟨rfl, fun e he => State.get_put_ne s f e v (fun hk => he (hk ▸ hf)), fun _ _ => rfl⟩

theorem Recorded.inc (h : Recorded K r s) (hK : TraceKeys K) {f : Fld} (hf : K f.key) (n : Nat) : Recorded K r (s.inc f n) :=
  h.put hK hf _

theorem Recorded.incSat (h : Recorded K r s) (hK : TraceKeys K) {f : Fld} (hf : K f.key) (n : Nat) : Recorded K r (s.incSat f n) :=
  h.put hK hf _

theorem Recorded.setCq (h : Recorded K r s) (hK : TraceKeys K) (q : Nat) (x : CqS) : Recorded K r (s.setCq q x) :=
  h.trans hK ⟨rfl, fun _ _ => rfl, fun _ _ => rfl⟩

theorem Recorded.countMem (h : Recorded K r s) (hK : TraceKeys K) (a n : Nat) (w : Bool) : Recorded K r (s.countMem a n w) := by
  have hddr (n : Nat) : traceKey (Reg.DDR_WR.N n).key ∧ traceKey (Reg.DDR_RD.N n).key := by
    simp [traceKey, Fld.key, Reg.DDR_WR.N, Reg.DDR_RD.N]
    omega
  have hhbm (n : Nat) : traceKey (Reg.HBM_WR.N n).key ∧ traceKey (Reg.HBM_RD.N n).key := by
    simp [traceKey, Fld.key, Reg.HBM_WR.N, Reg.HBM_RD.N]
    omega
  unfold State.countMem
  cases w <;> dsimp only <;> split
  · exact h.inc hK (hK.all _ (hddr _).2) n
  · exact h.inc hK (hK.all _ (hhbm _).2) n
  · exact h.inc hK (hK.all _ (hddr _).1) n
  · exact h.inc hK (hK.all _ (hhbm _).1) n

theorem cqJob_of_trace {q : Nat} (hq : q < 9) : cqJob q = none := by simp [cqJob, hq]

theorem Recorded.noteBack (h : Recorded K r s) (hK : TraceKeys K) {q : Nat} (hq : q < 9) (w : Bool) (p : Nat) :
    Recorded K r (s.noteBack q w p) := by
  simpa [State.noteBack, cqJob_of_trace hq] using h.countMem hK (s.cqAddr q p) 1 w

/-- A byte that goes out to a trace queue's backing area. -/
theorem Recorded.setCqBackByte (h : Recorded K r s) (hK : TraceKeys K) {q : Nat} (hq : q < 9) (hback : s.cqNoBack q = false)
    (p : Nat) (b : Byte) : Recorded K r (s.setCqBackByte q p b) := by
  have hn := h.noteBack hK hq true p
  simp only [State.setCqBackByte, cqJob_of_trace hq]
  refine hn.trans hK ⟨rfl, fun _ _ => rfl, fun a ha => ?_⟩
  have hba : (s.noteBack q true p).cqNoBack q = false := by
    rw [hn.cqNoBack_eq hK hq, ← h.cqNoBack_eq hK hq, hback]
  apply Tab.get_set_ne
  rintro rfl
  exact ha ⟨q, p, hq, hba, rfl⟩

theorem Recorded.cqSpillBurst (h : Recorded K r s) (hK : TraceKeys K) {q : Nat} (hq : q < 9) (hback : s.cqNoBack q = false) :
    Recorded K r (s.cqSpillBurst q) := by
  unfold State.cqSpillBurst
  refine Recorded.setCq (Recorded.foldl _ _ h (fun t i ht => ?_)) hK q _
  have hb : t.cqNoBack q = false := by rw [ht.cqNoBack_eq hK hq, ← h.cqNoBack_eq hK hq, hback]
  split
  · exact ht
  · exact ht.setCqBackByte hK hq hb _ _

theorem Recorded.cqFill (h : Recorded K r s) (hK : TraceKeys K) {q : Nat} (hq : q < 9) : Recorded K r (s.cqFill q) := by
  unfold State.cqFill
  dsimp only
  split
  · exact Recorded.setCq (Recorded.foldl _ _ h (fun t i ht => ht.noteBack hK hq _ _)) hK q _
  · exact h.setCq hK q _

theorem Recorded.cqMakeRoom (h : Recorded K r s) (hK : TraceKeys K) {q : Nat} (hq : q < 9) : Recorded K r (s.cqMakeRoom q) := by
  unfold State.cqMakeRoom
  dsimp only
  split
  · exact h
  · split
    · exact h.cqFill hK hq
    · split
      · exact h
      · next hback => exact h.cqSpillBurst hK hq (by simpa using hback)

theorem Recorded.cqAppend (h : Recorded K r s) (hK : TraceKeys K) {q : Nat} (hq : q < 9) (l : List Byte) :
    Recorded K r (s.cqAppend q l) := by
  induction l generalizing s with
  | nil => exact h
  | cons b l ih =>
    refine ih (Recorded.put (Recorded.setCq (h.cqMakeRoom hK hq) hK q _) hK (hK.all _ ?_) _)
    simp [cqFlds, hq, traceKey, Fld.key, Reg.TQ_PUT.COUNT]
    omega

theorem Recorded.sendVector (h : Recorded K r s) (hK : TraceKeys K) (v : Nat) : Recorded K r (s.sendVector v) := by
  unfold State.sendVector
  split
  · exact h.trans hK ⟨rfl, fun _ _ => rfl, fun _ _ => rfl⟩
  · refine h.put hK (hK.all _ ?_) _
    simp [traceKey, Fld.key, Reg.MSIX_PBA.PENDING]

theorem Recorded.setEvent (h : Recorded K r s) (hK : TraceKeys K) {f : Fld} (hf : K f.key) (v : Nat) : Recorded K r (s.setEvent f v) := by
  unfold State.setEvent
  dsimp only
  split <;> split <;> (first | exact h | exact h.sendVector hK v | exact h.put hK hf 1 | exact (h.put hK hf 1).sendVector hK v)

theorem Recorded.cqDropFull (h : Recorded K r s) (hK : TraceKeys K) {q : Nat} (hq : q < 9) : Recorded K r (s.cqDropFull q) := by
  have hdrops : traceKey (cqFlds q).drops.key := by
    simp [cqFlds, hq, traceKey, Fld.key, Reg.TQ_DROPS.COUNT]
    omega
  have hdrop : traceKey (cqFlds q).drop.key := by
    simp [cqFlds, hq, traceKey, Fld.key, Reg.TQ_STATUS.DROP_EVT]
    omega
  have htrc : traceKey Reg.ERR_DEV_STATUS.TRC_EVT.key := by simp [traceKey, Fld.key, Reg.ERR_DEV_STATUS.TRC_EVT]
  unfold State.cqDropFull
  rw [if_pos hq]
  exact ((h.incSat hK (hK.all _ hdrops) 1).put hK (hK.all _ hdrop) 1).setEvent hK (hK.all _ htrc) 11

theorem Recorded.cqPush (h : Recorded K r s) (hK : TraceKeys K) {q : Nat} (hq : q < 9) (tag : Nat) (data : List Byte) :
    Recorded K r (s.cqPush q tag data) := by
  have hdrops : traceKey (cqFlds q).drops.key := by
    simp [cqFlds, hq, traceKey, Fld.key, Reg.TQ_DROPS.COUNT]
    omega
  unfold State.cqPush
  split
  · exact h.incSat hK (hK.all _ hdrops) 1
  · split
    · exact h.setCq hK q _
    · split
      · exact h.cqDropFull hK hq
      · exact h.cqAppend hK hq _

/-- A trace record of the device or of one of the eight jobs. -/
theorem Recorded.trace (h : Recorded K r s) (hK : TraceKeys K) {job : Option Nat} (hjob : ∀ j ∈ job, j < 8)
    (island event payload : Nat) : Recorded K r (s.trace island event job payload) := by
  have hseq (l : Tab Nat) : Recorded K r ({ s with islSeq := l } : State) :=
    h.trans hK ⟨rfl, fun _ _ => rfl, fun _ _ => rfl⟩
  cases job with
  | none => exact (hseq _).cqPush hK (by decide) _ _
  | some j => exact (hseq _).cqPush hK (by have := hjob j rfl; show 1 + j < 9; omega) _ _

end

theorem traceKeys_traceKey : TraceKeys traceKey := by
  refine ⟨fun _ h => h, fun k hlo hhi hk h => ?_⟩
  unfold traceKey at h
  omega

theorem traceKeys_noteKey : TraceKeys noteKey := by
  refine ⟨fun _ h => .inl h, fun k hlo hhi hk h => ?_⟩
  simp only [noteKey, traceKey, Fld.key, Reg.JOB_STATUS.LAST_CODE, Reg.JOB_HALT_INFO.EXTRA, Reg.CTX_STATUS.CODE] at h
  rcases h with h | h | ⟨j, h | h⟩ | ⟨g, c, h⟩ <;> omega

/-! ## Errors -/

/-- A register of the error block. -/
theorem noteKey_of_errBlock {k : Nat} (hlo : 0x700000 * 64 ≤ k) (hhi : k < 0x702000 * 64) : noteKey k := .inr (.inl ⟨hlo, hhi⟩)

/-- A set of registers that holds all that the noting of an error changes, but for the count of its code. -/
structure NoteKeys (K : Nat → Prop) : Prop extends TraceKeys K where
  err : ∀ k, 0x700000 * 64 ≤ k → k < 0x701000 * 64 → K k
  lastCode : ∀ j, K (Reg.JOB_STATUS.LAST_CODE j).key
  extra : ∀ j, K (Reg.JOB_HALT_INFO.EXTRA j).key
  ctxCode : ∀ g c, K (Reg.CTX_STATUS.CODE g c).key

theorem noteKeys_noteKey : NoteKeys noteKey where
  toTraceKeys := traceKeys_noteKey
  err _ hlo hhi := noteKey_of_errBlock hlo (by omega)
  lastCode j := .inr (.inr (.inl ⟨j, .inl rfl⟩))
  extra j := .inr (.inr (.inl ⟨j, .inr rfl⟩))
  ctxCode g c := .inr (.inr (.inr ⟨g, c, rfl⟩))

/-- What the noting of an error can change, but for the counts of the codes. -/
def noteKeyUncounted (k : Nat) : Prop := noteKey k ∧ ¬ (0x701000 * 64 ≤ k ∧ k < 0x702000 * 64)

theorem noteKeys_noteKeyUncounted : NoteKeys noteKeyUncounted := by
  refine ⟨⟨fun k h => ⟨.inl h, ?_⟩, fun k hlo hhi hk h => traceKeys_noteKey.area k hlo hhi hk h.1⟩,
    fun k hlo hhi => ⟨noteKeys_noteKey.err k hlo hhi, by omega⟩, fun j => ⟨noteKeys_noteKey.lastCode j, ?_⟩,
    fun j => ⟨noteKeys_noteKey.extra j, ?_⟩, fun g c => ⟨noteKeys_noteKey.ctxCode g c, ?_⟩⟩
  · unfold traceKey at h
    omega
  all_goals simp only [Fld.key, Reg.JOB_STATUS.LAST_CODE, Reg.JOB_HALT_INFO.EXTRA, Reg.CTX_STATUS.CODE]; omega

section
variable {K : Nat → Prop} {r s : State}

theorem Recorded.recordFault (h : Recorded K r s) (hK : NoteKeys K) (e : ErrAt) (charged : Option Nat) :
    Recorded K r (s.recordFault e charged) := by
  have hT := hK.toTraceKeys
  have hkey : ∀ f ∈ [Reg.ERR_LAST_FAULT.ISLAND, Reg.ERR_LAST_FAULT.JOBV, Reg.ERR_LAST_FAULT.JOB, Reg.ERR_LAST_FAULT.CODE,
      Reg.ERR_LAST_FAULT_T.STAMP], K f.key := by
    intro f hf
    have hb : 0x700000 * 64 ≤ f.key ∧ f.key < 0x701000 * 64 := by revert f; decide
    exact hK.err _ hb.1 hb.2
  exact ((((h.put hT (hkey _ (by simp)) _).put hT (hkey _ (by simp)) _).put hT (hkey _ (by simp)) _).put hT
    (hkey _ (by simp)) _).put hT (hkey _ (by simp)) _

theorem Recorded.pldmEvent (h : Recorded K r s) (hK : TraceKeys K) (kind : Nat) : Recorded K r (s.pldmEvent kind) :=
  h.trans hK ⟨rfl, fun _ _ => rfl, fun _ _ => rfl⟩

theorem Recorded.noteDevice (h : Recorded K r s) (hK : NoteKeys K) (e : ErrAt) (charged : Option Nat) :
    Recorded K r (s.noteDevice e charged) := by
  have hT := hK.toTraceKeys
  have hkey : ∀ f ∈ [Reg.ERR_LAST_POLICY.ISLAND, Reg.ERR_LAST_POLICY.JOBV, Reg.ERR_LAST_POLICY.JOB, Reg.ERR_LAST_POLICY.CODE,
      Reg.ERR_DEV_STATUS.POLICY_EVT, Reg.ERR_DEV_STATUS.FAULT_EVT], K f.key := by
    intro f hf
    have hb : 0x700000 * 64 ≤ f.key ∧ f.key < 0x701000 * 64 := by revert f; decide
    exact hK.err _ hb.1 hb.2
  unfold State.noteDevice
  dsimp only
  split
  · exact ((h.recordFault hK e charged).setEvent hT (hkey _ (by simp)) 8).pldmEvent hT 0
  · exact ((((h.put hT (hkey _ (by simp)) _).put hT (hkey _ (by simp)) _).put hT (hkey _ (by simp)) _).put hT
      (hkey _ (by simp)) _).setEvent hT (hkey _ (by simp)) 9
  · exact h

end

theorem Recorded.countErr {r s : State} (h : Recorded noteKey r s) {code : Nat} (hcode : code < 512) :
    Recorded noteKey r (s.countErr code) := by
  refine h.inc traceKeys_noteKey (noteKey_of_errBlock ?_ ?_) 1 <;> simp [Fld.key, Reg.ERR_CNT.N] <;> omega

/-- An error is charged or attributed to no other job than the one it names (R74, R377). -/
theorem State.chargedTo_mem {s : State} {e : ErrAt} {j : Nat} (h : j ∈ s.chargedTo e) : j ∈ e.job := by
  unfold State.chargedTo at h
  split at h
  · next k hk =>
    split at h
    · simpa [hk] using h
    · simp at h
  · simp at h

theorem State.attributedTo_mem {s : State} {e : ErrAt} {j : Nat} (h : j ∈ s.attributedTo e) : j ∈ e.job := by
  unfold State.attributedTo at h
  split at h
  · next k hk =>
    split at h
    · simpa [hk] using h
    · simp at h
  · simp at h

/-- Noting an error of the device or of one of the eight jobs, whose code is counted first. -/
theorem Recorded.noteErr_of_countErr {K : Nat → Prop} {r s : State} {e : ErrAt} (h : Recorded K r (s.countErr e.code))
    (hK : NoteKeys K) (hjob : ∀ j ∈ e.job, j < 8) : Recorded K r (s.noteErr e) := by
  have hT := hK.toTraceKeys
  have hwho : ∀ j ∈ (s.chargedTo e).or (s.attributedTo e), j < 8 := by
    intro j hj
    rcases Option.or_eq_some_iff.mp hj with hj | ⟨-, hj⟩
    · exact hjob j (State.chargedTo_mem hj)
    · exact hjob j (State.attributedTo_mem hj)
  have htraced : Recorded K r (if e.traced then
      (s.countErr e.code).trace e.island e.code ((s.chargedTo e).or (s.attributedTo e)) e.payload else s.countErr e.code) := by
    split
    · exact h.trace hT hwho _ _ _
    · exact h
  unfold State.noteErr
  dsimp only
  generalize hu : (if e.traced then (s.countErr e.code).trace e.island e.code ((s.chargedTo e).or (s.attributedTo e)) e.payload
    else s.countErr e.code) = u at htraced ⊢
  have hcode' : Recorded K r (if e.troupe = 0xFF || !e.ofOp then u else u.put (Reg.CTX_STATUS.CODE e.troupe e.ctxn) e.code) := by
    split
    · exact htraced
    · exact htraced.put hT (hK.ctxCode _ _) _
  generalize (if e.troupe = 0xFF || !e.ofOp then u else u.put (Reg.CTX_STATUS.CODE e.troupe e.ctxn) e.code) = v at hcode' ⊢
  have hattr : Recorded K r (match s.attributedTo e with
      | some j => v.incSat (Reg.JOB_HALT_INFO.EXTRA j) 1
      | none => v) := by
    split
    · exact hcode'.incSat hT (hK.extra _) 1
    · exact hcode'
  split <;> rename_i hc
  · split
    · exact hattr.noteDevice hK e _
    · exact (hattr.noteDevice hK e _).put hT (hK.lastCode _) _
  · exact hattr.noteDevice hK e _

/-- Noting an error of the device or of one of the eight jobs. -/
theorem Recorded.noteErr {r s : State} (h : Recorded noteKey r s) (e : ErrAt) (hjob : ∀ j ∈ e.job, j < 8)
    (hcode : e.code < 512) : Recorded noteKey r (s.noteErr e) :=
  (h.countErr hcode).noteErr_of_countErr noteKeys_noteKey hjob

/-- Noting an error counts its code once (R379). -/
theorem State.noteErr_errCnt (s : State) {e : ErrAt} (hjob : ∀ j ∈ e.job, j < 8) (hcode : e.code < 512) :
    (s.noteErr e).get (Reg.ERR_CNT.N e.code) = (s.get (Reg.ERR_CNT.N e.code) + 1) % 2 ^ 48 := by
  have hnot : ¬ noteKeyUncounted (Reg.ERR_CNT.N e.code).key := by
    simp [noteKeyUncounted, Fld.key, Reg.ERR_CNT.N]
    omega
  rw [((Recorded.refl _ _).noteErr_of_countErr noteKeys_noteKeyUncounted hjob).regs _ hnot]
  exact State.get_put_same _ _ _

/-- An error that names no job is noted, and has no further consequence (R377). -/
theorem State.raiseErr_of_no_job (s : State) {e : ErrAt} (h : e.job = none) (trap : Bool) : s.raiseErr e trap = s.noteErr e := by
  have hc : s.chargedTo e = none := by simp [State.chargedTo, h]
  simp [State.raiseErr, hc]

end Sys2Proof.Machine
end

section
/-! Replicas of Showtime: how far they are from the root, and that none decreases (R26, R28, R30). -/

namespace Sys2Proof.Machine

/-! ## Deviations -/

/-- A replica's deviation lies between the one it had and the corrected one. -/
theorem TimeS.effDev_eq (t : TimeS) (k : Nat) : t.effDev k =
    Tab.get 0 t.dev k + (Tab.get (0, 0) t.slew k).1 * (min (t.root - (Tab.get (0, 0) t.slew k).2) 1024 : Nat) / 1024 := rfl

/-- A correction spread over 1,024 st (R28): its part so far lies between nothing and all of it. -/
theorem spread_bounds {lo hi c : Int} {m : Nat} (hm : m ≤ 1024) (hlo : lo ≤ 0) (hhi : 0 ≤ hi) (hcl : lo ≤ c) (hch : c ≤ hi) :
    lo ≤ c * m / 1024 ∧ c * m / 1024 ≤ hi := by
  have h0 : (0 : Int) ≤ m := Int.natCast_nonneg m
  have h1 : (m : Int) ≤ 1024 := by exact_mod_cast hm
  constructor
  · rw [Int.le_ediv_iff_mul_le (by norm_num)]
    nlinarith
  · apply Int.ediv_le_of_le_mul (by norm_num)
    nlinarith

theorem TimeS.Close.effDev {t : TimeS} (h : t.Close) {k : Nat} (hk : k ∉ t.faulted) :
    -2 ≤ t.effDev k ∧ t.effDev k ≤ 2 := by
  obtain ⟨⟨hd1, hd2⟩, hc1, hc2⟩ := h k hk
  rw [TimeS.effDev_eq]
  have := spread_bounds (lo := -2 - Tab.get 0 t.dev k) (hi := 2 - Tab.get 0 t.dev k) (c := (Tab.get (0, 0) t.slew k).1)
    (min_le_right (t.root - (Tab.get (0, 0) t.slew k).2) 1024) (by omega) (by omega) (by omega) (by omega)
  omega

/-- What the spread of a correction of at most 4 st gives back while the root advances is no more than the root's advance. -/
theorem spread_step {c : Int} (hc : -1024 ≤ c) {m n d : Nat} (hmn : m ≤ n) (hnd : n ≤ m + d) :
    c * m / 1024 ≤ c * n / 1024 + d := by
  rw [← Int.add_mul_ediv_right _ _ (by norm_num : (1024 : Int) ≠ 0)]
  apply Int.ediv_le_ediv (by norm_num)
  have h1 : (m : Int) ≤ n := by exact_mod_cast hmn
  have h2 : (n : Int) ≤ m + d := by exact_mod_cast hnd
  nlinarith

/-! ## The stamp -/

/-- The replicas of a later state whose deviations, held values and root are as before. -/
theorem State.stamp_congr {s t : State} {k : Nat} (hroot : t.time.root = s.time.root)
    (hdev : t.time.effDev k = s.time.effDev k) (hheld : Tab.get 0 t.time.held k = Tab.get 0 s.time.held k) :
    t.stamp k = s.stamp k := by
  simp [State.stamp, hroot, hdev, hheld]

theorem State.freezePassed_time (s : State) : ∃ f, s.freezePassed.time = { s.time with frozen := f } := by
  unfold State.freezePassed
  split
  · exact ⟨_, rfl⟩
  · exact ⟨_, rfl⟩

/-- Keeping counters for a snapshot moves no replica. -/
theorem State.freezePassed_stamp (s : State) (k : Nat) : s.freezePassed.stamp k = s.stamp k := by
  obtain ⟨f, hf⟩ := s.freezePassed_time
  simp [State.stamp, TimeS.effDev, hf]

theorem State.freezePassed_close (s : State) : s.freezePassed.time.Close ↔ s.time.Close := by
  obtain ⟨f, hf⟩ := s.freezePassed_time
  simp [TimeS.Close, hf]

/-! ## The root's tick -/

/-- Showtime with the root's count at n: past 2^64 no held value and no correction stays (R26). -/
def TimeS.moved (t : TimeS) (n frac : Nat) : TimeS :=
  { t with frac := frac, root := n % 2 ^ 64, held := if n < 2 ^ 64 then t.held else []
           slew := if n < 2 ^ 64 then t.slew else [] }

theorem State.rootTick_time_eq (s : State) : ∃ f, s.rootTick.time =
    { s.time.moved (s.time.root + (s.time.frac + s.get Reg.ST_RATE.RATE) / 2 ^ 32)
        ((s.time.frac + s.get Reg.ST_RATE.RATE) % 2 ^ 32) with frozen := f } :=
  State.freezePassed_time _

/-- Short of the wrap the tick moves the root alone. -/
theorem State.rootTick_time {s : State} (h : s.time.root + (s.time.frac + s.get Reg.ST_RATE.RATE) / 2 ^ 32 < 2 ^ 64) :
    ∃ f g, s.rootTick.time = { s.time with
      root := s.time.root + (s.time.frac + s.get Reg.ST_RATE.RATE) / 2 ^ 32, frac := g, frozen := f } := by
  obtain ⟨f, hf⟩ := s.rootTick_time_eq
  refine ⟨f, (s.time.frac + s.get Reg.ST_RATE.RATE) % 2 ^ 32, ?_⟩
  rw [hf]
  simp only [TimeS.moved, if_pos h, Nat.mod_eq_of_lt h]

/-- Past the wrap no correction is in progress any more. -/
theorem State.rootTick_time_of_wrap {s : State}
    (h : ¬ s.time.root + (s.time.frac + s.get Reg.ST_RATE.RATE) / 2 ^ 32 < 2 ^ 64) :
    s.rootTick.time.dev = s.time.dev ∧ s.rootTick.time.slew = [] ∧ s.rootTick.time.faulted = s.time.faulted := by
  obtain ⟨f, hf⟩ := s.rootTick_time_eq
  rw [hf]
  simp only [TimeS.moved, if_neg h, and_self]

theorem State.rootTick_close {s : State} (h : s.time.Close) : s.rootTick.time.Close := by
  intro k hk
  by_cases hw : s.time.root + (s.time.frac + s.get Reg.ST_RATE.RATE) / 2 ^ 32 < 2 ^ 64
  · obtain ⟨f, g, ht⟩ := State.rootTick_time hw
    simp only [ht] at hk ⊢
    exact h k hk
  · obtain ⟨hdev, hslew, hfaulted⟩ := State.rootTick_time_of_wrap hw
    rw [hfaulted] at hk
    obtain ⟨hd, -⟩ := h k hk
    simpa [hdev, hslew, Tab.get] using hd

/-- A replica that has not faulted does not fall while the root advances (R28). -/
theorem State.rootTick_stamp_le {s : State} {k : Nat} (h : s.time.Close) (hk : k ∉ s.time.faulted)
    (hw : s.time.root + (s.time.frac + s.get Reg.ST_RATE.RATE) / 2 ^ 32 < 2 ^ 63) : s.stamp k ≤ s.rootTick.stamp k := by
  obtain ⟨f, g, ht⟩ := State.rootTick_time (s := s) (by omega)
  have hnow := h.effDev hk
  obtain ⟨⟨hd1, hd2⟩, hc1, hc2⟩ := h k hk
  have hnext : -2 ≤ s.rootTick.time.effDev k ∧ s.rootTick.time.effDev k ≤ 2 :=
    (State.rootTick_close h).effDev (by simpa [ht] using hk)
  have hmono : (s.time.root : Int) + s.time.effDev k ≤ (s.rootTick.time.root : Int) + s.rootTick.time.effDev k := by
    simp only [ht, TimeS.effDev_eq]
    have := spread_step (c := (Tab.get (0, 0) s.time.slew k).1) (by omega)
      (m := min (s.time.root - (Tab.get (0, 0) s.time.slew k).2) 1024)
      (n := min (s.time.root + (s.time.frac + s.get Reg.ST_RATE.RATE) / 2 ^ 32 - (Tab.get (0, 0) s.time.slew k).2) 1024)
      (d := (s.time.frac + s.get Reg.ST_RATE.RATE) / 2 ^ 32) (by omega) (by omega)
    push_cast at this ⊢
    omega
  have hroot : s.rootTick.time.root = s.time.root + (s.time.frac + s.get Reg.ST_RATE.RATE) / 2 ^ 32 := by rw [ht]
  have hheld : s.rootTick.time.held = s.time.held := by rw [ht]
  simp only [State.stamp, hheld]
  rw [Nat.mod_eq_of_lt (by omega), Nat.mod_eq_of_lt (by omega)]
  have : ((s.time.root : Int) + s.time.effDev k).toNat ≤ ((s.rootTick.time.root : Int) + s.rootTick.time.effDev k).toNat := by
    omega
  omega

/-! ## A fault of a replica -/

theorem State.replicaFaults_time (s : State) (i : Nat) : ∃ a, (s.replicaFaults i).time = { s.time with
    faulted := if s.time.faulted.contains i then s.time.faulted else s.time.faulted ++ [i], armFault := a } := by
  unfold State.replicaFaults
  rw [State.raiseErr_of_no_job _ rfl, ((Recorded.refl _ _).noteErr _ (by simp) (by norm_num)).time_eq]
  exact ⟨_, rfl⟩

theorem State.replicaFaults_stamp (s : State) (i k : Nat) : (s.replicaFaults i).stamp k = s.stamp k := by
  obtain ⟨a, ht⟩ := s.replicaFaults_time i
  simp [State.stamp, TimeS.effDev, ht]

/-- Of the replicas that have not faulted, it has one fewer. -/
theorem State.replicaFaults_mem {s : State} {i k : Nat} (h : k ∉ (s.replicaFaults i).time.faulted) :
    k ∉ s.time.faulted ∧ k ≠ i := by
  obtain ⟨a, ht⟩ := s.replicaFaults_time i
  simp only [ht] at h
  split at h
  · next hc =>
    refine ⟨h, ?_⟩
    rintro rfl
    exact h (by simpa using hc)
  · simpa using h

theorem State.replicaFaults_close {s : State} (i : Nat) (h : ∀ k, k ∉ s.time.faulted → k ≠ i →
      (-2 ≤ Tab.get 0 s.time.dev k ∧ Tab.get 0 s.time.dev k ≤ 2) ∧
        -2 ≤ Tab.get 0 s.time.dev k + (Tab.get (0, 0) s.time.slew k).1 ∧
          Tab.get 0 s.time.dev k + (Tab.get (0, 0) s.time.slew k).1 ≤ 2) : (s.replicaFaults i).time.Close := by
  intro k hk
  obtain ⟨hmem, hne⟩ := State.replicaFaults_mem hk
  obtain ⟨a, ht⟩ := s.replicaFaults_time i
  simpa only [ht] using h k hmem hne

/-! ## Corrections -/

/-- A replica that jumps holds the value it had, and the others are as they were. -/
theorem State.jumpReplica_stamp_le (s : State) (i : Nat) (d : Int) (k : Nat) : s.stamp k ≤ (s.jumpReplica i d).stamp k := by
  by_cases hk : k = i
  · subst hk
    have hheld : Tab.get 0 (s.jumpReplica k d).time.held k = s.stamp k := by simp [State.jumpReplica]
    rw [← hheld]
    exact le_max_right _ _
  · apply le_of_eq
    symm
    apply State.stamp_congr <;> simp [State.jumpReplica, TimeS.effDev, Tab.get_set_ne _ _ _ _ _ hk]

/-- A replica that takes a correction starts it from the deviation it has. -/
theorem State.slewReplica_stamp (s : State) (i : Nat) (corr : Int) (k : Nat) : (s.slewReplica i corr).stamp k = s.stamp k := by
  apply State.stamp_congr
  · rfl
  · by_cases hk : k = i
    · subst hk
      simp [State.slewReplica, TimeS.effDev]
    · simp [State.slewReplica, TimeS.effDev, Tab.get_set_ne _ _ _ _ _ hk]
  · rfl

theorem State.slewReplica_close {s : State} {i : Nat} (h : s.time.Close) (hi : i ∉ s.time.faulted) (corr : Int) :
    (s.slewReplica i corr).time.Close := by
  intro k hk
  by_cases hki : k = i
  · subst hki
    have hd := h.effDev hi
    simp [State.slewReplica, clampDev]
    omega
  · simpa [State.slewReplica, Tab.get_set_ne _ _ _ _ _ hki] using h k hk

/-- The jump of one replica leaves the others where they were. -/
theorem State.jumpReplica_dev_ne (s : State) {i k : Nat} (d : Int) (hk : k ≠ i) :
    Tab.get 0 (s.jumpReplica i d).time.dev k = Tab.get 0 s.time.dev k ∧
      Tab.get (0, 0) (s.jumpReplica i d).time.slew k = Tab.get (0, 0) s.time.slew k := by
  simp [State.jumpReplica, Tab.get_set_ne _ _ _ _ _ hk]

/-- The faulted replica agrees with the root again. -/
def State.mendReplica (s : State) (i : Nat) : State :=
  { s.jumpReplica i 0 with time := { (s.jumpReplica i 0).time with faulted := s.time.faulted.filter (· ≠ i) } }

theorem State.syncWord_eq (s : State) (i : Nat) (corr : Int) : s.syncWord i corr =
    (if s.time.faulted.contains i then s.mendReplica i
    else if 16 < corr.natAbs then (s.jumpReplica i (-corr)).replicaFaults i
    else s.slewReplica i corr).freezePassed := rfl

theorem State.syncWord_stamp_le (s : State) (i : Nat) (corr : Int) (k : Nat) : s.stamp k ≤ (s.syncWord i corr).stamp k := by
  rw [State.syncWord_eq, State.freezePassed_stamp]
  split
  · exact s.jumpReplica_stamp_le i 0 k
  · split
    · rw [State.replicaFaults_stamp]
      exact s.jumpReplica_stamp_le i (-corr) k
    · rw [State.slewReplica_stamp]

theorem State.mendReplica_close {s : State} (i : Nat) (h : s.time.Close) : (s.mendReplica i).time.Close := by
  intro k hk
  by_cases hki : k = i
  · subst hki
    simp [State.mendReplica, State.jumpReplica]
  · have hmem : k ∉ s.time.faulted := by simpa [State.mendReplica, hki] using hk
    obtain ⟨hdev, hslew⟩ := s.jumpReplica_dev_ne 0 hki
    simpa only [State.mendReplica, hdev, hslew] using h k hmem

theorem State.syncWord_close {s : State} (i : Nat) (corr : Int) (h : s.time.Close) : (s.syncWord i corr).time.Close := by
  rw [State.syncWord_eq, State.freezePassed_close]
  split
  · exact State.mendReplica_close i h
  · next hi =>
    split
    · refine State.replicaFaults_close i (fun k hk hki => ?_)
      obtain ⟨hdev, hslew⟩ := s.jumpReplica_dev_ne (-corr) hki
      rw [hdev, hslew]
      exact h k hk
    · exact State.slewReplica_close h (by simpa using hi) corr

/-! ## The three commands -/

theorem next_of_inUnits {b : Bool} {u t : State} (h : inUnits b (.next u) = .next t) : u = t := by
  cases b
  · cases h
  · simpa using h

end Sys2Proof.Machine

namespace Sys2Proof.Proofs
open Sys2Proof.Machine

/-- Settles O27: the tick moves the root further than a correction of at most 4 st over 1,024 st gives back, a correction
starts from the deviation that the replica has, and a jump holds the value that it had. -/
theorem replicasStayCloseAndNeverDecrease : Obligations.ReplicasStayCloseAndNeverDecrease := by
  unfold Obligations.ReplicasStayCloseAndNeverDecrease
  refine ⟨fun k s t hclose => ⟨fun hwrap hk h => ?_, fun i c h => ?_, fun i b h => ?_⟩, fun s t c hclose hcases h => ?_⟩
  · obtain rfl : s.rootTick = t := Host.Outcome.next.inj h
    exact State.rootTick_stamp_le hclose hk hwrap
  · obtain rfl : s.syncWord i c = t := next_of_inUnits h
    exact s.syncWord_stamp_le i c k
  · obtain rfl : s.replicaFaults i = t := next_of_inUnits h
    rw [State.replicaFaults_stamp]
  · have hnext : t.time.Close := by
      rcases hcases with rfl | ⟨i, k, rfl⟩ | ⟨i, b, rfl⟩
      · obtain rfl : s.rootTick = t := Host.Outcome.next.inj h
        exact State.rootTick_close hclose
      · obtain rfl : s.syncWord i k = t := next_of_inUnits h
        exact State.syncWord_close i k hclose
      · obtain rfl : s.replicaFaults i = t := next_of_inUnits h
        exact State.replicaFaults_close i (fun k hk _ => hclose k hk)
    exact ⟨hnext, fun k hk => hnext.effDev hk⟩

end Sys2Proof.Proofs
end

section
/-! An error of one context of a job whose other context is DONE (R73, R81). -/

namespace Sys2Proof.Proofs
open Sys2Proof.Machine

/-- Job 0 runs on both contexts of troupe 0: context 0 issues, and context 1 is DONE. -/
def runsBesideDone : State :=
  [(Reg.JOB_CTX_MASK.MASK 0, 3), (Reg.JOB_STATUS.STATE 0, 2), (Reg.CTX_CFG.BOUND 0 0, 1), (Reg.CTX_CFG.BOUND 0 1, 1),
    (Reg.CTX_STATUS.STATE 0 0, 1), (Reg.CTX_STATUS.STATE 0 1, 4)].foldl (fun t p => t.put p.1 p.2) State.reset

/-- The job runs and both contexts are its own. -/
theorem runsBesideDone_running : runsBesideDone.flag (Reg.CTX_CFG.BOUND 0 0) = true ∧ runsBesideDone.jobOf 0 0 = 0 ∧
    runsBesideDone.jobState 0 = 2 ∧ (0, 1) ∈ runsBesideDone.jobCtxs 0 := by
  decide +kernel

/-- The context that is DONE stays DONE when the other one's error stops the job (R81). -/
theorem runsBesideDone_ctxErr_state : (runsBesideDone.ctxErr 0 0 1 0 0).get (Reg.CTX_STATUS.STATE 0 1) = 4 := by
  decide +kernel

/-- Refutes O56: of a job with a DONE context, an error of the other context leaves the DONE one in state 4, not 5. -/
theorem not_contextErrorsStopTheJob : ¬ Obligations.ContextErrorsStopTheJob := by
  unfold Obligations.ContextErrorsStopTheJob
  intro h
  obtain ⟨hbound, hjob, hrun, hmem⟩ := runsBesideDone_running
  rw [← hjob] at hrun hmem
  obtain ⟨-, -, -, -, -, -, -, hstates, -⟩ := h 0 0 1 0 0 runsBesideDone (by decide) (by decide) hbound (by rw [hjob]; decide)
    hrun (by decide) (by decide) (by decide)
  have hstopped := hstates (0, 1) hmem
  simp [runsBesideDone_ctxErr_state] at hstopped

end Sys2Proof.Proofs
end

section
/-! Binding, host adds to flags, waits and retirements, and the ends of stops and drains (R58, R62 to R73, R76, R404). -/

namespace Sys2Proof.Machine

/-! ## Binding (R58, R592) -/

theorem exec_jobCtxMaskBind {s : State} (h : s.Open) {j : Nat} (hj : j < 8) (m : Nat) :
    exec (.jobCtxMaskBind j m) s = .next (s.writeMask j m) := by
  show execJobCtxMaskBind j m s = _
  simp [execJobCtxMaskBind, hj, State.barWrite_open h]

theorem exec_jobCtxMaskUnbind {s : State} (h : s.Open) {j : Nat} (hj : j < 8) :
    exec (.jobCtxMaskUnbind j) s = .next (s.writeMask j 0) := by
  show execJobCtxMaskUnbind j s = _
  simp [execJobCtxMaskUnbind, hj, State.barWrite_open h]

/-- The mask and the state are the last that the write leaves. -/
theorem State.setMask_fields (s : State) (j : Nat) {m : Nat} (hm : m < 2 ^ 48) :
    (s.setMask j m).get (Reg.JOB_CTX_MASK.MASK j) = m ∧ (s.setMask j m).jobState j = if m = 0 then 0 else 1 := by
  have hne : (Reg.JOB_CTX_MASK.MASK j).key ≠ (Reg.JOB_STATUS.STATE j).key := by
    simp [Fld.key, Reg.JOB_CTX_MASK.MASK, Reg.JOB_STATUS.STATE]
  unfold State.setMask State.jobState
  dsimp only
  refine ⟨?_, ?_⟩
  · rw [State.get_put_ne _ _ _ _ hne, State.get_put_same]
    exact Nat.mod_eq_of_lt hm
  · rw [State.get_put_same]
    split <;> rfl

/-- The empty mask is accepted of a LOADED job of a READY device alone. -/
theorem State.maskCode_zero (s : State) (j : Nat) :
    s.maskCode j 0 = if s.flag Reg.DEV_STATUS.READY = true ∧ s.jobState j = 1 then 0 else 0x04 := by
  unfold State.maskCode
  cases s.flag Reg.DEV_STATUS.READY <;> simp

/-! ## Host adds (R68, R71, R404) -/

theorem exec_jobFlagAdd {s : State} (h : s.Open) {j : Nat} (hj : j < 8) (i n : Nat) :
    exec (.jobFlagAdd j i n) s = .next (s.writeFlagAdd j (i % 256) (n % 65536)) := by
  show execJobFlagAdd j i n s = _
  simp [execJobFlagAdd, hj, State.barWrite_open h]

theorem State.writeFlagAdd_declared {s : State} {j i : Nat} (h : s.hostFlag j i = true) (n : Nat) :
    s.writeFlagAdd j i n = s.hostAdd j i n none := by
  simp [State.writeFlagAdd, State.flagAddCode, h]

theorem State.writeFlagAdd_undeclared {s : State} {j i : Nat} (h : s.hostFlag j i = false) (n : Nat) :
    s.writeFlagAdd j i n = s.reject 0x04 (jobOff j 0x40) (some j) := by
  simp [State.writeFlagAdd, State.flagAddCode, h]

theorem State.hostAdd_held {s : State} {j : Nat} (h : s.holdsAdds j = true) (i n : Nat) :
    s.hostAdd j i n none = s.setSn j { s.snOf j with heldAdds := (s.snOf j).heldAdds ++ [(i, n, 0)] } := by
  simp [State.hostAdd, h]

theorem State.hostAdd_free {s : State} {j : Nat} (h : s.holdsAdds j = false) {i : Nat} (hi : i < 256) (n : Nat) :
    s.hostAdd j i n none = s.addJobFlag j i n 1 523 := by
  simp [State.hostAdd, h, State.applyHeld, Nat.mod_eq_of_lt hi]

theorem State.addJobFlag_fits {s : State} {j i n : Nat} (h : s.get (Reg.JOB_FLAG.COUNT j i) + n ≤ 0xFFFF) (src isl : Nat) :
    s.addJobFlag j i n src isl = s.put (Reg.JOB_FLAG.COUNT j i) (s.get (Reg.JOB_FLAG.COUNT j i) + n) := by
  simp [State.addJobFlag, h]

/-- A saturating add leaves the full count and sets `FLAG_SAT_EVT`: its trace record reaches neither. -/
theorem State.addJobFlag_saturates {s : State} {j i n : Nat} (hj : j < 8) (hi : i < 256)
    (h : 0xFFFF < s.get (Reg.JOB_FLAG.COUNT j i) + n) (src isl : Nat) :
    (s.addJobFlag j i n src isl).get (Reg.JOB_FLAG.COUNT j i) = 0xFFFF ∧
      (s.addJobFlag j i n src isl).get (Reg.JOB_STATUS.FLAG_SAT_EVT j) = 1 := by
  have heq : s.addJobFlag j i n src isl = ((s.put (Reg.JOB_FLAG.COUNT j i) 0xFFFF).put (Reg.JOB_STATUS.FLAG_SAT_EVT j) 1).trace
      isl 0x0150 (some j) (i + src * 256) := by
    simp [State.addJobFlag, Nat.not_le.mpr h]
  have hrec := (Recorded.refl traceKey ((s.put (Reg.JOB_FLAG.COUNT j i) 0xFFFF).put (Reg.JOB_STATUS.FLAG_SAT_EVT j) 1)).trace
    traceKeys_traceKey (job := some j) (by simpa using hj) isl 0x0150 (i + src * 256)
  have hcount : ¬ traceKey (Reg.JOB_FLAG.COUNT j i).key := by
    simp [traceKey, Fld.key, Reg.JOB_FLAG.COUNT]
    omega
  have hevt : ¬ traceKey (Reg.JOB_STATUS.FLAG_SAT_EVT j).key := by
    simp [traceKey, Fld.key, Reg.JOB_STATUS.FLAG_SAT_EVT]
    omega
  have hne : (Reg.JOB_FLAG.COUNT j i).key ≠ (Reg.JOB_STATUS.FLAG_SAT_EVT j).key := by
    simp [Fld.key, Reg.JOB_FLAG.COUNT, Reg.JOB_STATUS.FLAG_SAT_EVT]
    omega
  rw [heq, hrec.regs _ hcount, hrec.regs _ hevt, State.get_put_ne _ _ _ _ hne, State.get_put_same, State.get_put_same]
  exact ⟨rfl, rfl⟩

/-! ## Retirement (R62, R63, R65) -/

/-- A context that is not blocked and has no mark pending may be at its curtain point, and nothing else is tested. -/
theorem State.testCtx_of_idle {s : State} {g c : Nat} (hb : (s.ctxOf g c).block = none) (hm : (s.ctxOf g c).mark = none) :
    s.testCtx g c = s.noteCurtain g c := by
  simp [State.testCtx, hb, hm]

theorem State.noteCurtain_queue (s : State) (g c e : Nat) : (s.noteCurtain g c).queue g c e = s.queue g c e := by
  unfold State.noteCurtain
  split
  · split <;> rfl
  · rfl

theorem State.noteCurtain_qdepth (s : State) (g c e : Nat) :
    (s.noteCurtain g c).get (qdepthFld g c e) = s.get (qdepthFld g c e) := by
  have hne : (qdepthFld g c e).key ≠ (Reg.CTX_STATUS.STATE g c).key := by
    have := qdepthFld_lo g c e
    simp only [Fld.key, qdepthFld_off, Reg.CTX_STATUS.STATE]
    omega
  unfold State.noteCurtain
  split
  · split
    · exact State.get_put_ne _ _ _ _ hne
    · rfl
  · rfl

/-- The state in which an entry has just left the front of its queue: `QDEPTH` one lower, and one fewer to wait for. -/
def State.headFreed (s : State) (g c e : Nat) : State :=
  let u := (s.setQueue g c e (s.queue g c e).tail).put (qdepthFld g c e) (s.get (qdepthFld g c e) - 1)
  let x := s.ctxOf g c
  u.setCtx g c { x with
    mark := x.mark.map (countDown e), arriveLeft := x.arriveLeft.map (countDown e)
    tokens := x.tokens.map (fun t => { t with older := countDown e t.older, left := t.left.map (countDown e) }) }

theorem State.retireHead_eq (s : State) (g c e : Nat) (q : QEntry) : s.retireHead g c e q =
    if wSV q.word then ((s.headFreed g c e).testCtx g c).signalFlag g c (wSFlag q.word) 1
    else (s.headFreed g c e).testCtx g c := rfl

/-- A retired head that signals no flag, of a context that waits for nothing. -/
theorem State.retireHead_idle {s : State} {g c e : Nat} {q : QEntry} (hq : q.word = 0) (hb : (s.ctxOf g c).block = none)
    (hm : (s.ctxOf g c).mark = none) :
    (s.retireHead g c e q).queue g c e = (s.queue g c e).tail ∧
      (s.retireHead g c e q).get (qdepthFld g c e) = (s.get (qdepthFld g c e) - 1) % 2 ^ 5 := by
  have hsv : wSV q.word = false := by simp [hq, wSV, fbits, bits]
  have hb' : ((s.headFreed g c e).ctxOf g c).block = none := by simpa [State.headFreed] using hb
  have hm' : ((s.headFreed g c e).ctxOf g c).mark = none := by simp [State.headFreed, hm]
  rw [State.retireHead_eq, hsv, if_neg (by simp), State.testCtx_of_idle hb' hm', State.noteCurtain_queue,
    State.noteCurtain_qdepth]
  constructor
  · simp [State.headFreed, State.queue, State.setQueue, State.put, State.setCtx]
  · simp [State.headFreed, qdepthFld_w]

end Sys2Proof.Machine

namespace Sys2Proof.Proofs
open Sys2Proof.Machine

/-- Settles O13: the write is the setting of the mask or its rejection, and the mask and the job's state are written last. -/
theorem bindAndUnbindComplete : Obligations.BindAndUnbindComplete := by
  unfold Obligations.BindAndUnbindComplete
  refine ⟨fun j m s hj hopen hcode => ?_, fun j m s hj hopen hcode => ?_, fun j s hj hopen => ⟨fun hready => ?_, fun hnot => ?_⟩⟩
  · refine ⟨?_, State.setMask_fields s j (Nat.mod_lt _ (by norm_num))⟩
    rw [exec_jobCtxMaskBind hopen hj, State.writeMask, if_pos hcode]
  · rw [exec_jobCtxMaskBind hopen hj, State.writeMask, if_neg hcode]
  · refine ⟨?_, State.setMask_fields s j (by norm_num)⟩
    simp [exec_jobCtxMaskUnbind hopen hj, State.writeMask, State.maskCode_zero, hready]
  · simp [exec_jobCtxMaskUnbind hopen hj, State.writeMask, State.maskCode_zero, hnot]

/-- Settles O15: the add is made, held or rejected, and a saturating one writes its count and its event before its record. -/
theorem hostFlagAddCompletes : Obligations.HostFlagAddCompletes := by
  unfold Obligations.HostFlagAddCompletes
  have hi (i : Nat) : i % 256 < 256 := Nat.mod_lt _ (by norm_num)
  refine ⟨fun j i n s hj hopen hdecl hfree hfits => ?_, fun j i n s hj hopen hdecl hheld => ?_, fun j i n s hj hopen hdecl => ?_,
    fun j i n src isl s hj hi hsat => State.addJobFlag_saturates hj hi hsat src isl, fun j i n s hj hopen hdecl hfree _ => ?_⟩
  · rw [exec_jobFlagAdd hopen hj, State.writeFlagAdd_declared hdecl, State.hostAdd_free hfree (hi i),
      State.addJobFlag_fits hfits]
  · rw [exec_jobFlagAdd hopen hj, State.writeFlagAdd_declared hdecl, State.hostAdd_held hheld]
  · rw [exec_jobFlagAdd hopen hj, State.writeFlagAdd_undeclared hdecl]
  · rw [exec_jobFlagAdd hopen hj, State.writeFlagAdd_declared hdecl, State.hostAdd_free hfree (hi i)]

/-- Settles O16: each event is the branch of its meaning that the hypotheses choose. -/
theorem waitsAndRetirementsComplete : Obligations.WaitsAndRetirementsComplete := by
  unfold Obligations.WaitsAndRetirementsComplete
  refine ⟨fun g c e f b q s hg hc he hfront hwait hnext => ?_, fun g c e q s hg hc he hbound htmo => ?_,
    fun g c f n t b s hg hc ht hblock => ?_, fun j f p rest s hj hf => ⟨fun hctxs => ?_, fun hctxs => ?_⟩,
    fun g c e cx q s hg hc he hcx hold hbegun => ⟨fun c' cx' q' k v herr => ?_, fun hend => ?_⟩,
    fun g c e cx q s hold => ⟨fun hbegun hdone => ?_, fun hdone => ?_⟩,
    fun g c e cx q q' s u hq hu => ⟨fun hall => ?_, fun hall => ?_⟩,
    fun g c e q s _ _ _ hq hb hm => State.retireHead_idle hq hb hm⟩
  · show execEngineWaitSatisfied g c e s = _
    simp [execEngineWaitSatisfied, State.waitDone, hg, hc, he, hfront, hwait, hnext]
  · show execEngineWaitTimeout g c e s = _
    simp [execEngineWaitTimeout, hg, hc, he, hbound, htmo]
  · show execFwaitTimeout g c s = _
    rcases hblock with hblock | hblock <;> simp [execFwaitTimeout, hg, hc, hblock, blockTmo, ht]
  · show execFlagSignalVisible j f s = _
    simp [execFlagSignalVisible, hj, hf, hctxs]
  · show execFlagSignalVisible j f s = _
    simp [execFlagSignalVisible, hj, hf, hctxs]
  · show execEngineOpRetire g c e cx s = _
    simp [execEngineOpRetire, State.opRetire, hg, hc, he, hcx, hold, hbegun, herr]
  · show execEngineOpRetire g c e cx s = _
    rcases hend with hend | hend <;>
      simp [execEngineOpRetire, State.opRetire, hg, hc, he, hcx, hold, hbegun, hend]
  · simp [State.endOldest, hold, hbegun, hdone]
  · simp [State.endOldest, hold, hdone]
  · subst hq hu
    simp [State.retireCore, hall]
  · subst hq hu
    simp [State.retireCore, hall]

/-- Settles O17: each event is the branch of its meaning that the hypotheses choose. -/
theorem cyclesStopsAndDrainsComplete : Obligations.CyclesStopsAndDrainsComplete := by
  unfold Obligations.CyclesStopsAndDrainsComplete
  refine ⟨fun j s hj hcycle => ?_, fun j s hj hstate => ?_, fun g c s u hg hc hstate hdrained hu => ?_⟩
  · show execWaitCycle j s = _
    simp [execWaitCycle, hj, hcycle]
  · show execJobStopIdle j s = _
    simp [execJobStopIdle, hj, hstate]
  · have hexec : exec (.contextDrainDone g c) s = .next (s.ctxDone g c) := by
      show execContextDrainDone g c s = _
      simp [execContextDrainDone, hg, hc, hstate, hdrained]
    subst hu
    refine ⟨fun hall => ?_, fun hall => ?_⟩
    · rw [hexec, State.ctxDone]
      simp only [hall, Bool.false_eq_true, if_false]
    · rw [hexec, State.ctxDone]
      simp only [hall, if_true]

end Sys2Proof.Proofs
end

section
/-! Events of the array and the vector engines: each is the branch of its meaning that its conditions choose (R133 to R157,
R216, R234 to R240, R254, R316, R320). -/

namespace Sys2Proof.Machine

/-! ## Rows, replays and loads -/

theorem exec_iterationRetire {g c cx : Nat} (hg : g < 24) (hc : c < 2) (hcx : cx < 16) (s : State) :
    exec (.iterationRetire g c cx) s = .next (s.iterRetire (s.at g c cx)) := by
  show execIterationRetire g c cx s = _
  simp [execIterationRetire, hg, hc, hcx]

/-- The oldest tile step whose rows may be written is written; where it ends, it retires. -/
theorem State.iterRetire_of_oldest {s u : State} {x : At} {st : TileStep} {q : QEntry} (hu : s.feed x.g = u)
    (hold : u.oldestStep x = some (st, q)) (hspill : st.spilled = false) (hon : st.p.m = 0 ∨ u.drumOn x = true) :
    ((u.writeStep x q st).2.2 = .done → s.iterRetire x = (u.writeStep x q st).1.stepRetires x (u.writeStep x q st).2.1 q) ∧
    ((u.writeStep x q st).2.2 ≠ .done → s.iterRetire x = rowsEnded x q (u.writeStep x q st)) := by
  have hmay : (st.spilled || !(st.p.m = 0 || u.drumOn x)) = false := by
    rcases hon with hon | hon <;> simp [hspill, hon]
  simp only [State.iterRetire, hu, hold, hmay, Bool.false_eq_true, if_false]
  generalize u.writeStep x q st = r
  obtain ⟨t, st', _ | col | ⟨k, v⟩⟩ := r <;> simp

theorem exec_accOverflowReplay {g c cx : Nat} (hg : g < 24) (hc : c < 2) (hcx : cx < 16) (s : State) :
    exec (.accOverflowReplay g c cx) s = .next (s.overflowReplay (s.at g c cx)) := by
  show execAccOverflowReplay g c cx s = _
  simp [execAccOverflowReplay, hg, hc, hcx]

/-- A step with an overflowed row stands as it is until it replays. -/
theorem State.spillOf_spilled {s : State} {x : At} {st : TileStep} {q : QEntry} (h : st.spilled = true) :
    s.spillOf x st q = (s, st, .spill 0) := by
  simp [State.spillOf, h]

theorem exec_weightLoadDone {g c cx : Nat} (hg : g < 24) (hc : c < 2) (hcx : cx < 16) (s : State) :
    exec (.weightLoadDone g c cx) s = .next (s.loadDone (s.at g c cx)) := by
  show execWeightLoadDone g c cx s = _
  simp [execWeightLoadDone, hg, hc, hcx]

/-! ## The Drumroll -/

theorem exec_drumrollRise {g h : Nat} {s : State} (hg : g < 24) (hh : h < 2) (hhalf : h = 0 ∨ s.isSplit g = true) :
    exec (.drumrollRise g h) s = .next (s.drumRise g h) := by
  show execDrumrollRise g h s = _
  rcases hhalf with rfl | hsplit
  · simp [execDrumrollRise, hg]
  · simp [execDrumrollRise, hg, hh, hsplit]

theorem drumState_key (g cx h : Nat) : ∃ b < 4, (drumState g cx h).key = (0x1100208 + g * 0x200000 + cx * 0x10000) * 64 + b := by
  unfold drumState
  split
  · exact ⟨0, by decide, by simp [Fld.key, Reg.ARR_STATUS.STATE0]⟩
  · exact ⟨2, by decide, by simp [Fld.key, Reg.ARR_STATUS.STATE1]⟩

theorem drumLevel_key (g cx h : Nat) : ∃ b, 8 ≤ b ∧ b < 16 ∧
    (drumLevel g cx h).key = (0x1100208 + g * 0x200000 + cx * 0x10000) * 64 + b := by
  unfold drumLevel
  split
  · exact ⟨8, by decide, by decide, by simp [Fld.key, Reg.ARR_STATUS.LEVEL0]⟩
  · exact ⟨12, by decide, by decide, by simp [Fld.key, Reg.ARR_STATUS.LEVEL1]⟩

theorem drumState_w (g cx h : Nat) : (drumState g cx h).w = 2 := by
  unfold drumState
  split <;> rfl

/-- The level of a core is no half's state. -/
theorem drumState_key_ne_drumLevel (g cx cx' h : Nat) : (drumState g cx h).key ≠ (drumLevel g cx' h).key := by
  obtain ⟨a, ha, hs⟩ := drumState_key g cx h
  obtain ⟨b, hb, hb', hl⟩ := drumLevel_key g cx' h
  omega

/-- The count of rises is no half's state. -/
theorem drumState_key_ne_rises (g cx cx' h : Nat) : (drumState g cx h).key ≠ (Reg.ARR_RISES.N g cx').key := by
  obtain ⟨a, ha, hs⟩ := drumState_key g cx h
  simp only [Fld.key, Reg.ARR_RISES.N] at hs ⊢
  omega

theorem drumState_key_inj {g cx cx' h : Nat} (hne : cx ≠ cx') : (drumState g cx h).key ≠ (drumState g cx' h).key := by
  obtain ⟨a, ha, hs⟩ := drumState_key g cx h
  obtain ⟨b, hb, hs'⟩ := drumState_key g cx' h
  omega

/-- A half that begins RISE is in RISE; one that is not down stays as it is. -/
theorem State.get_drumState_beginRise_same (s : State) (g cx h : Nat) : (s.beginRise g cx h).get (drumState g cx h) =
    if s.get (drumState g cx h) = 0 ∨ s.get (drumState g cx h) = 3 then 1 else s.get (drumState g cx h) := by
  unfold State.beginRise
  by_cases hdown : s.get (drumState g cx h) = 0 ∨ s.get (drumState g cx h) = 3
  · rw [if_pos hdown, if_pos (by simpa using hdown), State.inc, State.get_put_ne _ _ _ _ (drumState_key_ne_rises g cx cx h),
      State.get_put_ne _ _ _ _ (drumState_key_ne_drumLevel g cx cx h), State.get_put_same, drumState_w]
    rfl
  · rw [if_neg hdown, if_neg (by simpa using hdown)]

theorem State.get_drumState_beginRise_ne (s : State) {g cx cx' : Nat} (h : Nat) (hne : cx ≠ cx') :
    (s.beginRise g cx' h).get (drumState g cx h) = s.get (drumState g cx h) := by
  unfold State.beginRise
  dsimp only
  split
  · rw [State.inc, State.get_put_ne _ _ _ _ (drumState_key_ne_rises g cx cx' h),
      State.get_put_ne _ _ _ _ (drumState_key_ne_drumLevel g cx cx' h), State.get_put_ne _ _ _ _ (drumState_key_inj hne)]
  · rfl

/-- The half of a core is neither OFF nor in FALL. -/
def State.risen (s : State) (g cx h : Nat) : Prop := s.get (drumState g cx h) ≠ 0 ∧ s.get (drumState g cx h) ≠ 3

theorem State.risen_beginRise_same (s : State) (g cx h : Nat) : (s.beginRise g cx h).risen g cx h := by
  unfold State.risen
  rw [State.get_drumState_beginRise_same]
  split <;> omega

theorem State.risen_beginRise {s : State} {g cx h : Nat} (hs : s.risen g cx h) (cx' : Nat) :
    (s.beginRise g cx' h).risen g cx h := by
  by_cases hne : cx = cx'
  · subst hne
    exact s.risen_beginRise_same g cx h
  · unfold State.risen
    rw [State.get_drumState_beginRise_ne s h hne]
    exact hs

theorem State.risen_foldl_beginRise (g h : Nat) (cs : List Nat) {s : State} {cx : Nat} (hs : s.risen g cx h ∨ cx ∈ cs) :
    (cs.foldl (fun t cx => t.beginRise g cx h) s).risen g cx h := by
  induction cs generalizing s with
  | nil => simpa using hs
  | cons a cs ih =>
    apply ih
    rcases hs with hs | hs
    · exact .inl (State.risen_beginRise hs a)
    · rcases List.mem_cons.mp hs with rfl | hs
      · exact .inl (s.risen_beginRise_same g cx h)
      · exact .inr hs

/-- From one state to another only registers have changed. -/
def State.onlyRegs (s t : State) : Prop := ∃ r, t = { s with regs := r }

theorem State.onlyRegs_beginRise {s t : State} (h : s.onlyRegs t) (g cx hf : Nat) : s.onlyRegs (t.beginRise g cx hf) := by
  have hrise : t.onlyRegs (t.beginRise g cx hf) := by
    unfold State.beginRise
    dsimp only
    split
    · exact ⟨_, rfl⟩
    · exact ⟨_, rfl⟩
  obtain ⟨r, rfl⟩ := h
  obtain ⟨r', hr'⟩ := hrise
  exact ⟨r', hr'⟩

theorem State.onlyRegs_foldl_beginRise (g h : Nat) (cs : List Nat) {s t : State} (hs : s.onlyRegs t) :
    s.onlyRegs (cs.foldl (fun t cx => t.beginRise g cx h) t) := by
  induction cs generalizing t with
  | nil => exact hs
  | cons a cs ih => exact ih (State.onlyRegs_beginRise hs g a h)

/-- In a start slot of its troupe, with a core down, every core of the context rises (R149, R150). -/
theorem State.drumRise_inSlot {s : State} {g h c : Nat} {q : QEntry} (hfor : s.riseFor g h = some (c, q))
    (hdown : ∃ cx ∈ s.coresOf g c, s.get (drumState g (s.view g cx).cx h) = 0 ∨ s.get (drumState g (s.view g cx).cx h) = 3)
    (hslot : s.stamp (rmIsland g) % 288 / 12 = g) :
    s.onlyRegs (s.drumRise g h) ∧ ∀ cx ∈ s.coresOf g c, (s.drumRise g h).risen g (s.view g cx).cx h := by
  have hany : ((s.coresOf g c).map (fun cx => (s.view g cx).cx)).any
      (fun cx => s.get (drumState g cx h) = 0 || s.get (drumState g cx h) = 3) = true := by
    obtain ⟨cx, hmem, hcx⟩ := hdown
    simp only [List.any_map, List.any_eq_true]
    exact ⟨cx, hmem, by simpa using hcx⟩
  simp only [State.drumRise, hfor, hany, inSlot, hslot, decide_true, Bool.and_self, if_true]
  refine ⟨State.onlyRegs_foldl_beginRise g h _ ?_, fun cx hmem => State.risen_foldl_beginRise g h _ (.inr ?_)⟩
  · split <;> exact ⟨_, rfl⟩
  · exact List.mem_map_of_mem hmem

theorem State.drumRise_outside {s : State} {g h : Nat} (hslot : s.stamp (rmIsland g) % 288 / 12 ≠ g) : s.drumRise g h = s := by
  unfold State.drumRise
  split
  · rfl
  · simp [inSlot, hslot]

/-! ## Carry records (R237, R239, R240) -/

/-- The state in which a finished round's record stands in the downstream ring. -/
def State.carryPushed (s : State) (g c : Nat) (q : QEntry) : State :=
  let d := s.downOf g c
  ({ ((s.setRing d.1 d.2 (s.ring d.1 d.2 ++ [s.carryRecord g c q])).put (Reg.RM_PARADE.RING_OCC d.1 d.2)
      ((s.ring d.1 d.2).length + 1)) with
    pushSeq := Tab.set 0 s.pushSeq (2 * g + c) (((s.carryRecord g c q).seq + 1) % 2 ^ 16) } : State).setEntry
      g c 2 { q with pushed := true }

/-- A record that is due goes to a ring with room, with the signal that the ring's context asks for. -/
theorem State.carryPush_of_due {s : State} {g c : Nat} {q : QEntry} (hhead : s.paradeHead g c = some q)
    (hpush : s.pushDue g c q = true) (hroom : (s.ring (s.downOf g c).1 (s.downOf g c).2).length < 4) :
    s.carryPush g c =
      if (s.carryPushed g c q).get (Reg.RM_PARADE.UP_FLAG (s.downOf g c).1 (s.downOf g c).2) = 0 then s.carryPushed g c q
      else (s.carryPushed g c q).addJobFlag ((s.carryPushed g c q).jobOf g c)
        ((s.carryPushed g c q).get (Reg.RM_PARADE.UP_FLAG (s.downOf g c).1 (s.downOf g c).2) - 64) 1 3 (rmIsland g) := by
  unfold State.carryPush
  rw [hhead]
  exact if_pos (by simp [hpush, hroom])

/-! ## `ARR_CFG` -/

theorem exec_arrCfgNarrow {g cx : Nat} {s : State} (hg : g < 24) (hcx : cx < 16) (hopen : s.Open) (v : Nat) :
    exec (.arrCfgNarrow g cx v) s =
      .next (s.atIsland (coreOff g cx 0x200) v (fun u => u.writeArrCfg g cx v)) := by
  show execArrCfgNarrow g cx v s = _
  simp [execArrCfgNarrow, hg, hcx, State.barWrite_open hopen]

theorem State.atIsland_held {s : State} {off : Nat} (h : s.accessHeld off = true) (v : Nat) (f : State → State) :
    s.atIsland off v f = s.pushWord off { off := off, val := v } := by
  simp [State.atIsland, h]

theorem State.atIsland_free {s : State} {off : Nat} (h : s.accessHeld off = false) (v : Nat) (f : State → State) :
    s.atIsland off v f = f s := by
  simp [State.atIsland, h]

/-- A `LINGER` out of range comes before the state, and another `NARROW` needs the array aside (R156, R157). -/
theorem State.arrCfgCode_eq (s : State) (g cx v : Nat) : s.arrCfgCode g cx v =
    if bits v 0 16 < 64 ∨ 4096 < bits v 0 16 then 0x06
    else if bits v 16 1 = s.get (Reg.ARR_CFG.NARROW g cx) ∨ (s.get (drumState g cx 0) = 0 ∧ s.get (drumState g cx 1) = 0 ∧
      s.ctxAside g 0 = true ∧ s.ctxAside g 1 = true) then 0 else 0x04 := by
  unfold State.arrCfgCode
  by_cases hlinger : bits v 0 16 < 64 ∨ 4096 < bits v 0 16
  · have hout : (decide (64 ≤ bits v 0 16) && decide (bits v 0 16 ≤ 4096)) = false := by
      simp
      omega
    simp [hout, hlinger]
  · have hin : (decide (64 ≤ bits v 0 16) && decide (bits v 0 16 ≤ 4096)) = true := by
      simp
      omega
    simp [hin, hlinger, and_assoc]

end Sys2Proof.Machine

namespace Sys2Proof.Proofs
open Sys2Proof.Machine

/-- Settles O18: each event is the branch of its meaning that the hypotheses choose; in a slot the cores rise one after
another, each leaving those before it risen. -/
theorem arrayEventsComplete : Obligations.ArrayEventsComplete := by
  unfold Obligations.ArrayEventsComplete
  refine ⟨fun g c cx x q st s u hg hc hcx hx hu hold hspill hon => ?_, fun g c cx x q st s u hg hc hcx hx hu hold => ?_,
    fun g c cx k n x q s u hg hc hcx hx hu hload => ?_, fun g cx s hg hcx hcross => ?_,
    fun g cx c s hg hcx hown hidle0 hidle1 => ?_, fun g h c q s hg hh hhalf hfor hdown => ⟨fun hslot => ?_, fun hslot => ?_⟩,
    fun g cx h s hg hcx hh => ?_⟩
  · have hgx : x.g = g := by rw [hx]; rfl
    obtain ⟨hdone, hnot⟩ := State.iterRetire_of_oldest (s := s) (by rw [hgx, hu]) hold hspill hon
    rw [exec_iterationRetire hg hc hcx, ← hx]
    exact ⟨fun h => by rw [hdone h], fun h => by rw [hnot h]⟩
  · have hgx : x.g = g := by rw [hx]; rfl
    rw [exec_accOverflowReplay hg hc hcx, ← hx]
    refine ⟨fun hspill => ?_, fun hend => ?_, fun k v hend => ?_, fun col hspill hend => ?_⟩
    · simp only [State.overflowReplay, hgx, ← hu, hold, State.spillOf_spilled hspill]
    · simp only [State.overflowReplay, hgx, ← hu, hold, hend]
    · simp only [State.overflowReplay, hgx, ← hu, hold, hend]
    · simp only [State.overflowReplay, hgx, ← hu, hold, hend]
  · have hgx : x.g = g := by rw [hx]; rfl
    have hcx' : x.c = c := by rw [hx]; rfl
    have hcxx : x.cx = cx := by rw [hx]; rfl
    rw [exec_weightLoadDone hg hc hcx, ← hx]
    refine ⟨fun t ht => ?_, fun e he => ?_⟩
    · simp only [State.loadDone, hgx, ← hu, hload, ht, hcx', hcxx]
    · simp only [State.loadDone, hgx, ← hu, hload, he]
  · show execLatchRewrite g cx s = _
    simp [execLatchRewrite, hg, hcx, Nat.not_lt.mpr hcross]
  · show execSharedModeCopy g cx s = _
    simp [execSharedModeCopy, hg, hcx, hown, hidle0, hidle1]
  · obtain ⟨hregs, hrisen⟩ := State.drumRise_inSlot hfor hdown hslot
    refine ⟨s.drumRise g h, exec_drumrollRise hg hh hhalf, ?_⟩
    refine ⟨?_, ?_, ?_, hrisen⟩ <;> obtain ⟨r, hr⟩ := hregs <;> rw [hr]
  · rw [exec_drumrollRise hg hh hhalf, State.drumRise_outside hslot]
  · have hstep : exec (.drumrollLevelStep g cx h) s = .next ((s.drumStep g cx h).feed g) := by
      show execDrumrollLevelStep g cx h s = _
      simp [execDrumrollLevelStep, hg, hcx, hh]
    refine ⟨fun hst hl => ?_, fun hst hl => ?_, fun hst hl => ?_, fun hst hl => ?_, fun hst => ?_⟩
    · rw [hstep]
      simp [State.drumStep, hst, hl]
    · rw [hstep]
      simp [State.drumStep, hst, Nat.not_lt.mpr hl]
    · rw [hstep]
      simp [State.drumStep, hst, Nat.not_le.mpr hl]
    · rw [hstep]
      simp [State.drumStep, hst, hl]
    · show execDrumrollFall g cx h s = _
      simp [execDrumrollFall, hg, hcx, hh, hst]

/-- Settles O19: the fence and the write are the branches of their meanings, the write by the code of its checks. -/
theorem fencesAndArrayConfiguration : Obligations.FencesAndArrayConfiguration := by
  unfold Obligations.FencesAndArrayConfiguration
  refine ⟨fun g h j s hg hh hsplit hjob hstate => ?_, fun g h s hg hh hsplit => ?_, fun g cx v s hg hcx hopen hheld => ?_,
    fun g cx v s hg hcx hopen hfree hlo hhi hnarrow => ?_, fun g cx v s hg hcx hopen hfree => ⟨fun hlinger => ?_,
      fun hlo hhi hchange hbusy => ?_⟩⟩
  · show execHalfFence g h false s = _
    rcases hstate with hstate | hstate <;> simp [execHalfFence, State.halfFence, hg, hh, hsplit, hjob, hstate]
  · show execHalfFence g h true s = _
    simp [execHalfFence, State.halfFence, hg, hh, hsplit]
  · rw [exec_arrCfgNarrow hg hcx hopen, State.atIsland_held hheld]
  · have hcode : s.arrCfgCode g cx v = 0 := by
      rw [State.arrCfgCode_eq, if_neg (by omega), if_pos hnarrow]
    rw [exec_arrCfgNarrow hg hcx hopen, State.atIsland_free hfree, State.writeArrCfg, hcode]
    rfl
  · have hcode : s.arrCfgCode g cx v = 0x06 := by rw [State.arrCfgCode_eq, if_pos hlinger]
    rw [exec_arrCfgNarrow hg hcx hopen, State.atIsland_free hfree, State.writeArrCfg, hcode]
    rfl
  · have hcode : s.arrCfgCode g cx v = 0x04 := by
      rw [State.arrCfgCode_eq, if_neg (by omega), if_neg (by simp only [hchange, false_or]; exact hbusy)]
    rw [exec_arrCfgNarrow hg hcx hopen, State.atIsland_free hfree, State.writeArrCfg, hcode]
    rfl

/-- Settles O20: each event is the branch of its meaning that the hypotheses choose. -/
theorem streamAndParadeEventsComplete : Obligations.StreamAndParadeEventsComplete := by
  unfold Obligations.StreamAndParadeEventsComplete
  refine ⟨fun g c cx stall raw x q s hg hc hcx hx hentry => ?_,
    fun g c k q q' x r s hg hc hhead hleft hpush hpop hk hbegun hx hr hq' => ?_,
    fun g c f q d s u hg hc hhead hd hpush hroom hu hf => ?_,
    fun g c q r rest s hg hc hhead hring hpop => ⟨fun hkind => ?_, fun hkind => ?_⟩,
    fun g c cx q s hg hc hhead hwait htmo => ?_⟩
  · have hexec : exec (.streamChunkAdvance g c cx stall raw) s = .next (s.chunkAdvance (s.at g c cx) stall raw) := by
      show execStreamChunkAdvance g c cx stall raw s = _
      simp [execStreamChunkAdvance, hg, hc, hcx]
    have hgx : x.g = g := by rw [hx]; rfl
    have hcx' : x.c = c := by rw [hx]; rfl
    have hcxx : x.cx = cx := by rw [hx]; rfl
    rw [hexec, ← hx]
    refine ⟨fun hmid => ?_, fun k q' hmid hk hend hentry' => ⟨fun u q'' hrun hentry'' => ?_, fun u hrun => ?_,
      fun u a v hrun => ?_⟩⟩
    · simp [State.chunkAdvance, hentry, hgx, hcx', hcxx, hmid, State.countChunk]
    · subst hk
      rcases hend with hend | hend <;>
        simp [State.chunkAdvance, hentry, hgx, hcx', hcxx, hmid, hend, hentry', hrun, hentry'']
    · subst hk
      rcases hend with hend | hend <;> simp [State.chunkAdvance, hentry, hgx, hcx', hcxx, hmid, hend, hentry', hrun]
    · subst hk
      rcases hend with hend | hend <;> simp [State.chunkAdvance, hentry, hgx, hcx', hcxx, hmid, hend, hentry', hrun]
  · have hexec : exec (.paradeHop g c) s = .next (s.paradeHop g c) := by
      show execParadeHop g c s = _
      simp [execParadeHop, hg, hc]
    subst hq' hr hx hk
    have hgo : (decide (s.itersOf g c q * (s.coresOf g c).length ≤ q.hop) || s.pushDue g c q || s.popDue g c q ||
        !q.begunIn ((s.coresOf g c).getD (q.hop % (s.coresOf g c).length) 0)) = false := by
      simp only [hpush, hpop, hbegun, Nat.not_le.mpr hleft, decide_false, Bool.or_false, Bool.not_true]
    rw [hexec]
    refine ⟨fun hmore => ?_, fun hlast => ?_⟩
    · simp only [State.paradeHop, hhead, hgo, Bool.false_eq_true, if_false, if_neg hmore]
    · simp only [State.paradeHop, hhead, hgo, Bool.false_eq_true, if_false, if_pos hlast]
  · have hexec : exec (.carryRecordPush g c) s = .next (s.carryPush g c) := by
      show execCarryRecordPush g c s = _
      simp [execCarryRecordPush, hg, hc]
    have hu' : u = s.carryPushed g c q := by rw [hu, hd]; rfl
    rw [hd] at hroom hf
    rw [hu'] at hf ⊢
    rw [hexec, State.carryPush_of_due hhead hpush hroom, ← hf]
    exact ⟨fun hnone => by rw [if_pos hnone], fun hflag => by rw [if_neg hflag]⟩
  · show execCarryRecordPop g c s = _
    simp [execCarryRecordPop, State.carryPop, hg, hc, hhead, hring, hpop, hkind]
  · show execCarryRecordPop g c s = _
    simp [execCarryRecordPop, State.carryPop, hg, hc, hhead, hring, hpop, hkind, State.at]
  · show execCarryRingTimeout g c s = _
    simp [execCarryRingTimeout, hg, hc, hhead, hwait, htmo]

/-- Settles O21: each event is the branch of its meaning that the hypotheses choose. -/
theorem imagesAndTransfersComplete : Obligations.ImagesAndTransfersComplete := by
  unfold Obligations.ImagesAndTransfersComplete
  refine ⟨fun g c cx q s hg hc hcx hbegun hdone => ?_, fun g c cx x q s hg hc hcx hx hentry => ?_⟩
  · have hexec : exec (.tloadImageArrive g c cx) s = .next (s.imageArrive (s.at g c cx)) := by
      show execTloadImageArrive g c cx s = _
      simp [execTloadImageArrive, hg, hc, hcx]
    rw [hexec]
    refine ⟨fun img himg => ?_, fun hnone => ?_⟩
    · simp [State.imageArrive, State.at, hbegun, hdone, himg, State.writeImage]
    · simp [State.imageArrive, State.at, hbegun, hdone, hnone]
  · have hexec (res : DmaResult) : exec (.dmaRequestComplete g c cx res) s = .next (s.dmaComplete x res) := by
      show execDmaRequestComplete g c cx res s = _
      simp [execDmaRequestComplete, hg, hc, hcx, hx]
    have hgx : x.g = g := by rw [hx]; rfl
    have hcx' : x.c = c := by rw [hx]; rfl
    have hcxx : x.cx = cx := by rw [hx]; rfl
    refine ⟨fun hend => ?_, fun c' cx' q' k v hend => ?_, fun a hhost => ?_, fun i => ?_⟩
    · rw [hexec]
      rcases hend with hend | hend <;> simp [State.dmaComplete, State.transferDone, hentry, hgx, hcx', hcxx, hend]
    · rw [hexec]
      simp [State.dmaComplete, State.transferDone, hentry, hgx, hcx', hcxx, hend]
    · rw [hexec]
      simp [State.dmaComplete, hentry, hgx, hcx', hhost]
    · rw [hexec]
      simp [State.dmaComplete, hentry, hgx, hcx']

end Sys2Proof.Proofs
end

section
/-! The scratchpad's errors and tests, and Carousel queues (R280 to R289, R297, R312, R348). -/

namespace Sys2Proof.Machine

/-! ## Registers outside a set -/

/-- From state r to state s no register outside a set has changed. -/
def KeepsRegs (K : Nat → Prop) (r s : State) : Prop := ∀ f : Fld, ¬ K f.key → s.get f = r.get f

section
variable {K : Nat → Prop} {r s t : State}

theorem KeepsRegs.refl (K : Nat → Prop) (s : State) : KeepsRegs K s s := fun _ _ => rfl

theorem KeepsRegs.put (h : KeepsRegs K r s) {f : Fld} (hf : K f.key) (v : Nat) : KeepsRegs K r (s.put f v) :=
  fun e he => (State.get_put_ne s f e v (fun hk => he (hk ▸ hf))).trans (h e he)

theorem KeepsRegs.congr (h : KeepsRegs K r s) (ht : t.regs = s.regs) : KeepsRegs K r t :=
  fun f hf => (by simp [State.get, ht] : t.get f = s.get f).trans (h f hf)

theorem KeepsRegs.foldl {α : Type} (f : State → α → State) (l : List α) (hs : KeepsRegs K r s)
    (hf : ∀ t a, KeepsRegs K r t → KeepsRegs K r (f t a)) : KeepsRegs K r (l.foldl f s) := by
  induction l generalizing s with
  | nil => exact hs
  | cons a l ih => exact ih (hf s a hs)

theorem KeepsRegs.ite {c : Prop} [Decidable c] (h : KeepsRegs K r s) (k : KeepsRegs K r t) :
    KeepsRegs K r (if c then s else t) := by split <;> assumption

end

/-! ## The registers that a job's write to device memory can change (R347, R400, R401, R410) -/

/-- The access counters, whose stack number has no bound, and the Safety Net's account of first touches. -/
def writeKey (k : Nat) : Prop :=
  (0xC01000 * 64 ≤ k ∧ k % 64 = 0) ∨ ∃ j, k = (Reg.SN_JOB_STATUS.INCOMPLETE j).key ∨ k = (Reg.SN_JOB_STATUS.LOG_OVF j).key ∨
    k = (Reg.SN_COW_GRANULES.N j).key

theorem State.setMemBytes_regs (s : State) (a : Nat) (l : List Byte) : (s.setMemBytes a l).regs = s.regs := by
  induction l generalizing s a with
  | nil => rfl
  | cons b l ih => exact ih _ _

section
variable {r s : State}

theorem KeepsRegs.countMem (h : KeepsRegs writeKey r s) (a n : Nat) (w : Bool) : KeepsRegs writeKey r (s.countMem a n w) := by
  have hddr (n : Nat) : writeKey (Reg.DDR_WR.N n).key ∧ writeKey (Reg.DDR_RD.N n).key := by
    constructor <;> left <;> simp [Fld.key, Reg.DDR_WR.N, Reg.DDR_RD.N] <;> omega
  have hhbm (n : Nat) : writeKey (Reg.HBM_WR.N n).key ∧ writeKey (Reg.HBM_RD.N n).key := by
    constructor <;> left <;> simp [Fld.key, Reg.HBM_WR.N, Reg.HBM_RD.N] <;> omega
  unfold State.countMem
  cases w <;> dsimp only <;> split
  · exact h.put (hddr _).2 _
  · exact h.put (hhbm _).2 _
  · exact h.put (hddr _).1 _
  · exact h.put (hhbm _).1 _

theorem KeepsRegs.copyMem (h : KeepsRegs writeKey r s) (a b n : Nat) : KeepsRegs writeKey r (s.copyMem a b n) := by
  have hmem : KeepsRegs writeKey r { s with mem := Tab.putSlice s.mem b n (Tab.slice s.mem a n) } := h.congr rfl
  exact (hmem.countMem _ _ _).countMem _ _ _

theorem KeepsRegs.copyGranules (h : KeepsRegs writeKey r s) (a b n : Nat) : KeepsRegs writeKey r (s.copyGranules a b n) := by
  unfold State.copyGranules
  refine KeepsRegs.foldl _ _ h (fun t g ht => ?_)
  split
  · exact ht.copyMem _ _ _
  · exact ht

theorem KeepsRegs.setMemNat (h : KeepsRegs writeKey r s) (a n v : Nat) : KeepsRegs writeKey r (s.setMemNat a n v) :=
  h.congr (State.setMemBytes_regs _ _ _)

theorem KeepsRegs.setPte (h : KeepsRegs writeKey r s) (j v : Nat) (p : Pte) : KeepsRegs writeKey r (s.setPte j v p) := by
  have hone (t : State) (ht : KeepsRegs writeKey r t) (root : Nat) : KeepsRegs writeKey r (match t.entryAt root v with
      | some a => ((t.setMemNat a 8 p.w0).setMemNat (a + 8) 8 p.w1).countMem a 16 true
      | none => t) := by
    split
    · exact ((ht.setMemNat _ _ _).setMemNat _ _ _).countMem _ _ _
    · exact ht
  exact hone _ (hone _ h _) _

theorem KeepsRegs.logFill (h : KeepsRegs writeKey r s) (j v : Nat) : KeepsRegs writeKey r (s.logFill j v) := by
  have hlog (half i : Nat) : KeepsRegs writeKey r (s.writeLog j half i v) := by
    unfold State.writeLog
    dsimp only
    split
    · exact h
    · exact (h.setMemNat _ _ _).countMem _ _ _
  unfold State.logFill
  dsimp only
  split
  · exact (hlog _ _).congr rfl
  · exact h.put (.inr ⟨j, .inr (.inl rfl)⟩) 1

theorem State.noteMigration_regs (s : State) (j v g : Nat) : (s.noteMigration j v g).regs = s.regs := by
  unfold State.noteMigration
  split
  · split <;> rfl
  · rfl

theorem KeepsRegs.noteCopied (h : KeepsRegs writeKey r s) (j v set : Nat) : KeepsRegs writeKey r (s.noteCopied j v set) := by
  unfold State.noteCopied
  refine KeepsRegs.foldl _ _ h (fun t g ht => ?_)
  split
  · exact ht.congr (State.noteMigration_regs _ _ _ _)
  · exact ht

theorem KeepsRegs.firstTouch (h : KeepsRegs writeKey r s) (j v g : Nat) : KeepsRegs writeKey r (s.firstTouch j v g) := by
  have hinc (t : State) (ht : KeepsRegs writeKey r t) (b : Bool) :
      KeepsRegs writeKey r (if b then t else t.put (Reg.SN_JOB_STATUS.INCOMPLETE j) 1) := by
    split
    · exact ht
    · exact ht.put (.inr ⟨j, .inl rfl⟩) 1
  have hcount (t : State) (ht : KeepsRegs writeKey r t) (b : Bool) (n : Nat) :
      KeepsRegs writeKey r (if b then t.inc (Reg.SN_COW_GRANULES.N j) n else t) := by
    split
    · exact ht.put (.inr ⟨j, .inr (.inr rfl)⟩) _
    · exact ht
  unfold State.firstTouch
  split
  · exact h
  · dsimp only
    split
    · exact h
    · split
      · split
        · exact hinc _ h _
        · exact (hinc _ h _).setPte _ _ _
      · exact ((hinc _ h _).setPte _ _ _).logFill _ _
      · exact KeepsRegs.logFill (KeepsRegs.setPte (hcount _ (KeepsRegs.ite ((hinc _ h _).copyGranules _ _ _) (hinc _ h _)) _ _)
          _ _ _) _ _
      · exact KeepsRegs.logFill (KeepsRegs.setPte (hcount _ (KeepsRegs.ite
          (((hinc _ h _).copyGranules _ _ _).noteCopied _ _ _) (hinc _ h _)) _ _) _ _ _) _ _

theorem KeepsRegs.devWrite (h : KeepsRegs writeKey r s) {j va : Nat} {b : Byte} {t : State} (ht : s.devWrite j va b = some t) :
    KeepsRegs writeKey r t := by
  unfold State.devWrite at ht
  split at ht
  · simp at ht
  · dsimp only at ht
    split at ht
    · simp at ht
    · obtain rfl := Option.some.inj ht
      exact ((h.firstTouch _ _ _).congr (State.noteMigration_regs _ _ _ _)).congr rfl

/-! ## The stages of a queue -/

theorem KeepsRegs.noteBack (h : KeepsRegs writeKey r s) (q : Nat) (w : Bool) (p : Nat) :
    KeepsRegs writeKey r (s.noteBack q w p) := by
  unfold State.noteBack
  dsimp only
  split
  · exact h.countMem _ _ _
  · split
    · exact h.countMem _ _ _
    · split
      · exact h
      · exact h.congr rfl

theorem KeepsRegs.setCqBackByte (h : KeepsRegs writeKey r s) (q p : Nat) (b : Byte) :
    KeepsRegs writeKey r (s.setCqBackByte q p b) := by
  have hn := h.noteBack q true p
  unfold State.setCqBackByte
  dsimp only
  split
  · exact hn.congr rfl
  · cases hd : State.devWrite (s.noteBack q true p) _ ((s.noteBack q true p).cqAddr q p) b with
    | none => exact hn
    | some t => exact hn.devWrite hd

theorem KeepsRegs.cqSpillBurst (h : KeepsRegs writeKey r s) (q : Nat) : KeepsRegs writeKey r (s.cqSpillBurst q) := by
  unfold State.cqSpillBurst
  refine KeepsRegs.congr (KeepsRegs.foldl _ _ h (fun t i ht => ?_)) rfl
  split
  · exact ht
  · exact ht.setCqBackByte _ _ _

theorem KeepsRegs.cqFill (h : KeepsRegs writeKey r s) (q : Nat) : KeepsRegs writeKey r (s.cqFill q) := by
  unfold State.cqFill
  dsimp only
  split
  · exact KeepsRegs.congr (KeepsRegs.foldl _ _ h (fun t i ht => ht.noteBack _ _ _)) rfl
  · exact h.congr rfl

/-- Making room in the tail stage moves bytes between the stages and the backing area. -/
theorem KeepsRegs.cqMakeRoom (h : KeepsRegs writeKey r s) (q : Nat) : KeepsRegs writeKey r (s.cqMakeRoom q) := by
  unfold State.cqMakeRoom
  exact KeepsRegs.ite h (KeepsRegs.ite (h.cqFill q) (KeepsRegs.ite h (h.cqSpillBurst q)))

end

theorem cqFlds_put_w (q : Nat) : (cqFlds q).put.w = 64 := by
  unfold cqFlds
  split <;> rfl

theorem cqFlds_get_w (q : Nat) : (cqFlds q).get.w = 64 := by
  unfold cqFlds
  split <;> rfl

/-- No access of a job moves the put count of a queue. -/
theorem not_writeKey_put {q : Nat} (hq : q < cqCount) : ¬ writeKey (cqFlds q).put.key := by
  unfold cqCount at hq
  unfold cqFlds
  split
  · simp only [writeKey, Fld.key, Reg.TQ_PUT.COUNT, Reg.SN_JOB_STATUS.INCOMPLETE, Reg.SN_JOB_STATUS.LOG_OVF,
      Reg.SN_COW_GRANULES.N]
    rintro (h | ⟨j, h | h | h⟩) <;> omega
  · simp only [writeKey, Fld.key, Reg.JQ_PUT.COUNT, Reg.SN_JOB_STATUS.INCOMPLETE, Reg.SN_JOB_STATUS.LOG_OVF,
      Reg.SN_COW_GRANULES.N]
    rintro (h | ⟨j, h | h | h⟩) <;> omega

/-- Each byte at the end of a queue's stream moves the put count one on. -/
theorem State.get_put_cqAppend {q : Nat} (hq : q < cqCount) (l : List Byte) (hl : l ≠ []) (s : State) :
    (s.cqAppend q l).get (cqFlds q).put = (s.get (cqFlds q).put + l.length) % 2 ^ 64 := by
  have hstep (s : State) (b : Byte) (l : List Byte) : ∃ t : State, s.cqAppend q (b :: l) = t.cqAppend q l ∧
      t.get (cqFlds q).put = (s.get (cqFlds q).put + 1) % 2 ^ 64 := by
    refine ⟨_, rfl, ?_⟩
    rw [State.get_put_same, cqFlds_put_w, ((KeepsRegs.refl writeKey s).cqMakeRoom q) _ (not_writeKey_put hq)]
  induction l generalizing s with
  | nil => exact absurd rfl hl
  | cons b l ih =>
    obtain ⟨t, ht, hput⟩ := hstep s b l
    rw [ht]
    by_cases hnil : l = []
    · subst hnil
      exact hput
    · rw [ih hnil, hput, List.length_cons]
      omega

/-! ## Admission -/

theorem exec_cqAdmit {q : Nat} (hq : q < cqCount) (s : State) : exec (.cqAdmit q) s = .next (s.cqAdmit q).settleCq := by
  show execCqAdmit q s = _
  simp [execCqAdmit, hq]

theorem State.cqAdmit_room {s : State} {q : Nat} (hen : s.flag (cqFlds q).en = true) (hheld : s.cqHolds q = false)
    (hroom : s.cqRoom q = true) : s.cqAdmit q =
      ((s.cqAppend q (leBytes 8 0)).setCq q { (s.cqAppend q (leBytes 8 0)).cqOf q with
        opened := some (s.get (cqFlds q).put) }).put (cqFlds q).opened 1 := by
  simp [State.cqAdmit, hen, hheld, hroom]

theorem cqFlds_put_key_ne_opened (q : Nat) : (cqFlds q).put.key ≠ (cqFlds q).opened.key := by
  unfold cqFlds
  split <;> simp [Fld.key, Reg.TQ_PUT.COUNT, Reg.TQ_STATUS.OPEN, Reg.JQ_PUT.COUNT, Reg.JQ_STATUS.OPEN]

theorem cqFlds_opened_w (q : Nat) : (cqFlds q).opened.w = 1 := by
  unfold cqFlds
  split <;> rfl

/-! ## Clearing -/

/-- A field in a range of registers that is cleared reads as at reset. -/
theorem State.get_clearRegs_of_mem (s : State) {f : Fld} {off n : Nat} (hlo : off * 64 ≤ f.key) (hhi : f.key < off * 64 + n * 64) :
    (s.clearRegs off n).get f = f.rst := by
  simp [State.get, State.clearRegs, Tab.get_clearRange, hlo, hhi]

theorem State.get_clearRegs_of_not_mem (s : State) {f : Fld} {off n : Nat} (h : ¬ (off * 64 ≤ f.key ∧ f.key < off * 64 + n * 64)) :
    (s.clearRegs off n).get f = s.get f := by
  simp only [State.get, State.clearRegs, Tab.get_clearRange, if_neg h]

/-- A core that has been cleared holds nothing, and its tiles are as at reset (R281). -/
theorem State.coreClear_empty (s : State) (g cx : Nat) :
    (∀ a, Tab.get 0 ((s.coreClear g cx).core g cx).sp a = 0) ∧ ((s.coreClear g cx).core g cx).acc = [] ∧
      ((s.coreClear g cx).core g cx).lane = [] ∧ ((s.coreClear g cx).core g cx).weights = [] ∧
      ((s.coreClear g cx).core g cx).steps = [] := by
  have hcore : (s.coreClear g cx).core g cx = { s.core g cx with
      sp := [], acc := [], accFree := [], lane := [], laneFree := [], steps := [], loads := [], weights := [], active := [],
      loaded := [], own := [] } := by
    simp [State.coreClear, State.core, State.setCore, State.clearRegs, State.put]
  simp [hcore, Tab.get]

theorem State.coreClear_hstep (s : State) (g cx : Nat) {k : Nat} (hk : k < 32) :
    (s.coreClear g cx).get (Reg.ACC_TILE.HSTEP g cx k) = 8 := by
  unfold State.coreClear
  dsimp only
  rw [State.get_put_ne _ _ _ _ (by simp [Fld.key, Reg.ACC_TILE.HSTEP, Reg.SP_STATUS.BT_ACTIVE]; omega),
    State.get_put_ne _ _ _ _ (by simp [Fld.key, Reg.ACC_TILE.HSTEP, Reg.SP_STATUS.CLEARING]; omega),
    State.get_clearRegs_of_mem]
  · rfl
  · simp [Fld.key, Reg.ACC_TILE.HSTEP, coreOff]
    omega
  · simp [Fld.key, Reg.ACC_TILE.HSTEP, coreOff]
    omega

theorem State.coreClear_clearing (s : State) (g cx : Nat) : (s.coreClear g cx).get (Reg.SP_STATUS.CLEARING g cx) = 0 := by
  unfold State.coreClear
  dsimp only
  rw [State.get_put_ne _ _ _ _ (by simp [Fld.key, Reg.SP_STATUS.CLEARING, Reg.SP_STATUS.BT_ACTIVE]), State.get_put_same]
  rfl

end Sys2Proof.Machine

namespace Sys2Proof.Proofs
open Sys2Proof.Machine

/-- Settles O23: each event is the branch of its meaning that the hypotheses choose, and a cleared core is written empty. -/
theorem scratchpadErrorsAndTestsComplete : Obligations.ScratchpadErrorsAndTestsComplete := by
  unfold Obligations.ScratchpadErrorsAndTestsComplete
  refine ⟨fun g cx s hg hcx => ?_, fun g cx j s hg hcx hj => ?_, fun g cx j c e s hg hcx hj hc he => ?_,
    fun g cx s hg hcx => ⟨fun hjobs => ?_, fun hjobs => ?_⟩, fun g cx s u hg hcx hu => ?_,
    fun g cx s hg hcx hpairs hon hclear hheld => ?_, fun g cx s hg hcx hact => ?_, fun g cx l s hg hcx hact hl => ?_,
    fun g cx s hg hcx hon hregions => ?_⟩
  · show execSpEccCorrect g cx s = _
    simp [execSpEccCorrect, hg, hcx]
  · show execSpEccUncorr g cx (some j) none s = _
    simp [execSpEccUncorr, hg, hcx, hj, opRefOk, State.coreFault]
  · show execSpEccUncorr g cx (some j) (some ⟨g, c, e⟩) s = _
    have hc' : c ≤ 1 := by omega
    simp [execSpEccUncorr, hg, hcx, hj, hc', he, opRefOk, State.coreFault]
  · show execSpEccUncorr g cx none none s = _
    simp [execSpEccUncorr, hg, hcx, opRefOk, State.coreFaultAll, hjobs]
  · have hall : s.coreFaultAll g cx 0x10 0 = (s.coreJobs g cx).foldl (fun t j => t.coreFault g cx 0x10 0 (some j)) s := by
      unfold State.coreFaultAll
      split
      · contradiction
      · rfl
    show execSpEccUncorr g cx none none s = _
    simp [execSpEccUncorr, hg, hcx, opRefOk, hall]
  · have hexec : exec (.coreClear g cx) s =
        .next (if u.islandHeld (coreIsland g cx) then u else u.deliverAll (coreIsland g cx)) := by
      rw [hu]
      show execCoreClear g cx s = _
      simp [execCoreClear, hg, hcx]
    refine ⟨fun hheld => by rw [hexec, if_pos hheld], fun hheld => by rw [hexec, hheld]; rfl, ?_⟩
    obtain ⟨hsp, hacc, hlane, hweights, hsteps⟩ := s.coreClear_empty g cx
    rw [hu]
    exact ⟨hsp, hacc, hlane, hweights, hsteps, fun k hk => s.coreClear_hstep g cx hk, s.coreClear_clearing g cx, rfl, rfl⟩
  · show execBtRegionStart g cx s = _
    simp [execBtRegionStart, hg, hcx, hpairs, hon, hheld, State.flag, hclear]
  · show execBtRegionDone g cx none s = _
    simp [execBtRegionDone, State.btDone, hg, hcx, State.flag, hact]
  · show execBtRegionDone g cx (some l) s = _
    simp [execBtRegionDone, State.btDone, hg, hcx, State.flag, hact, hl]
  · have hexec (pass : Bool) : exec (.homTest g cx pass) s = .next (if pass then s else s.coreLost g cx) := by
      show execHomTest g cx pass s = _
      cases pass <;> simp [execHomTest, hg, hcx, hon, hregions]
    exact ⟨hexec false, hexec true⟩

/-- Settles O24: each event is the branch of its meaning that the hypotheses choose; a taken packet's length word moves the
put count by its 8 bytes, whatever its stages write meanwhile. -/
theorem carouselQueuesComplete : Obligations.CarouselQueuesComplete := by
  unfold Obligations.CarouselQueuesComplete
  refine ⟨fun q s hq hen hheld hroom => ?_, fun q s hq hen => ?_,
    fun q tag p data s hq hopen => ⟨fun hlen => ?_, fun hlen => ?_⟩, fun q s hq hready => ⟨?_, ?_⟩,
    fun q s hq hput => ⟨fun hhead hroom => ?_, fun hhead hback hburst => ?_⟩, fun q s hq hhead => ?_,
    fun q v s hq hopen => ⟨fun hcode => ?_, fun hcode => ?_⟩, fun q w v s hq hw hopen hcode => ?_⟩
  · rw [exec_cqAdmit hq, State.cqAdmit_room hen hheld hroom]
    refine ⟨rfl, ?_, ?_, ?_⟩
    · simp [State.cqOf, State.setCq, State.put]
    · rw [State.get_put_same, cqFlds_opened_w]
      rfl
    · have hlen : (leBytes 8 0).length = 8 := by decide
      rw [State.get_put_ne _ _ _ _ (cqFlds_put_key_ne_opened q), State.setCq_get,
        State.get_put_cqAppend hq (leBytes 8 0) (by decide), hlen]
  · rw [exec_cqAdmit hq]
    simp [State.cqAdmit, hen]
  · show execCqClose q tag data s = _
    simp [execCqClose, hq, hopen, hlen]
  · show execCqTruncate q tag data s = _
    simp [execCqTruncate, hq, hopen, hlen]
  · show execCqPop q s = _
    simp [execCqPop, hq, State.cqPopOne, hready]
  · unfold State.cqAdvance
    dsimp only
    rw [State.get_put_same, cqFlds_get_w, Nat.add_assoc]
  · show execCqSpill q s = _
    simp [execCqSpill, hq, State.cqSpill, Nat.not_le.mpr hput, hhead, hhead ▸ hroom]
  · show execCqSpill q s = _
    simp [execCqSpill, hq, State.cqSpill, Nat.not_le.mpr hput, hhead, hback, Nat.not_lt.mpr hburst]
  · show execCqHeadFill q s = _
    simp [execCqHeadFill, hq, hhead]
  · show execCqCfgWrite q 0 v s = _
    simp [execCqCfgWrite, hq, State.barWrite_open hopen, State.cqCfgWrite, hcode]
  · show execCqCfgWrite q 1 v s = _
    simp [execCqCfgWrite, hq, State.barWrite_open hopen, State.cqCfgWrite, hcode]
  · show execCqCfgWrite q w v s = _
    simp [execCqCfgWrite, hq, hw, State.barWrite_open hopen, State.cqCfgWrite, hcode]

end Sys2Proof.Proofs
end

section
/-! Showtime's exchanges, references, seconds steps and snapshots (R26 to R41). -/

namespace Sys2Proof.Machine

/-! ## The root -/

theorem State.freezePassed_regs (s : State) : s.freezePassed.regs = s.regs ∧ s.freezePassed.mem = s.mem := by
  unfold State.freezePassed
  split <;> exact ⟨rfl, rfl⟩

theorem State.setRoot_regs (s : State) (n frac : Nat) : (s.setRoot n frac).regs = s.regs ∧ (s.setRoot n frac).mem = s.mem := by
  unfold State.setRoot
  exact State.freezePassed_regs _

/-- Within the count's range the root is set to the count. -/
theorem State.setRoot_root (s : State) (n frac : Nat) : (s.setRoot n frac).time.root = n % 2 ^ 64 := by
  obtain ⟨f, hf⟩ : ∃ f, (s.setRoot n frac).time = { s.time.moved n frac with frozen := f } := State.freezePassed_time _
  rw [hf]
  rfl

/-! ## Steering (R27, R36) -/

/-- A range and a free value: the sum stays within the range. -/
theorem add_mod_le {lo r n : Nat} (h : lo ≤ r) : lo ≤ lo + n % (r - lo + 1) ∧ lo + n % (r - lo + 1) ≤ r := by
  have := Nat.mod_lt n (show 0 < r - lo + 1 by omega)
  omega

/-- Where the rate word lies within ±400 ppm, it stays there and moves against the offset. -/
theorem State.steerRate_bounds {s : State} (o : Int) (hlo : rateNominal - rateSlew ≤ s.get Reg.ST_RATE.RATE)
    (hhi : s.get Reg.ST_RATE.RATE ≤ rateNominal + rateSlew) :
    rateNominal - rateSlew ≤ (s.steerRate o).get Reg.ST_RATE.RATE ∧
      (s.steerRate o).get Reg.ST_RATE.RATE ≤ rateNominal + rateSlew ∧
      (0 < o → (s.steerRate o).get Reg.ST_RATE.RATE ≤ s.get Reg.ST_RATE.RATE) ∧
      (o < 0 → s.get Reg.ST_RATE.RATE ≤ (s.steerRate o).get Reg.ST_RATE.RATE) := by
  have hclamp : max (rateNominal - rateSlew) (min (rateNominal + rateSlew) (s.get Reg.ST_RATE.RATE)) = s.get Reg.ST_RATE.RATE := by
    omega
  have hwidth : rateNominal + rateSlew < 2 ^ 48 := by decide
  have hput (v : Nat) (hv : v ≤ rateNominal + rateSlew) : ((s.put Reg.ST_RATE.RATE v).bumpFree).get Reg.ST_RATE.RATE = v := by
    show (s.put Reg.ST_RATE.RATE v).get Reg.ST_RATE.RATE = v
    rw [State.get_put_same]
    exact Nat.mod_eq_of_lt (lt_of_le_of_lt hv hwidth)
  have hdown := add_mod_le (n := s.takeFree 0) hlo
  have hup := add_mod_le (n := s.takeFree 0) hhi
  unfold State.steerRate
  simp only [hclamp]
  rcases lt_trichotomy o 0 with ho | ho | ho
  · rw [if_neg (by omega), if_pos ho, hput _ hup.2]
    omega
  · rw [if_neg (by omega), if_neg (by omega), hput _ hhi]
    omega
  · rw [if_pos ho, hput _ (by omega)]
    omega

/-! ## Seconds steps (R38) -/

theorem exec_stSetSec {s : State} (h : s.Open) (v : Nat) : exec (.stSetSec v) s = .next (s.writeSetSec v) := by
  show execStSetSec v s = _
  simp [execStSetSec, State.barWrite_open h]

/-- What a step leaves: nothing staged, `STEP_DONE`, and a root that went forward or stayed. -/
theorem State.applyStep_root (s : State) (sec at_ : Nat) : (s.applyStep sec at_).time.step = none ∧
    (s.applyStep sec at_).get Reg.ST_STATUS.STEP_DONE = 1 ∧
    (s.applyStep sec at_).time.root =
      if s.time.root < 2 ^ 30 * sec + (s.time.root - at_) then (2 ^ 30 * sec + (s.time.root - at_)) % 2 ^ 64 else s.time.root := by
  refine ⟨rfl, ?_, ?_⟩
  · unfold State.applyStep
    exact State.get_put_same _ _ _
  · unfold State.applyStep
    dsimp only
    split
    · exact State.setRoot_root _ _ _
    · rfl

/-! ## Snapshots (R39 to R41) -/

theorem exec_stSnapArm {s : State} (h : s.Open) : exec .stSnapArm s = .next (s.writeSnapCtrl 1) := by
  show execStSnapArm s = _
  simp [execStSnapArm, State.barWrite_open h]

end Sys2Proof.Machine

namespace Sys2Proof.Proofs
open Sys2Proof.Machine

/-- Settles O25: each event is the branch of its meaning that the hypotheses choose; steering stays in its range because the
free value is taken modulo the room on the side it steers to. -/
theorem showtimeComplete : Obligations.ShowtimeComplete := by
  unfold Obligations.ShowtimeComplete
  have hflag {s : State} {f : Fld} (h : s.get f = 1) : s.flag f = true := by simp [State.flag, h]
  refine ⟨fun s => ⟨rfl, ?_⟩, fun i k s u hi => ⟨fun hok hk => ?_, fun hok hk => ?_, fun hbad hu => ?_⟩, fun i b s hi => ?_,
    fun s hlock hgood => ?_, fun s u hrole hparent hu => ⟨fun hm => ?_, fun hm => ?_⟩, fun s hen hreach => ?_,
    fun s hout hfall => ?_, fun t1 t2 t3 t4 s u hrole hparent => ⟨fun hshort hu => ?_, fun hlong => ?_⟩,
    fun st s hmaster hen => ⟨fun hstep => ?_, fun hstep => ?_⟩, fun o s hlo hhi => State.steerRate_bounds o hlo hhi,
    fun s hmaster hen => ?_, fun n s hmaster hen => ⟨?_, fun hok => ?_, fun hok => ?_⟩⟩
  · obtain ⟨f, hf⟩ := s.rootTick_time_eq
    have hregs := s.setRoot_regs (s.time.root + (s.time.frac + s.get Reg.ST_RATE.RATE) / 2 ^ 32)
      ((s.time.frac + s.get Reg.ST_RATE.RATE) % 2 ^ 32)
    rw [hf]
    exact ⟨rfl, rfl, rfl, hregs.1, hregs.2⟩
  · show execSyncWord i k s = _
    simp [execSyncWord, islandCount, hi, State.syncWord, hok, Nat.not_lt.mpr hk]
  · show execSyncWord i k s = _
    simp [execSyncWord, islandCount, hi, State.syncWord, hok, hk]
  · rw [hu]
    show execSyncWord i k s = _
    simp [execSyncWord, islandCount, hi, State.syncWord, hbad]
  · show execReplicaFault i b s = _
    simp [execReplicaFault, islandCount, hi]
  · show execLockAcquired s = _
    simp [execLockAcquired, hlock, hgood]
  · show execTimeExchangeMissed s = _
    have hfew : ¬ 3 ≤ s.time.missed + 1 := by omega
    simp [execTimeExchangeMissed, hrole, hparent, State.missExchange, hfew, hu]
  · show execTimeExchangeMissed s = _
    have hmany : 3 ≤ s.time.missed + 1 := by omega
    simp only [execTimeExchangeMissed, hrole, hparent, State.missExchange, hmany, hu, and_self, if_true]
  · show execPpsOutHigh s = _
    simp only [execPpsOutHigh, hflag hen, hreach, decide_true, Bool.and_self, if_true]
  · show execPpsOutLow s = _
    simp only [execPpsOutLow, hout, hfall, decide_true, Bool.and_self, if_true]
  · show execTimeExchange t1 t2 t3 t4 s = _
    have hparent' : s.time.parent.isNone = false := by
      rw [Option.isNone_eq_false_iff]
      exact hparent
    rw [hu]
    simp only [execTimeExchange, State.timeExchange, hrole, hparent', ne_eq, not_true_eq_false, Bool.false_eq_true, or_self,
      if_false, if_neg (Nat.not_le.mpr hshort)]
  · show execTimeExchange t1 t2 t3 t4 s = _
    have hparent' : s.time.parent.isNone = false := by
      rw [Option.isNone_eq_false_iff]
      exact hparent
    simp only [execTimeExchange, State.timeExchange, hrole, hparent', ne_eq, not_true_eq_false, Bool.false_eq_true, or_self,
      if_false, if_pos hlong]
  · obtain ⟨hpps, hedge, hwait⟩ := hstep
    show execPpsInEdge st s = _
    have hwait' : s.time.root ≤ s.time.stepStamp + edgeWait := hwait
    simp only [execPpsInEdge, State.ppsEdge, hmaster, hflag hen, hpps, hedge, hwait', Option.isNone_none, decide_true,
      Bool.and_self, if_true]
  · have hno : (s.time.stepPps && s.time.stepEdge.isNone && decide (s.time.root ≤ s.time.stepStamp + edgeWait)) = false := by
      rw [Bool.eq_false_iff]
      intro h
      simp only [Bool.and_eq_true, Option.isNone_iff_eq_none, decide_eq_true_eq] at h
      exact hstep ⟨h.1.1, h.1.2, h.2⟩
    show execPpsInEdge st s = _
    simp only [execPpsInEdge, State.ppsEdge, hmaster, hflag hen, hno, Bool.and_self, if_true, Bool.false_eq_true, if_false]
  · show execPpsLost s = _
    simp [execPpsLost, hmaster, hflag hen]
  · show execTrefLost s = _
    simp [execTrefLost, hmaster, hflag hen]
  · show execTref10mRegained n s = _
    simp [execTref10mRegained, hmaster, hflag hen, hok]
  · show execTref10mRegained n s = _
    simp [execTref10mRegained, hmaster, hflag hen, hok]

/-- Settles O26: each event is the branch of its meaning that the hypotheses choose. -/
theorem stepsAndSnapshotsComplete : Obligations.StepsAndSnapshotsComplete := by
  unfold Obligations.StepsAndSnapshotsComplete
  refine ⟨fun v pps s u hopen hpps hu => ⟨fun hcode hp => ?_, fun hcode hp => ?_, fun hcode => ?_⟩,
    fun sec s hstep => ⟨fun hearly => ?_, fun hdue hp => ?_, fun hdue hp => ?_⟩, fun sec at_ s hrole hdue => ?_,
    fun sec at_ s => ?_, fun s u hopen hu => ⟨fun hcode => ?_, fun hcode => ?_⟩,
    fun i src s u v hi harmed hdue hfresh hsrc hu hv => ?_, fun s harmed hall => ?_⟩
  · rw [exec_stSetSec hopen, hu]
    have hp' : (s.bumpFree.flag Reg.ST_CTRL.PPS_EN && !s.bumpFree.flag Reg.ST_STATUS.PPS_LOST) = true := hpps.symm.trans hp
    simp only [State.writeSetSec, hcode, hp', hp, ne_eq, not_true_eq_false, if_false, if_true]
    rfl
  · rw [exec_stSetSec hopen, hu]
    have hp' : (s.bumpFree.flag Reg.ST_CTRL.PPS_EN && !s.bumpFree.flag Reg.ST_STATUS.PPS_LOST) = false := hpps.symm.trans hp
    simp only [State.writeSetSec, hcode, hp', hp, ne_eq, not_true_eq_false, Bool.false_eq_true, if_false]
    rfl
  · rw [exec_stSetSec hopen]
    simp only [State.writeSetSec, hcode, ne_eq, not_false_eq_true, if_true]
  · show execSecondsStepApply none s = _
    simp [execSecondsStepApply, hstep, hearly]
  · show execSecondsStepApply none s = _
    simp [execSecondsStepApply, hstep, Nat.not_lt.mpr hdue, hp]
  · show execSecondsStepApply none s = _
    simp [execSecondsStepApply, hstep, Nat.not_lt.mpr hdue, hp]
  · show execSecondsStepApply (some (sec, at_)) s = _
    simp [execSecondsStepApply, hrole, hdue]
  · obtain ⟨hnone, hdone, hroot⟩ := s.applyStep_root sec at_
    refine ⟨hnone, hdone, fun hahead hfits => ?_, fun hbehind => ?_⟩
    · rw [hroot, if_pos hahead, Nat.mod_eq_of_lt hfits]
    · rw [hroot, if_neg (Nat.not_lt.mpr hbehind)]
  · rw [exec_stSnapArm hopen, hu]
    simp only [State.writeSnapCtrl, hcode, ne_eq, not_true_eq_false, if_false]
    rfl
  · rw [exec_stSnapArm hopen]
    have hbit : bit 1 0 = true := by decide
    simp only [State.writeSnapCtrl, hbit, hcode, ne_eq, not_false_eq_true, if_true, Bool.not_true, Bool.false_eq_true, if_false]
  · have hgo : (s.flag Reg.ST_SNAP_CTRL.ARMED && decide (s.get Reg.ST_SNAP_T.T ≤ s.stamp i) &&
        !s.time.latched.contains i) = true := by
      simp [State.flag, harmed, hdue, hfresh]
    show execSnapshotLatch i s = _
    rw [hv, hu, hsrc]
    simp only [execSnapshotLatch, islandCount, hi, decide_true, inUnits_true, State.latchIsland, hgo, if_true]
  · show execSnapshotDone s = _
    simp [execSnapshotDone, islandCount, State.flag, harmed, hall]

end Sys2Proof.Proofs
end

section
/-! Island events (R12, R15, R19), page operations (R331 to R333), translation and memory errors (R325 to R347). -/

namespace Sys2Proof.Machine

/-! ## Islands -/

/-- A fault at an island that is neither a core's nor a Ringmaster's. -/
theorem State.islandFault_other (s : State) {i : Nat} (h : 408 ≤ i) (code payload : Nat) (job : Option Nat) (op : Option OpRef) :
    s.islandFault i code payload job op =
      s.raiseErr { code := code, island := i, payload := payload, job := job, pc := s.opPc op } := by
  rw [State.islandFault, if_neg (by omega), if_neg (by omega)]

theorem State.islandFault_core (s : State) {i : Nat} (h : i < 384) (code payload : Nat) (job : Option Nat) (op : Option OpRef) :
    s.islandFault i code payload job op = s.coreFault (i / 16) (i % 16) code payload job op := if_pos h

theorem exec_crossingTimeout {i : Nat} {job : Option Nat} {op : Option OpRef} (hi : i < 543) (hjob : job.all (· < 8) = true)
    (hop : opRefOk op = true) (s : State) :
    exec (.crossingTimeout i job op) s = .next ((s.setCrossing i []).islandFault i 0x14 0 job op) := by
  show execCrossingTimeout i job op s = _
  simp [execCrossingTimeout, hi, islandCount, hjob, hop, inUnits]

theorem State.crossing_setCrossing (s : State) (i : Nat) (l : List XWord) : (s.setCrossing i l).crossing i = l := by
  simp [State.setCrossing, State.crossing]

/-! ## Page operations -/

/-- The page operations by number, and the commands that ask for them (R331). -/
theorem exec_pageCmd {s : State} (h : s.Open) {op : Nat} {i : Instr}
    (hi : (op, i) ∈ [(1, Instr.map), (2, .unmap), (3, .migrate), (4, .setMirror), (5, .retireFrame), (6, .retireStack),
      (7, .ctrFlush)]) : exec i s = .next (s.pageCmd op) := by
  have hopen : (.next (s.barWrite (fun t => t.pageCmd op)) : Ans) = .next (s.pageCmd op) := by rw [State.barWrite_open h]
  simp only [List.mem_cons, Prod.mk.injEq, List.not_mem_nil, or_false] at hi
  rcases hi with ⟨rfl, rfl⟩ | ⟨rfl, rfl⟩ | ⟨rfl, rfl⟩ | ⟨rfl, rfl⟩ | ⟨rfl, rfl⟩ | ⟨rfl, rfl⟩ | ⟨rfl, rfl⟩ <;> exact hopen

theorem State.pageCmd_accepted {s : State} {op : Nat}
    (h : s.pageOpCode op (s.get Reg.MEM_OP_ARG0.JOB) (s.get Reg.MEM_OP_ARG0.VPN) (s.get Reg.MEM_OP_ARG1.W) false = 0) :
    s.pageCmd op = s.startPageOp op (s.get Reg.MEM_OP_ARG0.JOB) (s.get Reg.MEM_OP_ARG0.VPN) (s.get Reg.MEM_OP_ARG1.W) none :=
  if_pos h

theorem State.pageCmd_refused {s : State} {op : Nat}
    (h : s.pageOpCode op (s.get Reg.MEM_OP_ARG0.JOB) (s.get Reg.MEM_OP_ARG0.VPN) (s.get Reg.MEM_OP_ARG1.W) false ≠ 0) :
    s.pageCmd op = s.reject
      (s.pageOpCode op (s.get Reg.MEM_OP_ARG0.JOB) (s.get Reg.MEM_OP_ARG0.VPN) (s.get Reg.MEM_OP_ARG1.W) false) 0xC00010
      (if op = 5 ∨ op = 6 then none else some (s.get Reg.MEM_OP_ARG0.JOB)) := if_neg h

/-! ## Frames -/

/-- The registers of the memories' access counters, whose stack number has no bound. -/
def countKey (k : Nat) : Prop := 0xC01000 * 64 ≤ k

theorem not_countKey_hbmStatus : ¬ countKey Reg.MEM_HBM_STATUS.RETIRED.key := by unfold countKey; decide
theorem not_countKey_ddrStatus : ¬ countKey Reg.MEM_DDR_STATUS.RETIRED.key := by unfold countKey; decide

theorem KeepsRegs.countMem_countKey (s : State) (a n : Nat) (w : Bool) : KeepsRegs countKey s (s.countMem a n w) := by
  have hkey (i : Nat) : countKey (Reg.DDR_WR.N i).key ∧ countKey (Reg.DDR_RD.N i).key ∧ countKey (Reg.HBM_WR.N i).key ∧
      countKey (Reg.HBM_RD.N i).key := by
    simp [countKey, Fld.key, Reg.DDR_WR.N, Reg.DDR_RD.N, Reg.HBM_WR.N, Reg.HBM_RD.N]
    omega
  obtain ⟨hddrW, hddrR, -, -⟩ := hkey (ddrChannel (dfnOf a))
  obtain ⟨-, -, hhbmW, hhbmR⟩ := hkey (stackOf (dfnOf a))
  have hs := KeepsRegs.refl countKey s
  unfold State.countMem
  cases w <;> dsimp only <;> split
  · exact hs.put hddrR _
  · exact hs.put hhbmR _
  · exact hs.put hddrW _
  · exact hs.put hhbmW _

theorem State.countMem_rest (s : State) (a n : Nat) (w : Bool) :
    (s.countMem a n w).owner = s.owner ∧ (s.countMem a n w).mem = s.mem := by
  unfold State.countMem
  cases w <;> dsimp only <;> split <;> exact ⟨rfl, rfl⟩

theorem KeepsRegs.zeroFrame (s : State) (d : Nat) : KeepsRegs countKey s (s.zeroFrame d) :=
  KeepsRegs.countMem_countKey { s with mem := Tab.clearRange s.mem (2 ^ 21 * d) (2 ^ 21) } _ _ _

theorem State.memByte_zeroFrame (s : State) (d a : Nat) :
    (s.zeroFrame d).memByte a = if a / 2 ^ 21 = d then 0 else s.memByte a := by
  unfold State.zeroFrame State.memByte
  rw [(State.countMem_rest _ _ _ _).2, Tab.get_clearRange]
  exact if_congr (by omega) rfl rfl

theorem State.owner_zeroFrame (s : State) (d : Nat) : (s.zeroFrame d).owner = s.owner := (State.countMem_rest _ _ _ _).1

/-- Whether a frame is lost depends on the two registers of the lost stacks and channels. -/
theorem KeepsRegs.frameLost_eq {K : Nat → Prop} {r s : State} (h : KeepsRegs K r s) (hhbm : ¬ K Reg.MEM_HBM_STATUS.RETIRED.key)
    (hddr : ¬ K Reg.MEM_DDR_STATUS.RETIRED.key) (d : Nat) : s.frameLost d = r.frameLost d := by
  simp [State.frameLost, h _ hhbm, h _ hddr]

theorem State.frameLost_zeroFrame (s : State) (d e : Nat) : (s.zeroFrame d).frameLost e = s.frameLost e :=
  (KeepsRegs.zeroFrame s d).frameLost_eq not_countKey_hbmStatus not_countKey_ddrStatus e

/-- The owner of a frame just set, where the frame is not lost. -/
theorem State.ownerOf_setOwner {s : State} {d : Nat} (h : s.frameLost d = false) (o : Nat) : (s.setOwner d o).ownerOf d = o := by
  have h' : (s.setOwner d o).frameLost d = false := h
  simp only [State.ownerOf, h', Bool.false_eq_true, if_false]
  exact Tab.get_set_same _ _ _ _

/-- A frame given to a job is the job's, zeroed where it was `DIRTY` (R330). -/
theorem State.giveFrame_eq (s : State) (j d : Nat) :
    s.giveFrame j d = if s.ownerOf d = 0xE then (s.zeroFrame d).setOwner d j else s.setOwner d j := by
  unfold State.giveFrame
  dsimp only
  split <;> rfl

theorem KeepsRegs.giveFrame (s : State) (j d : Nat) : KeepsRegs countKey s (s.giveFrame j d) := by
  rw [State.giveFrame_eq]
  split
  · exact (KeepsRegs.zeroFrame s d).congr rfl
  · exact KeepsRegs.refl _ s

theorem State.ownerOf_giveFrame {s : State} {d : Nat} (h : s.frameLost d = false) (j : Nat) : (s.giveFrame j d).ownerOf d = j := by
  rw [State.giveFrame_eq]
  split
  · exact State.ownerOf_setOwner ((s.frameLost_zeroFrame d d).trans h) j
  · exact State.ownerOf_setOwner h j

theorem State.memByte_giveFrame (s : State) (j d a : Nat) :
    (s.giveFrame j d).memByte a = if s.ownerOf d = 0xE ∧ a / 2 ^ 21 = d then 0 else s.memByte a := by
  rw [State.giveFrame_eq]
  by_cases hown : s.ownerOf d = 0xE
  · rw [if_pos hown]
    exact (s.memByte_zeroFrame d a).trans (if_congr (by simp [hown]) rfl rfl)
  · rw [if_neg hown, if_neg (by simp [hown])]
    rfl

/-- The page operation of a MAP that the host asks for. -/
def State.mapOp (s : State) (j vpn arg : Nat) : PageOp where
  op := 1
  job := j
  vpn := vpn
  arg1 := arg
  oldDfn := ((s.pte j vpn).getD ⟨0, 0⟩).live
  newDfn := (Pte.mk arg 0).live
  entry := none

/-- A MAP of one frame gives it to the job, with `BUSY` set (R331, R332). -/
theorem State.startPageOp_map {s : State} {j vpn arg d : Nat} (hd : (Pte.mk arg 0).live = d) (hmv : (Pte.mk arg 0).mv = false) :
    ∃ u : State, u.mem = s.mem ∧ u.owner = s.owner ∧ (∀ f : Fld, f.key ≠ Reg.MEM_OP_STATUS.BUSY.key → u.get f = s.get f) ∧
      u.get Reg.MEM_OP_STATUS.BUSY = 1 ∧
      ∃ b, s.startPageOp 1 j vpn arg none = (u.giveFrame j d).put Reg.MEM_OP_STATUS.PHASE b := by
  subst hd
  refine ⟨({ s with pageOp := some (s.mapOp j vpn arg) } : State).put Reg.MEM_OP_STATUS.BUSY 1, rfl, rfl,
    fun f hf => State.get_put_ne _ _ _ _ hf, State.get_put_same _ _ _, ?_⟩
  simp only [State.startPageOp, hmv, Bool.false_eq_true, if_false, List.foldl]
  exact ⟨_, rfl⟩

/-! ## The end of a page operation -/

theorem exec_pageOpDone {s : State} {o : PageOp} (ho : s.pageOp = some o) (hready : o.ready = true) (hp : s.pairsFailed = false) :
    exec .pageOpDone s = .next ((s.commitPageOp o).endPageOp o 0) := by
  show execPageOpDone s = _
  simp [execPageOpDone, ho, hready, hp]

/-- A page operation of the host's that ends leaves nothing in progress, its code, and its event (R332). -/
theorem State.endPageOp_fields (s : State) {o : PageOp} (ho : o.entry = none) (code : Nat) :
    (s.endPageOp o code).pageOp = none ∧ (s.endPageOp o code).get Reg.MEM_OP_STATUS.CODE = code % 2 ^ 8 ∧
      (s.endPageOp o code).get Reg.MEM_OP_STATUS.BUSY = 0 ∧ (s.endPageOp o code).get Reg.MEM_OP_STATUS.DONE_EVT = 1 := by
  unfold State.endPageOp
  rw [ho]
  refine ⟨rfl, ?_, ?_, State.get_put_same _ _ _⟩
  · rw [State.get_put_ne _ _ _ _ (by decide), State.get_put_ne _ _ _ _ (by decide), State.get_put_ne _ _ _ _ (by decide),
      State.get_put_same]
    rfl
  · rw [State.get_put_ne _ _ _ _ (by decide), State.get_put_ne _ _ _ _ (by decide), State.get_put_same]
    rfl

theorem exec_migratePhaseDone {s : State} (hp : s.pairsFailed = false) : exec .migratePhaseDone s = .next s.phaseDone := by
  show execMigratePhaseDone s = _
  simp [execMigratePhaseDone, hp]

end Sys2Proof.Machine

namespace Sys2Proof.Proofs
open Sys2Proof.Machine

/-- Settles O28: the three events by their definitions, with the place that an island's fault has. -/
theorem islandEventsComplete : Obligations.IslandEventsComplete := by
  unfold Obligations.IslandEventsComplete
  refine ⟨?_, ?_, ?_⟩
  · intro i job op s hi hjob hop
    exact ⟨exec_crossingTimeout hi hjob hop s, s.crossing_setCrossing i [],
      fun hcore => State.islandFault_core _ hcore _ _ _ _, fun hother => State.islandFault_other _ hother _ _ _ _⟩
  · intro l m s hl hm
    have hexec : exec (.ucieModuleRetire l m) s = .next (s.moduleRetire l m) := by
      show execUcieModuleRetire l m s = _
      simp [execUcieModuleRetire, hl, hm, inUnits]
    refine ⟨fun hin => ?_, fun hout => ?_⟩
    · rw [hexec, State.moduleRetire, State.linkRetired, hin]
      rfl
    · rw [hexec, State.moduleRetire, State.linkRetired, if_pos hout]
  · intro l jobs s hl
    have hexec : exec (.dieLinkLost l jobs) s = .next (s.linkLost l jobs) := by
      show execDieLinkLost l jobs s = _
      simp [execDieLinkLost, hl, inUnits]
    refine ⟨fun hnew => ?_, fun hlost => ?_⟩ <;> rw [hexec, State.linkLost]
    · rw [if_neg (by simpa using hnew)]
    · rw [if_pos (by simpa using hlost)]

/-- Settles O29: each page operation through the write of its command, the migration by its phase, and what MAP leaves
through what giving a frame leaves. -/
theorem pageOperationsComplete : Obligations.PageOperationsComplete := by
  unfold Obligations.PageOperationsComplete
  refine ⟨?_, ?_, ?_, ?_, ?_, ?_, ?_⟩
  · rintro j vpn arg s hopen rfl rfl rfl
    refine ⟨fun h => ?_, fun h => ?_, fun h => ?_, fun h => ?_, fun h => ?_, fun h => ?_, fun h => ?_⟩
    case refine_2 =>
      rw [exec_pageCmd hopen (op := 2) (by simp), State.pageCmd_accepted h]
      rfl
    all_goals
      rw [← State.pageCmd_accepted h]
      exact exec_pageCmd hopen (by simp)
  · intro j vpn arg d s _ hd hmv hlost
    obtain ⟨u, hmem, howner, hregs, hbusy, b, heq⟩ := State.startPageOp_map (s := s) (j := j) (vpn := vpn) hd hmv
    have hlostU (e : Nat) : u.frameLost e = s.frameLost e := by
      simp only [State.frameLost, hregs Reg.MEM_HBM_STATUS.RETIRED (by decide), hregs Reg.MEM_DDR_STATUS.RETIRED (by decide)]
    have hownerU : u.ownerOf d = s.ownerOf d := by simp only [State.ownerOf, hlostU, howner]
    have hbyte (a : Nat) : (s.startPageOp 1 j vpn arg none).memByte a =
        if s.ownerOf d = 0xE ∧ a / 2 ^ 21 = d then 0 else s.memByte a := by
      have hsame : s.memByte a = u.memByte a := by simp only [State.memByte, hmem]
      rw [heq, ← hownerU, hsame, ← u.memByte_giveFrame j d a]
      rfl
    have hgiven := State.ownerOf_giveFrame ((hlostU d).trans hlost) j
    refine ⟨?_, ?_, fun a ha => ?_, fun hdirty a ha => ?_⟩
    · have hkeeps : ((u.giveFrame j d).put Reg.MEM_OP_STATUS.PHASE b).frameLost d = (u.giveFrame j d).frameLost d := by
        simp only [State.frameLost, State.get_put_ne _ Reg.MEM_OP_STATUS.PHASE Reg.MEM_HBM_STATUS.RETIRED _ (by decide),
          State.get_put_ne _ Reg.MEM_OP_STATUS.PHASE Reg.MEM_DDR_STATUS.RETIRED _ (by decide)]
      rw [heq]
      refine Eq.trans ?_ hgiven
      simp only [State.ownerOf, hkeeps]
      rfl
    · rw [heq, State.get_put_ne _ _ _ _ (by decide), (KeepsRegs.giveFrame u j d) _ (by unfold countKey; decide), hbusy]
    · rw [hbyte, if_neg (fun h => ha h.2)]
    · rw [hbyte, if_pos ⟨hdirty, ha⟩]
  · intro op i s hopen hi hcode
    rw [← State.pageCmd_refused hcode]
    exact exec_pageCmd hopen hi
  · intro o s ho hop hp
    have hexec := exec_migratePhaseDone hp
    refine ⟨fun h => ?_, fun h => ?_, fun h hfew => ?_, fun h hmany hpasses => ?_⟩ <;>
      rw [hexec, State.phaseDone, ho] <;> simp only [hop, h, ne_eq, not_true_eq_false, if_false]
    · rw [if_pos (by simpa using hfew)]
    · rw [if_neg (by simp; omega)]
  · rintro o s u rfl hstate hphase
    have hcond : ((s.setPhase { o with dirty := 0, passes := 0 } 2).jobState o.job = 3 ||
        (decide (1 ≤ s.get (Reg.SN_JOB_STATUS.PHASE o.job)) && decide (s.get (Reg.SN_JOB_STATUS.PHASE o.job) ≤ 4))) = false := by
      simp [hstate]
      omega
    simp only [State.beginCopy]
    exact if_neg (by simpa using hcond)
  · intro o s ho hready hp
    refine ⟨exec_pageOpDone ho hready hp, fun hentry => ?_⟩
    exact State.endPageOp_fields _ hentry 0
  · intro s hp
    have hphase : execMigratePhaseDone s = .next s := by simp [execMigratePhaseDone, hp]
    have hdone : execPageOpDone s = .next s := by
      unfold execPageOpDone
      split <;> simp [hp]
    exact ⟨hphase, hdone⟩

end Sys2Proof.Proofs
end

section
/-! Translation, frames and the errors of device memory (R323 to R347). -/

namespace Sys2Proof.Machine

/-! ## Translation -/

/-- An access inside one page is translated. -/
theorem exec_translation {j r va n : Nat} {s : State} (hj : j < 8) (hr : r < 4) (hva : va < 2 ^ 52) (hn : 1 ≤ n)
    (hin : bits va 0 21 + n ≤ 2 ^ 21) (wr bad : Bool) :
    exec (.translation j r va n wr bad) s = .next (s.translate j r va n wr bad) := by
  show execTranslation j r va n wr bad s = _
  simp only [execTranslation, inUnits, hj, hr, hva, hn, hin, decide_true, Bool.and_self, if_true]

/-- A read that has an address is one that is allowed. -/
theorem State.accessCode_of_readAddr {s : State} {j va a : Nat} {bad : Bool} (h : s.readAddr j va bad = some a) :
    s.accessCode j va false bad = 0 := by
  unfold State.readAddr at h
  split at h
  · simp at h
  · by_contra hcode
    simp [hcode] at h

/-! ## What a record of a memory error leaves -/

/-- `MEM_CORRECTED_ERROR`'s record and counts change only what records do, with `ERR_CORR.TOTAL`. -/
theorem Recorded.corrected {K : Nat → Prop} {r s : State} (h : Recorded K r s) (hK : NoteKeys K) (island event payload : Nat) :
    Recorded K r (s.corrected island event payload) := by
  have hT := hK.toTraceKeys
  have htotal : K Reg.ERR_CORR.TOTAL.key := hK.err _ (by decide) (by decide)
  have hevt : K Reg.ERR_DEV_STATUS.CORR_EVT.key := hK.err _ (by decide) (by decide)
  have hcounted := (h.trace hT (job := none) (by simp) island event payload).inc hT htotal 1
  unfold State.corrected
  dsimp only
  split
  · exact hcounted.setEvent hT hevt 11
  · exact hcounted

theorem Recorded.owner_eq {K : Nat → Prop} {r s : State} (h : Recorded K r s) : s.owner = r.owner := by
  simpa [State.unnoted] using congrArg State.owner h.rest

theorem Recorded.memErrs_eq {K : Nat → Prop} {r s : State} (h : Recorded K r s) : s.memErrs = r.memErrs := by
  simpa [State.unnoted] using congrArg State.memErrs h.rest

/-! ## An uncorrectable error in a free frame of a stack (R339) -/

/-- One error alone makes at most one bad place of its unit. -/
theorem State.badPlaces_single {s : State} {unit place : Nat} (h : ∃ t, s.memErrs = [(unit, place, t)]) (now : Nat) :
    ¬ 4 ≤ (s.badPlaces unit now).length := by
  obtain ⟨t, ht⟩ := h
  have hdups : [place].eraseDups = [place] := by simp [List.eraseDups, List.eraseDupsBy, List.eraseDupsBy.loop]
  simp only [State.badPlaces, ht, List.filter_cons, List.filter_nil]
  split <;> simp [hdups]

/-- An uncorrectable error in a frame of a stack that is `CLEAN`: the error is noted at the stack's controller. -/
def stackErr (d : Nat) : ErrAt := { code := 0x10, island := frameIsland d, job := none, pc := 0 }

/-- An uncorrectable error is added to those of its unit's last 2^30 st (R340, R343). -/
def State.noteMemErr (s : State) (d dev off : Nat) : State :=
  { s with memErrs := s.memErrs ++ [(frameIsland d, if isDdr d then dev % 16 + 16 * ofBool (bit off 8) else pseudoChannel off,
      s.stamp (frameIsland d))] }

/-- A free frame's retirement, and the noting of its error, write records only after the owner has changed. -/
theorem State.retired_recorded (s : State) (d dev off : Nat) :
    Recorded noteKeyUncounted (s.setOwner d 0xC) (s.frameRetired d dev off) :=
  (Recorded.refl _ _).corrected noteKeys_noteKeyUncounted _ _ _

theorem State.retired_noted (s : State) (d dev off : Nat) :
    Recorded noteKey (s.setOwner d 0xC) ((s.frameRetired d dev off).noteErr (stackErr d)) := by
  refine Recorded.noteErr ?_ _ (by simp [stackErr]) (by simp [stackErr])
  exact (Recorded.refl _ _).corrected noteKeys_noteKey _ _ _

/-- With no page operation in progress the frame retires as its owner says and the error is raised; too many bad places lose
the unit (R339, R340, R343). -/
theorem State.memUncorr_of_no_op {s u : State} (d dev off : Nat) (job : Option Nat) (op : Option OpRef) (hop : s.pageOp = none)
    (hu : ((s.noteMemErr d dev off).uncorrRetire d dev off).islandFault (frameIsland d) 0x10 0
      ((s.noteMemErr d dev off).errJob d job) op = u)
    (hplaces : ¬ 4 ≤ (u.badPlaces (frameIsland d) (s.stamp (frameIsland d))).length) :
    s.memUncorr d dev off job op = u := by
  unfold State.memUncorr
  extract_lets unit now noted isTarget charged left retired raised
  have hop' : noted.pageOp = none := hop
  have htarget : isTarget = false := by simp only [isTarget, hop']
  have hleft : left = s.noteMemErr d dev off := by
    simp only [left, hop']
    rfl
  have hraised : raised = u := by
    simp only [raised, htarget, Bool.false_eq_true, if_false, retired, hleft]
    exact hu
  refine (if_neg ?_).trans hraised
  rwa [hraised]

/-- An uncorrectable error in a `CLEAN` frame of a stack: the frame retires and the error is charged to no job. -/
theorem State.memUncorr_free {s : State} {d : Nat} (dev off : Nat) (hddr : isDdr d = false) (hown : s.ownerOf d = 0xF)
    (herrs : s.memErrs = []) (hop : s.pageOp = none) :
    s.memUncorr d dev off none none = ((s.noteMemErr d dev off).frameRetired d dev off).noteErr (stackErr d) := by
  have hisland : 408 ≤ frameIsland d := by
    simp only [frameIsland, hddr, Bool.false_eq_true, if_false]
    omega
  have hownF : (s.noteMemErr d dev off).ownerOf d = 0xF := hown
  have hjob : (s.noteMemErr d dev off).errJob d none = none := by simp [State.errJob, hownF]
  have hretire : (s.noteMemErr d dev off).uncorrRetire d dev off = (s.noteMemErr d dev off).frameRetired d dev off := by
    simp [State.uncorrRetire, hownF]
  have herr : (s.noteMemErr d dev off).memErrs = [(frameIsland d, pseudoChannel off, s.stamp (frameIsland d))] := by
    simp [State.noteMemErr, herrs, hddr]
  have hnoted := ((s.noteMemErr d dev off).retired_noted d dev off).memErrs_eq
  refine State.memUncorr_of_no_op d dev off none none hop ?_ (State.badPlaces_single ⟨_, hnoted.trans herr⟩ _)
  rw [hretire, hjob, State.islandFault_other _ hisland, State.raiseErr_of_no_job _ rfl]
  rfl

/-! ## The loss of a stack (R340) -/

theorem bit_mod_two_pow {n w i : Nat} (h : i < w) : bit (n % 2 ^ w) i = bit n i := by
  have hpow : 2 ^ w = 2 ^ i * (2 * 2 ^ (w - i - 1)) := by
    rw [← Nat.mul_assoc, ← Nat.pow_succ, ← Nat.pow_add]
    congr 1
    omega
  simp only [bit, hpow, Nat.mod_mul_right_div_self, Nat.mod_mul_right_mod]


/-- The registers that the loss of a stack writes besides its own: the state of page operations, and shadows of counters. -/
def lossKey (k : Nat) : Prop := (0xC00018 * 64 ≤ k ∧ k < 0xC00018 * 64 + 64) ∨ 0xC01000 * 64 ≤ k

theorem KeepsRegs.latchRun {K : Nat → Prop} {r s : State} (h : KeepsRegs K r s) (regs : Tab Nat) (gone : Bool) (run : ShadowRun)
    (hrun : ∀ k < run.n, K ((run.shadow + 8 * k) * 64)) : KeepsRegs K r (s.latchRun regs gone run) := by
  have hall (l : List Nat) (hl : ∀ k ∈ l, k < run.n) (t : State) (ht : KeepsRegs K r t) :
      KeepsRegs K r (l.foldl (fun (t : State) k =>
        t.put ⟨run.shadow + 8 * k, 0, 64, 0⟩ (if gone then 0 else Tab.get 0 regs ((run.live + 8 * k) * 64))) t) := by
    induction l generalizing t with
    | nil => exact ht
    | cons k l ih =>
      exact ih (fun i hi => hl i (by simp [hi])) _ (ht.put (by simpa [Fld.key] using hrun k (hl k (by simp))) _)
  exact hall _ (fun k hk => List.mem_range.mp hk) s h

theorem State.latchRun_mem (s : State) (regs : Tab Nat) (gone : Bool) (run : ShadowRun) : (s.latchRun regs gone run).mem = s.mem := by
  unfold State.latchRun
  exact List.foldlRecOn (motive := fun t : State => t.mem = s.mem) _ _ rfl (fun t ht k _ => ht)

/-- The shadows of a stack lie among its counters' registers. -/
theorem KeepsRegs.zeroShadows_stack (s : State) {n : Nat} (hn : n < 24) : KeepsRegs lossKey s (s.zeroShadows (456 + n)) := by
  have hruns : islandShadows (456 + n) = [⟨0xC01000 + 8 * n, 0xC01800 + 8 * n, 1⟩, ⟨0xC01100 + 8 * n, 0xC01900 + 8 * n, 1⟩,
      ⟨0xC01200 + 8 * n, 0xC01A00 + 8 * n, 1⟩] := by
    rw [islandShadows, if_neg (by omega), if_pos (by omega), Nat.add_sub_cancel_left]
  unfold State.zeroShadows
  rw [hruns]
  refine (((KeepsRegs.refl _ s).latchRun _ _ _ ?_).latchRun _ _ _ ?_).latchRun _ _ _ ?_ <;>
    · intro k _
      right
      dsimp only
      omega

theorem State.zeroShadows_mem (s : State) (i : Nat) : (s.zeroShadows i).mem = s.mem := by
  unfold State.zeroShadows
  exact List.foldlRecOn (motive := fun t : State => t.mem = s.mem) _ _ rfl
    (fun t ht r _ => (State.latchRun_mem t _ _ r).trans ht)

theorem State.ringDone_regs (s : State) (q i code r : Nat) :
    (s.ringDone q i code r).regs = s.regs ∧ (s.ringDone q i code r).mem = s.mem := by
  unfold State.ringDone
  dsimp only
  split <;> exact ⟨rfl, rfl⟩

/-- The end of a page operation writes its status register. -/
theorem KeepsRegs.endPageOp {r s : State} (h : KeepsRegs lossKey r s) (o : PageOp) (code : Nat) :
    KeepsRegs lossKey r (s.endPageOp o code) := by
  have hkey : ∀ f ∈ [Reg.MEM_OP_STATUS.CODE, Reg.MEM_OP_STATUS.BUSY, Reg.MEM_OP_STATUS.PHASE, Reg.MEM_OP_STATUS.DONE_EVT],
      lossKey f.key := by
    unfold lossKey
    decide
  have hended : KeepsRegs lossKey r (((((({ s with pageOp := none } : State).put Reg.MEM_OP_STATUS.CODE code).put
      Reg.MEM_OP_STATUS.BUSY 0).put Reg.MEM_OP_STATUS.PHASE 0).put Reg.MEM_OP_STATUS.DONE_EVT 1)) :=
    ((((h.congr rfl).put (hkey _ (by simp)) _).put (hkey _ (by simp)) _).put (hkey _ (by simp)) _).put (hkey _ (by simp)) _
  unfold State.endPageOp
  dsimp only
  split
  · exact hended.congr (State.ringDone_regs _ _ _ _ _).1
  · exact hended

theorem State.endPageOp_mem (s : State) (o : PageOp) (code : Nat) : (s.endPageOp o code).mem = s.mem := by
  unfold State.endPageOp
  dsimp only
  split
  · exact (State.ringDone_regs _ _ _ _ _).2
  · rfl

theorem State.dropLostMigration_keepsRegs (s : State) :
    KeepsRegs lossKey s s.dropLostMigration ∧ s.dropLostMigration.mem = s.mem := by
  unfold State.dropLostMigration
  split
  · split
    · exact ⟨((KeepsRegs.refl _ s).endPageOp _ 4).congr rfl, s.endPageOp_mem _ 4⟩
    · exact ⟨KeepsRegs.refl _ s, rfl⟩
  · exact ⟨KeepsRegs.refl _ s, rfl⟩

/-- The pages of a job stand in device memory, under the roots of its tables and the channels that are left. -/
theorem State.jobPages_congr {s t : State} (hmem : t.mem = s.mem) (j : Nat)
    (hroot : t.get (Reg.MEM_PT_ROOT.ADDR j) = s.get (Reg.MEM_PT_ROOT.ADDR j))
    (hroot2 : t.get (Reg.MEM_PT_ROOT2.ADDR j) = s.get (Reg.MEM_PT_ROOT2.ADDR j))
    (hddr : t.get Reg.MEM_DDR_STATUS.RETIRED = s.get Reg.MEM_DDR_STATUS.RETIRED) : t.jobPages j = s.jobPages j := by
  have hbyte : t.memByte = s.memByte := by
    funext a
    simp only [State.memByte, hmem]
  have hnat : t.memNat = s.memNat := by
    funext a n
    simp only [State.memNat, State.memBytes, hbyte]
  have hlost : t.chanLost = s.chanLost := by
    funext a
    simp only [State.chanLost, hddr]
  have hentry : t.entryAt = s.entryAt := by
    funext r v
    simp only [State.entryAt, hnat]
  have hpte (v : Nat) : t.pte j v = s.pte j v := by
    simp only [State.pte, State.entryAddr, State.root1, State.root2, hroot, hroot2, hlost, hentry, hnat]
    rfl
  have hvpns : t.vpnsUnder = s.vpnsUnder := by
    funext r
    simp only [State.vpnsUnder, State.level1, hnat, hmem]
  simp only [State.jobPages, State.root1, State.root2, hroot, hroot2, hlost, hvpns, hpte]
  rfl

/-- A loss does nothing to a job that has no pages. -/
theorem State.loseJob_of_no_pages {s : State} {j : Nat} (h : s.jobPages j = []) (code island : Nat) :
    s.loseJob j code island = s := by
  have hnone (f : Pte → Bool) : s.pagesWith j f = [] := by simp [State.pagesWith, h]
  simp [State.loseJob, hnone, State.moveAll]

theorem State.loseJobs_of_no_pages {s : State} {l : List Nat} (h : ∀ j ∈ l, s.jobPages j = []) (code island : Nat) :
    l.foldl (fun (t : State) j => t.loseJob j code island) s = s := by
  induction l with
  | nil => rfl
  | cons j l ih =>
    rw [List.foldl_cons, State.loseJob_of_no_pages (h j (by simp)), ih (fun i hi => h i (by simp [hi]))]

/-- A stack's retired bit and event, before its pages move. -/
def State.stackGone (s : State) (n : Nat) : State :=
  ((s.put Reg.MEM_HBM_STATUS.RETIRED (setBit (s.get Reg.MEM_HBM_STATUS.RETIRED) n true)).put Reg.MEM_HBM_STATUS.LOST_EVT 1).pldmEvent 1

theorem State.get_stackGone (s : State) (n : Nat) (f : Fld) : (s.stackGone n).get f = ((s.put Reg.MEM_HBM_STATUS.RETIRED
    (setBit (s.get Reg.MEM_HBM_STATUS.RETIRED) n true)).put Reg.MEM_HBM_STATUS.LOST_EVT 1).get f := rfl

/-- The loss of a stack in which no job has pages. -/
theorem State.loseStack_of_no_pages {s : State} {n : Nat} (hn : n < 24) (hin : bit (s.get Reg.MEM_HBM_STATUS.RETIRED) n = false)
    (hpages : ∀ j, j < 8 → s.jobPages j = []) :
    s.loseStack n = ((s.stackGone n).zeroShadows (456 + n)).dropLostMigration := by
  obtain ⟨hdrop, hdropMem⟩ := ((s.stackGone n).zeroShadows (456 + n)).dropLostMigration_keepsRegs
  have hshadow := KeepsRegs.zeroShadows_stack (s.stackGone n) hn
  have hgone (f : Fld) (hf : ¬ lossKey f.key) (h1 : f.key ≠ Reg.MEM_HBM_STATUS.RETIRED.key)
      (h2 : f.key ≠ Reg.MEM_HBM_STATUS.LOST_EVT.key) :
      ((s.stackGone n).zeroShadows (456 + n)).dropLostMigration.get f = s.get f := by
    rw [hdrop f hf, hshadow f hf, State.get_stackGone, State.get_put_ne _ _ _ _ h2, State.get_put_ne _ _ _ _ h1]
  have hmem : ((s.stackGone n).zeroShadows (456 + n)).dropLostMigration.mem = s.mem :=
    hdropMem.trans (State.zeroShadows_mem _ _)
  have hnone : ∀ j ∈ List.range 8, ((s.stackGone n).zeroShadows (456 + n)).dropLostMigration.jobPages j = [] := by
    intro j hj
    have hj8 := List.mem_range.mp hj
    rw [State.jobPages_congr hmem j, hpages j hj8] <;> apply hgone <;>
      simp [lossKey, Fld.key, Reg.MEM_PT_ROOT.ADDR, Reg.MEM_PT_ROOT2.ADDR, Reg.MEM_DDR_STATUS.RETIRED,
        Reg.MEM_HBM_STATUS.RETIRED, Reg.MEM_HBM_STATUS.LOST_EVT] <;> omega
  have hfold := State.loseJobs_of_no_pages hnone 0x16 (456 + n)
  unfold State.loseStack
  rw [if_neg (by simp [hin])]
  exact hfold

/-- What that loss shows: the stack's retired bit and the event. -/
theorem State.loseStack_status {s : State} {n : Nat} (hn : n < 24) (hin : bit (s.get Reg.MEM_HBM_STATUS.RETIRED) n = false)
    (hpages : ∀ j, j < 8 → s.jobPages j = []) :
    bit ((s.loseStack n).get Reg.MEM_HBM_STATUS.RETIRED) n = true ∧ (s.loseStack n).get Reg.MEM_HBM_STATUS.LOST_EVT = 1 := by
  have hkeep (f : Fld) (hf : ¬ lossKey f.key) : (s.loseStack n).get f = (s.stackGone n).get f := by
    rw [State.loseStack_of_no_pages hn hin hpages, (State.dropLostMigration_keepsRegs _).1 f hf,
      KeepsRegs.zeroShadows_stack _ hn f hf]
  have hretired : (s.stackGone n).get Reg.MEM_HBM_STATUS.RETIRED = setBit (s.get Reg.MEM_HBM_STATUS.RETIRED) n true % 2 ^ 24 := by
    rw [State.get_stackGone, State.get_put_ne _ _ _ _ (by decide), State.get_put_same]
    rfl
  constructor
  · rw [hkeep _ (by unfold lossKey; decide), hretired, bit_mod_two_pow hn, bit_setBit_same]
  · rw [hkeep _ (by unfold lossKey; decide), State.get_stackGone, State.get_put_same]
    rfl

end Sys2Proof.Machine

namespace Sys2Proof.Proofs
open Sys2Proof.Machine

/-- Settles O30: translation by the access's code, a free frame's uncorrectable error through what its record leaves, and a
stack's loss through the pages that no job has. -/
theorem translationFramesAndErrorsComplete : Obligations.TranslationFramesAndErrorsComplete := by
  unfold Obligations.TranslationFramesAndErrorsComplete
  refine ⟨?_, ?_, ?_, ?_, ?_, ?_, ?_, ?_, ?_, ?_, ?_⟩
  · intro j r va n bad p s hj hr hva hn hin hp hcode
    rw [exec_translation hj hr hva hn hin]
    simp only [State.translate, hcode, hp, ne_eq, not_true_eq_false, if_false, if_true, Option.getD_some]
  · intro j r va n a bad s hj hr hva hn hin ha
    rw [exec_translation hj hr hva hn hin]
    simp only [State.translate, State.accessCode_of_readAddr ha, ha, ne_eq, not_true_eq_false, Bool.false_eq_true, if_false,
      Option.getD_some]
  · intro j r va n wr bad s hj hr hva hn hin hcode
    rw [exec_translation hj hr hva hn hin]
    simp only [State.translate, ne_eq, hcode, not_false_eq_true, if_true]
    rw [State.islandFault_other _ (by unfold ringIsland; omega)]
    rfl
  · intro j va bad p s hp
    refine ⟨fun hv wr => ?_, fun hro => ?_, fun hv hro hva hexists wr => ?_⟩
    · simp [State.accessCode, hp, hv]
    · simp [State.accessCode, hp, hro]
    · simp [State.accessCode, hp, hv, hro, hexists]
      omega
  · intro d s hexists hlost hown hp
    refine ⟨(s.zeroFrame d).setOwner d 0xF, ?_, State.ownerOf_setOwner ((s.frameLost_zeroFrame d d).trans hlost) _, ?_, ?_⟩
    · show execZeroFill d s = _
      simp [execZeroFill, inUnits, hexists, hown, hp]
    · exact fun a ha => (s.memByte_zeroFrame d a).trans (if_pos ha)
    · exact fun a ha => (s.memByte_zeroFrame d a).trans (if_neg ha)
  · intro d n s
    refine ⟨fun hexists => ?_, fun hn => ?_, fun hn => ?_⟩
    · show execPatrolScrub d s = _
      simp [execPatrolScrub, inUnits, hexists]
    · show execHbmRefresh n s = _
      simp [execHbmRefresh, inUnits, hn]
    · show execDdr5Refresh n s = _
      simp [execDdr5Refresh, inUnits, hn]
  · intro d dev off s hexists hoff
    show execMemCorrectedError d dev off s = _
    simp only [execMemCorrectedError, inUnits, hexists, hoff, decide_true, Bool.and_self, if_true]
  · intro d dev off s hexists hoff hddr hown hlost herrs hop
    have hnoted := (s.noteMemErr d dev off).retired_noted d dev off
    refine ⟨s.memUncorr d dev off none none, ?_, ?_, ?_⟩
    · show execMemUncorrectable d dev off none none s = _
      simp only [execMemUncorrectable, inUnits, hexists, hoff, decide_true, Bool.and_self, if_true, Option.all_none, opRefOk]
    · rw [State.memUncorr_free dev off hddr hown herrs hop]
      have howner : Tab.get 0xE ((((s.noteMemErr d dev off).frameRetired d dev off).noteErr (stackErr d)).owner) d = 0xC := by
        rw [hnoted.owner_eq]
        exact Tab.get_set_same 0xE s.owner d 0xC
      unfold State.ownerOf
      split
      · rfl
      · exact howner
    · rw [State.memUncorr_free dev off hddr hown herrs hop]
      have hcount := State.noteErr_errCnt ((s.noteMemErr d dev off).frameRetired d dev off) (e := stackErr d) (by simp [stackErr])
        (by simp [stackErr])
      have hkept := ((s.noteMemErr d dev off).retired_recorded d dev off).regs (Reg.ERR_CNT.N 0x10)
        (fun h => h.2 (by decide))
      rw [show (stackErr d).code = 0x10 from rfl, hkept] at hcount
      exact hcount
  · intro n s hn
    have hexec : exec (.stackLost n) s = .next (s.loseStack n) := by
      show execStackLost n s = _
      simp [execStackLost, inUnits, hn]
    refine ⟨fun hin => ⟨hexec, State.loseStack_status hn hin⟩, fun hgone => ?_⟩
    rw [hexec, State.loseStack, if_pos hgone]
  · intro n s hn
    have hexec : exec (.ddrChannelLost n) s = .next (s.loseChannel n) := by
      show execDdrChannelLost n s = _
      simp [execDdrChannelLost, inUnits, hn]
    refine ⟨hexec, fun hgone => ?_⟩
    rw [hexec, State.loseChannel, if_pos hgone]
  · intro ch cmd d dev off job op s hch hexists hddr hchan hoff hjob hop
    have hexec : exec (.ddrAlertRetry ch cmd d dev off job op) s = .next (s.alertRetry ch cmd d dev off job op) := by
      show execDdrAlertRetry ch cmd d dev off job op s = _
      simp only [execDdrAlertRetry, inUnits, hch, hexists, hddr, hchan, hoff, hjob, hop, decide_true, Bool.and_self, if_true]
    refine ⟨fun hfew => ?_, fun hmany => ?_⟩
    · rw [hexec, State.alertRetry, if_neg (by omega)]
    · rw [hexec, State.alertRetry, if_pos hmany]

end Sys2Proof.Proofs
end

section
/-! Curtains from their request to their commit (R402 to R406, R418). -/

namespace Sys2Proof.Machine

/-! ## Registers apart from some fields -/

/-- A register that is none of some fields. -/
def apart (l : List Fld) (k : Nat) : Prop := ∀ f ∈ l, k ≠ f.key

theorem KeepsRegs.get_of_mem {l : List Fld} {r s : State} (h : KeepsRegs (apart l) r s) {f : Fld} (hf : f ∈ l) :
    s.get f = r.get f := h f (fun hk => hk f hf rfl)

theorem KeepsRegs.mono {K L : Nat → Prop} {r s : State} (h : KeepsRegs K r s) (hKL : ∀ k, K k → L k) : KeepsRegs L r s :=
  fun f hf => h f (fun hk => hf (hKL _ hk))

theorem KeepsRegs.trans {K : Nat → Prop} {r s t : State} (h : KeepsRegs K r s) (k : KeepsRegs K s t) : KeepsRegs K r t :=
  fun f hf => (k f hf).trans (h f hf)

/-- The registers of a job that a commit sets or that say what it does (R397, R404, R413). -/
def curtainFlds (j : Nat) : List Fld :=
  [Reg.SN_EPOCH.CUR j, Reg.SN_EPOCH.BASE j, Reg.SN_COMMITS.N j, Reg.SN_ABANDONS.N j, Reg.SN_CFG.BUDDY j, Reg.SN_CFG.GROUP j,
    Reg.SN_JOB_STATUS.PHASE j, Reg.JOB_CTX_MASK.MASK j]

/-- Those keys written out. -/
theorem apart_curtainFlds {j k : Nat} : apart (curtainFlds j) k ↔
    k ≠ (0x300340 + j * 0x10000) * 64 ∧ k ≠ (0x300340 + j * 0x10000) * 64 + 16 ∧ k ≠ (0x500100 + j * 0x10000) * 64 ∧
    k ≠ (0x500108 + j * 0x10000) * 64 ∧ k ≠ (0x500000 + j * 0x10000) * 64 + 2 ∧ k ≠ (0x500000 + j * 0x10000) * 64 + 48 ∧
    k ≠ (0x500010 + j * 0x10000) * 64 ∧ k ≠ (Reg.JOB_CTX_MASK.MASK j).key := by
  simp [apart, curtainFlds, Fld.key, Reg.SN_EPOCH.CUR, Reg.SN_EPOCH.BASE, Reg.SN_COMMITS.N, Reg.SN_ABANDONS.N, Reg.SN_CFG.BUDDY,
    Reg.SN_CFG.GROUP, Reg.SN_JOB_STATUS.PHASE]

theorem apart_of_writeKey {j k : Nat} (hj : j < 8) (h : writeKey k) : apart (curtainFlds j) k := by
  rw [apart_curtainFlds]
  simp only [writeKey, Fld.key, Reg.SN_JOB_STATUS.INCOMPLETE, Reg.SN_JOB_STATUS.LOG_OVF, Reg.SN_COW_GRANULES.N,
    Reg.JOB_CTX_MASK.MASK] at h ⊢
  rcases h with h | ⟨i, h⟩ <;> omega

theorem apart_of_context {j k : Nat} (hj : j < 8) (h : 0x1000000 * 64 ≤ k) : apart (curtainFlds j) k := by
  rw [apart_curtainFlds]
  simp only [Fld.key, Reg.JOB_CTX_MASK.MASK]
  omega

/-! ## Requests and phases -/

theorem exec_snReq {s : State} (h : s.Open) {j : Nat} (hj : j < 8) (tm : Nat) :
    exec (.snReq j tm) s = .next (s.writeSnReq j tm) := by
  show execSnReq j tm s = _
  simp only [execSnReq, inUnits, hj, decide_true, if_true, State.barWrite_open h]

/-- A part that arms is in phase 1 with its request gone (R404). -/
theorem State.armPart_fields (s : State) (j tm : Nat) : (s.armPart j tm).phase j = 1 ∧ ((s.armPart j tm).snOf j).t = tm ∧
    ((s.armPart j tm).snOf j).req = none := by
  refine ⟨State.get_put_same _ _ _, ?_, ?_⟩
  · exact congrArg SnS.t (State.snOf_setSn _ _ _)
  · exact congrArg SnS.req (State.snOf_setSn _ _ _)

theorem State.tellParts_local {s : State} {j : Nat} (h : s.group j = 0) (kind body : Nat) : s.tellParts j kind body = s := if_pos h

/-! ## Contexts that a Curtain stopped -/

/-- The registers of the contexts. -/
def contextKey (k : Nat) : Prop := 0x1000000 * 64 ≤ k

theorem contextKey_status (g c : Nat) : contextKey (Reg.CTX_STATUS.STATE g c).key ∧ contextKey (Reg.CTX_STATUS.BLOCK g c).key ∧
    contextKey (Reg.CTX_WAIT.FLAG g c).key ∧ contextKey (Reg.CTX_WAIT.SINCE g c).key ∧ contextKey (Reg.CTX_PC.ADDR g c).key := by
  simp only [contextKey, Fld.key, Reg.CTX_STATUS.STATE, Reg.CTX_STATUS.BLOCK, Reg.CTX_WAIT.FLAG, Reg.CTX_WAIT.SINCE, Reg.CTX_PC.ADDR]
  omega

theorem KeepsRegs.advance {r s : State} (h : KeepsRegs contextKey r s) (g c : Nat) : KeepsRegs contextKey r (s.advance g c) := by
  obtain ⟨-, -, -, -, hpc⟩ := contextKey_status g c
  exact KeepsRegs.put (h.congr rfl) hpc _

theorem KeepsRegs.wake {r s : State} (h : KeepsRegs contextKey r s) (g c : Nat) : KeepsRegs contextKey r (s.wake g c) := by
  obtain ⟨hstate, hblock, hflag, hsince, -⟩ := contextKey_status g c
  refine KeepsRegs.advance (KeepsRegs.put (KeepsRegs.put (KeepsRegs.put (KeepsRegs.put ?_ hblock 0) hflag 0) hsince 0) hstate 1) g c
  exact h.congr rfl

theorem KeepsRegs.releaseCtxs {r s : State} (h : KeepsRegs contextKey r s) (j : Nat) : KeepsRegs contextKey r (s.releaseCtxs j) := by
  unfold State.releaseCtxs
  refine KeepsRegs.foldl _ _ h (fun t p ht => ?_)
  obtain ⟨hstate, -⟩ := contextKey_status p.1 p.2
  dsimp only
  split
  · refine KeepsRegs.advance (KeepsRegs.put ?_ hstate 1) _ _
    exact ht.congr rfl
  · split
    · exact ht.wake _ _
    · exact ht

/-- The release changes contexts and their registers only. -/
theorem State.releaseCtxs_rest (s : State) (j : Nat) :
    (s.releaseCtxs j).sn = s.sn ∧ (s.releaseCtxs j).mem = s.mem ∧ (s.releaseCtxs j).host = s.host := by
  unfold State.releaseCtxs
  refine List.foldlRecOn (motive := fun t : State => t.sn = s.sn ∧ t.mem = s.mem ∧ t.host = s.host) _ _ ⟨rfl, rfl, rfl⟩
    (fun t ht p _ => ?_)
  dsimp only
  split
  · exact ht
  · split <;> exact ht

/-! ## A Curtain given up (R406) -/

/-- A Curtain in progress that is abandoned while no host add is held: phase 0, the event, and one more abandoned. -/
theorem State.abandonCurtain_fields {s : State} {j : Nat} (hlo : 1 ≤ s.phase j) (hhi : s.phase j ≤ 4)
    (hheld : (s.snOf j).heldAdds = []) :
    (s.abandonCurtain j).phase j = 0 ∧ (s.abandonCurtain j).get (Reg.SN_JOB_STATUS.ABANDON_EVT j) = 1 ∧
      (s.abandonCurtain j).get (Reg.SN_ABANDONS.N j) = (s.get (Reg.SN_ABANDONS.N j) + 1) % 2 ^ 64 ∧
      (s.abandonCurtain j).get (Reg.SN_CFG.GROUP j) = s.get (Reg.SN_CFG.GROUP j) ∧
      (s.abandonCurtain j).mem = s.mem ∧ (s.abandonCurtain j).host = s.host := by
  have hin : 1 ≤ s.get (Reg.SN_JOB_STATUS.PHASE j) ∧ s.get (Reg.SN_JOB_STATUS.PHASE j) ≤ 4 := ⟨hlo, hhi⟩
  unfold State.abandonCurtain
  simp only [if_pos hin, hheld, List.foldl_nil, State.phase]
  refine ⟨?_, ?_, ?_, ?_, rfl, rfl⟩
  · unfold State.inc
    rw [State.get_put_ne _ _ _ _ (by simp [Fld.key, Reg.SN_ABANDONS.N, Reg.SN_JOB_STATUS.PHASE]),
      State.get_put_ne _ _ _ _ (by simp [Fld.key, Reg.SN_JOB_STATUS.ABANDON_EVT, Reg.SN_JOB_STATUS.PHASE]), State.get_put_same]
    rfl
  · unfold State.inc
    rw [State.get_put_ne _ _ _ _ (by simp [Fld.key, Reg.SN_ABANDONS.N, Reg.SN_JOB_STATUS.ABANDON_EVT]; omega), State.get_put_same]
    rfl
  · unfold State.inc
    rw [State.get_put_same, State.get_put_ne _ _ _ _ (by simp [Fld.key, Reg.SN_ABANDONS.N, Reg.SN_JOB_STATUS.ABANDON_EVT]; omega),
      State.get_put_ne _ _ _ _ (by simp [Fld.key, Reg.SN_ABANDONS.N, Reg.SN_JOB_STATUS.PHASE])]
    rfl
  · unfold State.inc
    rw [State.get_put_ne _ _ _ _ (by simp [Fld.key, Reg.SN_ABANDONS.N, Reg.SN_CFG.GROUP]; omega),
      State.get_put_ne _ _ _ _ (by simp [Fld.key, Reg.SN_CFG.GROUP, Reg.SN_JOB_STATUS.ABANDON_EVT]; omega),
      State.get_put_ne _ _ _ _ (by simp [Fld.key, Reg.SN_CFG.GROUP, Reg.SN_JOB_STATUS.PHASE]; omega)]
    rfl

/-- A local Curtain given up, with no host add held. -/
theorem State.giveUpCurtain_local {s : State} {j : Nat} (hj : j < 8) (hlo : 1 ≤ s.phase j) (hhi : s.phase j ≤ 3)
    (hgroup : s.group j = 0) (hheld : (s.snOf j).heldAdds = []) :
    (s.giveUpCurtain j).phase j = 0 ∧ (s.giveUpCurtain j).get (Reg.SN_JOB_STATUS.ABANDON_EVT j) = 1 ∧
      (s.giveUpCurtain j).get (Reg.SN_ABANDONS.N j) = (s.get (Reg.SN_ABANDONS.N j) + 1) % 2 ^ 64 ∧
      (s.giveUpCurtain j).mem = s.mem ∧ (s.giveUpCurtain j).host = s.host := by
  have hregs : KeepsRegs (apart (curtainFlds j)) s (s.releaseCtxs j) :=
    ((KeepsRegs.refl contextKey s).releaseCtxs j).mono (fun k hk => apart_of_context hj hk)
  obtain ⟨hsn, hmem, hhost⟩ := s.releaseCtxs_rest j
  have hphase : (s.releaseCtxs j).phase j = s.phase j := hregs.get_of_mem (by simp [curtainFlds])
  have habandons := hregs.get_of_mem (f := Reg.SN_ABANDONS.N j) (by simp [curtainFlds])
  have hgroup' := hregs.get_of_mem (f := Reg.SN_CFG.GROUP j) (by simp [curtainFlds])
  obtain ⟨h1, h2, h3, h4, h5, h6⟩ := State.abandonCurtain_fields (s := s.releaseCtxs j) (j := j) (by omega) (by omega)
    (by simpa [State.snOf, hsn] using hheld)
  have hlocal : ((s.releaseCtxs j).abandonCurtain j).group j = 0 := h4.trans (hgroup'.trans hgroup)
  have heq : s.giveUpCurtain j = (s.releaseCtxs j).abandonCurtain j := by
    unfold State.giveUpCurtain
    dsimp only
    rw [State.tellParts_local hlocal, ite_self]
  rw [heq, ← habandons, ← hmem, ← hhost]
  exact ⟨h1, h2, h3, h5, h6⟩

/-! ## READY (R404) -/

/-- The contexts of a quiesced job are QUIESCED, but for those that are DONE. -/
def State.quiesceStates (s : State) (j : Nat) : State :=
  (s.jobCtxs j).foldl (fun (t : State) p =>
    if t.get (Reg.CTX_STATUS.STATE p.1 p.2) = 4 then t else t.put (Reg.CTX_STATUS.STATE p.1 p.2) 6) s

theorem State.quiesceStates_rest (s : State) (j : Nat) : (s.quiesceStates j).time = s.time ∧ (s.quiesceStates j).mem = s.mem ∧
    (s.quiesceStates j).cores = s.cores ∧ (s.quiesceStates j).queues = s.queues := by
  unfold State.quiesceStates
  refine List.foldlRecOn (motive := fun t : State => t.time = s.time ∧ t.mem = s.mem ∧ t.cores = s.cores ∧ t.queues = s.queues)
    _ _ ⟨rfl, rfl, rfl, rfl⟩ (fun t ht p _ => ?_)
  split <;> exact ht

theorem KeepsRegs.quiesceStates (s : State) (j : Nat) : KeepsRegs contextKey s (s.quiesceStates j) := by
  unfold State.quiesceStates
  refine KeepsRegs.foldl _ _ (KeepsRegs.refl _ s) (fun t p ht => ?_)
  split
  · exact ht
  · exact ht.put (contextKey_status p.1 p.2).1 6

/-- A local job that is quiesced is READY. -/
theorem State.curtainReady_local {s : State} {j : Nat} (hj : j < 8) (hp : s.pairsFailed = false) (hstate : s.jobState j = 2)
    (hphase : s.phase j = 2) (hgroup : s.group j = 0) (hquiet : s.quiesced j = true) (hout : Tab.get 0 s.glOut j = 0) :
    s.curtainReady j = (((s.quiesceStates j).setSn j { (s.quiesceStates j).snOf j with
      readyAt := some (s.quiesceStates j).netNow }).put (Reg.SN_JOB_STATUS.PHASE j) 3) := by
  have hgroup' : (s.quiesceStates j).group j = 0 :=
    (((KeepsRegs.quiesceStates s j).mono (fun k hk => apart_of_context hj hk)).get_of_mem (f := Reg.SN_CFG.GROUP j)
      (by simp [curtainFlds])).trans hgroup
  have hcond : (!s.pairsFailed && decide (s.jobState j = 2) && decide (s.phase j = 2) && s.quiesced j &&
      decide (Tab.get 0 s.glOut j = 0)) = true := by simp [hp, hstate, hphase, hquiet, hout]
  have hmarkers : s.sendMarkers j = s := by simp [State.sendMarkers, hgroup]
  have hlocal : (((s.quiesceStates j).setSn j { (s.quiesceStates j).snOf j with
      readyAt := some (s.quiesceStates j).netNow }).put (Reg.SN_JOB_STATUS.PHASE j) 3).group j = 0 := by
    refine (State.get_put_ne _ _ _ _ ?_).trans hgroup'
    simp [Fld.key, Reg.SN_CFG.GROUP, Reg.SN_JOB_STATUS.PHASE]
    omega
  unfold State.curtainReady
  rw [if_pos hcond]
  simp only [hmarkers, hgroup, decide_true, Bool.true_or, if_true]
  exact if_pos hlocal

/-! ## The commit (R405) -/

/-- From the beginning of a commit, what the state of the epochs and the commits' count go through. -/
theorem State.stepEpochs_fields (s : State) (j : Nat) :
    (s.stepEpochs j).get (Reg.SN_EPOCH.CUR j) = (s.get (Reg.SN_EPOCH.CUR j) + 1) % 2 ^ 16 ∧
      (s.stepEpochs j).get (Reg.SN_EPOCH.BASE j) = (s.get (Reg.SN_EPOCH.CUR j) + 1) % 2 ^ 16 := by
  have hcur : (s.inc (Reg.SN_EPOCH.CUR j) 1).get (Reg.SN_EPOCH.CUR j) = (s.get (Reg.SN_EPOCH.CUR j) + 1) % 2 ^ 16 :=
    State.get_put_same _ _ _
  unfold State.stepEpochs
  dsimp only
  constructor
  · rw [State.get_put_ne _ _ _ _ (by simp [Fld.key, Reg.SN_EPOCH.CUR, Reg.SN_EPOCH.BASE]), hcur]
  · rw [State.get_put_same, hcur]
    exact Nat.mod_mod _ _

theorem KeepsRegs.flushAccess (s : State) (j : Nat) : KeepsRegs writeKey s (s.flushAccess j) := by
  unfold State.flushAccess
  refine KeepsRegs.foldl _ _ (KeepsRegs.refl _ s) (fun t e ht => ?_)
  have htlb (l : Tab Nat) : KeepsRegs writeKey s ({ t with tlb := l } : State) := ht.congr rfl
  unfold State.addUnits
  split
  · split
    · exact (htlb _).setPte _ _ _
    · exact htlb _
  · exact htlb _

theorem State.setMemBytes_ctx (s : State) (a : Nat) (l : List Byte) : (s.setMemBytes a l).ctx = s.ctx := by
  induction l generalizing s a with
  | nil => rfl
  | cons b l ih => exact ih _ _

theorem State.countMem_ctx (s : State) (a n : Nat) (w : Bool) : (s.countMem a n w).ctx = s.ctx := by
  unfold State.countMem
  cases w <;> dsimp only <;> split <;> rfl

theorem State.setPte_ctx (s : State) (j v : Nat) (p : Pte) : (s.setPte j v p).ctx = s.ctx := by
  have hone (t : State) (root : Nat) : (match t.entryAt root v with
      | some a => ((t.setMemNat a 8 p.w0).setMemNat (a + 8) 8 p.w1).countMem a 16 true
      | none => t).ctx = t.ctx := by
    split
    · exact (State.countMem_ctx _ _ _ _).trans ((State.setMemBytes_ctx _ _ _).trans (State.setMemBytes_ctx _ _ _))
    · rfl
  unfold State.setPte
  exact (hone _ _).trans (hone _ _)

theorem State.flushAccess_ctx (s : State) (j : Nat) : (s.flushAccess j).ctx = s.ctx := by
  unfold State.flushAccess
  refine List.foldlRecOn (motive := fun t : State => t.ctx = s.ctx) _ _ rfl (fun t ht e _ => ?_)
  unfold State.addUnits
  split
  · split
    · exact (State.setPte_ctx _ _ _ _).trans ht
    · exact ht
  · exact ht

/-- The contexts that stand at a `curtain` depend on the contexts and the job's bound set. -/
theorem State.loaderUses_congr {s t : State} (hctx : t.ctx = s.ctx) (j : Nat)
    (hmask : t.get (Reg.JOB_CTX_MASK.MASK j) = s.get (Reg.JOB_CTX_MASK.MASK j)) : t.loaderUses j = s.loaderUses j := by
  simp only [State.loaderUses, State.jobCtxs, State.ctxOf, hctx, hmask]

/-- Eight loader records at most are gathered of each context, so that none reaches beyond its registers. -/
theorem KeepsRegs.gatherLoaders {s : State} {j : Nat} (h : ∀ u ∈ s.loaderUses j, u.2.1 ≤ 8) :
    KeepsRegs (apart (curtainFlds j)) s (s.gatherLoaders j) := by
  have hone (l : List Nat) (hl : ∀ n ∈ l, n < 8) (v : State → Nat → Nat) (t : State) (ht : KeepsRegs (apart (curtainFlds j)) s t) :
      KeepsRegs (apart (curtainFlds j)) s (l.foldl (fun (t : State) n => t.put (Reg.SN_LDR.REC j n) (v t n)) t) := by
    induction l generalizing t with
    | nil => exact ht
    | cons n l ih =>
      refine ih (fun i hi => hl i (by simp [hi])) _ (ht.put ?_ _)
      have hn := hl n (by simp)
      rw [apart_curtainFlds]
      simp only [Fld.key, Reg.SN_LDR.REC, Reg.JOB_CTX_MASK.MASK]
      omega
  have hall (l : List (Nat × Nat × Nat)) (hl : ∀ u ∈ l, u.2.1 ≤ 8) (t : State) (ht : KeepsRegs (apart (curtainFlds j)) s t) :
      KeepsRegs (apart (curtainFlds j)) s (l.foldl (fun (t : State) u => (List.range u.2.1).foldl (fun (t : State) n =>
        t.put (Reg.SN_LDR.REC j n) (t.spNat (u.1 / 2) (t.lowCore (u.1 / 2) (u.1 % 2)) (u.2.2 + 8 * n) 8)) t) t) := by
    induction l generalizing t with
    | nil => exact ht
    | cons u l ih =>
      refine ih (fun i hi => hl i (by simp [hi])) _ (hone _ (fun n hn => ?_)
        (fun t n => t.spNat (u.1 / 2) (t.lowCore (u.1 / 2) (u.1 % 2)) (u.2.2 + 8 * n) 8) _ ht)
      exact lt_of_lt_of_le (List.mem_range.mp hn) (hl u (by simp))
  exact hall _ h s (KeepsRegs.refl _ s)

theorem KeepsRegs.logDrain {r s : State} (h : KeepsRegs writeKey r s) (j v : Nat) : KeepsRegs writeKey r (s.logDrain j v) := by
  have hlog (half i : Nat) : KeepsRegs writeKey r (s.writeLog j half i v) := by
    unfold State.writeLog
    dsimp only
    split
    · exact h
    · exact (h.setMemNat _ _ _).countMem _ _ _
  unfold State.logDrain
  dsimp only
  split
  · exact (hlog _ _).congr rfl
  · exact h.put (.inr ⟨j, .inr (.inl rfl)⟩) 1

theorem KeepsRegs.turnLogs (s : State) (j : Nat) : KeepsRegs writeKey s (s.turnLogs j) := by
  unfold State.turnLogs
  exact KeepsRegs.foldl _ _ (KeepsRegs.congr (KeepsRegs.refl _ s) rfl) (fun t v ht => ht.logDrain j v)

/-- Without a buddy nothing is sent to one. -/
theorem State.recordToBuddy_none {s : State} {j : Nat} (h : s.flag (Reg.SN_CFG.BUDDY j) = false) (half : Nat) (r : Record) :
    s.recordToBuddy j half r = s := by
  simp [State.recordToBuddy, State.toBuddy, h]

/-- A host add that a Curtain held touches no register that a commit sets, `INCOMPLETE` neither (R404). -/
theorem KeepsRegs.applyHeld {r s : State} {j : Nat} (hj : j < 8)
    (h : KeepsRegs (apart (Reg.SN_JOB_STATUS.INCOMPLETE j :: curtainFlds j)) r s) (a : Nat × Nat × Nat) :
    KeepsRegs (apart (Reg.SN_JOB_STATUS.INCOMPLETE j :: curtainFlds j)) r (s.applyHeld j a) := by
  have hidx : a.1 % 256 < 256 := Nat.mod_lt _ (by decide)
  have hapart {k : Nat} (hk : k ≠ (0x500010 + j * 0x10000) * 64 + 5) (hc : apart (curtainFlds j) k) :
      apart (Reg.SN_JOB_STATUS.INCOMPLETE j :: curtainFlds j) k := by
    intro f hf
    rcases List.mem_cons.mp hf with rfl | hf
    · exact hk
    · exact hc f hf
  have hcount : apart (Reg.SN_JOB_STATUS.INCOMPLETE j :: curtainFlds j) (Reg.JOB_FLAG.COUNT j (a.1 % 256)).key := by
    apply hapart
    · simp only [Fld.key, Reg.JOB_FLAG.COUNT]
      omega
    · rw [apart_curtainFlds]
      simp only [Fld.key, Reg.JOB_FLAG.COUNT, Reg.JOB_CTX_MASK.MASK]
      omega
  have hsat : apart (Reg.SN_JOB_STATUS.INCOMPLETE j :: curtainFlds j) (Reg.JOB_STATUS.FLAG_SAT_EVT j).key := by
    apply hapart
    · simp only [Fld.key, Reg.JOB_STATUS.FLAG_SAT_EVT]
      omega
    · rw [apart_curtainFlds]
      simp only [Fld.key, Reg.JOB_STATUS.FLAG_SAT_EVT, Reg.JOB_CTX_MASK.MASK]
      omega
  have htrace {k : Nat} (hk : traceKey k) : apart (Reg.SN_JOB_STATUS.INCOMPLETE j :: curtainFlds j) k := by
    unfold traceKey at hk
    apply hapart
    · omega
    · rw [apart_curtainFlds]
      simp only [Fld.key, Reg.JOB_CTX_MASK.MASK]
      omega
  have hadd : KeepsRegs (apart (Reg.SN_JOB_STATUS.INCOMPLETE j :: curtainFlds j)) r (s.addJobFlag j (a.1 % 256) a.2.1 1 523) := by
    unfold State.addJobFlag
    dsimp only
    split
    · exact h.put hcount _
    · refine KeepsRegs.trans ((h.put hcount 0xFFFF).put hsat 1) (KeepsRegs.mono ?_ (fun k hk => htrace hk))
      exact ((Recorded.refl traceKey _).trace traceKeys_traceKey (by simp [hj]) _ _ _).regs
  unfold State.applyHeld
  dsimp only
  split
  · exact hadd
  · exact hadd.congr (State.ringDone_regs _ _ _ _ _).1

/-- A commit's record, its turned logs and what goes to the buddy. -/
def State.withRecord (s : State) (j tc : Nat) (uses : List (Nat × Nat × Nat)) : State :=
  (((s.setSn j { s.snOf j with
    recs := Tab.set none (s.snOf j).recs (1 - s.get (Reg.SN_JOB_STATUS.REC j)) (some (s.makeRecord j uses)), tc := tc, heldAdds := []
    drained := [], sentMarkers := false, readyAt := none, beatHold := false, restarts := 0 }).put (Reg.SN_JOB_STATUS.REC j)
      (1 - s.get (Reg.SN_JOB_STATUS.REC j))).turnLogs j).recordToBuddy j (1 - s.get (Reg.SN_JOB_STATUS.REC j)) (s.makeRecord j uses)

/-- The rest of a commit: the held host adds, and the registers that show it. -/
def State.commitShown (s : State) (j tc : Nat) (x : SnS) : State :=
  let s := x.heldAdds.foldl (fun (t : State) a => t.applyHeld j a) (s.put (Reg.SN_JOB_STATUS.INCOMPLETE j) 0)
  let s := { s with relay := Tab.set (0, 0) s.relay (s.group j) (0, 0) }
  let s := ((s.put (Reg.SN_LAST_T.T j) tc).put (Reg.SN_JOB_STATUS.COMMIT_EVT j) 1).inc (Reg.SN_COMMITS.N j) 1
  let s := s.put (Reg.SN_COST.QUIESCE j) (min ((tc - x.t) * 10 ^ 6 / 2 ^ 30) (2 ^ 32 - 1))
  s.put (Reg.SN_JOB_STATUS.PHASE j) 5

/-- The state whose record a commit takes: epochs stepped, loader records gathered, contexts released. -/
def State.imageState (s : State) (j : Nat) : State := (((s.flushAccess j).stepEpochs j).gatherLoaders j).releaseCtxs j

theorem State.commitCurtain_eq (s : State) (j tc : Nat) : s.commitCurtain j tc =
    ((s.imageState j).withRecord j tc (s.loaderUses j)).commitShown j tc ((s.imageState j).snOf j) := rfl

/-- The record changes none of the registers that a commit sets. -/
theorem KeepsRegs.withRecord {s : State} {j : Nat} (hj : j < 8) (hbuddy : s.flag (Reg.SN_CFG.BUDDY j) = false) (tc : Nat)
    (uses : List (Nat × Nat × Nat)) : KeepsRegs (apart (curtainFlds j)) s (s.withRecord j tc uses) := by
  have hrec : apart (curtainFlds j) (Reg.SN_JOB_STATUS.REC j).key := by
    rw [apart_curtainFlds]
    simp only [Fld.key, Reg.SN_JOB_STATUS.REC, Reg.JOB_CTX_MASK.MASK]
    omega
  have hput (t : State) (ht : t.regs = s.regs) (v : Nat) :
      KeepsRegs (apart (curtainFlds j)) s ((t.put (Reg.SN_JOB_STATUS.REC j) v).turnLogs j) :=
    (((KeepsRegs.refl _ s).congr ht).put hrec v).trans ((KeepsRegs.turnLogs _ j).mono (fun k hk => apart_of_writeKey hj hk))
  unfold State.withRecord
  rw [State.recordToBuddy_none]
  · exact hput (s.setSn j _) rfl _
  · have hkept := (hput (s.setSn j { s.snOf j with
      recs := Tab.set none (s.snOf j).recs (1 - s.get (Reg.SN_JOB_STATUS.REC j)) (some (s.makeRecord j uses)), tc := tc, heldAdds := []
      drained := [], sentMarkers := false, readyAt := none, beatHold := false, restarts := 0 }) rfl
      (1 - s.get (Reg.SN_JOB_STATUS.REC j))).get_of_mem (f := Reg.SN_CFG.BUDDY j) (by simp [curtainFlds])
    simpa [State.flag, hkept] using hbuddy

/-- The state whose record is taken holds the stepped epochs. -/
theorem KeepsRegs.imageState {s : State} {j : Nat} (hj : j < 8) (hload : ∀ u ∈ s.loaderUses j, u.2.1 ≤ 8) :
    KeepsRegs (apart (curtainFlds j)) ((s.flushAccess j).stepEpochs j) (s.imageState j) := by
  have hflush : KeepsRegs (apart (curtainFlds j)) s (s.flushAccess j) :=
    (KeepsRegs.flushAccess s j).mono (fun k hk => apart_of_writeKey hj hk)
  have hmask : ((s.flushAccess j).stepEpochs j).get (Reg.JOB_CTX_MASK.MASK j) = s.get (Reg.JOB_CTX_MASK.MASK j) := by
    rw [← hflush.get_of_mem (f := Reg.JOB_CTX_MASK.MASK j) (by simp [curtainFlds])]
    refine (State.get_put_ne _ _ _ _ ?_).trans (State.get_put_ne _ _ _ _ ?_) <;>
      (simp only [Fld.key, Reg.JOB_CTX_MASK.MASK, Reg.SN_EPOCH.BASE, Reg.SN_EPOCH.CUR]; omega)
  have huses : ((s.flushAccess j).stepEpochs j).loaderUses j = s.loaderUses j :=
    State.loaderUses_congr (t := (s.flushAccess j).stepEpochs j) (s.flushAccess_ctx j) j hmask
  have hgather := KeepsRegs.gatherLoaders (s := (s.flushAccess j).stepEpochs j) (by rwa [huses])
  exact hgather.trans (((KeepsRegs.refl contextKey _).releaseCtxs j).mono (fun k hk => apart_of_context hj hk))

/-- What the end of a commit shows, from the state that has the record. -/
theorem State.commitShown_fields {s : State} {j : Nat} (hj : j < 8) (tc : Nat) (x : SnS) :
    (s.commitShown j tc x).phase j = 5 ∧ (s.commitShown j tc x).get (Reg.SN_LAST_T.T j) = tc % 2 ^ 64 ∧
      (s.commitShown j tc x).get (Reg.SN_COMMITS.N j) = (s.get (Reg.SN_COMMITS.N j) + 1) % 2 ^ 64 ∧
      (s.commitShown j tc x).get (Reg.SN_EPOCH.CUR j) = s.get (Reg.SN_EPOCH.CUR j) ∧
      (s.commitShown j tc x).get (Reg.SN_EPOCH.BASE j) = s.get (Reg.SN_EPOCH.BASE j) ∧
      (s.commitShown j tc x).get (Reg.SN_JOB_STATUS.INCOMPLETE j) = 0 := by
  have hheld : KeepsRegs (apart (Reg.SN_JOB_STATUS.INCOMPLETE j :: curtainFlds j)) (s.put (Reg.SN_JOB_STATUS.INCOMPLETE j) 0)
      (x.heldAdds.foldl (fun (t : State) a => t.applyHeld j a) (s.put (Reg.SN_JOB_STATUS.INCOMPLETE j) 0)) :=
    KeepsRegs.foldl _ _ (KeepsRegs.refl _ _) (fun t a ht => ht.applyHeld hj a)
  have hput (f : Fld) (hf : f ∈ curtainFlds j) (hne : f.key ≠ (Reg.SN_JOB_STATUS.INCOMPLETE j).key) :
      (x.heldAdds.foldl (fun (t : State) a => t.applyHeld j a) (s.put (Reg.SN_JOB_STATUS.INCOMPLETE j) 0)).get f = s.get f :=
    (hheld.get_of_mem (by simp [hf])).trans (State.get_put_ne _ _ _ _ hne)
  have hcommits := hput (Reg.SN_COMMITS.N j) (by simp [curtainFlds])
    (by simp only [Fld.key, Reg.SN_COMMITS.N, Reg.SN_JOB_STATUS.INCOMPLETE]; omega)
  have hcur := hput (Reg.SN_EPOCH.CUR j) (by simp [curtainFlds])
    (by simp only [Fld.key, Reg.SN_EPOCH.CUR, Reg.SN_JOB_STATUS.INCOMPLETE]; omega)
  have hbase := hput (Reg.SN_EPOCH.BASE j) (by simp [curtainFlds])
    (by simp only [Fld.key, Reg.SN_EPOCH.BASE, Reg.SN_JOB_STATUS.INCOMPLETE]; omega)
  have hinc : (x.heldAdds.foldl (fun (t : State) a => t.applyHeld j a) (s.put (Reg.SN_JOB_STATUS.INCOMPLETE j) 0)).get
      (Reg.SN_JOB_STATUS.INCOMPLETE j) = 0 := (hheld.get_of_mem (by simp)).trans (State.get_put_same _ _ _)
  unfold State.commitShown
  generalize x.heldAdds.foldl (fun (t : State) a => t.applyHeld j a) (s.put (Reg.SN_JOB_STATUS.INCOMPLETE j) 0) = v
    at hcommits hcur hbase hinc
  have hrelay (f : Fld) : ({ v with relay := Tab.set (0, 0) v.relay (v.group j) (0, 0) } : State).get f = v.get f := rfl
  dsimp only [State.inc, State.phase]
  rw [← hcommits, ← hcur, ← hbase, ← hinc]
  refine ⟨State.get_put_same _ _ _, ?_, ?_, ?_, ?_, ?_⟩ <;>
    simp (disch := (simp only [Fld.key, Reg.SN_LAST_T.T, Reg.SN_JOB_STATUS.COMMIT_EVT, Reg.SN_COMMITS.N, Reg.SN_COST.QUIESCE,
      Reg.SN_JOB_STATUS.PHASE, Reg.SN_EPOCH.CUR, Reg.SN_EPOCH.BASE, Reg.SN_JOB_STATUS.INCOMPLETE]; omega)) only
      [State.get_put_ne, State.get_put_same] <;> rfl

end Sys2Proof.Machine

namespace Sys2Proof.Proofs
open Sys2Proof.Machine

/-- Settles O31: each event by its definition; a commit through the registers that its stages leave. -/
theorem curtainsComplete : Obligations.CurtainsComplete := by
  unfold Obligations.CurtainsComplete
  refine ⟨?_, ?_, ?_, ?_, ?_, ?_, ?_, ?_, ?_, ?_⟩
  · intro j tm s hj hopen hcode
    rw [exec_snReq hopen hj]
    simp only [State.writeSnReq, hcode, if_true]
    rfl
  · intro j tm s hj hopen hcode
    rw [exec_snReq hopen hj]
    simp only [State.writeSnReq, hcode, if_false]
  · intro j s hj hdue
    show execCurtainMaxInterval j s = _
    simp only [execCurtainMaxInterval, inUnits, hj, hdue, decide_true, if_true]
    rfl
  · intro j tm s hj hp hmay
    have hexec : exec (.curtainArm j) s = .next (s.curtainArm j) := by
      show execCurtainArm j s = _
      simp [execCurtainArm, inUnits, hj]
    refine ⟨fun hdue => ?_, fun hdue hreq hcoord => ?_, s.armPart_fields j tm⟩ <;> rw [hexec]
    · simp [State.curtainArm, hp, hmay, hdue]
    · simp [State.curtainArm, hp, hmay, hdue, hreq, hcoord]
  · intro j s hj hstate hphase ht
    have hexec : exec (.curtainTReached j) s = .next (if s.group j = 0 ∨ s.lockState = 2 then
        s.put (Reg.SN_JOB_STATUS.PHASE j) 2 else s.giveUpCurtain j) := by
      show execCurtainTReached j s = _
      simp [execCurtainTReached, inUnits, hj, hstate, hphase, ht]
    refine ⟨fun hlocked => ?_, fun hgroup hlock => ?_⟩ <;> rw [hexec]
    · rw [if_pos hlocked]
    · rw [if_neg (by simp [hgroup, hlock])]
  · intro j s hj hp hstate hphase hgroup hquiet hout
    obtain ⟨htime, hmem, hcores, hqueues⟩ := s.quiesceStates_rest j
    refine ⟨s.curtainReady j, ?_, ?_⟩
    · show execCurtainReady j s = _
      simp [execCurtainReady, inUnits, hj]
    · rw [State.curtainReady_local hj hp hstate hphase hgroup hquiet hout]
      refine ⟨State.get_put_same _ _ _, ?_, hmem, hcores, hqueues⟩
      refine (congrArg SnS.readyAt (State.snOf_setSn _ _ _)).trans ?_
      simp only [State.netNow, State.stamp, htime]
  · intro j tc s u hj hmay hu hlater
    have hu' : (u.snOf j).tc = tc := by
      rw [hu]
      exact congrArg SnS.tc (State.snOf_setSn _ _ _)
    show execCurtainCommit j tc s = _
    simp only [execCurtainCommit, inUnits, hj, decide_true, if_true, State.curtainCommit, hmay]
    rw [← hu, hu', if_neg (by omega)]
  · intro j tc tc' s u hj hstate hphase htc hdue hu
    have hmay : s.mayCommit j tc' = false := by simp [State.mayCommit, hphase]
    have hexec : exec (.curtainCommit j tc') s = .next (if u.cqFault.isSome then u.settleCq else u.commitCurtain j tc) := by
      show execCurtainCommit j tc' s = _
      simp only [execCurtainCommit, inUnits, hj, decide_true, if_true, State.curtainCommit, hmay, Bool.false_eq_true, if_false]
      rw [htc, ← hu, if_pos ⟨hstate, hphase, hdue⟩]
    refine ⟨fun hnone => ?_, fun hsome => ?_⟩ <;> rw [hexec]
    · rw [hnone]
      rfl
    · rw [if_pos (Option.isSome_iff_ne_none.mpr hsome)]
  · intro j tc s hj hload hbuddy
    obtain ⟨hcur, hbase⟩ := (s.flushAccess j).stepEpochs_fields j
    have hflush : KeepsRegs (apart (curtainFlds j)) s (s.flushAccess j) :=
      (KeepsRegs.flushAccess s j).mono (fun k hk => apart_of_writeKey hj hk)
    have hstep (f : Fld) (hf : f ∈ curtainFlds j) (h1 : f.key ≠ (Reg.SN_EPOCH.CUR j).key)
        (h2 : f.key ≠ (Reg.SN_EPOCH.BASE j).key) : ((s.flushAccess j).stepEpochs j).get f = s.get f :=
      ((State.get_put_ne _ _ _ _ h2).trans (State.get_put_ne _ _ _ _ h1)).trans (hflush.get_of_mem hf)
    have himage := KeepsRegs.imageState hj hload
    have hbuddy' : (s.imageState j).flag (Reg.SN_CFG.BUDDY j) = false := by
      have hkept := (himage.get_of_mem (f := Reg.SN_CFG.BUDDY j) (by simp [curtainFlds])).trans
        (hstep _ (by simp [curtainFlds]) (by simp only [Fld.key, Reg.SN_CFG.BUDDY, Reg.SN_EPOCH.CUR]; omega)
          (by simp only [Fld.key, Reg.SN_CFG.BUDDY, Reg.SN_EPOCH.BASE]; omega))
      simpa [State.flag, hkept] using hbuddy
    have hrec := himage.trans (KeepsRegs.withRecord hj hbuddy' tc (s.loaderUses j))
    obtain ⟨hphase, hlast, hcommits, hcur', hbase', hinc⟩ := State.commitShown_fields
      (s := (s.imageState j).withRecord j tc (s.loaderUses j)) hj tc ((s.imageState j).snOf j)
    rw [State.commitCurtain_eq]
    refine ⟨hphase, hlast, ?_, ?_, ?_, hinc⟩
    · rw [hcommits, hrec.get_of_mem (by simp [curtainFlds]), hstep _ (by simp [curtainFlds])
        (by simp only [Fld.key, Reg.SN_COMMITS.N, Reg.SN_EPOCH.CUR]; omega)
        (by simp only [Fld.key, Reg.SN_COMMITS.N, Reg.SN_EPOCH.BASE]; omega)]
    · rw [hcur', hrec.get_of_mem (by simp [curtainFlds]), hcur, hflush.get_of_mem (by simp [curtainFlds])]
    · rw [hbase', hrec.get_of_mem (by simp [curtainFlds]), hbase, hflush.get_of_mem (by simp [curtainFlds])]
  · intro j s hj hp hstate hlo hhi
    refine ⟨?_, fun hgroup hheld => State.giveUpCurtain_local hj hlo hhi hgroup hheld⟩
    show execCurtainAbandon j s = _
    simp [execCurtainAbandon, inUnits, hj, hp, hstate, hlo, hhi]

end Sys2Proof.Proofs
end

section
/-! Tokens, steps, scales, the waits of updates, and beats (R205, R351 to R371). -/

namespace Sys2Proof.Machine

/-! ## Commands -/

theorem exec_schedInject {s : State} (h : s.Open) {j : Nat} (hj : j < 8) (v : Nat) :
    exec (.schedInject j v) s = .next (s.writeInject j v) := by
  show execSchedInject j v s = _
  simp only [execSchedInject, inUnits, hj, decide_true, if_true, State.barWrite_open h]

theorem exec_stepSeqWrite {s : State} (h : s.Open) {j : Nat} (hj : j < 8) (v : Nat) :
    exec (.stepSeqWrite j v) s = .next (s.writeStepSeq j v) := by
  show execStepSeqWrite j v s = _
  simp only [execStepSeqWrite, inUnits, hj, decide_true, if_true, State.barWrite_open h]

theorem exec_scaleWrite {s : State} (h : s.Open) {j t : Nat} (hj : j < 8) (ht : t < 256) (v : Nat) :
    exec (.scaleWrite j t v) s = .next (s.writeScale j t v) := by
  show execScaleWrite j t v s = _
  simp only [execScaleWrite, inUnits, hj, ht, decide_true, Bool.and_self, if_true, State.barWrite_open h]

/-! ## A new step (R356) -/

/-- The scales' registers of a job: applying what is staged changes no others. -/
def scaleKey (k : Nat) : Prop := 0x600000 * 64 ≤ k

theorem KeepsRegs.applyScales (s : State) (j : Nat) : KeepsRegs scaleKey s (s.applyScales j) := by
  have hkey (k : Nat) : scaleKey (Reg.SCALE.EXP j k).key ∧ scaleKey (Reg.SCALE.PEND j k).key := by
    simp only [scaleKey, Fld.key, Reg.SCALE.EXP, Reg.SCALE.PEND]
    omega
  unfold State.applyScales
  refine KeepsRegs.foldl _ _ (KeepsRegs.refl _ s) (fun t k ht => ?_)
  obtain ⟨hexp, hpend⟩ := hkey k
  split
  · exact (ht.put hexp _).put hpend _
  · exact ht

/-- The staged step sizes are taken, the high words with the low ones. -/
def State.takeSizes (s : State) (j : Nat) : State :=
  (List.range 2).foldl (fun (t : State) i =>
    (t.put (Reg.STEP_SIZE.HI j i) (t.get (Reg.STEP_STAGE.HI j i))).put (Reg.STEP_SIZE.LO j i)
      (t.get (Reg.STEP_STAGE.LO j i))) s

theorem State.takeSizes_size (s : State) (j : Nat) {i : Nat} (hi : i < 2) :
    (s.takeSizes j).get (Reg.STEP_SIZE.LO j i) = s.get (Reg.STEP_STAGE.LO j i) % 2 ^ 32 := by
  have hlist : List.range 2 = [0, 1] := rfl
  have hcases : i = 0 ∨ i = 1 := by omega
  unfold State.takeSizes
  rw [hlist]
  simp only [List.foldl_cons, List.foldl_nil]
  rcases hcases with rfl | rfl <;>
    simp (disch := (simp only [Fld.key, Reg.STEP_SIZE.LO, Reg.STEP_SIZE.HI, Reg.STEP_STAGE.LO, Reg.STEP_STAGE.HI]; omega)) only
      [State.get_put_ne, State.get_put_same] <;> rfl

theorem State.takeSizes_other (s : State) (j : Nat) (f : Fld)
    (hf : ∀ i, i < 2 → f.key ≠ (Reg.STEP_SIZE.HI j i).key ∧ f.key ≠ (Reg.STEP_SIZE.LO j i).key) :
    (s.takeSizes j).get f = s.get f := by
  have hlist : List.range 2 = [0, 1] := rfl
  unfold State.takeSizes
  rw [hlist]
  simp only [List.foldl_cons, List.foldl_nil]
  rw [State.get_put_ne _ _ _ _ (hf 1 (by decide)).2, State.get_put_ne _ _ _ _ (hf 1 (by decide)).1,
    State.get_put_ne _ _ _ _ (hf 0 (by decide)).2, State.get_put_ne _ _ _ _ (hf 0 (by decide)).1]

theorem State.get_setJobS (s : State) (j : Nat) (x : JobS) (f : Fld) : (s.setJobS j x).get f = s.get f := rfl

/-- What an accepted `STEP_SEQ` write leaves in the step's registers. -/
theorem State.newStep_fields {s : State} {j : Nat} (hj : j < 8) (v : Nat) :
    (s.newStep j v).get (Reg.STEP_SEQ.SEQ j) = v % 2 ^ 48 ∧ (s.newStep j v).get (Reg.TB_DRAWS.COUNT j) = 0 ∧
      (s.newStep j v).get (Reg.STEP_NF.LOCAL j) = 0 ∧ (s.newStep j v).get (Reg.STEP_NF.GLOBAL j) = 0 ∧
      (s.newStep j v).get (Reg.STEP_NF.DONE j) = 0 ∧ (s.newStep j v).get (Reg.STEP_NF.SKIP j) = 0 ∧
      (s.newStep j v).get (Reg.SCHED_STATUS.SEQ_NEW j) = 1 ∧
      (∀ i, i < 2 → (s.newStep j v).get (Reg.STEP_SIZE.LO j i) = s.get (Reg.STEP_STAGE.LO j i) % 2 ^ 32) := by
  have hput (f : Fld) : (s.newStep j v).get f = ((((((((((((s.put (Reg.STEP_SEQ.SEQ j) v).takeSizes j).applyScales j).put
      (Reg.TB_DRAWS.COUNT j) 0).put (Reg.SCHED_STATUS.SEQ_NEW j) 1).put (Reg.STEP_NF.LOCAL j) 0).put (Reg.STEP_NF.GLOBAL j)
      0).put (Reg.STEP_NF.DONE j) 0).put (Reg.STEP_NF.SKIP j) 0).put (Reg.STEP_NF.NF_EVT j) 0).put (Reg.STEP_NF.SKIP_EVT j)
      0).get f) := by
    unfold State.newStep State.takeSizes
    exact State.get_setJobS _ _ _ _
  have hscales := KeepsRegs.applyScales ((s.put (Reg.STEP_SEQ.SEQ j) v).takeSizes j) j
  have hseq : (((s.put (Reg.STEP_SEQ.SEQ j) v).takeSizes j).applyScales j).get (Reg.STEP_SEQ.SEQ j) = v % 2 ^ 48 := by
    rw [hscales _ (by simp only [scaleKey, Fld.key, Reg.STEP_SEQ.SEQ]; omega), State.takeSizes_other, State.get_put_same]
    · rfl
    · intro i hi
      simp only [Fld.key, Reg.STEP_SEQ.SEQ, Reg.STEP_SIZE.HI, Reg.STEP_SIZE.LO]
      omega
  have hsize (i : Nat) (hi : i < 2) : (((s.put (Reg.STEP_SEQ.SEQ j) v).takeSizes j).applyScales j).get (Reg.STEP_SIZE.LO j i) =
      s.get (Reg.STEP_STAGE.LO j i) % 2 ^ 32 := by
    rw [hscales _ (by simp only [scaleKey, Fld.key, Reg.STEP_SIZE.LO]; omega), State.takeSizes_size _ _ hi,
      State.get_put_ne _ _ _ _ (by simp only [Fld.key, Reg.STEP_SEQ.SEQ, Reg.STEP_STAGE.LO]; omega)]
  generalize ((s.put (Reg.STEP_SEQ.SEQ j) v).takeSizes j).applyScales j = u at hput hseq hsize
  refine ⟨?_, ?_, ?_, ?_, ?_, ?_, ?_, fun i hi => ?_⟩ <;> rw [hput]
  case refine_1 =>
    rw [← hseq]
    simp (disch := (simp only [Fld.key, Reg.STEP_SEQ.SEQ, Reg.TB_DRAWS.COUNT, Reg.SCHED_STATUS.SEQ_NEW, Reg.STEP_NF.LOCAL,
      Reg.STEP_NF.GLOBAL, Reg.STEP_NF.DONE, Reg.STEP_NF.SKIP, Reg.STEP_NF.NF_EVT, Reg.STEP_NF.SKIP_EVT]; omega)) only
      [State.get_put_ne]
  case refine_8 =>
    rw [← hsize i hi]
    simp (disch := (simp only [Fld.key, Reg.STEP_SIZE.LO, Reg.TB_DRAWS.COUNT, Reg.SCHED_STATUS.SEQ_NEW, Reg.STEP_NF.LOCAL,
      Reg.STEP_NF.GLOBAL, Reg.STEP_NF.DONE, Reg.STEP_NF.SKIP, Reg.STEP_NF.NF_EVT, Reg.STEP_NF.SKIP_EVT]; omega)) only
      [State.get_put_ne]
  all_goals
    simp (disch := (simp only [Fld.key, Reg.TB_DRAWS.COUNT, Reg.SCHED_STATUS.SEQ_NEW, Reg.STEP_NF.LOCAL, Reg.STEP_NF.GLOBAL,
      Reg.STEP_NF.DONE, Reg.STEP_NF.SKIP, Reg.STEP_NF.NF_EVT, Reg.STEP_NF.SKIP_EVT]; omega)) only
      [State.get_put_ne, State.get_put_same, Nat.zero_mod]
    try rfl

/-! ## Beats (R365, R369, R370) -/

/-- The registers of a job's beat that a release sets. -/
def beatFlds (j : Nat) : List Fld := [Reg.CAL_BEAT.N j, Reg.CAL_RELEASE.T j, Reg.CAL_STATUS.CLOSED j]

theorem KeepsRegs.wakeBeat (s : State) (j : Nat) : KeepsRegs contextKey s (s.wakeBeat j) := by
  unfold State.wakeBeat
  refine KeepsRegs.foldl _ _ (KeepsRegs.refl _ s) (fun t p ht => ?_)
  split
  · exact ht.wake _ _
  · exact ht

theorem State.wakeBeat_job (s : State) (j : Nat) : (s.wakeBeat j).job = s.job := by
  unfold State.wakeBeat
  refine List.foldlRecOn (motive := fun t : State => t.job = s.job) _ _ rfl (fun t ht p _ => ?_)
  split <;> exact ht

/-- A beat that is opened: its number, its release, no closed elastic work, and none arrived. -/
theorem State.openBeat_fields (s : State) (j n a : Nat) :
    (s.openBeat j n a).get (Reg.CAL_BEAT.N j) = n % 2 ^ 48 ∧ (s.openBeat j n a).get (Reg.CAL_RELEASE.T j) = a % 2 ^ 64 ∧
      (s.openBeat j n a).get (Reg.CAL_STATUS.CLOSED j) = 0 ∧ ((s.openBeat j n a).jobS j).arrived = [] ∧
      (s.openBeat j n a).sn = s.sn ∧
      (s.openBeat j n a).get (Reg.SN_CFG.BEAT_EVERY j) = s.get (Reg.SN_CFG.BEAT_EVERY j) := by
  have hput (f : Fld) : (s.openBeat j n a).get f = ((((((s.put (Reg.CAL_BEAT.N j) n).put (Reg.CAL_RELEASE.T j) a).put
      (Reg.CAL_LATE.LATE j) (min (a - s.gridAt j n) (2 ^ 32 - 1))).put (Reg.CAL_LATE.CUT j) ((((s.put (Reg.CAL_BEAT.N j) n).put
      (Reg.CAL_RELEASE.T j) a).put (Reg.CAL_LATE.LATE j) (min (a - s.gridAt j n) (2 ^ 32 - 1))).beatCut j (a - s.gridAt j n))).put
      (Reg.CAL_STATUS.CLOSED j) 0).put (Reg.CAL_STATUS.ACTIVE j) 1).get f := by
    unfold State.openBeat
    rfl
  refine ⟨?_, ?_, ?_, ?_, rfl, ?_⟩
  case refine_4 => simp [State.openBeat, State.jobS, State.setJobS]
  all_goals
    rw [hput]
    simp (disch := (simp only [Fld.key, Reg.CAL_BEAT.N, Reg.CAL_RELEASE.T, Reg.CAL_LATE.LATE, Reg.CAL_LATE.CUT, Reg.CAL_STATUS.CLOSED,
      Reg.CAL_STATUS.ACTIVE, Reg.SN_CFG.BEAT_EVERY]; omega)) only [State.get_put_ne, State.get_put_same, Nat.zero_mod]
    try rfl

/-- What comes before the next beat opens: the mark, the overruns, the record, and the lateness. -/
def State.beatLeft (s : State) (j : Nat) : State :=
  let n := s.get (Reg.CAL_BEAT.N j)
  let late := s.nextRelease j - s.gridAt j (n + 1)
  let mark := (s.jobS j).marked.getD (s.beatEnd j)
  let m := mark - s.get (Reg.CAL_RELEASE.T j)
  let s := (s.put (Reg.CAL_MARK.T j) mark).countOverrun j n m
  let s := s.trace 532 0x0130 (some j)
    (n % 2 ^ 16 * 2 ^ 48 + min (late / 2 ^ 10) (2 ^ 24 - 1) * 2 ^ 24 + min (m / 2 ^ 10) (2 ^ 24 - 1))
  if late = 0 then s else s.put (Reg.CAL_STATUS.LATE_EVT j) 1

theorem State.beatRelease_eq (s : State) (j : Nat) : s.beatRelease j =
    ((s.beatLeft j).openBeat j (s.get (Reg.CAL_BEAT.N j) + 1) (s.nextRelease j)).releaseBeat j (s.get (Reg.CAL_BEAT.N j) + 1)
      (s.nextRelease j) := rfl

/-- Neither the Safety Net's state nor the beats between Curtains change before the next beat opens. -/
theorem State.beatLeft_rest {s : State} {j : Nat} (hj : j < 8) : (s.beatLeft j).sn = s.sn ∧
    (s.beatLeft j).get (Reg.SN_CFG.BEAT_EVERY j) = s.get (Reg.SN_CFG.BEAT_EVERY j) := by
  have hover (t : State) (n m : Nat) : (t.countOverrun j n m).sn = t.sn ∧
      (t.countOverrun j n m).get (Reg.SN_CFG.BEAT_EVERY j) = t.get (Reg.SN_CFG.BEAT_EVERY j) := by
    have hrun (u : State) (v : Nat) : (u.put (Reg.CAL_STATUS.OVR_RUN j) v).get (Reg.SN_CFG.BEAT_EVERY j) =
        u.get (Reg.SN_CFG.BEAT_EVERY j) := by
      apply State.get_put_ne
      simp only [Fld.key, Reg.CAL_STATUS.OVR_RUN, Reg.SN_CFG.BEAT_EVERY]
      omega
    unfold State.countOverrun
    split
    · dsimp only
      split
      · exact ⟨rfl, hrun _ _⟩
      · exact ⟨rfl, hrun t 0⟩
    · exact ⟨rfl, hrun _ _⟩
  have htrace (t : State) (p : Nat) : (t.trace 532 0x0130 (some j) p).sn = t.sn ∧
      (t.trace 532 0x0130 (some j) p).get (Reg.SN_CFG.BEAT_EVERY j) = t.get (Reg.SN_CFG.BEAT_EVERY j) := by
    have hrec := (Recorded.refl traceKey t).trace traceKeys_traceKey (job := some j) (by simpa using hj) 532 0x0130 p
    refine ⟨hrec.sn_eq, hrec.regs _ ?_⟩
    simp only [traceKey, Fld.key, Reg.SN_CFG.BEAT_EVERY]
    omega
  have hmark (v : Nat) : (s.put (Reg.CAL_MARK.T j) v).get (Reg.SN_CFG.BEAT_EVERY j) = s.get (Reg.SN_CFG.BEAT_EVERY j) := by
    apply State.get_put_ne
    simp only [Fld.key, Reg.CAL_MARK.T, Reg.SN_CFG.BEAT_EVERY]
    omega
  have hlate (t : State) : (t.put (Reg.CAL_STATUS.LATE_EVT j) 1).get (Reg.SN_CFG.BEAT_EVERY j) = t.get (Reg.SN_CFG.BEAT_EVERY j) := by
    apply State.get_put_ne
    simp only [Fld.key, Reg.CAL_STATUS.LATE_EVT, Reg.SN_CFG.BEAT_EVERY]
    omega
  have hboth (t : State) (n m p : Nat) : ((t.countOverrun j n m).trace 532 0x0130 (some j) p).sn = t.sn ∧
      ((t.countOverrun j n m).trace 532 0x0130 (some j) p).get (Reg.SN_CFG.BEAT_EVERY j) = t.get (Reg.SN_CFG.BEAT_EVERY j) :=
    ⟨(htrace _ _).1.trans (hover _ _ _).1, (htrace _ _).2.trans (hover _ _ _).2⟩
  unfold State.beatLeft
  dsimp only
  split
  · exact ⟨(hboth _ _ _ _).1, (hboth _ _ _ _).2.trans (hmark _)⟩
  · exact ⟨(hboth _ _ _ _).1, (hlate _).trans ((hboth _ _ _ _).2.trans (hmark _))⟩

/-- Whether a release carries a Curtain depends on the Safety Net's state and its configuration. -/
theorem State.carriesCurtain_congr {s t : State} {j : Nat} (hsn : t.sn = s.sn)
    (hevery : t.get (Reg.SN_CFG.BEAT_EVERY j) = s.get (Reg.SN_CFG.BEAT_EVERY j)) (n : Nat) :
    t.carriesCurtain j n = s.carriesCurtain j n := by
  simp only [State.carriesCurtain, State.snOf, hsn, hevery]

/-- A beat released without a Curtain (R365). -/
theorem State.beatRelease_fields {s : State} {j : Nat} (hj : j < 8)
    (hcarries : s.carriesCurtain j (s.get (Reg.CAL_BEAT.N j) + 1) = false) :
    (s.beatRelease j).get (Reg.CAL_BEAT.N j) = (s.get (Reg.CAL_BEAT.N j) + 1) % 2 ^ 48 ∧
      (s.beatRelease j).get (Reg.CAL_RELEASE.T j) = s.nextRelease j % 2 ^ 64 ∧
      (s.beatRelease j).get (Reg.CAL_STATUS.CLOSED j) = 0 ∧ ((s.beatRelease j).jobS j).arrived = [] := by
  obtain ⟨hsn, hevery⟩ := State.beatLeft_rest (s := s) hj
  obtain ⟨hn, ht, hclosed, harrived, hsn', hevery'⟩ :=
    (s.beatLeft j).openBeat_fields j (s.get (Reg.CAL_BEAT.N j) + 1) (s.nextRelease j)
  rw [s.beatRelease_eq j]
  generalize (s.beatLeft j).openBeat j (s.get (Reg.CAL_BEAT.N j) + 1) (s.nextRelease j) = u at *
  have hwake : u.releaseBeat j (s.get (Reg.CAL_BEAT.N j) + 1) (s.nextRelease j) = u.wakeBeat j := by
    rw [State.releaseBeat, State.carriesCurtain_congr (hsn'.trans hsn) (hevery'.trans hevery), hcarries]
    rfl
  have hkeep (f : Fld) (hf : f.key < 0x1000000 * 64) : (u.wakeBeat j).get f = u.get f :=
    KeepsRegs.wakeBeat u j f (by simpa [contextKey] using hf)
  rw [hwake, hkeep _ (by simp only [Fld.key, Reg.CAL_BEAT.N]; omega), hkeep _ (by simp only [Fld.key, Reg.CAL_RELEASE.T]; omega),
    hkeep _ (by simp only [Fld.key, Reg.CAL_STATUS.CLOSED]; omega)]
  exact ⟨hn, ht, hclosed, by simpa only [State.jobS, State.wakeBeat_job] using harrived⟩

end Sys2Proof.Machine

namespace Sys2Proof.Proofs
open Sys2Proof.Machine

/-- Settles O35: each command by its definition, the step's registers by the writes of a new step. -/
theorem tokensStepsAndScalesComplete : Obligations.TokensStepsAndScalesComplete := by
  unfold Obligations.TokensStepsAndScalesComplete
  refine ⟨?_, ?_, ?_, ?_, ?_, ?_, ?_, ?_⟩
  · intro j x s hj hx
    show execTokenPost j x s = _
    simp [execTokenPost, inUnits, hj, hx]
  · intro j x inj rest s u hj hx howed hroom hu
    subst hu
    refine ⟨fun hen => ?_, fun hen => ?_⟩ <;> simp only [State.postToken, howed, hroom, hen, Bool.false_eq_true, if_false,
      Bool.not_true, Bool.not_false, if_true]
  · rintro j v x n s hj hopen rfl rfl
    refine ⟨fun hcode => ?_, fun hcode => ?_⟩ <;> rw [exec_schedInject hopen hj, State.writeInject]
    · simp only [hcode, ne_eq, not_true_eq_false, if_false]
    · simp only [ne_eq, hcode, not_false_eq_true, if_true]
  · intro g c t s hg hc ht
    show execTokenComplete g c s = _
    simp [execTokenComplete, inUnits, hg, hc, ht]
  · intro j v s u hj hopen hcode hu
    refine ⟨fun hrun => ?_, fun hrun => ?_⟩ <;> rw [exec_stepSeqWrite hopen hj, State.writeStepSeq] <;>
      simp only [hcode, ne_eq, not_true_eq_false, if_false, ← hu, hrun, if_true]
  · exact fun j v s hj => State.newStep_fields hj v
  · intro j v s hj hopen hcode
    rw [exec_stepSeqWrite hopen hj, State.writeStepSeq]
    simp only [ne_eq, hcode, not_false_eq_true, if_true]
  · intro j t v s hj ht hopen
    refine ⟨fun hcode => ?_, fun hcode => ?_⟩ <;> rw [exec_scaleWrite hopen hj ht, State.writeScale]
    · simp only [hcode, ne_eq, not_true_eq_false, if_false]
    · simp only [ne_eq, hcode, not_false_eq_true, if_true]

/-- Settles O36: each event by its definition, a release without a Curtain through what opening a beat sets. -/
theorem updatesAndBeatsComplete : Obligations.UpdatesAndBeatsComplete := by
  unfold Obligations.UpdatesAndBeatsComplete
  refine ⟨?_, ?_, ?_, ?_, ?_, ?_, ?_⟩
  · intro g c q s hg hc hq hstale
    show execUpdStepStale g c s = _
    simp [execUpdStepStale, inUnits, hg, hc, hq, hstale]
  · rintro g c j q s u hg hc hq hcarry rfl hgate hwaited hdone
    have hcond : (!q.carry.isEmpty && s.flag (Reg.UPD_CFG.NF_GATE (s.jobOf g c)) && (q.waited || !wWV q.word) &&
        decide (s.get (Reg.UPD_CFG.NF_COLLS (s.jobOf g c)) ≤ s.get (Reg.STEP_NF.DONE (s.jobOf g c)))) = true := by
      have hw : (q.waited || !wWV q.word) = true := by
        rcases hwaited with h | h <;> simp [h]
      simp [hcarry, hgate, hw, hdone]
    have hexec : exec (.updNfGatePass g c) s = .next (s.gatePass g c q) := by
      show execUpdNfGatePass g c s = _
      simp only [execUpdNfGatePass, inUnits, hg, hc, decide_true, Bool.and_self, if_true, hq]
      rw [if_pos hcond]
    refine ⟨fun hrun => ?_, fun hdec hskip hu => ?_⟩ <;> rw [hexec, State.gatePass]
    · have hno : (s.nfDecision (s.jobOf g c) && s.flag (Reg.UPD_CFG.NF_STEP_SKIP (s.jobOf g c))) = false := by
        rcases hrun with h | h <;> simp [h]
      simp only [hno, Bool.false_eq_true, if_false]
    · simp only [hdec, hskip, Bool.and_self, if_true, hu]
  · rintro g c j s hg hc rfl hstate hbeat hreleased hpaces harrived hend
    show execBeatArrival g c s = _
    simp [execBeatArrival, inUnits, hg, hc, State.beatArrive, hstate, hbeat, hreleased, hpaces, harrived, hend]
  · intro j s hj hstate hbeat hreleased ht
    show execBeatRelease j s = _
    simp [execBeatRelease, inUnits, hj, hstate, hbeat, hreleased, ht]
  · intro j s hj hstate hbeat hreleased hended ht
    refine ⟨?_, State.beatRelease_fields hj⟩
    show execBeatRelease j s = _
    simp [execBeatRelease, inUnits, hj, hstate, hbeat, hreleased, hended, ht]
  · intro g c fb st tm b s hg hc hblock hbeat hclosed
    show execBeatDeadline g c s = _
    simp [execBeatDeadline, inUnits, hg, hc, hblock, hbeat, hclosed]
  · intro j n s hj hover
    show execBeatOverrun j s = _
    simp [execBeatOverrun, inUnits, hj, hover]

end Sys2Proof.Proofs
end

section
/-! Guyline ports and their link layer (R432 to R439). -/

namespace Sys2Proof.Machine

/-! ## Commands of a port -/

theorem exec_portEnWrite {s : State} (h : s.Open) {p : Nat} (hp : p < 16) (v : Nat) : exec (.portEnWrite p v) s =
    .next (s.portWrite p (0xB00000 + p * 0x10000) v (fun u => u.writePortCfg p v)) := by
  show execPortEnWrite p v s = _
  simp only [execPortEnWrite, inUnits, hp, decide_true, if_true, State.barWrite_open h]

theorem State.portWrite_free {s : State} {p off : Nat} (hpresent : s.portPresent p = true) (hheld : s.accessHeld off = false)
    (v : Nat) (f : State → State) : s.portWrite p off v f = f s := by
  rw [State.portWrite, if_pos hpresent, State.atIsland_free hheld]

/-- A `GL_PORT_CFG` write before the Playbill's commit sets its fields, `EN` last. -/
def State.portCfgSet (s : State) (p v : Nat) : State :=
  ((((s.put (Reg.GL_PORT_CFG.ROLE p) (bits v 4 2)).put (Reg.GL_PORT_CFG.HALF_OK p) (bits v 3 1)).put
    (Reg.GL_PORT_CFG.ENC p) (bits v 1 1)).put (Reg.GL_PORT_CFG.ENC_REQ p) (bits v 2 1)).put (Reg.GL_PORT_CFG.EN p) (bits v 0 1)

theorem State.portCfgSet_en (s : State) (p v : Nat) : (s.portCfgSet p v).get (Reg.GL_PORT_CFG.EN p) = bits v 0 1 := by
  have hbits : bits v 0 1 < 2 ^ 1 := Nat.mod_lt _ (by decide)
  refine (State.get_put_same _ _ _).trans (Nat.mod_eq_of_lt hbits)

theorem bits_zero_one (v : Nat) : bits v 0 1 = ofBool (bit v 0) := by
  rcases Nat.mod_two_eq_zero_or_one v with h | h <;> simp [bits, bit, ofBool, h]

theorem State.committed_put (s : State) (f : Fld) (v : Nat) : (s.put f v).committed = s.committed := rfl

/-- A port whose `EN` rises trains, before the commit and with no loop-back check (R433). -/
theorem State.writePortCfg_up {s : State} {p v : Nat} (hcode : portCfgCode p v = 0) (hcommit : s.committed = false)
    (hloop : s.hs.loop = none) (hwas : s.flag (Reg.GL_PORT_CFG.EN p) = false) (hnow : bit v 0 = true) :
    s.writePortCfg p v = ((s.portCfgSet p v).clearLink p).setPortState p 1 := by
  have hloop' : ¬ (s.portCfgSet p v).hs.loop = some p := by
    rw [show (s.portCfgSet p v).hs = s.hs from rfl, hloop]
    simp
  simp only [State.writePortCfg, hcode, ne_eq, not_true_eq_false, if_false, State.committed_put, hcommit, Bool.not_false, if_true,
    hwas, hnow]
  exact if_neg hloop'

/-- A port whose `EN` falls goes down. -/
theorem State.writePortCfg_down {s : State} {p v : Nat} (hcode : portCfgCode p v = 0) (hcommit : s.committed = false)
    (hwas : s.flag (Reg.GL_PORT_CFG.EN p) = true) (hnow : bit v 0 = false) :
    s.writePortCfg p v = ((s.portCfgSet p v).clearLink p).setPortState p 0 := by
  simp only [State.writePortCfg, hcode, ne_eq, not_true_eq_false, if_false, State.committed_put, hcommit, Bool.not_false, if_true,
    hwas, hnow]
  rfl

/-! ## A port's state -/

/-- A port's new state stands in `GL_PORT_STATUS`; beside it only `DOWN_EVT` changes. -/
theorem State.setPortState_state (s : State) (p st : Nat) : (s.setPortState p st).portState p = st % 8 := State.get_put_same _ _ _

theorem State.setPortState_get (s : State) (p st : Nat) {f : Fld} (hstate : f.key ≠ (Reg.GL_PORT_STATUS.STATE p).key)
    (hdown : f.key ≠ (Reg.GL_PORT_STATUS.DOWN_EVT p).key) : (s.setPortState p st).get f = s.get f := by
  unfold State.setPortState
  dsimp only
  rw [State.get_put_ne _ _ _ _ hstate]
  split
  · exact State.get_put_ne _ _ _ _ hdown
  · rfl

theorem State.setPortState_rest (s : State) (p st : Nat) :
    (s.setPortState p st).ports = s.ports ∧ (s.setPortState p st).mem = s.mem := by
  unfold State.setPortState
  dsimp only
  split <;> exact ⟨rfl, rfl⟩

theorem State.port_setPortState (s : State) (p st q : Nat) : (s.setPortState p st).port q = s.port q := by
  simp only [State.port, (State.setPortState_rest s p st).1]

/-- A port that retrains keeps its retry buffer (R436). -/
theorem State.retrain_fields (s : State) (p : Nat) :
    (s.retrain p).portState p = 1 ∧ ((s.retrain p).port p).retry = (s.port p).retry := by
  refine ⟨State.setPortState_state _ _ _, ?_⟩
  rw [State.retrain, State.port_setPortState, State.port_setPort]

/-- With nothing to send and no open tag a port sends nothing. -/
theorem State.pumpOut_idle {s : State} {p : Nat} (hwait : (s.port p).waiting = []) (hmac : (s.port p).txMac = 0) :
    s.pumpOut p = s := by
  have hnext : s.nextFlit p = none := by simp [State.nextFlit, hwait]
  simp [State.pumpOut, State.pumpPort, hnext, hmac]

theorem State.replay_empty {s : State} {p : Nat} (h : (s.port p).retry = []) : s.replay p = s := by simp [State.replay, h]

/-- A full-width port comes up: UP, the other end's ID, the event, and the whole allocation in a control flit. -/
theorem State.linkUp_full {s : State} {p : Nat} (peer : Nat) (hwait : (s.port p).waiting = [])
    (hretry : (s.port p).retry = []) (hmac : (s.port p).txMac = 0) :
    (s.linkUp p 2 15 peer).portState p = 2 ∧ (s.linkUp p 2 15 peer).get (Reg.GL_PORT_STATUS.PEER p) = peer % 2 ^ 16 ∧
      (s.linkUp p 2 15 peer).get (Reg.GL_PORT_STATUS.UP_EVT p) = 1 ∧
      ((s.linkUp p 2 15 peer).port p).ctl = some ((s.port p).rxSeq, false, s.allocation p) := by
  have hport : (((s.setPortState p 2).put (Reg.GL_PORT_STATUS.PEER p) peer).put (Reg.GL_PORT_STATUS.UP_EVT p) 1).port p =
      s.port p := s.port_setPortState p 2 p
  have hstate := s.setPortState_state p 2
  have halloc : (((s.setPortState p 2).put (Reg.GL_PORT_STATUS.PEER p) peer).put (Reg.GL_PORT_STATUS.UP_EVT p) 1).allocation p =
      s.allocation p := by
    have hget (v : Nat) : (((s.setPortState p 2).put (Reg.GL_PORT_STATUS.PEER p) peer).put (Reg.GL_PORT_STATUS.UP_EVT p) 1).get
        (vlCred p v) = s.get (vlCred p v) := by
      have hoff : (vlCred p v).off = 0xb00010 + p * 0x10000 ∧ (vlCred p v).lo < 64 := by
        unfold vlCred
        split <;> simp [Reg.GL_VL_CRED.VL0, Reg.GL_VL_CRED.VL1, Reg.GL_VL_CRED.VL2, Reg.GL_VL_CRED.VL3, Reg.GL_VL_CRED.VL4,
          Reg.GL_VL_CRED.VL5, Reg.GL_VL_CRED.VL6, Reg.GL_VL_CRED.VL7]
      obtain ⟨ho, hl⟩ := hoff
      rw [State.get_put_ne, State.get_put_ne, State.setPortState_get] <;>
        (simp only [Fld.key, ho, Reg.GL_PORT_STATUS.STATE, Reg.GL_PORT_STATUS.DOWN_EVT, Reg.GL_PORT_STATUS.PEER,
          Reg.GL_PORT_STATUS.UP_EVT]; omega)
    simp only [State.allocation, hget]
  generalize hu : ((s.setPortState p 2).put (Reg.GL_PORT_STATUS.PEER p) peer).put (Reg.GL_PORT_STATUS.UP_EVT p) 1 = u
    at hport halloc
  have hsent : (u.sendCtl p false (u.allocation p)).port p = { s.port p with
      ctl := some ((s.port p).rxSeq, false, s.allocation p), sinceAck := 0, nakOut := (s.port p).nakOut || false
      out := ctlBytes (s.port p).rxSeq false (s.allocation p) } := by
    rw [← hport, ← halloc]
    exact State.port_setPort _ _ _
  have heq : s.linkUp p 2 15 peer = u.sendCtl p false (u.allocation p) := by
    have hdone : ((u.sendCtl p false (u.allocation p)).replay p).pumpOut p = u.sendCtl p false (u.allocation p) := by
      rw [State.replay_empty (by rw [hsent]; exact hretry), State.pumpOut_idle (by rw [hsent]; exact hwait) (by rw [hsent]; exact hmac)]
    rw [← hdone, ← hu]
    rfl
  rw [heq, hsent]
  have hregs (f : Fld) : (u.sendCtl p false (u.allocation p)).get f = u.get f := rfl
  refine ⟨?_, ?_, ?_, rfl⟩
  · unfold State.portState at hstate ⊢
    rw [hregs, ← hu, State.get_put_ne, State.get_put_ne, hstate] <;>
      (simp only [Fld.key, Reg.GL_PORT_STATUS.STATE, Reg.GL_PORT_STATUS.PEER, Reg.GL_PORT_STATUS.UP_EVT]; omega)
  · rw [hregs, ← hu, State.get_put_ne, State.get_put_same]
    · rfl
    · simp only [Fld.key, Reg.GL_PORT_STATUS.PEER, Reg.GL_PORT_STATUS.UP_EVT]
      omega
  · rw [hregs, ← hu, State.get_put_same]
    rfl

/-! ## A lost port (R437) -/

/-- An error that is charged to no job of those that run is noted, and has no further consequence (R377). -/
theorem State.raiseErr_of_idle_job (s : State) {e : ErrAt} {j : Nat} (hjob : e.job = some j)
    (hidle : s.jobState j ≠ 2 ∧ s.jobState j ≠ 3) : s.raiseErr e = s.noteErr e := by
  have hc : s.chargedTo e = none := by simp [State.chargedTo, hjob, hidle.1, hidle.2]
  simp [State.raiseErr, hc]

/-- No register of a port, and no job's state, is among those that the noting of an error changes. -/
theorem not_noteKey_portState {p : Nat} (hp : p < 16) : ¬ noteKey (Reg.GL_PORT_STATUS.STATE p).key := by
  unfold noteKey traceKey
  rintro (h | h | ⟨j, h | h⟩ | ⟨g, c, h⟩) <;>
    simp only [Fld.key, Reg.GL_PORT_STATUS.STATE, Reg.JOB_STATUS.LAST_CODE, Reg.JOB_HALT_INFO.EXTRA, Reg.CTX_STATUS.CODE] at h <;>
    omega

theorem not_noteKey_jobState {j : Nat} (hj : j < 8) : ¬ noteKey (Reg.JOB_STATUS.STATE j).key := by
  unfold noteKey traceKey
  rintro (h | h | ⟨i, h | h⟩ | ⟨g, c, h⟩) <;>
    simp only [Fld.key, Reg.JOB_STATUS.STATE, Reg.JOB_STATUS.LAST_CODE, Reg.JOB_HALT_INFO.EXTRA, Reg.CTX_STATUS.CODE] at h <;>
    omega

/-- Faults charged to jobs that do not run are noted one by one. -/
theorem Recorded.raiseEach {s u : State} (e : ErrAt) (hcode : e.code < 512) (l : List Nat) (hl : ∀ j ∈ l, j < 8)
    (hidle : ∀ j, j < 8 → s.jobState j ≠ 2 ∧ s.jobState j ≠ 3) (hu : Recorded noteKey s u) :
    Recorded noteKey s (l.foldl (fun (t : State) j => t.raiseErr { e with job := some j }) u) := by
  induction l generalizing u with
  | nil => exact hu
  | cons j l ih =>
    have hj := hl j (by simp)
    have hstate : u.jobState j = s.jobState j := hu.regs _ (not_noteKey_jobState hj)
    refine ih (fun i hi => hl i (by simp [hi])) ?_
    have hnoted : u.raiseErr { e with job := some j } = u.noteErr { e with job := some j } :=
      State.raiseErr_of_idle_job u rfl (by rw [hstate]; exact hidle j hj)
    show Recorded noteKey s (u.raiseErr { e with job := some j })
    rw [hnoted]
    exact hu.noteErr _ (by simpa using hj) hcode

/-- The fault of a port that is lost. -/
def portErr (p : Nat) : ErrAt := { code := 0x12, island := portIsland p }

theorem State.losePort_eq (s : State) (p jobs : Nat) : s.losePort p jobs =
    if ((List.range 8).filter (fun j => bit jobs j || (s.jobsOn p).contains j)).isEmpty then
      ((s.setPortState p 4).clearLink p).raiseErr (portErr p)
    else ((List.range 8).filter (fun j => bit jobs j || (s.jobsOn p).contains j)).foldl
      (fun (t : State) j => t.raiseErr { portErr p with job := some j }) ((s.setPortState p 4).clearLink p) := rfl

/-- With no job running, a lost port is LOST. -/
theorem State.losePort_state {s : State} {p : Nat} (hp : p < 16) (jobs : Nat)
    (hidle : ∀ j, j < 8 → s.jobState j ≠ 2 ∧ s.jobState j ≠ 3) : (s.losePort p jobs).portState p = 4 := by
  have hdown : ((s.setPortState p 4).clearLink p).portState p = 4 := s.setPortState_state p 4
  have hidle' : ∀ j, j < 8 → ((s.setPortState p 4).clearLink p).jobState j ≠ 2 ∧
      ((s.setPortState p 4).clearLink p).jobState j ≠ 3 := by
    intro j hj
    have hkeep : ((s.setPortState p 4).clearLink p).jobState j = s.jobState j := by
      refine State.setPortState_get s p 4 ?_ ?_ <;>
        (simp only [Fld.key, Reg.JOB_STATUS.STATE, Reg.GL_PORT_STATUS.STATE, Reg.GL_PORT_STATUS.DOWN_EVT]; omega)
    rw [hkeep]
    exact hidle j hj
  have hcode : (portErr p).code < 512 := by simp [portErr]
  rw [State.losePort_eq]
  generalize (s.setPortState p 4).clearLink p = u at hdown hidle'
  split
  · have hnoted := (Recorded.refl noteKey u).noteErr (portErr p) (by simp [portErr]) hcode
    rw [State.raiseErr_of_no_job _ (show (portErr p).job = none from rfl)]
    exact (hnoted.regs _ (not_noteKey_portState hp)).trans hdown
  · have heach := Recorded.raiseEach (portErr p) hcode ((List.range 8).filter (fun j => bit jobs j || (s.jobsOn p).contains j))
      (fun j hj => List.mem_range.mp (List.mem_filter.mp hj).1) hidle' (Recorded.refl noteKey u)
    exact (heach.regs _ (not_noteKey_portState hp)).trans hdown

end Sys2Proof.Machine

namespace Sys2Proof.Proofs
open Sys2Proof.Machine

/-- Settles O37: each event by its definition, with what it leaves of a port's registers and its link layer. -/
theorem portStatesComplete : Obligations.PortStatesComplete := by
  unfold Obligations.PortStatesComplete
  refine ⟨?_, ?_, ?_, ?_, ?_, ?_, ?_, ?_⟩
  · intro p v s hp hopen hpresent hheld
    rw [exec_portEnWrite hopen hp, State.portWrite, if_pos hpresent, State.atIsland_held hheld]
  · intro p v s hp hopen hpresent hheld hcode hcommit hwas hnow hloop
    refine ⟨((s.portCfgSet p v).clearLink p).setPortState p 1, ?_, State.setPortState_state _ _ _, ?_, ?_,
      (State.setPortState_rest _ _ _).2⟩
    · rw [exec_portEnWrite hopen hp, State.portWrite_free hpresent hheld, State.writePortCfg_up hcode hcommit hloop hwas hnow]
    · rw [State.setPortState_get]
      · refine (s.portCfgSet_en p v).trans ?_
        simp [bits_zero_one, hnow, ofBool]
      all_goals
        simp only [Fld.key, Reg.GL_PORT_CFG.EN, Reg.GL_PORT_STATUS.STATE, Reg.GL_PORT_STATUS.DOWN_EVT]
        omega
    · unfold State.port
      rw [(State.setPortState_rest _ _ _).1]
      exact State.port_setPort (s.portCfgSet p v) p _
  · intro p v s hp hopen hpresent hheld hcode hcommit hwas hnow
    refine ⟨((s.portCfgSet p v).clearLink p).setPortState p 0, ?_, State.setPortState_state _ _ _, ?_,
      (State.setPortState_rest _ _ _).2⟩
    · rw [exec_portEnWrite hopen hp, State.portWrite_free hpresent hheld, State.writePortCfg_down hcode hcommit hwas hnow]
    · rw [State.setPortState_get]
      · refine (s.portCfgSet_en p v).trans ?_
        simp [bits_zero_one, hnow, ofBool]
      all_goals
        simp only [Fld.key, Reg.GL_PORT_CFG.EN, Reg.GL_PORT_STATUS.STATE, Reg.GL_PORT_STATUS.DOWN_EVT]
        omega
  · intro p v s hp hopen
    refine ⟨fun hpresent hheld hcode => ?_, fun hfused => ?_⟩ <;> rw [exec_portEnWrite hopen hp]
    · rw [State.portWrite_free hpresent hheld]
      simp only [State.writePortCfg, ne_eq, hcode, not_false_eq_true, if_true]
    · rw [State.portWrite, if_neg (by simp [hfused])]
  · intro p lanes peer s hp hstate
    refine ⟨fun st htrained => ?_, fun hno => ?_⟩
    · show execPortTrainingDone p lanes peer s = _
      simp [execPortTrainingDone, inUnits, hp, hstate, htrained]
    · show execPortTrainingDone p lanes peer s = _
      simp [execPortTrainingDone, inUnits, hp, hstate, hno]
  · exact fun p peer s _ hwait hretry hmac => State.linkUp_full peer hwait hretry hmac
  · intro p jobs s hp hlive
    refine ⟨?_, State.losePort_state hp jobs⟩
    show execPortLost p jobs s = _
    simp [execPortLost, inUnits, hp, hlive]
  · intro p s hp hup
    obtain ⟨hstate, hretry⟩ := s.retrain_fields p
    refine ⟨?_, hstate, hretry⟩
    show execPortRetrain p s = _
    simp [execPortRetrain, inUnits, hp, hup]

/-- Settles O38: each event of the link layer is the branch of its meaning that the hypotheses choose. -/
theorem linkLayerComplete : Obligations.LinkLayerComplete := by
  unfold Obligations.LinkLayerComplete
  refine ⟨?_, ?_, ?_, ?_, ?_, ?_, ?_⟩
  · intro p s hp hup
    show execAckSend p s = _
    simp [execAckSend, inUnits, hp, hup]
  · intro p seq n s u hp hseq hup
    have hack : exec (.ackReceive p seq) s = .next (s.ackArrive p seq) := by
      show execAckReceive p seq s = _
      simp [execAckReceive, inUnits, hp, hseq, hup]
    have hnak : exec (.nakReplay p seq) s = .next (s.nakArrive p seq) := by
      show execNakReplay p seq s = _
      simp [execNakReplay, inUnits, hp, hseq, hup]
    rw [hack, hnak]
    refine ⟨fun hout => ⟨?_, ?_⟩, fun hin => ⟨?_, fun hu => ⟨fun hgoes => ?_, fun hn hnaks => ?_⟩⟩⟩
    · simp [State.ackArrive, hout]
    · simp [State.nakArrive, hout]
    · simp [State.ackArrive, hin]
    · have hfew : (if n = 0 then (s.port p).naks + 1 else 1) < 16 := by
        split <;> omega
      simp only [State.nakArrive, hin]
      rw [← hu, if_pos hfew]
    · have hmany : ¬ (if n = 0 then (s.port p).naks + 1 else 1) < 16 := by
        rw [if_pos hn]
        omega
      simp only [State.nakArrive, hin]
      rw [← hu, if_neg hmany]
  · intro p v n s hp hv hn hup
    show execCreditReturn p v n s = _
    simp [execCreditReturn, inUnits, hp, hv, hn, hup]
  · intro p w flit s u hp hup hlen hw hu
    have hexec : exec (.flitReceive p flit) s = .next (s.flitArrive p flit) := by
      show execFlitReceive p flit s = _
      simp [execFlitReceive, inUnits, hp, hlen, hup]
    rw [hexec]
    refine ⟨fun hbad => ?_, fun hcrc hft hseq => ?_, fun hcrc hft => ?_, fun hcrc hft => ?_⟩
    · have hcond : (!crcOk flit || ((decide (bits w 30 2 = 1) || decide (bits w 30 2 = 3)) &&
          decide (bits w 18 12 ≠ (s.port p).rxSeq))) = true := by
        rcases hbad with h | ⟨h, hne⟩
        · simp [h]
        · rcases h with h | h <;> simp [h, hne]
      have hflit : s.flitArrive p flit = s.badFlit p := by
        unfold State.flitArrive
        rw [← hw]
        exact if_pos hcond
      have hport : (s.inc (Reg.GL_CRC_ERR.N p) 1).port p = s.port p := rfl
      rw [hflit, State.badFlit]
      refine ⟨fun hnak => ?_, fun hnak => ?_⟩ <;> simp [hport, hnak]
    · have hft' : (decide (bits w 30 2 = 1) || decide (bits w 30 2 = 3)) = true := by
        rcases hft with h | h <;> simp [h]
      simp only [State.flitArrive, ← hw, ← hu, hcrc, hft', hseq, ne_eq, not_true_eq_false, decide_false, Bool.and_false,
        Bool.not_true, Bool.or_self, Bool.false_eq_true, if_false, if_true]
    · have hft' : (decide (bits w 30 2 = 1) || decide (bits w 30 2 = 3)) = false := by simp [hft]
      simp only [State.flitArrive, ← hw, ← hu, hcrc, hft', Bool.false_and, Bool.not_true, Bool.or_self, Bool.false_eq_true,
        if_false]
      rw [if_pos hft]
    · have hft' : (decide (bits w 30 2 = 1) || decide (bits w 30 2 = 3)) = false := by simp [hft]
      simp only [State.flitArrive, ← hw, ← hu, hcrc, hft', Bool.false_and, Bool.not_true, Bool.or_self, Bool.false_eq_true,
        if_false]
      rw [if_neg (by omega)]
  · intro p k s hp hup henc hkey
    show execMacFlitCheck p true k s = _
    simp [execMacFlitCheck, inUnits, hp, hup, henc, State.checkTag, hkey]
  · intro p k ok s hp hup henc hbad
    have hbad' : (ok && s.knowsKey p k) = false := by
      rcases hbad with h | h <;> simp [h]
    have hexec : exec (.macFlitCheck p ok k) s = .next (s.checkTag p ok k) := by
      show execMacFlitCheck p ok k s = _
      simp [execMacFlitCheck, inUnits, hp, hup, henc]
    refine ⟨fun hfirst => ?_, fun hmore => ?_⟩ <;> rw [hexec] <;>
      simp only [State.checkTag, hbad', Bool.false_eq_true, if_false]
    · rw [if_pos hfirst]
    · rw [if_neg hmore]
  · intro p s hp hup henc hspent
    have hlimit : encLimit ≤ s.get (Reg.GL_ENC_CTR.FLITS p) := hspent
    show execEncCounterLimit p s = _
    simp [execEncCounterLimit, inUnits, hp, hup, henc, hlimit]

end Sys2Proof.Proofs
end

section
/-! Cascade packets, masters and identity, collectives (R443 to R457). -/

namespace Sys2Proof.Machine

/-! ## Packets that arrive -/

/-- The state in which a packet of a stamp is delivered at a port (R33). -/
def State.stamped (s : State) (p stamp : Nat) : State := { s with rxStamp := extendStamp (s.stamp (504 + p)) stamp }

theorem State.get_rxStamp (s : State) (x : Nat) (f : Fld) : ({ s with rxStamp := x } : State).get f = s.get f := rfl

theorem State.get_stamped (s : State) (p stamp : Nat) (f : Fld) : (s.stamped p stamp).get f = s.get f := s.get_rxStamp _ f

/-- A packet for this device is delivered, with its stamp extended. -/
theorem State.arrive_here {s : State} {p : Nat} {k : Packet} (hup : s.portUp p = true) (hp : s.pairsFailed = false ∨ k.type = 5)
    (hdst : k.dst = s.get Reg.GL_DEV_ID.ID) (f : State → State) : s.arrive p k f = f (s.stamped p k.stamp) := by
  have hgo : (!s.portUp p || (s.pairsFailed && decide (k.type ≠ 5))) = false := by
    rcases hp with h | h <;> simp [hup, h]
  rw [State.arrive, hgo, if_neg (by decide), if_pos hdst]
  rfl

/-- A packet for another device goes on (R445). -/
theorem State.arrive_elsewhere {s : State} {p : Nat} {k : Packet} (hup : s.portUp p = true) (hp : s.pairsFailed = false)
    (hdst : k.dst ≠ s.get Reg.GL_DEV_ID.ID) (f : State → State) : s.arrive p k f = s.forward p k := by
  have hgo : (!s.portUp p || (s.pairsFailed && decide (k.type ≠ 5))) = false := by simp [hup, hp]
  rw [State.arrive, hgo, if_neg (by decide), if_neg hdst]

theorem exec_dataPacketReceive {p q tag : Nat} {h : PktHead} {data : List Byte} (hp : p < 16) (hh : headOk h = true) (hq : q < 16)
    (htag : tag < 2 ^ 32) (hlen : data.length ≤ 65536) (s : State) : exec (.dataPacketReceive p h q tag data) s =
    .next (s.arrive p { headPacket h 0 with qci := q, tag := tag, data := data } (fun t => t.dataArrive p h q tag data)) := by
  show execDataPacketReceive p h q tag data s = _
  simp only [execDataPacketReceive, inUnits, hp, hh, hq, htag, hlen, decide_true, Bool.and_self, if_true]

theorem exec_drainMarkerReceive {p : Nat} {h : PktHead} (hp : p < 16) (hh : headOk h = true) (s : State) :
    exec (.drainMarkerReceive p h) s = .next (s.arrive p (headPacket h 7) (fun t => t.drainMarker p h.group h.gen)) := by
  show execDrainMarkerReceive p h s = _
  simp only [execDrainMarkerReceive, inUnits, hp, hh, decide_true, Bool.and_self, if_true]

/-- A register-access packet is carried out also while the control pairs have failed (R451). -/
theorem exec_registerAccessPacket {p off val : Nat} {h : PktHead} (hp : p < 16) (hh : headOk h = true) (hoff : off < 2 ^ 32)
    (hval : val < 2 ^ 64) (wr : Bool) (s : State) : exec (.registerAccessPacket p h wr off val) s =
    .next (s.arrive p { headPacket h 5 with ofs := off, tag := ofBool wr, data := leBytes 8 val } (fun t =>
      t.accessPacket p h.src wr off val)) := by
  have hok : (decide (p < 16) && headOk h && decide (off < 2 ^ 32) && decide (val < 2 ^ 64)) = true := by
    rw [decide_eq_true hp, hh, decide_eq_true hoff, decide_eq_true hval]
    rfl
  exact if_pos hok

theorem State.accessPacket_refused {s : State} {p src off : Nat} (h : src ≠ s.get Reg.GL_MASTER.SYS ∨ packetReg off = false)
    (wr : Bool) (val : Nat) : s.accessPacket p src wr off val = s.inc (Reg.GL_RX_DISCARD.N p) 1 := by
  have hbad : (decide (src ≠ s.get Reg.GL_MASTER.SYS) || !packetReg off) = true := by
    rcases h with h | h
    · rw [decide_eq_true h]
      rfl
    · rw [h, Bool.not_false, Bool.or_true]
  exact if_pos hbad

theorem State.accessPacket_allowed {s t : State} {p src off v val : Nat} {wr : Bool} (hsrc : src = s.get Reg.GL_MASTER.SYS)
    (hreg : packetReg off = true) (ht : t = (if wr = true then s.hostWrite off (fun t => t.regWrite off val) else s.clearRc off 0))
    (hv : v = (if wr = true then val else s.regRead off)) : s.accessPacket p src wr off val = (t.sendPacket {
      dst := src, type := 5, stamp := t.stamp 536 % 2 ^ 24, ofs := off, data := leBytes 8 v }).getD t := by
  have hgood : ¬ (decide (src ≠ s.get Reg.GL_MASTER.SYS) || !packetReg off) = true := by
    rw [hreg, decide_eq_false (not_not.mpr hsrc)]
    decide
  rw [ht, hv]
  exact if_neg hgood

/-! ## Masters (R447, R448) -/

/-- The members of a group depend on its configuration, its list in device memory, and the device's ID. -/
theorem State.membersOf_congr {s t : State} {grp : Nat} (hgrp : grp < 16) (hmem : t.mem = s.mem)
    (hsize : t.get (Reg.GRP_CFG.SIZE grp) = s.get (Reg.GRP_CFG.SIZE grp))
    (hlist : t.get (Reg.GRP_LIST.ADDR grp) = s.get (Reg.GRP_LIST.ADDR grp))
    (hid : t.get Reg.GL_DEV_ID.ID = s.get Reg.GL_DEV_ID.ID) : t.membersOf grp = s.membersOf grp := by
  have hmember : t.memberId grp = s.memberId grp := by
    funext r
    simp only [State.memberId, State.memNat, State.memBytes, State.memByte, hmem, hlist]
  have hne : grp ≠ 16 := by omega
  simp only [State.membersOf, hne, if_false, hsize, hmember, hid]

/-- The roles that a new master of a group writes. -/
def State.masterRoles (s : State) (grp : Nat) : State :=
  ((s.put (Reg.GRP_ROLES.MASTER grp) (s.get (Reg.GRP_CFG.RANK grp))).put (Reg.GRP_ROLES.DEPUTY grp) 0xFFFF).put
    Reg.GL_HB_STATUS.TAKEOVER_EVT 1

/-- A deputy of a group without other members becomes its master and tells none. -/
theorem State.takeMaster_alone {s : State} {grp : Nat} (hgrp : grp < 16) (hnone : s.membersOf grp = []) :
    s.takeMaster grp = { s.masterRoles grp with missedBeats := Tab.set 0 s.missedBeats grp 0 } := by
  have hmembers : ({ s.masterRoles grp with missedBeats := Tab.set 0 s.missedBeats grp 0 } : State).membersOf grp = [] := by
    show (s.masterRoles grp).membersOf grp = []
    rw [← hnone]
    refine State.membersOf_congr (t := s.masterRoles grp) hgrp rfl ?_ ?_ ?_ <;> unfold State.masterRoles <;>
      refine (State.get_put_ne _ _ _ _ ?_).trans ((State.get_put_ne _ _ _ _ ?_).trans (State.get_put_ne _ _ _ _ ?_)) <;>
      (simp only [Fld.key, Reg.GRP_CFG.SIZE, Reg.GRP_LIST.ADDR, Reg.GL_DEV_ID.ID, Reg.GRP_ROLES.MASTER, Reg.GRP_ROLES.DEPUTY,
        Reg.GL_HB_STATUS.TAKEOVER_EVT]; omega)
  have hne : grp ≠ 16 := by omega
  simp only [State.takeMaster, hne, if_false]
  exact (congrArg (fun l => List.foldl (fun (t : State) q => (t.sendPacket (t.beatPacket q grp 1)).getD t)
    ({ s.masterRoles grp with missedBeats := Tab.set 0 s.missedBeats grp 0 } : State) l) hmembers)

theorem State.masterRoles_fields {s : State} {grp : Nat} (hgrp : grp < 16) :
    (s.masterRoles grp).get (Reg.GRP_ROLES.MASTER grp) = s.get (Reg.GRP_CFG.RANK grp) % 2 ^ 16 ∧
      (s.masterRoles grp).get (Reg.GRP_ROLES.DEPUTY grp) = 0xFFFF ∧
      (s.masterRoles grp).get Reg.GL_HB_STATUS.TAKEOVER_EVT = 1 := by
  unfold State.masterRoles
  refine ⟨?_, ?_, ?_⟩ <;>
    simp (disch := (simp only [Fld.key, Reg.GRP_ROLES.MASTER, Reg.GRP_ROLES.DEPUTY, Reg.GL_HB_STATUS.TAKEOVER_EVT]; omega)) only
      [State.get_put_ne, State.get_put_same] <;> rfl

/-- A new lock state stands in `ST_STATUS`, and the parent stays. -/
theorem State.setLock_fields (s : State) {st : Nat} (hst : st < 8) :
    (s.setLock st).lockState = st ∧ (s.setLock st).time.parent = s.time.parent ∧ (s.setLock st).mem = s.mem ∧
      (∀ f : Fld, f.key ≠ Reg.ST_STATUS.STATE.key → f.key ≠ Reg.ST_RATE.RATE.key → (s.setLock st).get f = s.get f) := by
  have hput : (({ s with time := { s.time with good := 0 } } : State).put Reg.ST_STATUS.STATE st).lockState = st :=
    (State.get_put_same _ _ _).trans (Nat.mod_eq_of_lt hst)
  unfold State.setLock
  dsimp only
  split
  · exact ⟨(State.get_put_ne _ _ _ _ (by decide)).trans hput, rfl, rfl, fun f h1 h2 =>
      (State.get_put_ne _ _ _ _ h2).trans (State.get_put_ne _ _ _ _ h1)⟩
  · exact ⟨hput, rfl, rfl, fun f h1 _ => State.get_put_ne _ _ _ _ h1⟩

/-- A System Master that another displaces is a member, and its event is set (R448). -/
theorem State.newMaster_displaced {s : State} {m : Nat} (hrole : s.get Reg.ST_CTRL.ROLE = 2) (hm : m ≠ s.get Reg.GL_DEV_ID.ID) :
    ∃ st, st < 8 ∧ s.newMaster 16 m = ((({ ((s.put Reg.GL_MASTER.SYS m).put Reg.GL_MASTER.DEPUTY 0xFFFF).clearFilters with } :
      State).put Reg.GL_HB_STATUS.MASTER_LOST_EVT 1).put Reg.ST_CTRL.ROLE 1).setLock st := by
  have hwas : (s.isSystemMaster && decide (m ≠ s.get Reg.GL_DEV_ID.ID)) = true := by simp [State.isSystemMaster, hrole, hm]
  refine ⟨if ((s.put Reg.GL_MASTER.SYS m).put Reg.GL_MASTER.DEPUTY 0xFFFF).time.parent.isSome then 1 else 0, by split <;> decide, ?_⟩
  simp only [State.newMaster, if_true]
  exact if_pos hwas

/-- A member with another parent, or with none (R35, R447). -/
theorem State.changeParent_fields (s : State) (q : Option Nat) : (s.changeParent q).time.parent = q ∧
    (q ≠ none → (s.changeParent q).lockState = 1) ∧
    (q = none → s.lockState = 2 → (s.changeParent q).lockState = 3) ∧ (s.changeParent q).mem = s.mem := by
  cases q with
  | some r =>
    obtain ⟨hlock, hparent, hmem, -⟩ := State.setLock_fields
      ({ s.clearFilters with time := { s.clearFilters.time with parent := some r } } : State) (st := 1) (by decide)
    exact ⟨hparent, fun _ => hlock, fun h => by simp at h, hmem⟩
  | none =>
    have hfree := State.setLock_fields ({ s.clearFilters with time := { s.clearFilters.time with parent := none } } : State)
      (st := 0) (by decide)
    have hhold := State.setLock_fields ({ s.clearFilters with time := { s.clearFilters.time with parent := none } } : State)
      (st := 3) (by decide)
    have hsame : ({ s.clearFilters with time := { s.clearFilters.time with parent := none } } : State).lockState = s.lockState := rfl
    simp only [State.changeParent, State.loseLock]
    rw [hsame]
    by_cases h1 : s.lockState = 1
    · rw [if_pos h1]
      exact ⟨hfree.2.1, by simp, fun _ h => by omega, hfree.2.2.1⟩
    · rw [if_neg h1]
      by_cases h2 : s.lockState = 2
      · rw [if_pos h2]
        exact ⟨hhold.2.1, by simp, fun _ _ => hhold.1, hhold.2.2.1⟩
      · rw [if_neg h2]
        exact ⟨rfl, by simp, fun _ h => absurd h h2, rfl⟩

end Sys2Proof.Machine

namespace Sys2Proof.Proofs
open Sys2Proof.Machine

/-- Settles O39: each packet is delivered where its head says, and its meaning is the branch that the hypotheses choose. -/
theorem cascadePacketsComplete : Obligations.CascadePacketsComplete := by
  unfold Obligations.CascadePacketsComplete
  refine ⟨?_, ?_, ?_, ?_, ?_⟩
  · intro p q tag h data s u hp hh hq htag hlen hup hpf hu
    have hexec := exec_dataPacketReceive hp hh hq htag hlen s
    have hhere (hdst : h.dst = s.get Reg.GL_DEV_ID.ID) :
        exec (.dataPacketReceive p h q tag data) s = .next (u.dataArrive p h q tag data) := by
      rw [hexec, State.arrive_here hup (.inl hpf) hdst, hu]
      rfl
    refine ⟨fun hdst hnone => ?_, fun hdst j t hjob => ⟨fun hoff => ?_, fun n hoff hok => ?_⟩, fun hdst => ?_⟩
    · rw [hhere hdst, State.dataArrive, hnone]
    · rw [hhere hdst, State.dataArrive, hjob]
      simp only [hoff]
    · rw [hhere hdst, State.dataArrive, hjob]
      simp only [hoff]
      rw [if_pos hok]
    · rw [hexec, State.arrive_elsewhere hup hpf hdst]
  · intro p h acks s u hp hh
    refine ⟨?_, fun hup hpf hdst hu => ?_⟩
    · show execDeliveryAck p h acks true s = _
      simp only [execDeliveryAck, inUnits, hp, hh, decide_true, Bool.and_self, if_true]
    · have hexec : exec (.deliveryAck p h acks false) s = .next (s.arrive p { headPacket h 8 with data := ackBody acks }
          (fun t => acks.foldl (fun (t : State) e => t.ackPackets e.1 e.2) t)) := by
        show execDeliveryAck p h acks false s = _
        simp only [execDeliveryAck, inUnits, hp, hh, decide_true, Bool.and_self, if_true, Bool.false_eq_true, if_false]
      rw [hexec, State.arrive_here hup (.inl hpf) hdst, hu]
      rfl
  · intro grp n j m s hjob hm
    simp only [State.ackPackets, hjob, ← hm]
  · intro p h s u hp hh hup hpf hdst hu
    have hexec : exec (.drainMarkerReceive p h) s = .next (u.drainMarker p h.group h.gen) := by
      rw [exec_drainMarkerReceive hp hh, State.arrive_here hup (.inl hpf) hdst, hu]
      rfl
    refine ⟨fun hnone => ?_, fun j hjob hnew hgen => ?_, fun j hjob hgen => ?_⟩ <;> rw [hexec]
    · simp only [State.drainMarker, hnone]
    · simp only [State.drainMarker, hjob]
      rw [if_neg (by simp [hnew, hgen])]
    · simp only [State.drainMarker, hjob]
      rw [if_pos (by simp [hgen])]
  · intro p kind body h s u hp hh hlo hhi hbody hup hpf hdst hu
    have hexec : exec (.snMessageReceive p h kind body) s =
        .next (u.snMessage (u.get (Reg.GL_PORT_STATUS.PEER p)) h.group h.gen kind body) := by
      show execSnMessageReceive p h kind body s = _
      simp only [execSnMessageReceive, inUnits, hp, hh, hlo, hhi, hbody, decide_true, Bool.and_self, if_true]
      rw [State.arrive_here hup (.inl hpf) hdst, hu]
      rfl
    refine ⟨hexec, fun hkind hfresh => ?_, fun hkind => ?_⟩ <;> rw [hexec] <;> subst hkind
    · simp only [State.snMessage, hfresh, Bool.false_eq_true, if_false]
    · simp only [State.snMessage, ite_self]

/-- Settles O40: each event by its definition, with what a takeover, a displaced master and a new parent leave. -/
theorem mastersAndIdentityComplete : Obligations.MastersAndIdentityComplete := by
  unfold Obligations.MastersAndIdentityComplete
  refine ⟨?_, ?_, ?_, ?_, ?_, ?_, ?_, ?_, ?_, ?_⟩
  · intro grp got s hgrp hout
    have hbeat : s.sendBeat grp = s := by simp [State.sendBeat, hout]
    have hdeputy : s.isDeputy grp = false := by simp [State.isDeputy, hout]
    show execHeartbeat grp got s = _
    simp [execHeartbeat, inUnits, hgrp, hbeat, hdeputy]
  · intro grp s hgrp hpf hdeputy
    have hexec (got : Bool) : exec (.heartbeat grp got) s = .next { s.sendBeat grp with
        missedBeats := Tab.set 0 (s.sendBeat grp).missedBeats grp (if got then 0 else Tab.get 0 (s.sendBeat grp).missedBeats grp + 1) } := by
      show execHeartbeat grp got s = _
      simp only [execHeartbeat, inUnits, hgrp, decide_true, if_true, hpf, Bool.false_eq_true, if_false, hdeputy]
    exact ⟨hexec false, hexec true⟩
  · intro grp s hgrp hpf hdeputy hmissed
    show execDeputyTakeover grp s = _
    simp [execDeputyTakeover, inUnits, hgrp, hpf, hdeputy, hmissed]
  · intro grp s hgrp hnone
    rw [State.takeMaster_alone hgrp hnone]
    exact State.masterRoles_fields hgrp
  · intro p grp m h s u hp hh hgrp hup hpf hdst hu
    have hexec : exec (.takeoverReceive p h grp m) s = .next (if u.inGroup grp then u.newMaster grp m else u) := by
      show execTakeoverReceive p h grp m s = _
      simp only [execTakeoverReceive, inUnits, hp, hh, hgrp, decide_true, Bool.and_self, if_true]
      rw [State.arrive_here hup (.inl hpf) hdst, hu]
      rfl
    refine ⟨fun hin => ?_, fun hout => ?_⟩ <;> rw [hexec]
    · rw [if_pos hin]
    · rw [if_neg (by simp [hout])]
  · intro m s hrole hm
    obtain ⟨st, hst, heq⟩ := State.newMaster_displaced hrole hm
    obtain ⟨-, -, hmem, hget⟩ := State.setLock_fields ((({ ((s.put Reg.GL_MASTER.SYS m).put Reg.GL_MASTER.DEPUTY
      0xFFFF).clearFilters with } : State).put Reg.GL_HB_STATUS.MASTER_LOST_EVT 1).put Reg.ST_CTRL.ROLE 1) hst
    have hclear (f : Fld) : ({ ((s.put Reg.GL_MASTER.SYS m).put Reg.GL_MASTER.DEPUTY 0xFFFF).clearFilters with } : State).get f =
      ((s.put Reg.GL_MASTER.SYS m).put Reg.GL_MASTER.DEPUTY 0xFFFF).get f := rfl
    rw [heq]
    refine ⟨?_, ?_, ?_, ?_, hmem⟩ <;> rw [hget _ (by decide) (by decide)]
    · rw [State.get_put_ne _ _ _ _ (by decide), State.get_put_ne _ _ _ _ (by decide), hclear,
        State.get_put_ne _ _ _ _ (by decide), State.get_put_same]
      rfl
    · rw [State.get_put_ne _ _ _ _ (by decide), State.get_put_ne _ _ _ _ (by decide), hclear, State.get_put_same]
      rfl
    · rw [State.get_put_same]
      rfl
    · rw [State.get_put_ne _ _ _ _ (by decide), State.get_put_same]
      rfl
  · intro q s hrole hold hroute
    refine ⟨?_, s.changeParent_fields q⟩
    show execTimeParentChange q s = _
    simp [execTimeParentChange, hrole, hold, hroute]
  · intro v s u hopen hu
    have hexec : exec (.glDevIdWrite v) s = .next (s.writeDevId v) := by
      show execGlDevIdWrite v s = _
      rw [execGlDevIdWrite, State.barWrite_open hopen]
    refine ⟨fun hcode => ?_, fun hcode => ?_⟩ <;> rw [hexec, State.writeDevId]
    · rw [if_neg (by simp [hcode])]
      simp only [← hu]
    · rw [if_pos hcode]
  · intro v s hopen
    have hexec : exec (.glTopoWrite v) s = .next (s.writeTopo v) := by
      show execGlTopoWrite v s = _
      rw [execGlTopoWrite, State.barWrite_open hopen]
    refine ⟨fun hcode => ?_, fun hcode => ?_⟩ <;> rw [hexec, State.writeTopo]
    · simp only [hcode, ne_eq, not_true_eq_false, if_false]
    · simp only [ne_eq, hcode, not_false_eq_true, if_true]
  · intro p off v val wr h s u t hp hh hoff hval hup hdst hu
    have hexec : exec (.registerAccessPacket p h wr off val) s = .next (u.accessPacket p h.src wr off val) := by
      rw [exec_registerAccessPacket hp hh hoff hval, State.arrive_here hup (.inr rfl) hdst, hu]
      rfl
    have hsys : u.get Reg.GL_MASTER.SYS = s.get Reg.GL_MASTER.SYS := by
      rw [hu]
      exact s.get_stamped p h.stamp _
    rw [hexec]
    refine ⟨fun hbad => ?_, fun hsrc hreg ht hv => ?_⟩
    · rw [State.accessPacket_refused (by rwa [hsys])]
    · rw [State.accessPacket_allowed (hsrc.trans hsys.symm) hreg ht hv]

/-- Settles O41: each event is the branch of its meaning that the hypotheses choose. -/
theorem collectivesComplete : Obligations.CollectivesComplete := by
  unfold Obligations.CollectivesComplete
  refine ⟨?_, ?_, ?_, ?_, ?_⟩
  · intro j d s hj hd hstate hbase hngrp hidle hload hready
    show execCollectiveLaunch j d s = _
    simp [execCollectiveLaunch, inUnits, hj, hd, hstate, hbase, hngrp, hidle, hload, hready]
  · intro j d x s u hu hcode
    simp only [State.launch, ← hu]
    rw [if_pos hcode]
  · intro p d inst ofs nf data h s u hp hh hd hlen hup hpf hdst hu
    have hexec : exec (.collectivePacket p h d inst nf ofs data) s = .next (match u.packetJob h.group h.gen with
        | some j => u.collPacket j d inst nf ofs data
        | none => u) := by
      show execCollectivePacket p h d inst nf ofs data s = _
      simp only [execCollectivePacket, inUnits, hp, hh, hd, hlen, decide_true, Bool.and_self, if_true]
      rw [State.arrive_here hup (.inl hpf) hdst, hu]
      rfl
    rw [hexec]
    refine ⟨fun hnone => ?_, fun j v hjob hv => ⟨fun hidle => ?_, fun hrun => ?_⟩⟩
    · rw [hnone]
    · rw [hjob, hv]
      simp only [State.collPacket, hidle, Bool.false_eq_true, if_false]
    · rw [hjob, hv]
      simp only [State.collPacket, hrun, if_true]
  · intro j d x s hj hd hstate hrun hx hdone
    have hexec : exec (.collectiveComplete j d) s = .next (s.collFinish j d x) := by
      show execCollectiveComplete j d s = _
      rw [hx] at hdone
      simp [execCollectiveComplete, inUnits, hj, hd, hstate, hrun, hdone, hx]
    rw [hexec]
    refine ⟨fun e he => ?_, fun t v ht hv => ⟨fun hnf => ?_, fun hnf => ?_⟩⟩
    · simp only [State.collFinish, he]
    · simp only [State.collFinish, ht, ← hv, hnf, Bool.false_eq_true, if_false]
    · simp only [State.collFinish, ht, ← hv, hnf, if_true]
  · intro j d s hj hd hstate hrun htmo
    show execCollectiveTimeout j d s = _
    simp [execCollectiveTimeout, inUnits, hj, hd, hstate, hrun, htmo]

end Sys2Proof.Proofs
end

section
/-! Power, clocks and temperature (R383, R484 to R498, R505, R587). -/

namespace Sys2Proof.Machine

/-! ## The cap loop (R488, R490) -/

theorem State.flag_congr {s t : State} {f : Fld} (h : t.get f = s.get f) : t.flag f = s.flag f := by
  simp only [State.flag, h]

section
variable (s : State) (outside : Int) (r p : Nat)

/-- A Ring's part of a period changes the Ring's power, its level and its energy alone of the registers. -/
theorem State.get_capRing {f : Fld} (hw : f.key ≠ (Reg.RING_PWR.RING_W r).key) (hl : f.key ≠ (Reg.RING_PWR.LEVEL r).key)
    (he : f.key ≠ (Reg.RING_ENERGY.N r).key) : (s.capRing outside r p).get f = s.get f :=
  (State.get_put_ne _ _ _ _ he).trans ((State.get_put_ne _ _ _ _ hl).trans (State.get_put_ne (s.hotPeriod r) _ _ _ hw))

theorem State.get_capRing_power : (s.capRing outside r p).get (Reg.RING_PWR.RING_W r) = p % 2 ^ 16 := by
  refine (State.get_put_ne _ _ _ _ ?_).trans ((State.get_put_ne _ _ _ _ ?_).trans
    (State.get_put_same (s.hotPeriod r) (Reg.RING_PWR.RING_W r) p)) <;>
  (simp only [Fld.key, Reg.RING_PWR.RING_W, Reg.RING_PWR.LEVEL, Reg.RING_ENERGY.N]; omega)

theorem State.capRing_mem_cores : (s.capRing outside r p).mem = s.mem ∧ (s.capRing outside r p).cores = s.cores := ⟨rfl, rfl⟩

end

/-- The four Rings' parts of a period. -/
def State.capRings (s : State) (outside : Int) (ring : List Nat) : State :=
  (List.range 4).foldl (fun (t : State) r => t.capRing outside r (ring.getD r 0)) s

theorem State.capRings_eq (s : State) (outside : Int) (ring : List Nat) : s.capRings outside ring =
    (((s.capRing outside 0 (ring.getD 0 0)).capRing outside 1 (ring.getD 1 0)).capRing outside 2 (ring.getD 2 0)).capRing
      outside 3 (ring.getD 3 0) := rfl

theorem State.capRings_mem_cores (s : State) (outside : Int) (ring : List Nat) :
    (s.capRings outside ring).mem = s.mem ∧ (s.capRings outside ring).cores = s.cores := by
  simp only [State.capRings_eq, State.capRing_mem_cores, and_self]

/-- The Rings' parts leave what is no Ring's register of power. -/
theorem State.get_capRings (s : State) (outside : Int) (ring : List Nat) {f : Fld}
    (hf : f.off < 0x800020 ∨ 0x800428 ≤ f.off) (hlo : f.lo < 64) : (s.capRings outside ring).get f = s.get f := by
  have hone (t : State) (r : Nat) (hr : r < 4) (p : Nat) : (t.capRing outside r p).get f = t.get f := by
    refine State.get_capRing _ _ _ _ ?_ ?_ ?_ <;>
      (simp only [Fld.key, Reg.RING_PWR.RING_W, Reg.RING_PWR.LEVEL, Reg.RING_ENERGY.N]; omega)
  rw [State.capRings_eq, hone _ 3 (by decide), hone _ 2 (by decide), hone _ 1 (by decide), hone _ 0 (by decide)]

theorem State.get_capRings_power (s : State) (outside : Int) (ring : List Nat) {r : Nat} (hr : r < 4) :
    (s.capRings outside ring).get (Reg.RING_PWR.RING_W r) = ring.getD r 0 % 2 ^ 16 := by
  have hother (t : State) {k : Nat} (hk : k ≠ r) (hk4 : k < 4) (p : Nat) :
      (t.capRing outside k p).get (Reg.RING_PWR.RING_W r) = t.get (Reg.RING_PWR.RING_W r) := by
    refine State.get_capRing _ _ _ _ ?_ ?_ ?_ <;>
      (simp only [Fld.key, Reg.RING_PWR.RING_W, Reg.RING_PWR.LEVEL, Reg.RING_ENERGY.N]; omega)
  rw [State.capRings_eq]
  interval_cases r
  · rw [hother _ (by decide) (by decide), hother _ (by decide) (by decide), hother _ (by decide) (by decide),
      State.get_capRing_power]
  · rw [hother _ (by decide) (by decide), hother _ (by decide) (by decide), State.get_capRing_power]
  · rw [hother _ (by decide) (by decide), State.get_capRing_power]
  · exact State.get_capRing_power _ _ _ _

/-- The state of a period once the package's power has counted. -/
def State.chargePackage (t : State) (pkg : Nat) : State :=
  { t with power := { t.power with
      hbmHalf := t.effCap < pkg && (((List.range 4).map (fun r => t.get (Reg.RING_PWR.LEVEL r))).contains 63 || t.power.hbmHalf)
      pkgRem := (t.power.pkgRem + pkg) % 100 } }.inc Reg.PWR_ENERGY.N ((t.power.pkgRem + pkg) / 100)

/-- The end of a period, which counts where a level is not 0. -/
def State.endPeriod (t : State) (pkg : Nat) : State :=
  if ((List.range 4).map (fun r => t.get (Reg.RING_PWR.LEVEL r))).any (· ≠ 0) then
    (t.chargePackage pkg).inc Reg.THROT_PERIODS.N 1
  else t.chargePackage pkg

theorem State.capLoop_eq (s : State) (pkg : Nat) (ring : List Nat) : s.capLoop pkg ring =
    ((s.bumpFree.put Reg.PWR_STATUS.PKG_W pkg).capRings ((pkg : Int) - (ring.foldl (· + ·) 0 : Nat)) ring).endPeriod pkg := rfl

theorem State.get_power (s : State) (w : PowerS) (f : Fld) : ({ s with power := w } : State).get f = s.get f := rfl

theorem State.chargePackage_fields (t : State) (pkg : Nat) : (t.chargePackage pkg).mem = t.mem ∧
    (t.chargePackage pkg).cores = t.cores ∧
    ∀ f : Fld, f.key ≠ Reg.PWR_ENERGY.N.key → (t.chargePackage pkg).get f = t.get f :=
  ⟨rfl, rfl, fun _ hf => (State.get_put_ne _ _ _ _ hf).trans (State.get_power _ _ _)⟩

theorem State.endPeriod_fields (t : State) (pkg : Nat) : (t.endPeriod pkg).mem = t.mem ∧
    (t.endPeriod pkg).cores = t.cores ∧
    (∀ f : Fld, f.key ≠ Reg.PWR_ENERGY.N.key → f.key ≠ Reg.THROT_PERIODS.N.key → (t.endPeriod pkg).get f = t.get f) ∧
    ((∀ r, r < 4 → t.get (Reg.RING_PWR.LEVEL r) = 0) → (t.endPeriod pkg).get Reg.THROT_PERIODS.N = t.get Reg.THROT_PERIODS.N) ∧
    (∀ r, r < 4 → t.get (Reg.RING_PWR.LEVEL r) ≠ 0 →
      (t.endPeriod pkg).get Reg.THROT_PERIODS.N = (t.get Reg.THROT_PERIODS.N + 1) % 2 ^ Reg.THROT_PERIODS.N.w) := by
  obtain ⟨hmem, hcores, hkeep⟩ := t.chargePackage_fields pkg
  have hany : ((List.range 4).map (fun r => t.get (Reg.RING_PWR.LEVEL r))).any (· ≠ 0) = true ↔
      ∃ r < 4, t.get (Reg.RING_PWR.LEVEL r) ≠ 0 := by
    simp only [List.any_map, List.any_eq_true, List.mem_range, Function.comp_apply, decide_eq_true_eq]
  unfold State.endPeriod
  split
  next h =>
    refine ⟨hmem, hcores, fun f hf hg => (State.get_put_ne _ _ _ _ hg).trans (hkeep f hf), fun h0 => ?_, fun _ _ _ => ?_⟩
    · obtain ⟨r, hr, hne⟩ := hany.mp h
      exact absurd (h0 r hr) hne
    · rw [← hkeep Reg.THROT_PERIODS.N (by decide)]
      exact State.get_put_same _ _ _
  next h =>
    exact ⟨hmem, hcores, fun f hf _ => hkeep f hf, fun _ => hkeep _ (by decide), fun r hr hne => absurd (hany.mpr ⟨r, hr, hne⟩) h⟩

/-- The period's levels, and its count where one is not 0. -/
theorem State.capLoop_fields (s : State) (pkg : Nat) (ring : List Nat) :
    (s.capLoop pkg ring).get Reg.PWR_STATUS.PKG_W = pkg % 2 ^ 16 ∧
      (∀ r, r < 4 → (s.capLoop pkg ring).get (Reg.RING_PWR.RING_W r) = ring.getD r 0 % 2 ^ 16) ∧
      (s.capLoop pkg ring).mem = s.mem ∧ (s.capLoop pkg ring).cores = s.cores ∧
      ((∀ r, r < 4 → (s.capLoop pkg ring).get (Reg.RING_PWR.LEVEL r) = 0) →
        (s.capLoop pkg ring).get Reg.THROT_PERIODS.N = s.get Reg.THROT_PERIODS.N) ∧
      (∀ r, r < 4 → (s.capLoop pkg ring).get (Reg.RING_PWR.LEVEL r) ≠ 0 →
        (s.capLoop pkg ring).get Reg.THROT_PERIODS.N =
          (s.get Reg.THROT_PERIODS.N + 1) % 2 ^ Reg.THROT_PERIODS.N.w) := by
  rw [s.capLoop_eq]
  generalize hbegin : s.bumpFree.put Reg.PWR_STATUS.PKG_W pkg = b
  generalize (pkg : Int) - (ring.foldl (· + ·) 0 : Nat) = outside
  have hmem : b.mem = s.mem ∧ b.cores = s.cores := by
    rw [← hbegin]
    exact ⟨rfl, rfl⟩
  have hpkg : b.get Reg.PWR_STATUS.PKG_W = pkg % 2 ^ 16 := by
    rw [← hbegin]
    exact State.get_put_same _ _ _
  have hcount : (b.capRings outside ring).get Reg.THROT_PERIODS.N = s.get Reg.THROT_PERIODS.N := by
    rw [State.get_capRings _ _ _ (by decide) (by decide), ← hbegin]
    exact State.get_put_ne s.bumpFree _ _ _ (by decide)
  obtain ⟨hrmem, hrcores⟩ := b.capRings_mem_cores outside ring
  obtain ⟨hemem, hecores, hkeep, hzero, hone⟩ := (b.capRings outside ring).endPeriod_fields pkg
  have hring (r : Nat) (hr : r < 4) (f : Fld) (hf : f = Reg.RING_PWR.LEVEL r ∨ f = Reg.RING_PWR.RING_W r) :
      ((b.capRings outside ring).endPeriod pkg).get f = (b.capRings outside ring).get f := by
    rcases hf with rfl | rfl <;> refine hkeep _ ?_ ?_ <;>
      (simp only [Fld.key, Reg.RING_PWR.LEVEL, Reg.RING_PWR.RING_W, Reg.PWR_ENERGY.N, Reg.THROT_PERIODS.N]; omega)
  refine ⟨(hkeep _ (by decide) (by decide)).trans ((State.get_capRings _ _ _ (by decide) (by decide)).trans hpkg), fun r hr =>
    (hring r hr _ (.inr rfl)).trans (State.get_capRings_power _ _ _ hr), hemem.trans (hrmem.trans hmem.1),
    hecores.trans (hrcores.trans hmem.2), fun h0 => ?_, fun r hr hne => ?_⟩
  · exact (hzero fun r hr => (hring r hr _ (.inl rfl)).symm.trans (h0 r hr)).trans hcount
  · rw [hone r hr (fun h => hne ((hring r hr _ (.inl rfl)).trans h)), hcount]

/-! ## Floors (R491) -/

theorem State.ringFloor_congr {s t : State} (hpin : t.get Reg.PWR_STATUS.THROT_IN = s.get Reg.PWR_STATUS.THROT_IN)
    (hlevel : t.get Reg.PWR_CAP.THROT_IN_LEVEL = s.get Reg.PWR_CAP.THROT_IN_LEVEL) (hpower : t.power = s.power) (r : Nat) :
    t.ringFloor r = s.ringFloor r := by
  simp only [State.ringFloor, State.flag_congr hpin, hlevel, hpower]

/-- One Ring's level is lifted to its floor. -/
def State.liftLevel (s : State) (r : Nat) : State :=
  s.put (Reg.RING_PWR.LEVEL r) (max (s.get (Reg.RING_PWR.LEVEL r)) (s.ringFloor r))

theorem State.liftLevels_eq (s : State) : s.liftLevels = (((s.liftLevel 0).liftLevel 1).liftLevel 2).liftLevel 3 := rfl

theorem State.get_liftLevel {s : State} {r : Nat} {f : Fld} (hf : f.key ≠ (Reg.RING_PWR.LEVEL r).key) :
    (s.liftLevel r).get f = s.get f := State.get_put_ne _ _ _ _ hf

theorem State.ringFloor_liftLevel (s : State) (k r : Nat) : (s.liftLevel k).ringFloor r = s.ringFloor r := by
  refine State.ringFloor_congr (State.get_liftLevel ?_) (State.get_liftLevel ?_) rfl r <;>
    (simp only [Fld.key, Reg.PWR_STATUS.THROT_IN, Reg.PWR_CAP.THROT_IN_LEVEL, Reg.RING_PWR.LEVEL]; omega)

/-- Lifting changes the four levels alone. -/
theorem State.get_liftLevels (s : State) {f : Fld} (hf : ∀ r < 4, f.key ≠ (Reg.RING_PWR.LEVEL r).key) :
    s.liftLevels.get f = s.get f := by
  rw [State.liftLevels_eq, State.get_liftLevel (hf 3 (by decide)), State.get_liftLevel (hf 2 (by decide)),
    State.get_liftLevel (hf 1 (by decide)), State.get_liftLevel (hf 0 (by decide))]

theorem State.ringFloor_liftLevels (s : State) (r : Nat) : s.liftLevels.ringFloor r = s.ringFloor r := by
  simp only [State.liftLevels_eq, State.ringFloor_liftLevel]

/-- Each Ring's level after lifting is at least its floor, as far as the field holds it. -/
theorem State.get_liftLevels_level (s : State) {r : Nat} (hr : r < 4) :
    s.liftLevels.get (Reg.RING_PWR.LEVEL r) = max (s.get (Reg.RING_PWR.LEVEL r)) (s.ringFloor r) % 2 ^ 6 := by
  have hother (t : State) {k j : Nat} (h : j ≠ k) :
      (t.liftLevel k).get (Reg.RING_PWR.LEVEL j) = t.get (Reg.RING_PWR.LEVEL j) := by
    refine State.get_liftLevel ?_
    simp only [Fld.key, Reg.RING_PWR.LEVEL]
    omega
  have hsame (t : State) (k : Nat) : (t.liftLevel k).get (Reg.RING_PWR.LEVEL k) =
      max (t.get (Reg.RING_PWR.LEVEL k)) (t.ringFloor k) % 2 ^ 6 := State.get_put_same _ _ _
  rw [State.liftLevels_eq]
  interval_cases r
  · rw [hother _ (by decide), hother _ (by decide), hother _ (by decide), hsame]
  · rw [hother _ (by decide), hother _ (by decide), hsame, hother _ (by decide), State.ringFloor_liftLevel]
  · rw [hother _ (by decide), hsame, hother _ (by decide), hother _ (by decide), State.ringFloor_liftLevel,
      State.ringFloor_liftLevel]
  · rw [hsame, hother _ (by decide), hother _ (by decide), hother _ (by decide), State.ringFloor_liftLevel,
      State.ringFloor_liftLevel, State.ringFloor_liftLevel]

theorem State.liftLevels_mem (s : State) : s.liftLevels.mem = s.mem := by
  have hone (t : State) (r : Nat) : (t.liftLevel r).mem = t.mem := rfl
  simp only [State.liftLevels_eq, hone]

/-- The state after a Ring's regulator has failed (R485). -/
def State.avsFailed (s : State) (r : Nat) : State :=
  { s with power := { s.power with
      frozen := if s.power.frozen.contains r then s.power.frozen else s.power.frozen ++ [r]
      rise := Tab.set none s.power.rise r none } }.put Reg.PWR_STATUS.AVS_EVT 1

theorem State.avsFailed_fields (s : State) (r : Nat) : r ∈ (s.avsFailed r).power.frozen ∧
    Tab.get none (s.avsFailed r).power.rise r = none ∧ (s.avsFailed r).get Reg.PWR_STATUS.AVS_EVT = 1 ∧
    (s.avsFailed r).get (Reg.RING_PWR.VF r) = s.get (Reg.RING_PWR.VF r) ∧ (s.avsFailed r).mem = s.mem := by
  refine ⟨?_, Tab.get_set_same none s.power.rise r none, State.get_put_same _ _ _, ?_, rfl⟩
  · show r ∈ (if s.power.frozen.contains r then s.power.frozen else s.power.frozen ++ [r])
    split
    next h => exact List.contains_iff_mem.mp h
    next => exact List.mem_append_right _ (List.mem_singleton_self r)
  · refine (State.get_put_ne _ _ _ _ ?_).trans (State.get_power _ _ _)
    simp only [Fld.key, Reg.RING_PWR.VF, Reg.PWR_STATUS.AVS_EVT]
    omega

/-- The state in which the throttle pin lifts the levels (R491). -/
def State.throttled (s : State) : State := (s.put Reg.PWR_STATUS.THROT_IN 1).put Reg.PWR_STATUS.THROT_IN_EVT 1

theorem State.throttled_fields (s : State) : s.throttled.get Reg.PWR_STATUS.THROT_IN = 1 ∧
    s.throttled.get Reg.PWR_STATUS.THROT_IN_EVT = 1 ∧
    (∀ r, s.throttled.get (Reg.RING_PWR.LEVEL r) = s.get (Reg.RING_PWR.LEVEL r)) ∧
    (∀ r, s.get Reg.PWR_CAP.THROT_IN_LEVEL ≤ s.throttled.ringFloor r) := by
  have hpin : s.throttled.get Reg.PWR_STATUS.THROT_IN = 1 :=
    (State.get_put_ne _ _ _ _ (by decide)).trans (State.get_put_same _ _ _)
  have hlevel : s.throttled.get Reg.PWR_CAP.THROT_IN_LEVEL = s.get Reg.PWR_CAP.THROT_IN_LEVEL :=
    (State.get_put_ne _ _ _ _ (by decide)).trans (State.get_put_ne _ _ _ _ (by decide))
  refine ⟨hpin, State.get_put_same _ _ _, fun r => ?_, fun r => ?_⟩
  · refine (State.get_put_ne _ _ _ _ ?_).trans (State.get_put_ne _ _ _ _ ?_) <;>
      (simp only [Fld.key, Reg.RING_PWR.LEVEL, Reg.PWR_STATUS.THROT_IN, Reg.PWR_STATUS.THROT_IN_EVT]; omega)
  · have hflag : s.throttled.flag Reg.PWR_STATUS.THROT_IN = true := by simp [State.flag, hpin]
    simp only [State.ringFloor, hflag, if_true, hlevel]
    omega

/-! ## Sensors (R492 to R495, R505) -/

theorem State.get_setPoint {s : State} {r vf : Nat} {f : Fld} (hf : f.key ≠ (Reg.RING_PWR.VF r).key) :
    (s.setPoint r vf).get f = s.get f := State.get_put_ne _ _ _ _ hf

theorem State.get_pldmEvent (s : State) (kind : Nat) (f : Fld) : (s.pldmEvent kind).get f = s.get f := rfl

/-- The 110 °C rule changes the event and the Ring's point alone. -/
theorem State.get_checkHot {s : State} {r : Nat} {f : Fld} (he : f.key ≠ Reg.PWR_STATUS.HOT_EVT.key)
    (hv : f.key ≠ (Reg.RING_PWR.VF r).key) : (s.checkHot r).get f = s.get f := by
  have hevent (w : PowerS) : ((({ s with power := w } : State).put Reg.PWR_STATUS.HOT_EVT 1).pldmEvent 2).get f = s.get f :=
    (State.get_pldmEvent _ _ _).trans ((State.get_put_ne _ _ _ _ he).trans (State.get_power _ _ _))
  have hhot : (s.ringHot r).get f = s.get f := by
    unfold State.ringHot
    dsimp only
    split
    · exact hevent _
    · exact (State.get_setPoint hv).trans (hevent _)
  unfold State.checkHot
  split
  · split <;> rfl
  · split
    · exact hhot
    · rfl

theorem State.sensorUpdate_temp (s : State) {i : Nat} (temp : Int) (hi : i < 64) :
    (s.sensorUpdate i temp).get (Reg.TS_TEMP.TEMP i) = unsigned 16 temp := by
  have hunsigned : unsigned 16 temp % 2 ^ 16 = unsigned 16 temp := Nat.mod_eq_of_lt (by unfold unsigned; omega)
  unfold State.sensorUpdate
  extract_lets peak t w u
  have hu : u.get (Reg.TS_TEMP.TEMP i) = unsigned 16 temp := by
    refine (State.get_power t _ _).trans ?_
    refine (State.get_put_ne _ _ _ _ ?_).trans ((State.get_put_same _ _ _).trans hunsigned)
    simp only [Fld.key, Reg.TS_TEMP.TEMP, Reg.TS_TEMP.PEAK]
    omega
  rw [State.get_liftLevels]
  · refine List.foldlRecOn (motive := fun v : State => v.get (Reg.TS_TEMP.TEMP i) = unsigned 16 temp) _ _ hu
      (fun v hv r hr => (State.get_checkHot ?_ ?_).trans hv) <;>
    (have := List.mem_range.mp hr; simp only [Fld.key, Reg.TS_TEMP.TEMP, Reg.PWR_STATUS.HOT_EVT, Reg.RING_PWR.VF]; omega)
  · intro r hr
    simp only [Fld.key, Reg.TS_TEMP.TEMP, Reg.RING_PWR.LEVEL]
    omega

end Sys2Proof.Machine

namespace Sys2Proof.Proofs

open Sys2Proof.Machine

/-- Settles O43: what a period of the cap loop records, and each command's effect on points, floors and counters. -/
theorem powerCommandsComplete : Obligations.PowerCommandsComplete := by
  unfold Obligations.PowerCommandsComplete
  refine ⟨fun pkg ring s hring hup => ⟨s.capLoop pkg ring, ?_, s.capLoop_fields pkg ring⟩, fun g cx s hg hcx => ?_,
    fun r vf s hr hvf hup hok => ⟨fun hlt => ?_, fun hle => ?_⟩, fun r vf s hr hvf hok => ?_,
    fun r mv s hr hlo hhi => ⟨fun hrise => ?_, fun vf hrise => ?_⟩, fun r s hr => ?_, fun s => ?_, fun s => rfl,
    fun pin s hpin => ?_⟩
  case refine_1 =>
    show execCapLoop pkg ring s = _
    simp only [execCapLoop, inUnits, hring, hup, decide_true, if_true, Bool.false_eq_true, if_false]
  case refine_2 =>
    show execThrottleWindow g cx s = _
    simp only [execThrottleWindow, inUnits, hg, hcx, decide_true, Bool.and_self, if_true]
  case refine_3 =>
    show execVfChange r vf s = _
    simp [execVfChange, inUnits, hr, hvf, hup, State.vfChange, hok, hlt]
  case refine_4 =>
    show execVfChange r vf s = _
    simp [execVfChange, inUnits, hr, hvf, hup, State.vfChange, hok, Nat.not_lt.mpr hle]
  case refine_5 =>
    show execVfChange r vf s = _
    simp [execVfChange, inUnits, hr, hvf, State.vfChange, hok]
  case refine_6 =>
    show execAvsCompletion r mv s = _
    simp [execAvsCompletion, inUnits, hr, hlo, hhi, hrise]
  case refine_7 =>
    show execAvsCompletion r mv s = _
    simp [execAvsCompletion, inUnits, hr, hlo, hhi, hrise]
  case refine_8 =>
    obtain ⟨hmem, hrise, hevent, hpoint, hdev⟩ := s.avsFailed_fields r
    refine ⟨s.avsFailed r, ?_, hmem, hrise, hevent, hpoint, hdev, fun vf u hu => ?_⟩
    · show execAvsFailure r s = _
      simp only [execAvsFailure, inUnits, hr, decide_true, if_true]
      rfl
    · have hfrozen : u.power.frozen.contains r = true := List.contains_iff_mem.mpr (hu ▸ hmem)
      simp only [State.pointOk, hfrozen, Bool.not_true, Bool.false_and]
  case refine_9 =>
    obtain ⟨hpin, hevent, hlevel, hfloor⟩ := s.throttled_fields
    have hkeep {f : Fld} (hf : f.lo ≠ 0) (hlo : f.lo < 64) : s.throttled.liftLevels.get f = s.throttled.get f := by
      refine State.get_liftLevels _ (fun r hr => ?_)
      simp only [Fld.key, Reg.RING_PWR.LEVEL]
      omega
    refine ⟨s.throttled.liftLevels, rfl, (hkeep (by decide) (by decide)).trans hpin,
      (hkeep (by decide) (by decide)).trans hevent, fun r hr => ?_, State.liftLevels_mem _⟩
    rw [State.ringFloor_liftLevels, State.get_liftLevels_level _ hr, hlevel]
    refine ⟨hfloor r, fun h63 hl63 => ?_⟩
    omega
  case refine_10 =>
    show execPinGlitch pin s = _
    simp only [execPinGlitch, inUnits, hpin, decide_true, if_true]

end Sys2Proof.Proofs
end

section
/-! The High Striker's report, whose trace record may spill to an address beyond the stacks (R535). -/

namespace Sys2Proof.Proofs
open Sys2Proof.Machine

/-- A place of the device's trace queue whose backing address lies in frame 130529 × 36864, of a stack that the part does
not have: its count of writes would stand at the offset of `HS_STATUS`. -/
def placeBeyondStacks : Nat := 130529 * 36864 * 2 ^ 21 + 512

/-- The device's trace queue is enabled with room, and its next record spills the byte before that place. -/
def spillsBeyondStacks : State :=
  { [(Reg.TQ_CFG.SIZE_LOG2 0, 63), (Reg.TQ_BASE.ADDR 0, 1), (Reg.TQ_PUT.COUNT 0, placeBeyondStacks + 4095),
      (Reg.TQ_GET.COUNT 0, placeBeyondStacks)].foldl (fun t p => t.put p.1 p.2) State.reset with
    cq := [(0, { head := placeBeyondStacks, spilled := placeBeyondStacks - 1 })] }

/-- The write that the record's spill counts stands in the field of the result. -/
theorem spillsBeyondStacks_hsReport_result : (spillsBeyondStacks.hsReport 1).get Reg.HS_STATUS.RESULT = 2 := by
  decide +kernel

/-- Refutes O45: where the report's trace record spills a byte to an address beyond the stacks, the count of that write is
added to `HS_STATUS.RESULT`, and a PASS reads as a FAIL. -/
theorem not_strikerComplete : ¬ Obligations.StrikerComplete := by
  unfold Obligations.StrikerComplete
  rintro ⟨-, -, -, -, -, -, -, hreport⟩
  obtain ⟨hresult, -⟩ := hreport 1 spillsBeyondStacks (by decide)
  simp [spillsBeyondStacks_hsReport_result] at hresult

end Sys2Proof.Proofs
end

section
/-! The security mailbox, SPDM sessions and keys (R540 to R557). -/

namespace Sys2Proof.Machine

/-! ## The mailbox (R557) -/

/-- The instruction of a mailbox command without an operand runs the command of its number where the host path is open. -/
theorem exec_secCmd {s : State} (h : s.Open) {op : Nat} {i : Instr}
    (hi : (op, i) ∈ [(1, Instr.getNonce), (2, .getIdentity), (3, .verify), (5, .revoke), (6, .debugOpen)]) :
    exec i s = .next (s.secCmd op 0) := by
  have hopen (o : Nat) : (.next (s.barWrite (fun t => t.secCmd o 0)) : Ans) = .next (s.secCmd o 0) := by
    rw [State.barWrite_open h]
  simp only [List.mem_cons, Prod.mk.injEq, List.not_mem_nil, or_false] at hi
  rcases hi with ⟨rfl, rfl⟩ | ⟨rfl, rfl⟩ | ⟨rfl, rfl⟩ | ⟨rfl, rfl⟩ | ⟨rfl, rfl⟩
  · show execGetNonce s = _
    exact hopen 1
  · show execGetIdentity s = _
    exact hopen 2
  · show execVerify s = _
    exact hopen 3
  · show execRevoke s = _
    exact hopen 5
  · show execDebugOpen s = _
    exact hopen 6

theorem exec_svnCommit {s : State} (h : s.Open) {k : Nat} (hk : k < 256) : exec (.svnCommit k) s = .next (s.secCmd 4 k) := by
  show execSvnCommit k s = _
  rw [execSvnCommit, State.barWrite_open h, Nat.mod_eq_of_lt hk]

theorem State.secCmd_refused {s : State} {op arg : Nat} (h : s.secCode op arg ≠ 0) :
    s.secCmd op arg = s.reject (s.secCode op arg) 0x900000 none := if_pos h

/-- What an accepted command does. -/
def State.secRun (s : State) (op arg : Nat) : State :=
  match op with
  | 1 => s.secNonce
  | 2 => s.secIdentity
  | 3 => s.secVerify
  | 4 => s.secCommit arg
  | 5 => s.secRevoke
  | _ => s.secDebug

theorem State.secCmd_accepted {s : State} {op arg : Nat} (h : s.secCode op arg = 0) : s.secCmd op arg = s.secRun op arg :=
  if_neg (not_not.mpr h)

theorem State.secDone_fields (s : State) {c : Nat} (hc : c < 8) :
    (s.secDone c).get Reg.SEC_STATUS.CODE = c ∧ (s.secDone c).get Reg.SEC_STATUS.DONE_EVT = 1 := by
  have hcode : (s.put Reg.SEC_STATUS.CODE c).get Reg.SEC_STATUS.CODE = c :=
    (State.get_put_same s Reg.SEC_STATUS.CODE c).trans (Nat.mod_eq_of_lt (Nat.lt_trans hc (by decide)))
  exact ⟨(State.get_put_ne _ _ _ _ (by decide)).trans hcode, State.get_put_same _ _ _⟩

/-- Result bytes change registers alone. -/
theorem State.secData_fields (s : State) (v : List Byte) : (s.secData v).mem = s.mem ∧ (s.secData v).sec = s.sec :=
  List.foldlRecOn (motive := fun t : State => t.mem = s.mem ∧ t.sec = s.sec) _ _ ⟨rfl, rfl⟩ (fun _ ht _ _ => ht)

theorem State.secNonce_fields (s : State) : s.secNonce.sec.nonce.isSome = true ∧
    s.secNonce.get Reg.SEC_STATUS.CODE = 0 ∧ s.secNonce.get Reg.SEC_STATUS.DONE_EVT = 1 ∧ s.secNonce.mem = s.mem := by
  unfold State.secNonce
  extract_lets n t0 x t
  obtain ⟨hmem, hsec⟩ := t.secData_fields n
  have hnonce : t.sec.nonce = some n := rfl
  refine ⟨?_, ((t.secData n).secDone_fields (by decide)).1, ((t.secData n).secDone_fields (by decide)).2, hmem⟩
  show (t.secData n).sec.nonce.isSome = true
  rw [hsec, hnonce]
  rfl

/-! ## SPDM requests (R551) -/

/-- A request that has arrived is served while the device is up and its control pairs work. -/
theorem State.spdmServe_served {s : State} {tr : Nat} (hup : s.aon.down = false) (hp : s.pairsFailed = false)
    (hreq : tr < 2 → (s.mailbox tr).req.isSome = true) (f : State → State) : s.spdmServe tr f = f s := by
  have hgo : (s.aon.down || s.pairsFailed || (decide (tr < 2) && (s.mailbox tr).req.isNone)) = false := by
    by_cases htr : tr < 2
    · simp [hup, hp, htr, hreq htr]
    · simp [hup, hp, htr]
  rw [State.spdmServe, hgo, if_neg (by decide)]

theorem State.sendVector_sec (s : State) (v : Nat) : (s.sendVector v).sec = s.sec ∧ (s.sendVector v).doe = s.doe := by
  unfold State.sendVector
  split
  · exact ⟨rfl, rfl⟩
  · exact ⟨rfl, rfl⟩

theorem State.spdmReply_fields (s : State) (tr : Nat) (ok : Bool) (data : List Byte) :
    (s.spdmReply tr ok data).sec.reply = ⟨tr, ok, data⟩ ∧
      (tr < 2 → ((s.spdmReply tr ok data).mailbox tr).resp = some data) := by
  have hdoe (t : State) : (t.doeReply tr data).sec = t.sec ∧ (t.doeReply tr data).doe =
      Tab.set {} t.doe tr { req := none, resp := some data } :=
    State.sendVector_sec _ _
  unfold State.spdmReply
  extract_lets x t
  refine ⟨?_, fun htr => ?_⟩
  · split
    · rw [(hdoe t).1]
    · rfl
  · rw [if_pos htr, State.mailbox, (hdoe t).2, Tab.get_set_same]

end Sys2Proof.Machine

namespace Sys2Proof.Proofs

open Sys2Proof.Machine

/-- Settles O46: each command that its checks accept ends with its code, by the mailbox's command of its number. -/
theorem securityMailboxComplete : Obligations.SecurityMailboxComplete := by
  unfold Obligations.SecurityMailboxComplete
  refine ⟨fun s h hc => ?_, fun s h hc => (exec_secCmd h (op := 2) (by simp)).trans ?_, fun s b h hc hb =>
    (exec_secCmd h (op := 3) (by simp)).trans ?_, fun k s hk h hc => ?_, fun s b h hc hb =>
    (exec_secCmd h (op := 5) (by simp)).trans ?_, fun s u b h hc hb hu =>
    (exec_secCmd h (op := 6) (by simp)).trans ?_,
    fun c s hcode => s.secDone_fields hcode, fun op k i s h hk hi hc => ?_⟩
  case refine_1 =>
    refine ⟨s.secNonce, (exec_secCmd h (op := 1) (by simp)).trans ?_, s.secNonce_fields⟩
    rw [State.secCmd_accepted hc]
    rfl
  case refine_2 =>
    rw [State.secCmd_accepted hc]
    rfl
  case refine_3 =>
    rw [State.secCmd_accepted hc, hb]
    rfl
  case refine_4 =>
    have hexec : exec (.svnCommit k) s = .next (s.secCommit k) := by
      refine (exec_svnCommit h (by omega)).trans ?_
      rw [State.secCmd_accepted hc]
      rfl
    refine ⟨fun n hn => hexec.trans ?_, fun hn => hexec.trans ?_⟩ <;> simp only [State.secCommit, hn]
  case refine_5 =>
    rw [State.secCmd_accepted hc]
    show (.next s.secRevoke : Ans) = _
    by_cases hr : s.revokeCode b = 0 <;> simp only [State.secRevoke, ← hb, hr, ne_eq, not_true_eq_false, not_false_eq_true,
      if_true, if_false]
  case refine_6 =>
    rw [State.secCmd_accepted hc]
    show (.next s.secDebug : Ans) = _
    simp only [State.secDebug, ← hb, hu]
  case refine_7 =>
    by_cases hop : op = 4
    · subst hop
      have hi4 : i = .svnCommit k := by simpa using hi
      rw [if_pos rfl] at hc ⊢
      rw [hi4, exec_svnCommit h hk, State.secCmd_refused hc]
    · rw [if_neg hop] at hc ⊢
      rw [exec_secCmd h (op := op) (i := i), State.secCmd_refused hc]
      simp only [List.mem_cons, Prod.mk.injEq, List.not_mem_nil, or_false, hop, false_and] at hi ⊢
      exact hi

/-- Settles O47: a request that has arrived is served as its session and the state it finds allow. -/
theorem spdmAndKeysComplete : Obligations.SpdmAndKeysComplete := by
  unfold Obligations.SpdmAndKeysComplete
  refine ⟨fun tr s htr hup hp hreq => ?_, fun tr s htr hreq => ?_, fun tr s htr hup hp hreq => ?_, fun n s hn hup hp hreq => ?_,
    fun n m k key s hn hm hk hkey hup hp hide hreq => ?_, fun n m k key s hn hm hk hkey hup hp hide hreq => ?_,
    fun n p d k id key s hn hpt hd hk hid hkey hup hp hreq => ?_⟩
  case refine_1 =>
    have hserve := State.spdmServe_served (s := s) hup hp hreq
    refine ⟨?_, ?_, fun ok => ?_, fun hcert => ⟨?_, fun o n => ?_, fun nonce => ?_⟩, fun hcert => ⟨?_, fun k o n => ?_,
      fun k nonce => ?_, fun i nonce => ?_⟩, fun k hk => ⟨fun o n => ?_, fun nonce => ?_⟩, fun i nonce hlo hhi => ⟨?_,
      fun hcert => ?_⟩, fun nonce d hd => ⟨?_, fun hcert => ?_⟩, fun i signed nonce hi => ?_, s.spdmReply_fields tr⟩
    case refine_1 =>
      show execGetVersion tr s = _
      simp only [execGetVersion, inUnits, htr, hserve, decide_true, if_true]
    case refine_2 =>
      show execGetCapabilities tr s = _
      simp only [execGetCapabilities, inUnits, htr, hserve, decide_true, if_true]
    case refine_3 =>
      show execNegotiateAlgorithms tr ok s = _
      simp only [execNegotiateAlgorithms, inUnits, htr, hserve, decide_true, if_true]
    case refine_4 =>
      show execGetDigests tr s = _
      simp only [execGetDigests, inUnits, htr, hserve, hcert, decide_true, if_true]
    case refine_5 =>
      show execGetCertificate tr 0 o n s = _
      simp only [execGetCertificate, inUnits, htr, hserve, hcert, decide_true, Bool.and_self, if_true]
    case refine_6 =>
      show execChallenge tr 0 nonce s = _
      simp only [execChallenge, inUnits, htr, hserve, hcert, decide_true, Bool.and_self, if_true]
    case refine_7 =>
      show execGetDigests tr s = _
      simp only [execGetDigests, inUnits, htr, hserve, hcert, decide_true, if_true, Bool.false_eq_true, if_false]
    case refine_8 =>
      show execGetCertificate tr k o n s = _
      simp only [execGetCertificate, inUnits, htr, hserve, hcert, decide_true, if_true, Bool.and_false, Bool.false_eq_true,
        if_false]
    case refine_9 =>
      show execChallenge tr k nonce s = _
      simp only [execChallenge, inUnits, htr, hserve, hcert, decide_true, if_true, Bool.and_false, Bool.false_eq_true, if_false]
    case refine_10 =>
      show execGetMeasurements tr i true nonce s = _
      simp only [execGetMeasurements, inUnits, htr, hserve, hcert, decide_true, if_true, Bool.not_false, Bool.and_self,
        Bool.true_or]
    case refine_11 =>
      show execGetCertificate tr k o n s = _
      simp [execGetCertificate, inUnits, htr, hserve, hk]
    case refine_12 =>
      show execChallenge tr k nonce s = _
      simp [execChallenge, inUnits, htr, hserve, hk]
    case refine_13 =>
      show execGetMeasurements tr i false nonce s = _
      have hff : i ≠ 255 := by omega
      simp [execGetMeasurements, inUnits, htr, hserve, hlo, hhi, State.measData, hff]
    case refine_14 =>
      show execGetMeasurements tr i true nonce s = _
      have hff : i ≠ 255 := by omega
      simp [execGetMeasurements, inUnits, htr, hserve, hcert, hlo, hhi, State.measData, hff]
    case refine_15 =>
      show execGetMeasurements tr 0xFF false nonce s = _
      simp [execGetMeasurements, inUnits, htr, hserve, State.measData, hd]
    case refine_16 =>
      show execGetMeasurements tr 0xFF true nonce s = _
      simp [execGetMeasurements, inUnits, htr, hserve, hcert, State.measData, hd]
    case refine_17 =>
      show execGetMeasurements tr i signed nonce s = _
      have hrange : (decide (i = 0xFF) || (decide (1 ≤ i) && decide (i ≤ 8))) = false := by
        simp only [Bool.or_eq_false_iff, Bool.and_eq_false_iff, decide_eq_false_iff_not]
        omega
      simp only [execGetMeasurements, inUnits, htr, hserve, hrange, decide_true, if_true, Bool.not_false, Bool.or_true]
  case refine_2 =>
    have htr3 : tr < 3 := by omega
    show execGetVersion tr s = _
    simp [execGetVersion, inUnits, htr3, State.spdmServe, htr, hreq]
  case refine_3 =>
    have hserve := State.spdmServe_served (s := s) hup hp hreq
    refine ⟨fun n hn => ?_, fun hn => ?_⟩ <;>
      (show execKeyExchange tr s = _
       simp only [execKeyExchange, inUnits, htr, hserve, hn, decide_true, if_true])
  case refine_4 =>
    have hserve (f : State → State) : s.sessServe n f = f s := State.spdmServe_served hup hp hreq f
    refine ⟨fun x hx hxup => ?_, fun ok hno => ?_, ?_, fun x hx hxup => ?_, fun hses => ?_, fun hses => ⟨?_, ?_⟩⟩
    case refine_1 =>
      show execFinish n true s = _
      simp [execFinish, inUnits, hn, hserve, hx, hxup]
    case refine_2 =>
      show execFinish n ok s = _
      cases hx : s.session n with
      | none => simp [execFinish, inUnits, hn, hserve, hx]
      | some x =>
        have hfail : (ok && !x.up) = false := by
          rcases hno with rfl | hnone | hses
          · rfl
          · simp [hx] at hnone
          · simp only [State.sessUp, hx] at hses
            simp [hses]
        simp only [execFinish, inUnits, hn, hserve, hx, hfail, decide_true, if_true, Bool.false_eq_true, if_false]
    case refine_3 =>
      show execHeartbeatSpdm n s = _
      simp only [execHeartbeatSpdm, inUnits, hn, hserve, decide_true, if_true]
    case refine_4 =>
      show execKeyUpdate n s = _
      simp [execKeyUpdate, inUnits, hn, hserve, hx, hxup]
    case refine_5 =>
      show execEndSession n s = _
      simp only [execEndSession, inUnits, hn, hserve, hses, decide_true, if_true]
    case refine_6 =>
      show execKeyUpdate n s = _
      cases hx : s.session n with
      | none => simp [execKeyUpdate, inUnits, hn, hserve, hx]
      | some x =>
        simp only [State.sessUp, hx] at hses
        simp [execKeyUpdate, inUnits, hn, hserve, hx, hses]
    case refine_7 =>
      show execEndSession n s = _
      simp [execEndSession, inUnits, hn, hserve, hses]
  case refine_5 =>
    have htr : s.sessTr n = 1 := by
      simp only [State.ideMay, Bool.and_eq_true, decide_eq_true_eq] at hide
      exact hide.1.2
    have hserve (f : State → State) : s.sessServe n f = f s := State.spdmServe_served hup hp (fun _ => by rw [htr]; exact hreq) f
    refine ⟨?_, fun hset => ?_, fun hset => ?_, fun hact => ?_⟩
    · show execKeyProg n m k key s = _
      simp [execKeyProg, inUnits, hn, hm, hk, hkey, hserve, hide]
    · show execKSetGo n m k s = _
      simp [execKSetGo, inUnits, hn, hm, hk, hserve, hide, hset]
    · show execKSetGo n m k s = _
      simp [execKSetGo, inUnits, hn, hm, hk, hserve, hset]
    · show execKSetStop n m k s = _
      simp [execKSetStop, inUnits, hn, hm, hk, hserve, hide, hact]
  case refine_6 =>
    have hserve (f : State → State) : s.sessServe n f = f s := State.spdmServe_served hup hp hreq f
    refine ⟨?_, ?_, ?_⟩
    · show execKeyProg n m k key s = _
      simp [execKeyProg, inUnits, hn, hm, hk, hkey, hserve, hide]
    · show execKSetGo n m k s = _
      simp [execKSetGo, inUnits, hn, hm, hk, hserve, hide]
    · show execKSetStop n m k s = _
      simp [execKSetStop, inUnits, hn, hm, hk, hserve, hide]
  case refine_7 =>
    have hserve (f : State → State) : s.sessServe n f = f s := State.spdmServe_served hup hp hreq f
    have hprog (f : State → State) (hf : s.keyServe n p (fun t => if t.keyBusy p d k then t.sessReply n false else
        (t.setPort p { t.port p with keys := Tab.set none (t.port p).keys (2 * d + k) (some (id, key)) }).sessReply n true) =
        f s) : exec (.glKeyProg n p d k id key) s = .next (f s) := by
      rw [← hf]
      show execGlKeyProg n p d k id key s = _
      simp only [execGlKeyProg, inUnits, hn, hpt, hd, hk, hid, hkey, decide_true, Bool.and_self, if_true]
    have hgo (f : State → State) (hf : s.keyServe n p (fun t => (t.setPort p { t.port p with keyGo := true }).sessReply n true) =
        f s) : exec (.glKeyGo n p) s = .next (f s) := by
      rw [← hf]
      show execGlKeyGo n p s = _
      simp only [execGlKeyGo, inUnits, hn, hpt, decide_true, Bool.and_self, if_true]
    have hserved (f : State → State) (hses : s.sessUp n = true) (hpres : s.portPresent p = true) :
        s.keyServe n p f = f s := by simp [State.keyServe, hserve, hses, hpres]
    have hfused (f : State → State) (hses : s.sessUp n = true) (hpres : s.portPresent p = false) :
        s.keyServe n p f = (s.reject 0x05 0 none).sessReply n false := by simp [State.keyServe, hserve, hses, hpres]
    have hclosed (f : State → State) (hses : s.sessUp n = false) : s.keyServe n p f = s.sessReply n false := by
      simp [State.keyServe, hserve, hses]
    refine ⟨fun hses hpres hbusy => ?_, fun hses hpres hbusy => ?_, fun hses hpres => ?_, fun hses hpres => ⟨?_, ?_⟩,
      fun hses => ⟨?_, ?_⟩⟩
    · refine hprog (fun s => (s.setPort p { s.port p with
        keys := Tab.set none (s.port p).keys (2 * d + k) (some (id, key)) }).sessReply n true) ?_
      rw [hserved _ hses hpres, hbusy, if_neg (by decide)]
    · refine hprog (fun s => s.sessReply n false) ?_
      rw [hserved _ hses hpres, hbusy, if_pos rfl]
    · exact hgo (fun s => (s.setPort p { s.port p with keyGo := true }).sessReply n true) (hserved _ hses hpres)
    · exact hprog (fun s => (s.reject 0x05 0 none).sessReply n false) (hfused _ hses hpres)
    · exact hgo (fun s => (s.reject 0x05 0 none).sessReply n false) (hfused _ hses hpres)
    · exact hprog (fun s => s.sessReply n false) (hclosed _ hses)
    · exact hgo (fun s => s.sessReply n false) (hclosed _ hses)

end Sys2Proof.Proofs
end

section
/-! Management: PLDM types 0, 2 and 5 (R567 to R574). -/

namespace Sys2Proof.Machine

/-- A request of a type that is served is served (R567). -/
theorem State.pldm_served {s : State} {ty : Nat} (hup : s.aon.down = false) (hty : s.typeServed ty = true)
    (f : State → State) : s.pldm ty f = .next (f s) := by
  rw [State.pldm, hup, hty, if_neg (by decide), if_pos rfl]

/-- A request of a type that is not served is answered `ERROR_NOT_READY` (R567). -/
theorem State.pldm_unserved {s : State} {ty : Nat} (hup : s.aon.down = false) (hty : s.typeServed ty = false)
    (f : State → State) : s.pldm ty f = .next (s.answer .errorNotReady) := by
  rw [State.pldm, hup, hty, if_neg (by decide), if_neg (by decide)]

theorem MgmtS.events_nil {m : MgmtS} (h : m.events = []) : ({ m with events := [] } : MgmtS) = m := by
  rw [← h]

/-! ## Update states (R571 to R574) -/

theorem State.toUpd_updState (s : State) {st : Nat} (hst : st < 8) : (s.toUpd st).updState = st :=
  (State.get_put_same _ _ _).trans (Nat.mod_eq_of_lt hst)

theorem State.updState_answer (s : State) (c : PldmCode) (d : List Nat) : (s.answer c d).updState = s.updState := rfl

theorem State.betweenComps_updState (s : State) : s.betweenComps.updState = if s.mgmt.applied = [] then 1 else 5 := by
  have hstate (st : Nat) (hst : st < 8) : (s.toUpd st).updState = st := s.toUpd_updState hst
  unfold State.betweenComps
  cases s.mgmt.applied with
  | nil => exact hstate 1 (by decide)
  | cons a l => exact hstate 5 (by decide)

/-- Writing flash changes the flash alone. -/
theorem State.writeFlash_regs (s : State) (a : Nat) (l : List Byte) : (s.writeFlash a l).regs = s.regs := by
  induction l generalizing s a with
  | nil => rfl
  | cons b l ih => exact ih _ _

theorem State.endUpdate_fields (s : State) : s.endUpdate.updState = 0 ∧ s.endUpdate.boot.waiting = false ∧
    s.endUpdate.flash = s.flash ∧ s.endUpdate.get Reg.MGMT_STATUS.ACT_EVT = s.get Reg.MGMT_STATUS.ACT_EVT := by
  have hget (f : Fld) : s.endUpdate.get f = (s.toUpd 0).get f := rfl
  refine ⟨(hget _).trans (s.toUpd_updState (by decide)), rfl, rfl, (hget _).trans (State.get_put_ne _ _ _ _ (by decide))⟩

theorem State.writeDirectory_event (s : State) : s.writeDirectory.get Reg.MGMT_STATUS.ACT_EVT = 1 := State.get_put_same _ _ _

/-- A verified component's version is noted in the security block alone (R546). -/
theorem State.noteSvn_fields (s : State) (ty : Nat) (b : List Byte) :
    (s.noteSvn ty b).regs = s.regs ∧ (s.noteSvn ty b).flash = s.flash ∧ (s.noteSvn ty b).mgmt = s.mgmt := by
  unfold State.noteSvn
  split
  · exact ⟨rfl, rfl, rfl⟩
  · exact ⟨rfl, rfl, rfl⟩

/-- The state after the end of a verification (R572). -/
def State.componentVerified (s : State) : State :=
  let sl := flashSlot s.mgmt.comp s.mgmt.slot
  if s.compOk s.mgmt.comp s.mgmt.slot then
    (((s.put Reg.MGMT_STATUS.VFY_EVT 1).noteSvn (compType s.mgmt.comp) (s.flashObj sl.1 sl.2)).toUpd 4).answer .success
  else (s.put Reg.MGMT_STATUS.VFY_EVT 1).betweenComps.answer .error

theorem State.componentVerified_fields (s : State) : s.componentVerified.get Reg.MGMT_STATUS.VFY_EVT = 1 ∧
    s.componentVerified.flash = s.flash ∧ s.componentVerified.updState =
      (if s.compOk s.mgmt.comp s.mgmt.slot = true then 4 else if s.mgmt.applied = [] then 1 else 5) := by
  have hevent : (s.put Reg.MGMT_STATUS.VFY_EVT 1).get Reg.MGMT_STATUS.VFY_EVT = 1 := State.get_put_same _ _ _
  have hkeep (t : State) (st : Nat) : (t.toUpd st).get Reg.MGMT_STATUS.VFY_EVT = t.get Reg.MGMT_STATUS.VFY_EVT :=
    State.get_put_ne _ _ _ _ (by decide)
  have hanswer (t : State) (c : PldmCode) (f : Fld) : (t.answer c).get f = t.get f := rfl
  unfold State.componentVerified
  dsimp only
  split
  next hok =>
    generalize s.flashObj _ _ = b
    obtain ⟨hregs, hflash, -⟩ := (s.put Reg.MGMT_STATUS.VFY_EVT 1).noteSvn_fields (compType s.mgmt.comp) b
    refine ⟨(hanswer _ _ _).trans ((hkeep _ _).trans ?_), hflash, (hanswer _ _ _).trans (State.toUpd_updState (st := 4) _ (by decide))⟩
    refine Eq.trans ?_ hevent
    unfold State.get
    rw [hregs]
  next hok =>
    refine ⟨(hanswer _ _ _).trans ?_, rfl, State.betweenComps_updState _⟩
    exact (hkeep _ _).trans hevent

/-- The state after a component has been applied (R573). -/
def State.componentApplied (s : State) : State :=
  (({ s with mgmt := { s.mgmt with
    applied := s.mgmt.applied.filter (fun (a : Nat × Nat) => a.1 ≠ s.mgmt.comp) ++ [(s.mgmt.comp, s.mgmt.slot)] } } : State).toUpd
      5).answer .success

theorem State.componentApplied_fields (s : State) : s.componentApplied.updState = 5 ∧
    (s.mgmt.comp, s.mgmt.slot) ∈ s.componentApplied.mgmt.applied ∧ s.componentApplied.flash = s.flash :=
  ⟨State.toUpd_updState (st := 5) _ (by decide), List.mem_append_right _ (List.mem_singleton_self _), rfl⟩

end Sys2Proof.Machine

namespace Sys2Proof.Proofs

open Sys2Proof.Machine

/-- Settles O48: a request of a served type is answered from the state, and of another `ERROR_NOT_READY`. -/
theorem managementRequestsAnswered : Obligations.ManagementRequestsAnswered := by
  unfold Obligations.ManagementRequestsAnswered
  refine ⟨fun s hup hty => ?_, fun s hup hty => ?_, fun s h => ?_, fun a s ha => ?_, fun s => rfl, fun i ty s hup hty hi => ?_,
    fun n s hup => ⟨fun hty hn => ⟨?_, ?_⟩, fun hty => ⟨?_, ?_⟩, fun hty => ⟨?_, ?_, ?_, fun hn => ?_⟩,
      fun hty => ⟨?_, fun l => ?_, fun d hd => ?_⟩⟩⟩
  case refine_1 =>
    have hserve := State.pldm_served hup hty
    refine ⟨fun e he => ?_, (hserve _ : execGetTid s = _), fun t ht => ?_, fun ty h =>
      (hserve _ : execGetPldmVersion ty s = _).trans ?_, (hserve _ : execGetPldmTypes s = _), fun ty h =>
      (hserve _ : execGetPldmCommands ty s = _).trans ?_, fun ty h => ⟨(hserve _ : execGetPldmVersion ty s = _).trans ?_,
      (hserve _ : execGetPldmCommands ty s = _).trans ?_⟩⟩
    · show execSetEndpointId e s = _
      simp only [execSetEndpointId, inUnits, he, decide_true, if_true, hserve]
    · show execSetTid t s = _
      simp only [execSetTid, inUnits, ht, decide_true, if_true, hserve]
    · rw [if_pos (List.contains_iff_mem.mpr h)]
    · rw [if_pos (List.contains_iff_mem.mpr h)]
    · rw [if_neg (mt List.contains_iff_mem.mp h)]
    · rw [if_neg (mt List.contains_iff_mem.mp h)]
  case refine_2 =>
    have hserve := State.pldm_served hup hty
    refine ⟨(hserve _ : execGetPdrRepositoryInfo s = _), fun n hn => ?_, fun n hlo hhi => ?_, fun n hn => ?_, fun n v hv => ?_, fun n v hv => ?_,
      fun n hn => ?_, fun n hn => ?_, fun a ha => ?_, fun e rest hev => ⟨?_, fun hr => ?_⟩, fun hev => ?_⟩
    · show execGetPdr n s = _
      simp only [execGetPdr, hserve, hn, if_true]
    · show execGetPdr n s = _
      simp only [execGetPdr, hserve, Nat.not_lt.mpr hlo, hhi, if_true, if_false]
    · show execGetPdr n s = _
      have hlen : ¬ n < s.readings.length := fun h => absurd (Nat.lt_of_lt_of_le h (Nat.le_add_right _ _)) (Nat.not_lt.mpr hn)
      simp only [execGetPdr, hserve, hlen, Nat.not_lt.mpr hn, if_false]
    · show execGetSensorReading n s = _
      simp only [execGetSensorReading, hserve, hv]
    · show execGetStateSensorReadings n s = _
      simp only [execGetStateSensorReadings, hserve, hv]
    · show execGetSensorReading n s = _
      simp only [execGetSensorReading, hserve, List.getElem?_eq_none hn]
    · show execGetStateSensorReadings n s = _
      simp only [execGetStateSensorReadings, hserve, List.getElem?_eq_none hn]
    · show execSetEventReceiver a s = _
      simp only [execSetEventReceiver, inUnits, ha, decide_true, if_true, hserve]
    · show execPollForPlatformEvent s = _
      simp only [execPollForPlatformEvent, hserve, hev, List.drop_succ_cons, List.drop_zero, List.take_succ_cons, List.take_zero]
    · show execPlatformEventMessage s = _
      rw [Option.isSome_iff_ne_none] at hr
      simp [execPlatformEventMessage, hup, hr, hev, hty]
    · show execPollForPlatformEvent s = _
      simp only [execPollForPlatformEvent, hserve, hev, List.drop_nil, List.take_nil, MgmtS.events_nil hev]
  case refine_3 =>
    show execPlatformEventMessage s = _
    rcases h with h | h <;> simp [execPlatformEventMessage, h]
  case refine_4 =>
    show execI3cAddressAssign a s = _
    simp only [execI3cAddressAssign, inUnits, ha, decide_true, if_true]
  case refine_5 =>
    have hnot := State.pldm_unserved hup hty
    simp only [List.mem_cons, Prod.mk.injEq, List.not_mem_nil, or_false] at hi
    rcases hi with ⟨rfl, rfl⟩ | ⟨rfl, rfl⟩ | ⟨rfl, rfl⟩ | ⟨rfl, rfl⟩ | ⟨rfl, rfl⟩ | ⟨rfl, rfl⟩ | ⟨rfl, rfl⟩ | ⟨rfl, rfl⟩ |
      ⟨rfl, rfl⟩ | ⟨rfl, rfl⟩ | ⟨rfl, rfl⟩ | ⟨rfl, rfl⟩ | ⟨rfl, rfl⟩ | ⟨rfl, rfl⟩
    exacts [(hnot _ : execGetTid s = _), (hnot _ : execGetPldmTypes s = _),
        (hnot _ : execGetPdrRepositoryInfo s = _), (hnot _ : execPollForPlatformEvent s = _),
        (hnot _ : execQueryDeviceIdentifiers s = _), (hnot _ : execGetFirmwareParameters s = _),
        (hnot _ : execRequestUpdate s = _), (hnot _ : execTransferComplete s = _),
        (hnot _ : execVerifyComplete s = _), (hnot _ : execApplyComplete s = _),
        (hnot _ : execActivateFirmware s = _), (hnot _ : execGetStatus s = _),
        (hnot _ : execCancelUpdateComponent s = _), (hnot _ : execCancelUpdate s = _)]
  case refine_6 =>
    show execSetEndpointId n s = _
    simp only [execSetEndpointId, inUnits, hn, decide_true, if_true, State.pldm_unserved hup hty]
  case refine_7 =>
    show execSetTid n s = _
    simp only [execSetTid, inUnits, hn, decide_true, if_true, State.pldm_unserved hup hty]
  case refine_8 => exact (State.pldm_unserved hup hty _ : execGetPldmVersion n s = _)
  case refine_9 => exact (State.pldm_unserved hup hty _ : execGetPldmCommands n s = _)
  case refine_10 => exact (State.pldm_unserved hup hty _ : execGetPdr n s = _)
  case refine_11 => exact (State.pldm_unserved hup hty _ : execGetSensorReading n s = _)
  case refine_12 => exact (State.pldm_unserved hup hty _ : execGetStateSensorReadings n s = _)
  case refine_13 =>
    show execSetEventReceiver n s = _
    simp only [execSetEventReceiver, inUnits, hn, decide_true, if_true, State.pldm_unserved hup hty]
  case refine_14 => exact (State.pldm_unserved hup hty _ : execUpdateComponent n s = _)
  case refine_15 => exact (State.pldm_unserved hup hty _ : execPassComponentTable l s = _)
  case refine_16 =>
    show execRequestFirmwareData n d s = _
    simp only [execRequestFirmwareData, inUnits, hd, decide_true, if_true, State.pldm_unserved hup hty]

/-- Settles O49: each command of an update as the update's state allows it. -/
theorem firmwareUpdatesComplete : Obligations.FirmwareUpdatesComplete := by
  unfold Obligations.FirmwareUpdatesComplete
  intro s hup hty
  have hserve := State.pldm_served hup hty
  have hdata (o : Nat) {d : List Byte} (hd : d.length ≤ 4096) : exec (.requestFirmwareData o d) s =
      .next (if s.updState ≠ 2 then s.answer .error
        else if (flashSlot s.mgmt.comp s.mgmt.slot).2 < o + d.length then
          ({ s with mgmt := { s.mgmt with bad := true } } : State).answer .error
        else (s.writeFlash ((flashSlot s.mgmt.comp s.mgmt.slot).1 + o) d).answer .success) := by
    show execRequestFirmwareData o d s = _
    simp only [execRequestFirmwareData, inUnits, hd, decide_true, if_true, hserve]
  have hverify : exec .verifyComplete s = .next (if s.updState ≠ 3 then s.answer .error else s.componentVerified) :=
    (hserve _ : execVerifyComplete s = _)
  have happly : exec .applyComplete s = .next (if s.updState ≠ 4 then s.answer .error else s.componentApplied) :=
    (hserve _ : execApplyComplete s = _)
  refine ⟨(hserve _ : execQueryDeviceIdentifiers s = _), (hserve _ : execGetFirmwareParameters s = _),
    (hserve _ : execGetStatus s = _), fun h => (hserve _ : execRequestUpdate s = _).trans ?_, fun h =>
    (hserve _ : execRequestUpdate s = _).trans ?_, fun l h hl => (hserve _ : execPassComponentTable l s = _).trans ?_, fun c h hc =>
    (hserve _ : execUpdateComponent c s = _).trans ?_, fun o d h hd hle => (hdata o hd).trans ?_, fun o d h hd hlt =>
    (hdata o hd).trans ?_, fun h hb => (hserve _ : execTransferComplete s = _).trans ?_, fun h hb =>
    (hserve _ : execTransferComplete s = _).trans ?_, fun h => ⟨_, hverify.trans ?_, s.componentVerified_fields⟩, fun h =>
    ⟨_, happly.trans ?_, s.componentApplied_fields⟩, fun h => ⟨(hserve _ : execActivateFirmware s = _).trans ?_, ?_⟩,
    fun hlo hhi => (hserve _ : execCancelUpdateComponent s = _).trans ?_, fun h => ⟨s.endUpdate.answer .success,
    (hserve _ : execCancelUpdate s = _).trans ?_, ?_⟩, fun l h => (hserve _ : execPassComponentTable l s = _).trans ?_, fun c h =>
    (hserve _ : execUpdateComponent c s = _).trans ?_, fun h => ⟨(hserve _ : execTransferComplete s = _).trans ?_, fun o d hd =>
    (hdata o hd).trans ?_⟩, fun h => hverify.trans ?_, fun h => happly.trans ?_, fun h =>
    (hserve _ : execActivateFirmware s = _).trans ?_, fun h => (hserve _ : execCancelUpdateComponent s = _).trans ?_, fun h =>
    (hserve _ : execCancelUpdate s = _).trans ?_⟩
  case refine_1 => rw [if_pos h]
  case refine_2 => rw [if_neg (not_not.mpr h)]
  case refine_3 =>
    have hall : (decide (s.updState = 1) && l.all (fun c => decide (1 ≤ c) && decide (c ≤ 3))) = true := by simpa [h] using hl
    rw [if_pos hall]
  case refine_4 =>
    have hmay : ((decide (s.updState = 1) || decide (s.updState = 5)) && s.mgmt.named.contains c) = true := by simp [h, hc]
    rw [if_pos hmay]
  case refine_5 => rw [if_neg (not_not.mpr h), if_neg (Nat.not_lt.mpr hle)]
  case refine_6 => rw [if_neg (not_not.mpr h), if_pos hlt]
  case refine_7 => rw [if_neg (not_not.mpr h), hb, if_neg (by decide)]
  case refine_8 => rw [if_neg (not_not.mpr h), hb, if_pos rfl]
  case refine_9 => rw [if_neg (not_not.mpr h)]
  case refine_10 => rw [if_neg (not_not.mpr h)]
  case refine_11 => rw [if_pos h]
  case refine_12 =>
    obtain ⟨hstate, hwait, -, hevent⟩ := s.writeDirectory.endUpdate_fields
    exact ⟨hstate, hevent.trans s.writeDirectory_event, hwait⟩
  case refine_13 =>
    have hmay : (decide (2 ≤ s.updState) && decide (s.updState ≤ 4)) = true := by simp [hlo, hhi]
    rw [if_pos hmay]
  case refine_14 => rw [if_pos h]
  case refine_15 =>
    obtain ⟨hstate, -, hflash, -⟩ := s.endUpdate_fields
    exact ⟨hstate, hflash⟩
  case refine_16 =>
    have hnot : ¬ (decide (s.updState = 1) && l.all (fun c => decide (1 ≤ c) && decide (c ≤ 3))) = true := by
      rcases h with h | ⟨c, hc, h⟩
      · simp [h]
      · simp only [Bool.and_eq_true, List.all_eq_true, decide_eq_true_eq]
        intro ⟨_, hall⟩
        have := hall c hc
        omega
    rw [if_neg hnot]
  case refine_17 =>
    have hnot : ((decide (s.updState = 1) || decide (s.updState = 5)) && s.mgmt.named.contains c) = false := by
      rcases h with ⟨h1, h5⟩ | h
      · simp [h1, h5]
      · simp [h]
    rw [hnot, if_neg (by decide)]
  case refine_18 => rw [if_pos h]
  case refine_19 => rw [if_pos h]
  case refine_20 => rw [if_pos h]
  case refine_21 => rw [if_pos h]
  case refine_22 => rw [if_neg h]
  case refine_23 =>
    have hnot : ¬ (decide (2 ≤ s.updState) && decide (s.updState ≤ 4)) = true := by
      simp only [Bool.and_eq_true, decide_eq_true_eq]
      omega
    rw [if_neg hnot]
  case refine_24 => rw [if_neg (not_not.mpr h)]

end Sys2Proof.Proofs
end

section
/-! Start-up and the test port (R509 to R518, R585). -/

namespace Sys2Proof.Machine

/-! ## The boot log (R518) -/

/-- The registers that a record of the boot log changes: its words, its count and the count of records dropped. -/
def bootLogKey (k : Nat) : Prop :=
  0x1000 * 64 ≤ k ∨ k = Reg.DEV_BOOT.LOG_CNT.key ∨ k = Reg.DEV_BOOT.DROPPED.key

/-- A record of the boot log changes its registers alone, and neither the step nor the always-on domain. -/
theorem State.bootLog_fields (s : State) (event payload : Nat) : KeepsRegs bootLogKey s (s.bootLog event payload) ∧
    (s.bootLog event payload).boot = s.boot ∧ (s.bootLog event payload).aon = s.aon := by
  have hword (t : State) (n w v : Nat) (ht : KeepsRegs bootLogKey s t ∧ t.boot = s.boot ∧ t.aon = s.aon) :
      KeepsRegs bootLogKey s (t.put (Reg.BOOT_LOG.W n w) v) ∧ (t.put (Reg.BOOT_LOG.W n w) v).boot = s.boot ∧
        (t.put (Reg.BOOT_LOG.W n w) v).aon = s.aon :=
    ⟨ht.1.put (.inl (by simp only [Fld.key, Reg.BOOT_LOG.W]; omega)) _, ht.2⟩
  have hseq (l : Tab Nat) : KeepsRegs bootLogKey s ({ s with islSeq := l } : State) ∧
      ({ s with islSeq := l } : State).boot = s.boot ∧ ({ s with islSeq := l } : State).aon = s.aon := ⟨fun _ _ => rfl, rfl, rfl⟩
  unfold State.bootLog State.bootLogAt
  extract_lets n seq dev b t
  have ht : KeepsRegs bootLogKey s t ∧ t.boot = s.boot ∧ t.aon = s.aon := hseq _
  clear_value t
  split
  · have hwords := List.foldlRecOn (motive := fun u : State => KeepsRegs bootLogKey s u ∧ u.boot = s.boot ∧ u.aon = s.aon)
      (List.range 4) (fun (u : State) w => u.put (Reg.BOOT_LOG.W n w) (leNat (cut b (8 * w) 8))) ht
      (fun u hu w _ => hword u n w _ hu)
    generalize (List.range 4).foldl _ t = u at hwords ⊢
    exact ⟨hwords.1.put (f := Reg.DEV_BOOT.LOG_CNT) (.inr (.inl rfl)) _, hwords.2⟩
  · exact ⟨ht.1.put (f := Reg.DEV_BOOT.DROPPED) (.inr (.inr rfl)) _, ht.2⟩

/-- A step that has completed is shown, and the next one is in progress. -/
theorem State.stepDone_fields (s : State) {n us : Nat} (hn : n < 256) :
    (s.stepDone n us).boot = { s.boot with cur := n + 1 } ∧ (s.stepDone n us).aon = s.aon ∧
      (s.stepDone n us).get Reg.DEV_STATUS.BOOT_STEP = n := by
  obtain ⟨-, hboot, haon⟩ := s.bootLog_fields 0x0201 (n + us % 2 ^ 32 * 2 ^ 8)
  have hstep (t : State) : (t.put Reg.DEV_STATUS.BOOT_STEP n).get Reg.DEV_STATUS.BOOT_STEP = n :=
    (State.get_put_same _ _ _).trans (Nat.mod_eq_of_lt hn)
  have hget (t : State) (b : BootS) (f : Fld) : ({ t with boot := b } : State).get f = t.get f := rfl
  refine ⟨?_, haon, (hget _ _ _).trans (hstep _)⟩
  rw [← hboot]
  rfl

/-- Start-up that stops shows the step and the cause (R517). -/
theorem State.bootStop_fields (s : State) {n cause : Nat} (hn : n < 16) (hcause : cause < 256) (reason : Nat) :
    (s.bootStop n cause reason).get Reg.DEV_STATUS.FAILED = 1 ∧ (s.bootStop n cause reason).get Reg.DEV_BOOT.FAIL_STEP = n ∧
      (s.bootStop n cause reason).get Reg.DEV_BOOT.FAIL_CAUSE = cause ∧ (s.bootStop n cause reason).boot.running = false := by
  have hget (t : State) (b : BootS) (f : Fld) : ({ t with boot := b } : State).get f = t.get f := rfl
  have hstep (t : State) : (t.put Reg.DEV_BOOT.FAIL_STEP n).get Reg.DEV_BOOT.FAIL_STEP = n :=
    (State.get_put_same _ _ _).trans (Nat.mod_eq_of_lt hn)
  have hwhy (t : State) : (t.put Reg.DEV_BOOT.FAIL_CAUSE cause).get Reg.DEV_BOOT.FAIL_CAUSE = cause :=
    (State.get_put_same _ _ _).trans (Nat.mod_eq_of_lt hcause)
  have hfailed (t : State) : (t.put Reg.DEV_STATUS.FAILED 1).get Reg.DEV_STATUS.FAILED = 1 := State.get_put_same _ _ _
  refine ⟨(hget _ _ _).trans ?_, (hget _ _ _).trans ?_, (hget _ _ _).trans (hwhy _), rfl⟩
  · exact (State.get_put_ne _ _ _ _ (by decide)).trans ((State.get_put_ne _ _ _ _ (by decide)).trans (hfailed _))
  · exact (State.get_put_ne _ _ _ _ (by decide)).trans (hstep _)

/-- The first failure of image A in the normal mode goes on with image B (R511). -/
theorem State.imageFail_fallback {s : State} {n cause reason : Nat} (hmode : s.get Reg.DEV_BOOT.BOOT_MODE = 0)
    (hfirst : s.flag Reg.DEV_BOOT.FALLBACK = false) : (s.imageFail n cause reason).boot.cur = 3 ∧
      (s.imageFail n cause reason).get Reg.DEV_BOOT.IMAGE = 1 ∧ (s.imageFail n cause reason).get Reg.DEV_BOOT.FALLBACK = 1 := by
  have himage (t : State) : (t.put Reg.DEV_BOOT.IMAGE 1).get Reg.DEV_BOOT.IMAGE = 1 := State.get_put_same _ _ _
  have hback (t : State) : (t.put Reg.DEV_BOOT.FALLBACK 1).get Reg.DEV_BOOT.FALLBACK = 1 := State.get_put_same _ _ _
  have hget (t : State) (b : BootS) (f : Fld) : ({ t with boot := b } : State).get f = t.get f := rfl
  have hgo : (decide (s.get Reg.DEV_BOOT.BOOT_MODE = 0) && !s.flag Reg.DEV_BOOT.FALLBACK) = true := by simp [hmode, hfirst]
  rw [State.imageFail, if_pos hgo]
  exact ⟨rfl, (hget _ _ _).trans (himage _), (hget _ _ _).trans ((State.get_put_ne _ _ _ _ (by decide)).trans (hback _))⟩

/-- An event of a register other than the error block's is set whatever else happens. -/
theorem State.get_setEvent_same (s : State) {f : Fld} (hoff : f.off ≠ 0x700000) (hpba : f.key ≠ Reg.MSIX_PBA.PENDING.key)
    (v : Nat) : (s.setEvent f v).get f = 1 % 2 ^ f.w := by
  have hput : (s.put f 1).get f = 1 % 2 ^ f.w := State.get_put_same _ _ _
  have hvector : ((s.put f 1).sendVector v).get f = (s.put f 1).get f := by
    unfold State.sendVector
    split
    · rfl
    · exact State.get_put_ne _ _ _ _ hpba
  have hquiet : (s.pairsFailed && decide (f.off = 0x700000) && decide (f.lo ≠ 34)) = false := by simp [hoff]
  rw [State.setEvent, hquiet]
  simp only [Bool.false_eq_true, if_false]
  split
  · exact hvector.trans hput
  · exact hput

theorem State.get_setEvent_other (s : State) {e f : Fld} (hne : e.key ≠ f.key) (hpba : e.key ≠ Reg.MSIX_PBA.PENDING.key)
    (v : Nat) : (s.setEvent f v).get e = s.get e := by
  have hvector (t : State) : (t.sendVector v).get e = t.get e := by
    unfold State.sendVector
    split
    · rfl
    · exact State.get_put_ne _ _ _ _ hpba
  have hput : (s.put f 1).get e = s.get e := State.get_put_ne _ _ _ _ hne
  have hquiet (b : Bool) : (if b = true then s else s.put f 1).get e = s.get e := by
    split
    · rfl
    · exact hput
  unfold State.setEvent
  extract_lets quiet t
  have ht : t.get e = s.get e := hquiet _
  split
  · exact (hvector t).trans ht
  · exact ht

/-- The state with BAR0 no longer dark. -/
def State.undark (s : State) : State := { s with boot := { s.boot with dark := false } }

/-- The state after step 2, in which a management load waits (R508, R522). -/
def State.romDone (s : State) (us : Nat) : State :=
  { s.undark.stepDone 2 us with boot := { s.undark.boot with cur := 3, waiting := decide (s.undark.get Reg.DEV_BOOT.BOOT_MODE = 3) } }

theorem State.bootRom_eq (s : State) (us : Nat) : s.bootRom us =
    if 4 ≤ s.undark.get Reg.DEV_BOOT.BOOT_MODE then s.undark.bootStop 2 6 0 else s.romDone us := rfl

theorem State.undark_get (s : State) (f : Fld) : s.undark.get f = s.get f := rfl

theorem State.romDone_fields (s : State) (us : Nat) : (s.romDone us).boot.cur = 3 ∧ (s.romDone us).boot.dark = false ∧
    (s.romDone us).boot.running = s.boot.running ∧
    (s.romDone us).boot.waiting = decide (s.get Reg.DEV_BOOT.BOOT_MODE = 3) ∧
    (s.romDone us).get Reg.DEV_STATUS.BOOT_STEP = 2 := by
  obtain ⟨-, -, hstep⟩ := s.undark.stepDone_fields (n := 2) (us := us) (by decide)
  have hget (t : State) (b : BootS) (f : Fld) : ({ t with boot := b } : State).get f = t.get f := rfl
  exact ⟨rfl, rfl, rfl, rfl, (hget _ _ _).trans hstep⟩

/-- The end of step 10 makes the device READY (R516). -/
theorem State.bootReady_fields (s : State) (us : Nat) : (s.bootReady us).get Reg.DEV_STATUS.READY = 1 ∧
    (s.bootReady us).get Reg.DEV_STATUS.READY_EVT = 1 ∧ (s.bootReady us).get Reg.DEV_STATUS.BOOT_STEP = 10 ∧
    (s.bootReady us).boot.running = false := by
  have hget (t : State) (b : BootS) (f : Fld) : ({ t with boot := b } : State).get f = t.get f := rfl
  obtain ⟨-, -, hstep⟩ := s.stepDone_fields (n := 10) (us := us) (by decide)
  have hready (t : State) : (t.put Reg.DEV_STATUS.READY 1).get Reg.DEV_STATUS.READY = 1 := State.get_put_same _ _ _
  refine ⟨(hget _ _ _).trans ((State.get_setEvent_other _ (by decide) (by decide) _).trans (hready _)),
    (hget _ _ _).trans (State.get_setEvent_same _ (by decide) (by decide) _), (hget _ _ _).trans ?_, rfl⟩
  exact (State.get_setEvent_other _ (by decide) (by decide) _).trans ((State.get_put_ne _ _ _ _ (by decide)).trans hstep)

theorem State.setMeas_boot (s : State) (i : Nat) (v : List Byte) : (s.setMeas i v).boot = s.boot :=
  List.foldlRecOn (motive := fun t : State => t.boot = s.boot) _ _ rfl (fun _ ht _ _ => ht)

theorem exec_bootStepComplete {s : State} (hrun : s.boot.running = true) (hwait : s.boot.waiting = false) (r : BootResult) :
    exec (.bootStepComplete r) s = .next (s.bootStep r) := by
  show execBootStepComplete r s = _
  unfold execBootStepComplete
  rw [if_pos hrun, hwait, if_neg (by decide)]

theorem exec_bootStepTimeout {s : State} (hrun : s.boot.running = true) (hwait : s.boot.waiting = false) :
    exec .bootStepTimeout s = .next (s.bootFail (stepBound s.boot.cur) 1) := by
  show execBootStepTimeout s = _
  simp only [execBootStepTimeout, hrun, hwait, Bool.not_false, Bool.and_self, if_true]

/-- A step of those that have no second try stops start-up (R510). -/
theorem State.bootFail_stops {s : State}
    (h : s.boot.cur = 2 ∨ s.boot.cur = 6 ∨ s.boot.cur = 7 ∨ s.boot.cur = 8 ∨ s.boot.cur = 10) (us cause : Nat) :
    s.bootFail us cause = s.bootStop s.boot.cur cause 0 := by
  rcases h with h | h | h | h | h <;> simp [State.bootFail, h]

end Sys2Proof.Machine

namespace Sys2Proof.Proofs

open Sys2Proof.Machine

/-- Settles O51: each step of start-up ends with what it brings, and a failed one as its number says. -/
theorem startUpStepsComplete : Obligations.StartUpStepsComplete := by
  unfold Obligations.StartUpStepsComplete
  refine ⟨fun us s hrun hwait => ?_, fun i s hi hne => ?_, fun s => rfl, fun i s hi => ?_⟩
  case refine_1 =>
    have hexec := exec_bootStepComplete hrun hwait
    have htime := exec_bootStepTimeout hrun hwait
    have hsmall (h : s.boot.cur = 2 ∨ s.boot.cur = 6 ∨ s.boot.cur = 7 ∨ s.boot.cur = 8 ∨ s.boot.cur = 10) :
        s.boot.cur < 16 := by omega
    have hrom (h : s.boot.cur = 2) : exec (.bootStepComplete (.done us)) s = .next (s.bootRom us) := by
      rw [hexec]
      simp only [State.bootStep, h]
    refine ⟨fun h => ?_, fun h hmode => ?_, fun h hmode => ?_, fun h hmode => ?_, fun i p b h => (hexec _).trans ?_,
      fun h => (hexec _).trans ?_, fun h => (hexec _).trans ?_, fun c a o h => (hexec _).trans ?_,
      fun l m d h => (hexec _).trans ?_, fun h hready => (hexec _).trans ?_, fun cause => ⟨fun h => (hexec _).trans ?_,
      fun h => (hexec _).trans ?_, fun h => (hexec _).trans ?_⟩, fun h => htime.trans ?_, fun h => htime.trans ?_,
      fun h => htime.trans ?_, fun n c r _ hmode hfirst => State.imageFail_fallback hmode hfirst, fun h => ?_,
      fun h hready => (hexec _).trans ?_, fun h => ⟨_, (hexec _).trans ?_, s.bootReady_fields us⟩, fun h cause hcause => ?_,
      fun h => ?_⟩
    case refine_1 =>
      obtain ⟨hboot, haon, hstep⟩ := ({ s with aon := { s.aon with up := true } } : State).stepDone_fields (n := 1) (us := us)
        (by decide)
      refine ⟨_, (hexec _).trans ?_, ?_, ?_, hstep⟩
      · simp only [State.bootStep, h]
      · rw [hboot]
      · rw [haon]
    case refine_2 =>
      obtain ⟨hcur, hdark, hrunning, -, hstep⟩ := s.romDone_fields us
      refine ⟨s.romDone us, (hrom h).trans ?_, hcur, hdark, hrunning.trans hrun, hstep⟩
      rw [s.bootRom_eq, State.undark_get, if_neg (by omega)]
    case refine_3 =>
      obtain ⟨hcur, -, -, hwaiting, -⟩ := s.romDone_fields us
      refine ⟨s.romDone us, (hrom h).trans ?_, hcur, hwaiting.trans (decide_eq_true hmode)⟩
      rw [s.bootRom_eq, State.undark_get, if_neg (by omega)]
    case refine_4 =>
      refine ⟨s.undark.bootStop 2 6 0, (hrom h).trans ?_, State.bootStop_fields _ (by decide) (by decide) _⟩
      rw [s.bootRom_eq, State.undark_get, if_pos hmode]
    case refine_5 => simp only [State.bootStep, h, if_true]
    case refine_6 => simp only [State.bootStep, h]
    case refine_7 => simp only [State.bootStep, h]
    case refine_8 => simp only [State.bootStep, h, if_true]
    case refine_9 => simp only [State.bootStep, h, if_true]
    case refine_10 => simp only [State.bootStep, h, hready, if_true]
    case refine_11 => rcases h with h | h <;> simp only [State.bootStep, State.bootFail, h]
    case refine_12 => simp only [State.bootStep, State.bootFail, h]
    case refine_13 => simp only [State.bootStep, State.bootFail, h]
    case refine_14 => rcases h with h | h <;> simp only [State.bootFail, h]
    case refine_15 => simp only [State.bootFail, h, stepBound]
    case refine_16 => simp only [State.bootFail, h, stepBound]
    case refine_17 =>
      obtain ⟨hboot, -, hstep⟩ := (s.setMeas 2 (sha512 (s.boot.fw.getD []))).stepDone_fields (n := 6) (us := us) (by decide)
      refine ⟨_, (hexec _).trans ?_, ?_, hstep⟩
      · simp only [State.bootStep, h, State.bootControl]
      · rw [hboot]
    case refine_18 => simp only [State.bootStep, h, hready, Bool.false_eq_true, if_false]
    case refine_19 => simp only [State.bootStep, h]
    case refine_20 =>
      refine ⟨_, (hexec _).trans (congrArg Host.Outcome.next (State.bootFail_stops h us cause)), ?_⟩
      exact s.bootStop_fields (hsmall h) hcause 0
    case refine_21 =>
      refine ⟨_, htime.trans (congrArg Host.Outcome.next (State.bootFail_stops h _ 1)), ?_⟩
      exact s.bootStop_fields (hsmall h) (by decide) 0
  case refine_2 =>
    show execJtagInstruction i s = _
    simp [execJtagInstruction, hi, hne]
  case refine_3 =>
    show execJtagInstruction i s = _
    simp [execJtagInstruction, hi]

end Sys2Proof.Proofs
end

section
/-! Register accesses of the host, and the doorbells of the command rings (R7 to R10, R23, R388, R470, R474). -/

namespace Sys2Proof.Machine

/-! ## Writes at a given register -/

theorem islandOfOff_none {off : Nat} (h : off < 0xB00000 ∨ 0xC00000 ≤ off) (htop : off < 0x1000000) : islandOfOff off = none := by
  rw [islandOfOff, if_neg (by omega), if_neg (by omega)]

theorem State.accessHeld_none (s : State) {off : Nat} (h : off < 0xB00000 ∨ 0xC00000 ≤ off) (htop : off < 0x1000000) :
    s.accessHeld off = false := by
  rw [State.accessHeld, islandOfOff_none h htop]
  rfl

theorem State.fusedPort_none (s : State) {off : Nat} (h : off < 0xB00000 ∨ 0xC00000 ≤ off) : s.fusedPort off = false := by
  have hoff : (decide (0xB00000 ≤ off) && decide (off < 0xC00000)) = false := by
    rw [Bool.and_eq_false_iff, decide_eq_false_iff_not, decide_eq_false_iff_not]
    omega
  rw [State.fusedPort, hoff]
  rfl

/-- A write at an offset of no port and of no core takes effect at once. -/
theorem State.regWrite_central (s : State) {off : Nat} (h : off < 0xB00000 ∨ 0xC00000 ≤ off) (htop : off < 0x1000000)
    (v : Nat) : s.regWrite off v = s.writeNow off v := State.regWrite_of_not_held (s.accessHeld_none h htop) v

/-- The check of a write that the generic rules make. -/
def State.genericCode (s : State) (row : RegRow) (ix : List Nat) (val : Nat) : Nat :=
  firstCode [(row.id ≠ .TRC_POP || bits val 0 8 ≠ 0, 0x06), (s.rangeOk row.id ix val, 0x06), (s.unitOk row.id val, 0x05),
    (s.stateOk row.id ix val, 0x04)]

theorem State.genericWrite_refused {s : State} {row : RegRow} {ix : List Nat} {off val : Nat}
    (h : s.genericCode row ix val ≠ 0) :
    s.genericWrite row ix off val = s.reject (s.genericCode row ix val) off (jobOfOff off) := if_pos h

/-- An accepted write of a register without RWL fields. -/
theorem State.genericWrite_accepted {s : State} {row : RegRow} {ix : List Nat} {off val : Nat}
    (h : s.genericCode row ix val = 0) (hrwl : ∀ f ∈ row.fields, f.acc ≠ .rwl) :
    s.genericWrite row ix off val = s.applyReg row ix off val := by
  have hsame : s.rwlDiffers row ix off val = false := by
    rw [State.rwlDiffers, List.any_eq_false]
    intro f hf
    simp [hrwl f hf]
  refine (if_neg (not_not.mpr h)).trans ?_
  simp only [hsame, Bool.and_false, Bool.false_eq_true, if_false]

/-! ## The registers of the host's page operations, power shares and trace streams -/

/-- The row of `MEM_OP_ARG1`. -/
def rowMemOpArg1 : RegRow := ⟨.MEM_OP_ARG1, 0xC00008, [], [⟨0, 64, .rw, 0⟩]⟩

/-- The row of `MEM_OP_STATUS`. -/
def rowMemOpStatus : RegRow :=
  ⟨.MEM_OP_STATUS, 0xC00018, [], [⟨56, 8, .ro, 0⟩, ⟨32, 1, .w1c, 0⟩, ⟨8, 8, .ro, 0⟩, ⟨3, 1, .ro, 0⟩, ⟨0, 3, .ro, 0⟩]⟩

/-- The row of `PWR_SHARE`. -/
def rowPwrShare : RegRow :=
  ⟨.PWR_SHARE, 0x800010, [], [⟨24, 8, .rw, 0x40⟩, ⟨16, 8, .rw, 0x40⟩, ⟨8, 8, .rw, 0x40⟩, ⟨0, 8, .rw, 0x40⟩]⟩

/-- The row of `TS_TEMP`. -/
def rowTsTemp : RegRow := ⟨.TS_TEMP, 0x800100, [(64, 0x8)], [⟨16, 16, .rc, 0⟩, ⟨0, 16, .ro, 0⟩]⟩

/-- The row of `TRC_POP`. -/
def rowTrcPop : RegRow := ⟨.TRC_POP, 0x703028, [(9, 0x40)], [⟨0, 8, .wo, 0⟩]⟩

/-- The row of `RING_CFG`. -/
def rowRingCfg : RegRow := ⟨.RING_CFG, 0x100008, [(9, 0x100)], [⟨16, 4, .rw, 4⟩, ⟨0, 1, .rw, 0⟩]⟩

theorem regAt_central : regAt 0xC00008 = some (rowMemOpArg1, []) ∧ regAt 0xC00018 = some (rowMemOpStatus, []) ∧
    regAt 0x800010 = some (rowPwrShare, []) ∧ regAt 0x800100 = some (rowTsTemp, [0]) := by decide +kernel

theorem regAt_trcPop {q : Nat} (hq : q < 9) : regAt (0x703028 + 64 * q) = some (rowTrcPop, [q]) := by
  have hall : ∀ k : Fin 9, regAt (0x703028 + 64 * k) = some (rowTrcPop, [(k : Nat)]) := by decide +kernel
  exact hall ⟨q, hq⟩

theorem regAt_ringCfg {q : Nat} (hq : q < 9) : regAt (0x100008 + q * 0x100) = some (rowRingCfg, [q]) := by
  have hall : ∀ k : Fin 9, regAt (0x100008 + k * 0x100) = some (rowRingCfg, [(k : Nat)]) := by decide +kernel
  exact hall ⟨q, hq⟩

theorem bits_put (s : State) (f : Fld) (v : Nat) : s.put f (bits v 0 f.w) = s.put f v := by
  simp only [State.put, bits, Nat.pow_zero, Nat.div_one, Nat.mod_mod]

theorem State.writeNow_memOpArg1 (s : State) (v : Nat) : s.writeNow 0xC00008 v = s.put Reg.MEM_OP_ARG1.W v := by
  have hgeneric : s.writeNow 0xC00008 v = s.genericWrite rowMemOpArg1 [] 0xC00008 v := by
    simp only [State.writeNow, s.fusedPort_none (off := 0xC00008) (.inr (by decide)), regAt_central.1, Bool.false_eq_true, if_false]
    rfl
  rw [hgeneric, State.genericWrite_accepted rfl (by decide)]
  exact bits_put s Reg.MEM_OP_ARG1.W v

/-- The four shares of a write of `PWR_SHARE`. -/
def State.putShares (s : State) (v : Nat) : State :=
  (((s.put Reg.PWR_SHARE.W3 (bits v 24 8)).put Reg.PWR_SHARE.W2 (bits v 16 8)).put Reg.PWR_SHARE.W1 (bits v 8 8)).put
    Reg.PWR_SHARE.W0 (bits v 0 8)

theorem State.writeNow_pwrShare (s : State) (v : Nat) : s.writeNow 0x800010 v =
    if bits v 0 32 = 0 then s.reject 0x06 0x800010 none else s.putShares v := by
  have hgeneric : s.writeNow 0x800010 v = s.genericWrite rowPwrShare [] 0x800010 v := by
    simp only [State.writeNow, s.fusedPort_none (off := 0x800010) (.inl (by decide)), regAt_central.2.2.1, Bool.false_eq_true,
      if_false]
    rfl
  have hcode : s.genericCode rowPwrShare [] v = if bits v 0 32 = 0 then 0x06 else 0 := by
    by_cases h : bits v 0 32 = 0 <;> simp [State.genericCode, rowPwrShare, State.rangeOk, State.unitOk, State.stateOk, jobReg,
      ctxReg, State.basesOk, firstCode, h]
  rw [hgeneric]
  split
  next h =>
    rw [if_pos h] at hcode
    rw [State.genericWrite_refused (by rw [hcode]; decide), hcode]
    rfl
  next h =>
    rw [if_neg h] at hcode
    rw [State.genericWrite_accepted hcode (by decide)]
    rfl

theorem State.putShares_fields (s : State) (v : Nat) : (s.putShares v).get Reg.PWR_SHARE.W0 = bits v 0 8 ∧
    (s.putShares v).get Reg.PWR_SHARE.W1 = bits v 8 8 ∧ (s.putShares v).get Reg.PWR_SHARE.W2 = bits v 16 8 ∧
    (s.putShares v).get Reg.PWR_SHARE.W3 = bits v 24 8 ∧ (s.putShares v).mem = s.mem ∧
    (s.putShares v).get Reg.PWR_CAP.CAP_W = s.get Reg.PWR_CAP.CAP_W := by
  have hmod (lo : Nat) : bits v lo 8 % 2 ^ 8 = bits v lo 8 := Nat.mod_mod _ _
  unfold State.putShares
  refine ⟨?_, ?_, ?_, ?_, rfl, ?_⟩ <;>
    simp (disch := decide) only [State.get_put_ne, State.get_put_same] <;> exact hmod _

/-! ## Event bits, temperatures and trace streams -/

/-- A write of `MEM_OP_STATUS` meets its one event bit. -/
theorem State.w1cClear_memOpStatus (s : State) (mask hw : Nat) : s.w1cClear 0xC00018 mask hw =
    s.w1cBit rowMemOpStatus [] 0xC00018 (bit mask 32) (bit hw 32) ⟨32, 1, .w1c, 0⟩ := by
  have hport := s.fusedPort_none (off := 0xC00018) (.inr (by decide))
  have hheld := s.accessHeld_none (off := 0xC00018) (.inr (by decide)) (by decide)
  have hevents : isEventReg rowMemOpStatus = true := by decide
  have hvec (v : Nat) : eventVectors rowMemOpStatus 0xC00018 v = [] := by
    cases h : bit v 32 <;> simp [eventVectors, rowMemOpStatus, eventVector, h]
  have hbits : s.hwBits 0xC00018 hw = hw := by simp [State.hwBits]
  simp only [State.w1cClear, hport, hheld, hevents, regAt_central.2.1, State.w1cWrite, hvec, hbits, Bool.not_true,
    Bool.false_eq_true, if_false, List.append_nil, List.eraseDups_nil, List.foldl_nil]
  rfl

/-- The read of sensor 0's register clears its `PEAK` (R505). -/
theorem State.clearRc_tsTemp (s : State) : s.clearRc 0x800100 0 =
    { s.put (Reg.TS_TEMP.PEAK 0) 0 with power := { s.power with peaked := s.power.peaked.filter (· ≠ 0) } } := by
  simp only [State.clearRc, regAt_central.2.2.2]
  rfl

theorem State.readNow_tsTemp (s : State) : (s.readNow 0x800100 0).get (Reg.TS_TEMP.PEAK 0) = 0 ∧
    (s.readNow 0x800100 0).get (Reg.TS_TEMP.TEMP 0) = s.get (Reg.TS_TEMP.TEMP 0) ∧
    (s.readNow 0x800100 0).mmioData = s.get (Reg.TS_TEMP.PEAK 0) * 2 ^ 16 + s.get (Reg.TS_TEMP.TEMP 0) ∧
    (s.readNow 0x800100 0).mem = s.mem := by
  have hport := s.fusedPort_none (off := 0x800100) (.inl (by decide))
  have hread : s.regRead 0x800100 = s.get (Reg.TS_TEMP.PEAK 0) * 2 ^ 16 + s.get (Reg.TS_TEMP.TEMP 0) := by
    have hvalue : s.regRead 0x800100 = 0 + 2 ^ 16 * s.get (Reg.TS_TEMP.PEAK 0) + 2 ^ 0 * s.get (Reg.TS_TEMP.TEMP 0) := by
      simp only [State.regRead, hport, regAt_central.2.2.2, Bool.false_eq_true, if_false]
      rfl
    rw [hvalue]
    omega
  have hget (t : State) (n : Nat) (f : Fld) : ({ t with mmioData := n } : State).get f = t.get f := rfl
  have htemp : (s.put (Reg.TS_TEMP.PEAK 0) 0).get (Reg.TS_TEMP.TEMP 0) = s.get (Reg.TS_TEMP.TEMP 0) :=
    State.get_put_ne _ _ _ _ (by decide)
  rw [State.readNow_of_present hport, s.clearRc_tsTemp]
  exact ⟨(hget _ _ _).trans ((State.get_power _ _ _).trans (State.get_put_same _ _ _)),
    (hget _ _ _).trans ((State.get_power _ _ _).trans htemp), hread, rfl⟩

theorem exec_trcPop {q : Nat} (hq : q < 9) {s : State} (h : s.Open) (n : Nat) :
    exec (.trcPop q n) s = .next (s.genericWrite rowTrcPop [q] (0x703028 + 64 * q) n) := by
  have hwrite : s.writeNow (0x703028 + 64 * q) n = s.genericWrite rowTrcPop [q] (0x703028 + 64 * q) n := by
    simp only [State.writeNow, s.fusedPort_none (off := 0x703028 + 64 * q) (.inl (by omega)), regAt_trcPop hq,
      Bool.false_eq_true, if_false]
    rfl
  show execTrcPop q n s = _
  simp only [execTrcPop, inUnits, hq, decide_true, if_true, State.barWrite_open h,
    s.regWrite_central (off := 0x703028 + 64 * q) (.inl (by omega)) (by omega), hwrite]

theorem State.genericCode_trcPop (s : State) (q : Nat) {n : Nat} (hn : n < 256) : s.genericCode rowTrcPop [q] n =
    if n = 0 then 0x06 else if n ≤ s.traceAvail q then 0 else 0x04 := by
  have hbits : bits n 0 8 = n := by
    simp only [bits, Nat.pow_zero, Nat.div_one]
    omega
  simp only [State.genericCode, rowTrcPop, State.rangeOk, State.unitOk, State.stateOk, jobReg, ctxReg, State.basesOk, hbits,
    List.getD_cons_zero]
  by_cases h0 : n = 0
  · simp [firstCode, h0]
  · by_cases hle : n ≤ s.traceAvail q <;> simp [firstCode, h0, hle]

theorem jobOfOff_none {off : Nat} (h : off < 0x300000 ∨ 0x700000 ≤ off) : jobOfOff off = none := by
  rw [jobOfOff, if_neg (by omega), if_neg (by omega), if_neg (by omega), if_neg (by omega)]

/-! ## The command rings' configuration (R474, R480) -/

theorem exec_ringCfgEnWrite {q : Nat} (hq : q < 9) {s : State} (h : s.Open) (v : Nat) :
    exec (.ringCfgEnWrite q v) s = .next (s.genericWrite rowRingCfg [q] (0x100008 + q * 0x100) v) := by
  have hwrite : s.writeNow (0x100008 + q * 0x100) v = s.genericWrite rowRingCfg [q] (0x100008 + q * 0x100) v := by
    simp only [State.writeNow, s.fusedPort_none (off := 0x100008 + q * 0x100) (.inl (by omega)), regAt_ringCfg hq,
      Bool.false_eq_true, if_false]
    rfl
  show execRingCfgEnWrite q v s = _
  simp only [execRingCfgEnWrite, inUnits, hq, decide_true, if_true, State.barWrite_open h,
    s.regWrite_central (off := 0x100008 + q * 0x100) (.inl (by omega)) (by omega), hwrite]

/-- A ring that is enabled starts at its tail. -/
theorem State.writeRingCfg_enables {s : State} {q v : Nat} (hoff : s.flag (Reg.RING_CFG.EN q) = false) (hon : bit v 0 = true) :
    (s.writeRingCfg q v).get (Reg.RING_CFG.EN q) = 1 ∧ (s.writeRingCfg q v).get (Reg.RING_CFG.SIZE_LOG2 q) = bits v 16 4 ∧
      (s.writeRingCfg q v).get (Reg.RING_STATUS.HEAD q) = s.get (Reg.RING_STATUS.TAIL q) % 2 ^ 16 ∧
      (s.writeRingCfg q v).get (Reg.RING_STATUS.STOPPED q) = 0 ∧ ((s.writeRingCfg q v).ringOfNum q).cmds = [] ∧
      (s.writeRingCfg q v).mem = s.mem ∧ (s.writeRingCfg q v).host = s.host := by
  have hget (t : State) (r : RingS) (f : Fld) : (t.setRingNum q r).get f = t.get f := rfl
  have hsize : bits v 16 4 % 2 ^ 4 = bits v 16 4 := Nat.mod_mod _ _
  have hen : bits v 0 1 = 1 := by rw [bits_zero_one, hon]; rfl
  have htail : ((s.put (Reg.RING_CFG.SIZE_LOG2 q) (bits v 16 4)).put (Reg.RING_CFG.EN q) (bits v 0 1)).get
      (Reg.RING_STATUS.TAIL q) = s.get (Reg.RING_STATUS.TAIL q) := by
    refine (State.get_put_ne _ _ _ _ ?_).trans (State.get_put_ne _ _ _ _ ?_) <;>
      (simp only [Fld.key, Reg.RING_STATUS.TAIL, Reg.RING_CFG.SIZE_LOG2, Reg.RING_CFG.EN]; omega)
  unfold State.writeRingCfg
  simp only [hoff, hon, Bool.not_false, Bool.and_self, if_true, htail]
  refine ⟨(hget _ _ _).trans ?_, (hget _ _ _).trans ?_, (hget _ _ _).trans ?_, (hget _ _ _).trans ?_, ?_, rfl, rfl⟩
  · simp (disch := (simp only [Fld.key, Reg.RING_STATUS.HEAD, Reg.RING_STATUS.STOPPED, Reg.RING_STATUS.CODE, Reg.CPL_HEAD.IDX,
      Reg.RING_CFG.EN]; omega)) only [State.get_put_ne, State.get_put_same, hen]
    rfl
  · simp (disch := (simp only [Fld.key, Reg.RING_STATUS.HEAD, Reg.RING_STATUS.STOPPED, Reg.RING_STATUS.CODE, Reg.CPL_HEAD.IDX,
      Reg.RING_CFG.EN, Reg.RING_CFG.SIZE_LOG2]; omega)) only [State.get_put_ne, State.get_put_same]
    exact hsize
  · simp (disch := (simp only [Fld.key, Reg.RING_STATUS.HEAD, Reg.RING_STATUS.STOPPED, Reg.RING_STATUS.CODE, Reg.CPL_HEAD.IDX]
                    omega)) only [State.get_put_ne, State.get_put_same]
    rfl
  · simp (disch := (simp only [Fld.key, Reg.RING_STATUS.STOPPED, Reg.RING_STATUS.CODE, Reg.CPL_HEAD.IDX]; omega)) only
      [State.get_put_ne, State.get_put_same]
    rfl
  · exact congrArg RingS.cmds (Tab.get_set_same _ _ _ _)

theorem State.genericCode_ringCfg (s : State) (q v : Nat) :
    (bits v 16 4 < 4 → s.genericCode rowRingCfg [q] v = 0x06) ∧
      (4 ≤ bits v 16 4 → s.flag (Reg.RING_CFG.EN q) = false → s.genericCode rowRingCfg [q] v = 0) := by
  refine ⟨fun h => ?_, fun h hen => ?_⟩
  · simp [State.genericCode, rowRingCfg, State.rangeOk, firstCode, Nat.not_le.mpr h]
  · simp [State.genericCode, rowRingCfg, State.rangeOk, State.unitOk, State.stateOk, jobReg, ctxReg, State.basesOk, firstCode, h,
      hen]

end Sys2Proof.Machine

namespace Sys2Proof.Proofs

open Sys2Proof.Machine

/-- Settles O53: an access goes where its offset's island lets it, and each register named acts as its row says. -/
theorem hostAccessesComplete : Obligations.HostAccessesComplete := by
  unfold Obligations.HostAccessesComplete
  have hnow {s : State} (hopen : s.Open) {off : Nat} (h : off < 0xB00000 ∨ 0xC00000 ≤ off) (htop : off < 0x1000000) (v : Nat) :
      exec (.registerWrite off v) s = .next (s.writeNow off v) := by
    rw [exec_registerWrite, State.hostWrite_open hopen, s.regWrite_central h htop]
  have hread {s : State} (hopen : s.Open) (off v : Nat) : exec (.rcRead off v) s = .next (s.readClear off v) := by
    rw [exec_rcRead_of_up hopen.2.1, hopen.1, Bool.false_and, if_neg (by decide)]
  have hclear {s : State} (hopen : s.Open) (mask hw : Nat) : exec (.w1cClear 0xC00018 mask hw) s =
      .next (s.w1cBit rowMemOpStatus [] 0xC00018 (bit mask 32) (bit hw 32) ⟨32, 1, .w1c, 0⟩) := by
    show execW1cClear 0xC00018 mask hw s = _
    rw [execW1cClear, State.hostWrite_open hopen, s.w1cClear_memOpStatus]
  have hset : bit (2 ^ 32) 32 = true ∧ bit 0 32 = false := by decide
  refine ⟨fun off v s hopen hport => ⟨fun hheld => ⟨?_, ?_⟩, fun hheld => ⟨?_, ?_⟩⟩, fun off v s hreached hlo hhi => ?_,
    fun v s hopen => ?_, fun v s hopen => ⟨fun h => ?_, fun h => ?_⟩, fun s hopen => ⟨?_, ?_, ?_⟩, fun s hopen => ?_,
    fun q n s hq hopen hlo hhi hn => ?_, fun q n s hq hopen hlo hhi hn => ?_, fun q s hq hopen => ?_⟩
  case refine_1 => rw [exec_registerWrite, State.hostWrite_open hopen, State.regWrite_of_not_held hheld]
  case refine_2 => rw [hread hopen, State.readClear_of_not_held hheld]
  case refine_3 => exact execRegisterWrite_of_held hopen hport hheld v
  case refine_4 => rw [hread hopen, State.readClear, hheld, if_pos rfl]
  case refine_5 =>
    have hwrite : s.hostWrite off (fun t => t.regWrite off v) = s.regWrite off v := by
      have hwindow : (decide (0x590000 ≤ off) && decide (off < 0x5A0000)) = true := by simp only [hlo, hhi, decide_true, Bool.and_self]
      rw [State.hostWrite, hreached.2, if_neg (by decide), if_neg (by omega), hwindow, if_pos rfl, State.hostReaches_reached hreached]
    rw [exec_registerWrite, hwrite, s.regWrite_central (.inl (by omega)) (by omega)]
  case refine_6 => rw [hnow hopen (.inr (by decide)) (by decide), s.writeNow_memOpArg1]
  case refine_7 =>
    refine ⟨s.putShares v, ?_, s.putShares_fields v⟩
    rw [hnow hopen (.inl (by decide)) (by decide), s.writeNow_pwrShare, if_neg h]
  case refine_8 => rw [hnow hopen (.inl (by decide)) (by decide), s.writeNow_pwrShare, if_pos h]
  case refine_9 =>
    rw [hclear hopen, hset.1, hset.2]
    rfl
  case refine_10 =>
    rw [hclear hopen, hset.1, hset.2]
    rfl
  case refine_11 =>
    rw [hclear hopen, hset.1]
    rfl
  case refine_12 =>
    refine ⟨s.readNow 0x800100 0, ?_, s.readNow_tsTemp⟩
    rw [hread hopen, State.readClear_of_not_held (s.accessHeld_none (.inl (by decide)) (by decide))]
  case refine_13 =>
    have hcode := s.genericCode_trcPop q hhi
    rw [if_neg (by omega), if_pos hn] at hcode
    have hbits : bits n 0 8 = n := by
      simp only [bits, Nat.pow_zero, Nat.div_one]
      omega
    rw [exec_trcPop hq hopen, State.genericWrite_accepted hcode (by decide)]
    show (.next (s.popRecords q (bits n 0 8)) : Ans) = _
    rw [hbits]
  case refine_14 =>
    have hcode := s.genericCode_trcPop q hhi
    rw [if_neg (by omega), if_neg (by omega)] at hcode
    rw [exec_trcPop hq hopen, State.genericWrite_refused (by rw [hcode]; decide), hcode, jobOfOff_none (.inr (by omega))]
  case refine_15 =>
    have hcode := s.genericCode_trcPop q (n := 0) (by decide)
    rw [if_pos rfl] at hcode
    rw [exec_trcPop hq hopen, State.genericWrite_refused (by rw [hcode]; decide), hcode, jobOfOff_none (.inr (by omega))]

/-- Settles O54: a doorbell's code decides, and enabling a ring starts it at its tail. -/
theorem doorbellsComplete : Obligations.DoorbellsComplete := by
  unfold Obligations.DoorbellsComplete
  refine ⟨fun q v s hq hup hp => ⟨fun h => ?_, fun h => ?_, fun h => ?_, fun h => ?_⟩, fun q v s hq hup hp =>
    ⟨fun h => ?_, fun h => ?_⟩, fun q v s => ⟨fun hq => ⟨?_, ?_⟩, fun hq => ?_⟩, fun q v s hq hp => ⟨?_, ?_, ?_⟩,
    fun q v s hq hopen hsize hon hoff => ?_, fun q v s hq hopen hsize => ?_⟩
  case refine_1 =>
    show execDoorbellTail q v s = _
    simp [execDoorbellTail, inUnits, hq, hup, hp, State.bellTail, h]
  case refine_2 =>
    show execDoorbellTail q v s = _
    simp [execDoorbellTail, inUnits, hq, hup, hp, State.bellTail, h]
  case refine_3 =>
    show execDoorbellCplHead q v s = _
    simp [execDoorbellCplHead, inUnits, hq, hup, hp, State.bellCplHead, h]
  case refine_4 =>
    show execDoorbellCplHead q v s = _
    simp [execDoorbellCplHead, inUnits, hq, hup, hp, State.bellCplHead, h]
  case refine_5 =>
    show execDoorbellFrHead q v s = _
    simp [execDoorbellFrHead, inUnits, hq, hup, hp, State.bellFrHead, h]
  case refine_6 =>
    show execDoorbellFrHead q v s = _
    simp [execDoorbellFrHead, inUnits, hq, hup, hp, State.bellFrHead, h]
  case refine_7 => simp [State.tailCode, firstCode, hq, Nat.not_lt.mpr hq]
  case refine_8 => simp [State.cplHeadCode, firstCode, hq, Nat.not_lt.mpr hq]
  case refine_9 => simp [State.frHeadCode, firstCode, hq, Nat.not_lt.mpr hq]
  case refine_10 =>
    show execDoorbellTail q v s = _
    simp [execDoorbellTail, inUnits, hq, hp]
  case refine_11 =>
    show execDoorbellCplHead q v s = _
    simp [execDoorbellCplHead, inUnits, hq, hp]
  case refine_12 =>
    show execDoorbellFrHead q v s = _
    simp [execDoorbellFrHead, inUnits, hq, hp]
  case refine_13 =>
    refine ⟨s.writeRingCfg q v, ?_, State.writeRingCfg_enables hoff hon⟩
    rw [exec_ringCfgEnWrite hq hopen, State.genericWrite_accepted ((s.genericCode_ringCfg q v).2 hsize hoff) (by decide)]
    rfl
  case refine_14 =>
    have hcode := (s.genericCode_ringCfg q v).1 hsize
    rw [exec_ringCfgEnWrite hq hopen, State.genericWrite_refused (by rw [hcode]; decide), hcode, jobOfOff_none (.inl (by omega))]

end Sys2Proof.Proofs
end

section
/-! The command rings (R470 to R475). -/

namespace Sys2Proof.Machine

/-- A ring's next command of an opcode runs while the control pairs work (R425). -/
theorem State.ringRun_of_next {s : State} {q opc : Nat} {c : RingCmd} (hp : s.pairsFailed = false)
    (hc : s.nextCmd q opc = some c) (f : RingCmd → State) : s.ringRun q opc f = f c := by
  simp only [State.ringRun, hc, hp, Bool.false_eq_true, if_false]

/-- A copy that goes on, or that may start, runs while host memory can be reached (R472). -/
theorem State.copyRun_of_next {s : State} {q opc : Nat} {c : RingCmd} (hp : s.pairsFailed = false) (hr : s.hostReach = true)
    (hc : s.copyNext q opc = some c) (hgo : c.started = true ∨ s.copyCode q c = 0) (f : RingCmd → State) :
    s.copyRun q opc f = f c := by
  have hstart : (!c.started && decide (s.copyCode q c ≠ 0)) = false := by rcases hgo with h | h <;> simp [h]
  simp only [State.copyRun, hp, hr, hc, hstart, Bool.not_true, Bool.or_self, Bool.false_eq_true, if_false]

/-- A copy that may not start is rejected (R472). -/
theorem State.copyRun_refused {s : State} {q opc : Nat} {c : RingCmd} (hp : s.pairsFailed = false) (hr : s.hostReach = true)
    (hc : s.copyNext q opc = some c) (hnew : c.started = false) (hcode : s.copyCode q c ≠ 0) (f : RingCmd → State) :
    s.copyRun q opc f = s.ringReject q c.idx (s.copyCode q c) (ringJob q) := by
  have hstop : (!c.started && decide (s.copyCode q c ≠ 0)) = true := by simp [hnew, hcode]
  simp only [State.copyRun, hp, hr, hc, hstop, Bool.not_true, Bool.or_self, Bool.false_eq_true, if_false, if_true]

section
variable {q : Nat} (hq : q < 8) (s : State)
include hq

theorem exec_copyToDev (ok : Bool) : exec (.copyToDev q ok) s = .next (s.copyRun q 0x04 (fun c => s.copyToDev q c ok)) := by
  show execCopyToDev q ok s = _
  simp only [execCopyToDev, inUnits, hq, decide_true, if_true]

theorem exec_copyFromDev : exec (.copyFromDev q) s = .next (s.copyRun q 0x05 (fun c => s.copyFromDev q c)) := by
  show execCopyFromDev q s = _
  simp only [execCopyFromDev, inUnits, hq, decide_true, if_true]

end

/-- The command of an index is written to the completion ring where it is the next to complete and is done (R473). -/
theorem State.completeCmd_find {s : State} {q n : Nat} (h : (s.ringOfNum q).order.head? = some n) :
    (s.ringOfNum q).cmds.find? (fun c => decide (c.idx = n) && c.done && decide ((s.ringOfNum q).order.head? = some n)) =
      (s.ringOfNum q).cmds.find? (fun d => decide (d.idx = n) && d.done) := by
  simp only [h, decide_true, Bool.and_true]

end Sys2Proof.Machine

namespace Sys2Proof.Proofs

open Sys2Proof.Machine

/-- Settles O55: the fetch, each opcode's command and the completion, as the ring's state and the command's checks decide. -/
theorem ringCommandsComplete : Obligations.RingCommandsComplete := by
  unfold Obligations.RingCommandsComplete
  refine ⟨fun q b s u hq hmay hb hu => ⟨fun h => ?_, fun h => ?_⟩, fun q s hq hmay => ?_, fun q c s hq hp hc => ?_,
    fun q off c s hq hp hc hoff => ⟨fun hfree => ⟨fun hok => ?_, fun hok => ?_⟩, fun hheld hport => ?_⟩,
    fun q off c s hq hp hc hoff => ⟨fun hok => ⟨fun hport hheld => ?_, fun hport => ?_⟩, fun hok hheld => ?_,
      fun hheld hport => ?_⟩,
    fun q n va c s t hq hp hr hc hgo hva hin => ⟨fun hn => ?_, fun hn => ?_⟩,
    fun q n m va c s t hq hp hr hc hgo hva hn hin => ⟨fun hm => ?_, fun hm => ?_⟩,
    fun q n va c s t hq hp hr hc hgo hva hout => ⟨fun hn => ?_, fun hn => ?_⟩,
    fun q opc i c s hq hp hr hi hc hnew hcode => ?_, fun q n c s hlast => if_pos hlast,
    fun q c s u hq hp hc hu => ⟨fun hcode => ?_, fun hcode => ?_⟩,
    fun j k c s hp hc hj hk => ⟨fun hready hcode => ?_, fun hcode => ?_, fun hready hcode => ?_⟩,
    fun op j vpn c s u hp hc hop hj hvpn hu => ⟨fun hnone hcode => ?_, fun hnone hcode => ?_, fun hsome => ?_⟩,
    fun q n c s u hq hr hp hhead hfind hu => ⟨fun hflg => ?_, fun hflg => ?_⟩, fun q n s hq hhead => ?_⟩
  case refine_1 =>
    show execRingEntryFetch q true s = _
    simp only [execRingEntryFetch, inUnits, hq, hmay, decide_true, if_true, State.takeEntry, ← hb, h, hu]
  case refine_2 =>
    show execRingEntryFetch q true s = _
    simp only [execRingEntryFetch, inUnits, hq, hmay, decide_true, if_true, State.takeEntry, ← hb, h, hu, Bool.false_eq_true,
      if_false]
  case refine_3 =>
    show execRingEntryFetch q false s = _
    simp only [execRingEntryFetch, inUnits, hq, hmay, decide_true, if_true, State.stopRing, Bool.false_eq_true, if_false]
  case refine_4 =>
    show execCmdNop q s = _
    simp only [execCmdNop, inUnits, hq, decide_true, if_true, State.ringRun_of_next hp hc]
  case refine_5 =>
    have hgo : (s.accessHeld off && !s.fusedPort off) = false := by rcases hfree with h | h <;> simp [h]
    show execRegWrite q s = _
    simp only [execRegWrite, inUnits, hq, decide_true, if_true, State.ringRun_of_next hp hc, State.ringWrite, ← hoff, hgo, hok,
      Bool.false_eq_true, if_false]
  case refine_6 =>
    have hgo : (s.accessHeld off && !s.fusedPort off) = false := by rcases hfree with h | h <;> simp [h]
    show execRegWrite q s = _
    simp only [execRegWrite, inUnits, hq, decide_true, if_true, State.ringRun_of_next hp hc, State.ringWrite, ← hoff, hgo, hok,
      Bool.false_eq_true, if_false]
  case refine_7 =>
    show execRegWrite q s = _
    simp only [execRegWrite, inUnits, hq, decide_true, if_true, State.ringRun_of_next hp hc, State.ringWrite, ← hoff, hheld,
      hport, Bool.not_false, Bool.and_self]
  case refine_8 =>
    show execRegRead q s = _
    simp only [execRegRead, inUnits, hq, decide_true, if_true, State.ringRun_of_next hp hc, State.ringRead, ← hoff, hheld, hport,
      hok, Bool.false_and, Bool.false_eq_true, if_false]
  case refine_9 =>
    have hzero : s.regRead off = 0 := by rw [State.regRead, if_pos hport]
    show execRegRead q s = _
    simp only [execRegRead, inUnits, hq, decide_true, if_true, State.ringRun_of_next hp hc, State.ringRead, ← hoff, hport, hok,
      hzero, Bool.not_true, Bool.and_false, Bool.false_eq_true, if_false]
  case refine_10 =>
    show execRegRead q s = _
    simp only [execRegRead, inUnits, hq, decide_true, if_true, State.ringRun_of_next hp hc, State.ringRead, ← hoff, hheld, hok,
      Bool.false_and, Bool.false_eq_true, if_false]
  case refine_11 =>
    show execRegRead q s = _
    simp only [execRegRead, inUnits, hq, decide_true, if_true, State.ringRun_of_next hp hc, State.ringRead, ← hoff, hheld, hport,
      Bool.not_false, Bool.and_self]
  case refine_12 =>
    rw [exec_copyToDev hq, State.copyRun_of_next hp hr hc hgo]
    simp only [State.copyToDev, ← hva, hin, if_true, hn, Nat.lt_irrefl, if_false]
  case refine_13 =>
    rw [exec_copyToDev hq, State.copyRun_of_next hp hr hc hgo]
    simp only [State.copyToDev, ← hva, hin, if_true, hn]
  case refine_14 =>
    rw [exec_copyToDev hq, State.copyRun_of_next hp hr hc hgo]
    simp only [State.copyToDev, ← hva, Bool.false_eq_true, if_false, ← hn, hin, hm, Nat.lt_irrefl]
  case refine_15 =>
    rw [exec_copyToDev hq, State.copyRun_of_next hp hr hc hgo]
    simp only [State.copyToDev, ← hva, Bool.false_eq_true, if_false, ← hn, hin, hm, if_true]
  case refine_16 =>
    rw [exec_copyFromDev hq, State.copyRun_of_next hp hr hc hgo]
    simp only [State.copyFromDev, ← hva, hout, hn, Nat.lt_irrefl, if_false]
  case refine_17 =>
    rw [exec_copyFromDev hq, State.copyRun_of_next hp hr hc hgo]
    simp only [State.copyFromDev, ← hva, hout, hn, if_true]
  case refine_18 =>
    simp only [List.mem_cons, Prod.mk.injEq, List.not_mem_nil, or_false] at hi
    rcases hi with ⟨rfl, rfl⟩ | ⟨rfl, rfl⟩ | ⟨rfl, rfl⟩
    · rw [exec_copyToDev hq, State.copyRun_refused hp hr hc hnew hcode]
    · rw [exec_copyToDev hq, State.copyRun_refused hp hr hc hnew hcode]
    · rw [exec_copyFromDev hq, State.copyRun_refused hp hr hc hnew hcode]
  case refine_19 =>
    show execFlagAdd q s = _
    simp only [execFlagAdd, inUnits, hq, decide_true, if_true, State.ringRun_of_next hp hc, State.ringFlagAdd, hcode, ne_eq,
      not_true_eq_false, if_false, hu]
  case refine_20 =>
    show execFlagAdd q s = _
    simp only [execFlagAdd, inUnits, hq, decide_true, if_true, State.ringRun_of_next hp hc, State.ringFlagAdd, hcode, ne_eq,
      not_false_eq_true]
  case refine_21 =>
    show execJobCmd s = _
    simp [execJobCmd, State.ringRun_of_next hp hc, State.ringJobCmd, ← hj, ← hk, hcode, hready, firstNonzero]
  case refine_22 =>
    show execJobCmd s = _
    simp [execJobCmd, State.ringRun_of_next hp hc, State.ringJobCmd, ← hj, ← hk, hcode, firstNonzero]
  case refine_23 =>
    show execJobCmd s = _
    simp [execJobCmd, State.ringRun_of_next hp hc, State.ringJobCmd, ← hj, ← hk, hcode, hready, firstNonzero]
  case refine_24 =>
    show execPageOp s = _
    simp only [execPageOp, State.ringRun_of_next hp hc, State.ringPageOp, ← hop, ← hj, ← hvpn, hcode, hnone, Option.isSome_none,
      Bool.false_eq_true, ne_eq, not_true_eq_false, if_false, hu]
  case refine_25 =>
    show execPageOp s = _
    simp only [execPageOp, State.ringRun_of_next hp hc, State.ringPageOp, ← hop, ← hj, ← hvpn, hcode, hnone, Option.isSome_none,
      Bool.false_eq_true, ne_eq, not_false_eq_true, if_false, if_true]
  case refine_26 =>
    show execPageOp s = _
    simp only [execPageOp, State.ringRun_of_next hp hc, State.ringPageOp, Option.isSome_iff_ne_none.mpr hsome, if_true]
  case refine_27 =>
    show execCommandComplete q n s = _
    simp only [execCommandComplete, inUnits, hq, hr, hp, decide_true, Bool.not_false, Bool.and_self, if_true,
      State.completeCmd, State.completeCmd_find hhead, hfind, hflg, Bool.false_eq_true, if_false, hu]
  case refine_28 =>
    show execCommandComplete q n s = _
    simp only [execCommandComplete, inUnits, hq, hr, hp, decide_true, Bool.not_false, Bool.and_self, if_true,
      State.completeCmd, State.completeCmd_find hhead, hfind, hflg, hu]
  case refine_29 =>
    have hnone : (s.ringOfNum q).cmds.find? (fun c => decide (c.idx = n) && c.done && decide ((s.ringOfNum q).order.head? = some n)) =
        none := by
      simp only [hhead, decide_false, Bool.and_false, List.find?_eq_none, Bool.false_eq_true, not_false_eq_true, implies_true]
    show execCommandComplete q n s = _
    simp only [execCommandComplete, inUnits, hq, decide_true, if_true, State.completeCmd, hnone, ite_self]

end Sys2Proof.Proofs
end

section
/-! What a stop, a restore and the loss of the control pairs read afterwards, and the state operations that leave it as it
was: memory, the Safety Net's first touch, ports, Carousel queues and records. -/

namespace Sys2Proof.Machine

/-! ## Registers that no operation of an engine changes -/

/-- The fields by which a job's state and its halt record, and the control pairs' and the recovery's state are read:
`JOB_STATUS.STATE`, `JOB_HALT_INFO.CODE` and `.UNIT` of the eight jobs, `NC_STATUS.ACTIVE` and `RCV_STATUS.STATE`. -/
def steadyKey (k : Nat) : Prop :=
  (0x300000 * 64 ≤ k ∧ k < 0x380000 * 64 ∧
    (k % (0x10000 * 64) = 0x8 * 64 ∨ k % (0x10000 * 64) = 0x20 * 64 ∨ k % (0x10000 * 64) = 0x20 * 64 + 32)) ∨
  k = 0x580008 * 64 ∨ k = 0x590008 * 64

theorem steadyKey_jobState {j : Nat} (hj : j < 8) : steadyKey (Reg.JOB_STATUS.STATE j).key := by
  simp only [steadyKey, Fld.key, Reg.JOB_STATUS.STATE]; omega

theorem steadyKey_haltCode {j : Nat} (hj : j < 8) : steadyKey (Reg.JOB_HALT_INFO.CODE j).key := by
  simp only [steadyKey, Fld.key, Reg.JOB_HALT_INFO.CODE]; omega

theorem steadyKey_haltUnit {j : Nat} (hj : j < 8) : steadyKey (Reg.JOB_HALT_INFO.UNIT j).key := by
  simp only [steadyKey, Fld.key, Reg.JOB_HALT_INFO.UNIT]; omega

theorem steadyKey_pairs : steadyKey Reg.NC_STATUS.ACTIVE.key := .inr (.inl rfl)

theorem steadyKey_recovery : steadyKey Reg.RCV_STATUS.STATE.key := .inr (.inr rfl)

/-- The registers from the High Wire's on hold none of these fields. -/
theorem not_steadyKey_of_high {f : Fld} (hf : 0x5A0000 ≤ f.off) : ¬ steadyKey f.key := by
  simp only [steadyKey, Fld.key]; omega

/-! ## The relation -/

/-- From state r to state s the always-on domain, the stacks' self-refresh and the steady registers have not changed. -/
structure Steady (r s : State) : Prop where
  aon : s.aon = r.aon
  hbmSelf : s.hbmSelf = r.hbmSelf
  get : ∀ f : Fld, steadyKey f.key → s.get f = r.get f

theorem Steady.refl (s : State) : Steady s s := ⟨rfl, rfl, fun _ _ => rfl⟩

section
variable {r s t : State}

theorem Steady.trans (h : Steady r s) (k : Steady s t) : Steady r t :=
  ⟨k.aon.trans h.aon, k.hbmSelf.trans h.hbmSelf, fun f hf => (k.get f hf).trans (h.get f hf)⟩

theorem Steady.jobState (h : Steady r s) {j : Nat} (hj : j < 8) : s.jobState j = r.jobState j :=
  h.get _ (steadyKey_jobState hj)

/-- A change of neither the always-on domain, the self-refresh nor the registers. -/
theorem Steady.upd (h : Steady r s) (e : (t.aon, t.hbmSelf, t.regs) = (s.aon, s.hbmSelf, s.regs)) : Steady r t := by
  simp only [Prod.mk.injEq] at e
  obtain ⟨haon, hself, hregs⟩ := e
  exact ⟨haon.trans h.aon, hself.trans h.hbmSelf,
    fun f hf => (congrArg (Tab.get f.rst · f.key) hregs).trans (h.get f hf)⟩

theorem Steady.put (h : Steady r s) {f : Fld} (hf : ¬ steadyKey f.key) (v : Nat) : Steady r (s.put f v) :=
  ⟨h.aon, h.hbmSelf, fun e he => (State.get_put_ne s f e v (fun hk => hf (hk ▸ he))).trans (h.get e he)⟩

/-! A field of a register from the High Wire's on, by how many numbers index the register. -/

theorem Steady.put_high₀ (h : Steady r s) {b lo w rst : Nat} (v : Nat) :
    Steady r (s.put ⟨b + 0x5A0000, lo, w, rst⟩ v) :=
  h.put (not_steadyKey_of_high (Nat.le_add_left _ _)) v

theorem Steady.put_high₁ (h : Steady r s) {b i lo w rst : Nat} (v : Nat) :
    Steady r (s.put ⟨b + 0x5A0000 + i, lo, w, rst⟩ v) :=
  h.put (not_steadyKey_of_high (Nat.le_add_right_of_le (Nat.le_add_left _ _))) v

theorem Steady.put_high₂ (h : Steady r s) {b i j lo w rst : Nat} (v : Nat) :
    Steady r (s.put ⟨b + 0x5A0000 + i + j, lo, w, rst⟩ v) :=
  h.put (not_steadyKey_of_high (Nat.le_add_right_of_le (Nat.le_add_right_of_le (Nat.le_add_left _ _)))) v

theorem Steady.put_high₃ (h : Steady r s) {b i j k lo w rst : Nat} (v : Nat) :
    Steady r (s.put ⟨b + 0x5A0000 + i + j + k, lo, w, rst⟩ v) :=
  h.put (not_steadyKey_of_high
    (Nat.le_add_right_of_le (Nat.le_add_right_of_le (Nat.le_add_right_of_le (Nat.le_add_left _ _))))) v

theorem Steady.inc_high₀ (h : Steady r s) {b lo w rst : Nat} (n : Nat) :
    Steady r (s.inc ⟨b + 0x5A0000, lo, w, rst⟩ n) := h.put_high₀ _

theorem Steady.inc_high₁ (h : Steady r s) {b i lo w rst : Nat} (n : Nat) :
    Steady r (s.inc ⟨b + 0x5A0000 + i, lo, w, rst⟩ n) := h.put_high₁ _

theorem Steady.inc_high₂ (h : Steady r s) {b i j lo w rst : Nat} (n : Nat) :
    Steady r (s.inc ⟨b + 0x5A0000 + i + j, lo, w, rst⟩ n) := h.put_high₂ _

theorem Steady.inc_high₃ (h : Steady r s) {b i j k lo w rst : Nat} (n : Nat) :
    Steady r (s.inc ⟨b + 0x5A0000 + i + j + k, lo, w, rst⟩ n) := h.put_high₃ _

theorem Steady.ite {c : Prop} [Decidable c] (h : Steady r s) (k : Steady r t) : Steady r (if c then s else t) := by
  split <;> assumption

theorem Steady.foldl {α : Type} (h : Steady r s) (f : State → α → State) (l : List α)
    (hf : ∀ t a, Steady r t → Steady r (f t a)) : Steady r (l.foldl f s) := by
  induction l generalizing s with
  | nil => exact h
  | cons a l ih => exact ih (hf s a h)

theorem Steady.getD (h : Steady r s) {o : Option State} (ho : ∀ t, o = some t → Steady r t) : Steady r (o.getD s) := by
  cases o with
  | none => exact h
  | some t => exact ho t rfl

/-! ## Memory and the Safety Net's first touch (R347, R400, R410) -/

theorem Steady.setMemBytes (h : Steady r s) (a : Nat) (l : List Byte) : Steady r (s.setMemBytes a l) := by
  induction l generalizing s a with
  | nil => exact h
  | cons b l ih =>
    have hone : Steady r (s.setMemByte a b) := h.upd rfl
    exact ih hone _

theorem Steady.countMem (h : Steady r s) (a n : Nat) (w : Bool) : Steady r (s.countMem a n w) := by
  unfold State.countMem
  cases w <;> dsimp only <;> split
  · exact h.inc_high₁ _
  · exact h.inc_high₁ _
  · exact h.inc_high₁ _
  · exact h.inc_high₁ _

theorem Steady.copyMem (h : Steady r s) (a b n : Nat) : Steady r (s.copyMem a b n) := by
  have hmem : Steady r { s with mem := Tab.putSlice s.mem b n (Tab.slice s.mem a n) } := h.upd rfl
  exact (hmem.countMem _ _ _).countMem _ _ _

theorem Steady.setMemNat (h : Steady r s) (a n v : Nat) : Steady r (s.setMemNat a n v) := h.setMemBytes _ _

theorem Steady.setPte (h : Steady r s) (j v : Nat) (p : Pte) : Steady r (s.setPte j v p) := by
  have hone (t : State) (ht : Steady r t) (root : Nat) : Steady r (match t.entryAt root v with
      | some a => ((t.setMemNat a 8 p.w0).setMemNat (a + 8) 8 p.w1).countMem a 16 true
      | none => t) := by
    split
    · exact ((ht.setMemNat _ _ _).setMemNat _ _ _).countMem _ _ _
    · exact ht
  exact hone _ (hone _ h _) _

theorem Steady.copyGranules (h : Steady r s) (a b set : Nat) : Steady r (s.copyGranules a b set) :=
  h.foldl _ _ (fun _ _ ht => (ht.copyMem _ _ _).ite ht)

theorem Steady.logFill (h : Steady r s) (j v : Nat) : Steady r (s.logFill j v) := by
  have hlog (half i : Nat) : Steady r (s.writeLog j half i v) := by
    unfold State.writeLog
    exact h.ite ((h.setMemNat _ _ _).countMem _ _ _)
  have hovf : ¬ steadyKey (Reg.SN_JOB_STATUS.LOG_OVF j).key := by
    simp only [steadyKey, Fld.key, Reg.SN_JOB_STATUS.LOG_OVF]; omega
  exact Steady.ite ((hlog _ _).upd rfl) (h.put hovf 1)

theorem Steady.noteMigration (h : Steady r s) (j v g : Nat) : Steady r (s.noteMigration j v g) := by
  unfold State.noteMigration
  split
  · exact Steady.ite (h.upd rfl) h
  · exact h

theorem Steady.noteCopied (h : Steady r s) (j v set : Nat) : Steady r (s.noteCopied j v set) :=
  h.foldl _ _ (fun _ _ ht => (ht.noteMigration _ _ _).ite ht)

theorem Steady.firstTouch (h : Steady r s) (j v g : Nat) : Steady r (s.firstTouch j v g) := by
  have hinc (b : Bool) : Steady r (if b then s else s.put (Reg.SN_JOB_STATUS.INCOMPLETE j) 1) :=
    h.ite (h.put (by simp only [steadyKey, Fld.key, Reg.SN_JOB_STATUS.INCOMPLETE]; omega) 1)
  have hcount (t : State) (ht : Steady r t) (b : Bool) (n : Nat) :
      Steady r (if b then t.inc (Reg.SN_COW_GRANULES.N j) n else t) :=
    Steady.ite (ht.put (by simp only [steadyKey, Fld.key, Reg.SN_COW_GRANULES.N]; omega) _) ht
  unfold State.firstTouch
  cases s.pte j v with
  | none => exact h
  | some p =>
    refine h.ite ?_
    dsimp only
    split
    · exact (hinc _).ite ((hinc _).setPte _ _ _)
    · exact ((hinc _).setPte _ _ _).logFill _ _
    · exact ((hcount _ (((hinc _).copyGranules _ _ _).ite (hinc _)) _ _).setPte _ _ _).logFill _ _
    · exact ((hcount _ ((((hinc _).copyGranules _ _ _).noteCopied _ _ _).ite (hinc _)) _ _).setPte _ _ _).logFill _ _

theorem Steady.devWrite (h : Steady r s) {j va : Nat} {b : Byte} (ht : s.devWrite j va b = some t) : Steady r t := by
  unfold State.devWrite at ht
  split at ht
  · cases ht
  · dsimp only at ht
    split at ht
    · cases ht
    · cases ht
      exact ((h.firstTouch _ _ _).noteMigration _ _ _).upd rfl

/-! ## Ports (R435, R438, R439) -/

theorem Steady.sendFlit (h : Steady r s) (p : Nat) (f : Flit) : Steady r (s.sendFlit p f) := by
  have hport (x : PortS) : Steady r (s.setPort p x) := h.upd rfl
  exact (hport _).inc_high₁ 1

theorem Steady.setPort (h : Steady r s) (p : Nat) (x : PortS) : Steady r (s.setPort p x) := h.upd rfl

theorem Steady.sendMac (h : Steady r s) (p : Nat) : Steady r (s.sendMac p) := by
  unfold State.sendMac
  exact Steady.ite ((((h.setPort _ _).sendFlit _ _).setPort _ _).put_high₁ _) ((h.setPort _ _).sendFlit _ _)

theorem Steady.sendData (h : Steady r s) (p : Nat) (f : Flit) : Steady r (s.sendData p f) := by
  unfold State.sendData
  exact Steady.ite ((((h.setPort _ _).sendFlit _ _).setPort _ _).inc_high₁ _) ((h.setPort _ _).sendFlit _ _)

theorem Steady.pumpPort (h : Steady r s) (p n : Nat) : Steady r (s.pumpPort p n) := by
  induction n generalizing s with
  | zero => exact h
  | succ n ih =>
    refine h.ite ?_
    cases s.nextFlit p with
    | some i => exact ih ((h.setPort _ _).sendData _ _)
    | none => exact h.ite (ih (h.sendMac _))

theorem Steady.sendOn (h : Steady r s) (p : Nat) (k : Packet) : Steady r (s.sendOn p k) := (h.setPort _ _).pumpPort _ _

/-! ## Carousel queues (R285 to R290) -/

theorem Steady.setCq (h : Steady r s) (q : Nat) (x : CqS) : Steady r (s.setCq q x) := h.upd rfl

theorem Steady.setSn (h : Steady r s) (j : Nat) (x : SnS) : Steady r (s.setSn j x) := h.upd rfl

/-- The counts and events of a Carousel queue are no steady registers. -/
theorem not_steadyKey_cqFlds (q : Nat) : ¬ steadyKey (cqFlds q).put.key ∧ ¬ steadyKey (cqFlds q).drops.key ∧
    ¬ steadyKey (cqFlds q).drop.key := by
  by_cases hq : q < 9
  · simp only [cqFlds, hq, if_true, steadyKey, Fld.key, Reg.TQ_PUT.COUNT, Reg.TQ_DROPS.COUNT, Reg.TQ_STATUS.DROP_EVT]
    omega
  · simp only [cqFlds, hq, if_false, steadyKey, Fld.key, Reg.JQ_PUT.COUNT, Reg.JQ_DROPS.COUNT, Reg.JQ_STATUS.DROP_EVT]
    omega

theorem Steady.noteBack (h : Steady r s) (q : Nat) (w : Bool) (p : Nat) : Steady r (s.noteBack q w p) := by
  unfold State.noteBack
  dsimp only
  split
  · exact h.countMem _ _ _
  · split
    · exact h.countMem _ _ _
    · exact h.ite (h.upd rfl)

theorem Steady.setCqBackByte (h : Steady r s) (q p : Nat) (b : Byte) : Steady r (s.setCqBackByte q p b) := by
  have hn := h.noteBack q true p
  unfold State.setCqBackByte
  dsimp only
  split
  · exact hn.upd rfl
  · exact hn.getD (fun _ ht => hn.devWrite ht)

theorem Steady.cqFlushFrom (h : Steady r s) (q p : Nat) : Steady r (s.cqFlushFrom q p) :=
  h.ite ((h.foldl _ _ (fun _ _ ht => (ht.setCqBackByte _ _ _).ite ht)).setCq _ _)

theorem Steady.cqSpillBurst (h : Steady r s) (q : Nat) : Steady r (s.cqSpillBurst q) :=
  (h.foldl _ _ (fun _ _ ht => ht.ite (ht.setCqBackByte _ _ _))).setCq _ _

theorem Steady.cqFill (h : Steady r s) (q : Nat) : Steady r (s.cqFill q) :=
  Steady.ite ((h.foldl _ _ (fun _ _ ht => ht.noteBack _ _ _)).setCq _ _) (h.setCq _ _)

theorem Steady.cqMakeRoom (h : Steady r s) (q : Nat) : Steady r (s.cqMakeRoom q) :=
  h.ite ((h.cqFill q).ite (h.ite (h.cqSpillBurst q)))

theorem Steady.cqAppend (h : Steady r s) (q : Nat) (l : List Byte) : Steady r (s.cqAppend q l) := by
  induction l generalizing s with
  | nil => exact h
  | cons b l ih => exact ih (((h.cqMakeRoom q).setCq _ _).put (not_steadyKey_cqFlds q).1 _)

/-! ## Events and records (R379, R385, R390) -/

theorem Steady.sendVector (h : Steady r s) (v : Nat) : Steady r (s.sendVector v) :=
  Steady.ite (h.upd rfl) (h.put (by simp only [steadyKey, Fld.key, Reg.MSIX_PBA.PENDING]; omega) _)

theorem Steady.setEvent (h : Steady r s) {f : Fld} (hf : ¬ steadyKey f.key) (v : Nat) : Steady r (s.setEvent f v) := by
  have ht (b : Bool) : Steady r (if b then s else s.put f 1) := h.ite (h.put hf 1)
  exact ((ht _).sendVector v).ite (ht _)

theorem Steady.cqDropFull (h : Steady r s) (q : Nat) : Steady r (s.cqDropFull q) := by
  obtain ⟨-, hdrops, hdrop⟩ := not_steadyKey_cqFlds q
  have hd := (h.put hdrops (min (s.get (cqFlds q).drops + 1) (2 ^ (cqFlds q).drops.w - 1))).put hdrop 1
  exact Steady.ite (hd.setEvent (not_steadyKey_of_high (by decide)) 11) hd

theorem Steady.cqPush (h : Steady r s) (q tag : Nat) (data : List Byte) : Steady r (s.cqPush q tag data) := by
  obtain ⟨-, hdrops, -⟩ := not_steadyKey_cqFlds q
  exact Steady.ite (h.put hdrops _) (Steady.ite (h.setCq _ _) (Steady.ite (h.cqDropFull q) (h.cqAppend q _)))

theorem Steady.trace (h : Steady r s) (island event : Nat) (job : Option Nat) (payload : Nat) :
    Steady r (s.trace island event job payload) := by
  have hseq : Steady r { s with
      islSeq := Tab.set 0 s.islSeq island ((Tab.get 0 s.islSeq island + 1) % 2 ^ 32) } := h.upd rfl
  exact hseq.cqPush _ _ _

theorem Steady.pldmEvent (h : Steady r s) (k : Nat) : Steady r (s.pldmEvent k) := h.upd rfl

theorem Steady.recordFault (h : Steady r s) (e : ErrAt) (o : Option Nat) : Steady r (s.recordFault e o) :=
  ((((h.put_high₀ _).put_high₀ _).put_high₀ _).put_high₀ _).put_high₀ _

theorem Steady.noteDevice (h : Steady r s) (e : ErrAt) (o : Option Nat) : Steady r (s.noteDevice e o) := by
  unfold State.noteDevice
  dsimp only
  split
  · exact ((h.recordFault e o).setEvent (not_steadyKey_of_high (by decide)) 8).pldmEvent 0
  · exact ((((h.put_high₀ _).put_high₀ _).put_high₀ _).put_high₀ _).setEvent (not_steadyKey_of_high (by decide)) 9
  · exact h

theorem Steady.noteErr (h : Steady r s) (e : ErrAt) : Steady r (s.noteErr e) := by
  have hextra (t : State) (ht : Steady r t) (o : Option Nat) : Steady r (match o with
      | some j => t.incSat (Reg.JOB_HALT_INFO.EXTRA j) 1
      | none => t) := by
    split
    · exact ht.put (by simp only [steadyKey, Fld.key, Reg.JOB_HALT_INFO.EXTRA]; omega) _
    · exact ht
  have hcode (t : State) (ht : Steady r t) (o : Option Nat) : Steady r (match o with
      | some j => if errClass e.code = .external then t else t.put (Reg.JOB_STATUS.LAST_CODE j) e.code
      | none => t) := by
    split
    · exact ht.ite (ht.put (by simp only [steadyKey, Fld.key, Reg.JOB_STATUS.LAST_CODE]; omega) _)
    · exact ht
  have hcount : Steady r (s.countErr e.code) := h.inc_high₁ 1
  have htrace := Steady.ite (c := e.traced = true)
    (hcount.trace e.island e.code ((s.chargedTo e).or (s.attributedTo e)) e.payload) hcount
  have hctx := Steady.ite (c := (e.troupe = 0xFF || !e.ofOp) = true) htrace
    (htrace.put_high₂ e.code : Steady r (State.put _ (Reg.CTX_STATUS.CODE e.troupe e.ctxn) e.code))
  exact hcode _ ((hextra _ hctx _).noteDevice e _) _

theorem Steady.coreNote (h : Steady r s) (g c cx eng code pc payload : Nat) :
    Steady r (s.coreNote g c cx eng code pc payload) := h.noteErr _

end

end Sys2Proof.Machine
end

section
/-! What the reading and writing of elements, tiles and lane registers leaves steady (R173 to R181, R193 to R199, R226). -/

namespace Sys2Proof.Machine

/-- A computation whose result the next one takes, whatever it is. -/
theorem Yields.after {α β : Type} {x : Run α} {f : α → Run β} {p : β → Prop} (k : ∀ a, Yields (f a) p) :
    Yields (x >>= f) p := Yields.bind _ Yields.any (fun a _ => k a)

section
variable {r s t : State}

theorem Steady.setCore (h : Steady r s) (g cx : Nat) (x : CoreS) : Steady r (s.setCore g cx x) := h.upd rfl

/-! ## Spaces and elements -/

theorem Steady.spaceWrite (h : Steady r s) (x : At) (space base : Nat) (a : Int) (b : Byte) :
    Yields (s.spaceWrite x space base a b) (Steady r) := by
  unfold State.spaceWrite
  split
  · split
    · next t e =>
      split at e
      · exact Yields.ok (h.devWrite e)
      · cases e
    · exact Yields.err
  · exact Yields.ok (h.upd rfl)
  · exact Yields.ok (h.upd rfl)
  · exact Yields.ok (h.upd rfl)

theorem Steady.setSpaceNat (h : Steady r s) (x : At) (o : Opnd) (a : Int) (v n : Nat) :
    Yields (s.setSpaceNat x o a v n) (Steady r) := by
  induction n generalizing s a v with
  | zero => exact Yields.ok h
  | succ n ih => exact Yields.bind _ (h.spaceWrite _ _ _ _ _) (fun _ ht => ih ht _ _)

theorem Steady.writeCode (h : Steady r s) (x : At) (o : Opnd) (l : List Nat) (code : Nat) :
    Yields (s.writeCode x o l code) (Steady r) :=
  Yields.ite (h.setSpaceNat _ _ _ _ _) (Yields.after (fun _ => h.setSpaceNat _ _ _ _ _))

theorem Steady.spotCount (h : Steady r s) (j tag : Nat) (f : Fmt) (c : Conv) : Steady r (s.spotCount j tag f c) := by
  have hinc {t : State} (ht : Steady r t) (w : Nat) :
      Steady r (t.spotInc j (s.get (Reg.SCALE.CLASS j tag)) f.slot w) := ht.upd rfl
  have hovf := Steady.ite (c := c.ovf = true) (hinc (hinc h 0) 1) (hinc h 0)
  have hvan := Steady.ite (c := c.van = true) (hinc hovf 2) hovf
  unfold State.spotCount
  dsimp only
  split
  · exact hinc hvan _
  · exact hvan

theorem Steady.watchNF (h : Steady r s) (j tag : Nat) (bad : Bool) : Steady r (s.watchNF j tag bad) :=
  Steady.ite (h.put (by simp only [steadyKey, Fld.key, Reg.STEP_NF.LOCAL]; omega) 1) h

theorem Steady.convert (h : Steady r s) (wr : Writer) (f : Fmt) (idx : Int) (v : Num) :
    Steady r (s.convert wr f idx v).1 := by
  have hdraw := Steady.ite (c := wr.mode = .stoch ∧ wr.step = s.get (Reg.STEP_SEQ.SEQ wr.j))
    (h.inc_high₁ 1 : Steady r (s.inc (Reg.TB_DRAWS.COUNT wr.j) 1)) h
  exact ((hdraw.watchNF _ _ _).spotCount _ _ _ _).ite (hdraw.watchNF _ _ _)

theorem Steady.writeVal (h : Steady r s) (x : At) (o : Opnd) (wr : Writer) (l : List Nat) (v : Num) :
    Yields (s.writeVal x o wr l v) (Steady r) := (h.convert _ _ _ _).writeCode _ _ _ _

theorem Steady.writeBlockMasked (h : Steady r s) (x : At) (o : Opnd) (wr : Writer) (vs : List (List Nat × Num × Bool)) :
    Yields (s.writeBlockMasked x o wr vs) (Steady r) := by
  unfold State.writeBlockMasked
  refine Yields.bind _ (Yields.foldlM _ _ _ h (fun t v ht => (ht.convert _ _ _ _).writeCode _ _ _ _)) (fun t ht => ?_)
  cases vs with
  | nil => exact Yields.ret ht
  | cons v vs => exact ht.setSpaceNat _ _ _ _ _

theorem Steady.writeBlock (h : Steady r s) (x : At) (o : Opnd) (wr : Writer) (vs : List (List Nat × Num)) :
    Yields (s.writeBlock x o wr vs) (Steady r) := h.writeBlockMasked _ _ _ _

theorem Steady.writeTile (h : Steady r s) (x : At) (o : Opnd) (wr : Writer) (vs : List (List Nat × Num)) :
    Yields (s.writeTile x o wr vs) (Steady r) :=
  Yields.ite (Yields.foldlM _ _ _ h (fun _ _ ht => ht.writeBlock _ _ _ _))
    (Yields.foldlM _ _ _ h (fun _ _ ht => ht.writeVal _ _ _ _ _))

theorem Steady.writePads (h : Steady r s) (x : At) (o : Opnd) (wr : Writer) (ts : List (List Nat)) :
    Yields (s.writePads x o wr ts) (Steady r) := Yields.foldlM _ _ _ h (fun _ _ ht => ht.writeCode _ _ _ _)

/-! ## Accumulator tiles -/

theorem Steady.accSet (h : Steady r s) (g cx i a b : Nat) (v : BitVec 64) : Steady r (s.accSet g cx i a b v) := h.upd rfl

theorem Steady.setTileE (h : Steady r s) (g cx i : Nat) (e : Int) : Steady r (s.setTileE g cx i e) := h.put_high₃ _

theorem Steady.vanish (h : Steady r s) (g cx i n : Nat) : Steady r (s.vanish g cx i n) :=
  have htile : Steady r (s.put (Reg.ACC_TILE.VANISH g cx i) _) := h.put_high₃ _
  htile.inc_high₂ n

theorem Steady.accShift (h : Steady r s) (g cx i n : Nat) : Steady r (s.accShift g cx i n) := by
  refine h.foldl _ _ (fun t a ht => ?_)
  split
  · exact ht.ite (((ht.accSet _ _ _ _ _ _).vanish _ _ _ _).ite (ht.accSet _ _ _ _ _ _))
  · exact ht

theorem Steady.placeWindow (h : Steady r s) {nw : Bool} {hd g cx i : Nat} {p : Option Int}
    (ht : s.placeWindow nw hd g cx i p = some t) : Steady r t := by
  unfold State.placeWindow at ht
  dsimp only at ht
  split at ht
  · split at ht
    · cases ht
    · cases ht
      exact ((h.setTileE _ _ _ _).put_high₃ _).put_high₃ _
  · split at ht
    · split at ht
      · cases ht
      · cases ht
        exact Steady.put_high₃ ((((h.accShift _ _ _ _).setTileE _ _ _ _).inc_high₂ _).ite h) _
    · cases ht
      exact h
  · cases ht
    exact h

theorem Steady.accZero (h : Steady r s) (g cx i : Nat) : Steady r (s.accZero g cx i) := h.upd rfl

theorem Steady.tileClear (h : Steady r s) (g cx i : Nat) : Steady r (s.tileClear g cx i) :=
  (((((h.accZero g cx i).put_high₃ _).setTileE _ _ _ _).put_high₃ _).put_high₃ _).put_high₃ _

theorem Steady.tilePreload (h : Steady r s) (x : At) (o : Opnd) (b : Bool) (cx i : Nat) :
    Yields (s.tilePreload x o b cx i) (Steady r) := by
  have hwin (t : State) (ht : Steady r t) (m : Option Int) (e : Int) : Steady r (match m with
      | some _ => ((t.setTileE x.g cx i e).put (Reg.ACC_TILE.HSTEP x.g cx i) 8).put (Reg.ACC_TILE.PLACED x.g cx i) 1
      | none => ((t.setTileE x.g cx i 0).put (Reg.ACC_TILE.HSTEP x.g cx i) 8).put (Reg.ACC_TILE.PLACED x.g cx i) 0) := by
    split
    · exact ((ht.setTileE _ _ _ _).put_high₃ _).put_high₃ _
    · exact ((ht.setTileE _ _ _ _).put_high₃ _).put_high₃ _
  have hzero (t : State) (ht : Steady r t) : Steady r
      (((t.accZero x.g cx i).put (Reg.ACC_TILE.VANISH x.g cx i) 0).put (Reg.ACC_TILE.REPLAYS x.g cx i) 0) :=
    ((ht.accZero _ _ _).put_high₃ _).put_high₃ _
  unfold State.tilePreload
  refine Yields.after (fun vals => Yields.ret ?_)
  refine Steady.foldl (hwin _ (hzero _ (h.foldl _ _ (fun t a ht => ?_))) _ _) _ _
    (fun t a ht => ht.foldl _ _ (fun u b hu => ?_))
  · exact ht.inc_high₁ 1
  · exact ((hu.accSet _ _ _ _ _ _).vanish _ _ _ _).ite (hu.accSet _ _ _ _ _ _)

theorem Steady.tileDrain (h : Steady r s) (x : At) (o : Opnd) (wr : Writer) (cx i : Nat) :
    Yields (s.tileDrain x o wr cx i) (Steady r) :=
  Yields.bind _ (h.writeTile _ _ _ _) (fun _ ht => ht.writePads _ _ _ _)

/-! ## Lane registers -/

theorem Steady.setLane (h : Steady r s) (x : At) (v k n : Nat) : Steady r (s.setLane x v k n) := h.upd rfl

theorem Steady.setElems (h : Steady r s) (x : At) (b : Bool) (v : Nat) (es : List Num) : Steady r (s.setElems x b v es) :=
  Steady.ite (h.foldl _ _ (fun _ _ ht => ht.setLane _ _ _ _)) (h.foldl _ _ (fun _ _ ht => ht.setLane _ _ _ _))

theorem Steady.setLane0 (h : Steady r s) (x : At) (v n : Nat) : Steady r (s.setLane0 x v n) :=
  (h.setLane _ _ _ _).foldl _ _ (fun _ _ ht => ht.setLane _ _ _ _)

theorem Steady.setCarryReg (h : Steady r s) (x : At) (valid : Bool) (kind v : Nat) :
    Steady r (s.setCarryReg x valid kind v) :=
  Steady.ite (h.setCore _ _ _)
    (Steady.ite (((h.put_high₂ _).put_high₂ _).put_high₃ _) (((h.put_high₂ _).put_high₂ _).put_high₃ _))

end

end Sys2Proof.Machine
end

section
/-! What the iterations of the Juggler and the tile steps of the array leave steady (R162 to R181, R309 to R322, R443). -/

namespace Sys2Proof.Machine

section
variable {r s t : State}

/-! ## Moves (R309, R313, R322) -/

theorem Steady.countTraffic (h : Steady r s) (x : At) (space : Nat) (l : List Int) (w : Bool) :
    Steady r (s.countTraffic x space l w) := by
  refine h.ite (Steady.foldl (h.foldl _ _ (fun t a ht => ?_)) _ _ (fun t a ht => ht.upd rfl))
  split
  · exact ht.countMem _ _ _
  · exact ht

theorem Steady.moveBits (h : Steady r s) (x : At) (wr : Writer) (m : Mv) : Yields (s.moveBits x wr m) (Steady r) :=
  Yields.after (fun _ => (h.watchNF _ _ _).writeCode _ _ _ _)

theorem Steady.moveAtomic (h : Steady r s) (x : At) (wr : Writer) (m : Mv) : Yields (s.moveAtomic x wr m) (Steady r) := by
  unfold State.moveAtomic
  refine Yields.after (fun v => Yields.after (fun cur => Yields.ite ((h.convert _ _ _ _).writeCode _ _ _ _) ?_))
  exact (Steady.watchNF ((h.inc_high₁ _).ite h) _ _ _).writeCode _ _ _ _

theorem Steady.moveOne (h : Steady r s) (x : At) (wr : Writer) (raw : Bool) (m : Mv) :
    Yields (s.moveOne x wr raw m) (Steady r) :=
  Yields.ite (Yields.ite (h.moveAtomic x wr m) (Yields.ite (h.moveBits x wr m) (Yields.after (fun _ => h.writeVal _ _ _ _ _))))
    (Yields.ite (h.writeCode _ _ _ _) (Yields.ok h))

theorem Steady.moveBlock (h : Steady r s) (x : At) (wr : Writer) (ms : List Mv) :
    Yields (s.moveBlock x wr ms) (Steady r) := by
  unfold State.moveBlock
  cases ms.find? Mv.dv with
  | none => exact Yields.ok h
  | some m0 =>
    dsimp only
    split
    · exact Yields.after (fun _ => Yields.after (fun _ => Yields.bind _
        (Yields.foldlM _ _ _ h (fun _ _ ht => ht.writeCode _ _ _ _)) (fun _ ht => Yields.bind _
        (ht.setSpaceNat _ _ _ _ _) (fun _ hu => hu.writePads _ _ _ _))))
    · refine Yields.after (fun vs => ?_)
      split
      · split
        · exact Yields.bind _ (h.setSpaceNat _ _ _ _ _) (fun _ ht => ht.writePads _ _ _ _)
        · exact Yields.ret h
      · exact Yields.bind _ (h.writeBlock _ _ _ _) (fun _ ht => ht.writePads _ _ _ _)

theorem Steady.runMoves (h : Steady r s) (x : At) (wr : Writer) (raw : Bool) (tile : List (List Nat)) (ms : List Mv) :
    Yields (s.runMoves x wr raw tile ms) (Steady r) := by
  unfold State.runMoves
  cases ms with
  | nil => exact Yields.err
  | cons m ms =>
    refine Yields.ite Yields.err (Yields.ite
      (Yields.bind (Steady r) (Yields.foldlM _ _ _ (h.countTraffic _ _ _ _) (fun _ _ ht => ht.moveBlock _ _ _)) ?_)
      (Yields.bind (Steady r) (Yields.foldlM _ _ _ (h.countTraffic _ _ _ _) (fun _ _ ht => ht.moveOne _ _ _ _)) ?_))
    all_goals
      intro t ht
      exact Yields.ret (((((ht.countTraffic _ _ _ _).inc_high₂ _).inc_high₂ _).inc_high₂ _).inc_high₂ _)

theorem Steady.moves (h : Steady r s) (x : At) (wr : Writer) (raw : Bool) (tile : List (List Nat)) (ms : List Mv) :
    Yields (s.moves x wr raw tile ms) (Steady r) := Yields.ite (Yields.ok h) (h.runMoves _ _ _ _ _)

/-! ## The Juggler's iterations -/

theorem Steady.iterDmv (h : Steady r s) (x : At) (q : QEntry) (i : Nat) : Yields (s.iterDmv x q i) (Steady r) :=
  Yields.after (fun _ => Yields.after (fun _ => h.moves _ _ _ _ _))

theorem Steady.iterDtr (h : Steady r s) (x : At) (q : QEntry) (i : Nat) : Yields (s.iterDtr x q i) (Steady r) :=
  Yields.after (fun _ => Yields.after (fun _ => Yields.ite
    (Yields.after (fun _ => Yields.bind _ (h.moves _ _ _ _ _)
      (fun _ ht => Yields.foldlM _ _ _ ht (fun _ _ hu => hu.writeCode _ _ _ _))))
    (h.moves _ _ _ _ _)))

theorem Steady.countIndex (h : Steady r s) (x : At) (o : Opnd) (ns : List Nat) (n : Nat) :
    Steady r (s.countIndex x o ns n) := Steady.inc_high₂ (Steady.inc_high₂ (h.countTraffic _ _ _ _) _) _

theorem Steady.iterDgat (h : Steady r s) (x : At) (q : QEntry) (i : Nat) : Yields (s.iterDgat x q i) (Steady r) :=
  Yields.after (fun _ => Yields.after (fun _ => Yields.after (fun _ => Yields.after (fun _ =>
    (h.countIndex _ _ _ _).moves _ _ _ _ _))))

theorem Steady.iterDsct (h : Steady r s) (x : At) (q : QEntry) (i : Nat) : Yields (s.iterDsct x q i) (Steady r) := by
  unfold State.iterDsct
  refine Yields.after (fun _ => Yields.after (fun _ => Yields.after (fun _ => Yields.foldlM _ _ _ h (fun t n ht => ?_))))
  refine Yields.after (fun a => ?_)
  cases a with
  | none => exact Yields.ret ht
  | some a => exact Yields.ite (Yields.ret (ht.countIndex _ _ _ _)) ((ht.countIndex _ _ _ _).moves _ _ _ _ _)

theorem Steady.iterDfill (h : Steady r s) (x : At) (q : QEntry) (i : Nat) : Yields (s.iterDfill x q i) (Steady r) := by
  unfold State.iterDfill
  refine Yields.after (fun o => Yields.ite Yields.err (Yields.bind (Steady r) ?_ (fun t ht => ?_)))
  · exact Yields.foldlM _ _ _ (h.watchNF _ _ _) (fun _ _ ht => ht.writeCode _ _ _ _)
  · refine Yields.ite
      (Yields.bind (Steady r) (Yields.foldlM _ _ _ ht (fun _ _ hu => hu.setSpaceNat _ _ _ _ _)) ?_)
      (Yields.bind (Steady r) (Yields.ret ht) ?_)
    all_goals
      intro u hu
      exact Yields.bind _ (hu.writePads _ _ _ _) (fun _ hv =>
        Yields.ret (((hv.countTraffic _ _ _ _).inc_high₂ _).inc_high₂ _))

/-! ## Packets (R287, R351, R443) -/

theorem Steady.packetData (h : Steady r s) (x : At) (wr : Writer) (o0 o1 : Opnd) :
    Yields (s.packetData x wr o0 o1) (fun a => Steady r a.1) := by
  refine Yields.foldlM _ _ _ h (fun a l ha => Yields.ite ?_ ?_)
  · exact Yields.after (fun _ => Yields.ret (ha.watchNF _ _ _))
  · exact Yields.after (fun _ => Yields.ret (ha.convert _ _ _ _))

theorem Steady.cqClosed (h : Steady r s) (q n : Nat) : Steady r (s.cqClosed q n) := by
  unfold State.cqClosed
  split
  · exact h
  · exact Steady.ite ((h.cqFlushFrom q _).upd rfl) ((h.cqFlushFrom q _).upd rfl)

theorem Steady.cqOffer (h : Steady r s) (q tag : Nat) (l : List Byte) : Steady r (s.cqOffer q tag l).1 := by
  obtain ⟨-, hdrops, -⟩ := not_steadyKey_cqFlds q
  have htrunc : ¬ steadyKey (cqFlds q).trunc.key := by
    by_cases hq : q < 9
    · simp only [cqFlds, hq, if_true, steadyKey, Fld.key, Reg.TQ_STATUS.TRUNC_EVT]; omega
    · simp only [cqFlds, hq, if_false, steadyKey, Fld.key, Reg.JQ_STATUS.TRUNC_EVT]; omega
  unfold State.cqOffer
  split
  · exact h.put hdrops _
  · split
    · exact h
    · split
      · exact h.cqDropFull q
      · exact Steady.cqClosed (Steady.ite (((h.cqAppend q _).put hdrops _).put htrunc 1) (h.cqAppend q _)) q _

theorem Steady.iterPacket (h : Steady r s) (x : At) (q : QEntry) (i : Nat) :
    Yields (s.iterPacket x q i) (fun a => Steady r a.1) := by
  have hcount (t : State) (ht : Steady r t) (space : Nat) (l : List Int) (a b : Nat) : Steady r
      (((t.countTraffic x space l false).inc (Reg.DMA_RD_BYTES.N x.g (s.view x.g x.cx).cx) a).inc
        (Reg.DMA_WR_BYTES.N x.g (s.view x.g x.cx).cx) b) :=
    Steady.inc_high₂ (Steady.inc_high₂ (ht.countTraffic _ _ _ _) _) _
  unfold State.iterPacket
  refine Yields.after (fun o0 => Yields.after (fun o1 => ?_))
  dsimp only
  split
  · split
    · exact Yields.ret h
    · refine Yields.bind _ (h.packetData x _ o0 o1) (fun a ha => ?_)
      have hoffer := ha.cqOffer (jobQueue x.j (o1.d.base % 256)) o1.d.tag a.2
      split
      · exact Yields.err
      · exact Yields.ite (Yields.ret (hcount _ hoffer _ _ _ _)) Yields.err
      · exact Yields.ret (hcount _ hoffer _ _ _ _)
  · have hsent (t : State) (ht : Steady r t) (n : Nat) : Steady r { t with glOut := Tab.set 0 t.glOut x.j n } := ht.upd rfl
    have hout (t : State) (ht : Steady r t) (n : Nat) :
        Steady r (State.inc { t with glOut := Tab.set 0 t.glOut x.j n } Reg.GL_OUT.COUNT 1) := (hsent t ht n).inc_high₀ 1
    exact Yields.bind _ (h.packetData x _ o0 o1) (fun a ha => Yields.ret (hcount _ (hout _ (ha.sendOn _ _) _) _ _ _ _))

theorem Steady.iterDma (h : Steady r s) (x : At) (q : QEntry) (i : Nat) :
    Yields (s.iterDma x q i) (fun a => Steady r a.1) := by
  unfold State.iterDma
  refine Yields.ite (h.iterPacket x q i) ?_
  dsimp only
  split
  · exact Yields.bind _ (h.iterDmv x q i) (fun _ ht => Yields.ret ht)
  · exact Yields.bind _ (h.iterDtr x q i) (fun _ ht => Yields.ret ht)
  · exact Yields.bind _ (h.iterDgat x q i) (fun _ ht => Yields.ret ht)
  · exact Yields.bind _ (h.iterDsct x q i) (fun _ ht => Yields.ret ht)
  · exact Yields.bind _ (h.iterDfill x q i) (fun _ ht => Yields.ret ht)

/-! ## Tile steps (R170 to R174) -/

theorem Steady.addRow (h : Steady r s) {p : Step} {g cx i n : Nat} (ht : s.addRow p g cx i n = .ok t) : Steady r t := by
  unfold State.addRow at ht
  dsimp only at ht
  split at ht
  · cases ht
  · cases ht
    refine h.foldl _ _ (fun t a ht => ?_)
    have hset (v : BitVec 64) : Steady r (t.accSet g cx i n a.1 v) := ht.accSet _ _ _ _ _ _
    have hlost := Steady.ite (c := a.2.1.lost = 0) (hset a.2.2.code) ((hset a.2.2.code).vanish g cx i a.2.1.lost)
    exact hlost.ite (hlost.inc_high₂ _)

theorem Steady.maxRow (h : Steady r s) {p : Step} {mn nanp : Bool} {g cx i i1 n b : Nat}
    (ht : s.maxRow p mn nanp g cx i i1 n b = .ok t) : Steady r t := by
  unfold State.maxRow at ht
  dsimp only at ht
  split at ht
  · cases ht
  · cases ht
    refine h.foldl _ _ (fun t a ht => ?_)
    have hspecial := ht.ite (c := a.2.special = 0)
      (ht.inc_high₂ a.2.special : Steady r (t.inc (Reg.ACC_SPECIAL.N g cx) a.2.special))
    have hset := (hspecial.accSet g cx i n a.1 a.2.val.code).accSet g cx i1 n a.1 (BitVec.ofInt 64 a.2.idx)
    exact ((hset.vanish _ _ _ _).ite hset).ite hspecial

theorem Steady.rowTry (h : Steady r s) {x : At} {q : QEntry} {st : TileStep} {n : Nat}
    (ht : s.rowTry x q st n = .ok t) : Steady r t := by
  unfold State.rowTry at ht
  dsimp only at ht
  split at ht
  · exact h.maxRow ht
  · exact h.addRow ht

theorem Steady.rowsFrom (h : Steady r s) (x : At) (q : QEntry) (st : TileStep) (n i : Nat) :
    Steady r (s.rowsFrom x q st n i).1 := by
  induction n generalizing s i with
  | zero => exact h
  | succ n ih =>
    unfold State.rowsFrom
    split
    · next t ht => exact ih (h.rowTry ht) _
    · exact h

theorem Steady.placeStep (h : Steady r s) {x : At} {q : QEntry} {st : TileStep} (ht : s.placeStep x q st = some t) :
    Steady r t := by
  unfold State.placeStep at ht
  dsimp only at ht
  split at ht
  · cases ht
    exact h
  · exact Steady.placeWindow (h.put_high₃ _) ht

theorem Steady.writeStep (h : Steady r s) (x : At) (q : QEntry) (st : TileStep) : Steady r (s.writeStep x q st).1 := by
  unfold State.writeStep
  split
  · exact h
  · next t ht =>
    have hrows := (h.placeStep ht).rowsFrom x q st (st.p.m - st.row) st.row
    dsimp only
    split
    · split
      · exact hrows
      · exact hrows
    · exact hrows

theorem Steady.replayShift (h : Steady r s) (x : At) (st : TileStep) (b : Bool) : Steady r (s.replayShift x st b) := by
  have hcount {t : State} (ht : Steady r t) (cx n m k : Nat) : Steady r ((((t.inc (Reg.ACC_TILE.REPLAYS x.g cx n) 1).inc
      (Reg.ACC_REPLAYS.N x.g cx) 1).inc (Reg.ACC_REPLAY_CLK.N x.g cx) m).inc (Reg.ARR_ROWS.N x.g cx) k) :=
    (((ht.inc_high₃ _).inc_high₂ _).inc_high₂ _).inc_high₂ _
  unfold State.replayShift
  exact ((Steady.ite ((hcount h _ _ _ _).inc_high₂ _) (hcount h _ _ _ _)).accShift _ _ _ _).setTileE _ _ _ _

theorem Steady.finishStep (h : Steady r s) (x : At) (q : QEntry) (n : Nat) (st : TileStep) :
    Steady r (s.finishStep x q n st) := by
  induction n generalizing s st with
  | zero => exact h
  | succ n ih =>
    have hwrite : Steady r (if st.spilled then s.replayStep x q st false else s.writeStep x q st).1 := by
      split
      · exact (h.replayShift x st false).writeStep x q _
      · exact h.writeStep x q st
    unfold State.finishStep
    dsimp only
    split
    · exact ih hwrite _
    · exact hwrite

/-! ## Preload, clear, drain (R176, R177, R181) -/

theorem Steady.iterAccp (h : Steady r s) (x : At) (q : QEntry) (i : Nat) : Yields (s.iterAccp x q i) (Steady r) :=
  Yields.after (fun _ => h.tilePreload _ _ _ _ _)

theorem Steady.iterAccd (h : Steady r s) (x : At) (q : QEntry) (i : Nat) : Yields (s.iterAccd x q i) (Steady r) :=
  Yields.after (fun _ => Yields.ite Yields.err (Yields.bind _ (h.tileDrain _ _ _ _ _)
    (fun _ ht => Yields.ret ((ht.tileClear _ _ _).ite ht))))

end

end Sys2Proof.Machine
end

section
/-! What the iterations of the Stream, update and Lane operations, and with them all that an engine runs when its context
stops, leave steady (R73, R213 to R235, R259 to R269, R358 to R363). -/

namespace Sys2Proof.Machine

section
variable {r s t : State}

/-! ## Stream operations (R194, R213 to R221) -/

theorem Steady.readIn (h : Steady r s) (x : At) (o : Opnd) (l : List Nat) :
    Yields (s.readIn x o l) (fun a => Steady r a.1) :=
  Yields.after (fun _ => Yields.ret ((h.inc_high₁ 1).ite h))

/-- Values read one after another, each with the state that counts the reads so far. -/
theorem Steady.readAll {α : Type} (h : Steady r s) (x : At) (o : α → Opnd) (c : α → List Nat) (l : List α) :
    Yields (l.foldlM (fun (b : State × List Num) a => do
      let v ← b.1.readIn x (o a) (c a)
      return (v.1, b.2 ++ [v.2])) (s, [])) (fun b => Steady r b.1) :=
  Yields.foldlM _ _ _ h (fun _ _ hb => Yields.bind _ (hb.readIn x _ _) (fun _ hv => Yields.ret hv))

theorem Steady.sxCompute (h : Steady r s) (x : At) (q : QEntry) (ins : List Opnd) (o : Opnd) (ts : List (List Nat)) :
    Yields (s.sxCompute x q ins o ts) (fun a => Steady r a.1) :=
  Yields.foldlM _ _ _ h (fun _ l ha => Yields.bind _ (ha.readAll x id (·.at o l) ins) (fun _ hb => Yields.ret hb))

theorem Steady.sxWrite (h : Steady r s) (x : At) (wr : Writer) (o o3 : Opnd) (res : List (List Nat × Num))
    (lo hi total : Nat) : Yields (s.sxWrite x wr o o3 res lo hi total) (Steady r) :=
  Yields.ite (Yields.foldlM _ _ _ h (fun _ _ ht => ht.writeBlock _ _ _ _))
    (Yields.foldlM _ _ _ h (fun _ _ ht => ht.writeVal _ _ _ _ _))

theorem Steady.sxRun (h : Steady r s) (x : At) (q : QEntry) (ins outs : List Opnd) (wrs : List Writer) (o : Opnd)
    (ts : List (List Nat)) (w n lo : Nat) (done : List (List Nat × Num)) :
    Yields (s.sxRun x q ins outs wrs o ts w n lo done) (Steady r) := by
  induction n generalizing s lo done with
  | zero => exact Yields.ok h
  | succ n ih =>
    exact Yields.bind _ (h.sxCompute x q ins o _) (fun _ ha => Yields.bind _
      (Yields.foldlM _ _ _ ha (fun _ _ ht => ht.sxWrite _ _ _ _ _ _ _ _)) (fun _ hu => ih hu _ _))

theorem Steady.iterSx (h : Steady r s) (x : At) (q : QEntry) (i : Nat) : Yields (s.iterSx x q i) (Steady r) :=
  Yields.after (fun _ => Yields.after (fun _ => Yields.after (fun _ => Yields.ite Yields.err
    (Yields.bind _ (h.sxRun _ _ _ _ _ _ _ _ _ _ _)
      (fun _ ht => Yields.foldlM _ _ _ ht (fun _ _ hu => hu.writePads _ _ _ _))))))

/-! ## Update programs (R358 to R363) -/

theorem Steady.updRead (h : Steady r s) (x : At) (ins : List (Nat × Opnd)) (ref : Opnd) (ts : List (List Nat)) :
    Yields (s.updRead x ins ref ts) (fun a => Steady r a.1) := by
  refine Yields.foldlM _ _ _ h (fun a p ha => ?_)
  refine Yields.bind _ (ha.readAll x (fun _ => p.2) (p.2.at ref) ts) (fun b hb => ?_)
  cases ts with
  | nil => exact Yields.ret hb
  | cons l ts => exact Yields.ite (Yields.after (fun _ => Yields.ret hb)) (Yields.ret hb)

theorem Steady.noteNonFinite (h : Steady r s) (x : At) (q : QEntry) : Steady r (s.noteNonFinite x q) := by
  have hseen (u : JobS) : Steady r (s.setJobS x.j u) := h.upd rfl
  exact h.ite (((hseen _).put (by simp only [steadyKey, Fld.key, Reg.STEP_NF.NF_EVT]; omega) 1).coreNote _ _ _ _ _ _ _)

theorem Steady.updBlock (h : Steady r s) (x : At) (q : QEntry) (n : Nat) (ins outs : List (Nat × Opnd)) (ref : Opnd)
    (ts : List (List Nat)) : Yields (s.updBlock x q n ins outs ref ts) (Steady r) := by
  have hcount {t : State} (ht : Steady r t) (a b : Nat) :
      Steady r ((t.inc (Reg.UPD_ELEMS.N x.j) a).inc (Reg.UPD_NONFINITE.N x.j) b) :=
    (ht.put (by simp only [steadyKey, Fld.key, Reg.UPD_ELEMS.N]; omega) _).put
      (by simp only [steadyKey, Fld.key, Reg.UPD_NONFINITE.N]; omega) _
  unfold State.updBlock
  refine Yields.bind _ (h.updRead x ins ref ts) (fun a ha => Yields.foldlM _ _ _ ?_ (fun t p ht => ?_))
  · exact (hcount ha _ _).ite ((hcount ha _ _).noteNonFinite x q)
  · exact Yields.ite (ht.writeBlockMasked _ _ _ _) (Yields.foldlM _ _ _ ht (fun _ _ hu => hu.writeVal _ _ _ _ _))

theorem Steady.iterUpd (h : Steady r s) (x : At) (q : QEntry) (i : Nat) : Yields (s.iterUpd x q i) (Steady r) := by
  unfold State.iterUpd
  refine Yields.after (fun os => ?_)
  cases os with
  | nil => exact Yields.ret h
  | cons o os =>
    exact Yields.ite Yields.err (Yields.bind _ (Yields.foldlM _ _ _ (h.upd rfl) (fun _ _ ht => ht.updBlock _ _ _ _ _ _ _))
      (fun _ ht => Yields.foldlM _ _ _ ht (fun _ _ hu => hu.writePads _ _ _ _)))

/-! ## Lane operations (R119, R226 to R235, R259 to R269) -/

theorem Steady.iterLd (h : Steady r s) (x : At) (q : QEntry) (i : Nat) : Yields (s.iterLd x q i) (Steady r) := by
  unfold State.iterLd
  refine Yields.after (fun o => Yields.bind (fun a => Steady r a.1) ?_ (fun _ ha => Yields.ret (ha.setElems _ _ _ _)))
  refine Yields.foldlM _ _ _ h (fun a l ha => Yields.ite ?_ ?_)
  · exact Yields.after (fun _ => Yields.ret ((ha.inc_high₁ 1).ite ha))
  · exact Yields.bind _ (ha.readIn x o l) (fun _ hv => Yields.ret hv)

theorem Steady.iterSt (h : Steady r s) (x : At) (q : QEntry) (i : Nat) : Yields (s.iterSt x q i) (Steady r) :=
  Yields.after (fun _ => Yields.ite Yields.err (h.writeTile _ _ _ _))

theorem Steady.lanePerm (h : Steady r s) (x : At) (q : QEntry) : Steady r (s.lanePerm x q) := by
  have hrange : ¬ steadyKey (if x.c = 0 then Reg.LANE_STATUS.PERM_RANGE0 x.g (s.view x.g x.cx).cx
      else Reg.LANE_STATUS.PERM_RANGE1 x.g (s.view x.g x.cx).cx).key := by
    refine not_steadyKey_of_high ?_
    split <;> simp only [Reg.LANE_STATUS.PERM_RANGE0, Reg.LANE_STATUS.PERM_RANGE1] <;> omega
  have hperm : Steady r (s.inc (Reg.PERM_LANES.N x.g (s.view x.g x.cx).cx) (s.permBad x q).length) := h.inc_high₂ _
  have hnote := h.ite (c := (s.permBad x q).isEmpty = true) (hperm.put hrange 1)
  exact hnote.ite (hnote.foldl _ _ (fun _ _ ht => ht.setLane _ _ _ _))

theorem Steady.laneScanLocal (h : Steady r s) (x : At) (q : QEntry) : Steady r (s.laneScanLocal x q) :=
  (h.setElems _ _ _ _).setCarryReg _ _ _ _

theorem Steady.laneStat (h : Steady r s) (x : At) (q : QEntry) : Steady r (s.laneStat x q) := by
  refine Steady.ite (Steady.foldl ((h.inc_high₂ _).inc_high₂ _) _ _ (fun t a ht => ?_)) ?_
  · exact ht.foldl _ _ (fun _ _ hu => hu.setLane _ _ _ _)
  · exact Steady.foldl (h.inc_high₂ _) _ _ (fun _ _ ht => ht.setLane0 _ _ _)

theorem Steady.rowEmpty (h : Steady r s) (x : At) (q : QEntry) : Steady r (s.rowEmpty x q) :=
  (h.inc_high₂ 1).coreNote _ _ _ _ _ _ _

theorem Steady.laneSoftmax (h : Steady r s) (x : At) (q : QEntry) : Steady r (s.laneSoftmax x q) := by
  have hrow {t : State} (ht : Steady r t) (c : Bool) : Steady r (if c then t.rowEmpty x q else t) :=
    (ht.rowEmpty x q).ite ht
  unfold State.laneSoftmax
  dsimp only
  split
  · have hrows : Steady r (s.coreInc x Reg.SFM_ROWS.N 1) := h.inc_high₂ 1
    split
    · exact (hrow hrows _).setElems _ _ _ _
    · exact Steady.setElems (Steady.inc_high₂ (hrow hrows _) 1) _ _ _ _
  · have hset (w : RowState) : Steady r (s.setRow x w) := h.upd rfl
    have hrows (w : RowState) (c : Bool) : Steady r (if c then (s.setRow x w).coreInc x Reg.SFM_ROWS.N 1 else s.setRow x w) :=
      Steady.ite ((hset w).inc_high₂ 1) (hset w)
    split
    · exact (hrow (hrows _ _) _).setElems _ _ _ _
    · exact (Steady.ite (Steady.inc_high₂ (hrow (hrows _ _) _) 1) (hrow (hrows _ _) _)).setElems _ _ _ _
  · exact h.upd rfl
  · exact h.upd rfl

theorem Steady.laneVl (h : Steady r s) (x : At) (q : QEntry) : Steady r (s.laneVl x q) := by
  refine h.put (not_steadyKey_of_high ?_) _
  split <;> simp only [Reg.LANE_STATUS.VL0, Reg.LANE_STATUS.VL1] <;> omega

theorem Steady.iterLane (h : Steady r s) (x : At) (q : QEntry) (i : Nat) : Yields (s.iterLane x q i) (Steady r) := by
  have hops : Steady r (s.coreInc x Reg.LN_OPS.N 1) := h.inc_high₂ 1
  unfold State.iterLane
  dsimp only
  split
  · exact Yields.ok (hops.laneVl x q)
  · exact hops.iterLd x q i
  · exact hops.iterSt x q i
  · exact Yields.ok (hops.setLane0 _ _ _)
  · exact Yields.ok (hops.lanePerm x q)
  · exact Yields.ok (hops.laneScanLocal x q)
  · exact Yields.ok (hops.laneStat x q)
  · exact Yields.ok (hops.laneSoftmax x q)
  · exact Yields.ok (hops.setElems _ _ _ _)
  · exact Yields.ok hops
  · exact Yields.ok (hops.setElems _ _ _ _)

/-! ## What an engine runs -/

theorem Steady.ranOr (h : Steady r s) {u : Run State} (hu : Yields u (Steady r)) : Steady r (ranOr s u).1 := by
  cases u with
  | ok t => exact hu.get t rfl
  | error e => exact h

theorem Steady.runIter (h : Steady r s) (x : At) (q : QEntry) (i : Nat) : Steady r (s.runIter x q i).1 := by
  unfold State.runIter
  split
  · exact h.inc_high₂ 1
  · split
    · split
      · exact h.ranOr (h.iterAccp x q i)
      · exact h
    · split
      · exact h.ranOr (Yields.ok (h.tileClear _ _ _))
      · exact h
    · split
      · exact h.ranOr (h.iterAccd x q i)
      · exact h
    · split
      · exact h
      · exact h.ranOr (h.iterUpd x q i)
    · split
      · have hdma := h.iterDma x q i
        split
        · next t e => exact hdma.get _ e
        · next t e => exact hdma.get _ e
        · exact h
      · split
        · exact h.ranOr (h.iterSx x q i)
        · exact h.ranOr (h.iterLane x q i)

theorem Steady.setEntry (h : Steady r s) (g c e : Nat) (q : QEntry) : Steady r (s.setEntry g c e q) := h.upd rfl

theorem Steady.runNext (h : Steady r s) (g c e cx : Nat) (q : QEntry) : Steady r (s.runNext g c e cx q).1 := by
  have hiter := h.runIter (s.at g c cx) q (Tab.get 0 q.prog (32 + cx))
  unfold State.runNext
  dsimp only
  split
  · split
    · exact hiter
    · exact Steady.setEntry ((hiter.coreNote _ _ _ _ _ _ _).ite hiter) _ _ _ _
  · exact hiter

theorem Steady.runSome (h : Steady r s) (g c e cx n : Nat) : Steady r (s.runSome g c e cx n) := by
  induction n generalizing s with
  | zero => exact h
  | succ n ih =>
    unfold State.runSome
    cases s.runEntry g c e cx with
    | none => exact h
    | some q =>
      dsimp only
      split
      · exact ih (h.runNext g c e cx q)
      · exact h

/-- What the end of a context's executing operations leaves steady, whatever time the stop left them (R73, R153). -/
theorem Steady.endExec (h : Steady r s) (g c : Nat) : Steady r (s.endExec g c) := by
  have hfree : Steady r s.bumpFree := h.upd rfl
  refine hfree.foldl _ _ (fun t cx ht => ?_)
  refine Steady.foldl (ht.ite (ht.foldl _ _ (fun u st hu => ?_))) _ _ (fun u e hu => hu.ite (hu.runSome _ _ _ _ _))
  split
  · exact hu.finishStep _ _ _ _
  · exact hu

end

end Sys2Proof.Machine
end

section
/-! What the stop of a context, the stop of a job and the beginning of operations leave steady (R73, R74, R115, R404, R406). -/

namespace Sys2Proof

/-- A filter by key leaves what stands at a key that it lets through. -/
theorem Tab.get_filter_of_key {α : Type} (d : α) (t : Tab α) (p : Nat → Bool) {k : Nat} (hk : p k = true) :
    Tab.get d (t.filter (fun e => p e.1)) k = Tab.get d t k := by
  induction t with
  | nil => rfl
  | cons e t ih =>
    obtain ⟨a, b⟩ := e
    by_cases ha : k = a
    · subst ha
      simp [Tab.get, hk]
    · by_cases hp : p a = true
      · simpa [Tab.get, hp, ha] using ih
      · simpa [Tab.get, hp, ha] using ih

end Sys2Proof

namespace Sys2Proof.Machine

section
variable {r s t : State}

/-! ## The beginning of operations (R51, R52, R115) -/

theorem Steady.doSplit (h : Steady r s) (g : Nat) (on : Bool) : Steady r (s.doSplit g on) := by
  refine Steady.foldl ((((h.put_high₂ _).put_high₂ _).put_high₁ _).put_high₁ _) _ _ (fun t cx ht => ?_)
  have hsplit (k : CoreS) : Steady r ((t.setCore g cx k).put (Reg.ARR_STATUS.SPLIT g cx) (ofBool on)) :=
    (ht.setCore _ _ _).put_high₂ _
  exact Steady.ite (hsplit _) ((((Steady.put_high₂ (hsplit _) _).put_high₂ _).put_high₂ _).put_high₂ _)

theorem Steady.beginIn (h : Steady r s) (g c e : Nat) (q : QEntry) (cx : Nat) : Steady r (s.beginIn g c e q cx) := by
  have hentry (p : QEntry) : Steady r (s.setEntry g c e p) := h.setEntry g c e p
  exact Steady.ite (h.upd rfl) (Steady.ite (Steady.ite ((hentry _).inc_high₂ 1) (hentry _))
    (Steady.ite ((hentry _).inc_high₂ _) (hentry _)))

theorem Steady.beginSplit (h : Steady r s) (g c : Nat) (q : QEntry) : Steady r (s.beginSplit g c q) :=
  Steady.ite (Steady.ite (h.setEntry _ _ _ _) ((h.setEntry _ _ _ _).doSplit _ _)) h

theorem Steady.tryBegin (h : Steady r s) (g c e seq cx : Nat) : Steady r (s.tryBegin g c e seq cx) := by
  unfold State.tryBegin
  split
  · exact (h.beginIn _ _ _ _ _).ite h
  · exact h

theorem Steady.pumpEntry (h : Steady r s) (g c e : Nat) (q : QEntry) : Steady r (s.pumpEntry g c e q) := by
  have hentry (p : QEntry) : Steady r (s.setEntry g c e p) := h.setEntry g c e p
  exact h.ite (Steady.ite (hentry _) (Steady.ite (Steady.ite ((hentry _).beginSplit _ _ _) (hentry _))
    ((hentry _).foldl _ _ (fun _ _ ht => ht.tryBegin _ _ _ _ _))))

theorem Steady.pumpQueue (h : Steady r s) (g c e : Nat) : Steady r (s.pumpQueue g c e) := by
  refine h.foldl _ _ (fun t seq ht => ?_)
  split
  · exact ht.pumpEntry _ _ _ _
  · exact ht

theorem Steady.pumpJob (h : Steady r s) (j : Nat) : Steady r (s.pumpJob j) :=
  h.foldl _ _ (fun _ _ ht => ht.foldl _ _ (fun _ _ hu => hu.foldl _ _ (fun _ _ hv => hv.pumpQueue _ _ _)))

/-! ## The stop of a context (R73) -/

/-- The key is that of `ACC_TILE.INFLIGHT` of a tile of a mask in a core of a troupe. -/
def inflightKey (g m k : Nat) : Bool :=
  let off := k / 64 - 0x1100000
  0x1100000 * 64 ≤ k && k % 64 = 24 && off / 0x200000 = g && off % 0x200000 < 0x100000 &&
    off % 0x10000 / 0x100 = 4 && bit m (off % 0x100 / 8)

theorem State.clearInflight_eq (s : State) (g c : Nat) : s.clearInflight g c =
    (List.range 16).foldl (fun (t : State) cx => t.setCore g cx { t.core g cx with
      steps := Tab.set [] (Tab.set [] (t.core g cx).steps c []) (c + 2) [] })
      { s with regs := s.regs.filter (fun e => !inflightKey g (s.accMask g c) e.1) } := rfl

theorem not_inflightKey_of_steadyKey (g m : Nat) {k : Nat} (hk : steadyKey k) : inflightKey g m k = false := by
  have hlow : ¬ 0x1100000 * 64 ≤ k := by
    simp only [steadyKey] at hk
    omega
  simp [inflightKey, hlow]

theorem Steady.filterRegs (h : Steady r s) (p : Nat → Bool) (hp : ∀ k, steadyKey k → p k = true) :
    Steady r { s with regs := s.regs.filter (fun e => p e.1) } :=
  ⟨h.aon, h.hbmSelf, fun f hf => (Tab.get_filter_of_key f.rst s.regs p (hp _ hf)).trans (h.get f hf)⟩

theorem Steady.clearInflight (h : Steady r s) (g c : Nat) : Steady r (s.clearInflight g c) := by
  rw [State.clearInflight_eq]
  refine Steady.foldl (h.filterRegs (fun k => !inflightKey g (s.accMask g c) k) (fun k hk => ?_)) _ _
    (fun _ _ ht => ht.setCore _ _ _)
  rw [not_inflightKey_of_steadyKey g _ hk, Bool.not_false]

theorem Steady.dropQueues (h : Steady r s) (g c : Nat) : Steady r (s.dropQueues g c) := by
  refine Steady.clearInflight (h.foldl _ _ (fun t e ht => ?_)) g c
  have hqueue : Steady r (t.setQueue g c e []) := ht.upd rfl
  refine hqueue.put (not_steadyKey_of_high ?_) 0
  unfold qdepthFld
  split <;> simp only [Reg.QDEPTH.ARRAY, Reg.QDEPTH.STREAM, Reg.QDEPTH.LANE, Reg.QDEPTH.DMA] <;> omega

theorem Steady.unblock (h : Steady r s) (g c : Nat) : Steady r (s.unblock g c) := by
  have hctx (x : CtxS) : Steady r (s.setCtx g c x) := h.upd rfl
  exact (((hctx _).put_high₂ _).put_high₂ _).put_high₂ _

theorem Steady.haltCtx (h : Steady r s) (g c : Nat) : Steady r (s.haltCtx g c) :=
  ((h.unblock g c).endExec g c).dropQueues g c

theorem Steady.stopCtx (h : Steady r s) (g c : Nat) : Steady r (s.stopCtx g c) :=
  h.ite ((h.haltCtx g c).put_high₂ _)

theorem Steady.quiesceCtxs (h : Steady r s) (j : Nat) : Steady r (s.quiesceCtxs j) :=
  h.foldl _ _ (fun _ _ ht => (ht.haltCtx _ _).put_high₂ _)

theorem Steady.dropColl (h : Steady r s) (j : Nat) : Steady r (s.dropColl j) :=
  h.foldl _ _ (fun _ _ ht => Steady.ite (ht.upd rfl) ht)

/-! ## The stop of a job (R73, R404, R406) -/

theorem Steady.addJobFlag (h : Steady r s) (j : Nat) {i : Nat} (hi : i < 256) (n src isl : Nat) :
    Steady r (s.addJobFlag j i n src isl) := by
  have hflag (v : Nat) : Steady r (s.put (Reg.JOB_FLAG.COUNT j i) v) :=
    h.put (by simp only [steadyKey, Fld.key, Reg.JOB_FLAG.COUNT]; omega) v
  have hevt : ¬ steadyKey (Reg.JOB_STATUS.FLAG_SAT_EVT j).key := by
    simp only [steadyKey, Fld.key, Reg.JOB_STATUS.FLAG_SAT_EVT]; omega
  exact Steady.ite (hflag _) (((hflag _).put hevt 1).trace _ _ _ _)

theorem Steady.ringDone (h : Steady r s) (q i code res : Nat) : Steady r (s.ringDone q i code res) := Steady.ite (h.upd rfl) h

theorem Steady.abandonCurtain (h : Steady r s) (j : Nat) : Steady r (s.abandonCurtain j) := by
  have hheld (t : State) (a : Nat × Nat × Nat) (ht : Steady r t) : Steady r (t.applyHeld j a) :=
    Steady.ite (ht.addJobFlag j (Nat.mod_lt _ (by decide)) _ _ _)
      ((ht.addJobFlag j (Nat.mod_lt _ (by decide)) _ _ _).ringDone _ _ _ _)
  have hphase : ¬ steadyKey (Reg.SN_JOB_STATUS.PHASE j).key := by
    simp only [steadyKey, Fld.key, Reg.SN_JOB_STATUS.PHASE]; omega
  have hevt : ¬ steadyKey (Reg.SN_JOB_STATUS.ABANDON_EVT j).key := by
    simp only [steadyKey, Fld.key, Reg.SN_JOB_STATUS.ABANDON_EVT]; omega
  have hcount : ¬ steadyKey (Reg.SN_ABANDONS.N j).key := by
    simp only [steadyKey, Fld.key, Reg.SN_ABANDONS.N]; omega
  have hadds := h.foldl (fun (t : State) a => t.applyHeld j a) (s.snOf j).heldAdds hheld
  exact Steady.ite (Steady.put (((hadds.upd (by rfl)).put hphase 0).put hevt 1) hcount _) h

/-- The state of a job that begins to stop: its halt record written, HALTING, its beat session ended (R73 step 1). -/
def State.markHalting (s : State) (j : Nat) (e : ErrAt) : State :=
  ((s.haltRecord j e).put (Reg.JOB_STATUS.STATE j) 4).put (Reg.CAL_STATUS.ACTIVE j) 0

/-- What a job's stop does after it has marked the job leaves the steady registers. -/
theorem State.stopJob_steady (s : State) (j : Nat) (e : ErrAt) :
    Steady (((s.abandonCurtain j).dropColl j).markHalting j e) (s.stopJob j e) := by
  have hctxs := (Steady.refl (((s.abandonCurtain j).dropColl j).markHalting j e)).foldl (fun t p => t.stopCtx p.1 p.2)
    ((((s.abandonCurtain j).dropColl j).markHalting j e).jobCtxs j) (fun _ _ ht => ht.stopCtx _ _)
  have hevt : ¬ steadyKey (Reg.JOB_STATUS.HALT_EVT j).key := by
    simp only [steadyKey, Fld.key, Reg.JOB_STATUS.HALT_EVT]; omega
  exact ((hctxs.setSn j _).setEvent hevt j).pumpJob j

theorem State.get_markHalting_state (s : State) (j : Nat) (e : ErrAt) :
    (s.markHalting j e).get (Reg.JOB_STATUS.STATE j) = 4 := by
  unfold State.markHalting
  rw [State.get_put_ne _ _ _ _ (by simp only [Fld.key, Reg.JOB_STATUS.STATE, Reg.CAL_STATUS.ACTIVE]; omega),
    State.get_put_same]
  rfl

theorem State.get_markHalting_code (s : State) (j : Nat) (e : ErrAt) :
    (s.markHalting j e).get (Reg.JOB_HALT_INFO.CODE j) = e.code % 2 ^ 8 := by
  unfold State.markHalting State.haltRecord
  simp (disch := (simp only [Fld.key, Reg.JOB_STATUS.STATE, Reg.CAL_STATUS.ACTIVE, Reg.JOB_HALT_INFO.CODE,
    Reg.JOB_HALT_PC.ADDR, Reg.JOB_HALT_STAMP.STAMP]; omega)) only [State.get_put_ne, State.get_put_same]
  rfl

theorem State.get_markHalting_unit (s : State) (j : Nat) (e : ErrAt) :
    (s.markHalting j e).get (Reg.JOB_HALT_INFO.UNIT j) = e.unit % 2 ^ 4 := by
  unfold State.markHalting State.haltRecord
  simp (disch := (simp only [Fld.key, Reg.JOB_STATUS.STATE, Reg.CAL_STATUS.ACTIVE, Reg.JOB_HALT_INFO.CODE,
    Reg.JOB_HALT_INFO.UNIT, Reg.JOB_HALT_INFO.CORE, Reg.JOB_HALT_INFO.CTX, Reg.JOB_HALT_INFO.TROUPE,
    Reg.JOB_HALT_PC.ADDR, Reg.JOB_HALT_STAMP.STAMP]; omega)) only [State.get_put_ne, State.get_put_same]
  rfl

/-- Another job's state stays when a job is marked. -/
theorem State.jobState_markHalting (s : State) {i j : Nat} (e : ErrAt) (hij : i ≠ j) :
    (s.markHalting j e).jobState i = s.jobState i := by
  unfold State.markHalting State.haltRecord State.jobState
  simp (disch := (simp only [Fld.key, Reg.JOB_STATUS.STATE, Reg.CAL_STATUS.ACTIVE, Reg.JOB_HALT_INFO.CODE,
    Reg.JOB_HALT_INFO.UNIT, Reg.JOB_HALT_INFO.CORE, Reg.JOB_HALT_INFO.CTX, Reg.JOB_HALT_INFO.TROUPE,
    Reg.JOB_HALT_INFO.EXTRA, Reg.JOB_HALT_INFO.WAITS, Reg.JOB_HALT_PC.ADDR, Reg.JOB_HALT_STAMP.STAMP]; omega)) only
    [State.get_put_ne]

theorem State.stopJob_jobState (s : State) {j : Nat} (e : ErrAt) (hj : j < 8) : (s.stopJob j e).jobState j = 4 :=
  ((s.stopJob_steady j e).jobState hj).trans (State.get_markHalting_state _ j e)

theorem State.stopJob_jobState_other (s : State) {i j : Nat} (e : ErrAt) (hi : i < 8) (hij : i ≠ j) :
    (s.stopJob j e).jobState i = s.jobState i := by
  rw [(s.stopJob_steady j e).jobState hi, State.jobState_markHalting _ e hij]
  exact (((Steady.refl s).abandonCurtain j).dropColl j).jobState hi

theorem State.stopJob_haltCode (s : State) {j : Nat} (e : ErrAt) (hj : j < 8) :
    (s.stopJob j e).get (Reg.JOB_HALT_INFO.CODE j) = e.code % 2 ^ 8 :=
  ((s.stopJob_steady j e).get _ (steadyKey_haltCode hj)).trans (State.get_markHalting_code _ j e)

theorem State.stopJob_haltUnit (s : State) {j : Nat} (e : ErrAt) (hj : j < 8) :
    (s.stopJob j e).get (Reg.JOB_HALT_INFO.UNIT j) = e.unit % 2 ^ 4 :=
  ((s.stopJob_steady j e).get _ (steadyKey_haltUnit hj)).trans (State.get_markHalting_unit _ j e)

end

end Sys2Proof.Machine
end

section
/-! The host link: its events, the window and D3hot (R335, R390, R425, R462 to R469, R477, R478). -/

namespace Sys2Proof.Machine

/-! ## D3hot (R464) -/

/-- A job that runs is halted where its turn comes, and every other job's state stays (R464). -/
theorem State.haltAll_step (s : State) (i : Nat) {j : Nat} (hj : j < 8) :
    (if s.jobState i = 2 ∨ s.jobState i = 3 then s.haltJob i else s).jobState j =
      if i = j ∧ (s.jobState j = 2 ∨ s.jobState j = 3) then 4 else s.jobState j := by
  by_cases hij : i = j
  · subst hij
    by_cases hrun : s.jobState i = 2 ∨ s.jobState i = 3
    · simp only [hrun, if_true, and_self]
      exact State.stopJob_jobState s _ hj
    · simp [hrun]
  · simp only [hij, false_and, if_false]
    split
    · exact State.stopJob_jobState_other s _ hj (fun h => hij h.symm)
    · rfl

theorem State.haltEach_jobState (s : State) (l : List Nat) {j : Nat} (hj : j < 8) :
    (l.foldl (fun (t : State) i => if t.jobState i = 2 ∨ t.jobState i = 3 then t.haltJob i else t) s).jobState j =
      if j ∈ l ∧ (s.jobState j = 2 ∨ s.jobState j = 3) then 4 else s.jobState j := by
  induction l generalizing s with
  | nil => simp
  | cons i l ih =>
    rw [List.foldl_cons, ih, State.haltAll_step s i hj]
    by_cases hij : i = j
    · subst hij
      by_cases hrun : s.jobState i = 2 ∨ s.jobState i = 3
      · simp [hrun]
      · simp [hrun]
    · simp [hij, Ne.symm hij]

/-- D3hot halts the jobs that run (R464). -/
theorem State.enterD3hot_jobState {s : State} {j : Nat} (hj : j < 8) (hrun : s.jobState j = 2 ∨ s.jobState j = 3) :
    s.enterD3hot.jobState j = 4 := by
  have hall : s.haltAll.jobState j = _ := State.haltEach_jobState s (List.range 8) hj
  have hkeep (t : State) : ({ t with pcie := { s.pcie with d3hot := true } } : State).jobState j = t.jobState j := rfl
  exact (hkeep s.haltAll).trans (hall.trans (if_pos ⟨List.mem_range.mpr hj, hrun⟩))

/-! ## IDE (R478) -/

/-- The error that a failed IDE check is counted as. -/
def ideErr : ErrAt := { code := 0x13, island := 523 }

theorem exec_ideCheckFail (s : State) {n : Nat} (hn : n < 4) :
    exec (.ideCheckFail n) s = .next ((s.noteErr ideErr).setStream n { s.stream n with secure := false }) := by
  show inUnits (n < 4) (.next ((s.raiseErr ideErr).setStream n { s.stream n with secure := false })) = _
  rw [State.raiseErr_of_no_job s (e := ideErr) rfl]
  simp [inUnits, hn]

/-! ## The window (R335, R468) -/

theorem exec_windowRead_one {s : State} {o : Nat} (hin : s.inWindow o 1 = true) (hdown : s.aon.down = false) :
    exec (.windowRead o 1) s = .next (s.windowRead o 1) := by
  show execWindowRead o 1 s = _
  simp [execWindowRead, inUnits, hin, hdown]

/-- A one-byte read that is allowed counts the byte and answers it. -/
theorem State.windowRead_of_allowed {s : State} {o : Nat} {b : Byte} (h : s.winRead (s.winAddr o) = (0, b)) :
    s.windowRead o 1 = { s.countMem (s.winPhys (s.winAddr o)) 1 false with mmioData := b.toNat } := by
  simp [State.windowRead, h, winCode, firstCode, State.winRefuse, leNat]

/-- A one-byte read that is refused is counted under its code and reads as all ones. -/
theorem State.windowRead_of_refused {s : State} {o c : Nat} (h : s.winRead (s.winAddr o) = (c, 0xFF))
    (hc : c = 0x04 ∨ c = 0x06 ∨ c = 0x0A) :
    s.windowRead o 1 = { s.raiseErr { code := c, island := 523 } with mmioData := 0xFF } := by
  rcases hc with rfl | rfl | rfl <;>
    simp [State.windowRead, h, winCode, firstCode, State.winRefuse, leNat]

theorem exec_windowWrite_one {s : State} {o : Nat} (hin : s.inWindow o 1 = true) (hdown : s.aon.down = false)
    (hpairs : s.pairsFailed = false) (b : Byte) : exec (.windowWrite o [b]) s =
      .next ((s.winWrite (s.winAddr o) b).1.winRefuse (winCode [(s.winWrite (s.winAddr o) b).2])) := by
  show execWindowWrite o [b] s = _
  simp [execWindowWrite, inUnits, hin, hdown, hpairs, State.winWriteAll]

/-- A one-byte write that is allowed. -/
theorem exec_windowWrite_of_allowed {s t : State} {o : Nat} (hin : s.inWindow o 1 = true) (hdown : s.aon.down = false)
    (hpairs : s.pairsFailed = false) {b : Byte} (h : s.winWrite (s.winAddr o) b = (t, 0)) :
    exec (.windowWrite o [b]) s = .next t := by
  rw [exec_windowWrite_one hin hdown hpairs, h]
  rfl

/-- A one-byte write that is refused is counted under its code. -/
theorem exec_windowWrite_of_refused {s : State} {o c : Nat} (hin : s.inWindow o 1 = true) (hdown : s.aon.down = false)
    (hpairs : s.pairsFailed = false) {b : Byte} (h : s.winWrite (s.winAddr o) b = (s, c))
    (hc : c = 0x04 ∨ c = 0x06 ∨ c = 0x0A) :
    exec (.windowWrite o [b]) s = .next (s.raiseErr { code := c, island := 523 }) := by
  rw [exec_windowWrite_one hin hdown hpairs, h]
  rcases hc with rfl | rfl | rfl <;> rfl

end Sys2Proof.Machine

namespace Sys2Proof.Proofs
open Sys2Proof.Machine

/-- Settles O42: each event of the host link by its definition, D3hot by the stop of each job in its turn, and the window by
what a one-byte access that is allowed or refused comes to. -/
theorem hostLinkComplete : Obligations.HostLinkComplete := by
  unfold Obligations.HostLinkComplete
  refine ⟨?_, ?_, ?_, ?_, ?_, ?_, ?_, ?_, ?_, ?_, ?_, ?_, ?_, ?_, ?_, ?_, ?_, ?_⟩
  · intro r w s hr hw hperst hdown
    show execPcieLinkL0 r w s = _
    simp only [execPcieLinkL0, inUnits, hr, hw, hperst, hdown, Bool.and_self, Bool.or_self, if_true, Bool.false_eq_true, if_false]
  · intro q s hready
    show execConfigRequest q s = _
    simp [execConfigRequest, hready]
  · intro s hready
    have hreq (q : ConfigReq) : exec (.configRequest q) s = .next (s.configWrite q) := by
      show execConfigRequest q s = _
      simp [execConfigRequest, hready]
    exact ⟨hreq _, fun _ => hreq _, fun _ _ => hreq _, hreq _, hreq _⟩
  · exact fun s => ⟨rfl, rfl, fun j hj hrun => State.enterD3hot_jobState hj hrun⟩
  · intro v s hv hpend hsend
    show execMsixSend v s = _
    simp [execMsixSend, inUnits, hv, State.msixSend, hpend, hsend]
  · intro v s hv hnot
    show execMsixSend v s = _
    rcases hnot with h | h <;> simp [execMsixSend, inUnits, hv, State.msixSend, h]
  · intro m obj s hm hdown hreq hlen htype
    show execDoeObject m obj s = _
    have hlong : ¬ 16384 < obj.length := by omega
    simp [execDoeObject, inUnits, hm, State.doeArrive, hdown, hreq, hlong, doeServed, htype]
  · intro m obj s hm hnot
    show execDoeObject m obj s = _
    have hserved : (doeType obj ≠ (1, 0) ∧ doeType obj ≠ (1, m + 1)) → doeServed m obj = false := by
      rintro ⟨h0, h1⟩
      by_contra hs
      simp only [doeServed, Bool.not_eq_false, Bool.and_eq_true, Bool.or_eq_true, decide_eq_true_eq] at hs
      obtain ⟨ha, hb | hb⟩ := hs
      · exact h0 (Prod.ext ha hb)
      · exact h1 (Prod.ext ha hb)
    rcases hnot with h | h | h
    · simp [execDoeObject, inUnits, hm, State.doeArrive, Option.isSome_iff_ne_none.mpr h]
    · simp [execDoeObject, inUnits, hm, State.doeArrive, h]
    · simp [execDoeObject, inUnits, hm, State.doeArrive, hserved h]
  · intro n s hn
    have hjob : ∀ j ∈ ideErr.job, j < 8 := by simp [ideErr]
    have hnote := (Recorded.refl noteKey s).noteErr ideErr hjob (by decide)
    have hcount := State.noteErr_errCnt s hjob (by decide)
    refine ⟨_, exec_ideCheckFail s hn, ?_⟩
    generalize s.noteErr ideErr = t at hnote hcount
    exact ⟨by simp [State.stream, State.setStream], hcount, hnote.mem⟩
  · intro o s hin hdown hmode hframe howner
    constructor
    · rw [exec_windowRead_one hin hdown, State.windowRead_of_allowed (b := s.memByte (s.winAddr o))
        (by simp [State.winRead, hmode, hframe, howner])]
      simp [State.winPhys, hmode]
    · intro b hpairs
      exact exec_windowWrite_of_allowed hin hdown hpairs (by simp [State.winWrite, hmode, hframe, howner])
  · intro o b s hin hdown hmode hjob hread
    rw [exec_windowRead_one hin hdown, State.windowRead_of_allowed (b := b) (by simp [State.winRead, hmode, hjob, hread])]
  · intro o b p s t hin hdown hmode hjob hwrite hpte hpairs
    exact exec_windowWrite_of_allowed hin hdown hpairs (by simp [State.winWrite, hmode, hjob, hwrite, hpte])
  · intro o b s hin hdown hwhy
    have hread : s.winRead (s.winAddr o) = (0x04, 0xFF) := by
      rcases hwhy with ⟨hmode, hframe, howner⟩ | ⟨hmode, hjob⟩
      · simp [State.winRead, hmode, hframe, howner]
      · simp [State.winRead, hmode, hjob]
    have hwrite : s.winWrite (s.winAddr o) b = (s, 0x04) := by
      rcases hwhy with ⟨hmode, hframe, howner⟩ | ⟨hmode, hjob⟩
      · simp [State.winWrite, hmode, hframe, howner]
      · simp [State.winWrite, hmode, hjob]
    exact ⟨by rw [exec_windowRead_one hin hdown, State.windowRead_of_refused hread (.inl rfl)],
      fun hpairs => exec_windowWrite_of_refused hin hdown hpairs hwrite (.inl rfl)⟩
  · intro o b s hin hdown hmode hframe
    have hread : s.winRead (s.winAddr o) = (0x06, 0xFF) := by simp [State.winRead, hmode, hframe]
    have hwrite : s.winWrite (s.winAddr o) b = (s, 0x06) := by simp [State.winWrite, hmode, hframe]
    exact ⟨by rw [exec_windowRead_one hin hdown, State.windowRead_of_refused hread (.inr (.inl rfl))],
      fun hpairs => exec_windowWrite_of_refused hin hdown hpairs hwrite (.inr (.inl rfl))⟩
  · intro o c s hin hdown hmode hjob hc
    have hcode : c = 0x04 ∨ c = 0x06 ∨ c = 0x0A := by omega
    constructor
    · intro hnone hacc
      have hread : s.winRead (s.winAddr o) = (c, 0xFF) := by simp [State.winRead, hmode, hjob, hnone, hacc]
      rw [exec_windowRead_one hin hdown, State.windowRead_of_refused hread hcode]
    · intro b hnone hacc hpairs
      exact exec_windowWrite_of_refused hin hdown hpairs (by simp [State.winWrite, hmode, hjob, hnone, hacc]) hcode
  · intro o b s hin hpairs
    show execWindowWrite o [b] s = _
    simp [execWindowWrite, inUnits, hin, hpairs]
  · intro v s hopen
    have hwrite : exec (.hifWinWrite v) s = .next (s.writeHifWin v) := by
      show execHifWinWrite v s = _
      simp [execHifWinWrite, State.barWrite_open hopen]
    constructor
    · intro hcode
      simp [hwrite, State.writeHifWin, hcode]
    · intro hcode
      simp [hwrite, State.writeHifWin, hcode]
  · intro n s hlo hhi
    have hexec : exec (.bar2Resize n) s = .next (if n = s.pcie.bar2Log2 then s
        else { s.resetWindow with pcie := { s.pcie with bar2Log2 := n } }) := by
      show execBar2Resize n s = _
      simp [execBar2Resize, inUnits, hlo, hhi]
    have hbase : s.resetWindow.get Reg.HIF_WIN.BASE = 0 := by
      simp (disch := decide) only [State.resetWindow, State.clearFld, State.get_put_ne, State.get_put_same]
      rfl
    have hjob : s.resetWindow.get Reg.HIF_WIN.JOB = 0 := by
      simp (disch := decide) only [State.resetWindow, State.clearFld, State.get_put_ne, State.get_put_same]
      rfl
    have hmode : s.resetWindow.get Reg.HIF_WIN.MODE = 0 := State.get_put_same _ _ _
    refine ⟨fun h => by rw [hexec, if_pos h], fun h => ⟨by rw [hexec, if_neg h], hbase, hjob, hmode, rfl⟩⟩

end Sys2Proof.Proofs
end

section
/-! Sensors, clocks and the shutdown (R494 to R498, R505, R587). -/

namespace Sys2Proof.Machine

/-! ## The shutdown (R495, R587) -/

/-- The contexts that are bound stop, and every port's link state is cleared. -/
def State.stopAll (s : State) : State :=
  (List.range 16).foldl (fun (t : State) p => (t.clearLink p).put (Reg.GL_PORT_STATUS.STATE p) 0)
    ((List.range 48).foldl (fun (t : State) i =>
      if t.flag (Reg.CTX_CFG.BOUND (i / 2) (i % 2)) then t.stopCtx (i / 2) (i % 2) else t) s)

theorem Steady.stopAll {r s : State} (h : Steady r s) : Steady r s.stopAll := by
  refine Steady.foldl (h.foldl _ _ (fun _ _ ht => (ht.stopCtx _ _).ite ht)) _ _ (fun t p ht => ?_)
  have hlink : Steady r (t.clearLink p) := ht.upd rfl
  exact hlink.put_high₁ 0

/-- The rails of the four Rings at 550 mV. -/
def State.railsLow (s : State) : State := (List.range 4).foldl (fun (t : State) r => t.put (Reg.RING_PWR.MV r) 550) s

theorem State.get_railsLow (s : State) {r : Nat} (hr : r < 4) : s.railsLow.get (Reg.RING_PWR.MV r) = 550 := by
  have hkey {i : Nat} (h : r ≠ i) : (Reg.RING_PWR.MV r).key ≠ (Reg.RING_PWR.MV i).key := by
    simp only [Fld.key, Reg.RING_PWR.MV]; omega
  show ((((s.put (Reg.RING_PWR.MV 0) 550).put (Reg.RING_PWR.MV 1) 550).put (Reg.RING_PWR.MV 2) 550).put
    (Reg.RING_PWR.MV 3) 550).get (Reg.RING_PWR.MV r) = 550
  by_cases h3 : r = 3
  · subst h3
    exact State.get_put_same _ _ _
  rw [State.get_put_ne _ _ _ _ (hkey h3)]
  by_cases h2 : r = 2
  · subst h2
    exact State.get_put_same _ _ _
  rw [State.get_put_ne _ _ _ _ (hkey h2)]
  by_cases h1 : r = 1
  · subst h1
    exact State.get_put_same _ _ _
  obtain rfl : r = 0 := by omega
  rw [State.get_put_ne _ _ _ _ (hkey h1)]
  exact State.get_put_same _ _ _

theorem State.railsLow_aon (s : State) : s.railsLow.aon = s.aon := rfl

/-- The memories refresh themselves, and the always-on domain, start-up and the host link are down. -/
def State.darkened (s : State) : State :=
  { s with
    hbmSelf := true, ddrSelf := true, power := { s.power with rise := [] }, aon := { s.aon with down := true },
    boot := { s.boot with running := false }, pcie := { s.pcie with linkL0 := false, ready := false } }

theorem State.get_darkened (s : State) (f : Fld) : s.darkened.get f = s.get f := rfl

theorem State.darkened_aon (s : State) : s.darkened.aon = { s.aon with down := true } := rfl

theorem State.shutdown_of_up {s : State} (h : s.aon.down = false) : s.shutdown = s.stopAll.railsLow.darkened := by
  unfold State.shutdown
  rw [h]
  rfl

/-- What a shutdown leaves: the always-on domain as it was but down, the memories refreshing themselves, the rails low. -/
theorem State.shutdown_fields {s : State} (h : s.aon.down = false) :
    s.shutdown.aon = { s.aon with down := true } ∧ s.shutdown.hbmSelf = true ∧ s.shutdown.ddrSelf = true ∧
      ∀ r, r < 4 → s.shutdown.get (Reg.RING_PWR.MV r) = 550 := by
  have hstop := (Steady.refl s).stopAll
  rw [State.shutdown_of_up h]
  generalize s.stopAll = t at hstop ⊢
  refine ⟨?_, rfl, rfl, fun r hr => (State.get_darkened _ _).trans (State.get_railsLow t hr)⟩
  rw [State.darkened_aon, State.railsLow_aon, hstop.aon]

/-- The state in which THERMTRIP shuts the device down: the pin low, and the first sensor recorded. -/
def State.tripped (s : State) (n : Nat) : State :=
  { s.bumpFree with aon := { s.aon with
      trip := if s.aon.trip.isSome then s.aon.trip else some (n, s.stamp 541), tripLow := true } }

theorem exec_thermtrip_some {s : State} {i : Nat} (hi : i < 64) (htemp : 1840 ≤ s.effTemp i) :
    exec (.thermtrip (some i)) s = .next (s.tripped i).shutdown := by
  show inUnits (decide (i < 64)) (.next (s.thermtrip (some i))) = _
  have htrip : s.thermtrip (some i) = (s.tripped i).shutdown := by
    unfold State.thermtrip
    simp only [htemp, decide_true, Bool.not_true, Bool.false_eq_true, if_false]
    rfl
  rw [htrip]
  simp [inUnits, hi]

theorem exec_thermtrip_none (s : State) :
    exec (.thermtrip none) s = .next (s.tripped (s.takeFree 0 % 64)).shutdown := by
  show inUnits true (.next (s.thermtrip none)) = _
  have htrip : s.thermtrip none = (s.tripped (s.takeFree 0 % 64)).shutdown := by
    unfold State.thermtrip
    simp only [Bool.not_true, Bool.false_eq_true, if_false]
    rfl
  rw [htrip]
  rfl

/-- The state in which the loss of a rail shuts the device down: the first rail recorded. -/
def State.supplyLost (s : State) (n : Nat) : State :=
  { s with aon := { s.aon with supply := if s.aon.supply.isSome then s.aon.supply else some (n, s.stamp 541) } }

theorem exec_supplyFault {s : State} {n : Nat} (hn : n < 9) (hperst : s.aon.perst = false) :
    exec (.supplyFault n) s = .next (s.supplyLost n).shutdown := by
  have hexec : exec (.supplyFault n) s =
      inUnits (decide (n < 9)) (.next (if s.aon.perst then s else (s.supplyLost n).shutdown)) := rfl
  rw [hexec, hperst]
  simp [inUnits, hn]

end Sys2Proof.Machine

namespace Sys2Proof.Proofs
open Sys2Proof.Machine

/-- What THERMTRIP comes to, whichever sensor it records. -/
theorem tripped_shutdown {s : State} (n : Nat) (hdown : s.aon.down = false) :
    (s.tripped n).shutdown.aon.down = true ∧ (s.tripped n).shutdown.aon.tripLow = true ∧
      (s.tripped n).shutdown.hbmSelf = true ∧ (s.tripped n).shutdown.ddrSelf = true ∧
      (∀ r, r < 4 → (s.tripped n).shutdown.get (Reg.RING_PWR.MV r) = 550) ∧
      (s.aon.trip = none → (s.tripped n).shutdown.aon.trip = some (n, s.stamp 541)) ∧
      (∀ x, s.aon.trip = some x → (s.tripped n).shutdown.aon.trip = some x) := by
  obtain ⟨haon, hhbm, hddr, hrails⟩ := State.shutdown_fields (s := s.tripped n) hdown
  rw [haon]
  exact ⟨rfl, rfl, hhbm, hddr, hrails, fun h => by simp [State.tripped, h], fun x h => by simp [State.tripped, h]⟩

/-- Settles O44: the shutdown by what the stop of the contexts leaves steady, the other commands by their definitions. -/
theorem sensorsClocksAndShutdownComplete : Obligations.SensorsClocksAndShutdownComplete := by
  unfold Obligations.SensorsClocksAndShutdownComplete
  refine ⟨?_, ?_, ?_, ?_, ?_, ?_, ?_, ?_, ?_, ?_, ?_, ?_⟩
  · intro i temp s hi hlo hhi hdown
    refine ⟨?_, State.sensorUpdate_temp s temp hi⟩
    show execSensorUpdate i temp s = _
    simp [execSensorUpdate, inUnits, hi, hlo, hhi, hdown]
  · intro n temp s hn htemp
    have hexec : exec (.hbmHot n temp) s = execHbmHot n temp s := rfl
    constructor
    · intro hle
      rw [hexec]
      simp [execHbmHot, inUnits, hn, htemp, hle]
    · intro hlt
      rw [hexec]
      simp [execHbmHot, inUnits, hn, htemp, hlt]
  · intro o s hsensor hdown
    cases o with
    | some i =>
      obtain ⟨hi, htemp⟩ := hsensor i rfl
      obtain ⟨hd, hlow, hhbm, hddr, hrails, hfirst, hlater⟩ := tripped_shutdown i hdown
      refine ⟨_, exec_thermtrip_some hi htemp, hd, hlow, hhbm, hddr, hrails, ?_, ?_, hlater⟩
      · rintro _ ⟨⟩ hnone
        exact hfirst hnone
      · intro h
        cases h
    | none =>
      obtain ⟨hd, hlow, hhbm, hddr, hrails, hfirst, hlater⟩ := tripped_shutdown (s.takeFree 0 % 64) hdown
      refine ⟨_, exec_thermtrip_none s, hd, hlow, hhbm, hddr, hrails, ?_, ?_, hlater⟩
      · intro i h
        cases h
      · exact fun _ hnone => ⟨_, Nat.mod_lt _ (by decide), hfirst hnone⟩
  · intro i s hi htemp
    show inUnits (decide (i < 64)) (.next (s.thermtrip (some i))) = _
    have hcold : ¬ 1840 ≤ s.effTemp i := by omega
    simp [inUnits, hi, State.thermtrip, hcold]
  · intro n s hn hperst hdown
    obtain ⟨haon, hhbm, -, -⟩ := State.shutdown_fields (s := s.supplyLost n) hdown
    refine ⟨_, exec_supplyFault hn hperst, by rw [haon], hhbm, fun h => ?_, fun x h => ?_⟩
    · rw [haon]
      simp [State.supplyLost, h]
    · rw [haon]
      simp [State.supplyLost, h]
  · intro n s hn hperst
    show execSupplyFault n s = _
    simp [execSupplyFault, inUnits, hn, hperst]
  · exact fun a b c s => rfl
  · intro s hbad hgood
    show execRefClockSwitch s = _
    simp [execRefClockSwitch, hbad, hgood]
  · intro s hwhy
    show execRefClockSwitch s = _
    rcases hwhy with h | h <;> simp [execRefClockSwitch, h]
  · intro s hwhy
    show execRefClocksBad s = _
    rcases hwhy with h | h <;> simp [execRefClocksBad, h]
  · intro s h0 h1
    show execRefClocksBad s = _
    simp [execRefClocksBad, h0, h1]
  · intro i s hi
    have hexec : exec (.clockLockLoss i) s = execClockLockLoss i s := rfl
    refine ⟨fun hnew => ⟨?_, ?_⟩, fun hold => ?_⟩
    · rw [hexec]
      simp [execClockLockLoss, inUnits, hi, hnew]
    · simp [State.islandHeld]
    · rw [hexec]
      simp [execClockLockLoss, inUnits, hi, hold]

end Sys2Proof.Proofs
end

section
/-! Restores and the recovery of the control pairs (R334, R377, R414, R416, R420, R424 to R426). -/

namespace Sys2Proof.Machine

/-! ## The loss of the control pairs (R425) -/

/-- What the loss of the control pairs makes of one job: one that runs is RESTORING, with its contexts quiesced. -/
def State.netStop (s : State) (j : Nat) : State :=
  if s.jobState j = 2 ∨ s.jobState j = 3 then
    let t := if s.jobState j = 2 then
        s.setSn j { s.snOf j with cause := { code := 0x30, island := netIsland }, causeAt := s.netNow, restarts := 0 }
      else s
    ((t.quiesceCtxs j).dropColl j).put (Reg.JOB_STATUS.STATE j) 3
  else s

theorem State.netStop_of_idle {s : State} {j : Nat} (h : ¬ (s.jobState j = 2 ∨ s.jobState j = 3)) : s.netStop j = s :=
  if_neg h

/-- A running job's quiescing leaves steady what the loss of the pairs then marks it RESTORING in. -/
theorem State.netStop_of_running {s : State} {j : Nat} (h : s.jobState j = 2 ∨ s.jobState j = 3) :
    ∃ t, Steady s t ∧ s.netStop j = t.put (Reg.JOB_STATUS.STATE j) 3 := by
  refine ⟨_, ?_, if_pos h⟩
  exact (((Steady.refl s).setSn j _).ite (Steady.refl s)).quiesceCtxs j |>.dropColl j

theorem State.netStop_pairs (s : State) {j : Nat} (hj : j < 8) :
    (s.netStop j).get Reg.NC_STATUS.ACTIVE = s.get Reg.NC_STATUS.ACTIVE := by
  by_cases h : s.jobState j = 2 ∨ s.jobState j = 3
  · obtain ⟨t, ht, hstop⟩ := State.netStop_of_running h
    have hne : Reg.NC_STATUS.ACTIVE.key ≠ (Reg.JOB_STATUS.STATE j).key := by
      simp only [Fld.key, Reg.NC_STATUS.ACTIVE, Reg.JOB_STATUS.STATE]; omega
    rw [hstop, State.get_put_ne _ _ _ _ hne]
    exact ht.get _ steadyKey_pairs
  · rw [State.netStop_of_idle h]

theorem State.netStop_jobState (s : State) (i : Nat) {j : Nat} (hj : j < 8) : (s.netStop i).jobState j =
    if i = j ∧ (s.jobState j = 2 ∨ s.jobState j = 3) then 3 else s.jobState j := by
  by_cases h : s.jobState i = 2 ∨ s.jobState i = 3
  · obtain ⟨t, ht, hstop⟩ := State.netStop_of_running h
    rw [hstop]
    by_cases hij : i = j
    · subst hij
      rw [if_pos ⟨rfl, h⟩]
      exact State.get_put_same _ _ _
    · rw [if_neg (fun hc => hij hc.1), ← ht.jobState hj]
      exact State.get_put_ne _ _ _ _ (by simp only [Fld.key, Reg.JOB_STATUS.STATE]; omega)
  · rw [State.netStop_of_idle h]
    by_cases hij : i = j
    · subst hij
      rw [if_neg (fun hc => h hc.2)]
    · rw [if_neg (fun hc => hij hc.1)]

theorem State.netStops_pairs (s : State) {l : List Nat} (hl : ∀ j ∈ l, j < 8) :
    (l.foldl State.netStop s).get Reg.NC_STATUS.ACTIVE = s.get Reg.NC_STATUS.ACTIVE := by
  induction l generalizing s with
  | nil => rfl
  | cons j l ih =>
    exact (ih _ (fun i hi => hl i (List.mem_cons_of_mem j hi))).trans (s.netStop_pairs (hl j (List.mem_cons_self ..)))

theorem State.netStops_jobState (s : State) (l : List Nat) {j : Nat} (hj : j < 8) :
    (l.foldl State.netStop s).jobState j =
      if j ∈ l ∧ (s.jobState j = 2 ∨ s.jobState j = 3) then 3 else s.jobState j := by
  induction l generalizing s with
  | nil => simp
  | cons i l ih =>
    rw [List.foldl_cons, ih, State.netStop_jobState s i hj]
    by_cases hij : i = j
    · subst hij
      by_cases hrun : s.jobState i = 2 ∨ s.jobState i = 3
      · simp [hrun]
      · simp [hrun]
    · simp [hij, Ne.symm hij]

/-- The state with which the Net Keeper begins: no pair controls, and every job that ran is RESTORING. -/
def State.netStopped (s : State) : State :=
  (List.range 8).foldl State.netStop ((s.put Reg.NC_STATUS.STANDBY_OK 0).put Reg.NC_STATUS.ACTIVE 2)

theorem Steady.sendPacket {r s t : State} (h : Steady r s) {k : Packet} (ht : s.sendPacket k = some t) : Steady r t := by
  unfold State.sendPacket at ht
  obtain ⟨p, -, rfl⟩ := Option.map_eq_some_iff.mp ht
  exact h.sendOn p _

/-- The error that the loss of the pairs is noted as. -/
def netErr : ErrAt := { code := 0x30, island := netIsland }

/-- The Net Keeper's record of the loss, before it shows its state. -/
def State.netNoted (s : State) : State :=
  ((s.raiseErr netErr).setEvent Reg.ERR_DEV_STATUS.NET_LOST_EVT 10).pldmEvent 3

/-- A device below another tells the System Master that its pairs are lost. -/
def State.announceLoss (s : State) : State :=
  if s.get Reg.ST_CTRL.ROLE = 1 then (s.sendPacket { s.snPacket 0 0 6 0 with dst := s.get Reg.GL_MASTER.SYS }).getD s
  else s

theorem State.netLost_eq (s : State) : s.netLost =
    ((({ s.netStopped with hbmSelf := true } : State).netNoted).put Reg.RCV_STATUS.STATE 1).announceLoss := by
  unfold State.netLost State.announceLoss State.netNoted State.netStopped State.netStop
  rfl

theorem Steady.announceLoss {r s : State} (h : Steady r s) : Steady r s.announceLoss :=
  Steady.ite (h.getD (fun _ ht => h.sendPacket ht)) h

theorem Steady.netNoted {r s : State} (h : Steady r s) : Steady r s.netNoted := by
  unfold State.netNoted
  rw [State.raiseErr_of_no_job s (e := netErr) rfl]
  exact ((h.noteErr netErr).setEvent (not_steadyKey_of_high (by decide)) 10).pldmEvent 3

/-- What stands when the Net Keeper has shown its state. -/
theorem State.netLost_steady (s : State) : ∃ t, Steady { s.netStopped with hbmSelf := true } t ∧
    Steady (t.put Reg.RCV_STATUS.STATE 1) s.netLost := by
  refine ⟨_, (Steady.refl _).netNoted, ?_⟩
  rw [State.netLost_eq]
  exact (Steady.refl _).announceLoss

/-- A steady field of the state that the loss of the pairs leaves, the recovery's state apart. -/
theorem State.netLost_get (s : State) {f : Fld} (hf : steadyKey f.key) (hne : f.key ≠ Reg.RCV_STATUS.STATE.key) :
    s.netLost.get f = s.netStopped.get f := by
  obtain ⟨t, ht, hlost⟩ := s.netLost_steady
  have hself (u : State) : ({ u with hbmSelf := true } : State).get f = u.get f := rfl
  rw [hlost.get f hf, State.get_put_ne _ _ _ _ hne, ht.get f hf, hself]

theorem State.netLost_pairs (s : State) : s.netLost.get Reg.NC_STATUS.ACTIVE = 2 := by
  rw [s.netLost_get steadyKey_pairs (by decide)]
  unfold State.netStopped
  rw [State.netStops_pairs _ (fun j hj => List.mem_range.mp hj)]
  exact State.get_put_same _ _ _

theorem State.netLost_recovery (s : State) : s.netLost.get Reg.RCV_STATUS.STATE = 1 := by
  obtain ⟨t, -, hlost⟩ := s.netLost_steady
  rw [hlost.get _ steadyKey_recovery]
  exact State.get_put_same _ _ _

theorem State.netLost_hbmSelf (s : State) : s.netLost.hbmSelf = true := by
  obtain ⟨t, ht, hlost⟩ := s.netLost_steady
  rw [hlost.hbmSelf]
  exact ht.hbmSelf

theorem State.netLost_jobState {s : State} {j : Nat} (hj : j < 8) (hrun : s.jobState j = 2 ∨ s.jobState j = 3) :
    s.netLost.jobState j = 3 := by
  have hkeep : ((s.put Reg.NC_STATUS.STANDBY_OK 0).put Reg.NC_STATUS.ACTIVE 2).jobState j = s.jobState j := by
    unfold State.jobState
    simp (disch := (simp only [Fld.key, Reg.JOB_STATUS.STATE, Reg.NC_STATUS.STANDBY_OK, Reg.NC_STATUS.ACTIVE]; omega))
      only [State.get_put_ne]
  have hne : (Reg.JOB_STATUS.STATE j).key ≠ Reg.RCV_STATUS.STATE.key := by
    simp only [Fld.key, Reg.JOB_STATUS.STATE, Reg.RCV_STATUS.STATE]; omega
  have hstops : s.netStopped.jobState j = _ := State.netStops_jobState _ (List.range 8) hj
  rw [hkeep, if_pos ⟨List.mem_range.mpr hj, hrun⟩] at hstops
  exact (s.netLost_get (steadyKey_jobState hj) hne).trans hstops

/-! ## The recovery commands (R426) -/

theorem exec_reload {s : State} (h : s.Reached) (b : Bool) : exec (.reload b) s = .next (s.writeRcv 1 b) := by
  show Host.Outcome.next (s.hostReaches (fun t => t.writeRcv 1 b)) = _
  rw [State.hostReaches_reached h]

theorem exec_resume {s : State} (h : s.Reached) : exec .resume s = .next (s.writeRcv 2 true) := by
  show Host.Outcome.next (s.hostReaches (fun t => t.writeRcv 2 true)) = _
  rw [State.hostReaches_reached h]

theorem State.rcvCode_reload (s : State) : s.rcvCode 1 = if s.get Reg.RCV_STATUS.STATE = 1 then 0 else 0x04 := by
  by_cases h : s.get Reg.RCV_STATUS.STATE = 1 <;> simp [State.rcvCode, firstCode, h]

theorem State.rcvCode_resume (s : State) : s.rcvCode 2 = if s.get Reg.RCV_STATUS.STATE = 3 then 0 else 0x04 := by
  by_cases h : s.get Reg.RCV_STATUS.STATE = 3 <;> simp [State.rcvCode, firstCode, h]

theorem State.writeRcv_refused {s : State} {cmd : Nat} (h : s.rcvCode cmd ≠ 0) (b : Bool) :
    s.writeRcv cmd b = s.reject (s.rcvCode cmd) 0x590000 none := if_pos h

theorem State.writeRcv_reload {s : State} (h : s.rcvCode 1 = 0) (b : Bool) : s.writeRcv 1 b = s.reloadPairs b := by
  rw [State.writeRcv, if_neg (by simp [h]), if_pos rfl]

theorem State.writeRcv_resume {s : State} (h : s.rcvCode 2 = 0) (b : Bool) : s.writeRcv 2 b = s.resume := by
  rw [State.writeRcv, if_neg (by simp [h]), if_neg (by decide)]

/-- A RELOAD that cannot read the image gives its code. -/
theorem State.reloadPairs_unread (s : State) : s.reloadPairs false = s.put Reg.RCV_STATUS.CODE 5 := by
  simp [State.reloadPairs]

/-- RESUME's part for one job. -/
def State.resumeJob (s : State) (j : Nat) : State := if s.jobState j = 3 then s.restartRestore j else s

theorem State.resumeJobs_of_none {s : State} {l : List Nat} (h : ∀ j ∈ l, s.jobState j ≠ 3) :
    l.foldl State.resumeJob s = s := by
  induction l with
  | nil => rfl
  | cons j l ih =>
    rw [List.foldl_cons, State.resumeJob, if_neg (h j (List.mem_cons_self ..))]
    exact ih (fun i hi => h i (List.mem_cons_of_mem j hi))

theorem State.resume_eq (s : State) : s.resume =
    (List.range 8).foldl State.resumeJob ({ s.put Reg.RCV_STATUS.STATE 0 with hbmSelf := false } : State) := by
  unfold State.resume State.resumeJob
  rfl

/-- Without a job in RESTORING, RESUME restores none. -/
theorem State.resume_of_none {s : State} (h : ∀ j, j < 8 → s.jobState j ≠ 3) :
    s.resume = ({ s.put Reg.RCV_STATUS.STATE 0 with hbmSelf := false } : State) := by
  rw [State.resume_eq]
  refine State.resumeJobs_of_none (fun j hmem => ?_)
  have hj : j < 8 := List.mem_range.mp hmem
  have hne : (Reg.JOB_STATUS.STATE j).key ≠ Reg.RCV_STATUS.STATE.key := by
    simp only [Fld.key, Reg.JOB_STATUS.STATE, Reg.RCV_STATUS.STATE]; omega
  have hget : (s.put Reg.RCV_STATUS.STATE 0).jobState j = s.jobState j := State.get_put_ne _ _ _ _ hne
  have hself (t : State) : ({ t with hbmSelf := false } : State).jobState j = t.jobState j := rfl
  rw [hself, hget]
  exact h j hj

end Sys2Proof.Machine

namespace Sys2Proof.Proofs
open Sys2Proof.Machine

/-- Settles O33: the loss of the pairs by what quiescing the contexts leaves steady, the other commands by their
definitions. -/
theorem restoresAndRecoveryComplete : Obligations.RestoresAndRecoveryComplete := by
  unfold Obligations.RestoresAndRecoveryComplete
  refine ⟨?_, ?_, ?_, ?_, ?_, ?_, ?_, ?_, ?_⟩
  · intro j c i s hj hlo hhi hi
    have hexec : exec (.faultRestore j c i) s = .next ((if c = 0x15 ∧ i < 384 then s.markRetired (i / 16) (i % 16)
        else s).islandFault i c 0 (some j)) := by
      show execFaultRestore j c i s = _
      simp [execFaultRestore, inUnits, hj, hlo, hhi, islandCount, hi]
    refine ⟨fun h => by rw [hexec, if_neg h], fun hc hcore => ?_, fun h => ?_⟩
    · rw [hexec, if_pos ⟨hc, hcore⟩, State.islandFault_core _ hcore, hc]
    · rw [State.islandFault_other s h]
      rfl
  · intro j r s u hj hstate hrcv hswitch hrec hu
    subst hu
    show execRestoreComplete j s = _
    simp [execRestoreComplete, inUnits, hj, State.restoreDone, hstate, hrcv, hswitch, hrec]
  · intro j s hj hpairs hres hlist
    show execResolvePage j s = _
    simp [execResolvePage, inUnits, hj, State.resolvePage, hpairs, State.flag, hres, hlist]
  · intro j v rest p s u hj hpairs hres hlist hpte hu
    have hexec : exec (.resolvePage j) s =
        .next (if (u.resolveList j).isEmpty then u.put (Reg.SN_JOB_STATUS.RESOLVING j) 0 else u) := by
      show execResolvePage j s = _
      simp [execResolvePage, inUnits, hj, State.resolvePage, hpairs, State.flag, hres, hlist, hpte, hu]
    refine ⟨fun h => ?_, fun h => ?_⟩
    · rw [hexec, if_neg (by simpa using h)]
    · rw [hexec, if_pos (by simpa using h)]
  · intro s u hu
    have hexec : exec .lockstep s = .next (if u.flag Reg.NC_STATUS.STANDBY_OK then u.takeOver else u) := by
      have hnote : u = (s.raiseErr { code := 0x11, island := netIsland }).put Reg.NC_STATUS.LOCKSTEP_EVT 1 := hu
      show execLockstep s = _
      rw [execLockstep, ← hnote]
    refine ⟨fun h => ?_, fun h => ?_⟩
    · rw [hexec, if_pos (by simpa [State.flag] using h)]
    · rw [hexec, if_neg (by simpa [State.flag] using h)]
  · exact fun s => rfl
  · exact fun s => ⟨s.netLost_pairs, s.netLost_recovery, s.netLost_hbmSelf, fun j hj hrun => State.netLost_jobState hj hrun⟩
  · intro s hreach
    have hreload (h : s.get Reg.RCV_STATUS.STATE = 1) (b : Bool) : exec (.reload b) s = .next (s.reloadPairs b) := by
      rw [exec_reload hreach, State.writeRcv_reload (by rw [State.rcvCode_reload, if_pos h])]
    refine ⟨fun h => ⟨?_, hreload h true⟩, fun h b => ?_, fun h => ?_, fun h => ?_⟩
    · rw [hreload h, State.reloadPairs_unread]
    · rw [exec_reload hreach, State.writeRcv_refused (by rw [State.rcvCode_reload, if_neg h]; decide)]
    · rw [exec_resume hreach, State.writeRcv_resume (by rw [State.rcvCode_resume, if_pos h])]
    · rw [exec_resume hreach, State.writeRcv_refused (by rw [State.rcvCode_resume, if_neg h]; decide)]
  · exact fun s h => State.resume_of_none h

end Sys2Proof.Proofs
end

section
/-! The job commands START, HALT and RELEASE (R58, R73, R332, R397, R411, R592 to R594). -/

namespace Sys2Proof.Machine

/-! ## Device and host memory -/

/-- From state r to state s neither device nor host memory has changed. -/
structure SameMemory (r s : State) : Prop where
  mem : s.mem = r.mem
  host : s.host = r.host

theorem SameMemory.refl (s : State) : SameMemory s s := ⟨rfl, rfl⟩

section
variable {r s t : State}

theorem SameMemory.upd (h : SameMemory r s) (e : (t.mem, t.host) = (s.mem, s.host)) : SameMemory r t := by
  obtain ⟨hmem, hhost⟩ := Prod.mk.injEq .. ▸ e
  exact ⟨hmem.trans h.mem, hhost.trans h.host⟩

theorem SameMemory.ite {c : Prop} [Decidable c] (h : SameMemory r s) (k : SameMemory r t) :
    SameMemory r (if c then s else t) := by
  split <;> assumption

theorem SameMemory.foldl {α : Type} (h : SameMemory r s) (f : State → α → State) (l : List α)
    (hf : ∀ t a, SameMemory r t → SameMemory r (f t a)) : SameMemory r (l.foldl f s) := by
  induction l generalizing s with
  | nil => exact h
  | cons a l ih => exact ih (hf s a h)

theorem SameMemory.endFence (h : SameMemory r s) (g c : Nat) : SameMemory r (s.endFence g c) :=
  h.foldl _ _ (fun _ _ ht => ht.upd (by rfl))

theorem SameMemory.clearInflight (h : SameMemory r s) (g c : Nat) : SameMemory r (s.clearInflight g c) :=
  SameMemory.foldl (h.upd (by rfl)) _ _ (fun _ _ ht => ht.upd (by rfl))

theorem SameMemory.dropQueues (h : SameMemory r s) (g c : Nat) : SameMemory r (s.dropQueues g c) :=
  SameMemory.clearInflight (h.foldl _ _ (fun _ _ ht => ht.upd (by rfl))) g c

theorem SameMemory.doSplit (h : SameMemory r s) (g : Nat) (on : Bool) : SameMemory r (s.doSplit g on) :=
  SameMemory.foldl (h.upd (by rfl)) _ _ (fun _ _ ht => SameMemory.ite (ht.upd (by rfl)) (ht.upd (by rfl)))

theorem SameMemory.noteBinding (h : SameMemory r s) (g : Nat) (o : Option Nat) : SameMemory r (s.noteBinding g o) := by
  have hbegin : SameMemory r (s.beginShared g o) := by
    unfold State.beginShared
    cases o with
    | none => exact h.upd (by rfl)
    | some c => exact SameMemory.foldl (h.upd (by rfl)) _ _ (fun _ _ ht => ht.upd (by rfl))
  have hend (o : Option Nat) : SameMemory r (s.endShared g o) := by
    unfold State.endShared
    refine SameMemory.foldl (h.upd (by rfl)) _ _ (fun t cx ht => ?_)
    cases o with
    | none => exact ht.upd (by rfl)
    | some c => exact SameMemory.ite (ht.upd (by rfl)) (ht.upd (by rfl))
  exact h.ite ((h.ite hbegin).ite ((hend _).ite h))

theorem SameMemory.unbindCtx (h : SameMemory r s) (g c : Nat) : SameMemory r (s.unbindCtx g c) := by
  unfold State.unbindCtx
  extract_lets alone base t u v w x y
  have hu : SameMemory r u := h.upd (by rfl)
  have hv : SameMemory r v := SameMemory.dropQueues (hu.upd (by rfl)) g c
  have hw : SameMemory r w := hv.endFence g c
  have hx : SameMemory r x := (hw.doSplit g false).ite hw
  have hy : SameMemory r y := SameMemory.ite (hx.upd (by rfl)) hx
  exact hy.noteBinding g alone

theorem SameMemory.endDoubling (h : SameMemory r s) (g : Nat) : SameMemory r (s.endDoubling g) := h.ite (h.upd (by rfl))

theorem SameMemory.freshCtx (h : SameMemory r s) (g c : Nat) : SameMemory r (s.freshCtx g c) := by
  have hlane : SameMemory r (s.resetLane g c) :=
    SameMemory.foldl (h.upd (by rfl)) _ _ (fun _ _ ht => SameMemory.ite (ht.upd (by rfl)) (ht.upd (by rfl)))
  have hfence := hlane.endFence g c
  have hflags (t : State) (ht : SameMemory r t) : SameMemory r
      (((t.put (wvalidFld g c) 0).put (sfmOpenFld g c) 0).put (Reg.RM_PARADE.CVALID g c) 0) := ht.upd (by rfl)
  have hlast (t : State) (ht : SameMemory r t) : SameMemory r
      (if c = 0 then (t.put (Reg.RM_PARADE.HIREG g 0) 0).put (Reg.RM_SFN.HISLOT g) 0 else t) :=
    SameMemory.ite (ht.upd (by rfl)) ht
  exact hlast _ (hflags _ hfence)

end

/-! ## START (R58, R364, R397, R411) -/

/-- The contexts of a job begin anew. -/
def State.freshCtxs (s : State) (j : Nat) : State :=
  (s.jobCtxs j).foldl (fun (t : State) p =>
    let t := (t.freshCtx p.1 p.2).clearSlots p.1 (t.slotsOf p.1 p.2)
    let t := { t with pushSeq := Tab.set 0 t.pushSeq (2 * p.1 + p.2) 0 }
    (t.setCtx p.1 p.2 {}).put (Reg.CTX_STATUS.STATE p.1 p.2) 1) s

/-- The job is RUNNING, both epochs 0, its whole image to copy. -/
def State.markStarted (s : State) (j : Nat) : State :=
  let s := s.put (Reg.JOB_STATUS.STATE j) 2
  let s := (s.put (Reg.SN_EPOCH.CUR j) 0).put (Reg.SN_EPOCH.BASE j) 0
  let s := (s.put (Reg.SN_JOB_STATUS.INCOMPLETE j) 1).put (Reg.SN_JOB_STATUS.PHASE j) 5
  s.setSn j { wholeCopy := true, drain := s.pagesWith j (fun p => p.prot && p.mv) }

/-- The schedule loader at its first entry, and the first beat of the grid opened. -/
def State.startSchedule (s : State) (j : Nat) : State :=
  let s := (s.put (Reg.SCHED_STATUS.SEQ_NEW j) 0).loadPtr j 0
  if s.hasBeat j then
    let t := s.stamp 532
    let o := s.get (Reg.CAL_ORIGIN.T j)
    let num := s.get (Reg.CAL_PERIOD.NUM j)
    let n0 := if num = 0 then 0 else (t - o) * s.get (Reg.CAL_PERIOD.DEN j) / num
    let n := s.firstBeat j t 2 n0
    let a := s.gridAt j n
    let s := s.openBeat j n a
    s.setJobS j { s.jobS j with released := decide (a ≤ t) }
  else s

theorem State.startJob_eq (s : State) (j : Nat) : s.startJob j = ((s.freshCtxs j).markStarted j).startSchedule j := rfl

theorem SameMemory.freshCtxs {r s : State} (h : SameMemory r s) (j : Nat) : SameMemory r (s.freshCtxs j) :=
  h.foldl _ _ (fun _ _ ht => (ht.freshCtx _ _).upd rfl)

theorem SameMemory.startSchedule {r s : State} (h : SameMemory r s) (j : Nat) : SameMemory r (s.startSchedule j) := by
  have hptr : SameMemory r ((s.put (Reg.SCHED_STATUS.SEQ_NEW j) 0).loadPtr j 0) := h.upd rfl
  have hbeat (t : State) (ht : SameMemory r t) (n a : Nat) : SameMemory r (t.openBeat j n a) := ht.upd rfl
  have hjob (t : State) (ht : SameMemory r t) (x : JobS) : SameMemory r (t.setJobS j x) := ht.upd rfl
  exact SameMemory.ite (hjob _ (hbeat _ hptr _ _) _) hptr

theorem SameMemory.startJob {r s : State} (h : SameMemory r s) (j : Nat) : SameMemory r (s.startJob j) := by
  have hmark (t : State) (ht : SameMemory r t) : SameMemory r (t.markStarted j) := ht.upd rfl
  rw [State.startJob_eq]
  exact (hmark _ (h.freshCtxs j)).startSchedule j

/-- The registers of the Calliope area. -/
def calliopeKey (k : Nat) : Prop := 0x400000 * 64 ≤ k ∧ k < 0x500000 * 64

theorem State.startSchedule_keepsRegs (s : State) {j : Nat} (hj : j < 8) :
    KeepsRegs calliopeKey s (s.startSchedule j) := by
  have hjob {t : State} (ht : KeepsRegs calliopeKey s t) (x : JobS) : KeepsRegs calliopeKey s (t.setJobS j x) := ht.congr rfl
  have hptr : KeepsRegs calliopeKey s ((s.put (Reg.SCHED_STATUS.SEQ_NEW j) 0).loadPtr j 0) := by
    refine KeepsRegs.put (KeepsRegs.put (KeepsRegs.put (hjob (KeepsRegs.put (KeepsRegs.refl _ s) ?_ _) _) ?_ _) ?_ _) ?_ _
    all_goals
      simp only [calliopeKey, Fld.key, Reg.SCHED_STATUS.SEQ_NEW, Reg.SCHED_STATUS.PTR, Reg.SCHED_STATUS.REMAIN,
        Reg.SCHED_STATUS.AT_END]
      omega
  have hbeat {t : State} (ht : KeepsRegs calliopeKey s t) (n a : Nat) : KeepsRegs calliopeKey s (t.openBeat j n a) := by
    refine hjob (KeepsRegs.put (KeepsRegs.put (KeepsRegs.put (KeepsRegs.put (KeepsRegs.put (KeepsRegs.put ht
      ?_ _) ?_ _) ?_ _) ?_ _) ?_ _) ?_ _) _
    all_goals
      simp only [calliopeKey, Fld.key, Reg.CAL_BEAT.N, Reg.CAL_RELEASE.T, Reg.CAL_LATE.LATE, Reg.CAL_LATE.CUT,
        Reg.CAL_STATUS.CLOSED, Reg.CAL_STATUS.ACTIVE]
      omega
  exact KeepsRegs.ite (hjob (hbeat hptr _ _) _) hptr

/-- A field outside the Calliope area reads after START as it was marked. -/
theorem State.get_startJob (s : State) {j : Nat} (hj : j < 8) {f : Fld} (hf : ¬ calliopeKey f.key) :
    (s.startJob j).get f = ((s.freshCtxs j).markStarted j).get f := by
  rw [State.startJob_eq]
  exact State.startSchedule_keepsRegs _ hj f hf

theorem State.markStarted_fields (s : State) (j : Nat) : (s.markStarted j).jobState j = 2 ∧
    (s.markStarted j).get (Reg.SN_EPOCH.CUR j) = 0 ∧ (s.markStarted j).get (Reg.SN_EPOCH.BASE j) = 0 ∧
    (s.markStarted j).get (Reg.SN_JOB_STATUS.INCOMPLETE j) = 1 := by
  have hsn (t : State) (x : SnS) (f : Fld) : (t.setSn j x).get f = t.get f := rfl
  unfold State.markStarted State.jobState
  dsimp only
  refine ⟨?_, ?_, ?_, ?_⟩
  all_goals
    rw [hsn]
    simp (disch := (simp only [Fld.key, Reg.JOB_STATUS.STATE, Reg.SN_EPOCH.CUR, Reg.SN_EPOCH.BASE,
      Reg.SN_JOB_STATUS.INCOMPLETE, Reg.SN_JOB_STATUS.PHASE]; omega)) only [State.get_put_ne, State.get_put_same]
    rfl

/-! ## RELEASE (R332, R593) -/

/-- The contexts of a job are unbound, with the slots and the doubling that were theirs. -/
def State.unbindAll (s : State) (j : Nat) : State :=
  let cs := s.jobCtxs j
  let s := cs.foldl (fun (t : State) p => t.clearSlots p.1 (t.slotsOf p.1 p.2)) s
  let s := cs.foldl (fun t p => t.unbindCtx p.1 p.2) s
  cs.foldl (fun t p => t.endDoubling p.1) s

theorem SameMemory.unbindAll {r s : State} (h : SameMemory r s) (j : Nat) : SameMemory r (s.unbindAll j) := by
  unfold State.unbindAll
  exact SameMemory.foldl (SameMemory.foldl (h.foldl _ _ (fun _ _ ht => ht.upd (by rfl))) _ _ (fun _ _ ht => ht.unbindCtx _ _)) _ _
    (fun _ _ ht => ht.endDoubling _)

/-- The job's areas are cleared, and its frames are `DIRTY`. -/
def State.clearJob (s : State) (j : Nat) : State :=
  let s := ((((s.clearRegs (jobOff j 0) 0x10000).clearRegs (0x600000 + j * 0x20000) 0x20000).clearRegs
    (0x400000 + j * 0x20000) 0x20000).clearRegs (0x500000 + j * 0x10000) 0x10000)
  let s := s.put (Reg.CAL_CFG.SHRINK j) s.shrinkReset
  let s := { s with
    spotter := Tab.clearRange s.spotter (spotKey j 0 0 0) (64 * 110)
    cq := Tab.clearRange s.cq (jobQueue j 0) 32
    tlb := s.tlb.filter (fun e => e.1 / 2 ^ 31 % 8 ≠ j)
    coll := Tab.clearRange s.coll (64 * j) 64 }
  ((s.setSn j {}).setJobS j {}).freeFrames j

/-- The job's trace queue is reset, but for `CQ_CFG` and `CQ_BASE` (R387). -/
def State.resetTrace (s : State) (j : Nat) : State :=
  let f := cqFlds (1 + j)
  let s := s.cqReset (1 + j)
  (((((s.put f.trunc 0).put f.drop 0).put f.evtCnt 0).put f.drops 0).put f.stall 0).put
    (Reg.TQ_STALL_CLK_SH.COUNT (1 + j)) 0

theorem State.releaseJob_eq (s : State) (j : Nat) : s.releaseJob j = ((s.unbindAll j).clearJob j).resetTrace j := rfl

theorem SameMemory.releaseJob {r s : State} (h : SameMemory r s) (j : Nat) : SameMemory r (s.releaseJob j) := by
  have hclear (t : State) (ht : SameMemory r t) : SameMemory r (t.clearJob j) := ht.upd rfl
  have htrace (t : State) (ht : SameMemory r t) : SameMemory r (t.resetTrace j) := ht.upd rfl
  rw [State.releaseJob_eq]
  exact htrace _ (hclear _ (h.unbindAll j))

theorem State.clearJob_jobState (s : State) {j : Nat} (hj : j < 8) : (s.clearJob j).jobState j = 0 := by
  have hcal : (Reg.JOB_STATUS.STATE j).key ≠ (Reg.CAL_CFG.SHRINK j).key := by
    simp only [Fld.key, Reg.JOB_STATUS.STATE, Reg.CAL_CFG.SHRINK]; omega
  have hout (t : State) {off n : Nat} (h : ¬ (off * 64 ≤ (Reg.JOB_STATUS.STATE j).key ∧
      (Reg.JOB_STATUS.STATE j).key < off * 64 + n * 64)) (ht : t.jobState j = 0) : (t.clearRegs off n).jobState j = 0 :=
    (State.get_clearRegs_of_not_mem t h).trans ht
  have hrest (t : State) (a : Tab Nat) (b : Tab CqS) (c : Tab Nat) (d : Tab CollS) (x : SnS) (y : JobS) :
      (((({ t with spotter := a, cq := b, tlb := c, coll := d } : State).setSn j x).setJobS j y).freeFrames j).jobState j =
        t.jobState j := rfl
  unfold State.clearJob
  dsimp only
  refine (hrest _ _ _ _ _ _ _).trans ((State.get_put_ne _ _ _ _ hcal).trans ?_)
  refine hout _ ?_ (hout _ ?_ (hout _ ?_ (State.get_clearRegs_of_mem s ?_ ?_)))
  all_goals
    simp only [Fld.key, Reg.JOB_STATUS.STATE, jobOff]
    omega

theorem State.resetTrace_jobState (s : State) {j : Nat} (hj : j < 8) : (s.resetTrace j).jobState j = s.jobState j := by
  have hkeeps : KeepsRegs (fun k => 0x702000 * 64 ≤ k) s (s.resetTrace j) := by
    have hcq : KeepsRegs (fun k => 0x702000 * 64 ≤ k) s (s.setCq (1 + j) {}) := (KeepsRegs.refl _ s).congr rfl
    have hq : 1 + j < 9 := by omega
    unfold State.resetTrace State.cqReset
    simp only [cqFlds, hq, if_true]
    refine KeepsRegs.put (KeepsRegs.put (KeepsRegs.put (KeepsRegs.put (KeepsRegs.put (KeepsRegs.put (KeepsRegs.put
      (KeepsRegs.put (KeepsRegs.put hcq ?_ _) ?_ _) ?_ _) ?_ _) ?_ _) ?_ _) ?_ _) ?_ _) ?_ _
    all_goals
      simp only [Fld.key, Reg.TQ_PUT.COUNT, Reg.TQ_GET.COUNT, Reg.TQ_STATUS.OPEN, Reg.TQ_STATUS.TRUNC_EVT,
        Reg.TQ_STATUS.DROP_EVT, Reg.TQ_STATUS.EVT_CNT, Reg.TQ_DROPS.COUNT, Reg.TQ_STALL_CLK.COUNT,
        Reg.TQ_STALL_CLK_SH.COUNT]
      omega
  refine hkeeps _ ?_
  simp only [Fld.key, Reg.JOB_STATUS.STATE]
  omega

theorem State.releaseJob_jobState (s : State) {j : Nat} (hj : j < 8) : (s.releaseJob j).jobState j = 0 := by
  rw [State.releaseJob_eq, State.resetTrace_jobState _ hj, State.clearJob_jobState _ hj]

/-- A table whose entries of one value are dropped holds that value nowhere, unless it is the default. -/
theorem Tab.get_filter_value {d x : Nat} (hd : d ≠ x) (t : Tab Nat) (k : Nat) :
    Tab.get d (t.filter (fun e => e.2 ≠ x)) k ≠ x := by
  induction t with
  | nil => exact hd
  | cons e t ih =>
    by_cases hx : e.2 = x
    · simpa [hx] using ih
    · by_cases hk : k = e.1
      · simp [Tab.get, hx, hk]
      · simpa [Tab.get, hx, hk] using ih

theorem State.releaseJob_owner (s : State) {j : Nat} (hj : j < 8) (d : Nat) : Tab.get 0xE (s.releaseJob j).owner d ≠ j := by
  have hclear (t : State) : ∃ o : Tab Nat, (t.clearJob j).owner = o.filter (fun e => e.2 ≠ j) := ⟨_, rfl⟩
  have htrace (t : State) : (t.resetTrace j).owner = t.owner := rfl
  obtain ⟨o, ho⟩ := hclear (s.unbindAll j)
  rw [State.releaseJob_eq, htrace, ho]
  exact Tab.get_filter_value (by omega) o d

/-! ## The commands -/

/-- A write of `JOB_CTRL` that reaches a device whose pairs stand. -/
theorem exec_jobCtrl {s : State} (h : s.Open) {j : Nat} (hj : j < 8) :
    exec (.start j) s = .next (s.writeJobCtrl j 1) ∧ exec (.haltCommand j) s = .next (s.writeJobCtrl j 2) ∧
      exec (.release j) s = .next (s.writeJobCtrl j 3) := by
  have hwrite (cmd : Nat) : inUnits (decide (j < 8)) (.next (s.barWrite (fun t => t.writeJobCtrl j cmd))) =
      (.next (s.writeJobCtrl j cmd) : Ans) := by
    rw [State.barWrite_open h]
    simp [inUnits, hj]
  exact ⟨hwrite 1, hwrite 2, hwrite 3⟩

theorem State.writeJobCtrl_accepted {s : State} {j cmd : Nat} (h : s.jobCmdCode j cmd = 0) :
    s.writeJobCtrl j cmd = s.runJobCmd j cmd := if_pos h

theorem State.writeJobCtrl_refused {s : State} {j cmd : Nat} (h : s.jobCmdCode j cmd ≠ 0) :
    s.writeJobCtrl j cmd = s.reject (s.jobCmdCode j cmd) (jobOff j 0) (some j) := if_neg h

theorem State.jobCmdCode_halt (s : State) (j : Nat) :
    s.jobCmdCode j 2 = if s.jobState j = 2 ∨ s.jobState j = 3 then 0 else 0x04 := rfl

theorem State.jobCmdCode_release (s : State) (j : Nat) :
    s.jobCmdCode j 3 = if s.jobState j = 5 ∨ s.jobState j = 6 then 0 else 0x04 := rfl

end Sys2Proof.Machine

namespace Sys2Proof.Proofs
open Sys2Proof.Machine

/-- Settles O14: START by the marks that the schedule's loading leaves, HALT by what a job's stop leaves steady, RELEASE by
the clearing of the job's areas. -/
theorem startHaltReleaseComplete : Obligations.StartHaltReleaseComplete := by
  unfold Obligations.StartHaltReleaseComplete
  refine ⟨?_, ?_, ?_, ?_⟩
  · intro j s hj hopen hcode
    obtain ⟨hstate, hcur, hbase, hinc⟩ := State.markStarted_fields (s.freshCtxs j) j
    have hmemory := (SameMemory.refl s).startJob j
    refine ⟨?_, ?_, ?_, ?_, ?_, hmemory.mem, hmemory.host⟩
    · rw [(exec_jobCtrl hopen hj).1, State.writeJobCtrl_accepted (cmd := 1) hcode]
      rfl
    · exact (State.get_startJob s hj (by simp only [calliopeKey, Fld.key, Reg.JOB_STATUS.STATE]; omega)).trans hstate
    · exact (State.get_startJob s hj (by simp only [calliopeKey, Fld.key, Reg.SN_EPOCH.CUR]; omega)).trans hcur
    · exact (State.get_startJob s hj (by simp only [calliopeKey, Fld.key, Reg.SN_EPOCH.BASE]; omega)).trans hbase
    · exact (State.get_startJob s hj (by simp only [calliopeKey, Fld.key, Reg.SN_JOB_STATUS.INCOMPLETE]; omega)).trans hinc
  · intro j s hj hopen hrun
    refine ⟨?_, State.stopJob_jobState s _ hj, State.stopJob_haltCode s _ hj, State.stopJob_haltUnit s _ hj⟩
    rw [(exec_jobCtrl hopen hj).2.1, State.writeJobCtrl_accepted (by rw [State.jobCmdCode_halt, if_pos hrun])]
    rfl
  · intro j s hj hopen hdone
    have hmemory := (SameMemory.refl s).releaseJob j
    refine ⟨?_, State.releaseJob_jobState s hj, State.releaseJob_owner s hj, hmemory.mem, hmemory.host⟩
    rw [(exec_jobCtrl hopen hj).2.2, State.writeJobCtrl_accepted (by rw [State.jobCmdCode_release, if_pos hdone])]
    rfl
  · intro j s hj hopen
    obtain ⟨hstart, hhalt, hrelease⟩ := exec_jobCtrl hopen hj
    refine ⟨fun h => ?_, fun h2 h3 => ?_, fun h5 h6 => ?_⟩
    · rw [hstart, State.writeJobCtrl_refused (cmd := 1) h]
      rfl
    · have hcode : s.jobCmdCode j 2 = 0x04 := by rw [State.jobCmdCode_halt, if_neg (by tauto)]
      rw [hhalt, State.writeJobCtrl_refused (by rw [hcode]; decide), hcode]
    · have hcode : s.jobCmdCode j 3 = 0x04 := by rw [State.jobCmdCode_release, if_neg (by tauto)]
      rw [hrelease, State.writeJobCtrl_refused (by rw [hcode]; decide), hcode]

end Sys2Proof.Proofs
end

section
/-! A fault of a protected job whose core is doubled by a number past the last core (R415, R420). -/

namespace Sys2Proof.Proofs
open Sys2Proof.Machine

/-- The number past the cores whose bit of `SN_CORE_RET` is the lowest bit of `ERR_CNT[0x10]`. -/
def coreOfErrCnt : Nat := (0x701000 + 0x10 * 8 - 0x580010) / 8 * 64

/-- Job 0 runs with the Safety Net and doubling on. Its context enables core 0 of troupe 0, whose cores are all retired; that
number stands as the core that doubles for it. -/
def doubledPastCores : State :=
  { [(Reg.JOB_STATUS.STATE 0, 2), (Reg.JOB_CTX_MASK.MASK 0, 1), (Reg.SN_CFG.EN 0, 1), (Reg.SN_CFG.DOUBLE 0, 1),
      (Reg.CTX_CFG.CORE_EN 0 0, 1), (Reg.SN_CORE_RET.MASK 0, 0xFFFF)].foldl (fun t p => t.put p.1 p.2) State.reset with
    doubler := [(0, some coreOfErrCnt)] }

/-- The conditions on the job: it runs, the pairs stand, the Safety Net is on, and no core bars a restore. -/
theorem doubledPastCores_protected : doubledPastCores.jobState 0 = 2 ∧ doubledPastCores.pairsFailed = false ∧
    doubledPastCores.flag (Reg.SN_CFG.EN 0) = true ∧ doubledPastCores.get (Reg.SN_JOB_STATUS.INCOMPLETE 0) = 0 ∧
    doubledPastCores.coreBars 0 = false := by
  decide +kernel

/-- No epoch has passed, no Curtain or page operation is in progress, and the job is local. -/
theorem doubledPastCores_quiet :
    doubledPastCores.get (Reg.SN_EPOCH.CUR 0) = doubledPastCores.get (Reg.SN_EPOCH.BASE 0) ∧ doubledPastCores.phase 0 = 0 ∧
    doubledPastCores.group 0 = 0 ∧ doubledPastCores.coll = [] ∧ doubledPastCores.pageOp = none := by
  decide +kernel

/-- The fault is counted, which reads as the doubling core's retirement: the job stops (R415). -/
theorem doubledPastCores_islandFault_jobState : (doubledPastCores.islandFault 408 0x10 0 (some 0)).jobState 0 = 4 := by
  decide +kernel

theorem doubledPastCores_faultRestore :
    exec (.faultRestore 0 0x10 408) doubledPastCores = .next (doubledPastCores.islandFault 408 0x10 0 (some 0)) := rfl

/-- Refutes O34: where the core that doubles for a retired one is a number past the last core, its bit of `SN_CORE_RET` is the
lowest bit of `ERR_CNT[0x10]`; the count of the fault itself then bars the restore, and the job is HALTING, not RESTORING. -/
theorem not_faultsOfProtectedJobsRestore : ¬ Obligations.FaultsOfProtectedJobsRestore := by
  unfold Obligations.FaultsOfProtectedJobsRestore
  intro h
  obtain ⟨hrun, hpairs, hen, hcomplete, hbars⟩ := doubledPastCores_protected
  obtain ⟨hepoch, hphase, hgroup, hcoll, hpage⟩ := doubledPastCores_quiet
  obtain ⟨t, hexec, hstate, -⟩ := h 0 0x10 408 doubledPastCores (by decide) (by decide) (by decide) (by decide) (by decide)
    (by decide) hrun hpairs hen hcomplete hbars hepoch hphase hgroup hcoll hpage
  rw [doubledPastCores_faultRestore] at hexec
  rw [← Host.Outcome.next.inj hexec, doubledPastCores_islandFault_jobState] at hstate
  exact absurd hstate (by decide)

end Sys2Proof.Proofs
end
